-- ==== Sys2Proof/Word.lean ====
section
/-! DEFINITION. The word types of the model and the type of its sparse tables. -/

namespace Sys2Proof

/-- A byte of memory. -/
abbrev Byte := BitVec 8
/-- A 32-bit word: a slot of a bank long word, an FP32 value. -/
abbrev Word32 := BitVec 32
/-- A 64-bit word: a register of BAR0, a lesson parameter. -/
abbrev Word64 := BitVec 64
/-- The 32 data bytes of a column or of a vector-file line, byte 0 in bits [7:0]. -/
abbrev Line := BitVec 256

/-- A sparse table: keys strictly rising, no entry equal to what an unlisted key reads as. -/
abbrev Table (V : Type) := List (Nat × V)

end Sys2Proof
end

