-- ==== Sys2Proof/Syntax.lean ====
section
/-! DEFINITION. The commands of the block: one constructor for each row of spec/opcode_table.json. The table gives no
operands; those here are the model's (log 1). -/

namespace Sys2Proof

/-- A time word of an IDLE frame (R440). -/
structure TimeWord where
  txTime : Nat
  txFrac : BitVec 16
  master : Option (BitVec 14)
  depth : Nat
  ownFault : Bool
  holdover : Bool
  rollLead : BitVec 16
  echoTime : Nat
  turnaround : Nat
  bellPeriod : Nat
  nextPeriod : Nat
  changeAt : Nat
  rosterVer : Nat
  deriving DecidableEq, Repr

/-- One roster entry: position, identifier, master (R449 ROSTER). -/
structure RosterEntry where
  pos : Nat
  ident : BitVec 14
  master : Bool
  deriving DecidableEq, Repr

/-- What a PEN_BIND frame is (R296, R419): a request, the owner's answer, or the giving back of a binding (log 45). -/
inductive BindWord where
  | request | yes | no | back
  deriving DecidableEq, Repr

/-- The fields of a received frame but its type, payload and CRC, with the port it came by: 0 E0, 1 E1, 2 W0, 3 W1 (R418). -/
structure FrameHead where
  port : Fin 4
  src : BitVec 14
  dst : BitVec 14
  bcast : Bool
  last : Bool
  hops : BitVec 8
  lseq : BitVec 16
  lack : BitVec 16
  cred : BitVec 32
  eseq : BitVec 32
  deriving DecidableEq, Repr

/-- What a write names when its entry or register has no behaviour of its own (R494). -/
inductive RegTarget where
  /-- A dictionary entry over CAN FD: index, sub-index, value bytes. -/
  | od (idx : BitVec 16) (sub : BitVec 8) (value : List Byte)
  /-- A BAR0 register: byte offset and 64-bit value. -/
  | bar (off : BitVec 21) (value : BitVec 64)
  deriving DecidableEq, Repr

/-- The data of a CXL.mem write: 64 bytes, byte enables, poison bit (R375). -/
structure WriteData where
  data : BitVec 512
  enables : BitVec 64
  poison : Bool
  deriving DecidableEq, Repr

/-- A transfer action of Transfer FW (R529). -/
inductive FwAction where
  | full | initiate | continue | endAction | abort
  deriving DecidableEq, Repr

/-- A box request of ALLOC (R194, R407). -/
structure Box where
  stackLo : Nat
  stackHi : Nat
  dieLo : Nat
  dieHi : Nat
  bankLo : Nat
  bankHi : Nat
  deriving DecidableEq, Repr

/-- A CAN bus state named by a change of the error counters (R509, R502). -/
inductive CanState where
  | active | passive | busOff
  deriving DecidableEq, Repr

/-- The start of a beat of a quadrant, with the bank units whose late lines rise at it (R63). -/
structure BeatStart where
  q : Fin 4
  late : List Nat
  deriving DecidableEq, Repr

/-- A recess: its class (R131), and the bank units whose late lines rise in its beats. -/
structure RecessStart where
  rclass : BitVec 2
  late : List Nat
  deriving DecidableEq, Repr

/-- A die of a stack, 16 for its base die. -/
structure DieName where
  st : Fin 20
  die : Fin 17
  deriving DecidableEq, Repr

/-- A command that fails parity: its sequence tag, and whether it is the one that failed last (R352, R354). -/
structure FailedCommand where
  tag : BitVec 6
  again : Bool
  deriving DecidableEq, Repr

/-- What a join meets in the ring: a time word where a master answered, and the names that the ports' partners announce (R413, R430). -/
structure JoinMet where
  word : Option TimeWord
  partners : List (Option (Fin 4))
  deriving DecidableEq, Repr

/-- A port and the name that its partner announces (R413). -/
structure LinkEnds where
  port : Fin 4
  partner : Fin 4
  deriving DecidableEq, Repr

/-- The sub-index of an OD_READ or OD_WRITE with the reserved byte after it, which is 0 (R512). -/
structure OdSub where
  sub : BitVec 8
  reserved : BitVec 8
  deriving DecidableEq, Repr

/-- What a USDO download request brings (R507): a whole value, or the first, a further or the last segment of one. -/
inductive UsdoPart where
  | expedited | first | middle | last
  deriving DecidableEq, Repr

/-- A USDO upload request (R507): of an entry, or of the next segment of the upload in progress. -/
structure UsdoAsk where
  sub : BitVec 8
  segment : Bool
  deriving DecidableEq, Repr

/-- The answer of a regulator to a poll: its telemetry and its PMBus status word (R474, R509). -/
structure PmbusAnswer where
  telemetry : BitVec 128
  status : BitVec 16
  deriving DecidableEq, Repr

/-- The commands. -/
inductive Instr where
  -- issue and the bank-unit pipeline
  | issueWord (q : Fin 4) (late : List Nat)
  | lateComplete (q : Fin 4)
  | forcedCompletion (q : Fin 4)
  | resultVisible (b : BeatStart)
  | maskedWriteMerge (q : Fin 4)
  | columnWriteDrain (st : Fin 20)
  -- row and column slots: quadrant, context slot, MASK_SEL, slot word
  | act (q : Fin 4) (s : Fin 4) (sel : BitVec 4) (w : Word32)
  | pre (q : Fin 4) (s : Fin 4) (sel : BitVec 4) (w : Word32)
  | prea (q : Fin 4) (s : Fin 4) (sel : BitVec 4) (w : Word32)
  | rd (q : Fin 4) (s : Fin 4) (sel : BitVec 4) (w : Word32)
  | rds (q : Fin 4) (s : Fin 4) (sel : BitVec 4) (w : Word32)
  | wr (q : Fin 4) (s : Fin 4) (sel : BitVec 4) (w : Word32)
  | wrm (q : Fin 4) (s : Fin 4) (sel : BitVec 4) (w : Word32)
  | mac (q : Fin 4) (s : Fin 4) (sel : BitVec 4) (w : Word32)
  -- vector slots: with the CTRL slot's LIT
  | add (q : Fin 4) (s : Fin 4) (sel : BitVec 4) (w lit : Word32)
  | mul (q : Fin 4) (s : Fin 4) (sel : BitVec 4) (w lit : Word32)
  | max (q : Fin 4) (s : Fin 4) (sel : BitVec 4) (w lit : Word32)
  | cmp (q : Fin 4) (s : Fin 4) (sel : BitVec 4) (w lit : Word32)
  | scale (q : Fin 4) (s : Fin 4) (sel : BitVec 4) (w lit : Word32)
  | exp2 (q : Fin 4) (s : Fin 4) (sel : BitVec 4) (w lit : Word32)
  | cvt (q : Fin 4) (s : Fin 4) (sel : BitVec 4) (w lit : Word32)
  | pack (q : Fin 4) (s : Fin 4) (sel : BitVec 4) (w lit : Word32)
  | cvtmx (q : Fin 4) (s : Fin 4) (sel : BitVec 4) (w lit : Word32)
  | out (q : Fin 4) (s : Fin 4) (sel : BitVec 4) (w lit : Word32)
  | mask (q : Fin 4) (s : Fin 4) (sel : BitVec 4) (w lit : Word32)
  | xfer (q : Fin 4) (s : Fin 4) (sel : BitVec 4) (w : Word32)
  -- sync slots
  | hoist (q : Fin 4) (s : Fin 4) (w : Word32)
  | wait (q : Fin 4) (s : Fin 4) (w : Word32)
  | kadd (q : Fin 4) (s : Fin 4) (w : Word32)
  | rget (q : Fin 4) (s : Fin 4) (w : Word32)
  | rrel (q : Fin 4) (s : Fin 4) (w : Word32)
  | bell (q : Fin 4) (s : Fin 4) (w : Word32)
  | roll (q : Fin 4) (s : Fin 4) (w : Word32)
  | fence (q : Fin 4) (s : Fin 4) (w : Word32)
  | report (q : Fin 4) (s : Fin 4) (w : Word32)
  -- address and control slots
  | agset (q : Fin 4) (s : Fin 4) (w : Word32)
  | agidx (q : Fin 4) (s : Fin 4) (w : Word32)
  | agskip (q : Fin 4) (s : Fin 4) (w : Word32)
  | xbase (q : Fin 4) (s : Fin 4) (w : Word32)
  | msk (q : Fin 4) (s : Fin 4) (w : Word32)
  | loop (q : Fin 4) (s : Fin 4) (w : Word32)
  | endl (q : Fin 4) (s : Fin 4) (w : Word32)
  | launchExchange (q : Fin 4) (s : Fin 4) (w : Word32)
  | launchMerge (q : Fin 4) (s : Fin 4) (w : Word32)
  | recessWord (q : Fin 4) (s : Fin 4) (r : RecessStart)
  | endWord (q : Fin 4) (s : Fin 4)
  -- sequencer events
  | dismissalComplete (c : Fin 16)
  | freqChangeComplete (q : Fin 4)
  | bellRing
  | contextSwitch (b : BeatStart)
  | quantumExpiry (q : Fin 4)
  | scoreboardGrant (q : Fin 4)
  -- shares: quadrant and share number
  | copy (q : Fin 4) (id : Nat)
  | gather (q : Fin 4) (id : Nat)
  | scatter (q : Fin 4) (id : Nat)
  | transposeBufferGrant (q : Fin 4)
  | copyShareEnd (q : Fin 4) (id : Nat)
  | merge (q : Fin 4) (id : Nat)
  | topk (q : Fin 4) (id : Nat)
  | sample (q : Fin 4) (id : Nat)
  | route (q : Fin 4) (id : Nat)
  | mergeShareEnd (q : Fin 4) (id : Nat)
  -- loads, context reset, clearing
  | loadComplete (c : Fin 16)
  | loadBegin (c : Fin 16)
  | ctxResetComplete (c : Fin 16)
  | plotCleared (staging : Bool) (num : Nat)
  -- memory events: bank number (stack * 16 + die) * 32 + bank
  | refreshDue (bank : Fin 10240)
  | neighbourDeadline (bank : Fin 10240)
  | idleRefresh (bank : Fin 10240)
  | scrubColumn (st : Fin 20) (hard : Nat)
  | delaySetTimeout (st : Fin 20)
  | linkAlert (d : DieName) (c : FailedCommand)
  | stackLinkRecoveryDone (st : Fin 20) (ok : Bool)
  -- slate and rings
  | slateRead (tag : Nat) (off : BitVec 28)
  | slateWrite (tag : Nat) (off : BitVec 28) (d : WriteData)
  | fullMapAccess (tag : Nat) (dpa : BitVec 41) (d : Option WriteData)
  | slateHold (st : Fin 20)
  | paneWrite (p : Fin 128) (v : Word64)
  | doorbell (c : Fin 16) (v : Word64)
  | commandRingWrite (c : Fin 16) (off : BitVec 18) (bytes : List Byte)
  | doorbellHoldExpiry (c : Fin 16)
  | ringReinit (c : Fin 16) (newHead : BitVec 12)
  | ackHostLost (c : Fin 16)
  | reportCfgWrite (c : Fin 16) (v : Word64)
  | reportHeadWrite (c : Fin 16) (v : Word64)
  | reportWrite (c : Fin 16)
  | msixDelayExpiry (c : Fin 16)
  | penHoist (c : Fin 16) (v : Word64)
  | rollArrive (c : Fin 16) (v : Word64)
  | watchArm (c : Fin 16) (i : Fin 32) (expected : Word64) (limit : Word32) (pen : BitVec 16) (tag : BitVec 16)
  | watchLimitExpiry (c : Fin 16) (i : Fin 32)
  | waitTimeout (q : Fin 4) (s : Fin 4)
  | saturationInterval (linkBusy peerBusy : Bool)
  -- CXL link
  | cxlLinkRecovery
  | cxlLinkDown
  | cxlLinkUp (width speed : BitVec 8)
  | hostLossTimeout
  | perstN
  | cxlHotReset
  | functionLevelReset
  -- sessions and context control
  | sessionOpen (role ctx : BitVec 8) (token : BitVec 256)
  | sessionLockoutExpiry
  | sessionClose (h : Word64)
  | ctxCreate (h : Word64) (span : BitVec 4) (prio : BitVec 8)
  | ctxDestroy (h : Word64) (c : Fin 16)
  /-- Over the mailbox by a session, or with none over CAN FD (R546). -/
  | ctxReset (h : Option Word64) (c : Fin 16)
  | quadMode (h : Word64) (q : Fin 4) (shared : Bool)
  | alloc (h : Word64) (c : Fin 16) (staging : Bool) (box : Box) (count : Nat)
  | free (h : Word64) (c : Fin 16) (entry : BitVec 8)
  | descCreate (h : Word64) (c : Fin 16) (handle : BitVec 12) (d : BitVec 512)
  | descDestroy (h : Word64) (c : Fin 16) (handle : BitVec 12)
  | descRead (h : Word64) (c : Fin 16) (handle : BitVec 12)
  | descClearPoison (h : Word64) (c : Fin 16) (handle : BitVec 12)
  | load (h : Word64) (c : Fin 16) (handle : BitVec 12)
  | halfRead (h : Word64) (q : Fin 4) (s : Fin 4) (half : Bool) (off len : Nat)
  | penCreate (h : Word64) (c : Fin 16) (ident : BitVec 10) (init : Word64)
  | penBind (h : Word64) (c : Fin 16) (ident : BitVec 10) (module : BitVec 14) (phys : BitVec 14) (tag : Word32)
  | penUnbind (h : Word64) (c : Fin 16) (ident : BitVec 10)
  | penShare (h : Word64) (c : Fin 16) (ident : BitVec 10) (shared : Bool) (tag : Word32)
  | rollCreate (h : Word64) (c : Fin 16) (handle : BitVec 6) (localMask : BitVec 18) (ringMask : BitVec 64) (rid : BitVec 16)
  | rollBind (h : Word64) (c : Fin 16) (handle : BitVec 6) (num : BitVec 6)
  | rollUnbind (h : Word64) (c : Fin 16) (handle : BitVec 6)
  | odRead (h : Word64) (idx : BitVec 16) (sub : OdSub) (off len : Nat)
  | odWrite (h : Word64) (idx : BitVec 16) (sub : OdSub) (value : List Byte)
  | registerWrite (t : RegTarget)
  | snapshotExpiry (n : Nat)
  -- standard CXL mailbox
  | identifyMemoryDevice
  | getHealthInfo
  | getEventRecords (log : BitVec 8)
  | clearEventRecords (log : BitVec 8)
  | getTimestamp
  | setTimestamp (t : Word64)
  | getSupportedLogs
  | getLog
  | getFwInfo
  | transferFw (a : FwAction) (slot : BitVec 8) (off : Nat) (data : List Byte)
  | activateFw (online : Bool) (slot : BitVec 8)
  -- SPDM
  | getVersion
  | getCapabilities
  | negotiateAlgorithms (offersMlDsa offersSha3 : Bool)
  | getDigests
  | getCertificate (slot : BitVec 8) (off len : Nat)
  | challenge (slot : BitVec 8) (nonce : BitVec 256)
  | getMeasurements (signed : Bool) (index : BitVec 8) (nonce : BitVec 256)
  -- CAN FD
  | startRemoteNode
  | stopRemoteNode
  | enterPreOperational
  | resetCommunication
  | resetNode
  | usdoDownload (idx : BitVec 16) (sub : BitVec 8) (value : List Byte) (part : UsdoPart)
  | usdoUpload (idx : BitVec 16) (ask : UsdoAsk)
  | usdoSegmentTimeout
  | heartbeat
  | tpdo (t : Fin 4)
  | emcySend
  | busOffRecovery
  | store (v : Word32)
  | restore (v : Word32)
  | nextSlotWrite (v : BitVec 8)
  | errorCountClear (v : BitVec 8)
  | errLogClear (v : BitVec 8)
  | modReset (v : Word32)
  | credentialDigestWrite (tenant : Option (Fin 16)) (part : Fin 4) (v : Word64)
  | hazardLogClear (q : Fin 4) (c : Fin 16) (v : Word32)
  | rdThresholdWrite (st : Fin 20) (v : BitVec 16)
  | pwrBudgetWrite (brake : Bool) (v : BitVec 16)
  | orderingWrite (v : BitVec 8)
  | fullMapWrite (tenant : Option (Fin 16)) (v : BitVec 8)
  | bellPeriodWrite (v : Word32)
  | bellPeriodChange
  -- clocks and gates
  | clkAck (v : BitVec 8)
  | fmcStart (v : BitVec 8)
  | fmcDone (count : Word32)
  | fmcReferenceStall
  | gateClose (g : Fin 8)
  | gateClosed (g : Fin 8)
  | gateTimeout (g : Fin 8)
  | gateOpen (g : Fin 8)
  | gateOpened (g : Fin 8)
  | quadIdleGateExpiry (q : Fin 4)
  -- pins, boot
  | auxPowerGood
  | auxPowerLoss
  | modResetN
  | mainInputPresent
  | mainInputLost
  | pwrBrakeN (asserted : Bool)
  | xtalStartAttempt
  | xtalAttemptTimeout
  | stabilityMeasurement (count : Nat)
  | xtalNoEdge
  | tripJudgement (xtal ito : Nat) (refclk : Bool)
  | stageB2
  | stageB3
  | stageB4
  | stageB5
  | stageB6
  | stageB7
  -- temperature and power
  | sensorConversion (site : Fin 24) (reading : Option Int)
  | pmbusPoll (rail : Fin 8) (answer : Option PmbusAnswer) (powerMw : Nat) (warning fault : Bool)
  | budgetTick
  | inputCeilingAlert
  | budgetUnmet
  -- ring
  | bypassTimerExpiry
  | ringJoin (result : BitVec 8) (met : JoinMet)
  | ringLeave
  | idleSend (p : Fin 4)
  | idleFrame (h : FrameHead) (t : TimeWord) (arrival : Nat) (frac : BitVec 16)
  | joinFrame (h : FrameHead) (name : Word32) (prio : BitVec 8) (candidate : Bool)
  | rosterFrame (h : FrameHead) (version : Nat) (entries : List RosterEntry)
  | fenceFrame (h : FrameHead) (ident : BitVec 14) (version : Nat)
  | hoistFrame (h : FrameHead) (phys : BitVec 14) (amt : BitVec 16)
  | penSub (h : FrameHead) (phys : BitVec 14) (subscribe : Bool)
  | penUpdate (h : FrameHead) (phys : BitVec 14) (value : Word64) (st : BitVec 2)
  | penBindFrame (h : FrameHead) (phys : BitVec 14) (tag : Word32) (word : BindWord)
  | rollArriveFrame (h : FrameHead) (rid : BitVec 16) (round : Word32)
  | rollReleaseFrame (h : FrameHead) (rid : BitVec 16) (round : Word32) (bell : Nat)
  | kvWrite (h : FrameHead) (tid : BitVec 16) (index column : Nat) (cols : List Line) (poison : Bool)
  | kvRead (h : FrameHead) (tid : BitVec 16) (index column count : Nat)
  | kvData (h : FrameHead) (tid : BitVec 16) (index column : Nat) (cols : Option (List Line)) (poison : Bool)
  | kvAck (h : FrameHead) (tid : BitVec 16) (index column : Nat)
  | mergePart (h : FrameHead) (rid : BitVec 16) (round : Word32) (off : Nat) (words : List Word32) (poison : Bool)
  | mergeResult (h : FrameHead) (rid : BitVec 16) (round : Word32) (off : Nat) (words : List Word32) (poison : Bool)
  | frameCrcError (p : Fin 4) (lack : BitVec 16)
  | neighbourSilence (p : Fin 4)
  | masterLost
  | electionTimeout
  | holdoverExpiry
  | portTrainTimeout (p : Fin 4)
  | portCodewordLimit (p : Fin 4)
  | portRetrain (p : Fin 4)
  | laneFailure (p : Fin 4) (lane : Fin 8)
  | perstNDeassert
  | modResetNDeassert
  | portLinkDown (p : Fin 4)
  | portLinkUp (l : LinkEnds)
  | masterSilence
  | canBusError (st : CanState) (tec : BitVec 16)
  deriving DecidableEq, Repr

end Sys2Proof
end

