-- ==== Sys2Proof/Decode.lean ====
section
/-! DEFINITION. Commands of the table's bits. spec/opcode_table.json gives no row any field or bits, so no word spells a
command; the mailbox commands have opcodes of their own (R407). -/

namespace Sys2Proof

/-- The command a word spells by the bits of spec/opcode_table.json: none, since no row has bits. -/
def decodeTableWord (_nbits _w : Nat) : Option Instr := none

/-- Opcode of a vendor-specific mailbox command (R407); none of any other command. -/
def mailboxOpcode : Instr → Option (BitVec 16)
  | .sessionOpen .. => some 0xC000
  | .sessionClose .. => some 0xC001
  | .ctxCreate .. => some 0xC100
  | .ctxDestroy .. => some 0xC101
  | .ctxReset .. => some 0xC102
  | .quadMode .. => some 0xC103
  | .alloc .. => some 0xC110
  | .free .. => some 0xC111
  | .descCreate .. => some 0xC120
  | .descDestroy .. => some 0xC121
  | .descRead .. => some 0xC122
  | .descClearPoison .. => some 0xC123
  | .load .. => some 0xC130
  | .halfRead .. => some 0xC131
  | .penCreate .. => some 0xC140
  | .penBind .. => some 0xC141
  | .penUnbind .. => some 0xC142
  | .penShare .. => some 0xC143
  | .rollCreate .. => some 0xC150
  | .rollBind .. => some 0xC151
  | .rollUnbind .. => some 0xC152
  | .odRead .. => some 0xC160
  | .odWrite .. => some 0xC161
  | _ => none

end Sys2Proof
end

