-- ==== Sys2Proof/Config.lean ====
section
/-! DEFINITION. What an implementation fixes and the free values: opaque constants, so that no proof can see a value.
Log entries 4, 5, 8, 9, 10 and 11. -/

namespace Sys2Proof.Config

/-- The n-th free value of the run (log 5): every value the spec leaves open takes the next one. -/
opaque freeNat : Nat → Nat
/-- The content of an accumulator entry since the lesson start that made it undefined (R29; log 8): epoch, unit, entry. -/
opaque freeAcc : Nat → Nat → Nat → BitVec 32
/-- The content of a vector-file line since the lesson start that made it undefined (R29; log 8). -/
opaque freeLine : Nat → Nat → Nat → BitVec 256
/-- The poison mark of an undefined entry or line (log 8): epoch, unit, index. -/
opaque freeMark : Nat → Nat → Nat → Bool
/-- What a counter reads after its largest value has been passed (log 11): width, value. -/
opaque afterMax : Nat → Nat → Nat
/-- The result of EXP2 within the bound of R89 (log 9): a function that never falls, of the operand's place among the finite
values. -/
opaque exp2Choice : Nat →o Nat
/-- Random bits of a stochastic rounding generator (R54, log 71): its seed, and how many numbers it has given before. -/
opaque roundingBits : Nat → Nat → Nat
/-- The result of the merge engine's 2^x within the bound of R276 (log 9). -/
opaque mergeExp2Choice : BitVec 32 → Nat
/-- True for the part ZD1280-AE, false for ZD1280-AC (R5; log 4). -/
opaque partIsAE : Bool
/-- Serial number 0x1018:04 (R514; log 4). -/
opaque serial : BitVec 32
/-- SERIAL_TEXT 0x2000:03, 12 characters (R515; log 4). -/
opaque serialText : List (BitVec 8)
/-- Picks that order the scoreboard entries of an image's tensors (R135; log 10): image bytes, pick. -/
opaque entryPick : List (BitVec 8) → Nat → Nat
/-- Whether an ML-DSA-44 signature verifies (R527, R531; log 4): message bytes and signature bytes. -/
opaque mlDsaVerify : List (BitVec 8) → List (BitVec 8) → Bool
/-- An ML-DSA-44 signature by the identity key (R525, R533; log 4). -/
opaque mlDsaSign : List (BitVec 8) → List (BitVec 8)
/-- The identity region of flash holds a chain whose key matches the derived one (R524; log 4). -/
opaque identityMatches : Bool
/-- The identity public key (R523; log 4). -/
opaque identityKey : List (BitVec 8)
/-- The certificate chain of R524 (log 4). -/
opaque certChain : List (BitVec 8)
/-- The boot ROM's contents, measured by block 1 (R534; log 4). -/
opaque bootRom : List (BitVec 8)
/-- Calibration record bytes (R531; log 4). -/
opaque calRecord : List (BitVec 8)
/-- Firmware slots as found in flash at manufacture (R526; log 4): slot number. -/
opaque fwSlot : Nat → List (BitVec 8)
/-- Trailing payload of a standard CXL mailbox or SPDM answer whose bytes the spec does not state (log 12): which answer. -/
opaque answerBytes : Nat → List (BitVec 8)

/-- A copy of the stored dictionary values as bytes (R513, R522; log 12): sequence number, entries and their values. -/
opaque storedCopy : Nat → List (Nat × List (BitVec 8)) → List (BitVec 8)
/-- A firmware version as text (R514, R529; log 12). -/
opaque versionText : BitVec 32 → List (BitVec 8)
/-- The CXL event log that holds a kind of record (R364; log 4). -/
opaque eventLog : Nat → Nat
/-- Byte offset of the HDM decoder capability in BAR0, a multiple of 8 (R366, R382; log 4). -/
opaque hdmOffset : Nat

/-- Byte offset of the memory device status in BAR0 (R376, R383; log 4). -/
opaque memStatusOffset : Nat
/-- The other CXL device registers as they read (R383; log 4): byte offset. -/
opaque deviceRegister : Nat → BitVec 64
/-- ARG of a peer frame, whose fields R419 names without a layout (log 95): TYPE, the fields. -/
opaque frameArg : Nat → List Nat → BitVec 64
/-- The payload of a peer frame whose fields R419 names without a layout (log 95): TYPE, the fields. -/
opaque framePayload : Nat → List Nat → List (BitVec 8)

end Sys2Proof.Config
end

