-- ==== Sys2Proof/Machine/State.lean ====
section
/-! DEFINITION. The state of the block as plain data, and State.reset. Tables hold only the entries that differ from
the default their accessor names. -/

namespace Sys2Proof.Machine

/-- No command of the block stops it: the spec turns every condition into a status, a count, a log entry, poison or a
half-mast (16 R554 to R556). This one reason is raised by no meaning; it stands for a command the model could not carry
out (safe). -/
inductive Fault where
  | impossible
  deriving DecidableEq, Repr

/-- Why a command is refused. -/
inductive Refusal where
  /-- Raised by exec for a command that has no meaning yet (safe). -/
  | notModelled (mnemonic : String)
  deriving DecidableEq, Repr

/-! ## Pins, power, boot -/

/-- Pins, rails and the boot sequence (R425, R515, R537, R541, R565 to R574). -/
structure Boot where
  auxGood : Bool
  mainPresent : Bool
  modResetN : Bool
  perstN : Bool
  pwrBrakeN : Bool
  straps : BitVec 7
  /-- VPP, VDRAM, VDDQ, VHUB, VBU, VPHY in bits 0 to 5 (R567). -/
  rails : BitVec 6
  plls : Bool
  stage : Fin 8
  /-- Held at the start of B0 by MOD_RESET_n (R541). -/
  heldB0 : Bool
  fwRunning : Bool
  stacksUp : Bool
  cxlReleased : Bool
  shut : Bool
  shutCause : BitVec 8
  /-- PEER_BYPASS_n of planes 0 and 1: true is high, the switch open (R425). -/
  open0 : Bool
  open1 : Bool
  bypassArmed : Bool
  /-- Stored values have been loaded since auxiliary power-on (R513). -/
  loaded : Bool
  /-- After a shut-down stage B3 waits for the sensor levels (R473, R537). -/
  cool : Bool
  deriving DecidableEq, Repr

/-! ## Clocks -/

/-- The frequency-measuring counter (R466, R467, R486). -/
structure Fmc where
  measured : BitVec 8
  reference : BitVec 8
  gate : BitVec 32
  stack : BitVec 8
  die : BitVec 8
  status : BitVec 8
  count : BitVec 32
  /-- A measurement runs: a refused start shows status 4 meanwhile (R467). -/
  running : Bool
  deriving DecidableEq, Repr

/-- One gate group (R461, R486): state 0 open, 1 closing, 2 closed, 3 opening; demands that wait. -/
structure Gate where
  state : BitVec 8
  demands : Nat
  timeouts : BitVec 32
  deriving DecidableEq, Repr

/-- Clock sources, monitor, gates (R451 to R467, R486). -/
structure Clocks where
  source : BitVec 8
  clkFault : Bool
  xtalLost : Bool
  itoFault : Bool
  refclk : Bool
  attempts : BitVec 8
  xtalEnabled : Bool
  /-- The series has ended in failure (R453). -/
  seriesFailed : Bool
  /-- A later series of attempts has succeeded (R454). -/
  laterSuccess : Bool
  inWindow : Nat
  outWindow : Nat
  lastGood : Nat
  monitor : Bool
  judging : Option Nat
  trips : BitVec 32
  itoTrim : Bool
  fmc : Fmc
  gates : Table Gate
  quadIdle : BitVec 32
  deriving DecidableEq, Repr

/-! ## Power -/

/-- A fall of the governed budget G in progress (R481): from, to, length and time elapsed in microseconds. -/
structure Ramp where
  start : Nat
  target : Nat
  length : Nat
  elapsed : Nat
  deriving DecidableEq, Repr

/-- Power telemetry and the budget loop (R474 to R487). -/
structure Power where
  mode : BitVec 8
  budget : BitVec 16
  brakeBudget : BitVec 16
  fixedRate : BitVec 16
  pAvg : Nat
  pBase : Nat
  /-- Energy in units of 0.1 microjoule: milliwatts for 100 microseconds (R475). -/
  energy : Nat
  vinPolls : List Nat
  vauxPoll : Nat
  rails : Table (BitVec 128)
  budgetRate : Nat
  g : Nat
  ramp : Option Ramp
  unanswered : Nat
  floorTicks : Nat
  quietTicks : Nat
  /-- The model's own: words issued by the four quadrants at the last tick. -/
  seenBeats : Nat
  ceilings : BitVec 32
  budgetUnmet : Bool
  telemetryLost : Bool
  /-- Rails whose last poll showed a warning, and warnings counted (R476). -/
  regWarning : BitVec 8
  warnings : Nat
  fastLimit : BitVec 8
  slowLimit : BitVec 8
  lateHoldoff : BitVec 16
  deriving DecidableEq, Repr

/-! ## Temperature -/

/-- A sensor site (R468 to R472): reading in 0.125 degrees, SITE_STATE, highest reading since power-on if there was one, failures,
runs, and the issue rate it asks for since its last reading, in 1/256 (R471, R488). The thermal level that underlies a failed site is
kept beside SITE_STATE. -/
structure Site where
  temp : BitVec 16
  level : BitVec 8
  failed : Bool
  maxTemp : Option (BitVec 16)
  asks : Nat
  fails : BitVec 32
  badRun : Nat
  goodRun : Nat
  deriving DecidableEq, Repr

/-- Sites and levels (R488). -/
structure Thermal where
  sites : Table Site
  hubWarn : BitVec 8
  hubThrottle : BitVec 8
  stackWarn : BitVec 8
  stackThrottle : BitVec 8
  deriving DecidableEq, Repr

/-! ## Memory and stacks -/

/-- A column write queued in a stack controller and not yet drained (R342): column number (bank-view address / 32), the
context whose timetable issued it if any, its order, and for a full write of a timetable the beat at whose start its column
command goes out (R63, log 70). -/
structure QWrite where
  col : Nat
  ctx : Option Nat
  seq : Nat
  goes : Option Nat
  deriving DecidableEq, Repr

/-- A slate or full-map access, translated (R370): tag, bank-view address of its 64 bytes, data of a write, timebase and
order of its arrival. -/
structure Access where
  tag : Nat
  addr : Nat
  wr : Option WriteData
  /-- Timebase of its deferral (R380). -/
  since : Nat
  seq : Nat
  /-- Contexts whose lessons have deferred it (R27, R189). -/
  by_ : List Nat
  /-- It ends as a pane fault (R374). -/
  fault : Bool
  deriving DecidableEq, Repr

/-- A CXL.mem request that has no credit yet (R379): its device physical address, not translated (R365, R372). -/
structure MemReq where
  tag : Nat
  dpa : Nat
  wr : Option WriteData
  deriving DecidableEq, Repr

/-- What a command on a stack link is (R113, R115, R343, R356). -/
inductive LinkKind where
  | act | pre | prea | rd | wr | refresh
  deriving DecidableEq, Repr

/-- A command kept in the retry buffer (R351): its sequence tag, the beat it was sent in, what it is, its banks, and its row or
column. -/
structure LinkCommand where
  tag : BitVec 6
  beat : Nat
  kind : LinkKind
  banks : List Nat
  arg : Nat
  deriving DecidableEq, Repr

/-- A stack controller (R337 to R363). -/
structure Stack where
  steals : BitVec 32
  replays : BitVec 32
  recoveries : BitVec 16
  slateHolds : BitVec 32
  neighbours : BitVec 32
  /-- Band of the delay set in force and band of the stack's temperature (R358). -/
  band : BitVec 8
  bandWanted : BitVec 8
  rdThreshold : BitVec 16
  ceScrub : BitVec 32
  cePass : BitVec 32
  hardErrors : BitVec 32
  ueCount : BitVec 32
  failed : Bool
  ueLogged : Bool
  recovering : Bool
  /-- Sequence tag of the next command; the commands outstanding, oldest first (R351). -/
  nextTag : BitVec 6
  retry : List LinkCommand
  /-- NEXT of the dies that are not in step with the controller, by die D0 to D15 and 16 for the base die (R352): the tag that
  failed parity there. -/
  behind : Table (Option (BitVec 6))
  /-- Shadow timing registers: of the controller by frequency point, of the base die by 4 + point (R355). -/
  timing : Table (List Byte)
  sameFails : Nat
  /-- Timebase of the alerts of the last 10 us (R354). -/
  alerts : List Nat
  recFails : Nat
  writes : List QWrite
  slateQ : List Access
  /-- Position of the patrol scrub in its stack, in columns, and the columns at the head of its queue (R359, R360). -/
  scrubPos : Nat
  scrubHead : List Nat
  /-- Timebase from which the scrub's schedule counts, and the columns of its round read since (R359, R363). -/
  scrubFrom : Nat
  scrubDone : Nat
  deriving DecidableEq, Repr

/-- An open row and who opened it (R114, R339). -/
structure OpenRow where
  row : BitVec 16
  timetable : Bool
  deriving DecidableEq, Repr

/-- A queued neighbour refresh (R348): row, and the timebase of its deadline. -/
structure Neighbour where
  row : BitVec 16
  deadline : Nat
  deriving DecidableEq, Repr

/-- DRAM state of one bank (R114, R343 to R348, R519). -/
structure Bank where
  open0 : Option OpenRow
  open1 : Option OpenRow
  /-- The activation table: row and count (R347). -/
  act : List (BitVec 16 × BitVec 16)
  debt : Nat
  pointer : BitVec 13
  nbq : List Neighbour
  /-- Corrected columns that the scrub and R360 found in the last complete pass and in the present one (R361). -/
  cePass : BitVec 16
  ceNow : Nat
  hard : BitVec 16
  watch : Bool
  ueSeen : Bool
  deriving DecidableEq, Repr

/-- Module-wide memory health (R361 to R363). Plots are named by bank-view address bits [40:16]. -/
structure Health where
  scrubHours : BitVec 8
  ceBankLimit : BitVec 16
  hardLimit : BitVec 8
  freqChanges : BitVec 32
  retired : List Nat
  queued : List Nat
  /-- A further plot has found the list full, and the emergency has been sent (R362, R509). -/
  retireFull : Bool
  /-- Columns with hard errors: column number and number of bad symbols. -/
  hardCols : List (Nat × Nat)
  ceTotal : BitVec 32
  clearing : List Nat
  /-- Staging granules being cleared: quadrant * 768 + granule. -/
  clearingG : List Nat
  deriving DecidableEq, Repr

/-! ## Bank units -/

/-- A decoded column (R37): data used, poison, uncorrectable. -/
structure Column where
  data : Line
  poison : Bool
  ue : Bool
  deriving DecidableEq, Repr

/-- An accumulator entry: FP32 value and poison mark. -/
structure AccEntry where
  val : Word32
  poison : Bool
  deriving DecidableEq, Repr

/-- A vector-file line, a staging line, a scale latch: data and poison mark. -/
structure VecLine where
  data : Line
  poison : Bool
  deriving DecidableEq, Repr

/-- The event record of a bank unit (R39, R67). -/
structure EventRec where
  ce : BitVec 16
  ue : BitVec 16
  firstUe : Option (BitVec 16 × BitVec 6)
  late : BitVec 8
  stuck : Bool
  deriving DecidableEq, Repr

/-- One bank unit (R33). An entry or line that is not listed has been undefined since the lesson start numbered by its
slot's epoch (R29, log 8). -/
structure BankUnit where
  latch : Table Column
  scale : Table Column
  acc : Table (Option AccEntry)
  vec : Table (Option VecLine)
  /-- The write mask register of each context slot (R33, R43, R148). -/
  wmask : Table Word32
  /-- The stochastic rounding generator of each context slot (R33, R43, R54): the random numbers it has given since it was last
  seeded. -/
  drawn : Table Nat
  ev : EventRec
  deriving DecidableEq, Repr

/-- Rows of one OUT issue held by a merge engine (R259, R263, R268): context, stream tag, issue number, and for each row the
stack's place in the quadrant, bank position, lanes and poison. -/
structure OutRow where
  stack : Nat
  bank : Nat
  lanes : List Word32
  poison : Bool
  deriving DecidableEq, Repr

structure OutIssue where
  ctx : Nat
  tag : Nat
  number : Nat
  rows : List OutRow
  deriving DecidableEq, Repr

/-- What an operation in flight will write when its result becomes visible (R59 to R61). -/
inductive DueWrite where
  | latch (u le : Nat) (c : Column)
  | scale (u slot : Nat) (l : Column)
  /-- An accumulate (R60): what is added to the entry. -/
  | accAdd (u e : Nat) (v : Word32) (poison : Bool)
  | accSet (u e : Nat) (v : Word32) (poison : Bool)
  /-- Bits of a line (R53): mask of written bits, data, and the mark: some true sets it, some false clears it. -/
  | line (u l : Nat) (mask data : Line) (mark : Option Bool)
  | wmask (u slot : Nat) (m : Word32)
  /-- An RDS that has become visible sets the scale pointer to 0 (R118). -/
  | pointer (slot : Nat)
  /-- An OUT whose rows leave for the merge engine (R53, R259), with the bank units that drive them. -/
  | out (issue : OutIssue) (us : List Nat)
  deriving DecidableEq, Repr

/-- A result in flight (R59): beat it was issued, beat it is due, issue order, context slot, writer (1 VEC, 2 MAC, 5 XFER,
6 COL), ORIGIN. -/
structure Due where
  issued : Nat
  due : Nat
  seq : Nat
  slot : Nat
  writer : Nat
  origin : Nat
  writes : List DueWrite
  deriving DecidableEq, Repr

/-- A masked write in flight (R56): due beat, column number, bytes selected, bytes taken, source line poisoned. -/
structure Masked where
  due : Nat
  ctx : Nat
  slot : Nat
  col : Nat
  mask : Word32
  data : Line
  poison : Bool
  /-- The column as read in the issue beat, and whether it was corrected (R56). -/
  old : Column
  corrected : Bool
  origin : Nat
  seq : Nat
  deriving DecidableEq, Repr

/-! ## Sequencer -/

/-- States of a context in a quadrant (R160). -/
inductive CtxState where
  | dismissed | ready | issuing | waiting | draining | resetting
  deriving DecidableEq, Repr

/-- What a blocked word waits for (R145, R190). -/
inductive Blocked where
  | pennant (ident : Nat) (atLeast : Nat)
  | bells (left : Nat)
  | rollCall (handle : Nat) (round : Nat)
  /-- A ROLL whose arrival belongs to the round after next (R316). -/
  | rollHeld (handle : Nat)
  | fence
  | region (entry : Nat) (write : Bool)
  | reportBuffer
  deriving DecidableEq, Repr

/-- An address generator (R125, R126, R148): unset, or a walk of a descriptor at a position, by its index tensor or not. -/
structure Gen where
  set : Bool
  byIndex : Bool
  desc : BitVec 12
  pos : Nat
  deriving DecidableEq, Repr

/-- A hazard log record (R178). -/
structure HazRec where
  lesson : Nat
  beat : Nat
  due : Nat
  readSlot : Nat
  readOrigin : Nat
  writeSlot : Nat
  writeOrigin : Nat
  index : Nat
  line : Bool
  quad : Nat
  slot : Nat
  deriving DecidableEq, Repr

/-- A word in issue: its slots after the moves of R111, and its header fields (R107). -/
structure Issued where
  slot : Nat
  sel : BitVec 4
  origin : Nat
  issue : Nat
  present : BitVec 8
  words : List Word32
  cop : BitVec 3
  /-- Offset of the word in its half. -/
  pc : Nat
  /-- The stream entry of a word with STREAM set (R140, R141). -/
  entry : Option Word32
  /-- The slot's generators and parameters at the start of the beat: what the word's slots read (R110, R126). -/
  gens : Table Gen
  k : Table Word64
  deriving DecidableEq, Repr

/-- Sequencer state of a context slot (R148, R160). -/
structure Slot where
  ctx : Option Nat
  st : CtxState
  k : Table Word64
  masks : Table (BitVec 53)
  loops : Table (BitVec 24)
  gens : Table Gen
  xbaseStage : BitVec 26
  xbaseMerge : BitVec 26
  scalePtr : BitVec 5
  stream : List Word32
  /-- The control core's registers, of which the spec gives no layout (R148): the last value drawn for them. -/
  core : Nat
  sinceRecess : Nat
  /-- Byte offset of the next word in the active half, issue number within REPEAT, beats of the context's lesson. -/
  pc : Nat
  rep : Nat
  lessonBeat : Nat
  blocked : Option Blocked
  /-- The blocked word has been released and has not issued yet; true with POISONED (R297, R328). -/
  passed : Option Bool
  /-- A TIMEOUT record has been posted for the blocked word (R324). -/
  timedOut : Bool
  /-- Launches of the lesson for engines 0 and 1. -/
  launches0 : Nat
  launches1 : Nat
  /-- The model's own: number of the lesson start that last made the slot's files undefined (log 8). -/
  epoch : Nat
  /-- The value broadcast at the lesson start for the seeds of the slot's generators (R54, R148). -/
  random : Nat
  /-- The lesson started while a new frequency point was chosen: its first word waits for the change (R172). -/
  heldFirst : Bool
  /-- Steps 3 to 5 of the dismissal have been taken in this quadrant (R173). -/
  closed : Bool
  deriving DecidableEq, Repr

/-- A scoreboard entry (R182) with its bounds as fields. -/
structure SbEntry where
  /-- 0 free, 1 bound, 2 held, 3 released and deferring. -/
  st : BitVec 2
  wr : Bool
  space : Bool
  ctx : BitVec 4
  bounds : BitVec 72
  /-- Holders: none the slot's timetable, some id an engine share; true for writing. -/
  holders : List (Option Nat × Bool)
  /-- Held, or released and deferring, by the lesson in progress (R188). -/
  byLesson : Bool
  /-- Held for writing by the lesson at some time (R175). -/
  wroteLesson : Bool
  deriving DecidableEq, Repr

/-- A scoreboard request that waits (R185): slot and holder, physical entry, for writing. -/
structure SbRequest where
  slot : Nat
  share : Option Nat
  entry : Nat
  write : Bool
  /-- The model's own: its number in the order of arrival. -/
  order : Nat
  deriving DecidableEq, Repr

/-- A result of engine 1 (R269, R271, R282): row index, record or selection; its words; whether it is poisoned. -/
structure MergeRow where
  index : Nat
  words : List Word32
  poison : Bool
  deriving DecidableEq, Repr

/-- A pennant-table entry (R295). -/
structure PenBinding where
  kind : BitVec 2
  module : BitVec 14
  phys : BitVec 14
  /-- Made in a ring this module has left since, or to a member fenced since: half-mast until it is made again (R330, R437). -/
  dead : Bool
  deriving DecidableEq, Repr

/-- An engine share (R236 to R239, R264, R265): a launch record in the queue of engine 0 or engine 1 of a quadrant. -/
structure Share where
  id : Nat
  slot : Nat
  ctx : Nat
  record : BitVec 512
  /-- The binding its pennant identifier had at launch (R124). -/
  binding : PenBinding
  /-- Number of the launch among the lesson's launches of this engine in the quadrant: the same for every share of one
  operation. -/
  nth : Nat
  /-- 0 queued, 1 requesting its entries, 2 holding them all, 3 its destination is written. -/
  phase : Nat
  /-- The model's own: place in the order in which shares came to hold their destinations (R231); 0 before. -/
  granted : Nat
  /-- Remote parts still to be acknowledged (R254, R257). -/
  remote : Nat
  /-- K7 at launch (R287). -/
  k7 : Word64
  /-- First OUT issue of the stream that this launch consumes, and the issues taken so far (R260, R263). -/
  firstIssue : Nat
  taken : List OutIssue
  /-- Records of its stream combined so far, and rows of the result written here so far (R269). -/
  combined : Nat
  wrote : Nat
  /-- The module's combined result once it is known, and whether it still waits for the ring (R273, R274). -/
  result : Option (List MergeRow)
  ringing : Bool
  deriving DecidableEq, Repr

/-- A hoist that waits for its ordering condition (R303, R306): context, the binding its identifier had at issue (R124),
amount, and the order number before which the context's column writes must be acknowledged. -/
structure PendHoist where
  ctx : Nat
  binding : PenBinding
  amt : BitVec 16
  before : Nat
  /-- The model's own: place in the module's order of issue (R446). -/
  order : Nat
  deriving DecidableEq, Repr

/-- One quadrant (R9, R144 to R192). -/
structure Quad where
  shared : Bool
  hazard : Bool
  beat : Nat
  seq : Nat
  sel : Option Nat
  selBeats : Nat
  quantumUp : Bool
  sinceRecess : Nat
  /-- Beats since a word last issued or a recess was last taken (R169), and beats still to pass of a recess in which a late
  line was raised. -/
  idle : Nat
  recessLeft : Nat
  /-- The longest hold of the present beat so far, in units of 1/40 ns, and the code of its cause (R66, R190). -/
  holdLen : Nat
  holdCode : Nat
  /-- A refresh operation outside any beat may still run when the next word issues (R345). -/
  refreshing : Bool
  /-- A recess word has just been taken or skipped at a quiet beat: a switch point (R166). -/
  atSwitch : Bool
  word : Option Issued
  late : List Nat
  /-- Refresh, slate or link work holds the beat (R66). -/
  held : Bool
  changing : Bool
  chosen : Option Nat
  point : Nat
  issuedHere : Nat
  /-- The model's own: words issued since reset (R480). -/
  issuedAll : Nat
  lateAt : List Nat
  forced : Bool
  /-- Timebase at which a point was last left for a slower one (R484). -/
  leftFaster : Table (Option Nat)
  thermalRate : Nat
  dues : List Due
  masked : List Masked
  hoists : List PendHoist
  tt : Table Byte
  sb : Table SbEntry
  sbWait : List SbRequest
  slots : Table Slot
  /-- Time assigned in the present interval to each saturation code, in units of 1/40 ns (R190). -/
  sat : Table Nat
  /-- First beat in which the multiplier slices are free again (R45). -/
  slicesTo : Nat
  /-- Beats issued since the issue rate in force took effect, and that rate with its cycles per beat (R478). -/
  rateK : Nat
  rateSeen : Nat
  satCode : BitVec 8
  satFlags : BitVec 16
  staging : Table Byte
  stagePoison : Table Bool
  xq : List Share
  tbuf : Option Nat
  mq : List Share
  outs : List OutIssue
  shareIds : Nat
  deriving DecidableEq, Repr

/-! ## Contexts -/

/-- A report record (R399), before it is written: SEQ and PHASE are set when it is. -/
structure Report where
  roll : BitVec 48
  type : BitVec 8
  status : BitVec 16
  flags : BitVec 32
  w0 : Word64
  w1 : Word64
  result : BitVec 224
  deriving DecidableEq, Repr

/-- A record waiting to be written, with the column writes it is ordered after (R381, R404): quadrants and orders. -/
structure Waiting where
  record : Report
  after : List (Nat × Nat)
  /-- The record of a REPORT word that has its place and has not issued yet (R403, R404). -/
  early : Bool
  /-- The slot whose REPORT word waits for a place (R403): quadrant and slot. -/
  src : Option (Nat × Nat)
  deriving DecidableEq, Repr

/-- An entry of the allocation table (R194). -/
structure Allocation where
  live : Bool
  staging : Bool
  stackLo : Nat
  stackHi : Nat
  dieLo : Nat
  dieHi : Nat
  bankLo : Nat
  bankHi : Nat
  lo : Nat
  hi : Nat
  deriving DecidableEq, Repr

/-- A roll-call table entry: bound and number (R314). After a ring roll call's single poisoned release while fenced, or a
half-mast, answers are POISONED until the handle is rebound (R329, R553). -/
structure RollHandle where
  bound : Bool
  num : BitVec 6
  dead : Bool
  deriving DecidableEq, Repr

/-- A watch (R333). -/
structure Watch where
  expected : Word64
  limit : Word32
  pen : BitVec 16
  tag : BitVec 16
  armed : Bool
  deriving DecidableEq, Repr

/-- A load (R153 to R157): its number and the image. -/
structure Load where
  number : Nat
  image : List Byte
  deriving DecidableEq, Repr

/-- An accepted command whose lesson is not dismissed (R390, R393): first slot, slots, roll number, SKIP or not. -/
structure Accepted where
  slot : Nat
  slots : Nat
  roll : BitVec 48
  skip : Bool
  deriving DecidableEq, Repr

/-- The lesson in progress (R26, R174, R305, R391). -/
structure Lesson where
  roll : BitVec 48
  k : List Word64
  payload : List Byte
  result : BitVec 16
  loadSeq : Nat
  startBell : Nat
  fenced : Bool
  unsettled : Option (Nat × Nat)
  unsettledMark : Bool
  stolen : Bool
  /-- Lost blocks reached: handle, RING_TID, the blocks (R400, R401). -/
  recompute : List (Nat × Nat × List Nat)
  /-- The closing report has been posted and holds dismissal at step 6 until it has a place (R403). -/
  closing : Bool
  deriving DecidableEq, Repr

/-- What the module keeps of the halves a load wrote (R150, R175, R218): LOAD_SEQ, the tensors of the scoreboard entries in
entry order, and every tensor handle the image names. -/
structure HalfInfo where
  seq : Nat
  entries : List Nat
  names : List Nat
  deriving DecidableEq, Repr

/-- A context (R11, R148 to R160, R384). -/
structure Ctx where
  live : Bool
  span : BitVec 4
  /-- Slot held in each quadrant of the span. -/
  slotIn : Table Nat
  lessons : BitVec 64
  lessonNo : Nat
  lesson : Option Lesson
  resetting : Bool
  /-- CTX_RESET requests that complete with the reset in progress (R544). -/
  replies : Nat
  active : Bool
  half : HalfInfo
  armed : Option HalfInfo
  loading : Option Load
  /-- A load that waits (R156): its number and the handle of its image. -/
  waitLoad : Option (Nat × Nat)
  loads : Nat
  allocs : Table Allocation
  descs : Table (BitVec 512)
  pens : Table PenBinding
  rolls : Table RollHandle
  /-- RELEASE reports wanted: handle and round (R335). -/
  releases : List (Nat × Nat)
  watches : Table Watch
  streams : Table Nat
  /-- The draws of the lesson's SAMPLE launches, by number of the launch (R287). -/
  draws : Table (List Nat)
  head : BitVec 12
  done : BitVec 12
  lastRoll : BitVec 48
  doneRoll : BitVec 48
  stopped : Bool
  pendingDb : Option (BitVec 12 × BitVec 48)
  hostLost : Bool
  accepted : List Accepted
  reportBase : Word64
  reportCfg : Word64
  reportHead : BitVec 16
  reportTail : BitVec 16
  phase : Bool
  seqNo : BitVec 24
  unsignalled : Nat
  /-- Records in the buffer (at most 64, R403) and records waiting at their source, oldest first. -/
  buffer : List Waiting
  queue : List Waiting
  deriving DecidableEq, Repr

/-- Per-context objects that outlive a context (R161, R201, R336, R412, R542). -/
structure CtxCfg where
  priority : BitVec 8
  plotQuota : BitVec 32
  stageQuota : BitVec 16
  waitLimit : BitVec 32
  penQuota : BitVec 16
  staleDoorbells : BitVec 32
  /-- Hazard logs and their counts by quadrant (R179, R180): they stay until the context number takes its slots again. -/
  hazLog : Table (List HazRec)
  hazCount : Table (BitVec 32)
  deriving DecidableEq, Repr

/-! ## Pennants and roll calls -/

/-- A physical pennant (R291). -/
structure Pennant where
  value : Word64
  st : BitVec 2
  sat : Bool
  shared : Bool
  owner : BitVec 4
  bindings : BitVec 16
  tag : Word32
  deriving DecidableEq, Repr

/-- A roll call (R314), with the release notice of a ring roll call and whether the next release is poisoned. -/
structure RollCall where
  st : BitVec 2
  owner : BitVec 4
  ring : Bool
  shrunk : Bool
  rid : BitVec 16
  localMask : BitVec 18
  arrived : BitVec 18
  ahead : BitVec 18
  ringMask : BitVec 64
  ringArrived : BitVec 64
  /-- The model's own: modules whose arrival in the next round has reached the home early (R316, R319). -/
  ringAhead : BitVec 64
  round : Word32
  release : Option Nat
  poisonNext : Bool
  /-- The single poisoned release of a module that is ALONE or FENCED has been made (R553). -/
  aloneDone : Bool
  /-- Timebase at which the current round was complete here (R318), and of the bell that last released one (R321). -/
  completeAt : Option Nat
  releasedAt : Option Nat
  deriving DecidableEq, Repr

/-- A value received for a remote pennant (R304, R332). -/
structure RemotePen where
  value : Word64
  st : BitVec 2
  subscribed : Bool
  deriving DecidableEq, Repr

/-- A change of a pennant that a subscriber is told once an earlier message has left: module, pennant, VALUE and STATE (R304). -/
structure PenNews where
  dst : Nat
  phys : Nat
  value : Word64
  st : BitVec 2
  deriving DecidableEq, Repr

/-- Synchronisation (R291 to R336, R552). -/
structure Sync where
  pens : Table Pennant
  rolls : Table RollCall
  /-- Remote pennants, keyed by module * 16384 + pennant. -/
  remotes : Table RemotePen
  /-- Subscriptions of other modules: module and pennant. -/
  subs : List (Nat × Nat)
  news : List PenNews
  ordering : BitVec 8
  rollLead : BitVec 8
  penSelect : BitVec 16
  rollSelect : BitVec 8
  rollLate : BitVec 32
  rollDrop : BitVec 32
  penSat : BitVec 32
  waitTimeouts : BitVec 32
  /-- The model's own: requests of the scoreboards so far (R185). -/
  arrivals : Nat
  /-- Recovery procedures in progress (R552): 20 + stack link recovery by stack, 1 fence, 2 leave, 3 join. -/
  recoveries : List Nat
  deriving DecidableEq, Repr

/-! ## Host -/

/-- A mailbox session (R406, R535). -/
structure Session where
  handle : Word64
  tenant : Option Nat
  /-- The session's DOMAIN snapshot: index * 256 + sub-index and its bytes (R497). -/
  snapshot : Option (Nat × List Byte)
  deriving DecidableEq, Repr

/-- A CXL event record (R364): 0 General Media, 1 Memory Module. -/
structure CxlEvent where
  kind : Nat
  addr : Nat
  deriving DecidableEq, Repr

/-- Host coupling (R364 to R412). -/
structure HostSide where
  linkState : BitVec 8
  linkWidth : BitVec 8
  linkSpeed : BitVec 8
  fullMap : Bool
  fullMapBy : Option Nat
  paneUnchecked : Bool
  doorbellHold : BitVec 32
  hostLostEvents : BitVec 32
  retrains : BitVec 32
  discarded : BitVec 32
  paneFaults : BitVec 32
  ringDrops : BitVec 32
  deferMax : BitVec 32
  panes : Table Word64
  /-- Accesses deferred (R189), without a credit (R379), and reads behind earlier writes (R377), oldest first; number of the
  next access. -/
  deferred : List Access
  stalled : List MemReq
  inFlight : List Access
  accSeq : Nat
  /-- Bytes of the command rings in hub SRAM, by BAR2 offset (R385). -/
  rings : Table Byte
  hdm : BitVec 2
  barWindow : Table Word64
  events : List CxlEvent
  /-- CXL timestamp: once set, what it is ahead of the timebase. -/
  timestamp : Option Word64
  sessions : List Session
  failures : Nat
  locked : Bool
  fwTransfer : Option (Nat × List Byte)
  deriving DecidableEq, Repr

/-! ## Ring -/

/-- What a peer frame carries (R419). -/
inductive FrameBody where
  | idle (t : TimeWord)
  | join (name : Word32) (prio : BitVec 8) (candidate : Bool)
  | roster (version : Nat) (entries : List RosterEntry)
  | fence (ident : BitVec 14) (version : Nat)
  | hoist (phys : BitVec 14) (amt : BitVec 16)
  | penSub (phys : BitVec 14) (subscribe : Bool)
  | penUpdate (phys : BitVec 14) (value : Word64) (st : BitVec 2)
  | penBind (phys : BitVec 14) (tag : Word32) (word : BindWord)
  | rollArrive (rid : BitVec 16) (round : Word32)
  | rollRelease (rid : BitVec 16) (round : Word32) (bell : Nat)
  | kvWrite (tid : Nat) (index column : Nat) (cols : List Line) (poison : Bool)
  | kvRead (tid : Nat) (index column count : Nat)
  | kvData (tid : Nat) (index column : Nat) (cols : Option (List Line)) (poison : Bool)
  | kvAck (tid : Nat) (index column : Nat)
  | mergePart (rid : BitVec 16) (round : Word32) (off : Nat) (words : List Word32) (last poison : Bool)
  | mergeResult (rid : BitVec 16) (round : Word32) (off : Nat) (words : List Word32) (last poison : Bool)
  deriving DecidableEq, Repr

/-- A frame of the ring (R418), without the fields of its hop; a frame in transit keeps the port it came by, or 4 once the buffer it
took there is free. -/
structure PeerFrame where
  src : Nat
  dst : Nat
  bcast : Bool
  hops : Nat
  eseq : Nat
  body : FrameBody
  via : Option Nat
  deriving DecidableEq, Repr

/-- A frame sent and not yet acknowledged: its LSEQ and the credits it returned (R418, R420). -/
structure SentFrame where
  lseq : BitVec 16
  frame : PeerFrame
  cred : List Nat
  deriving DecidableEq, Repr

/-- A peer port (R413 to R422, R449). -/
structure Port where
  st : BitVec 8
  fecCorrected : BitVec 32
  fecUncorrected : BitVec 32
  replays : BitVec 32
  hopDelay : BitVec 32
  /-- LSEQ of the last frame sent, and of the last frame received in order from the partner (R418, log 78). -/
  lseq : BitVec 16
  lack : BitVec 16
  /-- Frames sent and not yet acknowledged, oldest first: at most 256 (R420). -/
  replay : List SentFrame
  /-- By virtual channel: credits of the partner in use, and credits to return to it (R422). -/
  used : Table Nat
  owed : Table Nat
  /-- Frames that wait to be forwarded and frames of this module that wait to be injected, oldest first (R422). -/
  transit : List PeerFrame
  own : List PeerFrame
  /-- Which of VC1 to VC3 is served first (R422). -/
  turn : Nat
  halfLanes : Option Bool
  partnerTx : Nat
  partnerDepth : Nat
  deriving DecidableEq, Repr

/-- A SCOPE 2 operation of this module that waits at its roll call or in the ring's fold (R274, R448): the roll call and the
round of its arrival, the roll call's RING_RID and participants then, its operation (context and launch), the module's own rows, whether
its result is poisoned, whether the round has been released here, the fold's rows if they arrived before that, and the words of an
operation's frames received so far (R418). -/
structure RingMerge where
  num : Nat
  round : Nat
  rid : BitVec 16
  mask : BitVec 64
  ctx : Nat
  nth : Nat
  rows : List MergeRow
  poison : Bool
  released : Bool
  part : Option (List MergeRow)
  heard : List Word32
  deriving DecidableEq, Repr

/-- A byte that a copy reads or writes: kind 0 a bank column, 1 a line of staging SRAM, 2 a column of another module,
3 the constant `byte`, 4 a value the spec leaves open; the number of the column or line; the byte in it. -/
structure Loc where
  kind : Nat
  key : Nat
  byte : Nat
  deriving DecidableEq, Repr

/-- A remote request of this module not yet answered (R257, R447): its number, quadrant and share, write or read, owner,
RING_TID, index, column. A read holds what an absent column reads as and where its bytes go; a write holds its data, and the
number of its bytes that still wait for a remote read. An answer that has come waits until its bank columns can be reached. -/
structure RemoteReq where
  num : Nat
  quad : Nat
  share : Nat
  write : Bool
  module : Nat
  tid : Nat
  index : Nat
  column : Nat
  pad : Line
  moves : List (Nat × Loc)
  data : Line
  poison : Bool
  need : Nat
  answered : Option (Line × Bool)
  deriving DecidableEq, Repr

/-- A remote access that waits at its owner under R184 or through a frequency change (R447). -/
structure KvWait where
  src : Nat
  tid : Nat
  index : Nat
  column : Nat
  count : Nat
  cols : Option (List Line)
  poison : Bool
  /-- Its columns as boxes of the scoreboards, with their quadrants, and its number in the order of arrival (R184, R185). -/
  boxes : List (Nat × SbEntry)
  order : Nat
  deriving DecidableEq, Repr

/-- Ring and timebase (R20 to R24, R413 to R449). -/
structure Ring where
  timebase : Nat
  lastBell : Nat
  bells : Nat
  state : BitVec 8
  position : BitVec 8
  /-- Members in ring order eastward (log 25). -/
  roster : List RosterEntry
  rosterVer : Nat
  masterId : BitVec 16
  depth : BitVec 8
  joinResult : BitVec 8
  moduleId : BitVec 16
  enable : BitVec 8
  name : BitVec 32
  priority : BitVec 8
  bellStored : BitVec 32
  period : Nat
  nextPeriod : Nat
  changeAt : Nat
  ringLead : Nat
  ports : Table Port
  timeError : BitVec 32
  /-- Rate of the timebase against its neighbour's, in ppm, as last disciplined (R441, R442). -/
  rate : Int
  timeSteps : BitVec 32
  fences : BitVec 32
  lastFenced : BitVec 16
  elections : BitVec 32
  candidates : List (BitVec 8 × BitVec 14)
  electing : Bool
  holdover : Bool
  /-- The module disciplines over a path longer than 32 hops (R443). -/
  longPath : Bool
  ownFault : Bool
  /-- Next ESEQ by destination and channel, and by source and channel the next one to deliver and the frames that came before their turn
  (R421); the broadcasts of a module are numbered on their own, from 1, and 0 says that none has been heard. -/
  eseq : Table Nat
  esin : Table Nat
  early : List PeerFrame
  /-- Ports by which no valid frame has come for 1 ms (R434). -/
  silent : List Nat
  /-- The FENCE frame of a leave has still to go out (R433). -/
  leaving : Bool
  requests : List RemoteReq
  /-- The model's own: number of the next remote request. -/
  reqIds : Nat
  kvWait : List KvWait
  merges : List RingMerge
  /-- Bindings to other modules' pennants that wait for the owner's answer (R296): context, identifier, module, pennant. -/
  binds : List (Nat × Nat × BitVec 14 × BitVec 14)
  deriving DecidableEq, Repr

/-! ## Management and security -/

/-- An error log entry (R555). -/
structure LogEntry where
  time : Nat
  code : BitVec 16
  inst : BitVec 16
  ctx : BitVec 8
  emcy : BitVec 16
  value : Word64
  address : Word64
  deriving DecidableEq, Repr

/-- An EMCY message (R509). -/
structure Emcy where
  code : BitVec 16
  register : BitVec 8
  inst : BitVec 8
  value : Word32
  time : Nat
  deriving DecidableEq, Repr

/-- NMT states (R505). -/
inductive Nmt where
  | initialisation | preOperational | operational | stopped
  deriving DecidableEq, Repr

/-- The stored dictionary values: entries and their bytes (R513). -/
structure Stored where
  valid : Bool
  seqNo : Nat
  entries : List (Nat × List Byte)
  deriving DecidableEq, Repr

/-- Management (R489 to R519, R555). -/
structure Mgmt where
  nmt : Nmt
  nodeId : BitVec 7
  /-- Active conditions: EMCY code and instance (R510). -/
  conditions : List (BitVec 16 × BitVec 8)
  history : List Word32
  emcyQ : List Emcy
  emcyLost : Bool
  emcyDropped : BitVec 32
  emcyInhibit : BitVec 16
  heartbeat : BitVec 16
  eventTime : Table (BitVec 16)
  canState : CanState
  tec : BitVec 16
  busOffs : BitVec 32
  /-- A USDO transfer: index, sub-index, bytes received or still to send, and whether it is an upload (R507). -/
  usdo : Option (BitVec 16 × BitVec 8 × List Byte × Bool)
  log : List LogEntry
  logCount : BitVec 32
  stored : Stored
  quantum : BitVec 32
  moduleSat : BitVec 8
  /-- Sessions in the order in which their snapshots were last read, the oldest first (R497). -/
  snapOrder : List Word64
  deriving DecidableEq, Repr

/-- Security (R518 to R536). -/
structure Sec where
  slots : Table (Option (List Byte))
  activeSlot : BitVec 8
  fwVersion : BitVec 32
  loaderVersion : BitVec 32
  nextSlot : BitVec 8
  calStatus : BitVec 8
  identityGood : Bool
  identityDigest : BitVec 256
  bodyDigest : BitVec 256
  calDigest : BitVec 256
  storedDigest : BitVec 256
  spdmRequests : BitVec 32
  spdmVersion : Bool
  spdmCaps : Bool
  spdmAlgs : Bool
  spdmSigns : Bool
  /-- Digest parts written and digests in effect: 0 operator, 1 + c tenant of context c (R536). -/
  parts : Table (BitVec 256)
  digests : Table (BitVec 256)
  deriving DecidableEq, Repr

/-! ## Outputs -/

/-- CXL mailbox return codes the spec names (R376, R529). -/
inductive Rc where
  | success | busy | unsupported | invalidSlot | authFailed | transferInProgress
  /-- A code of CXL 3.1 that the spec does not name (free value, log 5). -/
  | unnamed (code : BitVec 16)
  deriving DecidableEq, Repr

/-- What the module sends outside. -/
inductive Output where
  | report (ctx : Nat) (addr : Nat) (record : Report) (seqNo : BitVec 24) (phase : Bool)
  | msix (vector : Nat)
  | memRead (tag : Nat) (data : BitVec 512) (poison : Bool)
  | memWrite (tag : Nat)
  | mailbox (status : BitVec 32) (payload : List Byte)
  | cxlAnswer (rc : Rc) (payload : List Byte)
  | spdm (ok : Bool) (payload : List Byte)
  | can (ident : Nat) (bytes : List Byte)
  /-- A USDO abort leaves under its identifier (R493, R506). -/
  | abort (ident : Nat) (code : Word32)
  | regRefused
  /-- A frame leaves by a port with LSEQ, LACK and the credits it returns by channel (R418). -/
  | frame (port : Nat) (f : PeerFrame) (lseq lack : BitVec 16) (cred : List Nat)
  | resend (port : Nat) (from_ : BitVec 16)
  deriving DecidableEq, Repr

/-- Module memory: data bytes by bank-view address and check bytes by 4 * column number + k (R13, R35). -/
structure Memory where
  data : List Host.Cell
  chk : List Host.Cell
  deriving DecidableEq, Repr

/-- The state of the block. -/
structure State where
  pending : List Instr
  /-- The model's own: index of the next free value (log 5). -/
  free : Nat
  /-- The model's own: what the module has sent, newest first (log 6). -/
  out : List Output
  boot : Boot
  clk : Clocks
  pow : Power
  therm : Thermal
  mem : Memory
  health : Health
  stk : Table Stack
  banks : Table Bank
  units : Table BankUnit
  quads : Table Quad
  ctxs : Table Ctx
  cfgs : Table CtxCfg
  sync : Sync
  host : HostSide
  ring : Ring
  mgmt : Mgmt
  sec : Sec
  deriving DecidableEq, Repr

/-! ## Reset values -/

def Boot.init : Boot :=
  { auxGood := false, mainPresent := false, modResetN := true, perstN := false, pwrBrakeN := true, straps := 127,
    rails := 0, plls := false, stage := 0, heldB0 := false, fwRunning := false, stacksUp := false,
    cxlReleased := false, shut := false, shutCause := 0, open0 := false, open1 := false, bypassArmed := false,
    loaded := false, cool := false }

def Fmc.init : Fmc := { measured := 0, reference := 1, gate := 38400, stack := 0, die := 0, status := 0, count := 0, running := false }

def Gate.init : Gate := { state := 0, demands := 0, timeouts := 0 }

def Clocks.init : Clocks :=
  { source := 0, clkFault := false, xtalLost := false, itoFault := false, refclk := false, attempts := 0,
    xtalEnabled := false, seriesFailed := false, laterSuccess := false, inWindow := 0, outWindow := 0, lastGood := 0,
    monitor := false, judging := none, trips := 0, itoTrim := false, fmc := Fmc.init, gates := [], quadIdle := 200 }

/-- PWR_BUDGET's default: 720 W, or 700 W on ZD1280-AE (R5, R487). -/
def Power.budgetDefault : BitVec 16 := if Config.partIsAE then 700 else 720

def Power.init : Power :=
  { mode := 0, budget := Power.budgetDefault, brakeBudget := 300, fixedRate := 32, pAvg := 0, pBase := 140000,
    energy := 0, vinPolls := [], vauxPoll := 0, rails := [], budgetRate := 256,
    g := Power.budgetDefault.toNat * 1000, ramp := none, unanswered := 0, floorTicks := 0, quietTicks := 0, seenBeats := 0,
    ceilings := 0, budgetUnmet := false, telemetryLost := false, regWarning := 0, warnings := 0, fastLimit := 0, slowLimit := 3,
    lateHoldoff := 1000 }

def Site.init : Site := { temp := 0, level := 0, failed := false, maxTemp := none, asks := 256, fails := 0, badRun := 0, goodRun := 0 }

def Thermal.init : Thermal := { sites := [], hubWarn := 95, hubThrottle := 100, stackWarn := 85, stackThrottle := 92 }

def Stack.init : Stack :=
  { steals := 0, replays := 0, recoveries := 0, slateHolds := 0, neighbours := 0, band := 0, bandWanted := 0,
    rdThreshold := 2048, ceScrub := 0, cePass := 0, hardErrors := 0, ueCount := 0, failed := false,
    ueLogged := false, recovering := false, nextTag := 0, retry := [], behind := [], timing := [], sameFails := 0, alerts := [], recFails := 0,
    writes := [], slateQ := [], scrubPos := 0, scrubHead := [], scrubFrom := 0, scrubDone := 0 }

def Bank.init : Bank :=
  { open0 := none, open1 := none, act := [], debt := 0, pointer := 0, nbq := [], cePass := 0,
    ceNow := 0, hard := 0, watch := false, ueSeen := false }

def Health.init : Health :=
  { scrubHours := 24, ceBankLimit := 32, hardLimit := 4, freqChanges := 0, retired := [], queued := [],
    retireFull := false, hardCols := [], ceTotal := 0, clearing := [], clearingG := [] }

def Column.zero : Column := { data := 0, poison := false, ue := false }
def VecLine.zero : VecLine := { data := 0, poison := false }
def EventRec.init : EventRec := { ce := 0, ue := 0, firstUe := none, late := 0, stuck := false }

def BankUnit.init : BankUnit :=
  { latch := [], scale := [], acc := [], vec := [], wmask := [], drawn := [], ev := EventRec.init }

def Gen.unset : Gen := { set := false, byIndex := false, desc := 0, pos := 0 }

def Slot.init : Slot :=
  { ctx := none, st := .dismissed, k := [], masks := [], loops := [], gens := [], xbaseStage := 0, xbaseMerge := 0,
    scalePtr := 0, stream := [], core := 0, sinceRecess := 0, pc := 0x440, rep := 0, lessonBeat := 0,
    blocked := none, passed := none, timedOut := false, launches0 := 0, launches1 := 0, epoch := 0, random := 0,
    heldFirst := false, closed := false }

def SbEntry.init : SbEntry :=
  { st := 0, wr := false, space := false, ctx := 0, bounds := 0, holders := [], byLesson := false,
    wroteLesson := false }

def Quad.init : Quad :=
  { shared := false, hazard := false, beat := 0, seq := 0, sel := none, selBeats := 0, quantumUp := false,
    sinceRecess := 0, idle := 0, recessLeft := 0, holdLen := 0, holdCode := 0, refreshing := false, atSwitch := false, word := none, late := [], held := false, changing := false, chosen := none,
    point := 0, issuedHere := 0, issuedAll := 0, lateAt := [], forced := false, leftFaster := [], thermalRate := 256, dues := [],
    masked := [], hoists := [], tt := [], sb := [], sbWait := [], slots := [], sat := [], slicesTo := 0, rateK := 0,
    rateSeen := 0, satCode := 0, satFlags := 0,
    staging := [], stagePoison := [], xq := [], tbuf := none, mq := [], outs := [], shareIds := 0 }

def Allocation.none : Allocation :=
  { live := false, staging := false, stackLo := 0, stackHi := 0, dieLo := 0, dieHi := 0, bankLo := 0, bankHi := 0,
    lo := 0, hi := 0 }

def PenBinding.unbound : PenBinding := { kind := 0, module := 0, phys := 0, dead := false }
def RollHandle.unbound : RollHandle := { bound := false, num := 0, dead := false }
def Watch.init : Watch := { expected := 0, limit := 0, pen := 0, tag := 0, armed := false }

def Ctx.init : Ctx :=
  { live := false, span := 0, slotIn := [], lessons := 0, lessonNo := 0, lesson := none, resetting := false, replies := 0,
    active := false, half := ⟨0, [], []⟩, armed := none, loading := none, waitLoad := none, loads := 0,
    allocs := [], descs := [], pens := [], rolls := [], releases := [], watches := [], streams := [], draws := [],
    head := 0, done := 0, lastRoll := 0, doneRoll := 0, stopped := false, pendingDb := none, hostLost := false,
    accepted := [], reportBase := 0, reportCfg := 0, reportHead := 0, reportTail := 0, phase := false, seqNo := 0,
    unsignalled := 0, buffer := [], queue := [] }

def CtxCfg.init : CtxCfg :=
  { priority := 1, plotQuota := 20971520, stageQuota := 2944, waitLimit := 100000, penQuota := 1024,
    staleDoorbells := 0, hazLog := [], hazCount := [] }

def Pennant.free : Pennant :=
  { value := 0, st := 0, sat := false, shared := false, owner := 0, bindings := 0, tag := 0 }

def RollCall.free : RollCall :=
  { st := 0, owner := 0, ring := false, shrunk := false, rid := 0, localMask := 0, arrived := 0, ahead := 0,
    ringMask := 0, ringArrived := 0, ringAhead := 0, round := 0, release := none, poisonNext := false, aloneDone := false, completeAt := none,
    releasedAt := none }

def RemotePen.none : RemotePen := { value := 0, st := 0, subscribed := false }

def Sync.init : Sync :=
  { pens := [], rolls := [], remotes := [], subs := [], news := [], ordering := 1, rollLead := 2, penSelect := 0, rollSelect := 0,
    rollLate := 0, rollDrop := 0, penSat := 0, waitTimeouts := 0, arrivals := 0, recoveries := [] }

def HostSide.init : HostSide :=
  { linkState := 0, linkWidth := 0, linkSpeed := 0, fullMap := false, fullMapBy := none, paneUnchecked := false,
    doorbellHold := 20, hostLostEvents := 0, retrains := 0, discarded := 0, paneFaults := 0, ringDrops := 0,
    deferMax := 0, panes := [], deferred := [], stalled := [], inFlight := [], accSeq := 0, rings := [], hdm := 0, barWindow := [], events := [],
    timestamp := none, sessions := [], failures := 0, locked := false, fwTransfer := none }

def Port.init : Port :=
  { st := 0, fecCorrected := 0, fecUncorrected := 0, replays := 0, hopDelay := 0, lseq := 0, lack := 0, replay := [],
    used := [], owed := [], transit := [], own := [], turn := 1, halfLanes := none, partnerTx := 0, partnerDepth := 255 }

def Ring.init : Ring :=
  { timebase := 0, lastBell := 0, bells := 0, state := 0, position := 255, roster := [], rosterVer := 0, masterId := 0,
    depth := 255, joinResult := 0, moduleId := 0, enable := 0, name := 0, priority := 128, bellStored := 1024,
    period := 1024, nextPeriod := 0, changeAt := 0, ringLead := 2, ports := [], timeError := 0, rate := 0, timeSteps := 0,
    fences := 0, lastFenced := 0, elections := 0, candidates := [], electing := false, holdover := false, longPath := false,
    ownFault := false, eseq := [], esin := [], early := [], silent := [], leaving := false, requests := [], reqIds := 0, kvWait := [], merges := [], binds := [] }

def Stored.void : Stored := { valid := false, seqNo := 0, entries := [] }

def Mgmt.init : Mgmt :=
  { nmt := .initialisation, nodeId := 127, conditions := [], history := [], emcyQ := [], emcyLost := false,
    emcyDropped := 0, emcyInhibit := 100, heartbeat := 100, eventTime := [], canState := .active, tec := 0,
    busOffs := 0, usdo := none, log := [], logCount := 0, stored := Stored.void, quantum := 4096, moduleSat := 0,
    snapOrder := [] }

def Sec.init : Sec :=
  { slots := [], activeSlot := 0, fwVersion := 0, loaderVersion := 0, nextSlot := 255, calStatus := 0,
    identityGood := false, identityDigest := 0, bodyDigest := 0, calDigest := 0, storedDigest := 0, spdmRequests := 0,
    spdmVersion := false, spdmCaps := false, spdmAlgs := false, spdmSigns := false, parts := [], digests := [] }

def Memory.zero : Memory := { data := [], chk := [] }

/-- The module in the cold state, before auxiliary power is good (R541 'Cold', R489; log 3 names the values the spec
does not give). -/
def State.reset : State :=
  { pending := [], free := 0, out := [], boot := Boot.init, clk := Clocks.init, pow := Power.init,
    therm := Thermal.init, mem := Memory.zero, health := Health.init, stk := [], banks := [], units := [],
    quads := [], ctxs := [], cfgs := [], sync := Sync.init, host := HostSide.init, ring := Ring.init,
    mgmt := Mgmt.init, sec := Sec.init }

end Sys2Proof.Machine
end

