-- ==== Sys2Proof/Machine/Bits.lean ====
section
/-! DEFINITION. Bit fields, byte order, counters and the sparse tables' operations. -/

namespace Sys2Proof.Machine

/-! ## Sparse tables -/

/-- What a table reads at a key; an unlisted key reads as the default. -/
def tget {V : Type} (d : V) : Table V → Nat → V
  | [], _ => d
  | (k, v) :: t, i => if i = k then v else tget d t i

/-- A table without a key. -/
def tdel {V : Type} (t : Table V) (i : Nat) : Table V := t.filter (fun p => p.1 ≠ i)

/-- A table with a new key in its place. -/
def tins {V : Type} : Table V → Nat → V → Table V
  | [], i, x => [(i, x)]
  | (k, v) :: t, i, x => if i < k then (i, x) :: (k, v) :: t else (k, v) :: tins t i x

/-- A write: writing the default removes the entry, so that equal tables are equal data. -/
def tset {V : Type} [DecidableEq V] (d : V) (t : Table V) (i : Nat) (x : V) : Table V :=
  if x = d then tdel t i else tins (tdel t i) i x

/-- A change of one entry. -/
def tmod {V : Type} [DecidableEq V] (d : V) (t : Table V) (i : Nat) (f : V → V) : Table V :=
  tset d t i (f (tget d t i))

/-- A change of several entries, each by its own key. -/
def tmodAll {V : Type} [DecidableEq V] (d : V) (t : Table V) (is : List Nat) (f : Nat → V → V) : Table V :=
  is.foldl (fun t i => tmod d t i (f i)) t

/-- A change of every listed entry whose key satisfies a test. -/
def tmap {V : Type} [DecidableEq V] (d : V) (t : Table V) (p : Nat → Bool) (f : V → V) : Table V :=
  t.foldl (fun acc x => if p x.1 then tset d acc x.1 (f (tget d t x.1)) else acc) t

/-- The canonical form: keys strictly rising, no entry equal to the default. -/
def twf {V : Type} [DecidableEq V] (d : V) : Table V → Bool
  | [] => true
  | [(_, v)] => decide (v ≠ d)
  | (k, v) :: (k', v') :: t => decide (v ≠ d) && decide (k < k') && twf d ((k', v') :: t)

/-- Consecutive bytes of a table. -/
def readBytes (t : Table Byte) (a : Nat) : Nat → List Byte
  | 0 => []
  | n + 1 => tget 0 t a :: readBytes t (a + 1) n

/-- Bytes written at consecutive addresses. -/
def writeBytes (t : Table Byte) (a : Nat) : List Byte → Table Byte
  | [] => t
  | b :: bs => writeBytes (tset 0 t a b) (a + 1) bs

/-! ## Fields and byte order -/

/-- Bits [hi:lo] of a word as a number. -/
def fld {n : Nat} (w : BitVec n) (hi lo : Nat) : Nat := (w.toNat / 2 ^ lo) % 2 ^ (hi + 1 - lo)

/-- A number read from bytes, little-endian. -/
def leNat : List Byte → Nat
  | [] => 0
  | b :: bs => b.toNat + 256 * leNat bs

/-- The n low bytes of a number, little-endian. -/
def toLe : Nat → Nat → List Byte
  | 0, _ => []
  | n + 1, x => BitVec.ofNat 8 x :: toLe n (x / 256)

/-- Bytes of a bit vector of 8 * n bits. -/
def bytesOf {n : Nat} (k : Nat) (w : BitVec n) : List Byte := toLe k w.toNat

/-- Byte i of a word. -/
def byteAt {n : Nat} (w : BitVec n) (i : Nat) : Byte := BitVec.ofNat 8 (w.toNat / 256 ^ i)

/-- A word with bits [lo + k - 1 : lo] replaced. -/
def setBits {n : Nat} (w : BitVec n) (lo k x : Nat) : BitVec n :=
  BitVec.ofNat n (w.toNat / 2 ^ (lo + k) * 2 ^ (lo + k) + (x % 2 ^ k) * 2 ^ lo + w.toNat % 2 ^ lo)

/-- Two's complement reading. -/
def signed {n : Nat} (w : BitVec n) : Int := w.toInt

/-- The positions of the bits set in a mask of n bits, rising. -/
def bitsSet {n : Nat} (w : BitVec n) : List Nat := (List.range n).filter (fun i => w.getLsbD i)

/-- The numbers lo to hi. -/
def span (lo hi : Nat) : List Nat := (List.range (hi + 1 - lo)).map (fun i => lo + i)

/-- A list sorted by an order, equal elements in their old order. -/
def insertBy {α : Type} (le : α → α → Bool) (x : α) : List α → List α
  | [] => [x]
  | y :: ys => if le x y then x :: y :: ys else y :: insertBy le x ys
def sortBy {α : Type} (le : α → α → Bool) (xs : List α) : List α := xs.foldr (insertBy le) []

/-! ## Counters -/

/-- A counter raised by n. What it reads beyond its largest value the spec does not state: a free value (log 11). -/
def bump {w : Nat} (c : BitVec w) (n : Nat) : BitVec w :=
  if c.toNat + n < 2 ^ w then BitVec.ofNat w (c.toNat + n) else BitVec.ofNat w (Config.afterMax w (c.toNat + n))

/-- A saturating counter raised by 1 (R39, R519). -/
def satInc {w : Nat} (c : BitVec w) : BitVec w := if c.toNat + 1 < 2 ^ w then c + 1 else c

/-! ## Free values and free orders -/

/-- A list with the elements in an order the spec leaves open: the free numbers from index n on pick the next element
each time (R47, R90). -/
def shuffle {α : Type} (n : Nat) : Nat → List α → List α
  | 0, xs => xs
  | _ + 1, [] => []
  | f + 1, x :: xs =>
    let i := Config.freeNat n % (xs.length + 1)
    ((x :: xs).getD i x) :: shuffle (n + 1) f ((x :: xs).eraseIdx i)

/-- All elements in a free order. -/
def freeOrder {α : Type} (n : Nat) (xs : List α) : List α := shuffle n xs.length xs

/-- A quotient of natural numbers, rounded up. -/
def ceilDiv (a b : Nat) : Nat := (a + b - 1) / b

end Sys2Proof.Machine
end

