-- ==== Sys2Proof/Machine/Fp.lean ====
section
/-! DEFINITION. Number formats and arithmetic (03_arithmetic.md R72 to R89, 08 R276). -/

namespace Sys2Proof.Machine

/-- A value: NaN, an infinity, or (-1)^neg * m * 2^e exactly. -/
inductive Val where
  | nan
  | inf (neg : Bool)
  | fin (neg : Bool) (m : Nat) (e : Int)
  deriving DecidableEq, Repr

/-- Element formats (R72). -/
inductive Fmt where
  | e2m1 | e2m3 | e3m2 | e4m3 | e5m2 | int8 | bf16 | fp32
  deriving DecidableEq, Repr

def Val.zero : Val := .fin false 0 0

/-- A magnitude rounded to nearest-even at p bits. -/
def roundBits (p m : Nat) (e : Int) : Nat × Int :=
  let n := Nat.log2 m + 1
  if n ≤ p then (m, e)
  else
    let sh := n - p
    let q := m / 2 ^ sh
    let r := m % 2 ^ sh
    let half := 2 ^ (sh - 1)
    (if r > half || (r == half && q % 2 == 1) then q + 1 else q, e + sh)

/-- m * 2^e as a whole number of quanta 2^q, towards zero. -/
def quanta (m : Nat) (e q : Int) : Nat :=
  if e ≥ q then m * 2 ^ (e - q).toNat else m / 2 ^ (q - e).toNat

/-- m * 2^e in quanta 2^q, to nearest-even. -/
def quantaRne (m : Nat) (e q : Int) : Nat :=
  if e ≥ q then m * 2 ^ (e - q).toNat
  else
    let sh := (q - e).toNat
    let t := m / 2 ^ sh
    let r := m % 2 ^ sh
    let half := 2 ^ (sh - 1)
    if r > half || (r == half && t % 2 == 1) then t + 1 else t

/-- m * 2^e in quanta 2^q, stochastically: the 16-bit random number is added with its bit 15 weighing half a quantum
(R88). -/
def quantaSr (m : Nat) (e q : Int) (r : Nat) : Nat :=
  if e ≥ q then m * 2 ^ (e - q).toNat
  else
    let sh := (q - e).toNat
    (m * 2 ^ 16 + (r % 2 ^ 16) * 2 ^ sh) / 2 ^ (sh + 16)

/-- Exponent of the leading bit of m * 2^e. -/
def topExp (m : Nat) (e : Int) : Int := (Nat.log2 m : Int) + e

/-! ## Encodings -/

/-- Canonical NaN (R83). -/
def canonNan : Word32 := 0x7FC00000#32

/-- A finite non-zero magnitude that already fits 24 bits after rounding, encoded with p mantissa bits and 8 exponent
bits: infinities above the range, zeros of the same sign below 2^-126 (R75, R82, R86). -/
def encodeBin (p : Nat) (neg : Bool) (m : Nat) (e : Int) : Nat :=
  let s := if neg then 2 ^ (p + 7) else 0
  if m = 0 then s
  else
    let t := topExp m e
    if t > 127 then s + 255 * 2 ^ (p - 1)
    else if t < -126 then s
    else
      let l := Nat.log2 m
      let mant := if l ≤ p - 1 then m * 2 ^ (p - 1 - l) else m / 2 ^ (l - (p - 1))
      s + (t + 127).toNat * 2 ^ (p - 1) + (mant - 2 ^ (p - 1))

/-- FP32, rounded to nearest-even (R82). -/
def encode32 : Val → Word32
  | .nan => canonNan
  | .inf neg => if neg then 0xFF800000#32 else 0x7F800000#32
  | .fin neg m e =>
    let r := roundBits 24 m e
    BitVec.ofNat 32 (encodeBin 24 neg r.1 r.2)

/-- BF16, rounded to nearest-even (R86) or stochastically (R88). -/
def encode16 (rand : Option Nat) : Val → BitVec 16
  | .nan => 0x7FC0#16
  | .inf neg => if neg then 0xFF80#16 else 0x7F80#16
  | .fin neg m e =>
    match rand with
    | none =>
      let r := roundBits 8 m e
      BitVec.ofNat 16 (encodeBin 8 neg r.1 r.2)
    | some x =>
      let q := topExp m e - 7
      BitVec.ofNat 16 (encodeBin 8 neg (quantaSr m e q x) q)

/-- An IEEE word with p mantissa bits and 8 exponent bits; subnormals read as zeros (R75). -/
def decodeBin (p w : Nat) : Val :=
  let neg := w / 2 ^ (p + 7) % 2 == 1
  let x := w / 2 ^ (p - 1) % 256
  let f := w % 2 ^ (p - 1)
  if x = 255 then (if f = 0 then .inf neg else .nan)
  else if x = 0 then .fin neg 0 0
  else .fin neg (2 ^ (p - 1) + f) ((x : Int) - 127 - (p - 1 : Nat))

def decode32 (w : Word32) : Val := decodeBin 24 w.toNat
def decode16 (w : BitVec 16) : Val := decodeBin 8 w.toNat

/-- Bits of an element. -/
def Fmt.bits : Fmt → Nat
  | .e2m1 => 4 | .e2m3 => 6 | .e3m2 => 6 | .e4m3 => 8 | .e5m2 => 8 | .int8 => 8 | .bf16 => 16 | .fp32 => 32

/-- Stored mantissa bits and exponent bias of the small floating formats (R72). -/
def Fmt.shape : Fmt → Nat × Nat × Int
  | .e2m1 => (2, 1, 1) | .e2m3 => (2, 3, 1) | .e3m2 => (3, 2, 3) | .e4m3 => (4, 3, 7) | .e5m2 => (5, 2, 15)
  | _ => (8, 23, 127)

/-- A small floating element: subnormals are values (R75). -/
def decodeSmall (f : Fmt) (c : Nat) : Val :=
  let (xb, mb, bias) := f.shape
  let neg := c / 2 ^ (xb + mb) % 2 == 1
  let x := c / 2 ^ mb % 2 ^ xb
  let m := c % 2 ^ mb
  if f = .e4m3 ∧ x = 15 ∧ m = 7 then .nan
  else if f = .e5m2 ∧ x = 31 then (if m = 0 then .inf neg else .nan)
  else if x = 0 then .fin neg m (1 - bias - mb)
  else .fin neg (2 ^ mb + m) ((x : Int) - bias - mb)

/-- An element code as a value (R72, R74). -/
def decodeElem (f : Fmt) (c : Nat) : Val :=
  match f with
  | .fp32 => decodeBin 24 c
  | .bf16 => decodeBin 8 c
  | .int8 => if c < 128 then .fin false c (-6) else .fin true (256 - c % 256) (-6)
  | f => decodeSmall f c

/-- Largest finite element: its mantissa with the hidden bit, as whole quanta, and their exponent (R72). -/
def Fmt.largest : Fmt → Nat × Int
  | .e2m1 => (3, 1) | .e2m3 => (15, -1) | .e3m2 => (7, 2) | .e4m3 => (14, 5) | .e5m2 => (7, 13)
  | .int8 => (127, -6) | _ => (0, 0)

/-- Exponent of the smallest normal element (R72). -/
def Fmt.minExp (f : Fmt) : Int := 1 - f.shape.2.2

/-- The code of a magnitude of s quanta 2^q in a small floating format, s at most 2^(mb + 1). -/
def codeSmall (f : Fmt) (neg : Bool) (s : Nat) (q : Int) : Nat :=
  let (xb, mb, bias) := f.shape
  let sign := if neg then 2 ^ (xb + mb) else 0
  if s < 2 ^ mb then sign + s
  else
    let t := topExp s q
    let m := if s < 2 ^ (mb + 1) then s - 2 ^ mb else 0
    sign + (t + bias).toNat * 2 ^ mb + m

/-- The magnitude is above the largest finite element. -/
def aboveLargest (f : Fmt) (s : Nat) (q : Int) : Bool :=
  let (ls, lq) := f.largest
  decide (quanta s q (min q lq) > quanta ls lq (min q lq))

/-- The code for NaN or for a scale byte of 0xFF, and whether the line is poisoned (R85). -/
def nanCode : Fmt → Nat × Bool
  | .e4m3 => (0x7F, false) | .e5m2 => (0x7E, false) | .bf16 => (0x7FC0, false)
  | _ => (0, true)

/-- A conversion to an MX element format with scale byte E (R85, R88): code, and whether the line is poisoned. -/
def quantise (f : Fmt) (rand : Option Nat) (scale : Nat) (v : Val) : Nat × Bool :=
  if scale = 255 then nanCode f
  else
    match v with
    | .nan => nanCode f
    | .inf neg =>
      match f with
      | .e5m2 => (if neg then 0xFC else 0x7C, false)
      | .int8 => (if neg then 129 else 127, false)
      | f => (codeSmall f neg f.largest.1 f.largest.2, false)
    | .fin neg m e0 =>
      let e := e0 - ((scale : Int) - 127)
      match f with
      | .int8 =>
        let s := match rand with | none => quantaRne m e (-6) | some r => quantaSr m e (-6) r
        let s := min s 127
        (if neg then (256 - s) % 256 else s, false)
      | f =>
        if m = 0 then (codeSmall f neg 0 0, false)
        else
          let q := max (topExp m e) f.minExp - f.shape.2.1
          let s := match rand with | none => quantaRne m e q | some r => quantaSr m e q r
          if aboveLargest f s q then (codeSmall f neg f.largest.1 f.largest.2, false)
          else (codeSmall f neg s q, false)

/-! ## Operations on values -/

/-- A value as a signed whole number of quanta 2^q, q at most its exponent. -/
def scaled (neg : Bool) (m : Nat) (e q : Int) : Int :=
  let x : Int := (m * 2 ^ (e - q).toNat : Nat)
  if neg then -x else x

/-- A signed whole number of quanta as a value; zero is positive. -/
def ofInt (x : Int) (q : Int) : Val := .fin (decide (x < 0)) x.natAbs q

/-- Exact sum; an exact zero is +0 but for two negative zeros (R84). -/
def vadd : Val → Val → Val
  | .nan, _ => .nan
  | _, .nan => .nan
  | .inf a, .inf b => if a = b then .inf a else .nan
  | .inf a, _ => .inf a
  | _, .inf b => .inf b
  | .fin na ma ea, .fin nb mb eb =>
    let q := min ea eb
    let x := scaled na ma ea q + scaled nb mb eb q
    if x = 0 then .fin (na && nb && ma == 0 && mb == 0) 0 0 else ofInt x q

/-- Exact product. -/
def vmul : Val → Val → Val
  | .nan, _ => .nan
  | _, .nan => .nan
  | .inf a, .inf b => .inf (a != b)
  | .inf a, .fin b m _ => if m = 0 then .nan else .inf (a != b)
  | .fin a m _, .inf b => if m = 0 then .nan else .inf (a != b)
  | .fin na ma ea, .fin nb mb eb => .fin (na != nb) (ma * mb) (ea + eb)

/-- Quotient with a sticky bit below 30 bits, so that rounding it once is correct (R276). -/
def vdiv : Val → Val → Val
  | .nan, _ => .nan
  | _, .nan => .nan
  | .inf _, .inf _ => .nan
  | .inf a, .fin b _ _ => .inf (a != b)
  | .fin a _ _, .inf b => .fin (a != b) 0 0
  | .fin na ma ea, .fin nb mb eb =>
    if mb = 0 then (if ma = 0 then .nan else .inf (na != nb))
    else
      let k := 30 + (Nat.log2 mb + 1)
      let q := ma * 2 ^ k / mb
      let r := ma * 2 ^ k % mb
      .fin (na != nb) (2 * q + (if r = 0 then 0 else 1)) (ea - eb - k - 1)

def vneg : Val → Val
  | .nan => .nan
  | .inf a => .inf (!a)
  | .fin n m e => .fin (!n) m e

def vabs : Val → Val
  | .nan => .nan
  | .inf _ => .inf false
  | .fin _ m e => .fin false m e

/-- a is less than b; false when either is NaN. -/
def vlt : Val → Val → Bool
  | .nan, _ => false
  | _, .nan => false
  | .inf a, .inf b => a && !b
  | .inf a, .fin _ _ _ => a
  | .fin _ _ _, .inf b => !b
  | .fin na ma ea, .fin nb mb eb =>
    let q := min ea eb
    decide (scaled na ma ea q < scaled nb mb eb q)

/-- Equal as IEEE values; false when either is NaN. -/
def veq : Val → Val → Bool
  | .nan, _ => false
  | _, .nan => false
  | a, b => !vlt a b && !vlt b a

/-- Maximum: NaN when either is NaN, +0 greater than -0 (R84). -/
def vmax (a b : Val) : Val :=
  match a, b with
  | .nan, _ => .nan
  | _, .nan => .nan
  | a, b =>
    if vlt a b then b
    else if vlt b a then a
    else match a with
      | .fin true 0 _ => b
      | _ => a

/-- Multiply by 2^k exactly. -/
def vscale (v : Val) (k : Int) : Val :=
  match v with
  | .fin n m e => .fin n m (e + k)
  | v => v

/-! ## FP32 operations of the vector unit and the engines -/

def fadd (a b : Word32) : Word32 := encode32 (vadd (decode32 a) (decode32 b))
def fmul (a b : Word32) : Word32 := encode32 (vmul (decode32 a) (decode32 b))
def fdiv (a b : Word32) : Word32 := encode32 (vdiv (decode32 a) (decode32 b))
def fmax (a b : Word32) : Word32 := encode32 (vmax (decode32 a) (decode32 b))

/-- The modifier of B: B, -B or |B| (R120). -/
def fmod (m : Nat) (b : Word32) : Word32 :=
  if m = 1 then b ^^^ 0x80000000#32 else if m = 2 then b &&& 0x7FFFFFFF#32 else b

/-- CMP's condition: greater, greater-or-equal, equal (R84, R102). -/
def fcmp (cond : Nat) (a b : Word32) : Bool :=
  let x := decode32 a
  let y := decode32 b
  if cond = 0 then vlt y x else if cond = 1 then (vlt y x || veq x y) else veq x y

/-- SCALE by 2^k, k an int32 lane, or the E8M0 byte with 0xFF giving NaN (R84, R120). -/
def fscale (e8m0 : Bool) (a b : Word32) : Word32 :=
  if e8m0 then
    let x := b.toNat % 256
    if x = 255 then canonNan else encode32 (vscale (decode32 a) ((x : Int) - 127))
  else encode32 (vscale (decode32 a) b.toInt)

/-- 2^(2^-i) * 2^100 for i from 1 to 64. -/
def rootTable : List Nat :=
  [1792728671193156477399422023279, 1507499113128880389969770996486, 1382382781866639398002081157355,
   1323774287096714591494552121732, 1295408533862907174262462278505, 1281454410227724375900157682936,
   1274533817633053828745639158583, 1271087549673002404956479766209, 1269367911712601490856697735501,
   1268508965357727925512416525450, 1268079710164394224611614170198, 1267865137042238223387869669149,
   1267757864097099423165883173656, 1267704231028178812475980235593, 1267677415344588706483392730521,
   1267664007715505953783040177317, 1267657303954141996327093411483, 1267653952086754290301021227724,
   1267652276156383995210804243844, 1267651438192029735864821681824, 1267651019210060328081414725966,
   1267650809719127554642082697068, 1267650704973674150533006466620, 1267650652600950694130802912663,
   1267650626414589777342745665412, 1267650613321409521801973285396, 1267650606774819444744900545187,
   1267650603501524418894692461144, 1267650601864876909139170481090, 1267650601046553155053805005361,
   1267650600637391278209221145922, 1267650600432810339836453935790, 1267650600330519870662451510619,
   1267650600279374636078545593006, 1267650600253802018787366457943, 1267650600241015710141970346348,
   1267650600234622555819320654534, 1267650600231425978658007899623, 1267650600229827690077354544916,
   1267650600229028545787028623250, 1267650600228628973641865851339, 1267650600228429187569284512614,
   1267650600228329294532993855059, 1267650600228279348014848529234, 1267650600228254374755775867059,
   1267650600228241888126239536156, 1267650600228235644811471370751, 1267650600228232523154087288059,
   1267650600228230962325395246717, 1267650600228230181911049226046, 1267650600228229791703876215711,
   1267650600228229596600289710543, 1267650600228229499048496457960, 1267650600228229450272599831668,
   1267650600228229425884651518522, 1267650600228229413690677361949, 1267650600228229407593690283662,
   1267650600228229404545196744519, 1267650600228229403020949974948, 1267650600228229402258826590162,
   1267650600228229401877764897769, 1267650600228229401687234051572, 1267650600228229401591968628474,
   1267650600228229401544335916925]

/-- 2^(f / 2^64) * 2^100, within 2^-90, for f below 2^64. -/
def expFraction (f : Nat) : Nat :=
  (rootTable.zipIdx).foldl (fun (a : Nat) p => if f / 2 ^ (63 - p.2) % 2 = 1 then a * p.1 / 2 ^ 100 else a) (2 ^ 100)

/-- A finite value's whole part, towards minus infinity, and its fraction in 1/2^64. -/
def splitPower (neg : Bool) (m : Nat) (e : Int) : Int × Nat :=
  let x := quanta m e (-64)
  let lost := decide (e < -64) && m % 2 ^ (-64 - e).toNat != 0
  if neg = false then ((x / 2 ^ 64 : Nat), x % 2 ^ 64)
  else
    let y := if lost then x + 1 else x
    (-((y + 2 ^ 64 - 1) / 2 ^ 64 : Nat), (2 ^ 64 - y % 2 ^ 64) % 2 ^ 64)

/-- The code of the largest non-negative FP32 value that is at most v * 2^q: 0 below 2^-126 (R75), the code of infinity from
where rounding overflows on (R82). -/
def codeDown (v : Nat) (q : Int) : Nat :=
  let t := topExp v q
  if v = 0 ∨ t < -126 then 0
  else if t > 127 ∨ (t = 127 ∧ quanta v q 103 ≥ 2 ^ 25 - 1) then 0x7F800000
  else (t + 126).toNat * 2 ^ 23 + quanta v q (t - 23)

/-- The code of the smallest such value that is at least v * 2^q. -/
def codeUp (v : Nat) (q : Int) : Nat :=
  let c := codeDown v q
  let t := topExp v q
  if c = 0 ∨ c = 0x7F800000 then c
  else if t - 23 > q ∧ v % 2 ^ (t - 23 - q).toNat ≠ 0 then c + 1 else c

/-- The lowest and the highest FP32 code within a relative error of 2^-b of 2^x (R89, R276). The power is known within 2^-62
of itself, and the range leaves that much out at each end (log 9). -/
def expRange (b : Nat) (neg : Bool) (m : Nat) (e : Int) : Nat × Nat :=
  let p := splitPower neg m e
  let a := expFraction p.2
  let w := a / 2 ^ b - a / 2 ^ 62
  (codeUp (a - w) (p.1 - 100), codeDown (a + w) (p.1 - 100))

/-- An integer value, if the value is a whole number. -/
def wholeNumber (neg : Bool) (m : Nat) (e : Int) : Option Int :=
  if e ≥ 0 then some (scaled neg m e 0)
  else if m % 2 ^ (-e).toNat = 0 then
    let x : Int := (m / 2 ^ (-e).toNat : Nat)
    some (if neg then -x else x)
  else none

/-- Place of an FP32 value among the finite values by rising value. -/
def expKey (w : Word32) : Nat :=
  let k := w.toNat % 2 ^ 31
  if w.msb then 2 ^ 31 - k else 2 ^ 31 + k

/-- EXP2 (R89): exact for whole numbers; otherwise a free value within the bound and between the powers of two on either side,
by a free choice that never falls, so that the whole is monotonic (log 9). -/
def fexp2 (w : Word32) : Word32 :=
  match decode32 w with
  | .nan => canonNan
  | .inf neg => if neg then 0 else 0x7F800000#32
  | .fin neg m e =>
    let v := Val.fin neg m e
    if !vlt v (.fin false 128 0) then 0x7F800000#32
    else if vlt v (.fin true 126 0) then 0
    else
      match wholeNumber neg m e with
      | some k => encode32 (.fin false 1 k)
      | none =>
        let r := expRange 12 neg m e
        let low := ((splitPower neg m e).1 + 127).toNat * 2 ^ 23
        BitVec.ofNat 32 (max (max low r.1) (min (min (low + 2 ^ 23) r.2) (Config.exp2Choice (expKey w))))

/-- The merge engine's 2^x with relative error at most 2^-20 (R276): a free value within the bound (log 9); overflow and
underflow follow R82. -/
def mexp2 (w : Word32) : Word32 :=
  match decode32 w with
  | .nan => canonNan
  | .inf neg => if neg then 0 else 0x7F800000#32
  | .fin neg m e =>
    let v := Val.fin neg m e
    if !vlt v (.fin false 256 0) then 0x7F800000#32
    else if vlt v (.fin true 256 0) then 0
    else
      let r := expRange 20 neg m e
      BitVec.ofNat 32 (r.1 + Config.mergeExp2Choice w % (r.2 - r.1 + 1))

/-- Softmax's natural exponential in terms of 2^x as the sampler forms it (R286). -/
def log2e : Word32 := 0x3FB8AA3B#32

/-! ## The adder tree (R46, R79 to R83) -/

/-- The block sum of products before scaling: special rows of R83, or the window sum in quanta (R79, R80). -/
def blockSum (ps : List Val) : Val :=
  if ps.any (fun p => p = .nan) then .nan
  else
    let pos := ps.any (fun p => p = .inf false)
    let neg := ps.any (fun p => p = .inf true)
    if pos && neg then .nan
    else if pos then .inf false
    else if neg then .inf true
    else
      let exps := ps.filterMap (fun p => match p with
        | .fin _ m e => if m = 0 then none else some (topExp m e)
        | _ => none)
      match exps with
      | [] => .zero
      | x :: xs =>
        let low := xs.foldl max x - 34
        let total := ps.foldl (fun (acc : Int) p => match p with
          | .fin n m e => if n then acc - (quanta m e low : Nat) else acc + (quanta m e low : Nat)
          | _ => acc) 0
        ofInt total low

/-- A block's contribution in FP32 (R82, R83): weights and activations, scale bytes (127 for BF16, R81). -/
def blockValue (ws as : List Val) (ew ea : Nat) : Word32 :=
  if ew = 255 ∨ ea = 255 then canonNan
  else encode32 (vscale (blockSum (List.zipWith vmul ws as)) ((ew : Int) + ea - 254))

end Sys2Proof.Machine
end

