-- ==== Sys2Proof/Machine/Rs.lean ====
section
/-! DEFINITION. The memory code RS(36,32) over GF(2^8) (R35 to R37) and SHA3-256 (R100, R287, R535). -/

namespace Sys2Proof.Machine

/-! ## The field -/

/-- Multiplication by α, a root of x^8 + x^4 + x^3 + x^2 + 1 (R35). -/
def gfDouble (a : Byte) : Byte := if a.getLsbD 7 then (a <<< 1) ^^^ 0x1D#8 else a <<< 1

/-- Product in GF(2^8), over the bits of b from low to high. -/
def gfMulAux : Nat → Byte → Byte → Byte
  | 0, _, _ => 0
  | n + 1, a, b => (if b.getLsbD 0 then a else 0) ^^^ gfMulAux n (gfDouble a) (b >>> 1)

def gfMul (a b : Byte) : Byte := gfMulAux 8 a b

/-- Powers by squaring steps of a fixed length. -/
def gfPow (a : Byte) : Nat → Byte
  | 0 => 1
  | n + 1 => gfMul a (gfPow a n)

/-- Inverse: a^254. -/
def gfInv (a : Byte) : Byte :=
  let a2 := gfMul a a
  let a4 := gfMul a2 a2
  let a8 := gfMul a4 a4
  let a16 := gfMul a8 a8
  let a32 := gfMul a16 a16
  let a64 := gfMul a32 a32
  let a128 := gfMul a64 a64
  gfMul a2 (gfMul a4 (gfMul a8 (gfMul a16 (gfMul a32 (gfMul a64 a128)))))

/-- α^i. -/
def gfAlpha (i : Nat) : Byte := gfPow 2#8 i

/-! ## The code -/

/-- The generator polynomial (x - 1)(x - α)(x - α^2)(x - α^3) less its leading term, from x^3 down (R35). -/
def rsGen : List Byte :=
  let times (p : List Byte) (r : Byte) : List Byte :=
    List.zipWith (· ^^^ ·) (p ++ [0]) (0 :: p.map (gfMul r))
  (times (times (times [1, 1] (gfAlpha 1)) (gfAlpha 2)) (gfAlpha 3)).drop 1

/-- One step of the division by the generator: the remainder, and the next data byte. -/
def rsStep (r : List Byte) (d : Byte) : List Byte :=
  let f := d ^^^ r.headD 0
  List.zipWith (· ^^^ ·) (r.drop 1 ++ [0]) (rsGen.map (gfMul f))

/-- Check bytes 0 to 3 of 32 data bytes (R35). -/
def rsCheck (data : List Byte) : List Byte := data.foldl rsStep [0, 0, 0, 0]

/-- Syndrome j of a word of 36 bytes, byte 0 the coefficient of x^35. -/
def rsSyndrome (w : List Byte) (j : Nat) : Byte := w.foldl (fun acc b => gfMul acc (gfAlpha j) ^^^ b) 0

/-- The poison pattern (R36). -/
def poisonPattern : List Byte := [0x96, 0x69, 0x96, 0x69]

/-- The syndromes of the poison pattern, the same for every data content (R36). -/
def poisonSyndromes : List Byte := (List.range 4).map (rsSyndrome poisonPattern)

/-- Outcomes of decoding a column (R37). -/
inductive Decoded where
  | clean | corrected (symbols : Nat) | poisoned | uncorrectable
  deriving DecidableEq, Repr

/-- A word with byte p changed. -/
def xorAt (w : List Byte) (p : Nat) (x : Byte) : List Byte := w.modify p (· ^^^ x)

/-- Correction of one symbol at byte p, if the syndromes say so. -/
def fixOne (w : List Byte) (s : List Byte) : Option (List Byte) :=
  let s0 := s.getD 0 0
  ((List.range 36).find? (fun p =>
      let x := gfAlpha (35 - p)
      s0 ≠ 0 && gfMul s0 x = s.getD 1 0 && gfMul (s.getD 1 0) x = s.getD 2 0 && gfMul (s.getD 2 0) x = s.getD 3 0)).map
    (fun p => xorAt w p s0)

/-- Correction of two symbols, located by the two roots of the error locator among the 36 places. -/
def fixTwo (w : List Byte) (s : List Byte) : Option (List Byte) :=
  let s0 := s.getD 0 0
  let s1 := s.getD 1 0
  let s2 := s.getD 2 0
  let s3 := s.getD 3 0
  let det := gfMul s0 s2 ^^^ gfMul s1 s1
  if det = 0 then none
  else
    let i := gfInv det
    let sum := gfMul (gfMul s0 s3 ^^^ gfMul s1 s2) i
    let prod := gfMul (gfMul s1 s3 ^^^ gfMul s2 s2) i
    match (List.range 36).filter (fun p =>
        let x := gfAlpha (35 - p)
        gfMul x x ^^^ gfMul sum x ^^^ prod = 0) with
    | [p, q] =>
      let x := gfAlpha (35 - p)
      let y := gfAlpha (35 - q)
      let e := gfMul (s1 ^^^ gfMul s0 y) (gfInv (x ^^^ y))
      if e ≠ 0 ∧ s0 ^^^ e ≠ 0 then some (xorAt (xorAt w p e) q (s0 ^^^ e)) else none
    | _ => none

/-- Decoding of 36 bytes (R37): outcome and the data bytes used. -/
def rsDecode (w : List Byte) : Decoded × List Byte :=
  let s := (List.range 4).map (rsSyndrome w)
  if s = [0, 0, 0, 0] then (.clean, w.take 32)
  else if s = poisonSyndromes then (.poisoned, w.take 32)
  else
    match fixOne w s with
    | some v => (.corrected 1, v.take 32)
    | none =>
      match fixTwo w s with
      | some v => (.corrected 2, v.take 32)
      | none => (.uncorrectable, w.take 32)

/-! ## SHA3-256 (FIPS 202) -/

/-- Rotation amounts of ρ by lane x + 5 y. -/
def keccakRot : List Nat :=
  [0, 1, 62, 28, 27, 36, 44, 6, 55, 20, 3, 10, 43, 25, 39, 41, 45, 15, 21, 8, 18, 2, 61, 56, 14]

/-- Round constants of ι. -/
def keccakRc : List (BitVec 64) :=
  [0x0000000000000001, 0x0000000000008082, 0x800000000000808A, 0x8000000080008000, 0x000000000000808B,
   0x0000000080000001, 0x8000000080008081, 0x8000000000008009, 0x000000000000008A, 0x0000000000000088,
   0x0000000080008009, 0x000000008000000A] ++
  [0x000000008000808B, 0x800000000000008B, 0x8000000000008089, 0x8000000000008003, 0x8000000000008002,
   0x8000000000000080, 0x000000000000800A, 0x800000008000000A, 0x8000000080008081, 0x8000000000008080,
   0x0000000080000001, 0x8000000080008008]

/-- One round of Keccak-f[1600] on 25 lanes. -/
def keccakRound (a : List (BitVec 64)) (rc : BitVec 64) : List (BitVec 64) :=
  let at' (l : List (BitVec 64)) (i : Nat) := l.getD i 0
  let c := (List.range 5).map (fun x => at' a x ^^^ at' a (x + 5) ^^^ at' a (x + 10) ^^^ at' a (x + 15) ^^^ at' a (x + 20))
  let d := (List.range 5).map (fun x => at' c ((x + 4) % 5) ^^^ (at' c ((x + 1) % 5)).rotateLeft 1)
  let t := (List.range 25).map (fun i => (at' a i ^^^ at' d (i % 5)).rotateLeft (keccakRot.getD i 0))
  -- π: B[y, 2x + 3y] = A[x, y]; lane (X, Y) of B comes from x = (X + 3Y) mod 5, y = X
  let b := (List.range 25).map (fun i => at' t ((i % 5 + 3 * (i / 5)) % 5 + 5 * (i % 5)))
  let e := (List.range 25).map (fun i =>
    at' b i ^^^ (~~~ (at' b ((i + 1) % 5 + 5 * (i / 5))) &&& at' b ((i + 2) % 5 + 5 * (i / 5))))
  e.modify 0 (· ^^^ rc)

def keccakF (a : List (BitVec 64)) : List (BitVec 64) := keccakRc.foldl keccakRound a

/-- A list cut into pieces of n. -/
def chunks {α : Type} (n : Nat) : Nat → List α → List (List α)
  | 0, _ => []
  | f + 1, xs => if xs.isEmpty then [] else xs.take n :: chunks n f (xs.drop n)

/-- Padding to a whole number of 136-byte blocks. -/
def sha3Pad (m : List Byte) : List Byte :=
  let r := 136 - m.length % 136
  if r = 1 then m ++ [0x86] else m ++ 0x06 :: (List.replicate (r - 2) 0 ++ [0x80])

/-- SHA3-256 of a byte string, as 32 bytes. -/
def sha3 (m : List Byte) : List Byte :=
  let p := sha3Pad m
  let out := (chunks 136 (p.length / 136) p).foldl (fun a blk =>
    keccakF (List.zipWith (· ^^^ ·) a
      ((List.range 25).map (fun i => BitVec.ofNat 64 (leNat ((blk.drop (8 * i)).take 8))))))
    (List.replicate 25 0)
  (out.take 4).flatMap (fun w => toLe 8 w.toNat)

/-- The digest as a number whose byte 0 is the digest's first byte. -/
def sha3Word (m : List Byte) : BitVec 256 := BitVec.ofNat 256 (leNat (sha3 m))

end Sys2Proof.Machine
end

