-- ==== Sys2Proof/Machine/Flags.lean ====
section
/-! DEFINITION. Status codes, abort codes, emergency codes, and how events are logged (R493, R509, R510, R554 to R556). -/

namespace Sys2Proof.Machine

/-! ## Status codes (R554) -/

namespace Code
def ok : BitVec 16 := 0x0000
def unsettled : BitVec 16 := 0x0001
def poisoned : BitVec 16 := 0x0002
def waitTimeout : BitVec 16 := 0x0003
def staleDoorbell : BitVec 16 := 0x0004
def cmdInvalid : BitVec 16 := 0x0005
def loadRefused : BitVec 16 := 0x0006
def loadBusy : BitVec 16 := 0x0007
def overQuota : BitVec 16 := 0x0010
def noSpace : BitVec 16 := 0x0011
def noSlot : BitVec 16 := 0x0012
def modeBusy : BitVec 16 := 0x0013
def descFormat : BitVec 16 := 0x0014
def descAlign : BitVec 16 := 0x0015
def descExtent : BitVec 16 := 0x0016
def descPadExtent : BitVec 16 := 0x0017
def descOverlap : BitVec 16 := 0x0018
def descInUse : BitVec 16 := 0x0019
def penBind : BitVec 16 := 0x001A
def accessDenied : BitVec 16 := 0x001B
def badRequest : BitVec 16 := 0x001C
def hostLost : BitVec 16 := 0x0020
def ueColumn : BitVec 16 := 0x0021
def linkRecovery : BitVec 16 := 0x0022
def linkFailed : BitVec 16 := 0x0023
def fenced : BitVec 16 := 0x0024
def gateTimeout : BitVec 16 := 0x0025
def clkFault : BitVec 16 := 0x0026
def xtalLost : BitVec 16 := 0x0027
def itoFault : BitVec 16 := 0x0028
def shutdown : BitVec 16 := 0x0029
def budgetUnmet : BitVec 16 := 0x002A
def telemetryLost : BitVec 16 := 0x002B
def retireFull : BitVec 16 := 0x002C
def forcedCompletion : BitVec 16 := 0x002D
def sensorFailed : BitVec 16 := 0x002E
def ceiling : BitVec 16 := 0x002F
def ctxReset : BitVec 16 := 0x0030
def regulator : BitVec 16 := 0x0031
def thermalLevel : BitVec 16 := 0x0032
def canBus : BitVec 16 := 0x0033
def cleared : BitVec 16 := 0x0034
end Code

/-! ## Abort codes of the dictionary (R493) -/

namespace Abort
def none : Word32 := 0
def noIndex : Word32 := 0x06020000
def noSub : Word32 := 0x06090011
def writeOnly : Word32 := 0x06010001
def readOnly : Word32 := 0x06010002
def length : Word32 := 0x06070010
def range : Word32 := 0x06090030
def state : Word32 := 0x08000022
def unavailable : Word32 := 0x08000024
def noSnapshot : Word32 := 0x08000020
def busy : Word32 := 0x08000021
def segmentTimeout : Word32 := 0x05040000
end Abort

/-! ## Emergencies (R509, R510) -/

/-- The bit of the error register that a condition's code sets (R509 'Register bit'); bit 0 is set besides for any
condition (R510). -/
def conditionBit (code : BitVec 16) : BitVec 8 :=
  if code = 0x4200 ∨ code = 0x4210 then 0x08
  else if code = 0x5010 then 0x01
  else if code = 0x8120 then 0x10
  else if code = 0xFF01 then 0x80
  else if code = 0xFF02 then 0x02
  else 0

/-- ERROR_REGISTER 0x1001 (R510). -/
def errorRegister (m : Mgmt) : BitVec 8 :=
  m.conditions.foldl (fun r c => r ||| conditionBit c.1 ||| 1) 0

/-- The status code under which an EMCY event is logged (R556). -/
def logCodeOf (emcy : BitVec 16) : BitVec 16 :=
  if emcy = 0x3200 ∨ emcy = 0x3300 then Code.regulator
  else if emcy = 0x4200 ∨ emcy = 0x4210 then Code.thermalLevel
  else if emcy = 0x4300 then Code.shutdown
  else if emcy = 0x5010 then Code.sensorFailed
  else if emcy = 0x5020 then Code.itoFault
  else if emcy = 0x8110 ∨ emcy = 0x8120 ∨ emcy = 0x8140 then Code.canBus
  else if emcy = 0xFF01 then Code.budgetUnmet
  else if emcy = 0xFF02 then Code.telemetryLost
  else if emcy = 0xFF10 then Code.ueColumn
  else if emcy = 0xFF11 then Code.retireFull
  else if emcy = 0xFF12 then Code.linkFailed
  else if emcy = 0xFF20 then Code.fenced
  else if emcy = 0xFF30 then Code.hostLost
  else if emcy = 0xFF40 then Code.gateTimeout
  else Code.cleared

/-- The error log with one more entry; when it holds 8,192 the oldest is discarded (R555). -/
def Mgmt.logEntry (m : Mgmt) (e : LogEntry) : Mgmt :=
  { m with log := (if m.log.length < 8192 then m.log else m.log.drop 1) ++ [e], logCount := bump m.logCount 1 }

/-- A log-only event (R556). -/
def State.logOnly (s : State) (code : BitVec 16) (inst : Nat) (ctx : BitVec 8) (value address : Nat) : State :=
  let e : LogEntry :=
    { time := s.ring.timebase, code := code, inst := BitVec.ofNat 16 inst, ctx := ctx, emcy := 0,
      value := BitVec.ofNat 64 value, address := BitVec.ofNat 64 address }
  { s with mgmt := s.mgmt.logEntry e }

/-- An EMCY message enters the queue of 16, or is lost and counted (R509). -/
def Mgmt.queueEmcy (m : Mgmt) (e : Emcy) : Mgmt :=
  if m.emcyQ.length < 16 then { m with emcyQ := m.emcyQ ++ [e] }
  else { m with emcyDropped := bump m.emcyDropped 1, emcyLost := true }

/-- An EMCY event: history, log and message (R509, R514, R556). -/
def Mgmt.emcy (m : Mgmt) (time : Nat) (code : BitVec 16) (inst value : Nat) (ctx : BitVec 8) (address : Nat) : Mgmt :=
  let reg := errorRegister m
  let m := { m with history := ((BitVec.ofNat 32 (inst % 256 * 2 ^ 24 + reg.toNat * 2 ^ 16 + code.toNat)) :: m.history).take 16 }
  let e : LogEntry :=
    { time := time, code := logCodeOf code, inst := BitVec.ofNat 16 inst, ctx := ctx, emcy := code,
      value := BitVec.ofNat 64 value, address := BitVec.ofNat 64 address }
  let m := m.logEntry e
  m.queueEmcy { code := code, register := reg, inst := BitVec.ofNat 8 inst, value := BitVec.ofNat 32 value, time := time }

def State.emcyCtx (s : State) (code : BitVec 16) (inst value : Nat) (ctx : BitVec 8) (address : Nat) : State :=
  { s with mgmt := s.mgmt.emcy s.ring.timebase code inst value ctx address }

/-- An EMCY event that concerns no context and no address. -/
def State.emcyEvent (s : State) (code : BitVec 16) (inst value : Nat) : State := s.emcyCtx code inst value 0xFF 0

/-- A condition becomes active and is announced (R509, R510); one already active is not announced again. -/
def State.raiseCondition (s : State) (code : BitVec 16) (inst value : Nat) : State :=
  if s.mgmt.conditions.contains (code, BitVec.ofNat 8 inst) then s
  else
    let s := { s with mgmt := { s.mgmt with conditions := s.mgmt.conditions ++ [(code, BitVec.ofNat 8 inst)] } }
    s.emcyEvent code inst value

/-- A condition clears: code 0x0000 names it (R510). -/
def State.clearCondition (s : State) (code : BitVec 16) (inst : Nat) : State :=
  if s.mgmt.conditions.contains (code, BitVec.ofNat 8 inst) then
    let s := { s with mgmt := { s.mgmt with conditions := s.mgmt.conditions.erase (code, BitVec.ofNat 8 inst) } }
    s.emcyEvent 0x0000 0 code.toNat
  else s

/-- FAULT_CAUSE 0x2902:00 (R517). -/
def State.faultCause (s : State) : BitVec 16 :=
  (if s.clk.clkFault then 1 else 0) ||| (if s.clk.xtalLost then 2 else 0) ||| (if s.boot.shut then 4 else 0)

/-- FAULT_n: driven low while any bit of FAULT_CAUSE is set and VAUX is present (R574). True is high. -/
def State.faultN (s : State) : Bool := !(s.boot.auxGood && s.faultCause != 0)

end Sys2Proof.Machine
end

