-- ==== Sys2Proof/Machine/Ops.lean ====
section
/-! DEFINITION. The named operations over the state: accessors, addresses, columns, reports, pennants, roll calls. -/

namespace Sys2Proof.Machine

/-! ## Accessors: every read and write of a table of the state goes through these -/

def State.quad (s : State) (q : Nat) : Quad := tget Quad.init s.quads q
def State.setQuad (s : State) (q : Nat) (x : Quad) : State := { s with quads := tset Quad.init s.quads q x }
def State.modQuad (s : State) (q : Nat) (f : Quad → Quad) : State := s.setQuad q (f (s.quad q))

def Quad.slot (x : Quad) (i : Nat) : Slot := tget Slot.init x.slots i
def Quad.setSlot (x : Quad) (i : Nat) (y : Slot) : Quad := { x with slots := tset Slot.init x.slots i y }
def Quad.modSlot (x : Quad) (i : Nat) (f : Slot → Slot) : Quad := x.setSlot i (f (x.slot i))
def State.slot (s : State) (q i : Nat) : Slot := (s.quad q).slot i
def State.modSlot (s : State) (q i : Nat) (f : Slot → Slot) : State := s.modQuad q (fun x => x.modSlot i f)

def State.ctx (s : State) (c : Nat) : Ctx := tget Ctx.init s.ctxs c
def State.setCtx (s : State) (c : Nat) (x : Ctx) : State := { s with ctxs := tset Ctx.init s.ctxs c x }
def State.modCtx (s : State) (c : Nat) (f : Ctx → Ctx) : State := s.setCtx c (f (s.ctx c))

def State.cfg (s : State) (c : Nat) : CtxCfg := tget CtxCfg.init s.cfgs c
def State.modCfg (s : State) (c : Nat) (f : CtxCfg → CtxCfg) : State :=
  { s with cfgs := tset CtxCfg.init s.cfgs c (f (s.cfg c)) }

def State.stack (s : State) (i : Nat) : Stack := tget Stack.init s.stk i
def State.modStack (s : State) (i : Nat) (f : Stack → Stack) : State :=
  { s with stk := tset Stack.init s.stk i (f (s.stack i)) }

def State.bank (s : State) (u : Nat) : Bank := tget Bank.init s.banks u
def State.modBank (s : State) (u : Nat) (f : Bank → Bank) : State :=
  { s with banks := tset Bank.init s.banks u (f (s.bank u)) }

def State.unit (s : State) (u : Nat) : BankUnit := tget BankUnit.init s.units u
def State.modUnit (s : State) (u : Nat) (f : BankUnit → BankUnit) : State :=
  { s with units := tset BankUnit.init s.units u (f (s.unit u)) }

def State.pen (s : State) (p : Nat) : Pennant := tget Pennant.free s.sync.pens p
def State.setPen (s : State) (p : Nat) (x : Pennant) : State :=
  { s with sync := { s.sync with pens := tset Pennant.free s.sync.pens p x } }

def State.rollCall (s : State) (r : Nat) : RollCall := tget RollCall.free s.sync.rolls r
def State.setRoll (s : State) (r : Nat) (x : RollCall) : State :=
  { s with sync := { s.sync with rolls := tset RollCall.free s.sync.rolls r x } }

def State.site (s : State) (i : Nat) : Site := tget Site.init s.therm.sites i
def State.port (s : State) (p : Nat) : Port := tget Port.init s.ring.ports p
def State.modPort (s : State) (p : Nat) (f : Port → Port) : State :=
  { s with ring := { s.ring with ports := tset Port.init s.ring.ports p (f (s.port p)) } }
def State.gate (s : State) (g : Nat) : Gate := tget Gate.init s.clk.gates g
def State.modGate (s : State) (g : Nat) (f : Gate → Gate) : State :=
  { s with clk := { s.clk with gates := tset Gate.init s.clk.gates g (f (s.gate g)) } }

/-- Something sent outside. -/
def State.emit (s : State) (o : Output) : State := { s with out := o :: s.out }

/-- A vendor-specific mailbox command answers: its 4-byte status code and payload; vector 16 signals the completion (R405, R406). -/
def State.answer (s : State) (code : BitVec 16) (payload : List Byte) : State :=
  (s.emit (.mailbox (code.zeroExtend 32) payload)).emit (.msix 16)

/-- A mailbox command ends with a return code of CXL 3.1 (R376, R529). -/
def State.cxlAnswer (s : State) (rc : Rc) (payload : List Byte) : State := (s.emit (.cxlAnswer rc payload)).emit (.msix 16)

/-- A CXL event record, signalled on vector 17 (R364, R405). -/
def State.addEvent (s : State) (kind addr : Nat) : State :=
  let e : CxlEvent := ⟨kind, addr⟩
  ({ s with host := { s.host with events := s.host.events ++ [e] } } : State).emit (.msix 17)

/-! ## Time and its accounting (R20, R190, R191) -/

namespace Sat
def column : Nat := 1
def slices : Nat := 2
def merge : Nat := 3
def exchange : Nat := 4
def thermal : Nat := 7
def budget : Nat := 8
def refresh : Nat := 9
def late : Nat := 10
def sync : Nat := 11
def scoreboard : Nat := 12
end Sat

/-- Time assigned to a saturation code, in units of 1/40 ns (R190). -/
def State.account (s : State) (q code n : Nat) : State :=
  s.modQuad q (fun x => { x with sat := tmod 0 x.sat code (· + n) })

/-- A cycle of the command clock in units of 1/40 ns: a quarter of the beat of R3 (R64). -/
def pointCycle (p : Nat) : Nat := [16, 20, 25, 32].getD p 16
/-- Nominal command-clock cycles per beat: 4, or 8 with the hazard recorder on (R177, R478). -/
def Quad.cycles (x : Quad) : Nat := if x.hazard then 8 else 4
/-- Nominal length of a beat (R3, R177). -/
def Quad.beatLen (x : Quad) : Nat := x.cycles * pointCycle x.point

/-- A word of the quadrant's selected context holds the beat: there is a beat to stretch. -/
def Quad.stretching (x : Quad) : Bool :=
  match x.sel with
  | some sl => (x.slot sl).st == .issuing
  | none => false

/-- What a word blocked at a beat that is not quiet waits for, whose context holds the quadrant in place (R166). -/
def Quad.inPlace (x : Quad) : Option Blocked :=
  match x.sel with
  | some sl => if (x.slot sl).st = .issuing then (x.slot sl).blocked else none
  | none => none

/-- Rank of a cause among those that clear together (R190); the four that R190 does not name come after it (log 28). -/
def holdRank (code : Nat) : Nat :=
  if code = Sat.refresh then 0 else if code = Sat.thermal then 1 else if code = Sat.budget then 2
  else if code = Sat.late then 3 else 4

/-- A cause holds the present beat for a time. Stretches from different causes do not add: the beat lasts to the end of the
longest, and the time goes to the cause that held it last (R66, R190). -/
def Quad.hold (x : Quad) (code n : Nat) : Quad :=
  if n > x.holdLen ∨ (n = x.holdLen ∧ n ≠ 0 ∧ holdRank code < holdRank x.holdCode) then { x with holdLen := n, holdCode := code }
  else x

/-- The beat ends: its stretch is assigned (R190). -/
def State.endHold (s : State) (q : Nat) : State :=
  let x := s.quad q
  if x.holdLen = 0 then s else ((s.account q x.holdCode x.holdLen).modQuad q (fun x => { x with holdLen := 0, holdCode := 0 }))

/-- A hold of the beat whose length the spec bounds and does not fix, in whole units: a free number of units up to the bound
(R190, R341, log 28). -/
def State.accountHold (s : State) (q code unit bound : Nat) : State :=
  if (s.quad q).stretching then
    { s with free := s.free + 1 }.modQuad q (fun x => x.hold code (Config.freeNat s.free % (bound / unit + 1) * unit))
  else s

/-- A hold of the beat whose length the spec does not state: a free length (R190, R341, log 28). -/
def State.accountOpen (s : State) (q code : Nat) : State :=
  if (s.quad q).stretching then { s with free := s.free + 1 }.modQuad q (fun x => x.hold code (Config.freeNat s.free)) else s

/-- Issue rate of a quadrant in 1/256 (R478). -/
def State.rateInForce (s : State) (q : Nat) : Nat :=
  let r := min (s.quad q).thermalRate s.pow.budgetRate
  let r := if s.pow.mode = 1 then min r s.pow.fixedRate.toNat else r
  if s.clk.xtalLost then min r 128 else r

/-- Cycles by which the issue rate stretches the n beats from beat k on (R478). -/
def rateStretch (k n c r : Nat) : Nat := ceilDiv ((k + n) * c * 256) r - ceilDiv (k * c * 256) r - n * c

/-- Beats of a quadrant pass at the issue rate in force, counted from the moment it took effect (R478): the last of them is the present
beat, which other causes may hold as well (R66); the stretches of the others are assigned at once (R190). -/
def State.passRate (s : State) (q n : Nat) (assigned : Bool) : State :=
  let x := s.quad q
  let r := s.rateInForce q
  let seen := 16 * r + x.cycles
  let k := if x.rateSeen = seen then x.rateK else 0
  let code := if x.thermalRate = r then Sat.thermal else Sat.budget
  let s := s.setQuad q { x with rateK := k + n, rateSeen := seen }
  if assigned then
    (s.account q code (rateStretch k (n - 1) x.cycles r * pointCycle x.point)).modQuad q
      (fun x => x.hold code (rateStretch (k + (n - 1)) (min n 1) x.cycles r * pointCycle x.point))
  else s

/-- What a waiting slot waits for (R190): the completion pennant of a share of its own, a region, or another thing. -/
def State.waitCode (s : State) (q sl : Nat) : Option Nat :=
  let y := s.slot q sl
  match y.st, y.ctx, y.blocked with
  | .waiting, some c, some (.pennant ident _) =>
    let b := tget PenBinding.unbound (s.ctx c).pens ident
    let on (hs : List Share) (bit : Nat) : Bool :=
      hs.any (fun h => decide (h.ctx = c ∧ h.binding = b) && h.record.getLsbD bit)
    if (List.range 4).any (fun p => on (s.quad p).mq 507) then some Sat.merge
    else if (List.range 4).any (fun p => on (s.quad p).xq 505) then some Sat.exchange
    else some Sat.sync
  | .waiting, some _, some (.region _ _) => some Sat.scoreboard
  | .waiting, some _, _ => some Sat.sync
  | _, _, _ => none

/-- Time of a quadrant in which no word issues while contexts wait (R190); with several waiting, for different things, the
spec does not say whose thing it goes to: a free choice (log 28). No word issues either while a blocked word holds the quadrant in
place; a REPORT word held so is time of SYNC (R166, R403). -/
def State.accountWait (s : State) (q ns : Nat) : State :=
  let place := (s.quad q).inPlace
  if (s.quad q).stretching && place.isNone then s
  else
    match (List.range 4).filterMap (fun sl => s.waitCode q sl) ++ (if place = some .reportBuffer then [Sat.sync] else []) with
    | [] => s
    | [k] => s.account q k (40 * ns)
    | ks => { s with free := s.free + 1 }.account q (ks.getD (Config.freeNat s.free % ks.length) 0) (40 * ns)

/-- What is left of an offset from the master, in ps, when the timebase has gone from `t0` to `t1` ns at a rate in ppm: 100 ppm are a ps in
10 ns (R441; log 47). -/
def disciplined (e rate : Int) (t0 t1 : Nat) : Int :=
  let w : Int := ((t1 / 10 - t0 / 10 : Nat) : Int) * rate / 100
  if e ≤ 0 then min 0 (e - w) else max 0 (e - w)

/-- The timebase, a 64-bit count, reaches a later value (R20). A member that follows the master disciplines it (R441), in holdover it
keeps its rate (R442). -/
def State.passTime (s : State) (t : Nat) : State :=
  if t ≤ s.ring.timebase then s
  else
    let d := t - s.ring.timebase
    let s := (List.range 4).foldl (fun (s : State) q => s.accountWait q d) s
    let live := decide (s.ring.state = 2 ∧ s.ring.holdover = false)
    let e := if live then BitVec.ofInt 32 (disciplined s.ring.timeError.toInt s.ring.rate s.ring.timebase t)
      else s.ring.timeError
    { s with ring := { s.ring with timebase := t % 2 ^ 64, timeError := e, rate := if live && e == 0 then 0 else s.ring.rate } }

/-- A bell has rung at the present timebase: what happens now happens on that bell (R26, R313, R318). DESIGN CHOICE (log 83): the beat of
a bell is the nanosecond of the timebase at which it rings; the beats of the four quadrants, which differ, are not asked. -/
def State.onBell (s : State) : Bool := decide (s.ring.bells ≠ 0 ∧ s.ring.timebase = s.ring.lastBell)

/-- A gate group stays shut until it is open (R461, R463). -/
def State.shutGate (s : State) (g : Nat) : Bool := decide ((s.gate g).state ≥ 2)

/-- A demand on a gate group (R463, R464): it abandons a close that has not taken place, and opens a closed group. -/
def State.demandGate (s : State) (g : Nat) : State :=
  let x := s.gate g
  if x.state = 0 then s
  else if x.state = 1 then s.modGate g (fun x => { x with state := 0 })
  else s.modGate g (fun x => { x with state := 3, demands := x.demands + 1 })

/-- The stacks of a quadrant are in self-refresh: its point changes, or its gate is shut (R356, R462). -/
def State.selfRefresh (s : State) (q : Nat) : Bool := (s.quad q).changing || s.shutGate q

/-- The next free value, as a word (log 5). -/
def State.draw (w : Nat) (s : State) : BitVec w × State :=
  (BitVec.ofNat w (Config.freeNat s.free), { s with free := s.free + 1 })

/-! ## Addresses (R13, R15, R193) -/

/-- Bank number of a stack, die and bank: bits [40:27] of the bank-view address. -/
def bankNo (stack die bank : Nat) : Nat := (stack * 16 + die) * 32 + bank
def stackOf (bank : Nat) : Nat := bank / 512
def dieOf (bank : Nat) : Nat := bank / 32 % 16
def bankOf (bank : Nat) : Nat := bank % 32
/-- Quadrant q owns stacks 5q to 5q + 4 (R9). -/
def quadOfStack (stack : Nat) : Nat := stack / 5
def quadOf (bank : Nat) : Nat := quadOfStack (stackOf bank)
/-- Column number: bank-view address / 32. -/
def colNo (bank row col : Nat) : Nat := bank * 2 ^ 22 + row * 64 + col
def bankOfCol (c : Nat) : Nat := c / 2 ^ 22
def rowOfCol (c : Nat) : Nat := c / 64 % 65536
def plotOfCol (c : Nat) : Nat := c / 2048
def bankOfPlot (p : Nat) : Nat := p / 2048

/-- Flat view to bank view (R193). -/
def flatToBank (f : Nat) : Nat :=
  let c := f / 4096
  let s0 := c % 20
  let m := c / 20
  let p := m / 512
  let die := (m / 32 % 16) ^^^ (p % 16)
  let bank := (m % 32) ^^^ (p / 16 % 32)
  let stack := (s0 + p / 512) % 20
  let row := 2 * p + f / 2048 % 2
  stack * 2 ^ 36 + die * 2 ^ 32 + bank * 2 ^ 27 + row * 2 ^ 11 + f % 2048

/-- Bank view to flat view (R193). -/
def bankToFlat (b : Nat) : Nat :=
  let stack := b / 2 ^ 36
  let die := b / 2 ^ 32 % 16
  let bank := b / 2 ^ 27 % 32
  let row := b / 2 ^ 11 % 65536
  let p := row / 2
  let m := p * 512 + (die ^^^ (p % 16)) * 32 + (bank ^^^ (p / 16 % 32))
  let s0 := (stack + 80 - p / 512) % 20
  (20 * m + s0) * 4096 + row % 2 * 2048 + b % 2048

/-! ## Columns -/

/-- The 36 stored bytes of a column. -/
def Memory.raw (m : Memory) (col : Nat) : List Byte := readBytes m.data (32 * col) 32 ++ readBytes m.chk (4 * col) 4

/-- Decoding of a column (R37). -/
def Memory.decode (m : Memory) (col : Nat) : Decoded × List Byte := rsDecode (m.raw col)

/-- A column stored with fresh check bytes, XORed with the poison pattern when poisoned (R35, R36). -/
def Memory.store (m : Memory) (col : Nat) (data : List Byte) (poison : Bool) : Memory :=
  let chk := rsCheck data
  { data := writeBytes m.data (32 * col) data
    chk := writeBytes m.chk (4 * col) (if poison then List.zipWith (· ^^^ ·) chk poisonPattern else chk) }

/-- A write of a column by any source; a failed stack discards it (R557). -/
def State.storeCol (s : State) (col : Nat) (data : List Byte) (poison : Bool) : State :=
  if (s.stack (stackOf (bankOfCol col))).failed then s else { s with mem := s.mem.store col data poison }

/-- What a read of a column gives: a failed stack answers uncorrectable (R557). -/
def State.decodeCol (s : State) (col : Nat) : Decoded × List Byte :=
  if (s.stack (stackOf (bankOfCol col))).failed then (.uncorrectable, List.replicate 32 0) else s.mem.decode col

def Decoded.bad : Decoded → Bool
  | .poisoned => true
  | .uncorrectable => true
  | _ => false

/-- The decoded column as the latch holds it (R37, R70). -/
def State.column (s : State) (col : Nat) : Column :=
  let d := s.decodeCol col
  { data := BitVec.ofNat 256 (leNat d.2), poison := d.1.bad, ue := decide (d.1 = .uncorrectable) }

/-! ## Retirement and uncorrectable columns (R39, R361, R362, R509, R557) -/

/-- Whether a live allocation of any context holds the plot (R194, R197). -/
def Allocation.holdsPlot (a : Allocation) (p : Nat) : Bool :=
  let b := bankOfPlot p
  let i := p % 2048
  a.live && !a.staging && decide (a.stackLo ≤ stackOf b ∧ stackOf b ≤ a.stackHi) &&
    decide (a.dieLo ≤ dieOf b ∧ dieOf b ≤ a.dieHi) && decide (a.bankLo ≤ bankOf b ∧ bankOf b ≤ a.bankHi) &&
    decide (a.lo ≤ i ∧ i ≤ a.hi)

def State.plotAllocated (s : State) (p : Nat) : Bool :=
  s.ctxs.any (fun c => c.2.allocs.any (fun a => a.2.holdsPlot p))

/-- A queued plot is retired and entered in the list of at most 65,536 entries (R362). -/
def State.retirePlot (s : State) (p : Nat) : State :=
  let h := s.health
  if h.retired.contains p then { s with health := { h with queued := h.queued.erase p } }
  else if h.retired.length < 65536 then
    { s with health := { h with retired := h.retired ++ [p], queued := h.queued.erase p, clearing := h.clearing.erase p } }
  else if h.retireFull then s
  else { s with health := { h with retireFull := true } }.emcyEvent 0xFF11 0 65536

/-- A plot is queued for retirement; in no allocation it is retired at once (R361, R362). Plots of a failed stack are not
queued (R557). -/
def State.queuePlot (s : State) (p : Nat) : State :=
  if (s.stack (stackOf (bankOfPlot p))).failed ∨ s.health.retired.contains p ∨ s.health.queued.contains p then s
  else
    let s := { s with health := { s.health with queued := s.health.queued ++ [p] } }
    if s.plotAllocated p then s else s.retirePlot p

/-- An uncorrectable column decoded on any path (R361, R363, R509, R556, R557): counted, logged, its plot queued. On a
failed stack only the first in a lesson is logged and no plot is queued. -/
def State.noteUe (s : State) (col : Nat) : State :=
  let u := bankOfCol col
  let st := stackOf u
  let k := s.stack st
  let s := s.modStack st (fun k => { k with ueCount := bump k.ueCount 1, ueLogged := k.failed })
  let s := s.modBank u (fun b => { b with ueSeen := true })
  let s := if k.failed && k.ueLogged then s else s.emcyCtx 0xFF10 st (k.ueCount.toNat + 1) 0xFF (32 * col)
  let s := if k.failed then s
    else s.addEvent 1 (32 * col)
  s.queuePlot (plotOfCol col)

/-- The event record of the bank unit that decoded a column (R37, R39). -/
def EventRec.note (e : EventRec) (d : Decoded) (row col : Nat) : EventRec :=
  match d with
  | .corrected _ => { e with ce := satInc e.ce }
  | .uncorrectable =>
    { e with ue := satInc e.ue, firstUe := (match e.firstUe with
        | some x => some x
        | none => some (BitVec.ofNat 16 row, BitVec.ofNat 6 col)) }
  | _ => e

/-! ## Lessons -/

/-- The lesson of a context is marked unsettled; the first ORIGIN and quadrant are kept (R174). -/
def Ctx.markUnsettled (c : Ctx) (q origin : Nat) : Ctx :=
  match c.lesson with
  | none => c
  | some l =>
    { c with lesson := some { l with
        unsettledMark := true
        unsettled := (match l.unsettled with
          | some x => some x
          | none => some (origin, q)) } }

def State.markUnsettled (s : State) (c q origin : Nat) : State := s.modCtx c (fun x => x.markUnsettled q origin)

/-- The same for the context of a slot. -/
def State.unsettleSlot (s : State) (q sl origin : Nat) : State :=
  match (s.slot q sl).ctx with
  | some c => s.markUnsettled c q origin
  | none => s

/-- A context is dismissed from its creation to its first lesson and between lessons (R152). -/
def Ctx.dismissed (c : Ctx) : Bool := c.lesson.isNone

/-- A lost block reached by the lesson of a context is noted for its RECOMPUTE record (R227, R400, R401). -/
def Ctx.noteLost (c : Ctx) (handle tid blk : Nat) : Ctx :=
  match c.lesson with
  | none => c
  | some l =>
    let r := if l.recompute.any (fun x => x.1 = handle) then
        l.recompute.map (fun x => if x.1 = handle ∧ x.2.2.contains blk = false then (x.1, x.2.1, x.2.2 ++ [blk]) else x)
      else l.recompute ++ [(handle, tid, [blk])]
    { c with lesson := some { l with recompute := r } }

/-! ## Accesses and the scoreboard's boxes (R182, R189) -/

/-- The field ranges of BOUNDS: bank view or staging SRAM. -/
def SbEntry.ranges (e : SbEntry) : List (Nat × Nat) :=
  let b := e.bounds
  if e.space then [(fld b 71 51, fld b 50 30)]
  else [(fld b 71 67, fld b 66 62), (fld b 61 58, fld b 57 54), (fld b 53 49, fld b 48 44), (fld b 43 28, fld b 27 12),
    (fld b 11 6, fld b 5 0)]

/-- The two columns of an access; none of one that is a pane fault. -/
def Access.cols (a : Access) : List Nat := if a.fault then [] else [a.addr / 32, (a.addr / 32 + 1) % 2 ^ 36]

/-- A column lies in an entry's box. -/
def SbEntry.covers (e : SbEntry) (col : Nat) : Bool :=
  let b := bankOfCol col
  !e.space && (List.zip e.ranges [stackOf b, dieOf b, bankOf b, rowOfCol col, col % 64]).all
    (fun x => decide (x.1.1 ≤ x.2 ∧ x.2 ≤ x.1.2))

/-- A column is held, or released and deferring, in its quadrant's scoreboard. -/
def State.deferring (s : State) (col : Nat) : Bool :=
  (s.quad (quadOf (bankOfCol col))).sb.any (fun e => decide (e.2.st.toNat ≥ 2) && e.2.covers col)

/-! ## Stack links and temperature (R343, R351) -/

/-- A command goes over a stack's link with the next sequence tag; the retry buffer keeps it while its alert window of 4 beats lasts,
at most 63 commands (R351). Nothing goes over the link of a failed stack (R557). DESIGN CHOICE (log 91): what one operation asks of
several banks of a stack is one command. -/
def State.linkSend (s : State) (st : Nat) (kind : LinkKind) (banks : List Nat) (arg : Nat) : State :=
  let now := (s.quad (quadOfStack st)).beat
  if (s.stack st).failed then s
  else
    s.modStack st (fun k =>
      let old := k.retry.filter (fun r => decide (now < r.beat + 4))
      { k with nextTag := k.nextTag + 1, retry := (old ++ [(⟨k.nextTag, now, kind, banks, arg⟩ : LinkCommand)]).drop (old.length - 62) })

/-- A command to one bank. -/
def State.linkBank (s : State) (bank : Nat) (kind : LinkKind) (arg : Nat) : State := s.linkSend (stackOf bank) kind [bank] arg

/-- A command to banks of a quadrant: one to each stack that has some of them. -/
def State.linkUnits (s : State) (q : Nat) (us : List Nat) (kind : LinkKind) (arg : Nat) : State :=
  (List.range 5).foldl (fun (s : State) i =>
    let banks := us.filter (fun u => stackOf u = 5 * q + i)
    if banks.isEmpty then s else s.linkSend (5 * q + i) kind banks arg) s

/-- A stack counts as above 85 degrees: by its last reading, or with its sensor failed (R343, R472). -/
def State.hot (s : State) (st : Nat) : Bool :=
  let x := s.site (4 + st)
  x.failed || decide (x.temp.toInt > 680)

/-- tREFI of a stack's banks, in ns (R343). -/
def State.refreshInterval (s : State) (st : Nat) : Nat := if s.hot st then 1950 else 3900

/-! ## Ordering (R310, R552) -/

/-- Fenced ordering in force: before B7, in a recovery procedure, or as written (R310, R552). -/
def State.fencedNow (s : State) : Bool :=
  decide (s.boot.stage ≠ 7) || !s.sync.recoveries.isEmpty || decide (s.sync.ordering ≠ 0)

/-- A context has no unacknowledged column write with an order below `before` in a quadrant (R306, R342). -/
def State.writesDone (s : State) (q c before : Nat) : Bool :=
  ((List.range 5).all (fun i => (s.stack (5 * q + i)).writes.all
      (fun w => !(w.ctx == some c && decide (w.seq < before))))) &&
  (s.quad q).masked.all (fun w => !(w.ctx == c && decide (w.seq < before)))

/-- A blocked slot whose wait is over: one that WAITS becomes READY, one that held the quadrant in place goes on
(R160, R166, R301). -/
def Slot.unblock (x : Slot) : Slot := { x with st := if x.st = .waiting then .ready else x.st, blocked := none }

/-- The blocked word of a slot is released and will issue. -/
def Slot.release (x : Slot) (poisoned : Bool) : Slot := { x.unblock with passed := some poisoned }

/-! ## Reports (R398 to R405, R410) -/

/-- ENABLE and LOG2_ENTRIES of REPORT_CFG. -/
def Ctx.reportEnabled (c : Ctx) : Bool := c.reportCfg.getLsbD 8
def Ctx.reportEntries (c : Ctx) : Nat := 2 ^ fld c.reportCfg 4 0

/-- Records in the report buffer over all contexts (R403). -/
def State.bufferUse (s : State) : Nat := s.ctxs.foldl (fun n c => n + c.2.buffer.length) 0

/-- The oldest record waiting at a source of the context enters the buffer while there is room (R403). -/
def State.enterBuffer (s : State) (c : Nat) : Nat → State
  | 0 => s
  | n + 1 =>
    let x := s.ctx c
    match x.queue with
    | [] => s
    | r :: rs =>
      if x.buffer.length < 64 ∧ s.bufferUse < 256 then
        let s := s.setCtx c { x with buffer := x.buffer ++ [r], queue := rs }
        (match r.src with
          | some p => s.modSlot p.1 p.2 (fun y => if y.blocked = some Blocked.reportBuffer then y.release false else y)
          | none => s).enterBuffer c n
      else s

/-- A freed place is taken by the contexts' oldest waiting records; which context goes first is free (R403). -/
def State.fillBuffer (s : State) : State :=
  (freeOrder s.free (List.range 16)).foldl (fun s c => s.enterBuffer c (s.ctx c).queue.length)
    { s with free := s.free + 16 }

/-- A record is posted to a context's ring: discarded and counted during host loss, else queued (R403, R410). -/
def State.postFrom (s : State) (c : Nat) (r : Report) (after : List (Nat × Nat)) (early : Bool) (src : Option (Nat × Nat)) :
    State :=
  if (s.ctx c).hostLost then { s with host := { s.host with discarded := bump s.host.discarded 1 } }
  else
    let s := s.modCtx c (fun x => { x with queue := x.queue ++ [⟨r, after, early, src⟩] })
    s.enterBuffer c (s.ctx c).queue.length

def State.post (s : State) (c : Nat) (r : Report) : State := s.postFrom c r [] false none

/-- A record with every field 0 but its type (R400). -/
def Report.blank (type : BitVec 8) : Report :=
  { roll := 0, type := type, status := 0, flags := 0, w0 := 0, w1 := 0, result := 0 }

/-! ## Peer frames (R418 to R423) -/

/-- Ring states (R429). -/
def State.inRing (s : State) : Bool := decide (s.ring.state = 2 ∨ s.ring.state = 3)
def State.outOfRing (s : State) : Bool := decide (s.ring.state = 0 ∨ s.ring.state = 4)

/-- Ring position of a module. -/
def State.posOf (s : State) (ident : Nat) : Option Nat :=
  (s.ring.roster.find? (fun e => e.ident.toNat = ident)).map (fun e => e.pos)

/-- Virtual channel of a frame (R419). -/
def FrameBody.channel (b : FrameBody) : Nat :=
  match b with
  | .kvWrite .. => 1
  | .kvRead .. => 1
  | .kvData .. => 2
  | .kvAck .. => 2
  | .mergePart .. => 3
  | .mergeResult .. => 3
  | _ => 0

/-- A port's link is up. -/
def Port.up (x : Port) : Bool := decide (x.st = 3 ∨ x.st = 4)

/-- A port of a direction (0 east, 1 west) with its link up: the wanted plane, else the other (R413, R423). -/
def State.portOn (s : State) (dir plane : Nat) : Option Nat :=
  let a := 2 * dir + plane % 2
  let b := 2 * dir + (plane + 1) % 2
  if (s.port a).up then some a else if (s.port b).up then some b else none

/-- Hops eastward to a module along the roster. -/
def State.hopsEast (s : State) (ident : Nat) : Nat :=
  let ix (i : Nat) : Nat := (s.ring.roster.takeWhile (fun e => decide (e.ident.toNat ≠ i))).length
  let n := s.ring.roster.length
  if n = 0 then 0 else (ix ident + n - ix s.ring.moduleId.toNat) % n

/-- The port a frame for one module leaves by: the direction of fewer hops, east when equal, while it has a link that is up; plane
(SRC + DST) mod 2 (R423). -/
def State.portFor (s : State) (src dst : Nat) : Option Nat :=
  let east := s.hopsEast dst
  let dir := if 2 * east ≤ s.ring.roster.length then 0 else 1
  match s.portOn dir (src + dst) with
  | some p => some p
  | none => s.portOn (1 - dir) (src + dst)

/-- The port a frame of this module leaves by. -/
def State.portTo (s : State) (dst : Nat) : Option Nat := s.portFor s.ring.moduleId.toNat dst

/-- Credits of one frame each that a receiving port offers on a channel (R422). -/
def creditsOf (v : Nat) : Nat := [32, 128, 128, 64].getD v 0
/-- Credits of the partner that a port still holds on a channel. -/
def Port.left (x : Port) (v : Nat) : Nat := creditsOf v - tget 0 x.used v

/-- The frame that a port may send next on a channel: the oldest in transit with one credit, or else, with none in transit, the oldest
of this module with two (R422). -/
def Port.readyOn (x : Port) (v : Nat) : Option PeerFrame :=
  match x.transit.find? (fun f => f.body.channel = v) with
  | some f => if x.left v ≥ 1 then some f else none
  | none =>
    match x.own.find? (fun f => f.body.channel = v) with
    | some f => if x.left v ≥ 2 then some f else none
    | none => none

/-- The frame a port sends next: VC0 before the others, VC1 to VC3 in turn (R422); none while its link is down or 256 frames are
unacknowledged (R420). -/
def Port.pick (x : Port) : Option PeerFrame :=
  if x.up = false ∨ x.replay.length ≥ 256 then none
  else [0, x.turn, x.turn % 3 + 1, (x.turn + 1) % 3 + 1].findSome? x.readyOn

/-- Credits a frame returns, by channel: a byte for each (R418). -/
def Port.returns (x : Port) : List Nat := (List.range 4).map (fun v => tget 0 x.owed v)

/-- The port has sent a frame: it is numbered on the hop, kept with the credits it returned until it is acknowledged, and has used a
credit (R418, R420, R422). -/
def Port.sent (x : Port) (f : PeerFrame) : Port :=
  let v := f.body.channel
  { x with
    lseq := x.lseq + 1, replay := x.replay ++ [⟨x.lseq + 1, { f with via := f.via.map (fun _ => 4) }, x.returns⟩]
    used := tmod 0 x.used v (· + 1), owed := []
    turn := if v = 0 then x.turn else v % 3 + 1, transit := x.transit.erase f, own := x.own.erase f }

/-- The buffer that a frame took on the port it came by is free: that port owes its partner a credit (R422). -/
def State.freeVia (s : State) (f : PeerFrame) : State :=
  match f.via with
  | some i => if i < 4 then s.modPort i (fun x => { x with owed := tmod 0 x.owed f.body.channel (· + 1) }) else s
  | none => s

/-- A frame leaves by a port. -/
def State.sendOn (s : State) (p : Nat) (f : PeerFrame) : State :=
  let x := s.port p
  ((s.modPort p (fun x => x.sent f)).emit (.frame p f (x.lseq + 1) x.lack x.returns)).freeVia f

/-- A port sends what it may (R422). -/
def State.pump (s : State) (p : Nat) : Nat → State
  | 0 => s
  | n + 1 =>
    match (s.port p).pick with
    | none => s
    | some f => (s.sendOn p f).pump p n

/-- A frame waits at a port, in transit or as one of this module, and the port sends what it may. -/
def State.enqueue (s : State) (p : Nat) (f : PeerFrame) : State :=
  let s := s.modPort p (fun x =>
    if f.via.isSome then { x with transit := x.transit ++ [f] } else { x with own := x.own ++ [f] })
  s.pump p ((s.port p).transit.length + (s.port p).own.length)

/-- A frame goes towards its destination; with no link up it waits at port E0 for one (R423). -/
def State.route (s : State) (f : PeerFrame) : State := s.enqueue ((s.portFor f.src f.dst).getD 0) f

/-- A frame sent to one module, numbered end to end on its virtual channel (R421, R423). DESIGN CHOICE (log 93): its HOPS are those of a
way that meets a cut and turns back. -/
def State.sendTo (s : State) (dst : Nat) (b : FrameBody) : State :=
  let key := 4 * dst + b.channel
  let n := tget 0 s.ring.eseq key
  let s := { s with ring := { s.ring with eseq := tset 0 s.ring.eseq key ((n + 1) % 2 ^ 32) } }
  s.route ⟨s.ring.moduleId.toNat, dst, false, 2 * s.ring.roster.length, n, b, none⟩

/-- Hops of a broadcast eastward and westward: every other member once, by the shorter way where both are open; a module outside the
roster reaches as far as a ring can (R423). -/
def State.castHops (s : State) (east west : Bool) : Nat × Nat :=
  let n := if (s.posOf s.ring.moduleId.toNat).isSome then s.ring.roster.length - 1 else 63
  if east && west then ((n + 1) / 2, n / 2) else (n, n)

/-- Key of a sequence of frames: of one module's frames to another on a channel, or of a module's broadcasts (R421). -/
def seqKey (bcast : Bool) (module channel : Nat) : Nat := 4 * (if bcast then 16384 + module else module) + channel

/-- A broadcast travels east and west on plane 0, or on plane 1 where plane 0 is cut (R423). Both copies have the next number of the
module's broadcasts on the channel (R421; log 93). -/
def State.broadcast (s : State) (b : FrameBody) : State :=
  let key := seqKey true 0 b.channel
  let n := tget 0 s.ring.eseq key % (2 ^ 32 - 1) + 1
  let s := { s with ring := { s.ring with eseq := tset 0 s.ring.eseq key n } }
  let h := s.castHops (s.portOn 0 0).isSome (s.portOn 1 0).isSome
  [(0, h.1), (1, h.2)].foldl (fun (s : State) d =>
    match s.portOn d.1 0 with
    | some p => if d.2 = 0 then s else s.enqueue p ⟨s.ring.moduleId.toNat, 0, true, d.2, n, b, none⟩
    | none => s) s

/-! ## Pennants (R291 to R307, R327, R331 to R334) -/

/-- What a wait on an identifier finds: unbound, half-mast, or a live value (R298, R300, R327, R332, R553). -/
inductive PenView where
  | unbound | halfMast | live (value : Nat)
  deriving DecidableEq, Repr

/-- Key of a remote pennant. -/
def remoteKey (module phys : Nat) : Nat := module * 16384 + phys
def State.remote (s : State) (module phys : Nat) : RemotePen :=
  tget RemotePen.none s.sync.remotes (remoteKey module phys)

def State.setRemote (s : State) (module phys : Nat) (r : RemotePen) : State :=
  { s with sync := { s.sync with remotes := tset RemotePen.none s.sync.remotes (remoteKey module phys) r } }

def State.binding (s : State) (c ident : Nat) : PenBinding := tget PenBinding.unbound (s.ctx c).pens ident

/-- The pennant behind an identifier, as a wait sees it. -/
def State.penView (s : State) (c ident : Nat) : PenView :=
  let b := s.binding c ident
  if b.kind = 1 then
    let p := s.pen b.phys.toNat
    if p.st = 1 then .live p.value.toNat else .halfMast
  else if b.kind = 2 then
    if s.outOfRing ∨ b.dead then .halfMast
    else
      let r := s.remote b.module.toNat b.phys.toNat
      if r.st = 2 then .halfMast else .live (if r.subscribed then r.value.toNat else 0)
  else .unbound

/-- Outcome of testing a wait: none blocks, some p releases, p true with POISONED (R298, R300, R325, R327). A remote
pennant is tested on the value last received (R304). -/
def PenView.test (v : PenView) (atLeast : Nat) : Option Bool :=
  match v with
  | .unbound => some true
  | .halfMast => some true
  | .live x => if atLeast ≤ x then some false else none

/-- A waiter on another module's pennant subscribes this module to it (R304); while JOINING it does so once joined (R553). -/
def State.subscribe (s : State) (c ident : Nat) : State :=
  let b := s.binding c ident
  if b.kind = 2 ∧ b.dead = false ∧ (s.remote b.module.toNat b.phys.toNat).subscribed = false ∧ s.inRing = true then
    s.sendTo b.module.toNat (.penSub b.phys true)
  else s

/-- A remote pennant with no value received yet blocks whatever is awaited. -/
def State.testWait (s : State) (c ident atLeast : Nat) : Option Bool :=
  let b := s.binding c ident
  if b.kind = 2 ∧ s.outOfRing = false ∧ b.dead = false ∧
      (s.remote b.module.toNat b.phys.toNat).subscribed = false then none
  else if b.kind = 2 ∧ s.ring.state = 1 then none
  else (s.penView c ident).test atLeast

/-- The report of a watch (R334, R400). -/
def watchReport (i : Watch) (status : BitVec 16) (value : Nat) : Report :=
  { Report.blank 3 with
    status := status, w0 := BitVec.ofNat 64 value
    w1 := BitVec.ofNat 64 (i.tag.toNat + i.pen.toNat % 1024 * 2 ^ 16) }

/-- The value a watch report carries and PEN_VALUES shows (R332, R334). -/
def State.penValue (s : State) (c ident : Nat) : Nat :=
  let b := s.binding c ident
  if b.kind = 1 then (let p := s.pen b.phys.toNat; if p.st = 1 then p.value.toNat else 2 ^ 64 - 1)
  else if b.kind = 2 then
    (match s.penView c ident with
     | .halfMast => 2 ^ 64 - 1
     | .live v => v
     | .unbound => 0)
  else 0

/-- VALUE at an evaluation: a half-mast pennant keeps its frozen VALUE (R327, R334). -/
def State.penRaw (s : State) (c ident : Nat) : Nat :=
  let b := s.binding c ident
  if b.kind = 1 then (s.pen b.phys.toNat).value.toNat
  else if b.kind = 2 then (s.remote b.module.toNat b.phys.toNat).value.toNat
  else 0

/-- The evaluation of one slot that may be blocked on a pennant. -/
def State.evalSlot (s : State) (q sl : Nat) : State :=
  let x := s.slot q sl
  match x.ctx, x.blocked with
  | some c, some (.pennant ident atLeast) =>
    match s.testWait c ident atLeast with
    | some p => s.modSlot q sl (fun x => x.release p)
    | none => s
  | _, _ => s

/-- The evaluation of one watch: on release one report, and the watch is disarmed (R334). -/
def State.evalWatch (s : State) (c i : Nat) : State :=
  let w := tget Watch.init (s.ctx c).watches i
  if w.armed then
    match s.testWait c (w.pen.toNat % 1024) w.expected.toNat with
    | some p =>
      let r := watchReport w (if p then Code.poisoned else Code.ok) (s.penRaw c (w.pen.toNat % 1024))
      (s.modCtx c (fun x => { x with watches := tset Watch.init x.watches i { w with armed := false } })).post c r
    | none => s
  else s

/-- Slots of the module: quadrant and slot. -/
def allSlots : List (Nat × Nat) := (List.range 16).map (fun i => (i / 4, i % 4))

/-- Every waiter is evaluated after a change of a pennant or of a binding (R297, R301, R302). -/
def State.evalWaiters (s : State) : State :=
  let s := allSlots.foldl (fun s p => s.evalSlot p.1 p.2) s
  (s.ctxs.flatMap (fun c => c.2.watches.map (fun w => (c.1, w.1)))).foldl (fun s p => s.evalWatch p.1 p.2) s

/-- A waiter of this module is left on a remote pennant (R304). -/
def State.waitsOn (s : State) (key : Nat) : Bool :=
  let on (c ident : Nat) : Bool :=
    let b := s.binding c ident
    b.kind == 2 && remoteKey b.module.toNat b.phys.toNat == key
  allSlots.any (fun p => match (s.slot p.1 p.2).ctx, (s.slot p.1 p.2).blocked with
    | some c, some (.pennant i _) => on c i
    | _, _ => false) ||
  s.ctxs.any (fun c => c.2.watches.any (fun w => w.2.armed && on c.1 (w.2.pen.toNat % 1024)))

/-- Subscriptions without a waiter end (R304). -/
def State.trimSubs (s : State) : State :=
  (s.sync.remotes.filter (fun r => r.2.subscribed && !s.waitsOn r.1)).foldl (fun (s : State) r =>
    let s := { s with sync := { s.sync with remotes := tset RemotePen.none s.sync.remotes r.1 RemotePen.none } }
    if s.inRing then s.sendTo (r.1 / 16384) (.penSub (BitVec.ofNat 14 r.1) false) else s) s

/-- A frame that tells a subscriber VALUE and STATE of a pennant. -/
def PeerFrame.tells (f : PeerFrame) (dst p : Nat) : Bool :=
  match f.body with
  | .penUpdate phys _ _ => f.dst == dst && phys.toNat == p
  | _ => false

/-- A message to a subscriber of a pennant is still in flight: it waits at a port, or has been sent and is not acknowledged (R304;
log 80). -/
def State.telling (s : State) (dst p : Nat) : Bool :=
  (List.range 4).any (fun i => (s.port i).own.any (fun f => f.tells dst p) || (s.port i).replay.any (fun r => r.frame.tells dst p))

/-- A subscriber is told VALUE and STATE of a pennant; while an earlier message is in flight changes are coalesced into one that follows
it (R304). -/
def State.tellSub (s : State) (dst p : Nat) : State :=
  let x := s.pen p
  if s.telling dst p then
    let others := s.sync.news.filter (fun n => !(n.dst == dst && n.phys == p))
    { s with sync := { s.sync with news := others ++ [⟨dst, p, x.value, x.st⟩] } }
  else s.sendTo dst (.penUpdate (BitVec.ofNat 14 p) x.value x.st)

/-- Coalesced changes whose earlier message is no longer in flight are told (R304). -/
def State.tellNews (s : State) : State :=
  let due := s.sync.news.filter (fun n => !s.telling n.dst n.phys)
  let s := { s with sync := { s.sync with news := s.sync.news.filter (fun n => s.telling n.dst n.phys) } }
  due.foldl (fun (s : State) n => s.sendTo n.dst (.penUpdate (BitVec.ofNat 14 n.phys) n.value n.st)) s

/-- The owner sends VALUE and STATE to the subscribers of a pennant after a change (R304). -/
def State.notifySubs (s : State) (p : Nat) : State :=
  (s.sync.subs.filter (fun x => x.2 = p)).foldl (fun s x => s.tellSub x.1 p) s

/-- A pennant after a hoist (R293, R294, R299, R327): a live one rises and saturates; SAT or half-mast leave it. -/
def Pennant.hoisted (p : Pennant) (amt : Nat) : Pennant :=
  if p.st = 1 ∧ p.sat = false then
    if p.value.toNat + amt ≥ 2 ^ 64 - 1 then { p with value := BitVec.allOnes 64, sat := true }
    else { p with value := BitVec.ofNat 64 (p.value.toNat + amt) }
  else p

/-- A hoist reaches a physical pennant of this module. A hoist refused by SAT is counted (R294); one that changes nothing is told to no
subscriber (R304). -/
def State.hoistPhys (s : State) (p amt : Nat) : State :=
  let x := s.pen p
  if x.st = 1 ∧ x.sat then { s with sync := { s.sync with penSat := bump s.sync.penSat 1 } }
  else if x.hoisted amt = x then s.evalWaiters
  else ((s.setPen p (x.hoisted amt)).notifySubs p).evalWaiters

/-- A hoist through a binding: without effect when unbound, carried over the ring to another module (R298, R304, R553). -/
def State.hoistBinding (s : State) (b : PenBinding) (amt : Nat) : State :=
  if b.kind = 1 then s.hoistPhys b.phys.toNat amt
  else if b.kind = 2 ∧ s.outOfRing = false ∧ b.dead = false ∧ (s.posOf b.module.toNat).isSome = true then
    s.sendTo b.module.toNat (.hoist b.phys (BitVec.ofNat 16 amt))
  else s

/-- A hoist through an identifier, translated now (R124, R297). -/
def State.hoistIdent (s : State) (c ident amt : Nat) : State := s.hoistBinding (s.binding c ident) amt

/-- BINDINGS of a pennant of this module falls; a half-mast pennant without bindings is freed (R297, R327). -/
def State.lowerPen (s : State) (phys : Nat) : State :=
  let p := s.pen phys
  let n := if p.bindings = 0 then 0 else p.bindings - 1
  if p.st = 2 ∧ n = 0 then s.setPen phys Pennant.free else s.setPen phys { p with bindings := n }

/-- The owner of a pennant that this module binds no longer hears so, in a PEN_BIND frame that gives it back (R292, R297, R327; log 45). -/
def State.giveBack (s : State) (module phys : BitVec 14) : State :=
  if s.inRing = true ∧ (s.posOf module.toNat).isSome = true then s.sendTo module.toNat (.penBind phys 0 .back) else s

/-- A binding removed lowers BINDINGS of the pennant it named, on this module or on another (R292, R297, R327). -/
def State.dropBinding (s : State) (b : PenBinding) : State :=
  if b.kind = 1 then s.lowerPen b.phys.toNat
  else if b.kind = 2 ∧ b.dead = false then s.giveBack b.module b.phys
  else s

/-- An identifier is bound anew: the old binding is removed first (R292, R297); what was last heard of another module's pennant before it
was lost says nothing of the new binding (R437). -/
def State.bindIdent (s : State) (c ident : Nat) (b : PenBinding) : State :=
  let s := s.dropBinding (s.binding c ident)
  let s := s.modCtx c (fun x => { x with pens := tset PenBinding.unbound x.pens ident b })
  if b.kind = 1 then
    let p := s.pen b.phys.toNat
    s.setPen b.phys.toNat { p with bindings := p.bindings + 1 }
  else if b.kind = 2 ∧ (s.remote b.module.toNat b.phys.toNat).subscribed = false then
    s.setRemote b.module.toNat b.phys.toNat RemotePen.none
  else s

/-- A pennant of an ended run goes to half-mast: VALUE frozen, waiters released with POISONED (R327). -/
def State.halfMastPen (s : State) (p : Nat) : State :=
  let x := s.pen p
  if x.bindings = 0 then (s.setPen p { x with st := 2 }).notifySubs p |>.setPen p Pennant.free
  else (s.setPen p { x with st := 2 }).notifySubs p

/-- Waiters on a pennant (R291 WAITERS, saturating at 255). -/
def State.waitersOn (s : State) (p : Nat) : Nat :=
  let bound (c ident : Nat) : Bool := let b := s.binding c ident; b.kind == 1 && b.phys.toNat == p
  let slots := (allSlots.filter (fun x => match (s.slot x.1 x.2).ctx, (s.slot x.1 x.2).blocked with
    | some c, some (.pennant i _) => bound c i
    | _, _ => false)).length
  let watches := ((s.ctxs.flatMap (fun c => c.2.watches.map (fun w => (c.1, w.2)))).filter
    (fun x => x.2.armed && bound x.1 (x.2.pen.toNat % 1024))).length
  min 255 (slots + watches + (s.sync.subs.filter (fun x => x.2 = p)).length)

/-! ## Draining of column writes (R303, R306, R308, R342) -/

/-- An earlier hoist of this module to the same pennant of another one still waits (R446). -/
def State.behindHoist (s : State) (h : PendHoist) : Bool :=
  h.binding.kind == 2 && (List.range 4).any (fun p => (s.quad p).hoists.any (fun g =>
    decide (g.order < h.order) && g.binding.kind == 2 && g.binding.module == h.binding.module && g.binding.phys == h.binding.phys))

/-- A hoist's ordering condition is met; one to another module waits while this one is JOINING, and behind those issued before it to the
same pennant (R306, R446, R553). -/
def State.hoistReady (s : State) (q : Nat) (h : PendHoist) : Bool :=
  s.writesDone q h.ctx h.before && !(h.binding.kind == 2 && s.ring.state == 1) && !s.behindHoist h

/-- The first hoist that is ready, with its quadrant. -/
def State.readyHoist (s : State) : Option (Nat × PendHoist) :=
  (List.range 4).findSome? (fun q => ((s.quad q).hoists.find? (fun h => s.hoistReady q h)).map (fun h => (q, h)))

/-- It takes effect (R303). -/
def State.runHoist (s : State) : State :=
  match s.readyHoist with
  | none => s
  | some p => (s.modQuad p.1 (fun x => { x with hoists := x.hoists.erase p.2 })).hoistBinding p.2.binding p.2.amt.toNat

/-- Every hoist whose condition is met takes effect (R303, R306, R446). -/
def State.runHoists (s : State) : State :=
  ((List.range 4).flatMap (fun q => (s.quad q).hoists)).foldl (fun (s : State) _ => s.runHoist) s

/-- A hoist enters a quadrant's list and takes effect as soon as its condition is met; `before` 0 asks for no write. -/
def State.queueHoist (s : State) (q c : Nat) (b : PenBinding) (amt before : Nat) : State :=
  let n := s.sync.arrivals
  let s := { s with sync := { s.sync with arrivals := n + 1 } }
  (s.modQuad q (fun x => { x with hoists := x.hoists ++ [⟨c, b, BitVec.ofNat 16 amt, before, n⟩] })).runHoists

/-- Contexts blocked at a FENCE whose earlier writes are acknowledged become READY (R308). -/
def State.evalFence (s : State) (q sl : Nat) : State :=
  let x := s.slot q sl
  match x.ctx, x.blocked with
  | some c, some .fence =>
    if s.writesDone q c ((s.quad q).seq + 1) then s.modSlot q sl (fun x => x.release false) else s
  | _, _ => s

/-- What follows when column writes of a quadrant have been acknowledged. -/
def State.afterDrain (s : State) (q : Nat) : State :=
  (List.range 4).foldl (fun s sl => s.evalFence q sl) s.runHoists

/-- The oldest queued column write of a stack has drained (R342). -/
def State.drainOne (s : State) (st : Nat) : State :=
  (s.modStack st (fun k => { k with writes := k.writes.drop 1 })).afterDrain (quadOfStack st)

/-- The n oldest queued column writes of a stack drain. -/
def State.drainMany (s : State) (st : Nat) : Nat → State
  | 0 => s
  | n + 1 => (s.drainOne st).drainMany st n

/-- A column write enters its stack's queue of 64; with the queue full a timetable's write holds the beat until a place frees, and
another write waits (R342). The hold is time of COLUMN (log 28). -/
def State.queueWrite (s : State) (col : Nat) (ctx : Option Nat) (seq : Nat) (goes : Option Nat) : State :=
  let st := stackOf (bankOfCol col)
  let s := if (s.stack st).writes.length < 64 then s
    else (if ctx.isSome then s.accountOpen (quadOfStack st) Sat.column else s).drainOne st
  s.modStack st (fun k => { k with writes := k.writes ++ [⟨col, ctx, seq, goes⟩] })

/-- Queued writes up to the last one of a column drain, since a read of it waits for them (R58, R342). -/
def State.drainColumn (s : State) (col : Nat) : State :=
  let st := stackOf (bankOfCol col)
  let ws := (s.stack st).writes
  let later := (ws.reverse.takeWhile (fun w => w.col ≠ col)).length
  if later = ws.length then s else s.drainMany st (ws.length - later)

/-! ## Roll calls (R314 to R323, R329, R553) -/

def State.rollHandle (s : State) (c h : Nat) : RollHandle := tget RollHandle.unbound (s.ctx c).rolls h

/-- Every participant of LOCAL_MASK has arrived (R318). -/
def RollCall.complete (r : RollCall) : Bool := r.arrived &&& r.localMask == r.localMask

/-- The RELEASE report of a host arrival (R335, R400). -/
def releaseReport (handle round : Nat) (poisoned : Bool) : Report :=
  { Report.blank 4 with
    status := if poisoned then Code.poisoned else Code.ok
    w0 := BitVec.ofNat 64 round, w1 := BitVec.ofNat 64 (handle % 64) }

/-- A slot that waits at a roll call's round, or whose arrival was held behind it (R316, R321). -/
def State.releaseSlot (s : State) (num round : Nat) (poisoned : Bool) (q sl : Nat) : State :=
  let x := s.slot q sl
  match x.ctx, x.blocked with
  | some c, some (.rollCall h n) =>
    let e := s.rollHandle c h
    if e.bound && e.num.toNat == num && n == round then s.modSlot q sl (fun x => x.release poisoned) else s
  | some c, some (.rollHeld h) =>
    let e := s.rollHandle c h
    if e.bound && e.num.toNat == num then s.modSlot q sl Slot.unblock else s
  | _, _ => s

/-- RELEASE reports of the round (R335). -/
def State.releaseReports (s : State) (num round : Nat) (poisoned : Bool) (c : Nat) : State :=
  let due := (s.ctx c).releases.filter (fun p => (s.rollHandle c p.1).num.toNat = num ∧ p.2 = round)
  let s := s.modCtx c (fun x => { x with releases := x.releases.filter (fun p => !due.contains p) })
  due.foldl (fun s p => s.post c (releaseReport p.1 round poisoned)) s

/-- A round is released (R321): waiters READY, ROUND + 1, AHEAD becomes ARRIVED. -/
def State.releaseRound (s : State) (num : Nat) (poisoned : Bool) : State :=
  let r := s.rollCall num
  let n := r.round.toNat
  let r' := { r with
    round := r.round + 1, arrived := r.ahead, ahead := 0, release := none, poisonNext := false, ringArrived := r.ringAhead, ringAhead := 0
    completeAt := none, releasedAt := some s.ring.timebase }
  let r' := { r' with completeAt := if r'.complete then some s.ring.timebase else none }
  let s := s.setRoll num r'
  let s := allSlots.foldl (fun s p => s.releaseSlot num n poisoned p.1 p.2) s
  (List.range 16).foldl (fun s c => s.releaseReports num n poisoned c) s

/-- Outcome of an arrival: recorded, held for the round after next, or from no participant (R316). -/
inductive Arrival where
  | recorded (round : Nat) | held | outsider
  deriving DecidableEq, Repr

/-- An arrival of participant b belongs to the earliest round for which it has not arrived (R316, R317). -/
def RollCall.arrive (r : RollCall) (b : Nat) (now : Nat) : RollCall × Arrival :=
  if r.localMask.getLsbD b = false then (r, .outsider)
  else if r.arrived.getLsbD b = false then
    let r := { r with arrived := r.arrived ||| (1#18 <<< b) }
    ({ r with completeAt := if r.complete then some now else r.completeAt }, .recorded r.round.toNat)
  else if r.ahead.getLsbD b = false then ({ r with ahead := r.ahead ||| (1#18 <<< b) }, .recorded (r.round.toNat + 1))
  else (r, .held)

/-- Members of a ring mask that are joined, by rising position (R319). -/
def State.membersOf (s : State) (mask : BitVec 64) : List RosterEntry :=
  ((List.range 64).filterMap (fun p => if mask.getLsbD p then s.ring.roster.find? (fun e => e.pos = p) else none))

/-- The home of a ring roll call: the participant at the lowest position still joined (R319). -/
def State.homeOf (s : State) (r : RollCall) : Option Nat := ((s.membersOf r.ringMask).head?).map (fun e => e.ident.toNat)

/-- The first bell at or after a time (R319). -/
def bellAtOrAfter (period t : Nat) : Nat := if period = 0 then t else (t + period - 1) / period * period

/-- ROLL_LEAD in force: the master's while joined (R336). -/
def State.leadInForce (s : State) : Nat :=
  if s.inRing && s.ring.state != 3 then s.ring.ringLead else s.sync.rollLead.toNat

/-- The home's release notices for the current round (R319). -/
def State.sendNotices (s : State) (num bell : Nat) : State :=
  let r := s.rollCall num
  ((s.membersOf r.ringMask).filter (fun e => e.ident.toNat ≠ s.ring.moduleId.toNat)).foldl
    (fun s e => s.sendTo e.ident.toNat (.rollRelease r.rid r.round bell)) s

/-- The home of a round with every arrival chooses the release bell and sends the notices (R319). -/
def State.homeCheck (s : State) (num : Nat) : State :=
  let r := s.rollCall num
  let live := s.membersOf r.ringMask
  if r.release.isNone && live.all (fun e => r.ringArrived.getLsbD e.pos) then
    let bell := bellAtOrAfter s.ring.period (s.ring.timebase + s.leadInForce * s.ring.period)
    (s.setRoll num { r with release := some bell }).sendNotices num bell
  else s

/-- The home has an arrival of a module in the current round. -/
def State.homeArrival (s : State) (num pos : Nat) : State :=
  let r := s.rollCall num
  (s.setRoll num { r with ringArrived := r.ringArrived ||| (1#64 <<< pos) }).homeCheck num

/-- A module's own arrival in the round of a ring roll call is reported to the home (R319). -/
def State.reportArrival (s : State) (num : Nat) : State :=
  let r := s.rollCall num
  if r.ring && r.complete && s.inRing then
    match s.homeOf r with
    | some h =>
      if h = s.ring.moduleId.toNat then s.homeArrival num ((s.posOf h).getD 0)
      else s.sendTo h (.rollArrive r.rid r.round)
    | none => s
  else s

/-- The handles bound to a roll call answer POISONED until they are bound anew (R553). -/
def State.killHandles (s : State) (num : Nat) : State :=
  (List.range 16).foldl (fun (s : State) c => s.modCtx c (fun x =>
    { x with rolls := x.rolls.map (fun h =>
        if h.2.bound && h.2.num.toNat == num then (h.1, { h.2 with dead := true }) else h) })) s

/-- While ALONE or FENCED a ring roll call releases its current round with POISONED, once (R553). -/
def State.ringRollAlone (s : State) (num : Nat) : State :=
  let r := s.rollCall num
  if r.ring && s.outOfRing && !r.aloneDone then
    let s := s.releaseRound num true
    (s.setRoll num { s.rollCall num with aloneDone := true }).killHandles num
  else s

/-- An arrival at a roll call by number. -/
def State.arriveAt (s : State) (num b : Nat) : State × Arrival :=
  let p := (s.rollCall num).arrive b s.ring.timebase
  match p.2 with
  | .recorded n =>
    let s := s.setRoll num p.1
    (if n = (s.rollCall num).round.toNat then s.reportArrival num else s, p.2)
  | a => (s, a)

/-- An arrival of the host (16) or the merge engines (17) beyond the next round is ignored and counted (R316). -/
def State.arriveEngine (s : State) (num b : Nat) : State × Arrival :=
  let p := s.arriveAt num b
  match p.2 with
  | .held => ({ p.1 with sync := { p.1.sync with rollDrop := bump p.1.sync.rollDrop 1 } }, .held)
  | _ => p

end Sys2Proof.Machine
end

