-- ==== Sys2Proof/Machine/Tensor.lean ====
section
/-! DEFINITION. Tensor descriptors, walks, owner tables and element places (06_tensors.md R205 to R231). -/

namespace Sys2Proof.Machine

/-- A descriptor, 512 bits (R206). -/
abbrev Desc := BitVec 512

/-- A descriptor table entry; an unbound handle reads as zero (R205). -/
def State.desc (s : State) (c h : Nat) : Desc := tget 0 (s.ctx c).descs h

/-! ## Fields (R206) -/

def Desc.ringTid (d : Desc) : Nat := fld d 511 496
def Desc.space (d : Desc) : Nat := fld d 495 495
def Desc.writable (d : Desc) : Bool := d.getLsbD 494
def Desc.poisoned (d : Desc) : Bool := d.getLsbD 493
def Desc.rank (d : Desc) : Nat := fld d 492 490
def Desc.fmt (d : Desc) : Nat := fld d 489 486
def Desc.scaleMode (d : Desc) : Nat := fld d 485 484
def Desc.spreadDim (d : Desc) : Nat := fld d 483 481
def Desc.indexDim (d : Desc) : Nat := fld d 480 478
def Desc.ownerDim (d : Desc) : Nat := fld d 477 475
def Desc.alloc (d : Desc) : Nat := fld d 471 464
def Desc.indexHandle (d : Desc) : Nat := fld d 463 452
def Desc.ownerHandle (d : Desc) : Nat := fld d 451 440
def Desc.scaleHandle (d : Desc) : Nat := fld d 439 428
def Desc.ownerBlock (d : Desc) : Nat := fld d 427 424
def Desc.padValue (d : Desc) : Nat := fld d 423 408
def Desc.padLo0 (d : Desc) : Nat := fld d 407 396
def Desc.padHi0 (d : Desc) : Nat := fld d 395 384
def Desc.padLo1 (d : Desc) : Nat := fld d 383 372
def Desc.padHi1 (d : Desc) : Nat := fld d 371 360
def Desc.stackLo (d : Desc) : Nat := fld d 359 355
def Desc.stackHi (d : Desc) : Nat := fld d 354 350
def Desc.dieLo (d : Desc) : Nat := fld d 349 346
def Desc.dieHi (d : Desc) : Nat := fld d 345 342
def Desc.bankLo (d : Desc) : Nat := fld d 341 337
def Desc.bankHi (d : Desc) : Nat := fld d 336 332
def Desc.base (d : Desc) : Nat := fld d 331 305
def Desc.localSlots (d : Desc) : Nat := fld d 304 289
/-- Size of dimension i, 0 to 5. -/
def Desc.size (d : Desc) (i : Nat) : Nat := fld d (286 - 24 * i) (263 - 24 * i) + 1
/-- Stride of dimension i, 1 to 5. -/
def Desc.stride (d : Desc) (i : Nat) : Nat := fld d (142 - 27 * (i - 1)) (116 - 27 * (i - 1))

/-! ## Formats and layout (R207 to R212) -/

/-- Bits per element of format codes 0 to 9. -/
def fmtBits (f : Nat) : Nat := [4, 6, 6, 8, 8, 8, 16, 32, 32, 8].getD f 8
def Desc.bits (d : Desc) : Nat := fmtBits d.fmt
def Desc.isMx (d : Desc) : Bool := decide (d.fmt ≤ 5)

/-- Data columns of a full group of 1,024 elements. -/
def Desc.groupCols (d : Desc) : Nat := (1024 * d.bits + 255) / 256
def Desc.fullGroups (d : Desc) : Nat := d.size 0 / 1024
/-- Data columns of the last, shorter group. -/
def Desc.lastCols (d : Desc) : Nat := (d.size 0 % 1024 * d.bits + 255) / 256
/-- Columns of dimension 0, inline scale columns included (R210). -/
def Desc.cols (d : Desc) : Nat :=
  if d.scaleMode = 1 then
    d.fullGroups * (d.groupCols + 1) + (if d.size 0 % 1024 = 0 then 0 else d.lastCols + 1)
  else (d.size 0 * d.bits + 255) / 256

/-- Footprint of dimension 0 in bytes (R210). -/
def Desc.footprint (d : Desc) : Nat := 32 * d.cols

/-- Byte offset of the k-th column of dimension 0 in the order of a walk: each inline scale column before the data columns
of its group (R213). -/
def Desc.colOffset (d : Desc) (k : Nat) : Nat :=
  if d.scaleMode = 1 then
    let g := k / (d.groupCols + 1)
    let j := k % (d.groupCols + 1)
    let n := if g < d.fullGroups then d.groupCols else d.lastCols
    32 * (g * (d.groupCols + 1)) + 32 * (if j = 0 then n else j - 1)
  else 32 * k

/-- Bit offset of element i of dimension 0. -/
def Desc.elemBit (d : Desc) (i : Nat) : Nat :=
  if d.scaleMode = 1 then 256 * (i / 1024 * (d.groupCols + 1)) + i % 1024 * d.bits else i * d.bits

/-- Byte offset of the inline scale of block b (R209). -/
def Desc.scaleByte (d : Desc) (b : Nat) : Nat :=
  let g := b / 32
  32 * (g * (d.groupCols + 1)) + 32 * (if g < d.fullGroups then d.groupCols else d.lastCols) + b % 32

def Desc.dies (d : Desc) : Nat := d.dieHi + 1 - d.dieLo
def Desc.banks (d : Desc) : Nat := d.bankHi + 1 - d.bankLo
/-- Number of banks of the box. -/
def Desc.boxSize (d : Desc) : Nat := (d.stackHi + 1 - d.stackLo) * d.dies * d.banks
/-- Bank number of unit u of the box (R211). -/
def Desc.boxUnit (d : Desc) (u : Nat) : Nat :=
  bankNo (d.stackLo + u / (d.dies * d.banks)) (d.dieLo + u / d.banks % d.dies) (d.bankLo + u % d.banks)

/-- Local count of a dimension (R212). -/
def Desc.localCount (d : Desc) (i : Nat) : Nat :=
  let n := if i = d.ownerDim then (d.localSlots + 1) * 2 ^ d.ownerBlock else d.size i
  if i = d.spreadDim then ceilDiv n d.boxSize else n

/-- The dimensions 1 to RANK - 1. -/
def Desc.outerDims (d : Desc) : List Nat := (List.range d.rank).drop 1

/-- Digits of a position over the counts, the first changing fastest. -/
def digits : List Nat → Nat → List Nat
  | [], _ => []
  | c :: cs, p => p % c :: digits cs (p / c)

def product (cs : List Nat) : Nat := cs.foldl (· * ·) 1

/-! ## Staging SRAM (R194, R208, R585) -/

def stagingBytes : Nat := 0x3000000

/-- Bytes of a quadrant's staging SRAM. -/
def State.stageBytes (s : State) (q a n : Nat) : List Byte := readBytes (s.quad q).staging a n
def State.stageWord (s : State) (q a : Nat) : Nat := leNat (s.stageBytes q a 4)
/-- The poison mark of a 32-byte line (R585). -/
def State.stageMark (s : State) (q line : Nat) : Bool := tget false (s.quad q).stagePoison line

/-- Bytes written to staging SRAM, marks left as they are. -/
def State.setStage (s : State) (q a : Nat) (bs : List Byte) : State :=
  s.modQuad q (fun x => { x with staging := writeBytes x.staging a bs })

/-- The mark of a 32-byte line. -/
def State.setMark (s : State) (q line : Nat) (m : Bool) : State :=
  s.modQuad q (fun x => { x with stagePoison := tset false x.stagePoison line m })

/-! ## The halves of a timetable store (R149, R150) -/

/-- Offset of a half in the store: mode, slot, half. -/
def halfBase (shared : Bool) (sl : Nat) (half : Bool) : Nat :=
  if shared then sl * 0x100000 + (if half then 0x80000 else 0) else (if half then 0x200000 else 0)
def halfSize (shared : Bool) : Nat := if shared then 0x80000 else 0x200000

/-- Offset of the active half of the context in a slot. -/
def State.activeBase (s : State) (q sl : Nat) : Nat :=
  let half := match (s.slot q sl).ctx with
    | some c => (s.ctx c).active
    | none => false
  halfBase (s.quad q).shared sl half

def State.ttWord (s : State) (q a : Nat) : Word32 := BitVec.ofNat 32 (leNat (readBytes (s.quad q).tt a 4))

/-- PROFILE of the active half. -/
def State.profile (s : State) (q sl : Nat) : Nat := leNat (readBytes (s.quad q).tt (s.activeBase q sl + 0x0C) 2)

/-! ## Owner tables (R225 to R227, R553) -/

/-- Where an owner-dimension index lies. -/
inductive Own where
  | here (i : Nat)
  | remote (module i : Nat)
  | absent
  | lost (blk : Nat)
  deriving DecidableEq, Repr

/-- A global index of the owner dimension resolved through the owner table of a quadrant (R226, R227). -/
def State.resolve (s : State) (q c : Nat) (d : Desc) (i : Nat) : Own :=
  let t := s.desc c d.ownerHandle
  let b := i / 2 ^ d.ownerBlock
  if i ≥ d.size d.ownerDim ∨ b ≥ t.size 0 then .absent
  else
    let e := BitVec.ofNat 32 (s.stageWord q (t.base + 4 * b))
    let at_ := fld e 15 0 * 2 ^ d.ownerBlock + i % 2 ^ d.ownerBlock
    if fld e 31 30 = 1 then
      if fld e 29 16 = s.ring.moduleId.toNat then (if fld e 15 0 ≤ d.localSlots then .here at_ else .absent)
      else .remote (fld e 29 16) at_
    else if fld e 31 30 = 2 then .lost b
    else .absent

/-! ## Walks of a timetable (R126, R213, R222 to R224) -/

/-- A position of a walk: a bank-local byte offset, an absent position, or one in a lost block. -/
inductive Place where
  | at_ (off : Nat)
  | absent
  | lost (blk : Nat)
  deriving DecidableEq, Repr

/-- Counts of the outer dimensions in a walk; the index dimension's is the number of index elements. -/
def State.walkCounts (s : State) (c : Nat) (d : Desc) (byIndex : Bool) : List Nat :=
  d.outerDims.map (fun i => if byIndex ∧ i = d.indexDim then (s.desc c d.indexHandle).size 0 else d.localCount i)

/-- The local index an index value names in a timetable walk: local for a spread dimension, resolved through the owner
table for the owner dimension (R223, R226, R227). -/
def State.indexPlace (s : State) (q c : Nat) (d : Desc) (v : Nat) : Own :=
  if v = 0xFFFFFFFF then .absent
  else if d.indexDim = d.ownerDim then
    match s.resolve q c d v with
    | .here i => .here (if d.spreadDim = d.indexDim then i / d.boxSize else i)
    | .remote _ _ => .absent
    | o => o
  else if v ≥ d.localCount d.indexDim then .absent
  else .here v

/-- The position p of a walk of a descriptor. -/
def State.walkPlace (s : State) (q c h : Nat) (byIndex : Bool) (p : Nat) : Place :=
  let d := s.desc c h
  let counts := s.walkCounts c d byIndex
  if p ≥ d.cols * product counts then .absent
  else
    let ds := d.outerDims.zip (digits counts (p / d.cols))
    let start := d.base + d.colOffset (p % d.cols)
    ds.foldl (fun acc x =>
      match acc with
      | .at_ off =>
        if byIndex ∧ x.1 = d.indexDim then
          match s.indexPlace q c d (s.stageWord q ((s.desc c d.indexHandle).base + 4 * x.2)) with
          | .here i => .at_ (off + i * d.stride x.1)
          | .lost b => .lost b
          | _ => .absent
        else .at_ (off + x.2 * d.stride x.1)
      | o => o) (.at_ start)

/-- A generator of a slot as a word in issue reads it: as it stood at the start of the beat (R110). -/
def State.genAt (s : State) (q sl g : Nat) : Gen :=
  match (s.quad q).word with
  | some i => tget Gen.unset (if i.slot = sl then i.gens else (s.slot q sl).gens) g
  | none => tget Gen.unset (s.slot q sl).gens g

/-- The position of a generator of a slot; an unset one yields row 0, column 0 (R148). -/
def State.genPlace (s : State) (q sl g : Nat) : Place :=
  let gen := s.genAt q sl g
  match gen.set, (s.slot q sl).ctx with
  | true, some c => s.walkPlace q c gen.desc.toNat gen.byIndex gen.pos
  | _, _ => .at_ 0

/-- A generator steps n positions; an unset one stays unset. -/
def Slot.stepGen (x : Slot) (g n : Nat) : Slot :=
  { x with gens := tmod Gen.unset x.gens g (fun y => if y.set then { y with pos := y.pos + n } else y) }

/-- A lost position reached by a slot's context is noted for its RECOMPUTE record (R227). -/
def State.notePlace (s : State) (q sl g : Nat) (p : Place) : State :=
  let x := s.slot q sl
  match p, x.ctx with
  | .lost b, some c =>
    let h := (s.genAt q sl g).desc.toNat
    s.modCtx c (fun y => y.noteLost h (s.desc c h).ringTid b)
  | _, _ => s

/-! ## Places of elements (R208 to R212, R226) -/

/-- The bank unit and the sum of the outer indices' strides; an index of the spread dimension is split over the box. -/
def Desc.outerPlace (d : Desc) (idx : List Nat) : Nat × Nat :=
  (d.outerDims.zip idx).foldl (fun acc x =>
    if x.1 = d.spreadDim then (d.boxUnit (x.2 % d.boxSize), acc.2 + x.2 / d.boxSize * d.stride x.1)
    else (acc.1, acc.2 + x.2 * d.stride x.1)) (d.boxUnit 0, 0)

end Sys2Proof.Machine
end

