-- ==== Sys2Proof/Machine/Operands.lean ====
section
/-! DEFINITION. Operand forms of the bank-unit slots: selection, file indices, the contents of files and latches, and the
fields of the slots (R50, R51, R108, R109, R113 to R122). -/

namespace Sys2Proof.Machine

/-! ## Selection (R108, R109, R127) -/

/-- Mask register r of a slot: stack bits [4:0], die bits [20:5], bank bits [52:21]; register 0 stands for every unit. -/
def Slot.maskReg (x : Slot) (r : Nat) : BitVec 53 := if r = 0 then BitVec.allOnes 53 else tget (BitVec.allOnes 53) x.masks r

/-- The bank units of quadrant q that a mask selects, by rising number. -/
def maskUnits (q : Nat) (m : BitVec 53) : List Nat :=
  (bitsSet (m.extractLsb' 0 5)).flatMap (fun st =>
    (bitsSet (m.extractLsb' 5 16)).flatMap (fun die =>
      (bitsSet (m.extractLsb' 21 32)).map (fun b => bankNo (5 * q + st) die b)))

/-- The bank units that act on a slot with MASK_SEL sel. -/
def State.units_ (s : State) (q sl : Nat) (sel : BitVec 4) : List Nat := maskUnits q ((s.slot q sl).maskReg sel.toNat)

/-! ## Files and latches -/

/-- Physical index of an accumulator entry (R50, R51). -/
def Quad.accIndex (x : Quad) (sl e : Nat) : Nat := if x.shared then 256 * sl + e % 256 else e % 1024
/-- Physical index of a vector-file line. -/
def Quad.lineIndex (x : Quad) (sl l : Nat) : Nat := if x.shared then 128 * sl + l % 128 else l % 512

/-- An accumulator entry by physical index; undefined since the slot's lesson start until written (R29, log 8). -/
def BankUnit.accAt (b : BankUnit) (epoch u e : Nat) : AccEntry :=
  match tget none b.acc e with
  | some x => x
  | none => { val := Config.freeAcc epoch u e, poison := Config.freeMark epoch u e }

/-- A vector-file line by physical index. -/
def BankUnit.lineAt (b : BankUnit) (epoch u l : Nat) : VecLine :=
  match tget none b.vec l with
  | some x => x
  | none => { data := Config.freeLine epoch u l, poison := Config.freeMark epoch u (1024 + l) }

/-- What an operation of a slot reads of one unit: the unit, the slot's way of naming entries, and the value broadcast for the
seeds of the slot's generators (R54). -/
structure View where
  shared : Bool
  slot : Nat
  epoch : Nat
  random : Nat
  u : Nat
  bu : BankUnit

def State.view (s : State) (q sl u : Nat) : View :=
  { shared := (s.quad q).shared, slot := sl, epoch := (s.slot q sl).epoch, random := (s.slot q sl).random, u := u,
    bu := s.unit u }

/-! ## Stochastic rounding generators (R54, R88; log 71) -/

/-- The seed of a generator: the broadcast value with the unit's stack, die and bank numbers, so that no two units share one
(DESIGN CHOICE: the spec does not say how they are combined). -/
def roundingSeed (random u : Nat) : Nat := random * 10240 + u

/-- The generator of a slot in a unit gives n more numbers. -/
def BankUnit.give (b : BankUnit) (sl n : Nat) : BankUnit := { b with drawn := tmod 0 b.drawn sl (· + n) }

/-- The i-th of the next random numbers of the generator: 16 bits (R88). -/
def View.random16 (v : View) (i : Nat) : Nat :=
  Config.roundingBits (roundingSeed v.random v.u) (tget 0 v.bu.drawn v.slot + i) % 65536

/-- Physical entry of a named one. Names run over rows 0 to 127 (R119): what a field of 9 bits names beyond the file the spec
does not say; the model takes the index modulo the file (DESIGN CHOICE, log 72), as shared mode does by R51. -/
def View.accIx (v : View) (e : Nat) : Nat := if v.shared then 256 * v.slot + e % 256 else e % 1024
def View.lineIx (v : View) (l : Nat) : Nat := if v.shared then 128 * v.slot + l % 128 else l % 512
def View.acc (v : View) (e : Nat) : AccEntry := v.bu.accAt v.epoch v.u (v.accIx e)
def View.line (v : View) (l : Nat) : VecLine := v.bu.lineAt v.epoch v.u (v.lineIx l)

/-- Lane i, 32 bits, of a line. -/
def laneOf (d : Line) (i : Nat) : Word32 := d.extractLsb' (32 * i) 32

/-- Eight FP32 lanes with their poison: an accumulator row (kind 0) or a vector-file line (kind 1) (R119). -/
def View.lanes (v : View) (kind n : Nat) : List (Word32 × Bool) :=
  if kind = 0 then (List.range 8).map (fun i => let a := v.acc (8 * n + i); (a.val, a.poison))
  else let l := v.line n; (List.range 8).map (fun i => (laneOf l.data i, l.poison))

/-- Eight lanes as a line. -/
def lanesLine (xs : List Word32) : Line := BitVec.ofNat 256 (leNat (xs.flatMap (fun w => bytesOf 4 w)))

/-- The writes of eight result lanes to a row or a whole line (R70). -/
def View.write (v : View) (kind n : Nat) (xs : List (Word32 × Bool)) : List DueWrite :=
  if kind = 0 then xs.zipIdx.map (fun x => .accSet v.u (v.accIx (8 * n + x.2)) x.1.1 x.1.2)
  else [.line v.u (v.lineIx n) (BitVec.allOnes 256) (lanesLine (xs.map (·.1))) (some (xs.any (·.2)))]

/-- A field of width w at bit lo as a line mask. -/
def maskAt (lo w : Nat) : Line := BitVec.ofNat 256 ((2 ^ w - 1) * 2 ^ lo)
/-- A value placed at bit lo of a line. -/
def dataAt (lo w x : Nat) : Line := BitVec.ofNat 256 (x % 2 ^ w * 2 ^ lo)

/-- The slot's write mask in a unit. -/
def BankUnit.writeMask (b : BankUnit) (sl : Nat) : Word32 := tget (BitVec.allOnes 32) b.wmask sl

/-! ## Fields of the slots -/

/-- ROW (R113). -/
def Row.ags (w : Word32) : Bool := w.getLsbD 29
def Row.ag (w : Word32) : Nat := fld w 28 26
def Row.row (w : Word32) : Nat := fld w 15 0
/-- COL (R115). -/
def Col.op (w : Word32) : Nat := fld w 31 29
def Col.le (w : Word32) : Nat := fld w 28 27
def Col.ags (w : Word32) : Bool := w.getLsbD 26
def Col.ag (w : Word32) : Nat := fld w 25 23
def Col.column (w : Word32) : Nat := fld w 22 17
def Col.line (w : Word32) : Nat := fld w 16 8
def Col.half (w : Word32) : Nat := fld w 0 0
/-- MAC (R116). -/
def Mac.ovw (w : Word32) : Bool := w.getLsbD 31
def Mac.tokens (w : Word32) : Nat := fld w 30 28 + 1
def Mac.le (w : Word32) : Nat := fld w 27 26
def Mac.wfmt (w : Word32) : Nat := fld w 25 23
def Mac.afmt (w : Word32) : Nat := fld w 22 21
def Mac.vline (w : Word32) : Nat := fld w 20 12
def Mac.acc (w : Word32) : Nat := fld w 11 2
def Mac.asg (w : Word32) : Nat := fld w 1 0
/-- VEC (R119). -/
def Vec.op (w : Word32) : Nat := fld w 31 27
def Vec.sr (w : Word32) : Bool := w.getLsbD 26
def Vec.mod (w : Word32) : Nat := fld w 25 24
def Vec.dk (w : Word32) : Nat := fld w 23 23
def Vec.d (w : Word32) : Nat := fld w 22 14
def Vec.bk (w : Word32) : Nat := fld w 13 13
def Vec.b (w : Word32) : Nat := fld w 12 4
def Vec.fmt (w : Word32) : Nat := fld w 3 0
/-- LIT as operand of VEC (R121). -/
def Lit.line (w : Word32) : Nat := fld w 31 23
def Lit.byte (w : Word32) : Nat := fld w 22 18
def Lit.eoff (w : Word32) : Nat := fld w 17 12
def Lit.scale8 (w : Word32) : Nat := fld w 7 0
/-- XFER (R122). -/
def Xfer.src (w : Word32) : Nat := fld w 31 30
def Xfer.dsel (w : Word32) : Nat := fld w 29 25
def Xfer.line (w : Word32) : Nat := fld w 24 16
def Xfer.n (w : Word32) : Nat := fld w 15 13 + 1
def Xfer.off (w : Word32) : Nat := fld w 12 0
/-- SYNC (R123). -/
def Sync.op (w : Word32) : Nat := fld w 31 28
def Sync.pen (w : Word32) : Nat := fld w 27 18
def Sync.amt (w : Word32) : Nat := fld w 15 0
def Sync.waitK (w : Word32) : Nat := fld w 17 15
def Sync.ofs (w : Word32) : Nat := fld w 14 0
def Sync.k (w : Word32) : Nat := fld w 27 25
def Sync.addend (w : Word32) : Nat := fld w 24 0
def Sync.entry (w : Word32) : Nat := fld w 25 20
def Sync.wr (w : Word32) : Bool := w.getLsbD 19
def Sync.count (w : Word32) : Nat := fld w 27 0
def Sync.call (w : Word32) : Nat := fld w 27 22
def Sync.waits (w : Word32) : Bool := w.getLsbD 21
def Sync.tag (w : Word32) : Nat := fld w 15 0
/-- ADDR (R125). -/
def Addr.op (w : Word32) : Nat := fld w 31 28
def Addr.ag (w : Word32) : Nat := fld w 27 25
def Addr.desc (w : Word32) : Nat := fld w 24 13
def Addr.count (w : Word32) : Nat := fld w 24 0
def Addr.src (w : Word32) : Nat := fld w 27 26
def Addr.base (w : Word32) : Nat := fld w 25 0
/-- CTRL (R127). -/
def Ctrl.reg (w : Word32) : Nat := fld w 31 28
def Ctrl.part (w : Word32) : Nat := fld w 27 26
def Ctrl.value (w : Word32) : Nat := fld w 15 0
def Ctrl.cnt (w : Word32) : Nat := fld w 31 30
def Ctrl.count (w : Word32) : Nat := fld w 23 0
def Ctrl.back (w : Word32) : Nat := fld w 21 0
def Ctrl.engine (w : Word32) : Nat := fld w 31 30
def Ctrl.record (w : Word32) : Nat := fld w 21 0

/-- The element format of a WFMT or descriptor code. -/
def wfmtOf (n : Nat) : Fmt :=
  match n with
  | 0 => .e2m1 | 1 => .e2m3 | 2 => .e3m2 | 3 => .e4m3 | 4 => .e5m2 | 5 => .int8 | _ => .bf16
/-- The element format of an AFMT code. -/
def afmtOf (n : Nat) : Fmt :=
  match n with
  | 0 => .e4m3 | 1 => .e5m2 | _ => .bf16
/-- The narrow format of a VEC slot. -/
def vfmtOf (n : Nat) : Fmt :=
  match n with
  | 0 => .fp32 | 1 => .bf16 | 2 => .e4m3 | 3 => .e5m2 | 4 => .e2m3 | 5 => .e3m2 | 6 => .e2m1 | _ => .int8
def Fmt.isMx (f : Fmt) : Bool :=
  match f with
  | .bf16 => false
  | .fp32 => false
  | _ => true

/-- The modified operand of a VEC slot (R120). -/
def modified (m : Nat) (w : Word32) : Word32 := fmod m w

/-! ## Results in flight (R59) -/

/-- A result is entered in the quadrant's list, due L beats after the issue beat, with its order and origin. -/
def State.due (s : State) (q sl lat writer : Nat) (ws : List DueWrite) : State :=
  s.modQuad q (fun x =>
    { x with
      dues := x.dues ++ [{ issued := x.beat, due := x.beat + lat, seq := x.seq, slot := sl, writer := writer,
                           origin := (match x.word with
                             | some i => i.origin
                             | none => 0), writes := ws }]
      seq := x.seq + 1 })

/-- ORIGIN of the word in issue. -/
def State.origin (s : State) (q : Nat) : Nat :=
  match (s.quad q).word with
  | some i => i.origin
  | none => 0

/-- Free values are set aside for an operation: the first index, and the state after (log 5). -/
def State.reserve (s : State) (n : Nat) : Nat × State := (s.free, { s with free := s.free + n })

end Sys2Proof.Machine
end

