-- ==== Sys2Proof/Machine/Moves.lean ====
section
/-! DEFINITION. What a launch record says, and which bytes a copy share moves (R226, R227, R229, R230, R234, R236, R240 to R243,
R264). -/

namespace Sys2Proof.Machine

/-! ## Launch records -/

/-- Fields of a launch record (R236, R264). -/
def Share.op (h : Share) : Nat := fld h.record 511 508
def Share.penEn0 (h : Share) : Bool := h.record.getLsbD 505
def Share.penEn1 (h : Share) : Bool := h.record.getLsbD 507
def Share.dst (h : Share) : Nat := fld h.record 503 492
def Share.src (h : Share) : Nat := fld h.record 491 480
def Share.amt (h : Share) : Nat := fld h.record 457 442
def Share.transpose (h : Share) : Bool := h.record.getLsbD 507
def Share.origin (h : Share) : Nat := fld h.record 431 412
def Share.aux (h : Share) : Nat := fld h.record 411 400
def Share.tag (h : Share) : Nat := fld h.record 441 433
def Share.stream (h : Share) : Bool := h.record.getLsbD 506
def Share.arg (h : Share) : Nat := fld h.record 393 330
def Share.dstEntry (h : Share) : Nat := 64 * h.slot + fld h.record 479 474
def Share.srcEntry (h : Share) : Nat := 64 * h.slot + fld h.record 473 468
def Share.auxEntry (h : Share) : Nat := 64 * h.slot + fld h.record 399 394

/-! ## Bytes of dimension 0 (R207 to R210) -/

/-- Bytes of a group of dimension 0 with its scale column. -/
def Desc.groupBytes (d : Desc) : Nat := 32 * (d.groupCols + 1)
/-- Data columns of the group in which byte o lies. -/
def Desc.colsAt (d : Desc) (o : Nat) : Nat := if o / d.groupBytes < d.fullGroups then d.groupCols else d.lastCols
/-- Byte o of dimension 0 lies in an inline scale column (R209). -/
def Desc.isScale (d : Desc) (o : Nat) : Bool :=
  d.scaleMode == 1 && decide (o % d.groupBytes ≥ 32 * d.colsAt o)
/-- Byte o of dimension 0 belongs to an element. -/
def Desc.isElem (d : Desc) (o : Nat) : Bool :=
  if d.scaleMode = 1 then
    let n := if o / d.groupBytes < d.fullGroups then 1024 else d.size 0 % 1024
    decide (o % d.groupBytes < n * d.bits / 8)
  else decide (o < d.size 0 * d.bits / 8)
/-- The bytes of dimension 0 that a copy writes: elements and inline scale columns (R243). -/
def Desc.bytes0 (d : Desc) : List Nat := (List.range d.footprint).filter (fun o => d.isElem o || d.isScale o)

/-- PAD_VALUE as an element (R207). -/
def Desc.padElem (d : Desc) : Nat := if d.fmt = 7 then d.padValue * 65536 else d.padValue % 2 ^ d.bits
/-- Byte o of a run of pad elements. -/
def Desc.padByte (d : Desc) (o : Nat) : Nat :=
  (List.range 8).foldl (fun x j => if d.padElem.testBit ((8 * o + j) % d.bits) then x + 2 ^ j else x) 0
/-- The pad byte at byte o of dimension 0. -/
def Desc.padAt (d : Desc) (o : Nat) : Nat := d.padByte (if d.scaleMode = 1 then o % d.groupBytes else o)

/-- What byte o of an absent position reads as (R224): the spec states no scale for absent MX elements. -/
def Desc.absentByte (d : Desc) (o : Nat) : Loc := if d.isScale o then ⟨4, 0, 0⟩ else ⟨3, 0, d.padAt o⟩

/-! ## Where a position lies (R211, R226, R227) -/

/-- Where an outer index combination of a descriptor lies. -/
inductive Spot where
  | here (u off : Nat)
  /-- Owned by another module: index of the owner dimension, and the combination of the other outer indices. -/
  | away (module index rest : Nat)
  | absent
  | lost (blk : Nat)
  deriving DecidableEq, Repr

/-- The other outer indices as one number, dimension 1 first, by the tensor's sizes (log 23). -/
def Desc.rest (d : Desc) (idx : List Nat) : Nat :=
  ((d.outerDims.zip idx).foldl (fun acc x =>
    if x.1 = d.ownerDim then acc else (acc.1 + x.2 * acc.2, acc.2 * d.size x.1)) (0, 1)).1

/-- Indices at or above the sizes name an absent position (R240). -/
def Desc.inside (d : Desc) (idx : List Nat) : Bool := (d.outerDims.zip idx).all (fun x => decide (x.2 < d.size x.1))

/-- A combination of global outer indices, the owner dimension resolved through the owner table. -/
def State.spot (s : State) (q c : Nat) (d : Desc) (idx : List Nat) : Spot :=
  if d.inside idx = false then .absent
  else if d.ownerDim = 7 then let p := d.outerPlace idx; .here p.1 p.2
  else
    match s.resolve q c d (idx.getD (d.ownerDim - 1) 0) with
    | .here i => let p := d.outerPlace (idx.set (d.ownerDim - 1) i); .here p.1 p.2
    | .remote m _ => .away m (idx.getD (d.ownerDim - 1) 0) (d.rest idx)
    | .absent => .absent
    | .lost b => .lost b

/-- Byte o of dimension 0 at a spot, as a place: none when it is absent or lost. -/
def Desc.locAt (d : Desc) (p : Spot) (o : Nat) : Option Loc :=
  match p with
  | .here u off =>
    let a := d.base + off + o
    if d.space = 1 then some ⟨1, a / 32, a % 32⟩ else some ⟨0, (u * 2 ^ 27 + a) / 32, a % 32⟩
  | .away m i r => some ⟨2, (m * 2 ^ 32 + i) * 2 ^ 64 + (o / 32 + d.cols * r), o % 32⟩
  | _ => none

/-! ## The moves of a share (R240 to R243) -/

/-- All combinations of indices below the counts, the first changing fastest. -/
def combos : List Nat → List (List Nat)
  | [] => [[]]
  | n :: ns => (combos ns).flatMap (fun t => (List.range n).map (fun i => i :: t))

/-- Values of a descriptor's index tensor in a quadrant. -/
def State.indexValues (s : State) (q c : Nat) (d : Desc) : List Nat :=
  let t := s.desc c d.indexHandle
  (List.range (t.size 0)).map (fun k => s.stageWord q (t.base + 4 * k))

/-- Pairs of destination and source outer indices, in order (R240, R241). A destination index of a GATHER beyond its index tensor is
absent and is not written (R224). -/
def State.pairs (s : State) (q c : Nat) (op : Nat) (dst src : Desc) : List (List Nat × List Nat) :=
  let sizes := dst.outerDims.map dst.size
  if op = 2 then
    let v := s.indexValues q c src
    (combos sizes).filterMap (fun i =>
      (v[i.getD (src.indexDim - 1) 0]?).map (fun x => (i, i.set (src.indexDim - 1) x)))
  else if op = 3 then
    let v := s.indexValues q c dst
    v.zipIdx.flatMap (fun x =>
      (combos (sizes.set (dst.indexDim - 1) 1)).map (fun i =>
        (i.set (dst.indexDim - 1) x.1, i.set (dst.indexDim - 1) x.2)))
  else (combos sizes).map (fun i => (i, i))

/-- One byte to be moved. -/
structure ByteMove where
  dst : Loc
  src : Loc
  deriving DecidableEq, Repr

/-- Owner blocks met that are lost, or owned elsewhere while this module is out of its ring: handle and block. -/
abbrev Lost := List (Nat × Nat)

/-- A combination's spot with what it adds to the lost blocks (R227, R553). -/
def State.spotNote (s : State) (q c h : Nat) (d : Desc) (idx : List Nat) : Spot × Lost :=
  match s.spot q c d idx with
  | .lost b => (.lost b, [(h, b)])
  | .away m i r => if s.outOfRing then (.away m i r, [(h, i / 2 ^ d.ownerBlock)]) else (.away m i r, [])
  | p => (p, [])

/-- The source of byte o: the same byte of the source's dimension 0, or of the exchanged dimensions with TRANSPOSE (R240). -/
def State.srcByte (s : State) (q c : Nat) (h : Share) (src : Desc) (idx : List Nat) (o : Nat) : Loc × Lost :=
  let e := src.bits / 8
  let p := if h.transpose then s.spotNote q c h.src src ((o / e) :: idx.drop 1) else s.spotNote q c h.src src idx
  let o' := if h.transpose then idx.getD 0 0 * e + o % e else o
  if src.scaleMode ≠ 1 ∧ o' ≥ src.size 0 * src.bits / 8 then (src.absentByte o', p.2)
  else ((src.locAt p.1 o').getD (src.absentByte o'), p.2)

/-- The share writes the bytes that lie in its quadrant; parts for other modules are sent by the lowest quadrant of the span
(R234, R257, log 24). -/
def State.mine (s : State) (q c : Nat) (d : Desc) (p : Spot) : Bool :=
  match p with
  | .here u _ => d.space == 1 || quadOf u == q
  | .away _ _ _ => (bitsSet (s.ctx c).span).head? == some q
  | _ => false

/-- Moves of one pair of combinations. -/
def State.pairMoves (s : State) (q c : Nat) (h : Share) (dst src : Desc) (p : List Nat × List Nat) : List ByteMove × Lost :=
  let d := s.spotNote q c h.dst dst p.1
  if s.mine q c dst d.1 = false then ([], d.2)
  else
    dst.bytes0.foldl (fun acc o =>
      let r := s.srcByte q c h src p.2 o
      match dst.locAt d.1 o with
      | some l => (acc.1 ++ [⟨l, r.1⟩], acc.2 ++ r.2)
      | none => acc) ([], d.2)

/-! ## Pads (R229, R230) -/

/-- Columns of the low pad of dimension 0 and of a row with both pads; rows of dimension 1 with both pads (R215: the pads of
dimension 0 are whole columns). -/
def Desc.lowCols (d : Desc) : Nat := d.padLo0 * d.bits / 256
def Desc.padCols (d : Desc) : Nat := d.lowCols + d.cols + (d.padHi0 * d.bits + 255) / 256
def Desc.padRows (d : Desc) : Nat := d.padLo1 + (if d.rank ≤ 1 then 1 else d.localCount 1) + d.padHi1

/-- Data columns of one index of the owner dimension: pad columns are numbered after them (log 23). -/
def Desc.dataCols (d : Desc) : Nat :=
  d.cols * d.outerDims.foldl (fun n i => if i = d.ownerDim then n else n * d.size i) 1

/-- Where the pads of one combination of dimensions 2 and up go: unit and offset here, or the owner of its block with the index of
the owner dimension and the other indices of dimensions 2 and up as one number. -/
inductive PadSpot where
  | here (u off : Nat)
  | away (module index rest : Nat)
  deriving DecidableEq, Repr

/-- Rows of dimension 1 around which or in which pads lie: those outside it and those in it, counted as in the local part. -/
def Desc.rowCount (d : Desc) : Nat := if d.rank ≤ 1 then 1 else d.localCount 1
def Desc.outsideRows (d : Desc) : List Int :=
  (List.range d.padLo1).map (fun k => (k : Int) - d.padLo1) ++ (List.range d.padHi1).map (fun k => ((d.rowCount + k : Nat) : Int))
def Desc.insideRows (d : Desc) : List Int := (List.range d.rowCount).map (fun k => (k : Int))

/-- The pads' places in this quadrant with their rows: for every combination of dimensions 2 and up; with dimension 1 spread, in every
unit. Those whose block another module owns are sent by the lowest quadrant of the span (R226, R229, R257). With dimension 1 the owner
dimension, the pads around its rows go with each row, and those outside it lie around this module's own storage (DEDUCED, log 62). -/
def State.padSites (s : State) (q c : Nat) (d : Desc) : List (PadSpot × List Int) :=
  let rows := d.outsideRows ++ d.insideRows
  let units (u : Nat) : List Nat := if d.spreadDim = 1 then (List.range d.boxSize).map d.boxUnit else [u]
  let home (us : List Nat) (off : Nat) (rows : List Int) : List (PadSpot × List Int) :=
    if d.space = 1 then [(.here 0 off, rows)] else (us.filter (fun v => quadOf v = q)).map (fun v => (.here v off, rows))
  let send (m i r : Nat) (rows : List Int) : List (PadSpot × List Int) :=
    if (bitsSet (s.ctx c).span).head? = some q then [(.away m i r, rows)] else []
  if d.rank ≤ 1 then home [d.boxUnit 0] 0 rows
  else (combos ((d.outerDims.drop 1).map d.size)).flatMap (fun t =>
    let idx := 0 :: t
    if d.ownerDim = 7 then (let p := d.outerPlace idx; home (units p.1) p.2 rows)
    else if d.ownerDim = 1 then
      let p := d.outerPlace idx
      home (units p.1) p.2 d.outsideRows ++ (List.range (d.size 1)).flatMap (fun i =>
        match s.resolve q c d i with
        | .here k => let p := d.outerPlace (k :: t); home [p.1] p.2 [0]
        | .remote m _ => send m i (d.rest idx) [0]
        | _ => [])
    else
      match s.resolve q c d (idx.getD (d.ownerDim - 1) 0) with
      | .here i => let p := d.outerPlace (idx.set (d.ownerDim - 1) i); home (units p.1) p.2 rows
      | .remote m _ => send m (idx.getD (d.ownerDim - 1) 0) (d.rest idx / d.size 1) rows
      | _ => [])

/-- A pad byte at row i1 of dimension 1 and byte o of dimension 0 as a place. On another module a byte that shares a column with data
goes with that column; the others have columns of their own, numbered row by row. -/
def Desc.padLoc (d : Desc) (p : PadSpot) (i1 o : Int) : Loc :=
  match p with
  | .here u off =>
    let a := ((d.base : Int) + off + i1 * d.stride 1 + o).toNat
    if d.space = 1 then ⟨1, a / 32, a % 32⟩ else ⟨0, (u * 2 ^ 27 + a) / 32, a % 32⟩
  | .away m i r =>
    let inner := decide (0 ≤ i1 ∧ i1 < (d.size 1 : Int) ∧ 0 ≤ o ∧ o < (d.footprint : Int))
    let row := if d.ownerDim = 1 then r else i1.toNat + d.size 1 * r
    let padRow := if d.ownerDim = 1 then r else (i1 + d.padLo1).toNat + d.padRows * r
    let col := if inner then o.toNat / 32 + d.cols * row
      else d.dataCols + ((o + 32 * d.lowCols).toNat / 32 + d.padCols * padRow)
    ⟨2, (m * 2 ^ 32 + i) * 2 ^ 64 + col, (o + 32 * d.lowCols).toNat % 32⟩

/-- The pad bytes at one place in some rows: rows around dimension 1, elements around dimension 0. -/
def Desc.padMoves (d : Desc) (p : PadSpot) (rows : List Int) : List ByteMove :=
  let e := d.bits / 8
  let lo := d.padLo0 * e
  let hi := d.size 0 * d.bits / 8 + d.padHi0 * e
  let put (i1 o : Int) (b : Nat) : ByteMove := ⟨d.padLoc p i1 o, ⟨3, 0, b⟩⟩
  rows.flatMap (fun i1 =>
    let inner := decide (0 ≤ i1 ∧ i1 < (d.rowCount : Int))
    let around := ((List.range lo).map (fun (o : Nat) => put i1 ((o : Int) - lo) (d.padByte o))) ++
      ((span (d.size 0 * d.bits / 8) (hi - 1)).filter (fun o => decide (d.scaleMode ≠ 1 ∧ o < hi))).map
        (fun (o : Nat) => put i1 (o : Int) (d.padByte o))
    if inner then around
    else around ++ ((List.range d.footprint).filter d.isElem).map (fun (o : Nat) => put i1 (o : Int) (d.padAt o)))

/-- Data bytes of the destination in this quadrant, moved or not: no pad is written there (R230). -/
def State.dataBytes (s : State) (q c : Nat) (d : Desc) : List Loc :=
  (combos (d.outerDims.map d.size)).flatMap (fun idx =>
    let p := s.spot q c d idx
    if s.mine q c d p then d.bytes0.filterMap (fun o => d.locAt p o) else [])

/-- The pad bytes that a share writes (R229, R230). -/
def State.pads (s : State) (q c : Nat) (d : Desc) : List ByteMove :=
  let data := s.dataBytes q c d
  ((s.padSites q c d).flatMap (fun p => d.padMoves p.1 p.2)).filter (fun m => !data.contains m.dst)

/-- All moves of a share, and the lost blocks met. -/
def State.moves (s : State) (q : Nat) (h : Share) : List ByteMove × Lost :=
  let c := h.ctx
  let dst := s.desc c h.dst
  let src := s.desc c h.src
  (s.pairs q c h.op dst src).foldl (fun acc p =>
    let r := s.pairMoves q c h dst src p
    (acc.1 ++ r.1, acc.2 ++ r.2)) (s.pads q c dst, [])

/-- A share has no destination byte in its quadrant and no part of another module to send: it ends as soon as it starts (R234). -/
def State.destEmpty (s : State) (q : Nat) (h : Share) : Bool :=
  let c := h.ctx
  let dst := s.desc c h.dst
  (s.pairs q c h.op dst (s.desc c h.src)).all (fun p => !s.mine q c dst (s.spot q c dst p.1)) && (s.pads q c dst).isEmpty

end Sys2Proof.Machine
end

