-- ==== Sys2Proof/Machine/Scoreboard.lean ====
section
/-! DEFINITION. The region scoreboard: boxes, conflicts, holds, waiting requests and the starting of engine shares
(R181 to R189, R237 to R239, R265). -/

namespace Sys2Proof.Machine

def Quad.entry (x : Quad) (e : Nat) : SbEntry := tget SbEntry.init x.sb e
def Quad.modEntry (x : Quad) (e : Nat) (f : SbEntry → SbEntry) : Quad := { x with sb := tmod SbEntry.init x.sb e f }

/-! ## Boxes (R182, R184) -/

/-- Boxes overlap when every field range intersects (R184). -/
def SbEntry.overlaps (a b : SbEntry) : Bool :=
  (a.space == b.space) && (List.zip a.ranges b.ranges).all (fun r => decide (r.1.1 ≤ r.2.2 ∧ r.2.1 ≤ r.1.2))

/-- Who asks: a slot's timetable, or an engine share. -/
inductive Asker where
  | timetable (slot : Nat)
  | share (key : Nat)
  deriving DecidableEq, Repr

/-- Module-wide key of a share: engine, quadrant and number. -/
def shareKey (engine q id : Nat) : Nat := 8 * id + 4 * engine + q

/-- A hold of the entry `e` counts as the asker's own (R184). -/
def Asker.owns (a : Asker) (e : Nat) (h : Option Nat × Bool) : Bool :=
  match a with
  | .timetable sl => h.1.isNone && e / 64 == sl
  | .share k => h.1 == some k

/-- A request conflicts with a hold by another on an overlapping box (R184). -/
def Quad.conflicts (x : Quad) (a : Asker) (e : Nat) (write : Bool) : Bool :=
  x.sb.any (fun p => p.2.overlaps (x.entry e) && p.2.holders.any (fun h => !a.owns p.1 h && (write || h.2)))

/-- A request waits behind an earlier one on an overlapping region when either is for writing (R185). -/
def Quad.behind (x : Quad) (earlier : List SbRequest) (e : Nat) (write : Bool) : Bool :=
  earlier.any (fun r => (x.entry r.entry).overlaps (x.entry e) && (write || r.write))

/-- The hold is taken (R182, R188). -/
def SbEntry.hold (e : SbEntry) (h : Option Nat × Bool) : SbEntry :=
  { e with st := 2, wr := e.holders.any (·.2) || h.2, holders := e.holders ++ [h], byLesson := true,
           wroteLesson := e.wroteLesson || h.2 }

/-- A hold ends: the entry is released and deferring until the lesson's dismissal (R188). -/
def SbEntry.drop (e : SbEntry) (p : Option Nat × Bool → Bool) : SbEntry :=
  let hs := e.holders.filter (fun h => !p h)
  if hs.length = e.holders.length then e
  else { e with holders := hs, st := if hs.isEmpty then 3 else 2, wr := hs.any (·.2) }

def SbRequest.asker (r : SbRequest) : Asker :=
  match r.share with
  | some k => .share k
  | none => .timetable r.slot

/-- A request stands behind a remote access that has waited for longer on an overlapping region when either is for writing (R185,
R447). -/
def State.behindRemote (s : State) (q : Nat) (r : SbRequest) : Bool :=
  s.ring.kvWait.any (fun w => decide (w.order < r.order) && (r.write || w.cols.isSome) &&
    w.boxes.any (fun b => b.1 == q && b.2.overlaps ((s.quad q).entry r.entry)))

/-- A request is granted at once, or joins the waiting ones: true when it is held now. It is numbered in the order of arrival. -/
def State.ask (s : State) (q : Nat) (r : SbRequest) : State × Bool :=
  let r := { r with order := s.sync.arrivals }
  let s := { s with sync := { s.sync with arrivals := s.sync.arrivals + 1 } }
  let x := s.quad q
  if x.conflicts r.asker r.entry r.write || x.behind x.sbWait r.entry r.write || s.behindRemote q r then
    (s.setQuad q { x with sbWait := x.sbWait ++ [r] }, false)
  else (s.setQuad q (x.modEntry r.entry (fun e => e.hold (r.share, r.write))), true)

/-! ## Engine shares (R237 to R239, R265) -/

/-- Entries a copy share needs, in the order of its requests: quadrant, entry, for writing (R237). The slot of a context may
differ between quadrants. -/
def State.needs0 (s : State) (q : Nat) (h : Share) : List (Nat × Nat × Bool) :=
  let sm := fld h.record 441 438
  (List.range 4).flatMap (fun p =>
    let e := 64 * tget 0 (s.ctx h.ctx).slotIn p + fld h.record 473 468
    let src := if sm.testBit p && !(p == q && h.srcEntry == h.dstEntry) then [(p, e, false)] else []
    (if p = q then [(q, h.dstEntry, true)] else []) ++ src)

/-- Entries a merge-engine share needs (R265). -/
def Share.needs1 (h : Share) (q : Nat) : List (Nat × Nat × Bool) :=
  let aux := if h.aux = 0xFFF ∨ h.op = 1 ∨ h.op = 3 ∨ h.auxEntry = h.dstEntry then [] else [(q, h.auxEntry, decide (h.op ≠ 2))]
  let src := if h.stream ∨ h.srcEntry = h.dstEntry then [] else [(q, h.srcEntry, false)]
  (q, h.dstEntry, true) :: (aux ++ src)

def State.needs (s : State) (engine q : Nat) (h : Share) : List (Nat × Nat × Bool) :=
  if engine = 0 then s.needs0 q h else h.needs1 q

def Quad.shares (x : Quad) (engine : Nat) : List Share := if engine = 0 then x.xq else x.mq
def Quad.setShares (x : Quad) (engine : Nat) (hs : List Share) : Quad :=
  if engine = 0 then { x with xq := hs } else { x with mq := hs }
def State.share (s : State) (engine q id : Nat) : Option Share :=
  ((s.quad q).shares engine).find? (fun h => h.id = id)
def State.modShare (s : State) (engine q id : Nat) (f : Share → Share) : State :=
  s.modQuad q (fun x => x.setShares engine ((x.shares engine).map (fun h => if h.id = id then f h else h)))

/-- A share holds an entry, or a request of it waits. -/
def State.holds (s : State) (key : Nat) (n : Nat × Nat × Bool) : Bool :=
  ((s.quad n.1).entry n.2.1).holders.any (fun h => h.1 = some key)
def State.asks (s : State) (key : Nat) (n : Nat × Nat × Bool) : Bool :=
  (s.quad n.1).sbWait.any (fun r => r.share = some key && r.entry == n.2.1)

/-- A share that holds its destination is numbered, once (R231). -/
def State.noteGranted (s : State) (engine q id : Nat) (write : Bool) : State :=
  if write then
    { s with sync := { s.sync with arrivals := s.sync.arrivals + 1 } }.modShare engine q id
      (fun h => if h.granted = 0 then { h with granted := s.sync.arrivals + 1 } else h)
  else s

/-- A requesting share asks for its entries one after another; with all of them it may begin (R237, R265). -/
def State.advance (s : State) (engine q id slot key : Nat) : List (Nat × Nat × Bool) → State
  | [] => s.modShare engine q id (fun h => { h with phase := 2 })
  | n :: ns =>
    if s.holds key n then (s.noteGranted engine q id n.2.2).advance engine q id slot key ns
    else if s.asks key n then s
    else
      let r := s.ask n.1 ⟨slot, some key, n.2.1, n.2.2, 0⟩
      if r.2 then (r.1.noteGranted engine q id n.2.2).advance engine q id slot key ns else r.1

def State.advanceShare (s : State) (engine q : Nat) (h : Share) : State :=
  s.advance engine q h.id h.slot (shareKey engine q h.id) (s.needs engine q h)

/-- Shares of engine 0 that move data or have moved it, and shares of engine 1 that work: at most 8 and 4 (R239, R265). A transposing
share that holds its entries and waits for the buffer is not counted (R247). -/
def Quad.busy (x : Quad) (engine : Nat) : Nat :=
  if engine = 0 then (x.xq.filter (fun h => h.phase = 3 ∨ (h.phase = 2 ∧ x.tbuf = some h.id))).length
  else (x.mq.filter (fun h => h.phase ≥ 2)).length

/-- The next queued share may ask for its entries: copy shares ask in launch order; those of the merge engine start in it, so that one
asks only after the one before it holds all of its own, with fewer than 4 at work (R239, R265). -/
def Quad.mayAsk (x : Quad) (engine : Nat) : Bool :=
  engine == 0 || (x.mq.all (fun h => decide (h.phase ≠ 1)) && decide (x.busy 1 < 4))

/-- Queued shares start in launch order. A copy share without a destination byte in its quadrant is at its end at once (R234). -/
def State.startShares (s : State) (engine q : Nat) : Nat → State
  | 0 => s
  | n + 1 =>
    let x := s.quad q
    if x.mayAsk engine = false then s
    else
      match (x.shares engine).find? (fun h => h.phase = 0) with
      | none => s
      | some h =>
        if engine = 0 ∧ s.destEmpty q h = true then
          (s.modShare engine q h.id (fun h => { h with phase := 3 })).startShares engine q n
        else
          let s := s.modShare engine q h.id (fun h => { h with phase := 1 })
          (s.advanceShare engine q h).startShares engine q n

/-- A share's entries are released in every quadrant (R187, R237). -/
def State.releaseShare (s : State) (key : Nat) : State :=
  (List.range 4).foldl (fun s q => s.modQuad q (fun x =>
    { x with sb := x.sb.foldl (fun t p => tset SbEntry.init t p.1 (p.2.drop (fun h => h.1 = some key))) x.sb
             sbWait := x.sbWait.filter (fun r => r.share ≠ some key) })) s

/-- The share with a key, wherever it is. -/
def State.shareOf (s : State) (key : Nat) : Option (Nat × Nat × Share) :=
  let engine := key / 4 % 2
  let q := key % 4
  (s.share engine q (key / 8)).map (fun h => (engine, q, h))

/-- The first waiting request that neither conflicts nor stands behind an earlier one (R185). -/
def State.grantable (s : State) (q : Nat) : List SbRequest → List SbRequest → Option SbRequest
  | _, [] => none
  | seen, r :: rs =>
    let x := s.quad q
    if x.conflicts r.asker r.entry r.write || x.behind seen r.entry r.write || s.behindRemote q r then
      s.grantable q (seen ++ [r]) rs
    else some r

/-- TRANSPOSE_BUFFER_GRANT (R239, R247): the buffer goes to the first transposing share that holds its entries, if it is free and fewer
than 8 shares move data. -/
def execTransposeBufferGrant (q : Fin 4) (s : State) : Host.Outcome State Fault Refusal :=
  .next (let x := s.quad q
    match x.tbuf, x.xq.find? (fun h => h.phase = 2 ∧ h.transpose = true) with
    | none, some h => if x.busy 0 < 8 then s.setQuad q { x with tbuf := some h.id } else s
    | _, _ => s)

end Sys2Proof.Machine
end

