-- ==== Sys2Proof/Machine/Descs.lean ====
section
/-! DEFINITION. Checks on descriptors and pairs of them, the smallest box of a tensor, allocations (R183, R194 to R202,
R214 to R218, R244, R248 to R250). -/

namespace Sys2Proof.Machine

/-! ## Spans (R216, R217) -/

/-- The count of a dimension in the spans: its local count, an index dimension's size. -/
def Desc.spanCount (d : Desc) (i : Nat) : Nat := if i = d.indexDim then d.size i else d.localCount i

/-- Bytes from BASE to the end of the data span. -/
def Desc.spanBytes (d : Desc) : Nat :=
  d.outerDims.foldl (fun n i => n + (d.spanCount i - 1) * d.stride i) d.footprint

/-- Bytes of pad elements of dimension 0. -/
def Desc.padBytes (d : Desc) (n : Nat) : Nat := n * d.bits / 8

/-- The padded span may begin before byte 0, so its ends are integers: first byte, and the byte after the last. -/
def Desc.padded (d : Desc) : Int × Int :=
  ((d.base : Int) - d.padLo1 * d.stride 1 - d.padBytes d.padLo0,
   (d.base : Int) + d.spanBytes + d.padHi1 * d.stride 1 + d.padBytes d.padHi0)

/-- The overlap check of a writable descriptor (R217), the counts of its sums as R216 takes them (log 33). -/
def Desc.disjoint (d : Desc) : Bool :=
  let ds := sortBy (fun (a b : Nat) => decide (d.stride a ≤ d.stride b))
    (d.outerDims.filter (fun i => decide (d.localCount i > 1)))
  (ds.foldl (fun (acc : Nat × Bool) i =>
    (acc.1 + (d.spanCount i - 1) * d.stride i, acc.2 && decide (acc.1 ≤ d.stride i))) (d.footprint, true)).2

/-! ## Allocations (R194 to R199) -/

def State.allocation (s : State) (c a : Nat) : Allocation := tget Allocation.none (s.ctx c).allocs a

/-- Banks of a box. -/
def Allocation.banks (a : Allocation) : List Nat :=
  (span a.stackLo a.stackHi).flatMap (fun st =>
    (span a.dieLo a.dieHi).flatMap (fun di => (span a.bankLo a.bankHi).map (fun b => bankNo st di b)))

/-- Plots of a bank-view allocation, holes among them. -/
def Allocation.plots (a : Allocation) : List Nat :=
  a.banks.flatMap (fun b => (span a.lo a.hi).map (fun i => b * 2048 + i))

/-- A staging allocation of a context holds a granule in the quadrants of its span. -/
def State.granuleTaken (s : State) (q g : Nat) : Bool :=
  s.ctxs.any (fun c => c.2.span.getLsbD q && c.2.allocs.any (fun a =>
    a.2.live && a.2.staging && decide (a.2.lo ≤ g ∧ g ≤ a.2.hi)))

/-- Granules 0 to 735 of each quadrant are offered for allocation (06 before R194). -/
def granules : Nat := 736

/-- Bank-view use of a context in plots, less holes (R199). -/
def State.plotUse (s : State) (c : Nat) : Nat :=
  (s.ctx c).allocs.foldl (fun n a =>
    if a.2.live && !a.2.staging then
      n + a.2.banks.length * (a.2.hi + 1 - a.2.lo) - (s.health.retired.filter (fun p => a.2.holdsPlot p)).length
    else n) 0

/-- Staging use of a context in granules: every quadrant of its span counts (R199). -/
def State.stageUse (s : State) (c : Nat) : Nat :=
  (s.ctx c).allocs.foldl (fun n a =>
    if a.2.live && a.2.staging then n + (a.2.hi + 1 - a.2.lo) * (bitsSet (s.ctx c).span).length else n) 0

/-! ## Checks at creation (R215) -/

/-- A dimension code: 1 to RANK - 1, or 7 for none. -/
def Desc.dimOk (d : Desc) (n : Nat) : Bool := n == 7 || decide (1 ≤ n ∧ n < d.rank)

/-- Check 1: fields. -/
def Desc.formOk (d : Desc) : Bool :=
  fld d 474 472 == 0 && fld d 288 287 == 0 && fld d 7 0 == 0 && !d.poisoned &&
  decide (1 ≤ d.rank ∧ d.rank ≤ 6 ∧ d.fmt ≤ 9) &&
  (if d.isMx then d.scaleMode == 1 || d.scaleMode == 2 else d.scaleMode == 0) &&
  (if d.isMx then d.size 0 % (if d.fmt = 1 ∨ d.fmt = 2 then 128 else 32) == 0 else true) &&
  d.dimOk d.spreadDim && d.dimOk d.indexDim && d.dimOk d.ownerDim &&
  ((List.range 6).all (fun i => decide (i < d.rank) || d.size i == 1)) &&
  ((List.range 6).all (fun i => decide (i < d.rank ∨ i = 0) || d.stride i == 0)) &&
  (if d.space = 1 then d.spreadDim == 7 && fld d 359 332 == 0
   else decide (d.stackLo ≤ d.stackHi ∧ d.dieLo ≤ d.dieHi ∧ d.bankLo ≤ d.bankHi) &&
     (d.spreadDim != 7 || decide (d.boxSize = 1))) &&
  (d.ownerDim != 7 || d.localSlots == 0) &&
  (!d.isMx || (d.padLo0 == 0 && d.padHi0 == 0))

/-- A live descriptor: RANK is at least 1 in every one that was created. -/
def Desc.live (d : Desc) : Bool := decide (d.rank ≠ 0)

/-- A staging UINT32 tensor of rank 1 (index tensors and owner tables). -/
def Desc.isIndex (d : Desc) : Bool := d.live && d.space == 1 && d.rank == 1 && d.fmt == 8

/-- Check 2: the descriptors it names; `h` is the handle being written. -/
def State.namesOk (s : State) (c h : Nat) (d : Desc) : Bool :=
  let other (k : Nat) : Desc := if k = h then 0 else s.desc c k
  (d.indexDim == 7 || (other d.indexHandle).isIndex) &&
  (d.ownerDim == 7 ||
    ((other d.ownerHandle).isIndex &&
      decide (ceilDiv (d.size d.ownerDim) (2 ^ d.ownerBlock) ≤ (other d.ownerHandle).size 0) &&
      (s.ctx c).descs.all (fun p => p.1 == h || Desc.ownerDim p.2 == 7 || Desc.ringTid p.2 != d.ringTid))) &&
  (d.scaleMode != 2 ||
    (let t := other d.scaleHandle
     t.live && t.fmt == 9 && t.rank == d.rank && decide (32 * t.size 0 = d.size 0) &&
       (d.outerDims.all (fun i => decide (t.size i = d.size i)))))

/-- Check 3: alignment. -/
def Desc.alignOk (d : Desc) : Bool :=
  d.base % 32 == 0 && ((List.range 6).drop 1).all (fun i => d.stride i % 32 == 0) &&
  d.padBytes d.padLo0 % 32 == 0 && d.padBytes d.padHi0 % 32 == 0

/-- Bytes first to last lie within the plots or granules of an allocation, in no hole. -/
def State.extentOk (s : State) (c : Nat) (d : Desc) (first last : Int) : Bool :=
  let a := s.allocation c d.alloc
  let lo : Int := 65536 * a.lo
  let hi : Int := 65536 * (a.hi + 1)
  a.live && (a.staging == (d.space == 1)) && decide (lo ≤ first ∧ last ≤ hi) &&
  (d.space == 1 ||
    (decide (a.stackLo ≤ d.stackLo ∧ d.stackHi ≤ a.stackHi ∧ a.dieLo ≤ d.dieLo ∧ d.dieHi ≤ a.dieHi ∧
        a.bankLo ≤ d.bankLo ∧ d.bankHi ≤ a.bankHi ∧ d.stackHi ≤ 19) &&
      s.health.retired.all (fun p =>
        let b := bankOfPlot p
        !(decide (d.stackLo ≤ stackOf b ∧ stackOf b ≤ d.stackHi ∧ d.dieLo ≤ dieOf b ∧ dieOf b ≤ d.dieHi ∧
            d.bankLo ≤ bankOf b ∧ bankOf b ≤ d.bankHi) &&
          decide (65536 * (p % 2048 : Int) < last ∧ first < 65536 * ((p % 2048 : Int) + 1))))))

/-- The six checks in their order: the code of the first one not met (R215). -/
def State.checkDesc (s : State) (c h : Nat) (d : Desc) : BitVec 16 :=
  if d.formOk = false ∨ s.namesOk c h d = false then Code.descFormat
  else if d.alignOk = false then Code.descAlign
  else if s.extentOk c d d.base (d.base + d.spanBytes) = false then Code.descExtent
  else if s.extentOk c d d.padded.1 d.padded.2 = false then Code.descPadExtent
  else if d.writable && !d.disjoint then Code.descOverlap
  else Code.ok

/-! ## Pairs of descriptors (R244, R248 to R250) -/

/-- The boxes have a bank in common, or both lie in staging SRAM. -/
def Desc.meets (a b : Desc) : Bool :=
  a.space == b.space && (a.space == 1 ||
    decide (a.stackLo ≤ b.stackHi ∧ b.stackLo ≤ a.stackHi ∧ a.dieLo ≤ b.dieHi ∧ b.dieLo ≤ a.dieHi ∧
      a.bankLo ≤ b.bankHi ∧ b.bankLo ≤ a.bankHi))

def Desc.overlapsSpan (a b : Desc) : Bool :=
  a.meets b && decide (a.base < b.base + b.spanBytes ∧ b.base < a.base + a.spanBytes)

/-- Exact overlap (R248). -/
def Desc.sameBytes (a b : Desc) : Bool :=
  a.space == b.space && fld a 359 332 == fld b 359 332 && a.base == b.base && a.rank == b.rank && a.fmt == b.fmt &&
  a.scaleMode == b.scaleMode && a.spreadDim == b.spreadDim &&
  (List.range 6).all (fun i => a.size i == b.size i) &&
  (List.range 6).all (fun i => i == 0 || a.stride i == b.stride i)

/-- The four checks on a copy's descriptors, in order: DESC_FORMAT, DESC_OVERLAP or none (R244, R250). -/
def copyPair (op : Nat) (transpose : Bool) (dst src : Desc) : BitVec 16 :=
  if dst.rank ≠ src.rank ∨ dst.fmt ≠ src.fmt ∨ dst.scaleMode ≠ src.scaleMode ∨
      (dst.isMx = true ∧ dst.size 0 ≠ src.size 0) then Code.descFormat
  else if transpose = true ∧ (op ≠ 1 ∨ dst.rank < 2 ∨ dst.scaleMode ≠ 0 ∨ dst.fmt < 6) then Code.descFormat
  else if (op = 2 ∧ src.indexDim = 7) ∨ (op = 3 ∧ dst.indexDim = 7) then Code.descFormat
  else if dst.overlapsSpan src = false then Code.ok
  else if dst.sameBytes src = true ∧ op = 1 ∧
      (transpose = false ∨ (dst.size 0 = dst.size 1 ∧ (dst.size 0) ^ 2 * (dst.bits / 8) ≤ 65536)) then Code.ok
  else Code.descOverlap

/-! ## The smallest box of a tensor's local part (R183) -/

/-- Offsets of the first byte of every run of dimension 0. -/
def Desc.starts (d : Desc) : List Nat :=
  d.outerDims.foldl (fun os i =>
    (List.range (d.localCount i)).flatMap (fun k => os.map (fun o => o + k * d.stride i))) [d.base]

/-- Offsets of every column. -/
def Desc.columnOffsets (d : Desc) : List Nat :=
  d.starts.flatMap (fun o => (List.range d.cols).map (fun k => o + 32 * k))

/-- Bank units of the tensor's local part: every unit of the box holds storage for the full local count (R211, R212). -/
def Desc.usedUnits (d : Desc) : List Nat :=
  if d.spreadDim = 7 then [d.boxUnit 0] else (List.range d.boxSize).map d.boxUnit

def lowest (xs : List Nat) : Nat := xs.foldl min (xs.headD 0)
def highest (xs : List Nat) : Nat := xs.foldl max 0

/-- BOUNDS of R182 for a tensor in a quadrant. With nothing of it in the quadrant, a box that meets no other (log 29). -/
def Desc.bounds (d : Desc) (q : Nat) : BitVec 72 :=
  if d.space = 1 then
    let os := d.starts
    setBits (setBits 0 51 21 (lowest os / 32)) 30 21 ((highest os + d.footprint - 1) / 32)
  else
    let us := d.usedUnits.filter (fun u => quadOf u = q)
    if us.isEmpty then setBits 0 67 5 31
    else
      let os := d.columnOffsets
      let f (b : BitVec 72) (lo k : Nat) (xs : List Nat) : BitVec 72 :=
        setBits (setBits b (lo + k) k (lowest xs)) lo k (highest xs)
      let b := f 0 62 5 (us.map stackOf)
      let b := f b 54 4 (us.map dieOf)
      let b := f b 44 5 (us.map bankOf)
      let b := f b 12 16 (os.map (fun o => o / 2048 % 65536))
      f b 0 6 (os.map (fun o => o / 32 % 64))

end Sys2Proof.Machine
end

