-- ==== Sys2Proof/Machine/Sync.lean ====
section
/-! DEFINITION. The SYNC, ADDR and CTRL slots (R123 to R128, R145, R184 to R188, R297 to R308, R313 to R317, R403, R404). A SYNC
operation that can block is carried out when its word is presented; ISSUE_WORD presents a word that has not been. -/

namespace Sys2Proof.Machine

/-- Context of a slot, with its lesson. -/
def State.slotCtx (s : State) (q sl : Nat) : Option (Nat × Lesson) :=
  match (s.slot q sl).ctx with
  | some c => (s.ctx c).lesson.map (fun l => (c, l))
  | none => none

/-! ## Quiet beats (R164, R166) -/

/-- The next beat is quiet for a slot: at its start no column command of the slot is in flight and no result of it is still due, and
every bank of the quadrant has both halves precharged. -/
def State.quiet (s : State) (q sl : Nat) : Bool :=
  let x := s.quad q
  x.dues.all (fun d => decide (d.slot ≠ sl ∨ d.due ≤ x.beat + 1)) && x.masked.all (fun m => decide (m.slot ≠ sl)) &&
    s.banks.all (fun p => decide (quadOf p.1 ≠ q) || (p.2.open0.isNone && p.2.open1.isNone))

/-- The word of a slot blocks; at a quiet beat its context becomes WAITING, otherwise it holds the quadrant (R145, R166). -/
def State.block (s : State) (q sl : Nat) (b : Blocked) : State :=
  let quiet := s.quiet q sl
  s.modSlot q sl (fun x =>
    { x with blocked := some b, timedOut := false, st := if quiet && x.st == .issuing then .waiting else x.st })

/-- The word of a slot may issue, with POISONED or without. -/
def State.pass (s : State) (q sl : Nat) (poisoned : Bool) : State :=
  s.modSlot q sl (fun x => { x with passed := some poisoned })

/-! ## Presenting a word -/

/-- WAIT (R123, R298, R300, R304, R327): passes, passes with POISONED, or blocks; a wait on another module's pennant
subscribes to it. -/
def State.presentWait (s : State) (q sl : Nat) (w : Word32) : State :=
  match (s.slot q sl).ctx with
  | none => s
  | some c =>
    let k := tget 0 (s.slot q sl).k (Sync.waitK w)
    let v := k.toNat + Sync.ofs w
    match s.testWait c (Sync.pen w) v with
    | some p => s.pass q sl p
    | none =>
      let s := s.subscribe c (Sync.pen w)
      s.block q sl (.pennant (Sync.pen w) v)

/-- BELL (R313): counts from the beat in which it is first presented, a bell exactly at its start included. -/
def State.presentBell (s : State) (q sl : Nat) (w : Word32) : State :=
  let left := Sync.count w - (if s.onBell then 1 else 0)
  if left = 0 then s.pass q sl false else s.block q sl (.bells left)

/-- FENCE (R308). -/
def State.presentFence (s : State) (q sl : Nat) : State :=
  match (s.slot q sl).ctx with
  | none => s
  | some c => if s.writesDone q c (s.quad q).seq then s.pass q sl false else s.block q sl .fence

/-- RGET (R184 to R186): ignored for an entry already held or unused; otherwise taken, or the word waits. -/
def State.presentRget (s : State) (q sl : Nat) (w : Word32) : State :=
  let e := 64 * sl + Sync.entry w
  let x := (s.quad q).entry e
  if x.st = 0 ∨ x.holders.any (fun h => h.1.isNone) then s.pass q sl false
  else
    let r := s.ask q ⟨sl, none, e, Sync.wr w, 0⟩
    if r.2 then r.1.pass q sl false else r.1.block q sl (.region e (Sync.wr w))

/-- The TAG record of a REPORT word (R400). -/
def tagReport (l : Lesson) (q origin tag : Nat) : Report :=
  { Report.blank 2 with
    roll := l.roll, w0 := BitVec.ofNat 64 tag, w1 := BitVec.ofNat 64 (origin + q * 2 ^ 20) }

/-- ORIGIN of the word at which a slot stands. -/
def State.nextOrigin (s : State) (q sl : Nat) : Nat :=
  (s.ttWord q (s.activeBase q sl + (s.slot q sl).pc + 4)).toNat % 2 ^ 20

/-- REPORT (R123, R403): the record is posted and has its place in the order; the word waits while no place is free, and with one
its context goes on. The record is not written before its word has issued (R404). -/
def State.presentReport (s : State) (q sl : Nat) (w : Word32) : State :=
  match s.slotCtx q sl with
  | none => s
  | some (c, l) =>
    let r := tagReport l q (s.nextOrigin q sl) (Sync.tag w)
    let st := (s.slot q sl).st
    let s := (s.block q sl .reportBuffer).postFrom c r [] true (some (q, sl))
    let s := if (s.ctx c).hostLost then s.modSlot q sl (fun x => x.release false) else s
    if (s.slot q sl).passed.isSome then s.modSlot q sl (fun x => { x with st := st }) else s

/-- The record of a REPORT word that issues: in normal ordering it comes after every column write of the context so far, the same
word's too (R110, R306, R404). -/
def Waiting.issued (w : Waiting) (q sl : Nat) (after : List (Nat × Nat)) : Waiting :=
  if w.early = true ∧ w.src = some (q, sl) then { w with early := false, after := after } else w

def State.reportIssued (s : State) (q sl : Nat) : State :=
  match s.slotCtx q sl with
  | none => s
  | some (c, l) =>
    let after := if l.fenced then [] else [(q, (s.quad q).seq)]
    s.modCtx c (fun x =>
      { x with buffer := x.buffer.map (fun w => w.issued q sl after), queue := x.queue.map (fun w => w.issued q sl after) })

/-! ## Meanings: SYNC -/

/-- A context has no unmet ordering condition in fenced ordering (R305, R307). -/
def State.slotFenced (s : State) (q sl : Nat) : Bool :=
  match s.slotCtx q sl with
  | some (_, l) => l.fenced
  | none => s.fencedNow

/-- HOIST (R123, R124, R298, R303, R306, R307): the identifier is translated now; in normal ordering the hoist waits for the
context's earlier column writes of the quadrant. -/
def execHoist (q sl : Fin 4) (w : Word32) (s : State) : Host.Outcome State Fault Refusal :=
  .next (match (s.slot q sl).ctx with
    | none => s
    | some c =>
      let before := if s.slotFenced q sl then 0 else (s.quad q).seq
      s.queueHoist q c (s.binding c (Sync.pen w)) (Sync.amt w) before)

/-- WAIT (R300). -/
def execWait (q sl : Fin 4) (w : Word32) (s : State) : Host.Outcome State Fault Refusal :=
  .next (let x := s.slot q sl
    if x.passed.isSome ∨ x.blocked.isSome then s else s.presentWait q sl w)

/-- KADD (R99, R123): beyond 64 bits the spec states no sum: a free value (log 11). -/
def execKadd (q sl : Fin 4) (w : Word32) (s : State) : Host.Outcome State Fault Refusal :=
  .next (let k := tget 0 (s.slot q sl).k (Sync.k w)
    let n := k.toNat + Sync.addend w
    let r := s.draw 64
    if n < 2 ^ 64 then s.modSlot q sl (fun x => { x with k := tset 0 x.k (Sync.k w) (BitVec.ofNat 64 n) })
    else r.2.modSlot q sl (fun x => { x with k := tset 0 x.k (Sync.k w) r.1 }))

/-- RGET (R184, R186). -/
def execRget (q sl : Fin 4) (w : Word32) (s : State) : Host.Outcome State Fault Refusal :=
  .next (let x := s.slot q sl
    if x.passed.isSome ∨ x.blocked.isSome then s else s.presentRget q sl w)

/-- RREL (R186, R188): the timetable's hold of an entry ends; the entry goes on deferring. -/
def execRrel (q sl : Fin 4) (w : Word32) (s : State) : Host.Outcome State Fault Refusal :=
  .next (s.modQuad q (fun x => x.modEntry (64 * sl + Sync.entry w) (fun e => e.drop (fun h => h.1.isNone))))

/-- BELL (R313). -/
def execBell (q sl : Fin 4) (w : Word32) (s : State) : Host.Outcome State Fault Refusal :=
  .next (let x := s.slot q sl
    if x.passed.isSome ∨ x.blocked.isSome then s else s.presentBell q sl w)

/-- FENCE (R308). -/
def execFence (q sl : Fin 4) (_w : Word32) (s : State) : Host.Outcome State Fault Refusal :=
  .next (let x := s.slot q sl
    if x.passed.isSome ∨ x.blocked.isSome then s else s.presentFence q sl)

/-- REPORT (R123, R403, R404). -/
def execReport (q sl : Fin 4) (w : Word32) (s : State) : Host.Outcome State Fault Refusal :=
  .next (let x := s.slot q sl
    if x.passed.isSome ∨ x.blocked.isSome then s else s.presentReport q sl w)

/-! ## Meanings: ADDR (R125, R126, R550) -/

/-- AGSET: the generator walks the local part from its first position. -/
def execAgset (q sl : Fin 4) (w : Word32) (s : State) : Host.Outcome State Fault Refusal :=
  .next (s.modSlot q sl (fun x =>
    { x with gens := tset Gen.unset x.gens (Addr.ag w) ⟨true, false, BitVec.ofNat 12 (Addr.desc w), 0⟩ }))

/-- AGIDX: the generator walks the positions of the index tensor; in profile 1 it walks the local part (R550). -/
def execAgidx (q sl : Fin 4) (w : Word32) (s : State) : Host.Outcome State Fault Refusal :=
  .next (let byIndex := decide (s.profile q sl = 0)
    s.modSlot q sl (fun x =>
      { x with gens := tset Gen.unset x.gens (Addr.ag w) ⟨true, byIndex, BitVec.ofNat 12 (Addr.desc w), 0⟩ }))

/-- AGSKIP: the generator steps COUNT positions. -/
def execAgskip (q sl : Fin 4) (w : Word32) (s : State) : Host.Outcome State Fault Refusal :=
  .next (s.modSlot q sl (fun x => x.stepGen (Addr.ag w) (Addr.count w)))

/-- XBASE: the transfer base of staging (SRC 0) or merge-engine output (SRC 2); other sources are reserved (R129). -/
def execXbase (q sl : Fin 4) (w : Word32) (s : State) : Host.Outcome State Fault Refusal :=
  .next (s.modSlot q sl (fun x =>
    if Addr.src w = 0 then { x with xbaseStage := BitVec.ofNat 26 (Addr.base w) }
    else if Addr.src w = 2 then { x with xbaseMerge := BitVec.ofNat 26 (Addr.base w) }
    else x))

/-! ## Meanings: CTRL (R127, R128) -/

/-- A mask register with one part replaced. -/
def mskPart (m : BitVec 53) (part v : Nat) : BitVec 53 :=
  if part = 0 then setBits m 0 5 v
  else if part = 1 then setBits m 5 16 v
  else if part = 2 then setBits m 21 16 v
  else setBits m 37 16 v

/-- MSK: part of a mask register; register 0 is reserved (R129). -/
def execMsk (q sl : Fin 4) (w : Word32) (s : State) : Host.Outcome State Fault Refusal :=
  .next (if Ctrl.reg w = 0 then s
    else s.modSlot q sl (fun x =>
      { x with masks := tmod (BitVec.allOnes 53) x.masks (Ctrl.reg w) (fun m => mskPart m (Ctrl.part w) (Ctrl.value w)) }))

/-- LOOP: loads a loop counter. -/
def execLoop (q sl : Fin 4) (w : Word32) (s : State) : Host.Outcome State Fault Refusal :=
  .next (s.modSlot q sl (fun x => { x with loops := tset 0 x.loops (Ctrl.cnt w) (BitVec.ofNat 24 (Ctrl.count w)) }))

/-- ENDL: with the counter above 0, it falls by 1 and the next word is the one BACK units before this word's first unit. -/
def execEndl (q sl : Fin 4) (w : Word32) (s : State) : Host.Outcome State Fault Refusal :=
  .next (let n := tget 0 (s.slot q sl).loops (Ctrl.cnt w)
    if n = 0 then s
    else
      let pc := match (s.quad q).word with
        | some i => i.pc
        | none => (s.slot q sl).pc
      s.modSlot q sl (fun x =>
        { x with loops := tset 0 x.loops (Ctrl.cnt w) (n - 1), pc := pc - 4 * Ctrl.back w }))

/-- A lesson parameter as the word in issue of a slot finds it, at the start of its beat (R110). -/
def State.paramAt (s : State) (q sl i : Nat) : Word64 :=
  match (s.quad q).word with
  | some w => if w.slot = sl then tget 0 w.k i else tget 0 (s.slot q sl).k i
  | none => tget 0 (s.slot q sl).k i

/-- A launch record is placed in an engine's queue with its pennant translated (R124, R238, R265, R287); with the slot's 16
places taken the beat is held and nothing happens. -/
def State.launch (s : State) (engine q sl : Nat) (w : Word32) : State :=
  match (s.slot q sl).ctx with
  | none => s
  | some c =>
    let x := s.quad q
    if ((x.shares engine).filter (fun h => h.slot = sl)).length ≥ 16 then s
    else
      let rec_ := BitVec.ofNat 512 (leNat (readBytes x.tt (s.activeBase q sl + 64 * Ctrl.record w) 64))
      let y := s.slot q sl
      let tag := fld rec_ 441 433
      let first := tget 0 (s.ctx c).streams (4 * 512 + q * 512 + tag)
      let streamed := engine = 1 ∧ rec_.getLsbD 506 = true
      let h : Share :=
        { id := x.shareIds, slot := sl, ctx := c, record := rec_, binding := s.binding c (fld rec_ 467 458),
          nth := if engine = 0 then y.launches0 else y.launches1, phase := 0, granted := 0, remote := 0,
          k7 := s.paramAt q sl 7, firstIssue := first, taken := [], combined := 0, wrote := 0, result := none, ringing := false }
      let s := if streamed then
          s.modCtx c (fun z => { z with streams := tset 0 z.streams (4 * 512 + q * 512 + tag) (first + fld rec_ 369 346) })
        else s
      let s := s.modQuad q (fun x => { x.setShares engine (x.shares engine ++ [h]) with shareIds := x.shareIds + 1 })
      let s := s.modSlot q sl (fun y =>
        if engine = 0 then { y with launches0 := y.launches0 + 1 } else { y with launches1 := y.launches1 + 1 })
      s.startShares engine q 64

/-- LAUNCH for the exchange network (R127, R238). -/
def execLaunchExchange (q sl : Fin 4) (w : Word32) (s : State) : Host.Outcome State Fault Refusal :=
  .next (s.launch 0 q sl w)

/-- LAUNCH for the merge engine (R127, R265). -/
def execLaunchMerge (q sl : Fin 4) (w : Word32) (s : State) : Host.Outcome State Fault Refusal :=
  .next (s.launch 1 q sl w)

end Sys2Proof.Machine
end

