-- ==== Sys2Proof/Machine/Column.lean ====
section
/-! DEFINITION. The row and column commands: activation tables, steals, reads and writes of columns
(R35 to R41, R55 to R58, R113 to R115, R126, R140 to R142, R344 to R348). -/

namespace Sys2Proof.Machine

/-! ## Refresh and steals (R344 to R348) -/

/-- The queued neighbour refresh that comes next: the earliest deadline, among equals the first queued (R348). -/
def Bank.nextNeighbour (b : Bank) : Option Neighbour :=
  b.nbq.foldl (fun acc n =>
    match acc with
    | none => some n
    | some m => if n.deadline < m.deadline then some n else some m) none

/-- A neighbour refresh is performed. -/
def Bank.doNeighbour (b : Bank) : Bank :=
  match b.nextNeighbour with
  | some n => { b with nbq := b.nbq.erase n }
  | none => b

/-- A regular refresh operation: 8 rows, the pointer steps, the debt falls (R343, R344). -/
def Bank.doRefresh (b : Bank) : Bank :=
  if b.debt = 0 then b else { b with debt := b.debt - 1, pointer := b.pointer + 1 }

/-- One operation of a bank that owes one, neighbour refresh first; a bank whose refresh fell due at debt 8 performs both
(R345, R346). -/
def Bank.doOp (b : Bank) : Bank :=
  if b.nbq.isEmpty then b.doRefresh else if b.debt > 8 then b.doNeighbour.doRefresh else b.doNeighbour

/-- A bank owes an operation. -/
def Bank.owes (b : Bank) : Bool := decide (b.debt ≠ 0) || !b.nbq.isEmpty

/-- A row that no timetable opened stays open until a refresh (R339). -/
def OpenRow.kept (r : Option OpenRow) : Option OpenRow := r.filter (fun x => x.timetable)

/-- One operation of a bank outside a steal; a foreign row is precharged for it (R339, R345). -/
def Bank.doOne (b : Bank) : Bank :=
  if b.owes then { b.doOp with open0 := OpenRow.kept b.open0, open1 := OpenRow.kept b.open1 } else b

/-- One operation of a bank in a taken recess: a refresh that fell due at debt 8 as the recess began is the one it performs, and a
neighbour refresh waits (R345). -/
def Bank.doRecess (b : Bank) : Bank :=
  if b.debt > 8 then { b.doRefresh with open0 := OpenRow.kept b.open0, open1 := OpenRow.kept b.open1 } else b.doOne

/-- Banks of a stack. -/
def inStack (st u : Nat) : Bool := stackOf u == st

/-- The delay set wanted by a stack's temperature is applied (R358). -/
def State.applyBand (s : State) (st : Nat) : State := s.modStack st (fun k => { k with band := k.bandWanted })

/-- Every lesson in progress in a quadrant is marked RECESS_STOLEN (R346). -/
def State.markStolen (s : State) (q : Nat) : State :=
  (List.range 4).foldl (fun s sl =>
    match (s.slot q sl).ctx with
    | some c => s.modCtx c (fun x => { x with lesson := x.lesson.map (fun l => { l with stolen := true }) })
    | none => s) s

/-- Steps 1 to 4 of a steal (R346): every bank of the stack that owes a refresh performs one operation; the delay set is
applied (R358). -/
def State.stealOps (s : State) (st : Nat) : State :=
  let s := s.modStack st (fun k => { k with steals := bump k.steals 1 })
  let q := quadOfStack st
  let two := s.banks.any (fun p => inStack st p.1 && decide (p.2.debt > 8) && !p.2.nbq.isEmpty)
  let s := s.accountHold q Sat.refresh 1 (42 * (s.quad q).beatLen + (if two then 8800 else 4400))
  let banks := s.banks.filter (fun p => inStack st p.1)
  let s := s.linkUnits q ((banks.filter (fun p => p.2.open0.isSome || p.2.open1.isSome)).map (·.1)) .prea 0
  let s := s.linkUnits q ((banks.filter (fun p => p.2.owes)).map (·.1)) .refresh 0
  let s := { s with banks := tmap Bank.init s.banks (inStack st) Bank.doOp }
  (s.applyBand st).markStolen (quadOfStack st)

/-- RD_THRESHOLD in force for an activate (R347). -/
def State.threshold (s : State) (bank : Nat) : Nat := (s.stack (stackOf bank)).rdThreshold.toNat

/-- The activation table on an activate (R347): the table, and whether a neighbour refresh of the row is queued. -/
def activate (thr : Nat) (t : List (BitVec 16 × BitVec 16)) (row : BitVec 16) : List (BitVec 16 × BitVec 16) × Bool :=
  if t.any (fun e => e.1 = row) then
    let hit := t.any (fun e => e.1 = row && decide (e.2.toNat + 1 ≥ thr))
    (t.map (fun e => if e.1 = row then (row, if hit then 0 else e.2 + 1) else e), hit)
  else if t.length < 64 then
    if thr ≤ 1 then (t ++ [(row, 0)], true) else (t ++ [(row, 1)], false)
  else ((t.filter (fun e => decide (e.2.toNat > 1))).map (fun e => (e.1, e.2 - 1)), false)

/-- A bank with a neighbour refresh of a row queued (R348). -/
def Bank.queueNeighbour (b : Bank) (row : BitVec 16) (deadline : Nat) : Bank := { b with nbq := b.nbq ++ [⟨row, deadline⟩] }

/-- An activate of a row by any source (R114, R347, R348): a neighbour refresh is due one tREFI after it is queued; a fifth neighbour refresh makes the controller steal, or refresh, first. -/
def State.activateWith (steal : State → State) (s : State) (bank : Nat) (row : BitVec 16) : State :=
  let r := activate (s.threshold bank) (s.bank bank).act row
  let s := s.modBank bank (fun b => { b with act := r.1 })
  if r.2 then
    let s := if (s.bank bank).nbq.length < 4 then s else steal s
    let s := s.modStack (stackOf bank) (fun k => { k with neighbours := bump k.neighbours 1 })
    s.modBank bank (fun b => b.queueNeighbour row (s.ring.timebase + s.refreshInterval (stackOf bank)))
  else s

/-- The open rows of a stack: bank and row. -/
def State.openRows (s : State) (st : Nat) : List (Nat × BitVec 16) :=
  (s.banks.filter (fun p => inStack st p.1)).flatMap (fun p =>
    [p.2.open0, p.2.open1].filterMap (fun r => r.map (fun x => (p.1, x.row))))

/-- A steal (R346): the operations, then step 5 opens the closed rows again, which the activation tables count (R347). -/
def State.stealN : Nat → State → Nat → State
  | 0, s, st => s.stealOps st
  | n + 1, s, st =>
    (s.openRows st).foldl (fun (s : State) p =>
      (s.activateWith (fun s => State.stealN n s st) p.1 p.2).linkBank p.1 .act p.2.toNat) (s.stealOps st)

/-- A stack's controller can send it nothing: it has failed (R557), its link is in recovery (R354), or its quadrant's stacks are in
self-refresh (R356). -/
def State.linkClosed (s : State) (st : Nat) : Bool :=
  (s.stack st).failed || (s.stack st).recovering || s.selfRefresh (quadOfStack st)

/-- A steal by a stack's controller. -/
def State.steal (s : State) (st : Nat) : State := if s.linkClosed st then s else State.stealN 4 s st

/-- A quadrant issues words: its selected context is ISSUING and not blocked. -/
def State.issuing (s : State) (q : Nat) : Bool :=
  match (s.quad q).sel with
  | some sl => (s.slot q sl).st == .issuing && (s.slot q sl).blocked.isNone
  | none => false

/-- An access to a bank is queued at its controller (R345). -/
def State.bankQueued (s : State) (bank : Nat) : Bool :=
  let k := s.stack (stackOf bank)
  k.slateQ.any (fun a => bankOfCol (a.addr / 32) == bank || bankOfCol ((a.addr / 32 + 1) % 2 ^ 36) == bank) ||
    k.writes.any (fun w => bankOfCol w.col == bank)

/-- A bank may refresh outside any beat: its quadrant issues no word and no access to it is queued (R345). -/
def State.idleBank (s : State) (bank : Nat) : Bool := !s.issuing (quadOf bank) && !s.bankQueued bank

/-- One refresh operation outside any beat, which may still run when the next word is ready; the stack's delay set is applied
(R345, R358). -/
def State.idleOp (s : State) (bank : Nat) : State :=
  let owes := (s.bank bank).owes
  let s := if owes then s.linkBank bank .refresh 0 else s
  ((s.modBank bank Bank.doOne).modQuad (quadOf bank) (fun x => { x with refreshing := x.refreshing || owes })).applyBand (stackOf bank)

/-- A refresh of a bank can wait no longer: with the quadrant issuing nothing the controller refreshes without stealing, else it
steals (R346). On a closed link it waits. -/
def State.relieve (s : State) (bank : Nat) : State :=
  if s.linkClosed (stackOf bank) then s
  else if s.idleBank bank then s.idleOp bank
  else s.steal (stackOf bank)

/-- An activate of a row; a failed stack sends none (R557). -/
def State.activateRow (s : State) (bank : Nat) (row : BitVec 16) : State :=
  if (s.stack (stackOf bank)).failed then s
  else s.activateWith (fun s => s.relieve bank) bank row

/-! ## Rows (R113, R114) -/

def Bank.half (b : Bank) (h : Nat) : Option OpenRow := if h = 0 then b.open0 else b.open1
def Bank.setHalf (b : Bank) (h : Nat) (r : Option OpenRow) : Bank :=
  if h = 0 then { b with open0 := r } else { b with open1 := r }

/-- ACT in one bank: the row opens in its half. -/
def State.openRow (s : State) (bank row : Nat) : State :=
  (s.activateRow bank (BitVec.ofNat 16 row)).modBank bank
    (fun b => b.setHalf (row % 2) (some ⟨BitVec.ofNat 16 row, true⟩))

/-- The controller precharges a half of a bank. -/
def State.closeRow (s : State) (bank half : Nat) : State := (s.linkBank bank .pre half).modBank bank (fun b => b.setHalf half none)

/-- The controller activates a row for a source other than the timetable. -/
def State.openForeign (s : State) (bank row : Nat) : State :=
  ((s.activateRow bank (BitVec.ofNat 16 row)).linkBank bank .act row).modBank bank
    (fun b => b.setHalf (row % 2) (some ⟨BitVec.ofNat 16 row, false⟩))

/-- A source other than the timetable reaches a row (R339): it opens the row when the half is precharged or holds another
foreign row. The callers see to it that no row of the timetable is in the way. -/
def State.touchRow (s : State) (bank row : Nat) : State :=
  match (s.bank bank).half (row % 2) with
  | some r => if r.row.toNat = row then s else (s.closeRow bank (row % 2)).openForeign bank row
  | none => s.openForeign bank row

/-- The stream entry of the word in issue, if the word takes its addresses from the stream (R107, R140). -/
def State.entry (s : State) (q : Nat) : Option Word32 :=
  match (s.quad q).word with
  | some i => i.entry
  | none => none

def entryOp (e : Word32) : Nat := fld e 31 30
def entryRow (e : Word32) : Nat := fld e 23 8
def entryCol (e : Word32) : Nat := fld e 7 2

/-- Row named by a ROW slot: the stream's, the generator's current position, or the immediate; none at an absent position
(R126). -/
def State.rowOf (s : State) (q sl : Nat) (w : Word32) : Option Nat :=
  match s.entry q with
  | some e => some (entryRow e)
  | none =>
    if Row.ags w then
      match s.genPlace q sl (Row.ag w) with
      | .at_ off => some (off / 2048 % 65536)
      | _ => none
    else some (Row.row w)

/-- A lost block at the position of a ROW or COL slot's generator is noted (R227). -/
def State.noteGen (s : State) (q sl : Nat) (ags : Bool) (g : Nat) : State :=
  if ags then s.notePlace q sl g (s.genPlace q sl g) else s

/-! ## Columns (R115) -/

/-- Where a COL slot goes: the half and column, or an absent position. -/
def State.colOf (s : State) (q sl : Nat) (w : Word32) : Option (Nat × Nat) :=
  match s.entry q with
  | some e => some (entryRow e % 2, entryCol e)
  | none =>
    if Col.ags w then
      match s.genPlace q sl (Col.ag w) with
      | .at_ off => some (off / 2048 % 2, off / 32 % 64)
      | _ => none
    else some (Col.half w, Col.column w)

/-- A stream entry asks for a row command in a bank: its own, or the reopening of a row that has been closed (R141, R142, R167). -/
def State.streamOpens (s : State) (q bank : Nat) : Bool :=
  match s.entry q with
  | none => false
  | some e => entryOp e == 1 || entryOp e == 2 || (OpenRow.kept ((s.bank bank).half (entryRow e % 2))).isNone

/-- The row command of a stream entry comes before its column command; a row that has been closed is reopened, also where the
half holds a foreign row meanwhile (R141, R142, R167). -/
def State.streamRow (s : State) (q bank : Nat) : State :=
  match s.entry q with
  | none => s
  | some e => if s.streamOpens q bank then s.openRow bank (entryRow e) else s

/-- The row command of a stream entry holds the column command and stretches the beat, a write's too; time of COLUMN (R142, R341).
DESIGN CHOICE (log 85): the controller carries it out in the word's own beat, where the 10 beats from an ACT to the first column command
(R130) are never met; an entry that needs no row command is not held. -/
def State.streamHold (s : State) (q : Nat) (us : List Nat) : State :=
  if us.any (fun u => s.streamOpens q u) then s.accountOpen q Sat.column else s

/-- A COL slot's generator steps once after the slot has taken its position (R126). -/
def State.stepCol (s : State) (q sl : Nat) (w : Word32) : State :=
  if Col.ags w && (s.entry q).isNone then s.modSlot q sl (fun x => x.stepGen (Col.ag w) 1) else s

/-- The column number a COL slot reaches in a bank: none when the half has no open row of the timetable's,
since the controller precharges a foreign row in time for the command (R114, R339). -/
def State.target (s : State) (bank half col : Nat) : Option Nat :=
  match (s.bank bank).half half with
  | some r => if r.timetable then some (colNo bank r.row.toNat col) else none
  | none => none

/-- The event record and, for an uncorrectable column, the stack's count, log and queue (R37, R39, R361). -/
def State.noteRead (s : State) (col : Nat) (d : Decoded) : State :=
  let u := bankOfCol col
  let s := if (s.stack (stackOf u)).failed then s
    else s.modUnit u (fun b => { b with ev := b.ev.note d (rowOfCol col) (col % 64) })
  if d = .uncorrectable then s.noteUe col else s

/-- Errors were located and corrected (R37). -/
def Decoded.wasCorrected : Decoded → Bool
  | .corrected _ => true
  | _ => false

/-! ## Masked writes (R56, R57) -/

/-- The bytes of a column with the selected ones replaced. -/
def mergeBytes (old data : Line) (mask : Word32) : List Byte :=
  (List.range 32).map (fun i => if mask.getLsbD i then byteAt data i else byteAt old i)

/-! ## The controller's decoding (R255, R360, R361, R375) -/

/-- A corrected column found by scrub or by R360 counts for its bank; beyond CE_BANK_LIMIT the bank goes on watch, and its
stack's RD_THRESHOLD halves, down to 256 (R361). -/
def State.noteCorrected (s : State) (col : Nat) : State :=
  let u := bankOfCol col
  let n := (s.bank u).ceNow + 1
  let s := s.modBank u (fun b => { b with ceNow := n })
  let s := { s with health := { s.health with ceTotal := bump s.health.ceTotal 1 } }
  if n > s.health.ceBankLimit.toNat ∧ (s.bank u).watch = false then
    (s.modBank u (fun b => { b with watch := true })).modStack (stackOf u)
      (fun k => { k with rdThreshold := BitVec.ofNat 16 (max 256 (k.rdThreshold.toNat / 2)) })
  else s

/-- A column of an open row read by the controller: a corrected column goes to the head of the scrub's queue, an uncorrectable one is
counted and logged (R255, R360, R361). -/
def State.readNow (s : State) (col : Nat) : Column × State :=
  let s := s.linkBank (bankOfCol col) .rd (col % 64)
  let d := (s.decodeCol col).1
  let c := s.column col
  let s := match d with
    | .corrected _ => (s.noteCorrected col).modStack (stackOf (bankOfCol col))
        (fun k => { k with scrubHead := col :: k.scrubHead.erase col })
    | .uncorrectable => s.noteUe col
    | _ => s
  (c, s)

/-- A column of an open row written whole by the controller. -/
def State.writeNow (s : State) (col : Nat) (data : List Byte) (poison : Bool) : State :=
  (s.linkBank (bankOfCol col) .wr (col % 64)).storeCol col data poison

/-- A read of the host: poisoned data where a column is poisoned; uncorrectable columns are logged (R364, R375). -/
def State.carryRead (s : State) (a : Access) : State :=
  let r := a.cols.foldl (fun (acc : List Column × State) c =>
    let x := acc.2.readNow c
    let s := if x.1.ue then x.2.addEvent 0 (32 * c) else x.2
    (acc.1 ++ [x.1], s)) ([], s)
  let data : BitVec 512 := BitVec.ofNat 512 (leNat (r.1.flatMap (fun c => bytesOf 32 c.data)))
  r.2.emit (.memRead a.tag data (r.1.any (·.poison)))

/-- A write of one column: whole, or read, merged and written (R375). -/
def State.carryColumn (s : State) (col : Nat) (data : Line) (en : Word32) (poison : Bool) : State :=
  if en = 0 then s
  else if en = BitVec.allOnes 32 then s.writeNow col (bytesOf 32 data) poison
  else
    let r := s.readNow col
    r.2.writeNow col (mergeBytes r.1.data data en) (poison || r.1.poison)

/-- Byte enables of a write for the access's column i. -/
def enablesOf (w : WriteData) (i : Nat) : Word32 := w.enables.extractLsb' (32 * i) 32

def State.carryWrite (s : State) (a : Access) (w : WriteData) : State :=
  let s := a.cols.zipIdx.foldl (fun (s : State) c =>
    s.carryColumn c.1 (w.data.extractLsb' (256 * c.2) 256) (enablesOf w c.2) w.poison) s
  s.emit (.memWrite a.tag)

/-- A pane fault: poisoned read data, or a discarded write, and the count (R374). -/
def State.paneFault (s : State) (tag : Nat) (wr : Option WriteData) : State :=
  let s := { s with host := { s.host with paneFaults := bump s.host.paneFaults 1 } }
  match wr with
  | none => s.emit (.memRead tag 0 true)
  | some _ => s.emit (.memWrite tag)

/-- An access of the host whose row is open, or one that is a pane fault (R374). -/
def State.carry (s : State) (a : Access) : State :=
  if a.fault then s.paneFault a.tag a.wr
  else match a.wr with
  | none => s.carryRead a
  | some w => s.carryWrite a w

/-- The access writes bytes of the column. -/
def Access.writes (a : Access) (col : Nat) : Bool :=
  match a.wr with
  | none => false
  | some w => a.cols.zipIdx.any (fun c => c.1 == col && enablesOf w c.2 != 0)

/-- Accesses queued at a column's stack, that no entry defers, up to the last one that writes it (R342). -/
def State.slateAhead (s : State) (col : Nat) : List Access :=
  let l := (s.stack (stackOf (bankOfCol col))).slateQ.filter (fun a => a.cols.contains col && !a.cols.any s.deferring)
  (l.reverse.dropWhile (fun a => !a.writes col)).reverse

/-- A masked write merges and writes its column (R56, R57); an uncorrectable old column is signalled (R40). -/
def State.mergeMasked (s : State) (q : Nat) (m : Masked) : State :=
  let s := s.modQuad q (fun x => { x with masked := x.masked.erase m })
  let s := if m.old.ue then (s.noteRead m.col .uncorrectable).markUnsettled m.ctx q m.origin
    else if m.corrected then s.noteRead m.col (.corrected 1) else s
  let s := s.writeNow m.col (mergeBytes m.old.data m.data m.mask) (m.poison || m.old.poison)
  if (s.stack (stackOf (bankOfCol m.col))).failed then s.afterDrain q else s.queueWrite m.col (some m.ctx) m.seq (some m.due)

/-- Writes of a timetable to a column complete: masked writes in flight merge during the hold, and queued writes drain (R58, R342). -/
def State.settleOwn (s : State) (col : Nat) : State :=
  let q := quadOf (bankOfCol col)
  let s := ((s.quad q).masked.filter (fun m => m.col = col)).foldl (fun (s : State) m => s.mergeMasked q m) s
  s.drainColumn col

/-- Before a read of a column every earlier write of it completes, the host's that are queued at its stack too (R58, R342). -/
def State.settleColumn (s : State) (col : Nat) : State :=
  let go := s.slateAhead col
  let s := (s.settleOwn col).modStack (stackOf (bankOfCol col)) (fun k => { k with slateQ := k.slateQ.filter (fun a => !go.contains a) })
  go.foldl (fun (s : State) a => (a.cols.foldl (fun (s : State) c => s.settleOwn c) s).carry a) s

/-- A write of the column is queued or in flight, so that a read of it is held (R58, R342). -/
def State.writeWaits (s : State) (col : Nat) : Bool :=
  (s.quad (quadOf (bankOfCol col))).masked.any (fun m => decide (m.col = col)) ||
    (s.stack (stackOf (bankOfCol col))).writes.any (fun w => decide (w.col = col)) || !(s.slateAhead col).isEmpty

/-- A column of a bank read by a COL slot, a masked write's read too: what it gets, and the state after the hold, whose stretch
is time of COLUMN (R58, R341). -/
def State.readColumn (s : State) (col : Nat) : (Column × Decoded) × State :=
  let s := if s.writeWaits col then s.accountOpen (quadOf (bankOfCol col)) Sat.column else s
  let s := s.settleColumn col
  ((s.column col, (s.decodeCol col).1), s)

/-! ## The four COL operations -/

/-- The reads of a COL slot in the selected units: each unit's column, and the state. -/
def State.readUnits (s : State) (q half col : Nat) (us : List Nat) : List (Nat × Column) × State :=
  us.foldl (fun acc u =>
    let s := acc.2.streamRow q u
    match s.target u half col with
    | none => (acc.1, s)
    | some c =>
      let r := s.readColumn c
      (acc.1 ++ [(u, r.1.1)], r.2.noteRead c r.1.2)) ([], s)

/-- Columns a COL read delivers: at an absent position a clean column of zero bytes to every selected unit (R224). -/
def State.colReads (s : State) (q sl : Nat) (sel : BitVec 4) (w : Word32) : List (Nat × Column) × State :=
  let us := s.units_ q sl sel
  match s.colOf q sl w with
  | none => (us.map (fun u => (u, Column.zero)), s.noteGen q sl (Col.ags w) (Col.ag w))
  | some p =>
    (s.streamHold q us).readUnits q p.1 p.2 us

/-- A full column write in one unit (R55, R57). Its column command goes out at the start of the next beat (R63, log 70). -/
def State.writeUnit (s : State) (q sl half col line u : Nat) : State :=
  let s := s.streamRow q u
  match s.target u half col with
  | none => s
  | some c =>
    let l := (s.view q sl u).line line
    let s := s.storeCol c (bytesOf 32 l.data) l.poison
    if (s.stack (stackOf u)).failed then s else s.queueWrite c (s.slot q sl).ctx (s.quad q).seq (some ((s.quad q).beat + 1))

/-- A masked column write in one unit: with every byte selected it is a full write (R56). -/
def State.writeMaskedUnit (s : State) (q sl half col line u : Nat) : State :=
  let m := (s.unit u).writeMask sl
  if m = BitVec.allOnes 32 then s.writeUnit q sl half col line u
  else
    let s := s.streamRow q u
    match s.target u half col with
    | none => s
    | some c =>
      let l := (s.view q sl u).line line
      let r := s.readColumn c
      let x := r.2.quad q
      let rec_ : Masked :=
        { due := x.beat + 8, ctx := ((r.2.slot q sl).ctx).getD 0, slot := sl, col := c, mask := m, data := l.data,
          poison := l.poison, old := r.1.1, corrected := r.1.2.wasCorrected,
          origin := r.2.origin q, seq := x.seq }
      r.2.setQuad q { x with masked := x.masked ++ [rec_] }

/-! ## A word's commands on the stack links (R351) -/

/-- A row command of a word to its units. -/
def State.linkCommand (s : State) (q sl : Nat) (sel : BitVec 4) (kind : LinkKind) (row : Nat) : State :=
  s.linkUnits q (s.units_ q sl sel) kind row

/-- What a COL slot is on the link. -/
def colKind (w : Word32) : LinkKind := if Col.op w = 3 ∨ Col.op w = 4 then .wr else .rd

/-- The row commands of a stream entry go before its column command: PRE with ROWOP 2, ACT to the banks where the row has to be opened
(R140, R141). -/
def State.entryCommand (s : State) (q : Nat) (us : List Nat) (e : Word32) : State :=
  let s := if entryOp e = 2 then s.linkUnits q us .pre (entryRow e) else s
  s.linkUnits q (us.filter (fun u => s.streamOpens q u)) .act (entryRow e)

/-- A column command goes over the link at a present position only, and to the banks that have a row open for it (R114, R224). A
stream entry's row command goes before it and opens the row (R141). -/
def State.colCommand (s : State) (q sl : Nat) (sel : BitVec 4) (w : Word32) : State :=
  let us := s.units_ q sl sel
  match s.colOf q sl w, s.entry q with
  | none, _ => s
  | some p, none => s.linkUnits q (us.filter (fun u => (s.target u p.1 p.2).isSome)) (colKind w) p.2
  | some p, some e => (s.entryCommand q us e).linkUnits q us (colKind w) p.2

/-! ## Meanings -/

/-- ACT (R113, R114, R126, R347): the row opens in its half of every selected bank. -/
def execAct (q sl : Fin 4) (sel : BitVec 4) (w : Word32) (s : State) : Host.Outcome State Fault Refusal :=
  .next (match s.rowOf q sl w with
    | some r => (s.units_ q sl sel).foldl (fun (s : State) u => s.openRow u r) (s.linkCommand q sl sel .act r)
    | none => s.noteGen q sl (Row.ags w) (Row.ag w))

/-- PRE (R113, R114): the half that the row names is precharged. -/
def execPre (q sl : Fin 4) (sel : BitVec 4) (w : Word32) (s : State) : Host.Outcome State Fault Refusal :=
  .next (match s.rowOf q sl w with
    | some r =>
      (s.units_ q sl sel).foldl (fun (s : State) u => s.modBank u (fun b => b.setHalf (r % 2) none)) (s.linkCommand q sl sel .pre r)
    | none => s.noteGen q sl (Row.ags w) (Row.ag w))

/-- PREA (R113): both halves are precharged; at an absent position no row command is made (R126). -/
def execPrea (q sl : Fin 4) (sel : BitVec 4) (w : Word32) (s : State) : Host.Outcome State Fault Refusal :=
  .next (match s.rowOf q sl w with
    | some r =>
      (s.units_ q sl sel).foldl (fun (s : State) u => s.modBank u (fun b => (b.setHalf 0 none).setHalf 1 none))
        (s.linkCommand q sl sel .prea r)
    | none => s.noteGen q sl (Row.ags w) (Row.ag w))

/-- RD (R41, R59, R114, R115): the column is in latch entry LE from beat t + 8. LE 3 is reserved and delivers nothing. -/
def execRd (q sl : Fin 4) (sel : BitVec 4) (w : Word32) (s : State) : Host.Outcome State Fault Refusal :=
  .next (let s := s.colCommand q sl sel w
    let r := s.colReads q sl sel w
    let ws := if Col.le w = 3 then [] else r.1.map (fun x => DueWrite.latch x.1 (Col.le w) x.2)
    (r.2.stepCol q sl w).due q sl 8 6 ws)

/-- RDS (R41, R59, R118): the column is in the slot's scale latch from beat t + 8, when the scale pointer becomes 0. -/
def execRds (q sl : Fin 4) (sel : BitVec 4) (w : Word32) (s : State) : Host.Outcome State Fault Refusal :=
  .next (let s := s.colCommand q sl sel w
    let r := s.colReads q sl sel w
    let ws := r.1.map (fun x => DueWrite.scale x.1 sl x.2)
    (r.2.stepCol q sl w).due q sl 8 6 (if ws.isEmpty then [] else ws ++ [.pointer sl]))

/-- A column write's visibility to later reads is a result in flight with nothing left to write (R59, R164, R173). -/
def State.writeDue (s : State) (q sl lat : Nat) : State := s.due q sl lat 6 []

/-- WR (R55, R57, R59, R115): each selected unit writes the named line to the column. -/
def execWr (q sl : Fin 4) (sel : BitVec 4) (w : Word32) (s : State) : Host.Outcome State Fault Refusal :=
  .next (let s := s.colCommand q sl sel w
    let s' := match s.colOf q sl w with
      | some p =>
        let us := s.units_ q sl sel
        us.foldl (fun (s : State) u => s.writeUnit q sl p.1 p.2 (Col.line w) u) (s.streamHold q us)
      | none => s.noteGen q sl (Col.ags w) (Col.ag w)
    (s'.stepCol q sl w).writeDue q sl 6)

/-- WRM (R56, R57, R59, R115): a masked write; it merges at beat t + 8. With every byte selected in every unit it is a full write.
DESIGN CHOICE (log 85): a COL command to the bank in beat t + 8, whose column path the merge occupies, is carried out too. -/
def execWrm (q sl : Fin 4) (sel : BitVec 4) (w : Word32) (s : State) : Host.Outcome State Fault Refusal :=
  .next (let us := s.units_ q sl sel
    let lat := if us.all (fun u => (s.unit u).writeMask sl = BitVec.allOnes 32) then 6 else 14
    let s := s.colCommand q sl sel w
    let s' := match s.colOf q sl w with
      | some p =>
        us.foldl (fun (s : State) u => s.writeMaskedUnit q sl p.1 p.2 (Col.line w) u) (s.streamHold q us)
      | none => s.noteGen q sl (Col.ags w) (Col.ag w)
    (s'.stepCol q sl w).writeDue q sl lat)

/-- MASKED_WRITE_MERGE (R56, R57): every masked write whose beat t + 8 has come merges and writes. -/
def execMaskedWriteMerge (q : Fin 4) (s : State) : Host.Outcome State Fault Refusal :=
  .next (((s.quad q).masked.filter (fun m => m.due ≤ (s.quad q).beat)).foldl (fun (s : State) m => s.mergeMasked q m) s)

/-- The oldest queued write of a stack may be acknowledged (R342): its link works, and the alert window of 4 beats of its command has
passed; with its quadrant issuing no word time passes without beats. -/
def State.mayDrain (s : State) (st : Nat) : Bool :=
  match (s.stack st).writes with
  | [] => false
  | w :: _ =>
    let q := quadOfStack st
    !(s.stack st).recovering && (!s.issuing q || (match w.goes with
      | some b => decide (b + 4 ≤ (s.quad q).beat)
      | none => true))

/-- COLUMN_WRITE_DRAIN (R342): the oldest queued column write of a stack is in the array and acknowledged; with none queued, or none
whose alert window has passed, nothing happens. -/
def execColumnWriteDrain (st : Fin 20) (s : State) : Host.Outcome State Fault Refusal :=
  .next (if s.mayDrain st then s.drainOne st else s)

end Sys2Proof.Machine
end

