-- ==== Sys2Proof/Machine/Mac.lean ====
section
/-! DEFINITION. The MAC slot (R42 to R49, R70, R79 to R83, R116 to R118). -/

namespace Sys2Proof.Machine

/-- Weights of a MAC (R45). -/
def macWeights (wf : Nat) : Nat := [64, 128, 128, 32, 32, 32, 16].getD wf 0
/-- Weight blocks of a MAC: MX blocks of 32, or one block of 16 BF16 weights (R81). -/
def macBlocks (wf : Nat) : Nat := if wf = 6 then 1 else macWeights wf / 32
/-- Elements of a block. -/
def macBlockLen (wf : Nat) : Nat := if wf = 6 then 16 else 32
/-- Latch entries a MAC takes: three for MXFP6 (R116). -/
def macEntries (wf le : Nat) : List Nat := if wf = 1 ∨ wf = 2 then [0, 1, 2] else [le]
/-- Bytes per activation element. -/
def actBytes (af : Nat) : Nat := if af = 2 then 2 else 1
/-- Activation lines n (R117). -/
def macLines (wf af t : Nat) : Nat := (t * macWeights wf * actBytes af + 31) / 32
/-- Digit products per product (R44). -/
def macDigits (wf af : Nat) : Nat := (if wf ≥ 5 then 2 else 1) * (if af = 2 then 2 else 1)
/-- Slice occupancy in beats (R45). -/
def macOccupancy (wf af t : Nat) : Nat := (macWeights wf * ((t * macDigits wf af + 1) / 2) + 127) / 128

/-- A MAC slot with a reserved value does nothing (R129). -/
def Mac.legal (w : Word32) : Bool := decide (Mac.wfmt w ≤ 6 ∧ Mac.afmt w ≤ 2 ∧ Mac.le w ≤ 2)

/-- Element i of width b of packed data (R73). -/
def elemAt (x b i : Nat) : Nat := x / 2 ^ (b * i) % 2 ^ b

/-- The packed data of consecutive 32-byte lines as one number. -/
def packLines (ls : List Line) : Nat := leNat (ls.flatMap (fun l => bytesOf 32 l))

/-- Contribution of token t, block b in one unit (R46, R79 to R83): weights and activations packed, scale bytes. -/
def macBlock (wf af : Nat) (ws acts : Nat) (t b ew ea : Nat) : Word32 :=
  let n := macBlockLen wf
  let f := wfmtOf wf
  let g := afmtOf af
  let fb := f.bits
  let ab := 8 * actBytes af
  let w := (List.range n).map (fun i => decodeElem f (elemAt ws fb (b * n + i)))
  let a := (List.range n).map (fun i => decodeElem g (elemAt acts ab (t * macWeights wf + b * n + i)))
  blockValue w a ew ea

/-- FP32 sum of block sums. R47 leaves the order open, and says nothing of a rounding between: DESIGN CHOICE (log 74): the sums
are added one after another in a free order, each sum rounded to FP32 to nearest-even, and never pairwise. -/
def freeSum (base : Nat) (xs : List Word32) : Word32 :=
  match freeOrder base xs with
  | [] => 0
  | y :: ys => ys.foldl fadd y

/-- What a MAC reads of one unit: weights, activations, weight scales from the pointer on, activation scales, poison, and an
uncorrectable column among its operands. -/
structure MacIn where
  ws : Nat
  acts : Nat
  scales : Line
  ascales : Line
  poison : Bool
  ue : Bool
  deriving DecidableEq, Repr

def View.macIn (v : View) (w : Word32) : MacIn :=
  let wf := Mac.wfmt w
  let af := Mac.afmt w
  let n := macLines wf af (Mac.tokens w)
  let es := (macEntries wf (Mac.le w)).map (fun e => tget Column.zero v.bu.latch e)
  let ls := (List.range n).map (fun i => v.line (Mac.vline w + i))
  let sc := tget Column.zero v.bu.scale v.slot
  let al := if af = 2 then VecLine.zero else v.line (Mac.vline w + n)
  { ws := packLines (es.map (·.data)), acts := packLines (ls.map (·.data)), scales := sc.data, ascales := al.data,
    poison := es.any (·.poison) || ls.any (·.poison) || al.poison || (decide (wf ≠ 6) && sc.poison),
    ue := es.any (·.ue) || (decide (wf ≠ 6) && sc.ue) }

/-- E8M0 bytes of a token's block (R81, R117, R118). -/
def MacIn.weightScale (m : MacIn) (wf ptr b : Nat) : Nat :=
  if wf = 6 then 127 else (byteAt m.scales ((ptr + b) % 32)).toNat
def MacIn.actScale (m : MacIn) (wf af t b : Nat) : Nat :=
  if af = 2 then 127 else (byteAt m.ascales (t * macBlocks wf + b)).toNat

/-- Block sums of token t. -/
def MacIn.sums (m : MacIn) (w : Word32) (ptr t : Nat) : List Word32 :=
  let wf := Mac.wfmt w
  let af := Mac.afmt w
  (List.range (macBlocks wf)).map
    (fun b => macBlock wf af m.ws m.acts t b (m.weightScale wf ptr b) (m.actScale wf af t b))

/-- What a MAC adds to, or writes over, its entries in one unit: entry as named, value (R116 assignment codes, R47). -/
def MacIn.results (m : MacIn) (w : Word32) (ptr base : Nat) : List (Nat × Word32) :=
  let bs := macBlocks (Mac.wfmt w)
  (List.range (Mac.tokens w)).flatMap (fun t =>
    let ss := m.sums w ptr t
    if Mac.asg w = 1 then ss.zipIdx.map (fun x => (Mac.acc w + t * bs + x.2, x.1))
    else [(Mac.acc w + t, freeSum (base + 8 * t) ss)])

/-- The writes of a MAC in one unit (R46, R48, R70). -/
def View.macWrites (v : View) (w : Word32) (m : MacIn) (ptr base : Nat) : List DueWrite :=
  (m.results w ptr base).map (fun x =>
    if Mac.ovw w then .accSet v.u (v.accIx x.1) x.2 m.poison else .accAdd v.u (v.accIx x.1) x.2 m.poison)

/-- MAC (R46): every operand is taken in the issue beat (R42); the result is due n + 3 beats later (R59); the scale pointer
advances by the weight blocks (R118); an uncorrectable column among the operands is signalled (R40, R174). -/
def execMac (q sl : Fin 4) (sel : BitVec 4) (w : Word32) (s : State) : Host.Outcome State Fault Refusal :=
  .next (if Mac.legal w = false then s
    else
      let us := s.units_ q sl sel
      let ptr := (s.slot q sl).scalePtr.toNat
      let r := s.reserve (64 * us.length)
      let ms := us.map (fun u => (s.view q sl u, (s.view q sl u).macIn w))
      let ws := ms.zipIdx.flatMap (fun x => x.1.1.macWrites w x.1.2 ptr (r.1 + 64 * x.2))
      let wf := Mac.wfmt w
      let s := if ms.any (fun x => x.2.ue) then r.2.unsettleSlot q sl (r.2.origin q) else r.2
      let s := if wf = 6 then s
        else s.modSlot q sl (fun x => { x with scalePtr := x.scalePtr + BitVec.ofNat 5 (macBlocks wf) })
      s.due q sl (macOccupancy wf (Mac.afmt w) (Mac.tokens w) + 3) 2 ws)

end Sys2Proof.Machine
end

