-- ==== Sys2Proof/Machine/Vec.lean ====
section
/-! DEFINITION. The VEC and XFER slots (R53, R54, R70, R84 to R89, R119 to R122, R259, R260, R391). -/

namespace Sys2Proof.Machine

/-- A VEC operation over the selected units: each unit's writes, due after its latency (R53, R59). DESIGN CHOICE (log 84): one issued while
a CVT.MX occupies the vector unit for its 4 beats is carried out beside it, each with its own latency. -/
def State.vec (s : State) (q sl : Nat) (sel : BitVec 4) (lat : Nat) (f : View → List DueWrite) : State :=
  s.due q sl lat 1 ((s.units_ q sl sel).flatMap (fun u => f (s.view q sl u)))

/-- The generators of the selected units give n random numbers each to an operation with stochastic rounding (R54, R88). -/
def State.giveRandom (s : State) (q sl : Nat) (sel : BitVec 4) (sr : Bool) (n : Nat) : State :=
  if sr then (s.units_ q sl sel).foldl (fun (s : State) u => s.modUnit u (fun b => b.give sl n)) s else s

/-- Lane-wise D <- op(D, B'); a poisoned source lane poisons its result lane (R70, R119, R120). -/
def View.binary (v : View) (w : Word32) (op : Word32 → Word32 → Word32) : List DueWrite :=
  let ds := v.lanes (Vec.dk w) (Vec.d w)
  let bs := v.lanes (Vec.bk w) (Vec.b w)
  v.write (Vec.dk w) (Vec.d w) (List.zipWith (fun d b => (op d.1 b.1, d.2 || b.2)) ds bs)

/-- Lane-wise D <- op(B'). -/
def View.unary (v : View) (w : Word32) (op : Word32 → Word32) : List DueWrite :=
  v.write (Vec.dk w) (Vec.d w) ((v.lanes (Vec.bk w) (Vec.b w)).map (fun b => (op b.1, b.2)))

/-- A 16-bit random number of the slot's generator for lane i (R54, R88), if stochastic rounding is selected. -/
def View.rand (v : View) (sr : Bool) (i : Nat) : Option Nat := if sr then some (v.random16 i) else none

/-- An FP32 operand with a subnormal taken as a zero of the same sign (R75). -/
def flush32 (x : Word32) : Word32 := if fld x 30 23 = 0 then x &&& 0x80000000#32 else x

/-- An FP32 lane narrowed to a format: its code, and whether the line is poisoned (R75, R85, R86, R88). -/
def narrow (f : Fmt) (rand : Option Nat) (scale : Nat) (x : Word32) : Nat × Bool :=
  match f with
  | .fp32 => ((flush32 x).toNat, false)
  | .bf16 => ((encode16 rand (decode32 x)).toNat, false)
  | f => quantise f rand scale (decode32 x)

/-- An element of a line widened to FP32, scaled for the MX formats; a scale byte of 0xFF is NaN (R72, R120). DESIGN CHOICE (log 86): a value
above FP32's range widens to an infinity, a NaN element to the canonical NaN, which R85 does not say. -/
def widen (f : Fmt) (scale : Nat) (l : Line) (i : Nat) : Word32 :=
  let code := elemAt l.toNat f.bits i
  match f with
  | .fp32 => BitVec.ofNat 32 code
  | .bf16 => encode32 (decode16 (BitVec.ofNat 16 code))
  | f => if scale = 255 then canonNan else encode32 (vscale (decodeElem f code) ((scale : Int) - 127))

/-- Elements of a format must lie within one line (R120). -/
def inLine (f : Fmt) (eoff n : Nat) : Bool := decide ((eoff + n) * f.bits ≤ 256)

/-- What an operation writes, nothing with a reserved MOD (R120, R129). -/
def allowed (p : Prop) [Decidable p] (ws : List DueWrite) : List DueWrite := if p then ws else []

/-- ADD (R84, R120). -/
def execAdd (q sl : Fin 4) (sel : BitVec 4) (w _lit : Word32) (s : State) : Host.Outcome State Fault Refusal :=
  .next (s.vec q sl sel 2 (fun v => allowed (Vec.mod w < 3) (v.binary w (fun d b => fadd d (modified (Vec.mod w) b)))))

/-- MUL (R84, R120). -/
def execMul (q sl : Fin 4) (sel : BitVec 4) (w _lit : Word32) (s : State) : Host.Outcome State Fault Refusal :=
  .next (s.vec q sl sel 2 (fun v => allowed (Vec.mod w < 3) (v.binary w (fun d b => fmul d (modified (Vec.mod w) b)))))

/-- MAX (R84, R120). -/
def execMax (q sl : Fin 4) (sel : BitVec 4) (w _lit : Word32) (s : State) : Host.Outcome State Fault Refusal :=
  .next (s.vec q sl sel 2 (fun v => allowed (Vec.mod w < 3) (v.binary w (fun d b => fmax d (modified (Vec.mod w) b)))))

/-- The mask byte of a CMP: bit i for lane i (R53, R84). -/
def View.cmpMask (v : View) (w : Word32) : Nat × Bool :=
  let xs := List.zip (v.lanes (Vec.dk w) (Vec.d w)) (v.lanes (Vec.bk w) (Vec.b w))
  (xs.zipIdx.foldl (fun n x => if fcmp (Vec.mod w) x.1.1.1 x.1.2.1 then n + 2 ^ x.2 else n) 0,
    xs.any (fun x => x.1.2 || x.2.2))

/-- CMP (R84, R120), condition 3 being reserved: the lane mask goes to byte BYTE of line LINE; clean data leaves the line's mark (R70). -/
def execCmp (q sl : Fin 4) (sel : BitVec 4) (w lit : Word32) (s : State) : Host.Outcome State Fault Refusal :=
  .next (s.vec q sl sel 2 (fun v =>
    let m := v.cmpMask w
    let b := Lit.byte lit
    allowed (Vec.mod w < 3)
      [.line v.u (v.lineIx (Lit.line lit)) (maskAt (8 * b) 8) (dataAt (8 * b) 8 m.1) (if m.2 then some true else none)]))

/-- SCALE (R84, R120). -/
def execScale (q sl : Fin 4) (sel : BitVec 4) (w _lit : Word32) (s : State) : Host.Outcome State Fault Refusal :=
  .next (s.vec q sl sel 2 (fun v => allowed (Vec.mod w < 2) (v.binary w (fscale (Vec.mod w == 1)))))

/-- EXP2 (R89, R120). -/
def execExp2 (q sl : Fin 4) (sel : BitVec 4) (w _lit : Word32) (s : State) : Host.Outcome State Fault Refusal :=
  .next (s.vec q sl sel 3 (fun v => allowed (Vec.mod w < 3) (v.unary w (fun b => fexp2 (modified (Vec.mod w) b)))))

/-- CVT (R85, R120): 8 elements of line B, widened; with FMT FP32 a move. The whole destination is poisoned by a poisoned
source (R70). A reserved format, or elements beyond the line, give nothing (R129). -/
def View.cvt (v : View) (w lit : Word32) : List DueWrite :=
  let f := vfmtOf (Vec.fmt w)
  if Vec.fmt w > 7 then []
  else if f = .fp32 then
    let xs := v.lanes (Vec.bk w) (Vec.b w)
    let p := xs.any (·.2)
    v.write (Vec.dk w) (Vec.d w) (xs.map (fun x => (x.1, p)))
  else if inLine f (Lit.eoff lit) 8 = false then []
  else
    let l := v.line (Vec.b w)
    v.write (Vec.dk w) (Vec.d w)
      ((List.range 8).map (fun i => (widen f (Lit.scale8 lit) l.data (Lit.eoff lit + i), l.poison)))

def execCvt (q sl : Fin 4) (sel : BitVec 4) (w lit : Word32) (s : State) : Host.Outcome State Fault Refusal :=
  .next (s.vec q sl sel (if Vec.sr w then 3 else 2) (fun v => v.cvt w lit))

/-- Codes placed as elements of a line from element e on: mask, data (R53, R73). -/
def placeCodes (b e : Nat) (codes : List Nat) : Line × Line :=
  (maskAt (b * e) (b * codes.length), dataAt (b * e) (b * codes.length)
    (codes.zipIdx.foldl (fun n x => n + x.1 % 2 ^ b * 2 ^ (b * x.2)) 0))

/-- PACK (R85, R86, R120): 8 elements of line D from B; every other bit of D stays (R53). Clean data leaves the mark, but for a
PACK that writes the whole line (R70). -/
def View.pack (v : View) (w lit : Word32) : List DueWrite :=
  let f := vfmtOf (Vec.fmt w)
  if Vec.fmt w > 7 ∨ inLine f (Lit.eoff lit) 8 = false then []
  else
    let xs := v.lanes (Vec.bk w) (Vec.b w)
    let cs := xs.zipIdx.map (fun x => narrow f (v.rand (Vec.sr w) x.2) (Lit.scale8 lit) x.1.1)
    let p := xs.any (·.2) || cs.any (·.2)
    let md := placeCodes f.bits (Lit.eoff lit) (cs.map (·.1))
    [.line v.u (v.lineIx (Vec.d w)) md.1 md.2
      (if p then some true else if md.1 = BitVec.allOnes 256 then some false else none)]

def execPack (q sl : Fin 4) (sel : BitVec 4) (w lit : Word32) (s : State) : Host.Outcome State Fault Refusal :=
  .next (s.vec q sl sel (if Vec.sr w then 3 else 2) (fun v => v.pack w lit) |>.giveRandom q sl sel (Vec.sr w) 8)

/-- emax of the MX formats (R87). -/
def fmtEmax (f : Fmt) : Int :=
  match f with
  | .e2m1 => 2
  | .e2m3 => 2
  | .e3m2 => 4
  | .e4m3 => 8
  | .e5m2 => 15
  | _ => 0

/-- Exponent of the leading bit of a finite value, none for zero. -/
def valTop (x : Val) : Option Int :=
  match x with
  | .fin _ m e => if m = 0 then none else some (topExp m e)
  | _ => none

/-- The block scale byte of CVT.MX (R87): none when every input is zero. -/
def blockScale (f : Fmt) (xs : List Val) : Option Nat :=
  if xs.any (fun x => match x with
    | .fin _ _ _ => false
    | _ => true) then some 255
  else
    match xs.filterMap valTop with
    | [] => none
    | y :: ys => some (max (ys.foldl max y - fmtEmax f) (-127) + 127).toNat

/-- CVTMX (R87, R88, R120): rows B to B + 3 to one MX block of FMT, elements to line D at EOFF, scale to byte BYTE of LINE.
DESIGN CHOICE (log 73), where the spec is silent: a B that is no multiple of 4 is rounded down to one, and a scale byte that
lies within the block's own elements is written last. -/
def View.cvtmx (v : View) (w lit : Word32) : List DueWrite :=
  let f := vfmtOf (Vec.fmt w)
  if Vec.fmt w > 7 ∨ f.isMx = false ∨ inLine f (Lit.eoff lit) 32 = false then []
  else
    let xs := (List.range 4).flatMap (fun i => v.lanes 0 (Vec.b w / 4 * 4 + i))
    let sc := blockScale f (xs.map (fun x => decode32 x.1))
    let cs := xs.zipIdx.map (fun x => match sc with
      | none => (0, false)
      | some e => narrow f (v.rand (Vec.sr w) x.2) e x.1.1)
    let md := placeCodes f.bits (Lit.eoff lit) (cs.map (·.1))
    let p := xs.any (·.2) || cs.any (·.2)
    let b := Lit.byte lit
    [.line v.u (v.lineIx (Vec.d w)) md.1 md.2
        (if p then some true else if md.1 = BitVec.allOnes 256 then some false else none),
      .line v.u (v.lineIx (Lit.line lit)) (maskAt (8 * b) 8) (dataAt (8 * b) 8 (sc.getD 0)) none]

def execCvtmx (q sl : Fin 4) (sel : BitVec 4) (w lit : Word32) (s : State) : Host.Outcome State Fault Refusal :=
  .next (s.vec q sl sel (if Vec.sr w then 7 else 6) (fun v => v.cvtmx w lit) |>.giveRandom q sl sel (Vec.sr w) 32)

/-! ## OUT (R259, R260, R263) -/

/-- Lane-wise FP32 sum of the rows that dies drive at one position, in a free order (R259, R90). -/
def dieSum (base : Nat) (rows : List (List Word32)) : List Word32 :=
  match freeOrder base rows with
  | [] => []
  | r :: rs => rs.foldl (fun a b => List.zipWith fadd a b) r

/-- The row of one stack and bank position: the sum over the selected dies, poisoned if any addend is. -/
def State.dieRow (s : State) (q sl : Nat) (us : List Nat) (row base st bank : Nat) : Option OutRow :=
  let here := us.filter (fun u => stackOf u = 5 * q + st ∧ bankOf u = bank)
  if here.isEmpty then none
  else
    let ls := here.map (fun u => (s.view q sl u).lanes 0 row)
    some { stack := st, bank := bank, lanes := dieSum base (ls.map (fun l => l.map (·.1))),
           poison := ls.any (fun l => l.any (·.2)) }

/-- Key of a stream's count of OUT issues in a quadrant, and of the issues taken by launches (R260). -/
def outKey (q tag : Nat) : Nat := q * 512 + tag
def takenKey (q tag : Nat) : Nat := (4 + q) * 512 + tag

/-- OUT issues whose rows the merge engine holds, or will hold at the next beat (R263). -/
def Quad.outCount (x : Quad) : Nat :=
  x.outs.length + (x.dues.filter (fun d => d.writes.any (fun w => match w with
    | .out _ _ => true
    | _ => false))).length

/-- OUT (R53, R259, R260): the rows leave at the start of beat t + 1 and enter the quadrant's merge engine under the next issue
number of the stream. While the engine holds rows of 64 issues the OUT is held and nothing happens (R263). -/
def execOut (q sl : Fin 4) (sel : BitVec 4) (w _lit : Word32) (s : State) : Host.Outcome State Fault Refusal :=
  .next (match (s.slot q sl).ctx with
    | none => s
    | some c =>
      if (s.quad q).outCount ≥ 64 then s
      else
        let us := s.units_ q sl sel
        let r := s.reserve (16 * 160)
        let keys := (List.range 160).map (fun i => (i / 32, i % 32))
        let rows := keys.filterMap
          (fun k => s.dieRow q sl us (Vec.b w) (r.1 + 16 * (k.1 * 32 + k.2)) k.1 k.2)
        let key := outKey q (Vec.d w)
        let n := tget 0 (s.ctx c).streams key
        let s := r.2.modCtx c (fun x => { x with streams := tset 0 x.streams key (n + 1) })
        s.due q sl 1 1 [.out { ctx := c, tag := Vec.d w, number := n, rows := rows } us])

/-- MASK (R53, R120): the write mask from bytes 0 to 3 of line B, or from LIT. -/
def execMask (q sl : Fin 4) (sel : BitVec 4) (w lit : Word32) (s : State) : Host.Outcome State Fault Refusal :=
  .next (s.vec q sl sel 1 (fun v =>
    [.wmask v.u v.slot (if Vec.bk w = 1 then laneOf (v.line (Vec.b w)).data 0 else lit)]))

/-! ## XFER (R122, R391) -/

/-- Granules of the staging allocations of a context, in rising order (R194). -/
def State.stageGranules (s : State) (c : Nat) : List Nat :=
  (List.range 768).filter (fun g => (s.ctx c).allocs.any (fun a => a.2.live && a.2.staging && decide (a.2.lo ≤ g ∧ g ≤ a.2.hi)))

/-- Line n of a context's staging allocation, as a line of the quadrant's staging SRAM: a granule holds 2,048 lines (R125, log 19). -/
def State.stageLine (s : State) (c n : Nat) : Option Nat := ((s.stageGranules c)[n / 2048]?).map (fun g => 2048 * g + n % 2048)

/-- Line i of a source: the context's staging allocation from the transfer base, or the command payload; beyond the allocation the
spec states no content: a free value. -/
def State.xferLine (s : State) (q sl : Nat) (w : Word32) (base i : Nat) : VecLine :=
  let x := s.slot q sl
  if Xfer.src w = 1 then
    match x.ctx.bind (fun c => (s.ctx c).lesson) with
    | some l => { data := BitVec.ofNat 256 (leNat ((l.payload.drop (32 * (Xfer.off w + i))).take 32)), poison := false }
    | none => VecLine.zero
  else
    let b := if Xfer.src w = 0 then x.xbaseStage.toNat else x.xbaseMerge.toNat
    match x.ctx.bind (fun c => s.stageLine c (32 * b + Xfer.off w + i)) with
    | some line => { data := BitVec.ofNat 256 (leNat (s.stageBytes q (32 * line) 32)), poison := s.stageMark q line }
    | none => { data := BitVec.ofNat 256 (Config.freeNat (base + i)), poison := false }

/-- XFER (R59, R122): the lines are in the vector files of the selected units of the named dies from beat t + 2. A reserved
source or die select does nothing (R129). -/
def execXfer (q sl : Fin 4) (sel : BitVec 4) (w : Word32) (s : State) : Host.Outcome State Fault Refusal :=
  .next (if Xfer.src w = 3 ∨ Xfer.dsel w > 16 then s
    else
      let us := (s.units_ q sl sel).filter (fun u => Xfer.dsel w = 16 ∨ dieOf u = Xfer.dsel w)
      let r := s.reserve 8
      let ls := (List.range (Xfer.n w)).map (fun i => (i, s.xferLine q sl w r.1 i))
      r.2.due q sl 2 5 (us.flatMap (fun u =>
        let v := s.view q sl u
        ls.map (fun l => .line u (v.lineIx (Xfer.line w + l.1)) (BitVec.allOnes 256) l.2.data (some l.2.poison)))))

end Sys2Proof.Machine
end

