-- ==== Sys2Proof/Machine/Issue.lean ====
section
/-! DEFINITION. Issue: beats, results becoming visible, late events, the hazard recorder, repetition, recesses
(R59 to R70, R105 to R112, R131, R132, R140 to R146, R167 to R169, R172, R177 to R180). -/

namespace Sys2Proof.Machine

/-! ## Results becoming visible (R53, R59 to R61) -/

/-- Order of results of one beat: by issue beat, and within a word the VEC result last (R61). -/
def Due.before (a b : Due) : Bool :=
  if a.issued ≠ b.issued then decide (a.issued < b.issued) else decide (b.writer = 1 ∧ a.writer ≠ 1)

def insertDue (d : Due) : List Due → List Due
  | [] => [d]
  | x :: xs => if d.before x then d :: x :: xs else x :: insertDue d xs
def sortDues (ds : List Due) : List Due := ds.foldl (fun acc d => insertDue d acc) []

/-- One write of a result; an accumulate adds to the value its entry had before this beat's results (R60). -/
def State.applyWrite (pre s : State) (q sl : Nat) (w : DueWrite) : State :=
  match w with
  | .latch u e c => s.modUnit u (fun b => { b with latch := tset Column.zero b.latch e c })
  | .scale u x l => s.modUnit u (fun b => { b with scale := tset Column.zero b.scale x l })
  | .accAdd u e v p =>
    let old := (pre.unit u).accAt (pre.slot q sl).epoch u e
    s.modUnit u (fun b => { b with acc := tset none b.acc e (some ⟨fadd old.val v, old.poison || p⟩) })
  | .accSet u e v p => s.modUnit u (fun b => { b with acc := tset none b.acc e (some ⟨v, p⟩) })
  | .line u l m d mark =>
    let old := (s.unit u).lineAt (s.slot q sl).epoch u l
    let x : VecLine := { data := (old.data &&& ~~~m) ||| (d &&& m), poison := mark.getD old.poison }
    s.modUnit u (fun b => { b with vec := tset none b.vec l (some x) })
  | .wmask u x m => s.modUnit u (fun b => { b with wmask := tset (BitVec.allOnes 32) b.wmask x m })
  | .pointer x => s.modSlot q x (fun y => { y with scalePtr := 0 })
  | .out i _ => s.modQuad q (fun x => { x with outs := x.outs ++ [i] })

/-- The results due in one beat (R61); those of a context in reset are discarded (R176). -/
def State.applyBeat (s : State) (q : Nat) (ds : List Due) : State :=
  (sortDues (ds.filter (fun d => (s.slot q d.slot).st != .resetting))).foldl (fun s' d => d.writes.foldl (fun s'' w => State.applyWrite s s'' q d.slot w) s') s

/-- The earliest due beat among results in flight. -/
def firstDue (ds : List Due) : Option Nat :=
  ds.foldl (fun acc d =>
    match acc with
    | none => some d.due
    | some n => some (min n d.due)) none

/-- Every result due at or before a beat becomes visible, beat by beat. -/
def State.visible (s : State) (q beat : Nat) : Nat → State
  | 0 => s
  | n + 1 =>
    let ds := (s.quad q).dues
    match firstDue ds with
    | none => s
    | some b =>
      if b > beat then s
      else
        let s := s.modQuad q (fun x => { x with dues := ds.filter (fun d => d.due ≠ b) })
        (s.applyBeat q (ds.filter (fun d => d.due = b))).visible q beat n

/-- The masked writes whose beat t + 8 has come merge (R56). -/
def State.mergeDue (s : State) (q beat : Nat) : State :=
  ((s.quad q).masked.filter (fun m => m.due ≤ beat)).foldl (fun (s : State) m => s.mergeMasked q m) s

/-- A beat starts: the one before it ends with its stretch, what is due becomes visible, masked writes merge. -/
def State.startBeat (s : State) (q beat : Nat) : State :=
  let s := (s.endHold q).modQuad q (fun x => { x with beat := max x.beat beat })
  (s.visible q beat (s.quad q).dues.length).mergeDue q beat

/-- Recess length by frequency point (R131). -/
def recessBeats (point : Nat) : Nat := [72, 58, 46, 36].getD point 72

/-- Beats pass in which no word issues: they count from the last taken recess, and a run of at least one recess length of them
counts as one (R148, R168, R169). A context that holds the quadrant in place counts them as its own since its last recess, and not as
beats of its lesson (DESIGN CHOICE, log 76: R178 does not say). The issue rate stretches them as it does others (R478); a stretch of
beats in which contexts wait is time of what they wait for (R190, log 28). -/
def State.idleBeats (s : State) (q n : Nat) : State :=
  let s := s.startBeat q ((s.quad q).beat + n)
  let s := s.passRate q n ((s.quad q).stretching && (s.quad q).inPlace.isNone)
  let s := match (s.quad q).sel with
    | some sl => s.modSlot q sl (fun y => { y with sinceRecess := if y.st = CtxState.issuing then y.sinceRecess + n else y.sinceRecess })
    | none => s
  s.modQuad q (fun x =>
    let run := x.idle + n
    { x with idle := run, sinceRecess := if run ≥ recessBeats x.point then 0 else x.sinceRecess + n })

/-! ## Late events (R63 to R67) -/

/-- The bank unit that a write of a result belongs to. -/
def DueWrite.ofUnit (u : Nat) (w : DueWrite) : Bool :=
  match w with
  | .latch v _ _ => v == u
  | .scale v _ _ => v == u
  | .accAdd v _ _ _ => v == u
  | .accSet v _ _ _ => v == u
  | .line v _ _ _ _ => v == u
  | .wmask v _ _ => v == u
  | .pointer _ => false
  | .out _ us => us.contains u

/-- An operation of the unit has to be complete at the start of beat b: its result is due then, or the column command of its
write goes out (R63). -/
def State.dueAt (s : State) (q b u : Nat) : Bool :=
  let x := s.quad q
  x.dues.any (fun d => decide (d.due = b) && d.writes.any (fun w => w.ofUnit u)) ||
    x.masked.any (fun m => decide (m.due = b) && bankOfCol m.col == u) ||
    (s.stack (stackOf u)).writes.any (fun w => decide (w.goes = some b) && bankOfCol w.col == u)

/-- Bank units that raise their late line at the start of beat b: those of the quadrant named late, with an operation that has to be
complete then, whose stack has not failed (R63, R557). -/
def State.lateUnits (s : State) (q b : Nat) (us : List Nat) : List Nat :=
  us.filter (fun u => quadOf u = q ∧ (s.stack (stackOf u)).failed = false ∧ s.dueAt q b u = true)

/-- Late lines are raised and counted, and the beat is held (R63, R64). -/
def State.raiseLate (s : State) (q : Nat) (us : List Nat) : State :=
  let s := us.foldl (fun (s : State) u =>
    s.modUnit u (fun b => { b with ev := { b.ev with late := satInc b.ev.late } })) s
  s.modQuad q (fun x =>
    { x with late := us, held := true, lateAt := if x.hazard || x.lateAt.contains x.issuedHere then x.lateAt else x.lateAt ++ [x.issuedHere] })

/-- The hold by late lines that have fallen: at least one quarter-beat, a whole number of them, up to the 4 us of R67 (R64). -/
def State.accountLate (s : State) (q : Nat) : State :=
  let unit := pointCycle (s.quad q).point
  { s with free := s.free + 1 }.modQuad q (fun x => x.hold Sat.late ((Config.freeNat s.free % (160000 / unit) + 1) * unit))

/-- LATE_COMPLETE (R64, R65): every late line of the quadrant has fallen; nothing else changes but the length of the hold, a
whole number of quarter-beats. -/
def execLateComplete (q : Fin 4) (s : State) : Host.Outcome State Fault Refusal :=
  .next (if (s.quad q).late.isEmpty then s
    else
      (s.accountLate q).modQuad q (fun x => { x with late := [], held := false }))

/-- A result of a late unit is poisoned (R67). -/
def DueWrite.force (us : List Nat) (w : DueWrite) : DueWrite :=
  match w with
  | .latch u e c => .latch u e (if us.contains u then { c with poison := true } else c)
  | .scale u x l => .scale u x (if us.contains u then { l with poison := true } else l)
  | .accAdd u e v p => .accAdd u e v (p || us.contains u)
  | .accSet u e v p => .accSet u e v (p || us.contains u)
  | .line u l m d k => .line u l m d (if us.contains u then some true else k)
  | .out i vs => .out { i with rows := i.rows.map (fun r =>
      { r with poison := r.poison || vs.any (fun v => us.contains v && bankOf v == r.bank && stackOf v % 5 == r.stack) }) } vs
  | w => w

/-- The late operation of a unit: the result due at the held boundary or the masked write that merges there; its slot and
ORIGIN. -/
def Quad.lateOp (x : Quad) (u : Nat) : Option (Nat × Nat) :=
  match x.dues.find? (fun d => d.due = x.beat + 1 ∧ d.writes.any (fun w => w.ofUnit u) = true) with
  | some d => some (d.slot, d.origin)
  | none => (x.masked.find? (fun m => m.due = x.beat + 1 ∧ bankOfCol m.col = u)).map (fun m => (m.slot, m.origin))

/-- One stuck unit: its record, the log entry, the unsettled lesson (R67, R174, R556). DESIGN CHOICE (log 70): a late full column
write keeps no slot and ORIGIN of its own; the selected slot and the word in issue, whose write it is, stand for them. -/
def State.stuckUnit (s : State) (q u : Nat) : State :=
  let op := ((s.quad q).lateOp u).getD (((s.quad q).sel).getD 0, s.origin q)
  let s := s.modUnit u (fun b => { b with ev := { b.ev with stuck := true } })
  let ctx := match (s.slot q op.1).ctx with
    | some c => BitVec.ofNat 8 c
    | none => 0xFF
  (s.logOnly Code.forcedCompletion q ctx op.2 (u * 2 ^ 27)).unsettleSlot q op.1 op.2

/-- Full column writes of the late units whose column command is about to go out are written as poisoned (R36, R67, R70). -/
def State.forceWrites (s : State) (b : Nat) (us : List Nat) : State :=
  us.foldl (fun (s : State) u =>
    ((s.stack (stackOf u)).writes.filter (fun w => w.goes = some b ∧ bankOfCol w.col = u)).foldl
      (fun (s : State) w => s.storeCol w.col (readBytes s.mem.data (32 * w.col) 32) true) s) s

/-- FORCED_COMPLETION (R67, R70): with a late line still raised, the late operations complete with poisoned results, late OUT rows
and column writes too. DESIGN CHOICE (log 70): of a late unit every result due at the held boundary counts as late, and the slot of the
first is named. -/
def execForcedCompletion (q : Fin 4) (s : State) : Host.Outcome State Fault Refusal :=
  .next (let x := s.quad q
    if x.late.isEmpty then s
    else
      let us := x.late
      let s := us.foldl (fun (s : State) u => s.stuckUnit q u) (s.modQuad q (fun x => x.hold Sat.late 160000))
      (s.forceWrites (x.beat + 1) us).modQuad q (fun x =>
        { x with
          dues := x.dues.map (fun d =>
            if d.due = x.beat + 1 then { d with writes := d.writes.map (DueWrite.force us) } else d)
          masked := x.masked.map (fun m =>
            if m.due = x.beat + 1 ∧ us.contains (bankOfCol m.col) = true then { m with poison := true } else m)
          late := [], held := false, forced := true }))

/-! ## Words (R105 to R107, R111) -/

/-- A fetched word: its 64-bit header and its slots, by name ROW, COL, MAC, VEC, XFER, SYNC, ADDR, CTRL. -/
structure Word where
  header : BitVec 64
  slots : List (Option Word32)
  deriving DecidableEq, Repr

def Word.present (w : Word) : BitVec 8 := w.header.extractLsb' 56 8
def Word.repeats (w : Word) : Nat := fld w.header 55 44
def Word.sel (w : Word) : BitVec 4 := w.header.extractLsb' 40 4
def Word.end_ (w : Word) : Bool := w.header.getLsbD 39
def Word.recess (w : Word) : Bool := w.header.getLsbD 38
def Word.rclass (w : Word) : BitVec 2 := w.header.extractLsb' 36 2
def Word.stream (w : Word) : Bool := w.header.getLsbD 35
def Word.cop (w : Word) : BitVec 3 := w.header.extractLsb' 32 3
def Word.origin (w : Word) : Nat := fld w.header 19 0
def Word.slot (w : Word) (i : Nat) : Option Word32 := (w.slots.getD i none)
/-- Length in bytes (R105). -/
def Word.bytes (w : Word) : Nat := 8 + 4 * (w.slots.filter (·.isSome)).length

/-- The present slots of a header, from consecutive units at an offset (R105, R106). -/
def State.fetchSlots (s : State) (q : Nat) (p : BitVec 8) : Nat → Nat → List (Option Word32)
  | 0, _ => []
  | n + 1, a =>
    if p.getLsbD n then some (s.ttWord q a) :: s.fetchSlots q p n (a + 4) else none :: s.fetchSlots q p n a

/-- The word at which a slot stands (R106). -/
def State.fetchWord (s : State) (q sl : Nat) : Word :=
  let a := s.activeBase q sl + (s.slot q sl).pc
  let h : BitVec 64 := (s.ttWord q a) ++ (s.ttWord q (a + 4))
  { header := h, slots := s.fetchSlots q (h.extractLsb' 56 8) 8 (a + 8) }

/-- COL on repeated issue k (R111). -/
def moveCol (k : Nat) (w : Word32) : Word32 :=
  let w := if Col.le w < 3 then setBits w 27 2 ((Col.le w + k) % 3) else w
  let w := if Col.ags w then w else setBits w 17 6 (Col.column w + k)
  if Col.op w = 3 ∨ Col.op w = 4 then setBits w 8 9 (Col.line w + k) else w

/-- MAC on repeated issue k (R111, R116, R117). -/
def moveMac (k : Nat) (w : Word32) : Word32 :=
  let six := Mac.wfmt w = 1 ∨ Mac.wfmt w = 2
  let w' := if six ∨ Mac.le w = 3 then w else setBits w 26 2 ((Mac.le w + k) % 3)
  if Mac.asg w = 2 then setBits w' 2 10 (Mac.acc w + k * Mac.tokens w)
  else if Mac.asg w = 3 then
    setBits w' 12 9 (Mac.vline w + k * (macLines (Mac.wfmt w) (Mac.afmt w) (Mac.tokens w) + 1))
  else w'

/-- VEC and its LIT on repeated issue k (R111): D and B step by one row or line, CVTMX steps B by 4 rows, PACK steps its
elements by 8 across consecutive lines, CMP steps BYTE, OUT keeps its tag. -/
def moveVec (k : Nat) (w lit : Word32) : Word32 × Word32 :=
  let op := Vec.op w
  let stepB := setBits w 4 9 (Vec.b w + (if op = 8 then 4 * k else k))
  if op = 9 then (stepB, lit)
  else if op = 7 then
    let n := 256 / (vfmtOf (Vec.fmt w)).bits
    let e := Lit.eoff lit + 8 * k
    (setBits stepB 14 9 (Vec.d w + e / n), setBits lit 12 6 (e % n))
  else
    (setBits stepB 14 9 (Vec.d w + k),
      if op = 3 then setBits lit 18 5 (Lit.byte lit + k) else lit)

/-- XFER on repeated issue k (R111). -/
def moveXfer (k : Nat) (w : Word32) : Word32 :=
  setBits (setBits w 16 9 (Xfer.line w + k * Xfer.n w)) 0 13 (Xfer.off w + k * Xfer.n w)

/-- The slots of a word on repeated issue k. -/
def Word.moved (w : Word) (k : Nat) : List (Option Word32) :=
  if k = 0 then w.slots
  else
    let v := match w.slot 3 with
      | some x => let m := moveVec k x ((w.slot 7).getD 0); (some m.1, (w.slot 7).map (fun _ => m.2))
      | none => (none, w.slot 7)
    [w.slot 0, (w.slot 1).map (moveCol k), (w.slot 2).map (moveMac k), v.1, (w.slot 4).map (moveXfer k), w.slot 5,
      w.slot 6, v.2]

/-! ## The hazard recorder (R68, R178, R179) -/

/-- A read of the files by a word: true for a line, index as named, reading slot (1 VEC, 2 MAC, 3 OUT, 4 COL write). -/
abbrev FileRead := Bool × Nat × Nat

def rowReads (kind n slot : Nat) : List FileRead :=
  if kind = 0 then (List.range 8).map (fun i => (false, 8 * n + i, slot)) else [(true, n, slot)]

/-- Rows and lines a VEC slot reads (R120). -/
def vecReads (w : Word32) : List FileRead :=
  let d := rowReads (Vec.dk w) (Vec.d w) 1
  let b := rowReads (Vec.bk w) (Vec.b w) 1
  match Vec.op w with
  | 5 => b
  | 6 => if Vec.fmt w = 0 then b else [(true, Vec.b w, 1)]
  | 7 => b
  | 8 => (List.range 4).flatMap (fun i => rowReads 0 (Vec.b w / 4 * 4 + i) 1)
  | 9 => rowReads 0 (Vec.b w) 3
  | 10 => if Vec.bk w = 1 then b else []
  | n => if n ≤ 4 then d ++ b else []

/-- Activation lines a MAC reads (R117). -/
def macReads (w : Word32) : List FileRead :=
  if Mac.legal w then
    let n := macLines (Mac.wfmt w) (Mac.afmt w) (Mac.tokens w)
    (List.range (if Mac.afmt w = 2 then n else n + 1)).map (fun i => (true, Mac.vline w + i, 2))
  else []

def colReads_ (w : Word32) : List FileRead := if Col.op w = 3 ∨ Col.op w = 4 then [(true, Col.line w, 4)] else []

def Word.reads (slots : List (Option Word32)) : List FileRead :=
  let f (i : Nat) (g : Word32 → List FileRead) : List FileRead := match slots.getD i none with
    | some w => g w
    | none => []
  f 3 vecReads ++ f 2 macReads ++ f 1 colReads_

/-- A write in flight to an entry or line of a unit. -/
def DueWrite.hits (u ix : Nat) (line : Bool) (w : DueWrite) : Bool :=
  match w with
  | .accAdd v e _ _ => !line && v == u && e == ix
  | .accSet v e _ _ => !line && v == u && e == ix
  | .line v l _ _ _ => line && v == u && l == ix
  | _ => false

/-- The pending write to a read location that becomes visible last, over the selected units (R178). DESIGN CHOICE (log 75): of two
that become visible in the same beat, the one entered later is named. -/
def Quad.pending (x : Quad) (sl : Nat) (us : List Nat) (r : FileRead) : Option Due :=
  let ix := if r.1 then x.lineIndex sl r.2.1 else x.accIndex sl r.2.1
  (x.dues.filter (fun d => us.any (fun u => d.writes.any (fun w => w.hits u ix r.1)))).foldl (fun acc d =>
    match acc with
    | none => some d
    | some y => if d.due ≥ y.due then some d else some y) none

/-- The location a record names: the lowest accumulator entry, else the lowest line (R178). -/
def lowestRead (rs : List (FileRead × Due)) : Option (FileRead × Due) :=
  rs.foldl (fun acc r =>
    match acc with
    | none => some r
    | some y =>
      let key (z : FileRead × Due) : Nat := (if z.1.1 then 2048 else 0) + z.1.2.1
      if key r < key y then some r else some y) none

/-- With the recorder on, an issue that reads a location with a pending write is logged (R178, R179). -/
def State.logHazard (s : State) (q sl : Nat) (sel : BitVec 4) (origin : Nat) (slots : List (Option Word32)) : State :=
  let x := s.quad q
  if x.hazard = false then s
  else
    let us := s.units_ q sl sel
    let rs := (Word.reads slots).filterMap (fun r => (x.pending sl us r).map (fun d => (r, d)))
    match lowestRead rs, s.slotCtx q sl with
    | some (r, d), some (c, _) =>
      let y := s.slot q sl
      let e : HazRec :=
        { lesson := (s.ctx c).lessonNo, beat := y.lessonBeat, due := y.lessonBeat + (d.due - x.beat), readSlot := r.2.2,
          readOrigin := origin, writeSlot := d.writer, writeOrigin := d.origin, index := r.2.1, line := r.1, quad := q,
          slot := sl }
      s.modCfg c (fun g =>
        { g with
          hazLog := tmod [] g.hazLog q (fun l => if l.length < 1024 then l ++ [e] else l)
          hazCount := tmod 0 g.hazCount q (fun n => bump n 1) })
    | _, _ => s

/-! ## Issue (R144 to R146) -/

/-- The quadrant holds every beat: a late line, a stack link in recovery, a frequency change, a shut gate, a shut-down (R64,
R172, R354, R463, R473). -/
def State.holding (s : State) (q : Nat) : Bool :=
  let x := s.quad q
  !x.late.isEmpty || s.selfRefresh q || s.boot.shut || (List.range 5).any (fun i => (s.stack (5 * q + i)).recovering)

/-- The first word of a lesson that started after a new frequency point was chosen is held until the change is complete
(R172). -/
def State.firstHeld (s : State) (q sl : Nat) : Bool := (s.slot q sl).heldFirst && (s.quad q).chosen.isSome

/-- The code of what holds a word back: an OUT that finds rows of 64 issues held, or a LAUNCH whose engine has the slot's 16
places taken (R238, R263, R265). -/
def State.full (s : State) (q sl : Nat) (w : Word) : Option Nat :=
  let x := s.quad q
  let out : Bool := match w.slot 3 with
    | some v => Vec.op v == 9 && decide (x.outCount ≥ 64)
    | none => false
  let launch : Bool := match w.slot 7 with
    | some c => w.cop == 4 &&
        decide (((x.shares (Ctrl.engine c)).filter (fun h => h.slot = sl)).length ≥ 16) && decide (Ctrl.engine c ≤ 1)
    | none => false
  if out then some Sat.merge
  else if launch then some (if ((w.slot 7).map Ctrl.engine) = some 1 then Sat.merge else Sat.exchange)
  else none

/-- The stream entry of a word with STREAM set: the head of the slot's stream. Where the stream is empty the control core goes on
until it holds 1 to 64 entries; how many, and what its program yields, the spec does not give: free values (R140 to R142,
R148). The word is held meanwhile (R142). -/
def State.takeEntry (s : State) (q sl : Nat) : Word32 × State :=
  match (s.slot q sl).stream with
  | e :: es => (e, s.modSlot q sl (fun x => { x with stream := es }))
  | [] =>
    let s := s.accountOpen q Sat.column
    let n := Config.freeNat s.free % 64
    let yields (k : Nat) : Word32 := BitVec.ofNat 32 (Config.freeNat (s.free + 1 + k))
    (yields 0, ({ s with free := s.free + n + 2 } : State).modSlot q sl (fun x =>
      { x with core := (yields n).toNat, stream := (List.range n).map (fun k => yields (k + 1)) }))

/-- A MAC of the word that occupies the multiplier slices for some beats (R45). -/
def Word.occupancy (w : Word) : Nat :=
  match w.slot 2 with
  | some m => if Mac.legal m then macOccupancy (Mac.wfmt m) (Mac.afmt m) (Mac.tokens m) else 0
  | none => 0

/-- The time of the beat in which a word issues is assigned (R190, R478). A MAC that finds the slices occupied starts when they are
free (R62). A refresh operation that was running outside any beat holds the word at most 110 ns (R345). -/
def State.accountBeat (s : State) (q : Nat) (w : Word) : State :=
  let s := if (s.quad q).refreshing then
      (s.accountHold q Sat.refresh 1 4400).modQuad q (fun x => { x with refreshing := false })
    else s
  let x := s.quad q
  let free := if w.occupancy = 0 then x.slicesTo else max x.slicesTo x.beat + w.occupancy
  let code := if decide (free > x.beat) && (w.slot 1).isNone then Sat.slices else Sat.column
  ((s.setQuad q { x with slicesTo := free }).account q code x.beatLen).passRate q 1 true

/-! ## Recesses (R131, R132, R168, R169, R345) -/

/-- RDIV of a quadrant: the hottest of its stacks decides (R131, R132). -/
def State.rdiv (s : State) (q : Nat) : Nat :=
  let hot := (List.range 5).any (fun i => s.hot (5 * q + i))
  if (s.quad q).point = 0 then (if hot then 2 else 4) else (if hot then 1 else 2)

/-- A recess begins: every bank of the quadrant that owes one performs one operation, and delay sets are applied (R131, R169, R345, R358). A
failed stack refreshes nothing (R557). Its beats have still to pass. -/
def State.beginRecess (s : State) (q : Nat) : State :=
  let n := recessBeats (s.quad q).point
  let alive (u : Nat) : Bool := quadOf u == q && !(s.stack (stackOf u)).failed
  let owing := (s.banks.filter (fun p => alive p.1 && p.2.owes)).map (·.1)
  let s := { s with banks := tmap Bank.init s.banks alive Bank.doRecess }.linkUnits q owing .refresh 0
  let s := (List.range 5).foldl (fun (s : State) i => s.applyBand (5 * q + i)) s
  s.modQuad q (fun x => { x with sinceRecess := 0, idle := 0, recessLeft := n })

/-- Beats of a recess pass; they count towards latencies (R131), their nominal time goes to REFRESH and their stretches to what set
the rate (R190, R478). -/
def State.passRecess (s : State) (q n : Nat) : State :=
  let s := (s.startBeat q ((s.quad q).beat + n)).account q Sat.refresh (n * (s.quad q).beatLen)
  (s.passRate q n true).modQuad q (fun x => { x with recessLeft := x.recessLeft - n })

/-- The first beat after the present one, of the next n, at whose start one of the units named late has to be complete. -/
def State.lateBeat (s : State) (q n : Nat) (late : List Nat) : Option Nat :=
  ((List.range n).map (fun i => (s.quad q).beat + 1 + i)).find? (fun b => (s.lateUnits q b late).isEmpty = false)

/-- Beats of a recess pass up to a boundary that late lines hold (R63, R64), or all that are left. -/
def State.runRecess (s : State) (q : Nat) (late : List Nat) : State :=
  let n := (s.quad q).recessLeft
  match s.lateBeat q n late with
  | none => s.passRecess q n
  | some b => (s.passRecess q (b - 1 - (s.quad q).beat)).raiseLate q (s.lateUnits q b late)

/-- A switch recess: a recess that belongs to no slot's word (R168). -/
def State.recess (s : State) (q : Nat) (late : List Nat) : State := (s.beginRecess q).runRecess q late

/-- The recess word of a slot (R129, R131, R132, R166, R169): taken when 2^RCLASS is at least RDIV, otherwise skipped in zero beats;
class 3 is reserved and takes none. At a beat that is quiet at its start it is a switch point. -/
def State.recessWord (s : State) (q sl : Nat) (rclass : BitVec 2) (late : List Nat) : State :=
  let quiet := s.quiet q sl
  let s := if rclass ≠ 3 ∧ 2 ^ rclass.toNat ≥ s.rdiv q then
      ((s.beginRecess q).modSlot q sl (fun x =>
        { x with sinceRecess := 0, lessonBeat := x.lessonBeat + recessBeats (s.quad q).point })).runRecess q late
    else s
  s.modQuad q (fun x => { x with atSwitch := quiet })

/-- RECESS_WORD (R131, R132, R166, R169); a held quadrant takes none, and one in a recess goes on with it. -/
def execRecessWord (q sl : Fin 4) (r : RecessStart) (s : State) : Host.Outcome State Fault Refusal :=
  .next (if s.holding q then s
    else if (s.quad q).recessLeft ≠ 0 then s.runRecess q r.late
    else s.recessWord q sl r.rclass r.late)

/-- RESULT_VISIBLE (R32, R59, R63, R64): the beats pass until the one in which the next result is due, and every result due by then
is visible from its start. A held beat passes for nothing, and a unit named late holds the boundary before its result. -/
def execResultVisible (b : BeatStart) (s : State) : Host.Outcome State Fault Refusal :=
  .next (let q := b.q
    let late := b.late
    if s.holding q then s
    else if (s.quad q).recessLeft ≠ 0 then s.runRecess q late
    else match firstDue (s.quad q).dues with
      | none => s
      | some b =>
        let now := (s.quad q).beat
        match s.lateBeat q (b - now) late with
        | none => s.idleBeats q (b - now)
        | some l => (s.idleBeats q (l - 1 - now)).raiseLate q (s.lateUnits q l late))

end Sys2Proof.Machine
end

