-- ==== Sys2Proof/Machine/Reach.lean ====
section
/-! DEFINITION. What the stack controllers see ahead of the timetable, and which rows a foreign source may reach
(R147, R337 to R339). -/

namespace Sys2Proof.Machine

/-! ## Imminent commands (R338) -/

/-- A ROW or COL slot of a word is a command to a half of a bank, with the slot's masks and generators as they stand. -/
def State.namesHalf (s : State) (q sl : Nat) (sel : BitVec 4) (slots : List (Option Word32)) (bank half : Nat) : Bool :=
  let row := match slots.getD 0 none with
    | some w =>
      fld w 31 30 != 0 && (match s.rowOf q sl w with
        | some r => fld w 31 30 == 3 || r % 2 == half
        | none => false)
    | none => false
  let col := match slots.getD 1 none with
    | some w => (match s.colOf q sl w with
      | some p => p.1 == half
      | none => false)
    | none => false
  (row || col) && (s.units_ q sl sel).contains bank

/-- The slot's generators, masks and loop counters after an issue of a word, and where it stands then (R111, R125 to R128). -/
def State.lookPast (s : State) (q sl : Nat) (w : Word) : State :=
  let y := s.slot q sl
  let slots := w.moved y.rep
  let last := decide (y.rep ≥ w.repeats)
  let s := match slots.getD 1 none with
    | some c => s.stepCol q sl c
    | none => s
  let s := s.modSlot q sl (fun y =>
    { y with rep := if last then 0 else y.rep + 1, pc := if last then y.pc + w.bytes else y.pc,
             stream := if w.stream then y.stream.drop 1 else y.stream })
  let s := match slots.getD 6 none with
    | some a => s.modSlot q sl (fun y =>
        match Addr.op a with
        | 1 => { y with gens := tset Gen.unset y.gens (Addr.ag a) ⟨true, false, BitVec.ofNat 12 (Addr.desc a), 0⟩ }
        | 2 => { y with gens := tset Gen.unset y.gens (Addr.ag a) ⟨true, decide (s.profile q sl = 0), BitVec.ofNat 12 (Addr.desc a), 0⟩ }
        | 3 => y.stepGen (Addr.ag a) (Addr.count a)
        | _ => y)
    | none => s
  match slots.getD 7 none with
  | some c => s.modSlot q sl (fun z =>
      match w.cop.toNat with
      | 1 => if Ctrl.reg c = 0 then z
        else { z with masks := tmod (BitVec.allOnes 53) z.masks (Ctrl.reg c) (fun m => mskPart m (Ctrl.part c) (Ctrl.value c)) }
      | 2 => { z with loops := tset 0 z.loops (Ctrl.cnt c) (BitVec.ofNat 24 (Ctrl.count c)) }
      | 3 =>
        let n := tget 0 z.loops (Ctrl.cnt c)
        if n = 0 then z else { z with loops := tset 0 z.loops (Ctrl.cnt c) (n - 1), pc := y.pc - 4 * Ctrl.back c }
      | _ => z)
  | none => s

/-- The word looked at stands in issue: a STREAM word takes its row and column from the head of the slot's stream (R140, R337); what an
empty stream will hold, nobody knows yet, and the word names no half. -/
def State.lookWord (s : State) (q sl : Nat) (w : Word) : State :=
  let i : Issued :=
    { slot := 4, sel := w.sel, origin := 0, issue := 0, present := 0, words := [], cop := 0, pc := 0,
      entry := if w.stream then (s.slot q sl).stream.head? else none, gens := [], k := [] }
  s.modQuad q (fun x => { x with word := some i })

/-- A command to the half lies within the next `beats` beats of the slot's path, each word taken as though it issued in the next
beat; a recess word as though it were skipped. The first argument bounds the words looked at. -/
def State.lookAhead (q sl bank half : Nat) : Nat → Nat → State → Bool
  | 0, _, _ => false
  | _, 0, _ => false
  | n + 1, beats + 1, s =>
    let y := s.slot q sl
    let w := s.fetchWord q sl
    if w.recess then
      !w.end_ && State.lookAhead q sl bank half n (beats + 1) (s.modSlot q sl (fun y => { y with pc := y.pc + w.bytes }))
    else if !(w.stream && y.stream.isEmpty) && (s.lookWord q sl w).namesHalf q sl w.sel (w.moved y.rep) bank half then true
    else if w.end_ && decide (y.rep ≥ w.repeats) then false
    else State.lookAhead q sl bank half n beats ((s.lookWord q sl w).lookPast q sl w)

/-- A timetable command to a half of a bank could issue within the next 40 beats of its quadrant (R338). -/
def State.imminent (s : State) (bank half : Nat) : Bool :=
  let q := quadOf bank
  (List.range 4).any (fun sl =>
    let y := s.slot q sl
    (y.st == .ready || y.st == .waiting || y.st == .issuing) && State.lookAhead q sl bank half 80 40 s)

/-! ## Reaching a row (R337, R339) -/

/-- A source other than the timetable may reach a row now: it is open in its half, or the half holds no row of the timetable and no
command of the timetable to it is imminent. -/
def State.reach (s : State) (bank row : Nat) : Bool :=
  let h := row % 2
  match (s.bank bank).half h with
  | some r => r.row.toNat == row || (!r.timetable && !s.imminent bank h)
  | none => !s.imminent bank h

/-- Every column of a list can be reached now, in stacks that are not in self-refresh and whose links are not in recovery (R337, R354,
R357). -/
def State.reachAll (s : State) (cols : List Nat) : Bool :=
  cols.all (fun c => !s.selfRefresh (quadOf (bankOfCol c)) && !(s.stack (stackOf (bankOfCol c))).recovering &&
    s.reach (bankOfCol c) (rowOfCol c))

/-- Foreign rows of a quadrant are precharged in time for the timetable's commands (R339). -/
def State.yieldRows (s : State) (q : Nat) : State :=
  let foreign := (s.banks.filter (fun p => quadOf p.1 == q)).flatMap (fun p =>
    ([0, 1].filter (fun h => match p.2.half h with
      | some r => !r.timetable
      | none => false)).map (fun h => (p.1, h)))
  (foreign.filter (fun p => s.imminent p.1 p.2)).foldl
    (fun (s : State) p => s.closeRow p.1 p.2) s

end Sys2Proof.Machine
end

