-- ==== Sys2Proof/Machine/Health.lean ====
section
/-! DEFINITION. The controller's own decoding, refresh events, the patrol scrub, the stack link and clearing
(R337 to R363, R543, R557). -/

namespace Sys2Proof.Machine

/-! ## Columns by the controller (R255, R339, R342) -/

/-- A column read by the controller for the host, a copy or a remote access (R339, R342): earlier writes drain and its row is
reached. -/
def State.ctrlRead (s : State) (col : Nat) : Column × State :=
  ((s.settleColumn col).touchRow (bankOfCol col) (rowOfCol col)).readNow col

/-- A column written whole by the controller for the host, a copy or a remote access: it is in the array at once. -/
def State.ctrlWrite (s : State) (col : Nat) (data : List Byte) (poison : Bool) : State :=
  ((s.settleColumn col).touchRow (bankOfCol col) (rowOfCol col)).writeNow col data poison

/-! ## Refresh events (R344 to R348) -/

/-- The next thing that a quadrant does is to take a recess: its ISSUING context stands at a recess word that will be taken. -/
def State.recessNext (s : State) (q : Nat) : Bool :=
  match (s.quad q).sel with
  | none => false
  | some sl =>
    let w := s.fetchWord q sl
    s.issuing q && w.recess && decide (w.rclass ≠ 3 ∧ 2 ^ w.rclass.toNat ≥ s.rdiv q)

/-- REFRESH_DUE (R344 to R346): the debt rises by 1; on a bank of debt 8 the controller refreshes at once, in a steal while the
quadrant issues words, unless the recess that begins now pays it. In self-refresh the dies refresh themselves (R356, R463). -/
def execRefreshDue (bank : Fin 10240) (s : State) : Host.Outcome State Fault Refusal :=
  .next (if (s.stack (stackOf bank)).failed ∨ s.selfRefresh (quadOf bank) = true then s
    else
      let s := s.modBank bank (fun b => { b with debt := b.debt + 1 })
      if (s.bank bank).debt > 8 ∧ s.recessNext (quadOf bank) = false then s.relieve bank else s)

/-- NEIGHBOUR_DEADLINE (R346, R348): with a neighbour refresh queued the controller performs it, in a steal while the quadrant
issues words. -/
def execNeighbourDeadline (bank : Fin 10240) (s : State) : Host.Outcome State Fault Refusal :=
  .next (if (s.bank bank).nbq.isEmpty then s else s.relieve bank)

/-- IDLE_REFRESH (R345, R358): while the quadrant issues nothing and no access to the bank is queued, the bank performs one
operation, which may still run when the next word is ready; the stack's delay set is applied. A failed stack refreshes nothing
(R557). -/
def execIdleRefresh (bank : Fin 10240) (s : State) : Host.Outcome State Fault Refusal :=
  .next (if s.linkClosed (stackOf bank) = true ∨ s.idleBank bank = false then s else s.idleOp bank)

/-! ## The patrol scrub (R359 to R361) -/

/-- Columns of one stack. -/
def stackCols : Nat := 2 ^ 31

/-- A stack's scrub pass is complete: its counts become those of the last pass (R361, R363, R519). -/
def State.endPass (s : State) (st : Nat) : State :=
  let s := s.modStack st (fun k => { k with ceScrub := k.cePass, cePass := 0 })
  { s with banks := tmap Bank.init s.banks (inStack st) (fun b => { b with cePass := BitVec.ofNat 16 (min b.ceNow 65535), ceNow := 0 }) }

/-- The column that the scrub reads next: the head of its queue, else its position, which steps (R359, R360). -/
def State.scrubNext (s : State) (st : Nat) : Nat × State :=
  let k := s.stack st
  match k.scrubHead with
  | c :: cs => (c, s.modStack st (fun k => { k with scrubHead := cs }))
  | [] =>
    let c := st * stackCols + k.scrubPos
    let s := s.modStack st (fun k => { k with scrubDone := k.scrubDone + 1 })
    if k.scrubPos + 1 < stackCols then (c, s.modStack st (fun k => { k with scrubPos := k.scrubPos + 1 }))
    else (c, (s.modStack st (fun k => { k with scrubPos := 0 })).endPass st)

/-- SCRUB_LAG (R359, R363): columns that the schedule, every column of the stack once in SCRUB_HOURS, is ahead of the scrub, in
thousands. DESIGN CHOICE (log 92): the schedule counts from B5 or from the last write of SCRUB_HOURS. -/
def State.scrubLag (s : State) (st : Nat) : Nat :=
  let k := s.stack st
  ((s.ring.timebase - k.scrubFrom) * stackCols / (s.health.scrubHours.toNat * 3600000000000) - k.scrubDone) / 1000

/-- The schedules of the scrubs start now. -/
def State.restartScrubs (s : State) : State :=
  (List.range 20).foldl (fun (s : State) st => s.modStack st (fun k => { k with scrubFrom := s.ring.timebase, scrubDone := 0 })) s

/-- A hard error of n symbols in a column (R361): counted once for a column; two symbols, HARD_LIMIT columns of the plot, or a
bank on watch queue the plot. -/
def State.noteHard (s : State) (col n : Nat) : State :=
  let u := bankOfCol col
  let known := s.health.hardCols.any (fun x => x.1 = col)
  let s := if known then s
    else
      let s := { s with health := { s.health with hardCols := s.health.hardCols ++ [(col, n)] } }
      (s.modBank u (fun b => { b with hard := satInc b.hard })).modStack (stackOf u)
        (fun k => { k with hardErrors := bump k.hardErrors 1 })
  let inPlot := (s.health.hardCols.filter (fun x => plotOfCol x.1 = plotOfCol col)).length
  if n ≥ 2 ∨ inPlot ≥ s.health.hardLimit.toNat ∨ (s.bank u).watch = true then s.queuePlot (plotOfCol col) else s

/-- The array after the scrub has written a corrected column back: of the symbols that were wrong, `hard` stay as they were. Which ones
the command does not say: a free choice (log 36). -/
def State.writeBack (s : State) (col : Nat) (fixed : List Byte) (hard : Nat) : State :=
  let raw := s.mem.raw col
  let new := fixed ++ rsCheck fixed
  let bad := (List.range 36).filter (fun i => raw.getD i 0 ≠ new.getD i 0)
  let stay := (freeOrder s.free bad).take hard
  let b := (List.range 36).map (fun i => if stay.contains i then raw.getD i 0 else new.getD i 0)
  { s with free := s.free + 36
           mem := { data := writeBytes s.mem.data (32 * col) (b.take 32), chk := writeBytes s.mem.chk (4 * col) (b.drop 32) } }

/-- What the scrub does with a column (R359); `hard` is the number of symbols still bad after the write-back, 0 for a clean
second read. -/
def State.scrub (s : State) (st col hard : Nat) : State :=
  let s := ((s.settleColumn col).touchRow (bankOfCol col) (rowOfCol col)).linkBank (bankOfCol col) .rd (col % 64)
  let d := s.decodeCol col
  match d.1 with
  | .corrected _ =>
    let s := (s.noteCorrected col).modStack st (fun k => { k with cePass := bump k.cePass 1 })
    let s := (s.linkBank (bankOfCol col) .wr (col % 64)).linkBank (bankOfCol col) .rd (col % 64)
    if hard = 0 then s.storeCol col d.2 false else (s.writeBack col d.2 hard).noteHard col hard
  | .uncorrectable => (s.writeNow col d.2 true).noteUe col
  | _ => s

/-- SCRUB_COLUMN (R337, R339, R357, R359, R465, R557): a failed stack scrubs nothing; a frequency change, a shut gate or a row that
the timetable holds or is about to need makes the scrub wait. -/
def execScrubColumn (st : Fin 20) (hard : Nat) (s : State) : Host.Outcome State Fault Refusal :=
  .next (if (s.stack st).failed ∨ s.reachAll [(s.scrubNext st).1] = false then s
    else
      let r := s.scrubNext st
      r.2.scrub st r.1 hard)

/-! ## Interface delays (R358) -/

/-- DELAY_SET_TIMEOUT: a stack whose band changed and has had no opportunity steals and applies the set; while its quadrant issues
no word it applies it without a steal (R345, R358). -/
def execDelaySetTimeout (st : Fin 20) (s : State) : Host.Outcome State Fault Refusal :=
  .next (if (s.stack st).band = (s.stack st).bandWanted ∨ s.linkClosed st = true then s
    else if s.issuing (quadOfStack st) then s.steal st
    else s.applyBand st)

/-! ## The stack link (R351 to R354, R557) -/

/-- Names of recovery periods (R552). -/
def recLink (st : Nat) : Nat := 20 + st
def recFence : Nat := 1
def recLeave : Nat := 2
def recJoin : Nat := 3

def State.startRecovery (s : State) (r : Nat) : State :=
  if s.sync.recoveries.contains r then s
  else { s with sync := { s.sync with recoveries := s.sync.recoveries ++ [r] } }
def State.endRecovery (s : State) (r : Nat) : State :=
  { s with sync := { s.sync with recoveries := s.sync.recoveries.erase r } }

/-- A link recovery starts (R354, R552, R556): fenced ordering, the quadrant held, one log entry. -/
def State.linkRecovery (s : State) (st : Nat) : State :=
  let s := s.modStack st (fun k =>
    { k with recovering := true, recoveries := bump k.recoveries 1, sameFails := 0, alerts := [] })
  (s.startRecovery (recLink st)).logOnly Code.linkRecovery st 0xFF (s.stack st).recoveries.toNat 0

/-- What a die does with a command (R352): one whose tag equals NEXT and whose parity is good is executed and NEXT rises; any
other is ignored, a repeat as much as a command after one that failed. -/
def dieTakes (next tag : BitVec 6) (good : Bool) : BitVec 6 × Bool := if tag = next ∧ good then (next + 1, true) else (next, false)

/-- NEXT of a die of a stack (R352). -/
def Stack.dieNext (k : Stack) (d : Nat) : BitVec 6 := (tget none k.behind d).getD k.nextTag

/-- NEXT of a die after the retry buffer has been sent again in order (R352, R353). -/
def Stack.replayed (k : Stack) (d : Nat) : BitVec 6 := k.retry.foldl (fun n r => (dieTakes n r.tag true).1) (k.dieNext d)

/-- A replay: a die that has caught up is in step again (R353). -/
def Stack.replay (k : Stack) : Stack :=
  { k with behind := (List.range 17).foldl (fun t d => tset none t d (if k.replayed d = k.nextTag then none else some (k.replayed d))) [] }

/-- A command with an outstanding tag fails parity in a die: its NEXT stays there (R352). -/
def Stack.parityError (k : Stack) (d : Nat) (tag : BitVec 6) : Stack :=
  if k.retry.any (fun r => r.tag = tag) ∧ (tget none k.behind d).isNone then { k with behind := tset none k.behind d (some tag) } else k

/-- LINK_ALERT (R352 to R354): a die has found a parity error in the command with a tag; the retry buffer is replayed, executed
commands ignore their repeat, and the die catches up, so that what the commands do is done once. Four failed replays of one command
in a row, or 16 alerts within 10 us, start a recovery. -/
def execLinkAlert (d : DieName) (c : FailedCommand) (s : State) : Host.Outcome State Fault Refusal :=
  .next (let st := d.st
    let k := s.stack st
    if k.failed ∨ k.recovering = true then s
    else
      let s := s.modStack st (fun k => k.parityError d.die c.tag)
      let now := s.ring.timebase
      let recent := k.alerts.filter (fun t => decide (now < t + 10000)) ++ [now]
      let fails := if c.again then k.sameFails + 1 else 0
      let s := s.modStack st (fun k => { k with replays := bump k.replays 1, sameFails := fails, alerts := recent })
      let q := quadOfStack st
      let s := s.accountHold q Sat.column 1 (16 * (s.quad q).beatLen + 1600)
      if fails ≥ 4 ∨ recent.length ≥ 16 then s.linkRecovery st else s.modStack st Stack.replay)

/-- A stack is marked failed (R557): queued column commands complete unsent, late lines of its units are ignored, one
emergency is sent. -/
def State.failStack (s : State) (st : Nat) : State :=
  let s := s.modStack st (fun k =>
    { k with failed := true, ueLogged := false, recovering := false, recFails := 0, retry := [], behind := [], scrubHead := [] })
  let s := s.drainMany st (s.stack st).writes.length
  let q := quadOfStack st
  let s := s.modQuad q (fun x =>
    let late := x.late.filter (fun u => stackOf u ≠ st)
    { x with late := late, held := x.held && !late.isEmpty })
  let s := { s with banks := tmap Bank.init s.banks (inStack st) (fun b => { b with debt := 0, nbq := [] }) }
  s.emcyEvent 0xFF12 st (s.stack st).recoveries.toNat

/-- A recovery of a stack's link, of at most 50 us, has held its quadrant's beat: time of COLUMN, as a replay's is (R341, R354; log 28). -/
def State.linkHold (s : State) (st bound : Nat) : State := s.accountHold (quadOfStack st) Sat.column 1 bound

/-! ## Clearing (R543) -/

/-- Bytes of a memory table outside a range. -/
def dropRange {V : Type} (t : Table V) (lo hi : Nat) : Table V := t.filter (fun p => p.1 < lo ∨ hi ≤ p.1)

/-- A plot holds zeros with valid check bytes; the check bytes of zeros are zero (R35). -/
def Memory.clearPlot (m : Memory) (p : Nat) : Memory :=
  { data := dropRange m.data (p * 65536) ((p + 1) * 65536), chk := dropRange m.chk (p * 8192) ((p + 1) * 8192) }

/-- A granule of a quadrant's staging SRAM holds zeros and no mark. -/
def Quad.clearGranule (x : Quad) (g : Nat) : Quad :=
  { x with staging := dropRange x.staging (g * 65536) ((g + 1) * 65536)
           stagePoison := dropRange x.stagePoison (g * 2048) ((g + 1) * 2048) }

/-- PLOT_CLEARED (R543): a plot or granule being cleared is zero and becomes free. -/
def execPlotCleared (staging : Bool) (num : Nat) (s : State) : Host.Outcome State Fault Refusal :=
  .next (let h := s.health
    if staging then
      if h.clearingG.contains num then
        { s with health := { h with clearingG := h.clearingG.erase num } }.modQuad (num / 768) (fun x => x.clearGranule (num % 768))
      else s
    else if h.clearing.contains num then
      { s with health := { h with clearing := h.clearing.erase num }, mem := s.mem.clearPlot num }
    else s)

end Sys2Proof.Machine
end

