-- ==== Sys2Proof/Machine/Exchange.lean ====
section
/-! DEFINITION. The exchange network: the moving of a copy's bytes and the end of a share (R230 to R257, R585, R553). -/

namespace Sys2Proof.Machine

/-! ## Carrying out the moves -/

/-- The last move to each byte, by destination column: key 4 * number + kind (R230, R242). -/
def groupMoves (ms : List ByteMove) : Table (List (Nat × Loc)) :=
  ms.foldl (fun t m =>
    tmod [] t (4 * m.dst.key + m.dst.kind) (fun l => l.filter (fun x => decide (x.1 ≠ m.dst.byte)) ++ [(m.dst.byte, m.src)])) []

/-- Columns and lines read by a share so far, by key 4 * number + kind. -/
abbrev Cache := Table (Option Column)

/-- Every source column of a bank is read once through the controller (R255); an uncorrectable one unsettles the lesson. -/
def State.fetchSource (h : Share) (q : Nat) (acc : Cache × State) (l : Loc) : Cache × State :=
  let key := 4 * l.key + l.kind
  if (tget none acc.1 key).isSome then acc
  else if l.kind = 0 then
    let r := acc.2.ctrlRead l.key
    let s := if r.1.ue then r.2.markUnsettled h.ctx q h.origin else r.2
    (tset none acc.1 key (some r.1), s)
  else if l.kind = 1 then
    let s := acc.2
    let c : Column := ⟨BitVec.ofNat 256 (leNat (s.stageBytes q (32 * l.key) 32)), s.stageMark q l.key, false⟩
    (tset none acc.1 key (some c), s)
  else acc

/-- Value and poison of a local source byte. -/
def State.byteOf (cache : Cache) (s : State) (l : Loc) : (Byte × Bool) × State :=
  if l.kind = 3 then ((BitVec.ofNat 8 l.byte, false), s)
  else if l.kind = 4 then let r := s.draw 8; ((r.1, false), r.2)
  else
    match tget none cache (4 * l.key + l.kind) with
    | some c => ((byteAt c.data l.byte, c.poison), s)
    | none => ((0, false), s)

/-- Bytes written to a bank column: whole, or merged into it by the controller (R57, R255). -/
def State.putColumn (s : State) (q c origin col : Nat) (bs : List (Nat × Byte)) (poison : Bool) : State :=
  if bs.length = 32 then
    s.ctrlWrite col ((List.range 32).map (fun i => ((bs.find? (fun x => x.1 = i)).map (·.2)).getD 0)) poison
  else
    let r := s.ctrlRead col
    let s := if r.1.ue then r.2.markUnsettled c q origin else r.2
    s.ctrlWrite col
      ((List.range 32).map (fun i => ((bs.find? (fun x => x.1 = i)).map (·.2)).getD (byteAt r.1.data i)))
      (poison || r.1.poison)

/-- Bytes written to a line of staging SRAM, with the rule for its mark (R585). -/
def State.putLine (s : State) (q line : Nat) (bs : List (Nat × Byte)) (poison : Bool) : State :=
  let s := bs.foldl (fun (s : State) x => s.setStage q (32 * line + x.1) [x.2]) s
  if poison then s.setMark q line true else if bs.length = 32 then s.setMark q line false else s

/-- A column of bytes, what is not given being a value the spec leaves open. -/
def lineOf (base : Line) (bs : List (Nat × Byte)) : Line :=
  BitVec.ofNat 256 (leNat ((List.range 32).map (fun i => ((bs.find? (fun x => x.1 = i)).map (·.2)).getD (byteAt base i))))

/-- Local bytes of one destination column: values and poison. -/
def State.localBytes (cache : Cache) (s : State) (bs : List (Nat × Loc)) : List (Nat × Byte) × Bool × State :=
  bs.foldl (fun acc x =>
    let r := State.byteOf cache acc.2.2 x.2
    (acc.1 ++ [(x.1, r.1.1)], acc.2.1 || r.1.2, r.2)) ([], false, s)

/-- A KV_WRITE frame for a remote request of a share (R447). -/
def State.sendWrite (s : State) (r : RemoteReq) : State :=
  s.sendTo r.module (.kvWrite r.tid r.index r.column [r.data] r.poison)

/-- The remote column behind a key. -/
def remoteModule (key : Nat) : Nat := key / 2 ^ 96
def remoteIndex (key : Nat) : Nat := key / 2 ^ 64 % 2 ^ 32
def remoteColumn (key : Nat) : Nat := key % 2 ^ 64

/-- One destination column of a share: local bytes are written now; an owner's column is sent once no byte of it waits
(R255, R257). -/
def State.putGroup (h : Share) (q : Nat) (tid : Nat) (cache : Cache) (s : State) (g : Nat × List (Nat × Loc)) : State :=
  let key := g.1 / 4
  let kind := g.1 % 4
  let own := g.2.filter (fun x => decide (x.2.kind ≠ 2))
  let r := State.localBytes cache s own
  let s := r.2.2
  if kind = 2 then
    let f := s.draw 256
    let need := g.2.length - own.length
    let req : RemoteReq :=
      { num := s.ring.reqIds, quad := q, share := h.id, write := true, module := remoteModule key, tid := tid,
        index := remoteIndex key, column := remoteColumn key, pad := 0, moves := [], data := lineOf f.1 r.1,
        poison := r.2.1, need := need, answered := none }
    let s := { f.2 with ring := { f.2.ring with requests := f.2.ring.requests ++ [req], reqIds := f.2.ring.reqIds + 1 } }
    if need = 0 then s.sendWrite req else s
  else if own.isEmpty then s
  else if kind = 1 then s.putLine q key r.1 r.2.1
  else s.putColumn q h.ctx h.origin key r.1 r.2.1

/-- A destination of a remote read: an outgoing column is named by the number of its request. -/
def State.targetOf (s : State) (q id : Nat) (key byte : Nat) : Loc :=
  if key % 4 = 2 then
    let k := key / 4
    let n := (s.ring.requests.find? (fun r => r.write && r.quad == q && r.share == id && r.module == remoteModule k &&
      r.index == remoteIndex k && r.column == remoteColumn k)).map (·.num)
    ⟨2, n.getD 0, byte⟩
  else ⟨key % 4, key / 4, byte⟩

/-- Reads of owners' columns: one request for each column, with the places its bytes go to (R257, R447). -/
def State.sendReads (s : State) (q : Nat) (h : Share) (src : Desc) (gs : Table (List (Nat × Loc))) : State :=
  let ms : List (Loc × Loc) := gs.flatMap (fun g => (g.2.filter (fun x => decide (x.2.kind = 2))).map (fun x => (x.2, s.targetOf q h.id g.1 x.1)))
  let keys := (ms.map (fun m => m.1.key)).eraseDups
  keys.foldl (fun (s : State) k =>
    let f := s.draw 256
    let o := 32 * (remoteColumn k % src.cols)
    let pad := lineOf f.1 (((List.range 32).filter (fun i => !src.isScale (o + i))).map
      (fun i => (i, BitVec.ofNat 8 (src.padAt (o + i)))))
    let req : RemoteReq :=
      { num := s.ring.reqIds, quad := q, share := h.id, write := false, module := remoteModule k, tid := src.ringTid,
        index := remoteIndex k, column := remoteColumn k, pad := pad,
        moves := (ms.filter (fun m => decide (m.1.key = k))).map (fun m => (m.1.byte, m.2)),
        data := 0, poison := false, need := 0, answered := none }
    let s := { f.2 with ring := { f.2.ring with requests := f.2.ring.requests ++ [req], reqIds := f.2.ring.reqIds + 1 } }
    s.sendTo req.module (.kvRead req.tid req.index req.column 1)) s

/-- Quadrants whose banks a share reads or writes. -/
def Share.quads (q : Nat) (h : Share) : List Nat :=
  q :: (List.range 4).filter (fun p => Nat.testBit (fld h.record 441 438) p)

/-- The bytes that a descriptor's data and pads can touch in a quadrant meet those of another: padded spans and boxes. -/
def Desc.padMeets (a b : Desc) : Bool :=
  let box := a.space == 1 || decide (a.stackLo ≤ b.stackHi ∧ b.stackLo ≤ a.stackHi ∧ a.dieLo ≤ b.dieHi ∧ b.dieLo ≤ a.dieHi ∧
    a.bankLo ≤ b.bankHi ∧ b.bankLo ≤ a.bankHi)
  a.space == b.space && box && decide (a.padded.1 < b.padded.2 ∧ b.padded.1 < a.padded.2)

/-- A share waits for an entry whose box meets one that another share holds. -/
def State.waitsForShare (s : State) (q : Nat) (y h : Share) : Bool :=
  (List.range 4).any (fun p =>
    let x := s.quad p
    x.sbWait.any (fun r => r.share = some (shareKey 0 q y.id) &&
      x.sb.any (fun e => e.2.overlaps (x.entry r.entry) && e.2.holders.any (fun k => k.1 = some (shareKey 0 q h.id)))))

/-- Another copy whose destination was granted to it before this one's has still to write bytes that this one's pads or data meet, its
remote reads among them: the one granted later writes last (R231). One that waits for an entry of this one cannot go first. -/
def State.outwaits (s : State) (q : Nat) (h : Share) : Bool :=
  (s.quad q).xq.any (fun y => decide (y.granted ≠ 0 ∧ y.granted < h.granted) &&
    (decide (y.phase = 2) || (decide (y.phase = 1) && !s.waitsForShare q y h) ||
      (decide (y.phase = 3) && s.ring.requests.any (fun r => !r.write && r.quad == q && r.share == y.id))) &&
    (s.desc y.ctx y.dst).padMeets (s.desc h.ctx h.dst))

/-- Columns of banks that a list of moves reads or writes. -/
def moveCols (ms : List ByteMove) : List Nat :=
  (ms.flatMap (fun m => [m.dst, m.src])).filterMap (fun l => if l.kind = 0 then some l.key else none) |>.eraseDups

/-- A share carries out its moves: it holds its entries, the transpose buffer if it transposes or else a place among the 8 that move
data, and no frequency change is in progress (R237, R239, R247, R357); a copy whose pads it meets has gone before (R231); while the
module is JOINING a share with remote parts waits (R553). -/
def State.ready (s : State) (q op : Nat) (h : Share) : Bool :=
  let x := s.quad q
  h.op == op && h.phase == 2 && (if h.transpose then x.tbuf == some h.id else decide (x.busy 0 < 8)) &&
    (Share.quads q h).all (fun p => !s.selfRefresh p) && !s.outwaits q h &&
    !(h.record.getLsbD 504 && s.ring.state == 1)

/-- The data movement of a share (R240 to R257): once it is ready, in beats that the timetable leaves to it (R251, R337). -/
def State.runShare (s : State) (q op id : Nat) : State :=
  match s.share 0 q id with
  | none => s
  | some h =>
    let dst := s.desc h.ctx h.dst
    let src := s.desc h.ctx h.src
    let m := s.moves q h
    if s.ready q op h = false ∨ s.reachAll (moveCols m.1) = false then s
    else
      let s := m.2.foldl (fun (s : State) b => s.modCtx h.ctx (fun x => x.noteLost b.1 (s.desc h.ctx b.1).ringTid b.2)) s
      let ms := if s.outOfRing then m.1.filter (fun x => decide (x.dst.kind ≠ 2 ∧ x.src.kind ≠ 2)) else m.1
      let gs := groupMoves ms
      let r := (gs.flatMap (fun g => g.2.map (·.2))).foldl (State.fetchSource h q) ([], s)
      let s := gs.foldl (State.putGroup h q dst.ringTid r.1) r.2
      let s := s.sendReads q h src gs
      let n := (s.ring.requests.filter (fun x => x.quad = q ∧ x.share = id)).length
      s.modShare 0 q id (fun h => { h with phase := 3, remote := n })

/-- COPY (R240, R243 to R250, R255). -/
def execCopy (q : Fin 4) (id : Nat) (s : State) : Host.Outcome State Fault Refusal := .next (s.runShare q 1 id)

/-- GATHER (R241). -/
def execGather (q : Fin 4) (id : Nat) (s : State) : Host.Outcome State Fault Refusal := .next (s.runShare q 2 id)

/-- SCATTER (R241, R242). -/
def execScatter (q : Fin 4) (id : Nat) (s : State) : Host.Outcome State Fault Refusal := .next (s.runShare q 3 id)

/-! ## The end of a share (R237, R238, R254) -/

/-- A share leaves its engine: its hoist, its entries, its place, the buffer, and the queued shares that may start. -/
def State.endShare (s : State) (engine q : Nat) (h : Share) (hoists : Bool) : State :=
  let s := if hoists then s.queueHoist q h.ctx h.binding h.amt 0 else s
  let s := s.releaseShare (shareKey engine q h.id)
  let s := s.modQuad q (fun x =>
    { x.setShares engine ((x.shares engine).filter (fun y => decide (y.id ≠ h.id))) with
      tbuf := if engine = 0 ∧ x.tbuf = some h.id then none else x.tbuf })
  s.startShares engine q 64

/-- COPY_SHARE_END (R254): with every byte written and every remote part acknowledged, the share hoists and releases. -/
def execCopyShareEnd (q : Fin 4) (id : Nat) (s : State) : Host.Outcome State Fault Refusal :=
  .next (match s.share 0 q id with
    | none => s
    | some h => if h.phase = 3 ∧ h.remote = 0 then s.endShare 0 q h h.penEn0 else s)

end Sys2Proof.Machine
end

