-- ==== Sys2Proof/Machine/Merge.lean ====
section
/-! DEFINITION. The merge engine: MERGE, TOPK, ROUTE, SAMPLE, the ring's fold and the end of a share (R259 to R290, R448). -/

namespace Sys2Proof.Machine

/-! ## Staging tensors by position (R208, R226, R269) -/

/-- Counts of a staging tensor: own storage in the owner dimension (R226). -/
def Desc.counts (d : Desc) : List Nat := d.size 0 :: d.outerDims.map d.localCount
def Desc.positions (d : Desc) : Nat := product d.counts
def Desc.elemBytes (d : Desc) : Nat := d.bits / 8
/-- Byte address of position p, dimension 0 fastest. -/
def Desc.posByte (d : Desc) (p : Nat) : Nat :=
  match digits d.counts p with
  | [] => d.base
  | i :: is => (d.outerDims.zip is).foldl (fun a x => a + x.2 * d.stride x.1) (d.base + i * d.elemBytes)

/-- A value read from a quadrant's instance, widened to FP32 from BF16, and its line's mark. -/
def State.readPos (s : State) (q : Nat) (d : Desc) (p : Nat) : Word32 × Bool :=
  let a := d.posByte p
  let x := leNat (s.stageBytes q a d.elemBytes)
  (if d.fmt = 6 then BitVec.ofNat 32 (x * 65536) else BitVec.ofNat 32 x, s.stageMark q (a / 32))

/-- A value as bytes of an element: BF16 is rounded by R86 (R276). -/
def Desc.encodeElem (d : Desc) (w : Word32) : List Byte :=
  if d.fmt = 6 then bytesOf 2 (encode16 none (decode32 w)) else bytesOf 4 w

/-- Positions written to a quadrant's instance, line by line (R585, R289). -/
def State.writePositions (s : State) (q : Nat) (d : Desc) (ps : List (Nat × Word32 × Bool)) : State :=
  let bytes := (ps.filter (fun x => decide (x.1 < d.positions))).flatMap (fun x =>
    (d.encodeElem x.2.1).zipIdx.map (fun b => (d.posByte x.1 + b.2, b.1, x.2.2)))
  let lines : Table (List (Nat × Byte) × Bool) := bytes.foldl (fun t b =>
    tmod ([], false) t (b.1 / 32) (fun l =>
      (l.1.filter (fun y => decide (y.1 ≠ b.1 % 32)) ++ [(b.1 % 32, b.2.1)], l.2 || b.2.2))) []
  lines.foldl (fun (s : State) l => s.putLine q l.1 l.2.1 l.2.2) s

/-- Every line of a tensor is marked poisoned (R289). -/
def State.poisonTensor (s : State) (q : Nat) (d : Desc) : State :=
  ((List.range d.positions).map (fun p => d.posByte p / 32)).eraseDups.foldl (fun (s : State) l => s.setMark q l true) s

/-! ## Combination (R268 to R272) -/

/-- Fields of the merge record (R267). -/
def Marg.roll (a : Nat) : Nat := a / 2 ^ 40 % 64
def Marg.count (a : Nat) : Nat := a / 2 ^ 16 % 2 ^ 24
def Marg.vdim (a : Nat) : Nat := a / 2 ^ 12 % 16
def Marg.acc (a : Nat) : Bool := a.testBit 11
def Marg.bsum (a : Nat) : Nat := a / 2 ^ 8 % 8
def Marg.final (a : Nat) : Bool := a.testBit 7
def Marg.ssum (a : Nat) : Bool := a.testBit 6
def Marg.scope (a : Nat) : Nat := a / 16 % 4
def Marg.lse (a : Nat) : Bool := a % 16 == 1
/-- Rows of a contribution: one in ADD mode, R = VDIM + 2 in LSE mode. -/
def Marg.rows (a : Nat) : Nat := if Marg.lse a then Marg.vdim a + 2 else 1

def isNan (w : Word32) : Bool := decide (decode32 w = .nan)
def isMinf (w : Word32) : Bool := decide (decode32 w = .inf true)
def isPinf (w : Word32) : Bool := decide (decode32 w = .inf false)

/-- The LSE merge of two contributions: words m, l, then the value accumulator (R270). -/
def lseMerge (a b : List Word32) : List Word32 :=
  let m1 := a.getD 0 0
  let m2 := b.getD 0 0
  let l1 := a.getD 1 0
  let l2 := b.getD 1 0
  let o1 := a.drop 2
  let o2 := b.drop 2
  if isNan m1 || isNan m2 then List.replicate a.length canonNan
  else if isMinf m1 && isMinf m2 then 0xFF800000#32 :: List.replicate (a.length - 1) 0
  else if isMinf m1 then b
  else if isMinf m2 then a
  else if isPinf m1 || isPinf m2 then
    if isPinf m1 && isPinf m2 then 0x7F800000#32 :: fadd l1 l2 :: List.zipWith fadd o1 o2
    else if isPinf m1 then a else b
  else
    let m := fmax m1 m2
    let a1 := mexp2 (fadd m1 (m ^^^ 0x80000000#32))
    let a2 := mexp2 (fadd m2 (m ^^^ 0x80000000#32))
    m :: fadd (fmul l1 a1) (fmul l2 a2) :: List.zipWith (fun x y => fadd (fmul x a1) (fmul y a2)) o1 o2

/-- Two contributions of one key combined. -/
def combine2 (lse : Bool) (a b : List Word32) : List Word32 := if lse then lseMerge a b else List.zipWith fadd a b

/-- A contribution of R rows of 8 lanes as words: in LSE mode m, l and the value accumulator (R269). -/
def contribution (lse : Bool) (rows : List (List Word32)) : List Word32 :=
  if lse then (rows.getD 0 []).take 2 ++ (rows.drop 1).flatMap id else rows.getD 0 []

/-- Contributions of one key, in the order given, folded. -/
def foldKey (lse : Bool) (cs : List MergeRow) (k : Nat) : MergeRow :=
  let here := cs.filter (fun c => decide (c.index = k))
  match here with
  | [] => ⟨k, [], false⟩
  | c :: rest => rest.foldl (fun a b => ⟨k, combine2 lse a.words b.words, a.poison || b.poison⟩) c

/-- All contributions combined by key, rising. -/
def combineAll (lse : Bool) (cs : List MergeRow) : List MergeRow :=
  let keys := sortBy (fun a b => decide (a ≤ b)) ((cs.map (·.index)).eraseDups)
  keys.map (foldKey lse cs)

/-- Row index of a key (R268, R269). -/
def keyIndex (a k stack bank : Nat) : Nat :=
  let ns := if Marg.ssum a then 1 else 5
  (k * ns + (if Marg.ssum a then 0 else stack)) * 2 ^ (5 - Marg.bsum a) + bank / 2 ^ Marg.bsum a

/-- Records of R issues of its stream that a share has taken whole: issues come in order. -/
def Share.records (h : Share) : Nat := h.taken.length / Marg.rows h.arg

/-- Contributions of the OUT issues taken by one share, for records lo to hi - 1 of R issues (R268, R269). -/
def Share.streamParts (h : Share) (lo hi : Nat) : List MergeRow :=
  let a := h.arg
  let r := Marg.rows a
  ((List.range hi).drop lo).flatMap (fun j =>
    let issue (i : Nat) := (h.taken.find? (fun o => decide (o.number = h.firstIssue + j * r + i)))
    match issue 0 with
    | none => []
    | some o => o.rows.map (fun row =>
        let rs := (List.range r).map (fun i => ((issue i).bind (fun o =>
          o.rows.find? (fun x => decide (x.stack = row.stack ∧ x.bank = row.bank)))))
        { index := keyIndex a j row.stack row.bank
          words := contribution (Marg.lse a) (rs.map (fun x => (x.map (·.lanes)).getD []))
          poison := rs.any (fun x => (x.map (·.poison)).getD false) }))

/-- Contributions of an instance of a tensor (R272): in ADD mode each position by itself, with the mark of its own line (R289); in LSE
mode records of R rows of 8 lanes. -/
def State.tensorParts (s : State) (q a : Nat) (d : Desc) : List MergeRow :=
  if Marg.lse a = false then
    (List.range d.positions).map (fun p => let x := s.readPos q d p; { index := p, words := [x.1], poison := x.2 })
  else
    let n := 8 * Marg.rows a
    (List.range (ceilDiv d.positions n)).map (fun j =>
      let xs := (span (n * j) (min (n * j + n) d.positions - 1)).map (fun p => s.readPos q d p)
      { index := j, words := contribution true (chunks 8 (Marg.rows a) (xs.map (·.1))), poison := xs.any (·.2) })

/-- Positions for each row of a result: 8 lanes, or one where positions are combined by themselves. -/
def Share.lanes (h : Share) : Nat := if h.stream || Marg.lse h.arg then 8 else 1

/-- A sum l of +0, a subnormal one among them (R75, R271). -/
def isPosZero (w : Word32) : Bool := decide (w.toNat < 2 ^ 23)

/-- The rows of 8 lanes that a combined key is written as (R269, R271): row numbers and lanes. -/
def finishRow (a : Nat) (r : MergeRow) : List MergeRow :=
  if Marg.lse a = false then [r]
  else
    let l := r.words.getD 1 0
    let o := r.words.drop 2
    if Marg.final a then
      let v := o.map (fun x => if isNan l then canonNan else if isPosZero l then 0 else fdiv x l)
      (chunks 8 (Marg.vdim a + 1) v).zipIdx.map (fun x => ⟨r.index * (Marg.vdim a + 1) + x.2, x.1, r.poison⟩)
    else
      let head := r.words.take 2 ++ List.replicate 6 0
      ((head :: chunks 8 (Marg.vdim a + 1) o)).zipIdx.map (fun x => ⟨r.index * (Marg.vdim a + 2) + x.2, x.1, r.poison⟩)

/-! ## Operations and their shares (R234, R264, R272, R273) -/

/-- SCOPE of a MERGE or a TOPK; ROUTE and SAMPLE work on each quadrant's instance alone. -/
def Share.scope (h : Share) : Nat :=
  if h.op = 1 then Marg.scope h.arg else if h.op = 2 then h.arg / 2 ^ 16 % 4 else 0

/-- The shares of an operation: one for each quadrant of the span, with its quadrant. -/
def State.group (s : State) (c nth : Nat) : List (Nat × Share) :=
  (bitsSet (s.ctx c).span).filterMap (fun q =>
    ((s.quad q).mq.find? (fun h => h.ctx = c ∧ h.nth = nth)).map (fun h => (q, h)))

/-- A share has what it needs of its own: its entries, and for a stream every OUT issue it consumes. -/
def Share.supplied (h : Share) : Bool :=
  h.phase == 2 && (!(h.stream && h.op == 1) || h.taken.length == Marg.count h.arg)

/-- The shares whose contributions are combined with a share's: its own, or all of the span's; none while some is not
supplied. -/
def State.team (s : State) (q : Nat) (h : Share) : Option (List (Nat × Share)) :=
  if h.scope = 0 then (if h.supplied then some [(q, h)] else none)
  else
    let g := s.group h.ctx h.nth
    if g.length = (bitsSet (s.ctx h.ctx).span).length ∧ g.all (fun x => x.2.supplied) then some g else none

/-- A result becomes known to the shares of an operation. -/
def State.giveResult (s : State) (g : List (Nat × Share)) (rows : List MergeRow) (ringing : Bool) : State :=
  g.foldl (fun (s : State) x => s.modShare 1 x.1 x.2.id (fun h => { h with result := some rows, ringing := ringing })) s

def poisonRows (rows : List MergeRow) : List MergeRow := rows.map (fun r => { r with poison := true })

/-! ## The top-k selector (R279 to R282) -/

def Targ.k (a : Nat) : Nat := a % 2 ^ 13
def Targ.roll (a : Nat) : Nat := a / 2 ^ 18 % 64
def Targ.pairs (a : Nat) : Bool := a.testBit 44

/-- Rank class of a score: NaN, +infinity, finite, -infinity (R281). -/
def rankClass (w : Word32) : Nat :=
  match decode32 w with
  | .nan => 0
  | .inf false => 1
  | .fin _ _ _ => 2
  | .inf true => 3

/-- A candidate (label, score) ranks before another or equal to it (R281). -/
def ranksBefore (a b : Word32 × Word32) : Bool :=
  let x := rankClass a.2
  let y := rankClass b.2
  if x ≠ y then decide (x < y)
  else if x = 2 ∧ veq (decode32 a.2) (decode32 b.2) = false then vlt (decode32 b.2) (decode32 a.2)
  else decide (a.1.toNat ≤ b.1.toNat)

/-- The first K candidates in rank order. -/
def topK (k : Nat) (cs : List (Word32 × Word32)) : List (Word32 × Word32) := (sortBy ranksBefore cs).take k

/-- Label and score words of a selection, and back. -/
def pairWords (cs : List (Word32 × Word32)) : List Word32 := cs.flatMap (fun c => [c.1, c.2])
def wordPairs (ws : List Word32) : List (Word32 × Word32) :=
  (chunks 2 ws.length ws).map (fun c => (c.getD 0 0, c.getD 1 0))

/-- Selections of a scores tensor: one for each index of dimension 1. -/
def Desc.selections (d : Desc) : Nat := if d.rank ≤ 1 then 1 else d.localCount 1

/-- Candidates of selection n in one quadrant, of rank r within the span, and whether a poisoned line was read; a poisoned
score counts as NaN (R280, R289). -/
def State.candidates (s : State) (q r : Nat) (h : Share) (n : Nat) : List (Word32 × Word32) × Bool :=
  let d := s.desc h.ctx h.src
  let labels := s.desc h.ctx h.aux
  let xs := (List.range (d.size 0)).map (fun i =>
    let v := s.readPos q d (n * d.size 0 + i)
    let l := if h.aux = 0xFFF then (BitVec.ofNat 32 (i + r * d.size 0), false) else s.readPos q labels i
    ((l.1, if v.2 then canonNan else v.1), v.2 || l.2))
  ((xs.map (·.1)).filter (fun c => decide (c.1 ≠ 0xFFFFFFFF#32)), xs.any (·.2))

/-- The top-k of the shares of an operation: one row of pairs for each selection. -/
def State.selectAll (s : State) (g : List (Nat × Share)) (h : Share) : List MergeRow :=
  let d := s.desc h.ctx h.src
  (List.range d.selections).map (fun n =>
    let cs := g.zipIdx.map (fun x => s.candidates x.1.1 (if h.scope = 0 then 0 else x.2) x.1.2 n)
    ⟨n, pairWords (topK (Targ.k h.arg) (cs.flatMap (·.1))), cs.any (·.2)⟩)

/-! ## The ring's fold (R274, R275, R448) -/

/-- Rows of two participants combined: by key, or the top-k of the union. -/
def foldRows (h : Share) (a b : List MergeRow) : List MergeRow :=
  if h.op = 1 then combineAll (Marg.lse h.arg) (a ++ b)
  else a.map (fun x =>
    match b.find? (fun y => decide (y.index = x.index)) with
    | some y => ⟨x.index, pairWords (topK (Targ.k h.arg) (wordPairs x.words ++ wordPairs y.words)), x.poison || y.poison⟩
    | none => x)

/-- Rows as the frames of an operation carry them, word after word: index, mark, number of words, words (log 26). -/
def rowsOut (rows : List MergeRow) : List Word32 :=
  rows.flatMap (fun r => BitVec.ofNat 32 r.index :: (if r.poison then 1 else 0) :: BitVec.ofNat 32 r.words.length :: r.words)

/-- The rows in the words of an operation's frames; the number bounds the rows. -/
def rowsFrom : Nat → List Word32 → List MergeRow
  | 0, _ => []
  | n + 1, ws =>
    match ws with
    | i :: p :: k :: rest => ⟨i.toNat, rest.take k.toNat, decide (p ≠ 0)⟩ :: rowsFrom n (rest.drop k.toNat)
    | _ => []
def rowsIn (ws : List Word32) : List MergeRow := rowsFrom ws.length ws

/-- The frames of an operation: 56 words each with their offset in bytes, and which is the last (R418, R419). -/
def fragments (ws : List Word32) : List (Nat × List Word32 × Bool) :=
  (List.range (max 1 (ceilDiv ws.length 56))).map (fun i => (224 * i, (ws.drop (56 * i)).take 56, decide (56 * (i + 1) ≥ ws.length)))

/-- A frame's words join those received before; an offset of 0 begins anew, and any other has to be the next. -/
def RingMerge.hear (m : RingMerge) (off : Nat) (ws : List Word32) : RingMerge :=
  if off = 0 then { m with heard := ws } else if off = 4 * m.heard.length then { m with heard := m.heard ++ ws } else m

/-- Participants of a ring roll call in ring order eastward from the home (R274, R448). -/
def State.foldOrder (s : State) (mask : BitVec 64) : List Nat :=
  let ms := (s.ring.roster.filter (fun e => mask.getLsbD e.pos)).map (fun e => e.ident.toNat)
  match (s.membersOf mask).head? with
  | some h => ms.dropWhile (fun m => decide (m ≠ h.ident.toNat)) ++ ms.takeWhile (fun m => decide (m ≠ h.ident.toNat))
  | none => ms

/-- This module is the home of a fold (R274, R319). -/
def State.isHome (s : State) (mask : BitVec 64) : Bool :=
  ((s.membersOf mask).head?).any (fun e => e.ident.toNat == s.ring.moduleId.toNat)

/-- The participant after this module in the fold. -/
def State.nextInFold (s : State) (mask : BitVec 64) : Option Nat :=
  ((s.foldOrder mask).dropWhile (fun m => decide (m ≠ s.ring.moduleId.toNat))).drop 1 |>.head?

def State.dropMerge (s : State) (m : RingMerge) : State :=
  { s with ring := { s.ring with merges := s.ring.merges.filter (fun x => !(x.ctx == m.ctx && x.nth == m.nth)) } }

/-- An operation's entry takes the place of the one it had. -/
def State.keepMerge (s : State) (m : RingMerge) : State :=
  { s with ring := { s.ring with merges := s.ring.merges.map (fun x => if x.ctx = m.ctx ∧ x.nth = m.nth then m else x) } }

/-- The result of a SCOPE 2 operation is known here; a poisoned one is poisoned in every line (R275). -/
def State.finishMerge (s : State) (m : RingMerge) (rows : List MergeRow) : State :=
  (s.dropMerge m).giveResult (s.group m.ctx m.nth) (if m.poison then poisonRows rows else rows) false

/-- The fold passes this module, whose own rows are added to those that arrived; an abandoned operation adds nothing and poisons
the whole result (R275, R448). Rows carry their own marks, so that only what a poisoned row contributes to is marked (R289). -/
def State.passFold (s : State) (m : RingMerge) (part : Option (List MergeRow)) : State :=
  let own := if m.poison then poisonRows m.rows else m.rows
  let rows := match part, s.group m.ctx m.nth with
    | some (p :: ps), g :: _ => foldRows g.2 (p :: ps) own
    | some (p :: ps), [] => p :: ps
    | _, _ => own
  let frames := fragments (rowsOut rows)
  match s.nextInFold m.mask with
  | some next => frames.foldl (fun (s : State) f =>
      s.sendTo next (.mergePart m.rid (BitVec.ofNat 32 m.round) f.1 f.2.1 f.2.2 m.poison)) s
  | none =>
    let s := if (s.foldOrder m.mask).length ≤ 1 then s
      else frames.foldl (fun (s : State) f =>
        s.broadcast (.mergeResult m.rid (BitVec.ofNat 32 m.round) f.1 f.2.1 f.2.2 m.poison)) s
    s.finishMerge m rows

/-- The entry of an operation of which nothing here takes part any more: it adds nothing and poisons the result; the fold passes it on
(R275). Its key is no context's. -/
def deadMerge (num round : Nat) (rid : BitVec 16) (mask : BitVec 64) (released : Bool) : RingMerge :=
  ⟨num, round, rid, mask, 32, num + 64 * round, [], true, released, none, []⟩

/-- An operation has come to an end here, and the ring's fold of its round has still to pass: a dead entry stands in for it (R275). -/
def State.leaveMerge (s : State) (m : RingMerge) : State :=
  if m.mask = 0 ∨ s.outOfRing then s
  else
    let d := { deadMerge m.num m.round m.rid m.mask m.released with part := m.part }
    { s with ring := { s.ring with merges := s.ring.merges ++ [d] } }

/-- The operations of a context that ends are abandoned: each leaves an entry that contributes nothing (R275, R290). -/
def State.abandonMerges (s : State) (c : Nat) : State :=
  { s with ring := { s.ring with merges := s.ring.merges.map (fun m =>
    if m.ctx = c then { m with ctx := 16 + c, rows := [], poison := true } else m) } }

/-- The round of a waiting operation has been released here: the home begins the fold, another participant goes on with what has
arrived; a module without the ring has its own result alone (R274, R275, R448, R553). -/
def State.releaseMerge (s : State) (m : RingMerge) (poisoned : Bool) : State :=
  let m := { m with released := true, poison := m.poison || poisoned }
  let s := s.keepMerge m
  let r := s.rollCall m.num
  if r.ring = false ∨ s.outOfRing then s.finishMerge m m.rows
  else if s.isHome m.mask then s.passFold m none
  else
    match m.part with
    | some p => s.passFold m (some p)
    | none => s

/-- A round is released with its waiting SCOPE 2 operations (R274, R321). -/
def State.releaseFold (s : State) (num : Nat) (poisoned : Bool) : State :=
  let n := (s.rollCall num).round.toNat
  let s := s.releaseRound num poisoned
  (s.ring.merges.filter (fun m => m.num = num ∧ m.round = n ∧ m.released = false)).foldl
    (fun (s : State) m => s.releaseMerge m poisoned) s

/-- A roll call on a bell releases its round, at most one on a bell (R318, R319, R321). The ring's part in a round goes on when the roll
call here is at half-mast (log 96). -/
def State.bellRoll (s : State) (num t : Nat) : State :=
  let r := s.rollCall num
  if (r.st ≠ 1 ∧ ¬ (r.st = 2 ∧ r.ring = true)) ∨ r.releasedAt = some t then s
  else
    let due : Bool := if r.ring then (match r.release with
        | some b => decide (b ≤ t)
        | none => false)
      else r.complete && (match r.completeAt with
        | some u => decide (u ≤ t)
        | none => true)
    if due then
      let s := s.releaseFold num r.poisonNext
      if r.ring ∧ r.st = 1 then s.reportArrival num else s
    else s

/-- After an arrival while a bell rings: what it completes is released on that bell (R318, R319). -/
def State.meetBell (s : State) : State :=
  if s.onBell then (List.range 64).foldl (fun (s : State) r => s.bellRoll r s.ring.timebase) s else s

/-- After a member has left the ring, the home begins again the folds that pass it and are not complete: a part may have been lost with it
(R275). -/
def State.refold (s : State) (p : RollCall → Bool) : State :=
  (s.ring.merges.filter (fun m => m.released && p (s.rollCall m.num) && s.isHome m.mask)).foldl
    (fun (s : State) m => s.passFold m none) s

/-- Every SCOPE 2 operation in progress whose roll call satisfies a test has a poisoned result (R275, R330). -/
def State.poisonMerges (s : State) (p : RollCall → Bool) : State :=
  { s with ring := { s.ring with merges := s.ring.merges.map (fun m =>
    if p (s.rollCall m.num) then { m with poison := true } else m) } }

/-- A module that is ALONE or FENCED completes its ring operations with its own share, poisoned (R553). -/
def State.aloneMerges (s : State) : State :=
  (s.ring.merges.filter (fun m => (s.rollCall m.num).ring)).foldl
    (fun (s : State) m => s.finishMerge { m with poison := true } m.rows) s

/-- Launches of SCOPE 2 of a context that have not come to their roll call: their handles, once for each operation (R267, R274). -/
def State.unarrived (s : State) (c : Nat) : List Nat :=
  let ops := (List.range 4).flatMap (fun q => ((s.quad q).mq.filter (fun h =>
    decide (h.ctx = c ∧ h.scope = 2 ∧ (h.op = 1 ∨ h.op = 2)) && h.result.isNone)).map (fun h =>
      (h.nth, if h.op = 1 then Marg.roll h.arg else Targ.roll h.arg)))
  ops.dedup.map (·.2)

/-- The merge engines arrive for an operation that will never come: it contributes nothing, and what waits at the roll call is released
(R275; log 96). -/
def State.arriveDead (s : State) (c handle : Nat) : State :=
  let e := s.rollHandle c handle
  let r := s.rollCall e.num.toNat
  if e.bound = false ∨ e.dead = true ∨ r.st ≠ 1 ∨ (r.ring = true ∧ s.inRing = false) then s
  else
    let a := s.arriveEngine e.num.toNat 17
    match a.2 with
    | .recorded n =>
      if r.ring then
        { a.1 with ring := { a.1.ring with merges := a.1.ring.merges ++ [deadMerge e.num.toNat n r.rid r.ringMask false] } }
      else a.1
    | _ => a.1

/-- A SCOPE 2 operation whose span's combination is complete arrives at its roll call (R274); with the handle unbound, a dead
roll call or the module out of its ring its own share is the result, poisoned (R275, R322, R553). While the module is JOINING
it waits (R553). -/
def State.arriveMerge (s : State) (h : Share) (g : List (Nat × Share)) (handle : Nat) (rows : List MergeRow) : State :=
  let e := s.rollHandle h.ctx handle
  let r := s.rollCall e.num.toNat
  if e.bound = false ∨ e.dead = true ∨ r.st ≠ 1 ∨ (r.ring = true ∧ s.outOfRing = true) then
    let s := if e.bound = true ∧ e.dead = false ∧ r.st = 1 then s.ringRollAlone e.num.toNat else s
    s.giveResult g (poisonRows rows) false
  else if r.ring = true ∧ s.ring.state = 1 then s
  else
    let s := s.giveResult g rows true
    let a := s.arriveEngine e.num.toNat 17
    let add (n : Nat) : State :=
      { a.1 with ring := { a.1.ring with merges := a.1.ring.merges ++ [⟨e.num.toNat, n, r.rid, if r.ring then r.ringMask else 0, h.ctx, h.nth, rows, false, false, none, []⟩] } }
    match a.2 with
    | .recorded n => (add n).meetBell
    | .outsider => add r.round.toNat
    | .held => a.1

/-! ## Writing a result -/

/-- A poisoned result reaches the lesson (R174, R289). -/
def State.poisonNote (s : State) (q : Nat) (h : Share) (bad : Bool) : State :=
  if bad then s.markUnsettled h.ctx q h.origin else s

/-- A share has written its destination. -/
def State.written (s : State) (q id : Nat) : State := s.modShare 1 q id (fun h => { h with phase := 3 })

/-- Combined rows of a MERGE are written to a quadrant's instance (R269, R271). -/
def State.putRows (s : State) (q : Nat) (h : Share) (rows : List MergeRow) : State :=
  let d := s.desc h.ctx h.dst
  let ps := (rows.flatMap (finishRow h.arg)).flatMap (fun r =>
    r.words.zipIdx.map (fun w => (h.lanes * r.index + w.2, w.1, r.poison)))
  (s.writePositions q d ps).poisonNote q h (rows.any (·.poison))

/-- The whole result of a MERGE is written. -/
def State.writeMerge (s : State) (q : Nat) (h : Share) (rows : List MergeRow) : State := (s.putRows q h rows).written q h.id

/-- Selections of a TOPK are written, short ones filled (R282); with a poisoned one every line is poisoned (R289). -/
def State.writeTopk (s : State) (q : Nat) (h : Share) (rows : List MergeRow) : State :=
  let d := s.desc h.ctx h.dst
  let k := Targ.k h.arg
  let bad := rows.any (·.poison)
  let ps := rows.flatMap (fun r =>
    let cs := wordPairs r.words
    let full := cs ++ List.replicate (k - cs.length) (0xFFFFFFFF#32, 0xFF800000#32)
    if Targ.pairs h.arg then (pairWords full).zipIdx.map (fun w => (r.index * d.size 0 + w.2, w.1, bad))
    else full.zipIdx.map (fun w => (r.index * k + w.2, w.1.1, bad)))
  let s := s.writePositions q d ps
  let s := if bad then s.poisonTensor q d else s
  (s.poisonNote q h bad).written q h.id

/-! ## Meanings -/

/-- OUT issues of the share's stream that the engine holds are taken (R260, R263). -/
def State.takeIssues (s : State) (q : Nat) (h : Share) : State :=
  if h.stream = false ∨ h.phase ≠ 2 then s
  else
    let mine (o : OutIssue) : Bool := o.ctx == h.ctx && o.tag == h.tag && decide (h.firstIssue ≤ o.number) &&
      decide (o.number < h.firstIssue + Marg.count h.arg)
    let x := s.quad q
    let s := s.setQuad q { x with outs := x.outs.filter (fun o => !mine o) }
    s.modShare 1 q h.id (fun h => { h with taken := h.taken ++ x.outs.filter mine })

/-- The combination of a MERGE over its shares, of a stream for records lo to hi - 1: contributions in a free order, the old contents once
with ACC (R90, R268 to R272). `old` tells whether this module is where the fold begins. -/
def State.combineShares (s : State) (h : Share) (g : List (Nat × Share)) (old : Bool) (lo hi : Nat) : List MergeRow :=
  let a := h.arg
  let parts := g.flatMap (fun x => if h.stream then x.2.streamParts lo hi else s.tensorParts x.1 a (s.desc h.ctx h.src))
  let kept := if Marg.acc a && !h.stream && old then
      (match g with
       | x :: _ => s.tensorParts x.1 a (s.desc h.ctx h.dst)
       | [] => [])
    else []
  combineAll (Marg.lse a) (freeOrder s.free (parts ++ kept))

/-- This module is where the ring fold of an operation begins (R272, R274). -/
def State.beginsFold (s : State) (h : Share) (handle : Nat) : Bool :=
  if h.scope = 2 then
    let r := s.rollCall (s.rollHandle h.ctx handle).num.toNat
    !r.ring || s.outOfRing || s.homeOf r == some s.ring.moduleId.toNat
  else true

/-- The shares at work in the scope of a share of one module: its own, or all of the span's. -/
def State.crew (s : State) (q : Nat) (h : Share) : Option (List (Nat × Share)) :=
  if h.scope = 0 then some [(q, h)]
  else
    let g := s.group h.ctx h.nth
    if g.length = (bitsSet (s.ctx h.ctx).span).length ∧ g.all (fun x => x.2.phase == 2) then some g else none

/-- Rows become known to the shares of a scope, up to a record. -/
def State.addRows (s : State) (g : List (Nat × Share)) (rows : List MergeRow) (n : Nat) : State :=
  g.foldl (fun (s : State) x => s.modShare 1 x.1 x.2.id (fun h =>
    { h with result := some (h.result.getD [] ++ rows), combined := n })) s

/-- The records of a stream of which every contribution has arrived are combined (R268, R269). -/
def State.combineReady (s : State) (q : Nat) (h : Share) : State :=
  match s.crew q h with
  | none => s
  | some g =>
    let n := g.foldl (fun n x => min n x.2.records) h.records
    if n ≤ h.combined then s
    else { s with free := s.free + 2 ^ 32 }.addRows g (s.combineShares h g true h.combined n) n

/-- The rows of a share that are known and not yet written are (R269); with the last record the destination is written. -/
def State.writeReady (s : State) (q id : Nat) : State :=
  match s.share 1 q id with
  | none => s
  | some h =>
    let rows := h.result.getD []
    let s := (s.putRows q h (rows.drop h.wrote)).modShare 1 q id (fun h => { h with wrote := rows.length })
    if h.combined * Marg.rows h.arg ≥ Marg.count h.arg then s.written q id else s

/-- MERGE (R260, R263, R267 to R275): the share takes the issues held for it. A stream combined in one module is written record by record
as its contributions arrive (R269); otherwise, once every contribution of its scope is there the combination is made, and it is
written, for SCOPE 2 when the ring's result is known. -/
def State.runMerge (s : State) (q : Nat) (h : Share) : State :=
  if h.stream ∧ h.scope ≠ 2 then (s.combineReady q h).writeReady q h.id
  else
    match h.result with
    | some rows => if h.ringing then s else s.writeMerge q h rows
    | none =>
      match s.team q h with
      | none => s
      | some g =>
        let rows := s.combineShares h g (s.beginsFold h (Marg.roll h.arg)) 0 (Marg.count h.arg / Marg.rows h.arg)
        let s := { s with free := s.free + 2 ^ 32 }
        if h.scope = 2 then s.arriveMerge h g (Marg.roll h.arg) rows
        else (s.giveResult g rows false).writeMerge q h rows

def execMerge (q : Fin 4) (id : Nat) (s : State) : Host.Outcome State Fault Refusal :=
  .next (match s.share 1 q id with
    | none => s
    | some h =>
      if h.op ≠ 1 ∨ h.phase ≠ 2 then s
      else
        let s := s.takeIssues q h
        match s.share 1 q id with
        | none => s
        | some h => s.runMerge q h)

/-- TOPK (R279 to R282, R274, R289). -/
def execTopk (q : Fin 4) (id : Nat) (s : State) : Host.Outcome State Fault Refusal :=
  .next (match s.share 1 q id with
    | none => s
    | some h =>
      if h.op ≠ 2 ∨ h.phase ≠ 2 then s
      else
        match h.result with
        | some rows => if h.ringing then s else s.writeTopk q h rows
        | none =>
          match s.team q h with
          | none => s
          | some g =>
            let rows := s.selectAll g h
            if h.scope = 2 then s.arriveMerge h g (Targ.roll h.arg) rows
            else (s.giveResult g rows false).writeTopk q h rows)

/-! ### ROUTE (R283, R284) -/

/-- Softmax weights of scores in FP32, exponentials summed in a free order (log 27). -/
def softmax (base : Nat) (xs : List Word32) : List Word32 :=
  let m := xs.foldl fmax (xs.headD 0)
  let es := xs.map (fun x => mexp2 (fmul (fadd x (m ^^^ 0x80000000#32)) log2e))
  let sum := match freeOrder base es with
    | [] => 0
    | e :: rest => rest.foldl fadd e
  es.map (fun e => fdiv e sum)

/-- One token's selection: experts in rank order with their gate weights. -/
def routeToken (base ke : Nat) (norm : Bool) (scores : List Word32) : List (Nat × Word32) :=
  let cs := scores.zipIdx.map (fun x => (BitVec.ofNat 32 x.2, x.1))
  let sel := topK ke cs
  let all := softmax base scores
  let some_ := softmax base (sel.map (·.2))
  sel.zipIdx.map (fun x => (x.1.1.toNat, if norm then all.getD x.1.1.toNat 0 else some_.getD x.2 0))

/-- ROUTE: the distinct experts of all tokens, ascending, and the gate weights of each token. -/
def execRoute (q : Fin 4) (id : Nat) (s : State) : Host.Outcome State Fault Refusal :=
  .next (match s.share 1 q id with
    | none => s
    | some h =>
      if h.op ≠ 4 ∨ h.phase ≠ 2 then s
      else
        let src := s.desc h.ctx h.src
        let dst := s.desc h.ctx h.dst
        let ke := h.arg % 16
        let norm := h.arg.testBit 4
        let n := src.size 0
        let read := (List.range (n * src.selections)).map (fun p => s.readPos q src p)
        let bad := read.any (·.2)
        let scores := read.map (fun v => if v.2 then canonNan else v.1)
        let free := s.free
        let s := { s with free := s.free + 2 ^ 20 * src.selections }
        let toks := (chunks n src.selections scores).zipIdx.map (fun x => routeToken (free + 2 ^ 20 * x.2) ke norm x.1)
        let a := sortBy (fun x y => decide (x ≤ y)) ((toks.flatMap (fun t => t.map (·.1))).eraseDups)
        let list := a.map (fun e => BitVec.ofNat 32 e) ++ List.replicate (dst.positions - a.length) 0xFFFFFFFF#32
        let s := s.writePositions q dst (list.zipIdx.map (fun x => (x.2, x.1, bad)))
        let s := if bad then s.poisonTensor q dst else s
        let s := if h.aux = 0xFFF then s
          else
            let w := s.desc h.ctx h.aux
            let ps := toks.zipIdx.flatMap (fun t => (list.zipIdx.map (fun e =>
              (e.2 * w.size 0 + t.2, ((t.1.find? (fun x => decide (x.1 = e.1.toNat))).map (·.2)).getD 0, bad))))
            let s := s.writePositions q w ps
            if bad then s.poisonTensor q w else s
        (s.poisonNote q h bad).written q h.id)

/-! ### SAMPLE (R285 to R287) -/

/-- First index whose element satisfies a test, below a bound; the bound less 1 if there is none. -/
def firstIx (p : Nat → Bool) (n : Nat) : Nat := ((List.range n).find? p).getD (n - 1)

/-- The label drawn for one sequence from its candidates, which it takes in rank order: record, candidates, draw (R286). -/
def sampleOne (a : Nat) (cs : List (Word32 × Word32)) (draw : Nat) : Word32 :=
  let cs := sortBy ranksBefore (cs.filter (fun c => decide (c.1 ≠ 0xFFFFFFFF#32)))
  let topk := a / 2 ^ 32 % 2 ^ 13
  let cs := if topk = 0 then cs else cs.take topk
  let t : Word32 := BitVec.ofNat 32 (a % 65536 * 65536)
  let c0 := (cs.headD (0, 0)).2
  if cs.isEmpty || cs.any (fun c => isNan c.2) || isMinf c0 then 0xFFFFFFFF#32
  else if decide (decode32 t = .fin false 0 0 ∨ t &&& 0x7FFFFFFF#32 = 0) then (cs.headD (0, 0)).1
  else
    let w := cs.map (fun c =>
      if isPinf c0 then (if isPinf c.2 then 0x3F800000#32 else 0)
      else mexp2 (fdiv (fmul (fadd c.2 (c0 ^^^ 0x80000000#32)) log2e) t))
    let sums := (w.foldl (fun acc x =>
      match acc.getLast? with
      | none => [x]
      | some y => acc ++ [fadd y x]) [])
    let at_ (i : Nat) : Val := decode32 (sums.getD i 0)
    let n := sums.length
    let p : Val := .fin false (a / 65536 % 65536 + 1) (-16)
    let m := firstIx (fun i => !vlt (at_ i) (vmul p (at_ (n - 1)))) n + 1
    let u : Val := .fin false draw (-32)
    (cs.getD (firstIx (fun i => vlt (vmul u (at_ (m - 1))) (at_ i)) m) (0, 0)).1

/-- The draws of a launch, one for each sequence, the same for every share: from K7 or from the random source (R287). They are kept with
the context's lesson, for the shares of quadrants that launch later. -/
def State.draws (s : State) (h : Share) (n : Nat) : List Nat :=
  match tget none ((s.ctx h.ctx).draws.map (fun p => (p.1, some p.2))) h.nth with
  | some ds => ds
  | none =>
    if h.arg.testBit 45 then
      (List.range n).map (fun i => leNat ((sha3 (bytesOf 8 h.k7 ++ toLe 4 i)).take 4))
    else (List.range n).map (fun i => Config.freeNat (s.free + i) % 2 ^ 32)

/-- SAMPLE: one label for each sequence of the candidate tensor. -/
def execSample (q : Fin 4) (id : Nat) (s : State) : Host.Outcome State Fault Refusal :=
  .next (match s.share 1 q id with
    | none => s
    | some h =>
      if h.op ≠ 3 ∨ h.phase ≠ 2 then s
      else
        let src := s.desc h.ctx h.src
        let dst := s.desc h.ctx h.dst
        let n := src.selections
        let ds := s.draws h n
        let s := { s with free := s.free + n }.modCtx h.ctx (fun x => { x with draws := tset [] x.draws h.nth ds })
        let read := (List.range (src.size 0 * n)).map (fun p => s.readPos q src p)
        let bad := read.any (·.2)
        let words := read.map (·.1)
        let ls := (chunks (src.size 0) n words).zipIdx.map (fun x =>
          (x.2, sampleOne h.arg ((wordPairs x.1).zipIdx.map (fun c =>
            if (read.getD (x.2 * src.size 0 + 2 * c.2 + 1) (0, false)).2 then (c.1.1, canonNan) else c.1))
            (ds.getD x.2 0), bad))
        let s := s.writePositions q dst ls
        let s := if bad then s.poisonTensor q dst else s
        (s.poisonNote q h bad).written q h.id)

/-- MERGE_SHARE_END (R288): with its destination written, the share hoists and releases its entries. -/
def execMergeShareEnd (q : Fin 4) (id : Nat) (s : State) : Host.Outcome State Fault Refusal :=
  .next (match s.share 1 q id with
    | none => s
    | some h => if h.phase = 3 then s.endShare 1 q h h.penEn1 else s)

end Sys2Proof.Machine
end

