-- ==== Sys2Proof/Machine/Slate.lean ====
section
/-! DEFINITION. CXL.mem accesses: panes, the full map, deferral, waiting, the slate hold (R189, R339 to R342, R357,
R365 to R380). -/

namespace Sys2Proof.Machine

/-! ## Panes (R369 to R374) -/

def State.pane (s : State) (p : Nat) : Word64 := tget 0 s.host.panes p
def Pane.valid (e : Word64) : Bool := e.getLsbD 63
def Pane.view (e : Word64) : Bool := e.getLsbD 62
def Pane.check (e : Word64) : Bool := e.getLsbD 61
def Pane.ctx (e : Word64) : Nat := fld e 60 57
def Pane.base (e : Word64) : Nat := fld e 40 0

/-- A pane entry that a write may set (R371). -/
def Pane.allowed (unchecked : Bool) (e : Word64) : Bool :=
  let b := Pane.base e
  fld e 56 41 == 0 && (Pane.check e || unchecked) &&
    (if Pane.view e then decide (b % 32 = 0 ∧ b + 0x1FFFFF ≤ 2 ^ 41 - 1)
     else decide (b % 4096 = 0 ∧ b ≤ 0x13FFFE00000))

/-- Bank-view address of an access through a pane at an offset in it (R370). -/
def Pane.translate (e : Word64) (o : Nat) : Nat :=
  if Pane.view e then (Pane.base e + o) % 2 ^ 41 else flatToBank (Pane.base e + o)

/-- The plot of an address lies in a bank-view allocation of a context, outside its holes (R196, R373). -/
def State.inAllocation (s : State) (c addr : Nat) : Bool :=
  let p := addr / 65536
  (s.ctx c).allocs.any (fun a => a.2.holdsPlot p) && !s.health.retired.contains p

/-- No column of an access lies outside the module's stacks (R14). -/
def Access.exists_ (a : Access) : Bool := a.cols.all (fun c => decide (stackOf (bankOfCol c) < 20))

/-! ## Serving an access (R339, R375) -/

/-- Both columns' earlier writes complete and their row is reached; then the access is carried out (R339, R342, R375). -/
def State.serve (s : State) (a : Access) : State :=
  (a.cols.foldl (fun (s : State) c => (s.settleColumn c).touchRow (bankOfCol c) (rowOfCol c)) s).carry a

/-- An access of a slate hold: what is queued at the stack beside it goes in its own turn (R340, R342). -/
def State.serveHeld (s : State) (a : Access) : State :=
  (a.cols.foldl (fun (s : State) c => (s.settleOwn c).touchRow (bankOfCol c) (rowOfCol c)) s).carry a

/-! ## Waiting (R340, R357, R377) -/

/-- An access finds no row it may reach, or its stacks in self-refresh (R337 to R340, R357). -/
def State.busyFor (s : State) (a : Access) : Bool := !s.reachAll a.cols

/-- Every write that has reached the module and is not yet in the array; one without a credit is behind every access that has one. -/
def State.waitingWrites (s : State) : List Access :=
  let q := (List.range 20).flatMap (fun st => (s.stack st).slateQ)
  (s.host.deferred ++ s.host.inFlight ++ q).filter (fun a => a.wr.isSome)

/-- A read waits behind the writes that reached the module before it (R377). -/
def State.mustWait (s : State) (a : Access) : Bool :=
  a.wr.isNone && s.waitingWrites.any (fun w => decide (w.seq < a.seq))

/-- Contexts whose lessons hold, or hold deferring, an entry that covers a column (R189). -/
def State.deferrers (s : State) (col : Nat) : List Nat :=
  ((s.quad (quadOf (bankOfCol col))).sb.filter (fun e => decide (e.2.st.toNat ≥ 2) && e.2.covers col)).map (fun e => e.2.ctx.toNat)

def State.withDeferrers (s : State) (a : Access) : Access := { a with by_ := (a.by_ ++ a.cols.flatMap s.deferrers).dedup }

/-- The access is deferred; the lessons that defer it are kept with it (R27, R189). With 512 deferred, one that waited elsewhere goes
on waiting (R379). -/
def State.defer (s : State) (a : Access) : State :=
  if s.host.deferred.length < 512 then
    { s with host := { s.host with deferred := s.host.deferred ++ [{ s.withDeferrers a with since := s.ring.timebase }] } }
  else { s with host := { s.host with inFlight := s.host.inFlight ++ [s.withDeferrers a] } }

/-- An access goes on: deferred while its bytes lie in an entry that defers, wherever it has waited until now (R189); else a demand
on its gates (R463), and served, or waiting in its stack's queue or behind earlier writes. -/
def State.enterStack (s : State) (a : Access) : State :=
  if a.cols.any s.deferring then s.defer a
  else if s.mustWait a then { s with host := { s.host with inFlight := s.host.inFlight ++ [a] } }
  else
    let t := a.cols.foldl (fun (s : State) c => s.demandGate (quadOf (bankOfCol c))) s
    if t.busyFor a then t.modStack (stackOf (bankOfCol (a.addr / 32))) (fun k => { k with slateQ := k.slateQ ++ [a] })
    else t.serve a

/-- Reads whose earlier writes have all drained go on. -/
def State.pumpReads (s : State) : State :=
  let go := s.host.inFlight.filter (fun a => !s.mustWait a)
  let s := { s with host := { s.host with inFlight := s.host.inFlight.filter (fun a => s.mustWait a) } }
  go.foldl (fun (s : State) a => s.enterStack a) s

/-- An access that holds a credit: deferred while its bytes lie in an entry that defers, else admitted (R189). -/
def State.receive (s : State) (a : Access) : State :=
  if a.cols.any s.deferring then s.defer a else (s.enterStack a).pumpReads

/-- The bank-view address that a CXL.mem address reaches: none where the access is a pane fault, before B7 every one (R365 to R376). The
slate lies at DPA 0x140_0000_0000 (R365); the full map is served while FULL_MAP is 1 (R367). -/
def State.translate (s : State) (dpa : Nat) : Option Nat :=
  let o := dpa - 0x14000000000
  let e := s.pane (o / 2 ^ 21)
  let addr := Pane.translate e (o % 2 ^ 21)
  let a : Access := ⟨0, addr, none, 0, 0, [], false⟩
  if s.boot.stage ≠ 7 then none
  else if dpa < 0x14000000000 then (if s.host.fullMap then some (flatToBank dpa) else none)
  else if dpa ≥ 0x14010000000 ∨ Pane.valid e = false ∨ a.exists_ = false ∨
      (Pane.check e && !(a.cols.all (fun c => s.inAllocation (Pane.ctx e) (32 * c)))) = true then none
  else some addr

/-- A request takes a credit: it is translated and checked now (R372, R374), and numbered in the order of arrival (R377). -/
def State.admitted (s : State) (r : MemReq) : Access :=
  ⟨r.tag, (s.translate r.dpa).getD 0, r.wr, 0, s.host.accSeq, [], (s.translate r.dpa).isNone⟩

def State.take (s : State) (r : MemReq) : State :=
  { s with host := { s.host with accSeq := s.host.accSeq + 1 } }.receive (s.admitted r)

/-- Requests without a credit enter while fewer than 512 accesses are deferred (R379). -/
def State.unstall (s : State) : Nat → State
  | 0 => s
  | n + 1 =>
    match s.host.stalled with
    | [] => s
    | r :: rest =>
      if s.host.deferred.length ≥ 512 then s
      else ({ s with host := { s.host with stalled := rest } }.take r).unstall n

/-- A context ends: no access waits for a lesson of it any more. -/
def State.forgetBy (s : State) (c : Nat) : State :=
  let f (a : Access) : Access := { a with by_ := a.by_.filter (fun x => decide (x ≠ c)) }
  let s := { s with host := { s.host with deferred := s.host.deferred.map f, inFlight := s.host.inFlight.map f } }
  (List.range 20).foldl (fun (s : State) st => s.modStack st (fun k => { k with slateQ := k.slateQ.map f })) s

/-- Deferred accesses that no entry defers any more are served, and the longest deferral is kept (R189, R380); the others wait for
the lessons that defer them now, too. -/
def State.serveDeferred (s : State) : State :=
  let go := s.host.deferred.filter (fun a => !a.cols.any s.deferring)
  let rest := (s.host.deferred.filter (fun a => a.cols.any s.deferring)).map s.withDeferrers
  let longest := go.foldl (fun m a => max m ((s.ring.timebase - a.since) / 1000)) s.host.deferMax.toNat
  let s := { s with host := { s.host with deferred := rest, deferMax := BitVec.ofNat 32 longest } }
  let s := (go.foldl (fun (s : State) a => s.enterStack a) s).pumpReads
  s.unstall s.host.stalled.length

/-- Accesses queued for the stacks of a quadrant go on after its frequency change (R357). -/
def State.pumpQuad (s : State) (q : Nat) : State :=
  ((List.range 5).foldl (fun (s : State) i =>
    let st := 5 * q + i
    let go := (s.stack st).slateQ
    go.foldl (fun (s : State) a => s.enterStack a) (s.modStack st (fun k => { k with slateQ := [] }))) s).pumpReads

/-! ## Accesses -/

/-- A CXL.mem access of the 64-byte line at an address: while 512 accesses are deferred it waits without a credit (R379). -/
def State.access (s : State) (tag dpa : Nat) (wr : Option WriteData) : State :=
  if s.host.deferred.length ≥ 512 ∨ s.host.stalled.isEmpty = false then
    { s with host := { s.host with stalled := s.host.stalled ++ [⟨tag, dpa, wr⟩] } }
  else s.take ⟨tag, dpa, wr⟩

/-- A slate access of the line at an offset (R369 to R376). -/
def State.slateAccess (s : State) (tag : Nat) (off : BitVec 28) (wr : Option WriteData) : State :=
  s.access tag (0x14000000000 + off.toNat / 64 * 64) wr

/-- SLATE_READ (R370, R374, R375, R377). -/
def execSlateRead (tag : Nat) (off : BitVec 28) (s : State) : Host.Outcome State Fault Refusal :=
  .next (s.slateAccess tag off none)

/-- SLATE_WRITE (R370, R374, R375). -/
def execSlateWrite (tag : Nat) (off : BitVec 28) (d : WriteData) (s : State) : Host.Outcome State Fault Refusal :=
  .next (s.slateAccess tag off (some d))

/-- FULL_MAP_ACCESS (R365, R367): an access at a device physical address, the full map's or the slate's. -/
def execFullMapAccess (tag : Nat) (dpa : BitVec 41) (d : Option WriteData) (s : State) :
    Host.Outcome State Fault Refusal :=
  .next (s.access tag (dpa.toNat / 64 * 64) d)

/-- Banks and rows that accesses use. -/
def accessRows (as : List Access) : List (Nat × Nat) := (as.flatMap (fun a => a.cols.map (fun c => (bankOfCol c, rowOfCol c)))).dedup

/-- Open rows of the timetable's that are in the way of other rows of their halves. -/
def State.inWay (s : State) (rows : List (Nat × Nat)) : List (Nat × Nat) :=
  rows.filterMap (fun x =>
    match (s.bank x.1).half (x.2 % 2) with
    | some r => if r.timetable && r.row.toNat != x.2 then some (x.1, r.row.toNat) else none
    | none => none)

/-- What a slate hold does (R340, R347): it precharges the timetable's rows that are in the way, serves the accesses, each row opened
once, and then closes those rows and opens the timetable's again. -/
def State.holdServe (s : State) (as : List Access) : State :=
  let ws := s.inWay (accessRows as)
  let s := as.foldl (fun (s : State) a => s.serveHeld a) (ws.foldl (fun (s : State) w => s.closeRow w.1 (w.2 % 2)) s)
  ws.foldl (fun (s : State) w => ((s.closeRow w.1 (w.2 % 2)).linkBank w.1 .act w.2).openRow w.1 w.2) s

/-- Length of a slate hold, in beats: 87, and one for each further column of a row already open in it (R340). -/
def holdBeats (as : List Access) : Nat := 87 + ((as.flatMap Access.cols).length - (accessRows as).length)

/-- The accesses of a queue that one hold serves, and those it leaves: at most one row for each bank, and nothing past a column of one
that is left (R340; log 28). -/
def oneRow (l : List Access) : List Access × List Access :=
  (l.foldl (fun (r : List (Nat × Nat) × List Access × List Access) (a : Access) =>
    let rows := a.cols.map (fun c => (bankOfCol c, rowOfCol c))
    if rows.all (fun x => r.1.all (fun y => decide (y.1 ≠ x.1) || y.2 == x.2)) ∧
        r.2.2.all (fun b => b.cols.all (fun c => !a.cols.contains c)) then (r.1 ++ rows, r.2.1 ++ [a], r.2.2)
    else (r.1, r.2.1, r.2.2 ++ [a])) ([], [], [])).2

/-- SLATE_HOLD (R189, R340): with accesses queued for the stack that no entry defers, its quadrant not changing its point and its link not in recovery, the hold is
counted and serves them, one row for each bank; the others wait for the next. One that has come to be deferred meanwhile waits for its
dismissal. -/
def execSlateHold (st : Fin 20) (s : State) : Host.Outcome State Fault Refusal :=
  .next (let go := (s.stack st).slateQ.filter (fun a => !a.cols.any s.deferring)
    let held := (s.stack st).slateQ.filter (fun a => a.cols.any s.deferring)
    if go.isEmpty ∨ s.selfRefresh (quadOfStack st) = true ∨ (s.stack st).recovering = true then s.pumpReads
    else
      let q := quadOfStack st
      let r := oneRow go
      let s := s.modStack st (fun k => { k with slateQ := r.2, slateHolds := bump k.slateHolds 1 })
      let s := held.foldl (fun (s : State) a => s.defer a) s
      let s := s.accountHold q Sat.column 1 (holdBeats r.1 * (s.quad q).beatLen)
      (s.holdServe r.1).pumpReads)

/-- PANE_WRITE (R371, R372): accepted, or refused and the entry unchanged. -/
def execPaneWrite (p : Fin 128) (v : Word64) (s : State) : Host.Outcome State Fault Refusal :=
  .next (if Pane.allowed s.host.paneUnchecked v then { s with host := { s.host with panes := tset 0 s.host.panes p v } } else s)

end Sys2Proof.Machine
end

