-- ==== Sys2Proof/Machine/Command.lean ====
section
/-! DEFINITION. Command rings, doorbells, report rings, and the registers of a context page (R324, R331 to R335,
R384 to R405, R411). -/

namespace Sys2Proof.Machine

/-! ## Commands in the ring (R385 to R389) -/

/-- Bytes of a context's ring in hub SRAM (R385). -/
def State.ringBytes (s : State) (c a n : Nat) : List Byte := readBytes s.host.rings (0x40000 * c + a) n
def State.ringNat (s : State) (c a n : Nat) : Nat := leNat (s.ringBytes c a n)

/-- Fields of the command at a slot. -/
def State.cmdRoll (s : State) (c h : Nat) : Nat := s.ringNat c (64 * h) 8
def State.cmdOpcode (s : State) (c h : Nat) : Nat := s.ringNat c (64 * h + 8) 1
def State.cmdSlots (s : State) (c h : Nat) : Nat := s.ringNat c (64 * h + 0x0A) 2
def State.cmdPayload (s : State) (c h : Nat) : Nat := s.ringNat c (64 * h + 0x0C) 2
def State.cmdResult (s : State) (c h : Nat) : Nat := s.ringNat c (64 * h + 0x0E) 2
def State.cmdCopy (s : State) (c h : Nat) : Nat := s.ringNat c (64 * (h + s.cmdSlots c h) - 8) 8

/-! ## Lesson starts (R26, R29, R99, R148, R171) -/

/-- The slot's share of a unit's files is undefined again; every byte is selected in its write mask; its generator is seeded anew
(R29, R43, R54, R148). -/
def BankUnit.forget (b : BankUnit) (shared : Bool) (sl : Nat) : BankUnit :=
  let keep (n : Nat) (i : Nat) : Bool := shared && decide (i / n ≠ sl)
  { b with
    acc := b.acc.filter (fun p => keep 256 p.1)
    vec := b.vec.filter (fun p => keep 128 p.1)
    wmask := tdel b.wmask sl
    drawn := tdel b.drawn sl }

/-- The context becomes READY in a quadrant of its span, with the state of R148 (R171). A value of the root of trust's random source
is broadcast for the seeds (R54). With a new frequency point chosen, the first word waits (R172). -/
def State.startSlot (s : State) (c : Nat) (k : List Word64) (q : Nat) : State :=
  let sl := tget 0 (s.ctx c).slotIn q
  let shared := (s.quad q).shared
  let fresh : Slot :=
    { Slot.init with
      ctx := some c, st := .ready, k := k.zipIdx.foldl (fun t x => tset 0 t x.2 x.1) [], epoch := s.free
      random := Config.freeNat (s.free + 1), heldFirst := (s.quad q).chosen.isSome }
  let s := { s with
    free := s.free + 2
    units := tmap BankUnit.init s.units (fun u => quadOf u == q) (fun b => b.forget shared sl) }
  (s.modSlot q sl (fun _ => fresh)).demandGate q

/-- LESSON_START (R25, R26, R305, R391): on a bell a context without a lesson starts that of its first accepted LESSON command. -/
def State.startLesson (s : State) (c : Nat) : State :=
  let x := s.ctx c
  match x.accepted.dropWhile (·.skip) with
  | [] => s
  | a :: _ =>
    if x.live = false ∨ x.resetting ∨ x.lesson.isSome then s
    else
      let k := (List.range 8).map (fun i => BitVec.ofNat 64 (s.ringNat c (64 * a.slot + 0x20 + 8 * i) 8))
      let l : Lesson :=
        { roll := a.roll, k := k, payload := s.ringBytes c (64 * a.slot + 0x60) (s.cmdPayload c a.slot),
          result := BitVec.ofNat 16 (s.cmdResult c a.slot), loadSeq := x.half.seq, startBell := s.ring.bells,
          fenced := s.fencedNow, unsettled := none, unsettledMark := false, stolen := false, recompute := [],
          closing := false }
      let s := s.setCtx c { x with lesson := some l, lessonNo := x.lessonNo + 1, streams := [], draws := [] }
      (bitsSet x.span).foldl (fun (s : State) q => s.startSlot c k q) s

/-! ### Acceptance -/

/-- ROLL and its copy both carry the next roll number; a command that would pass the end of the ring has no copy. -/
def State.cmdArrived (s : State) (c h : Nat) : Bool :=
  let n := s.cmdSlots c h
  let next := (s.ctx c).lastRoll.toNat + 1
  decide (n ≠ 0 ∧ h + n ≤ 4096 ∧ s.cmdRoll c h = next ∧ s.cmdCopy c h = next)

/-- OPCODE, SLOTS, PAYLOAD_BYTES and the reserved fields are valid (R386 to R389). -/
def State.cmdValid (s : State) (c h : Nat) : Bool :=
  let n := s.cmdSlots c h
  let p := s.cmdPayload c h
  if s.cmdOpcode c h = 1 then
    decide (p ≤ 16384 ∧ n = (104 + p + 63) / 64 ∧ s.cmdResult c h < 4096 ∧ s.ringNat c (64 * h + 9) 1 = 0 ∧
      s.ringNat c (64 * h + 0x10) 16 = 0)
  else decide (s.cmdOpcode c h = 2 ∧ h + n = 4096)

/-- Slots from RING_HEAD to TAIL, going round the ring: a full lap where they are equal and no command is accepted (R390, R393). -/
def Ctx.slotsTo (x : Ctx) (tail : BitVec 12) : Nat :=
  if x.head = tail ∧ x.accepted = [] then 4096 else (tail.toNat + 4096 - x.head.toNat) % 4096

/-- The command at RING_HEAD ends at or before TAIL, going round the ring (R393). -/
def State.cmdFits (s : State) (c : Nat) (tail : BitVec 12) : Bool :=
  decide (s.cmdSlots c (s.ctx c).head.toNat ≤ (s.ctx c).slotsTo tail)

/-- The DOORBELL record (R400). -/
def doorbellReport (c : Ctx) (status : BitVec 16) (tail : BitVec 12) (roll : BitVec 48) : Report :=
  { Report.blank 8 with
    roll := c.lastRoll + 1, status := status, w0 := roll.zeroExtend 64
    w1 := BitVec.ofNat 64 (tail.toNat + c.head.toNat * 2 ^ 16) }

/-- Commands are examined from RING_HEAD on and accepted while they hold what R393 asks; one with valid roll numbers and bad
fields stops the ring (R393 to R395). -/
def State.examine (s : State) (c : Nat) : Nat → State
  | 0 => s
  | n + 1 =>
    let x := s.ctx c
    match x.pendingDb with
    | none => s
    | some (tail, roll) =>
      let h := x.head.toNat
      if x.head = tail ∧ x.lastRoll = roll then s.setCtx c { x with pendingDb := none }
      else if x.slotsTo tail = 0 ∨ x.stopped = true ∨ s.cmdArrived c h = false then s
      else if s.cmdValid c h && s.cmdFits c tail then
        let a : Accepted := ⟨h, s.cmdSlots c h, x.lastRoll + 1, decide (s.cmdOpcode c h = 2)⟩
        (s.setCtx c { x with
          head := BitVec.ofNat 12 ((h + s.cmdSlots c h) % 4096), lastRoll := x.lastRoll + 1,
          accepted := x.accepted ++ [a] }).examine c n
      else (s.setCtx c { x with stopped := true, pendingDb := none }).post c (doorbellReport x Code.cmdInvalid tail roll)

/-- A pending doorbell is examined; at most 4,096 commands lie in the ring. A LESSON command that is accepted on a bell starts its
lesson on that bell, unless another was accepted before it (R26). DESIGN CHOICE (log 83): on a bell means in the nanosecond of the timebase
at which it rang. -/
def State.evalDoorbell (s : State) (c : Nat) : State :=
  let t := s.examine c 4097
  if s.onBell && (s.ctx c).accepted.all (·.skip) then t.startLesson c else t

/-- DOORBELL (R393, R394, R411). -/
def execDoorbell (c : Fin 16) (v : Word64) (s : State) : Host.Outcome State Fault Refusal :=
  .next (let x := s.ctx c
    let roll : BitVec 48 := v.extractLsb' 16 48
    if x.live = false ∨ x.hostLost = true ∨ roll ≤ x.lastRoll then s
    else (s.setCtx c { x with pendingDb := some (v.extractLsb' 0 12, roll) }).evalDoorbell c)

/-- A slot lies from RING_DONE up to RING_HEAD: every slot where they are equal and a command is accepted (R390). -/
def Ctx.slotTaken (c : Ctx) (slot : Nat) : Bool :=
  if c.head = c.done then !c.accepted.isEmpty
  else decide ((slot + 4096 - c.done.toNat) % 4096 < (c.head.toNat + 4096 - c.done.toNat) % 4096)

/-- Bytes written into a context's ring but for those of taken slots (R385, R390). -/
def State.writeRing (s : State) (c a : Nat) : List Byte → State
  | [] => s
  | b :: bs =>
    (if (s.ctx c).slotTaken (a / 64 % 4096) then s
      else { s with host := { s.host with rings := tset 0 s.host.rings (0x40000 * c + a % 0x40000) b } }).writeRing c (a + 1) bs

/-- COMMAND_RING_WRITE (R385, R390, R394): a write that touches a taken slot is counted; a pending doorbell is examined. -/
def execCommandRingWrite (c : Fin 16) (off : BitVec 18) (bytes : List Byte) (s : State) :
    Host.Outcome State Fault Refusal :=
  .next (let x := s.ctx c
    let drop := (List.range bytes.length).any (fun i => x.slotTaken ((off.toNat + i) / 64 % 4096))
    let s := s.writeRing c off.toNat bytes
    let s := if drop then { s with host := { s.host with ringDrops := bump s.host.ringDrops 1 } } else s
    s.evalDoorbell c)

/-- DOORBELL_HOLD_EXPIRY (R394): the doorbell is examined once more; one still incomplete is dropped with a record. -/
def execDoorbellHoldExpiry (c : Fin 16) (s : State) : Host.Outcome State Fault Refusal :=
  .next (let s := s.evalDoorbell c
    let x := s.ctx c
    match x.pendingDb with
    | none => s
    | some (tail, roll) =>
      let s := s.setCtx c { x with pendingDb := none }
      let s := s.modCfg c (fun y => { y with staleDoorbells := bump y.staleDoorbells 1 })
      s.post c (doorbellReport x Code.staleDoorbell tail roll))

/-- RING_REINIT (R397). -/
def execRingReinit (c : Fin 16) (newHead : BitVec 12) (s : State) : Host.Outcome State Fault Refusal :=
  .next (let x := s.ctx c
    if x.live = false ∨ x.head ≠ x.done ∨ x.pendingDb.isSome = true then s
    else s.setCtx c { x with head := newHead, done := newHead, stopped := false })

/-- ACK_HOST_LOST (R411): ignored while a lesson of the context has started and is not dismissed. -/
def execAckHostLost (c : Fin 16) (s : State) : Host.Outcome State Fault Refusal :=
  .next (let x := s.ctx c
    if x.live = false ∨ x.lesson.isSome = true then s else s.setCtx c { x with hostLost := false })

/-! ## Report rings (R398 to R405) -/

/-- REPORT_CFG_WRITE (R398): one that changes LOG2_ENTRIES while ENABLE is 1 is ignored; setting ENABLE starts the ring anew. -/
def execReportCfgWrite (c : Fin 16) (v : Word64) (s : State) : Host.Outcome State Fault Refusal :=
  .next (let x := s.ctx c
    if x.live = false then s
    else if x.reportEnabled ∧ fld x.reportCfg 4 0 ≠ fld v 4 0 then s
    else if x.reportEnabled = false ∧ v.getLsbD 8 = true then
      s.setCtx c { x with reportCfg := v, reportTail := 0, phase := true, seqNo := 0, unsignalled := 0 }
    else s.setCtx c { x with reportCfg := v })

/-- REPORT_HEAD_WRITE (R384). -/
def execReportHeadWrite (c : Fin 16) (v : Word64) (s : State) : Host.Outcome State Fault Refusal :=
  .next (let x := s.ctx c
    if x.live = false then s else s.setCtx c { x with reportHead := v.extractLsb' 0 16 })

/-- The oldest record in a context's buffer may be written (R403, R404). -/
def State.mayWrite (s : State) (c : Nat) (w : Waiting) : Bool :=
  let x := s.ctx c
  x.reportEnabled && s.host.linkState == 2 &&
    decide ((x.reportTail.toNat + 1) % x.reportEntries ≠ x.reportHead.toNat) &&
    !w.early && w.after.all (fun p => s.writesDone p.1 c p.2)

/-- A record is written: the ring's next place, its phase and number; an interrupt when IRQ_COUNT have been written
(R399, R402, R405). -/
def State.writeReport (s : State) (c : Nat) (w : Waiting) : State :=
  let x := s.ctx c
  let t := x.reportTail.toNat
  let wrap := decide ((t + 1) % x.reportEntries = 0)
  let n := x.unsignalled + 1
  let signal := decide (n ≥ max 1 (fld x.reportCfg 47 32))
  let s := s.emit (.report c (x.reportBase.toNat + 64 * t) w.record x.seqNo x.phase)
  let s := s.setCtx c { x with
    reportTail := BitVec.ofNat 16 ((t + 1) % x.reportEntries), phase := if wrap then !x.phase else x.phase,
    seqNo := x.seqNo + 1, unsignalled := if signal then 0 else n, buffer := x.buffer.drop 1 }
  let s := if signal then s.emit (.msix c) else s
  s.fillBuffer

/-- REPORT_WRITE (R402, R403, R405): the oldest record of the context's buffer is written, if it may be. -/
def execReportWrite (c : Fin 16) (s : State) : Host.Outcome State Fault Refusal :=
  .next (match (s.ctx c).buffer with
    | [] => s
    | w :: _ => if s.mayWrite c w then s.writeReport c w else s)

/-- MSIX_DELAY_EXPIRY (R405): with an unsignalled record the vector is signalled. -/
def execMsixDelayExpiry (c : Fin 16) (s : State) : Host.Outcome State Fault Refusal :=
  .next (if (s.ctx c).unsignalled = 0 then s
    else (s.modCtx c (fun x => { x with unsignalled := 0 })).emit (.msix c))

/-! ## Pennants and roll calls from the host (R331 to R335) -/

/-- PEN_HOIST (R331): ignored when a bit of [63:48] or [31:10] is set; an amount of 0 has no effect. -/
def execPenHoist (c : Fin 16) (v : Word64) (s : State) : Host.Outcome State Fault Refusal :=
  .next (if (s.ctx c).live = false ∨ fld v 63 48 ≠ 0 ∨ fld v 31 10 ≠ 0 ∨ fld v 47 32 = 0 then s
    else s.queueHoist 0 c (s.binding c (fld v 9 0)) (fld v 47 32) 0)

/-- A RELEASE report is wanted for a handle's round (R335). -/
def State.wantRelease (s : State) (c handle round : Nat) : State :=
  s.modCtx c (fun x => { x with releases := x.releases ++ [(handle, round)] })

/-- ROLL_ARRIVE (R316, R329, R335, R553): participant 16 arrives; with [8] a RELEASE report follows the release. -/
def execRollArrive (c : Fin 16) (v : Word64) (s : State) : Host.Outcome State Fault Refusal :=
  .next (let handle := fld v 5 0
    let want := v.getLsbD 8
    let e := s.rollHandle c handle
    let num := e.num.toNat
    let r := s.rollCall num
    if (s.ctx c).live = false ∨ fld v 63 9 ≠ 0 ∨ fld v 7 6 ≠ 0 ∨ e.bound = false then s
    else if e.dead = true ∨ r.st ≠ 1 ∨ (r.ring = true ∧ s.outOfRing = true) then
      let s := if e.dead = false ∧ r.st = 1 then s.ringRollAlone num else s
      if want then s.post c (releaseReport handle r.round.toNat true) else s
    else
      let a := s.arriveEngine num 16
      match a.2, want with
      | .recorded n, true => (a.1.wantRelease c handle n).meetBell
      | .recorded _, false => a.1.meetBell
      | .outsider, true => a.1.wantRelease c handle r.round.toNat
      | _, _ => a.1)

/-- A watch entry is written (R333, R334): an armed one takes no write; bits [15:10] of PEN are 0; one that is armed now waits as a WAIT
does. -/
def State.writeWatch (s : State) (c i : Nat) (f : Watch → Watch) : State :=
  let x := s.ctx c
  let w := tget Watch.init x.watches i
  if x.live = false ∨ w.armed = true then s
  else
    let w := f w
    let w := { w with pen := w.pen &&& 0x3FF }
    let s := s.setCtx c { x with watches := tset Watch.init x.watches i w }
    if w.armed then (s.subscribe c w.pen.toNat).evalWatch c i else s

/-- WATCH_ARM (R333, R334): the entry is written and armed; a write to an armed entry changes nothing. -/
def execWatchArm (c : Fin 16) (i : Fin 32) (expected : Word64) (limit : Word32) (pen : BitVec 16) (tag : BitVec 16)
    (s : State) : Host.Outcome State Fault Refusal :=
  .next (s.writeWatch c i (fun _ => ⟨expected, limit, pen, tag, true⟩))

/-- WATCH_LIMIT_EXPIRY (R304, R325, R334): the condition is tested first; an armed watch is reported and disarmed, and a subscription that
has lost its last waiter ends. -/
def execWatchLimitExpiry (c : Fin 16) (i : Fin 32) (s : State) : Host.Outcome State Fault Refusal :=
  .next (let s := s.evalWatch c i
    let w := tget Watch.init (s.ctx c).watches i
    if w.armed = false ∨ w.limit = 0 then s
    else
      let s := s.modCtx c (fun x => { x with watches := tset Watch.init x.watches i { w with armed := false } })
      let s := { s with sync := { s.sync with waitTimeouts := bump s.sync.waitTimeouts 1 } }
      (s.post c (watchReport w Code.waitTimeout (s.penRaw c (w.pen.toNat % 1024)))).trimSubs)

/-! ## Wait limits (R324, R325) -/

/-- Virtual identifier or handle a blocked word waits on. -/
def Blocked.ident (b : Blocked) : Nat :=
  match b with
  | .pennant i _ => i
  | .rollCall h _ => h
  | .rollHeld h => h
  | _ => 0

/-- The TIMEOUT record of a blocked word (R400). -/
def timeoutReport (l : Lesson) (q origin ident : Nat) : Report :=
  { Report.blank 5 with
    roll := l.roll, status := Code.waitTimeout, w1 := BitVec.ofNat 64 (origin + q * 2 ^ 20 + ident * 2 ^ 32) }

/-- WAIT_TIMEOUT (R324): one report for a word still blocked, but for a BELL or a WAIT_LIMIT of 0; it goes on waiting. -/
def execWaitTimeout (q sl : Fin 4) (s : State) : Host.Outcome State Fault Refusal :=
  .next (let s := s.evalSlot q sl
    let x := s.slot q sl
    match s.slotCtx q sl, x.blocked with
    | some (c, l), some b =>
      let bell : Bool := match b with
        | .bells _ => true
        | _ => false
      if bell = true ∨ x.timedOut = true ∨ (s.cfg c).waitLimit = 0 then s
      else
        let s := s.modSlot q sl (fun x => { x with timedOut := true })
        let s := { s with sync := { s.sync with waitTimeouts := bump s.sync.waitTimeouts 1 } }
        s.post c (timeoutReport l q (s.nextOrigin q sl) b.ident)
    | _, _ => s)

end Sys2Proof.Machine
end

