-- ==== Sys2Proof/Machine/Bars.lean ====
section
/-! DEFINITION. What the host reads: BAR0 and BAR2 (R332, R333, R366, R369, R376, R382 to R385). No command of the table reads
them: reading changes nothing. -/

namespace Sys2Proof.Machine

/-- A base address register of the module (R382): bytes, 64-bit, prefetchable. -/
structure BarShape where
  bytes : Nat
  wide : Bool
  prefetchable : Bool
  deriving DecidableEq, Repr

def bar0 : BarShape := ⟨2 * 2 ^ 20, true, false⟩
def bar2 : BarShape := ⟨4 * 2 ^ 20, true, true⟩

/-- The register blocks that the CXL Register Locator DVSEC names, by their offsets in BAR0 (R382, R383): the component registers and the
device registers. -/
def registerLocator : List Nat := [0x10000, 0]

/-- MOD_STATUS (R376, R383). -/
def State.modStatus (s : State) : Word64 :=
  BitVec.ofNat 64 (s.boot.stage.val * 2 ^ 12 + s.host.fullMap.toNat * 8 + s.fencedNow.toNat * 4 +
    (s.ctxs.any (fun c => c.2.hostLost)).toNat * 2 + (decide (s.boot.stage = 7)).toNat)

/-- Memory device status: [3:2] is 1 once the media is ready, which it is from B7 on (R376; the field PRESUMED, log 4). -/
def State.memoryStatus (s : State) : Word64 := if s.boot.stage = 7 then 4 else 0

/-- A component register as it reads: the control word of a decoder shows in bit 10 that it is committed (R366; PRESUMED, log 4). -/
def State.componentRead (s : State) (off : Nat) : Word64 :=
  let w := tget 0 s.host.barWindow off
  (List.range 2).foldl (fun (w : Word64) n =>
    if off = Config.hdmOffset + 0x20 + 0x20 * n then setBits w 10 1 (s.host.hdm.getLsbD n).toNat else w) w

/-- CTX_STATUS (R384). -/
def Ctx.status (x : Ctx) : Word64 :=
  BitVec.ofNat 64 (x.stopped.toNat * 128 + x.pendingDb.isSome.toNat * 64 + x.hostLost.toNat * 32 + x.lesson.isSome.toNat * 16 +
    x.live.toNat)

/-- A watch entry in 64-bit words (R333). -/
def Watch.read (w : Watch) (k : Nat) : Word64 :=
  if k = 0 then w.expected
  else if k = 1 then BitVec.ofNat 64 (w.limit.toNat + w.pen.toNat * 2 ^ 32 + w.tag.toNat * 2 ^ 48)
  else if k = 2 then BitVec.ofNat 64 w.armed.toNat
  else 0

/-- A register of a context's page; a page of a context that does not exist reads as 0 (R332, R384). -/
def State.pageRead (s : State) (c off : Nat) : Word64 :=
  let x := s.ctx c
  if x.live = false then 0
  else if 0x1000 ≤ off ∧ off < 0x1400 then (tget Watch.init x.watches ((off - 0x1000) / 32)).read (off % 32 / 8)
  else if 0x2000 ≤ off ∧ off < 0x4000 then BitVec.ofNat 64 (s.penValue c ((off - 0x2000) / 8))
  else match off with
    | 0x08 => x.status
    | 0x18 => x.head.zeroExtend 64
    | 0x20 => x.done.zeroExtend 64
    | 0x28 => x.lastRoll.zeroExtend 64
    | 0x30 => x.doneRoll.zeroExtend 64
    | 0x40 => x.reportBase
    | 0x48 => x.reportCfg
    | 0x50 => x.reportHead.zeroExtend 64
    | 0x58 => BitVec.ofNat 64 (x.reportTail.toNat + x.phase.toNat * 2 ^ 16)
    | _ => 0

/-- A 64-bit word of BAR0, at an offset that is a multiple of 8; a reserved offset reads as 0 (R383). What CXL 3.1 puts into the device
registers is Config's (log 4). -/
def State.bar0Read (s : State) (off : Nat) : Word64 :=
  if off < 0x10000 then (if off = Config.memStatusOffset then s.memoryStatus else Config.deviceRegister off)
  else if off < 0x20000 then s.componentRead off
  else if off = 0x20000 then s.modStatus
  else if 0x20400 ≤ off ∧ off < 0x20800 then s.pane ((off - 0x20400) / 8)
  else if 0x100000 ≤ off ∧ off < 0x200000 then s.pageRead ((off - 0x100000) / 0x10000) (off % 0x10000)
  else 0

/-- Bytes of BAR2: the command rings as stored (R385). -/
def State.bar2Read (s : State) (off n : Nat) : List Byte := readBytes s.host.rings off n

end Sys2Proof.Machine
end

