-- ==== Sys2Proof/Machine/Kv.lean ====
section
/-! DEFINITION. Remote parts: the owner's service, the requester's answers, and granted requests of the scoreboard (R185, R224, R227,
R257, R357, R421, R435, R447, R585; log 23). -/

namespace Sys2Proof.Machine

/-! ## The owner (R447) -/

/-- The descriptor with a RING_TID: its context and the descriptor (R215 keeps it unique in a context). -/
def State.tidDesc (s : State) (tid : Nat) : Option (Nat × Desc) :=
  s.ctxs.findSome? (fun c =>
    if c.2.live then
      (c.2.descs.find? (fun p => Desc.ownerDim p.2 != 7 && Desc.ringTid p.2 == tid)).map (fun p => (c.1, p.2))
    else none)

/-- The lowest quadrant of a context's span. -/
def State.lowQuad (s : State) (c : Nat) : Nat := ((bitsSet (s.ctx c).span).head?).getD 0

/-- Outer indices named by an index of the owner dimension and a combination of the others (log 23). -/
def Desc.outerOf (d : Desc) (index rest : Nat) : List Nat :=
  (d.outerDims.foldl (fun (acc : List Nat × Nat) i =>
    if i = d.ownerDim then (acc.1 ++ [index], acc.2) else (acc.1 ++ [acc.2 % d.size i], acc.2 / d.size i)) ([], rest)).1

/-- A bank column in its quadrant; a staging line in every quadrant of the span when it is written, in the lowest when it is read (R208,
log 63). -/
def State.kvSpread (s : State) (c : Nat) (write : Bool) (l : Loc) : List (Nat × Loc) :=
  if l.kind = 1 then (if write then bitsSet (s.ctx c).span else [s.lowQuad c]).map (fun q => (q, l))
  else [(quadOf (bankOfCol l.key), l)]

/-- Where a remote pad column lies here (R229, log 23), when its block is this module's: with dimension 1 spread, in every unit. -/
def State.kvPad (s : State) (c : Nat) (d : Desc) (index n : Nat) : Option (List Loc) :=
  let row : Int := if d.ownerDim = 1 then 0 else ((n / d.padCols % d.padRows : Nat) : Int) - d.padLo1
  let rest := if d.ownerDim = 1 then n / d.padCols else n / d.padCols / d.padRows * (if d.rank ≤ 1 then 1 else d.size 1)
  match s.spot (s.lowQuad c) c d (d.outerOf index rest) with
  | .here u off =>
    let us := if d.spreadDim = 1 ∧ d.ownerDim ≠ 1 then (List.range d.boxSize).map d.boxUnit else [u]
    some (us.map (fun v => d.padLoc (.here v off) row (32 * ((n % d.padCols : Nat) : Int) - 32 * d.lowCols)))
  | _ => none

/-- Where a remote column lies here: bank columns (0) or staging lines (1) by quadrant and number; none when it is absent. -/
def State.kvPlaces (s : State) (c : Nat) (d : Desc) (index column : Nat) (write : Bool) : Option (List (Nat × Loc)) :=
  if column ≥ d.dataCols then (s.kvPad c d index (column - d.dataCols)).map (fun ls => ls.flatMap (s.kvSpread c write))
  else match s.spot (s.lowQuad c) c d (d.outerOf index (column / d.cols)) with
  | .here u off =>
    let a := d.base + off + 32 * (column % d.cols)
    some (s.kvSpread c write (if d.space = 1 then ⟨1, a / 32, 0⟩ else ⟨0, (u * 2 ^ 27 + a) / 32, 0⟩))
  | _ => none

/-- Byte i of a bank column or staging line is a data byte of the tensor's local part: no pad is written over it (R230). -/
def Desc.localByte (d : Desc) (l : Loc) (i : Nat) : Bool :=
  let a := if l.kind = 1 then 32 * l.key + i else (32 * l.key + i) % 2 ^ 27
  (combos (d.outerDims.map d.localCount)).any (fun idx =>
    let off := d.base + ((d.outerDims.zip idx).map (fun x => x.2 * d.stride x.1)).sum
    d.bytes0.any (fun o => decide (off + o = a)))

/-- The box of one column or line. -/
def Loc.box (l : Loc) : SbEntry :=
  let b := bankOfCol l.key
  let f (x : BitVec 72) (lo k v : Nat) : BitVec 72 := setBits (setBits x (lo + k) k v) lo k v
  if l.kind = 1 then { SbEntry.init with space := true, bounds := f 0 30 21 l.key }
  else { SbEntry.init with bounds := f (f (f (f (f 0 62 5 (stackOf b)) 54 4 (dieOf b)) 44 5 (bankOf b)) 12 16 (rowOfCol l.key)) 0 6 (l.key % 64) }

/-- Places of the columns of an access. -/
def KvWait.places (w : KvWait) (s : State) (c : Nat) (d : Desc) : List (Option (List (Nat × Loc))) :=
  (List.range w.count).map (fun j => s.kvPlaces c d w.index (w.column + j) w.cols.isSome)

/-- All of them in one list. -/
def KvWait.spots (w : KvWait) (s : State) (c : Nat) (d : Desc) : List (Nat × Loc) := (w.places s c d).flatMap (fun p => p.getD [])

/-- A box of an access conflicts with a hold, or stands behind an earlier request or an earlier access on an overlapping region when
either is for writing (R184, R185). -/
def State.kvBlocked (s : State) (w : KvWait) (b : Nat × SbEntry) : Bool :=
  let x := s.quad b.1
  let write := w.cols.isSome
  x.sb.any (fun p => p.2.overlaps b.2 && p.2.holders.any (fun h => write || h.2)) ||
  x.sbWait.any (fun r => decide (r.order < w.order) && (x.entry r.entry).overlaps b.2 && (write || r.write)) ||
  s.ring.kvWait.any (fun v => decide (v.order < w.order) && (write || v.cols.isSome) &&
    v.boxes.any (fun y => y.1 == b.1 && y.2.overlaps b.2))

/-- The access may be carried out now: no conflict, and its rows can be reached in beats the timetable leaves (R184, R185, R337, R357). -/
def State.kvReady (s : State) (w : KvWait) : Bool :=
  match s.tidDesc w.tid with
  | none => true
  | some (c, d) =>
    w.boxes.all (fun b => !s.kvBlocked w b) &&
      s.reachAll ((w.spots s c d).filterMap (fun p => if p.2.kind = 0 then some p.2.key else none))

/-- One column written to one of its places; a pad's column leaves the tensor's data bytes alone (R230). -/
def State.kvPut (s : State) (c : Nat) (d : Desc) (pad : Bool) (x : Nat × Loc) (data : Line) (poison : Bool) : State :=
  let bs := ((List.range 32).filter (fun i => !(pad && d.localByte x.2 i))).map (fun i => (i, byteAt data i))
  if bs.isEmpty then s
  else if x.2.kind = 1 then s.putLine x.1 x.2.key bs poison
  else s.putColumn x.1 c 0 x.2.key bs poison

/-- One column read from the first of its places. -/
def State.kvGet (s : State) (ls : List (Nat × Loc)) : Column × State :=
  match ls with
  | [] => (Column.zero, s)
  | x :: _ =>
    if x.2.kind = 1 then
      (⟨BitVec.ofNat 256 (leNat (s.stageBytes x.1 (32 * x.2.key) 32)), s.stageMark x.1 x.2.key, false⟩, s)
    else s.ctrlRead x.2.key

/-- The access carried out and answered: a write is acknowledged once it is in the array; a read of an absent position, or of a
RING_TID that no descriptor here has, answers as absent (R224, R228, R342, R447). -/
def State.kvServe (s : State) (w : KvWait) : State :=
  let t := BitVec.ofNat 16 w.tid
  match s.tidDesc w.tid, w.cols with
  | none, some _ => s.sendTo w.src (.kvAck t.toNat w.index w.column)
  | none, none => s.sendTo w.src (.kvData t.toNat w.index w.column none false)
  | some (c, d), some cols =>
    let s := ((w.places s c d).zip cols).zipIdx.foldl (fun (s : State) (x : (Option (List (Nat × Loc)) × Line) × Nat) =>
      (x.1.1.getD []).foldl (fun (s : State) p => s.kvPut c d (decide (w.column + x.2 ≥ d.dataCols)) p x.1.2 w.poison) s) s
    s.sendTo w.src (.kvAck t.toNat w.index w.column)
  | some (c, d), none =>
    let ps := w.places s c d
    if ps.any (·.isNone) then s.sendTo w.src (.kvData t.toNat w.index w.column none false)
    else
      let r := ps.foldl (fun (acc : List Column × State) (p : Option (List (Nat × Loc))) =>
        let x := acc.2.kvGet (p.getD [])
        (acc.1 ++ [x.1], x.2)) ([], s)
      r.2.sendTo w.src (.kvData t.toNat w.index w.column (some (r.1.map (·.data))) (r.1.any (·.poison)))

/-- An access arrives: it is carried out, or waits under R184, R185, R337 or R357. -/
def State.kvArrive (s : State) (w : KvWait) : State :=
  let ls : List (Nat × Loc) := match s.tidDesc w.tid with
    | some (c, d) => w.spots s c d
    | none => []
  let s := ls.foldl (fun (s : State) x => if x.2.kind = 0 then s.demandGate x.1 else s) s
  let w := { w with boxes := ls.map (fun x => (x.1, x.2.box)), order := s.sync.arrivals }
  let s := { s with sync := { s.sync with arrivals := s.sync.arrivals + 1 } }
  if s.kvReady w then s.kvServe w
  else
    { s with ring := { s.ring with kvWait := s.ring.kvWait ++ [w] } }

/-- A remote access that came in a frame is of a joined module (R423): others wait for the join, or find no member (R553). -/
def State.kvWriteFrame (s : State) (src tid index column : Nat) (cols : List Line) (poison : Bool) : State :=
  if s.outOfRing = true ∨ cols.length > 7 then s else s.kvArrive ⟨src, tid, index, column, cols.length, some cols, poison, [], 0⟩

/-- KV_READ (R447): a frame holds up to 7 columns (R419). -/
def State.kvReadFrame (s : State) (src tid index column count : Nat) : State :=
  if s.outOfRing = true ∨ count > 7 then s else s.kvArrive ⟨src, tid, index, column, count, none, false, [], 0⟩

/-! ## The requester (R254, R257, R447) -/

def State.dropRequest (s : State) (r : RemoteReq) : State :=
  { s with ring := { s.ring with requests := s.ring.requests.filter (fun x => decide (x.num ≠ r.num)) } }

/-- A remote part of a share has been answered. -/
def State.remoteDone (s : State) (r : RemoteReq) : State :=
  (s.dropRequest r).modShare 0 r.quad r.share (fun h => { h with remote := h.remote - 1 })

/-- A byte of an outgoing column has arrived; with none missing the column is sent. -/
def State.fillOutgoing (s : State) (num byte : Nat) (b : Byte) (poison : Bool) : State :=
  match s.ring.requests.find? (fun r => r.num = num) with
  | none => s
  | some r =>
    let r' := { r with data := setBits r.data (8 * byte) 8 b.toNat, poison := r.poison || poison, need := r.need - 1 }
    let s := { s with ring := { s.ring with requests := s.ring.requests.map (fun x => if x.num = num then r' else x) } }
    if r'.need = 0 then s.sendWrite r' else s

/-- A group of bytes from an answer goes to its destination. -/
def State.putAnswer (s : State) (r : RemoteReq) (data : Line) (poison : Bool) (g : Nat × List (Nat × Nat)) : State :=
  let key := g.1 / 4
  let bs := g.2.map (fun x => (x.1, byteAt data x.2))
  match s.share 0 r.quad r.share with
  | none => s
  | some h =>
    if g.1 % 4 = 2 then bs.foldl (fun (s : State) x => s.fillOutgoing key x.1 x.2 poison) s
    else if g.1 % 4 = 1 then s.putLine r.quad key bs poison
    else s.putColumn r.quad h.ctx h.origin key bs poison

/-- Destination bytes of an answer by column, line or request: (byte there, byte of the answer). -/
def RemoteReq.groups (r : RemoteReq) : Table (List (Nat × Nat)) :=
  r.moves.foldl (fun t m => tmod [] t (4 * m.2.key + m.2.kind) (fun l => l ++ [(m.2.byte, m.1)])) []

/-- Bank columns of this module that a request's answer goes to. -/
def RemoteReq.cols (r : RemoteReq) : List Nat := (r.moves.filterMap (fun m => if m.2.kind = 0 then some m.2.key else none)).eraseDups

/-- An answer that has come goes where the copy needs it. -/
def State.giveAnswer (s : State) (r : RemoteReq) (a : Line × Bool) : State :=
  (r.groups.foldl (fun (s : State) g => s.putAnswer r a.1 a.2 g) s).remoteDone r

/-- A request's answer has come, and its columns can be reached in beats the timetable leaves (R337, R339, R357). -/
def State.answerReady (s : State) (r : RemoteReq) : Bool := r.answered.isSome && s.reachAll r.cols

/-- The first answer that can be given is. -/
def State.answerGrant (s : State) : State :=
  match s.ring.requests.find? s.answerReady with
  | none => s
  | some r =>
    match r.answered with
    | none => s
    | some a => s.giveAnswer r a

/-- KV_DATA (R447): the answer's bytes go where the copy needs them, at once or when their columns can be reached; an absent column reads
as its pad (R224). -/
def State.kvDataFrame (s : State) (src tid index column : Nat) (cols : Option (List Line)) (poison : Bool) : State :=
  match s.ring.requests.find? (fun r =>
      !r.write && r.answered.isNone && r.module == src && r.tid == tid && r.index == index && r.column == column) with
  | none => s
  | some r =>
    let data := match cols with
      | some (d :: _) => d
      | _ => r.pad
    let a := (data, poison && cols.isSome)
    if s.reachAll r.cols then s.giveAnswer r a
    else
      let rs := s.ring.requests.map (fun x => if x.num = r.num then { x with answered := some a } else x)
      { s with ring := { s.ring with requests := rs } }

/-- KV_ACK (R254): a remote part of a copy share is acknowledged. -/
def State.kvAckFrame (s : State) (src tid index column : Nat) : State :=
  match s.ring.requests.find? (fun r =>
      r.write && r.need == 0 && r.module == src && r.tid == tid && r.index == index && r.column == column) with
  | none => s
  | some r => s.remoteDone r

/-- The first waiting remote access that may be carried out is, or else the first answer that waits for its columns
(R185, R337, R447). -/
def State.kvGrant (s : State) : State :=
  match s.ring.kvWait.find? s.kvReady with
  | none => s.answerGrant
  | some w => { s with ring := { s.ring with kvWait := s.ring.kvWait.erase w } }.kvServe w

/-- Every remote access that can go on after a change of point or a gate's opening does. -/
def State.kvPump (s : State) : State := (List.range (s.ring.kvWait.length + s.ring.requests.length)).foldl (fun (s : State) _ => s.kvGrant) s

/-- Remote parts that a fenced member, or every member once this module has left, will not answer: acknowledged without effect, with
a RECOMPUTE record for the tensor (R401, R435, R553). -/
def State.loseRequests (s : State) (p : RemoteReq → Bool) : State :=
  (s.ring.requests.filter (fun r => p r && r.answered.isNone)).foldl (fun (s : State) r =>
    let s := match s.share 0 r.quad r.share with
      | some h =>
        let handle := if r.write then h.dst else h.src
        let d := s.desc h.ctx handle
        s.modCtx h.ctx (fun x => x.noteLost handle r.tid (r.index / 2 ^ d.ownerBlock))
      | none => s
    let s := s.remoteDone r
    let lost := (r.moves.filter (fun m => decide (m.2.kind = 2))).map (fun m => m.2.key)
    (s.ring.requests.filter (fun x => lost.contains x.num)).foldl (fun (s : State) x => s.remoteDone x) s) s

/-! ## The end of a link recovery (R354) -/

/-- What waited for a stack's link goes on: refreshes that fell due meanwhile, the host's accesses, remote ones (R346, R354, R357). -/
def State.linkBack (s : State) (st : Nat) : State :=
  let late := s.banks.filter (fun p => inStack st p.1 &&
    (decide (p.2.debt > 8) || p.2.nbq.any (fun n => decide (n.deadline ≤ s.ring.timebase))))
  ((late.foldl (fun (s : State) p => s.relieve p.1) s).pumpQuad (quadOfStack st)).kvPump

/-- STACK_LINK_RECOVERY_DONE (R354, R358, R557): a good end applies the delay set, replays the retry buffer and ends the fenced
period; after a bad one another recovery starts, or after the third in a row the stack is failed. -/
def execStackLinkRecoveryDone (st : Fin 20) (ok : Bool) (s : State) : Host.Outcome State Fault Refusal :=
  .next (let k := s.stack st
    if k.recovering = false then s
    else
    let s := s.linkHold st 2000000
    if ok then
      (((s.modStack st (fun k => { k.replay with recovering := false, recFails := 0 })).applyBand st).endRecovery (recLink st)).linkBack st
    else if k.recFails + 1 < 3 then
      (s.modStack st (fun k => { k with recFails := k.recFails + 1 })).linkRecovery st
    else ((s.failStack st).endRecovery (recLink st)).linkBack st)

/-! ## Grants (R185) -/

/-- SCOREBOARD_GRANT (R185): the first waiting request that can be granted takes its entry; a blocked word becomes READY, a
share goes on to its next entry. With none of these, a remote access that waits is carried out; with none that can be granted
nothing happens. -/
def execScoreboardGrant (q : Fin 4) (s : State) : Host.Outcome State Fault Refusal :=
  .next (let x := s.quad q
    match s.grantable q [] x.sbWait with
    | none => s.kvGrant
    | some r =>
      let x := { x with sbWait := x.sbWait.erase r }
      let s := s.setQuad q (x.modEntry r.entry (fun e => e.hold (r.share, r.write)))
      match r.share with
      | none => s.modSlot q r.slot (fun y => y.release false)
      | some k =>
        match s.shareOf k with
        | some p => (s.advanceShare p.1 p.2.1 p.2.2).startShares p.1 p.2.1 64
        | none => s)

end Sys2Proof.Machine
end

