-- ==== Sys2Proof/Machine/Image.lean ====
section
/-! DEFINITION. The EVI image and its instructions: fields, defined bits, operand ranges, tensors, bindings (R98 to R102, R136, R137,
R219, R244, R266, R323). -/

namespace Sys2Proof.Machine

/-! ## The image (R100, R101) -/

def imgNat (m : List Byte) (a n : Nat) : Nat := leNat ((m.drop a).take n)

/-- Length of an image by its header. -/
def imageLength (m : List Byte) : Nat := 64 + 16 * imgNat m 8 4 + 4 * imgNat m 12 4 + imgNat m 16 4

/-- The header holds what R100 asks for. R137 names magic, version, counts and digest under reason 1; a PROFILE above 1, a reserved byte
that is not 0 and a stream program in profile 0 count with them here (DESIGN CHOICE, log 82). -/
def headerOk (m : List Byte) : Bool :=
  let n := imageLength m
  decide (imgNat m 0 4 = 0x31495645 ∧ imgNat m 4 2 / 256 = 1 ∧ imgNat m 6 2 ≤ 1 ∧ 1 ≤ imgNat m 8 4 ∧
    imgNat m 8 4 ≤ 1048576 ∧ imgNat m 20 12 = 0 ∧ (imgNat m 6 2 = 1 ∨ imgNat m 16 4 = 0) ∧ n ≤ m.length) &&
  (m.drop 32).take 32 == sha3 ((m.take n).drop 64)

/-- An EVI instruction. -/
structure Insn where
  op : Nat
  flags : Nat
  a : Nat
  b : Nat
  c : Nat
  imm : Nat
  deriving DecidableEq, Repr

def insnAt (m : List Byte) (i : Nat) : Insn :=
  let w := imgNat m (64 + 16 * i) 16
  ⟨w / 2 ^ 120 % 256, w / 2 ^ 112 % 256, w / 2 ^ 96 % 65536, w / 2 ^ 80 % 65536, w / 2 ^ 64 % 65536, w % 2 ^ 64⟩

def insns (m : List Byte) : List Insn := (List.range (imgNat m 8 4)).map (insnAt m)

/-- Bits [hi:lo] of a number. -/
def bits (x hi lo : Nat) : Nat := x / 2 ^ lo % 2 ^ (hi + 1 - lo)

/-! ## Defined bits (R101, R102; log 82) -/

/-- The FLAGS bits that an operation defines (R101, R102). DESIGN CHOICE (log 87): CMP, SCALE and EXP2, whose rows name no kind flags, read
[2:0] as the kinds of the operands they have. -/
def flagMask (op : Nat) : Nat :=
  if op = 0x10 ∨ (0x20 ≤ op ∧ op ≤ 0x23) then 0x1F
  else if op = 0x11 then 0x19
  else if op = 0x24 then 0x66
  else if op = 0x25 then 0x27
  else if op = 0x26 then 0x1D
  else if op = 0x28 then 0x08
  else if op = 0x2A then 0x05
  else if op = 0x12 ∨ op = 0x29 ∨ op = 0x43 ∨ op = 0x47 ∨ (0x50 ≤ op ∧ op ≤ 0x52) then 0x01
  else 0

/-- Defined bits of IMM. WRITE's position has the 32 bits that MAC's has (DESIGN CHOICE, log 82: R102 gives it no width). -/
def immMask (i : Insn) : Nat :=
  match i.op with
  | 0x10 => 0x37 * 2 ^ 36 + 0x7FFFFFFFF
  | 0x11 => 0xFFFFFFFF
  | 0x12 => if i.flags % 2 = 1 then 0xFFFFFFFF else 0
  | 0x24 => 0x1F
  | 0x27 => 0xFF3F0F
  | 0x28 => 0xFF3F0F
  | 0x29 => 0x3FFF3F0F
  | 0x2B => 0x1FF
  | 0x30 => 2 ^ 64 - 1 - 0x1C
  | 0x46 => 0xFFFF
  | 0x53 => 2 ^ 46 - 1
  | 0x54 => 2 ^ 44 + 0xFFF * 2 ^ 32 + 0xFF * 2 ^ 16 + 0x1FFF
  | 0x55 => 2 ^ 46 - 1
  | 0x56 => 0xFFF * 2 ^ 32 + 0x1F
  | n => if n = 0x01 ∨ n = 0x04 ∨ n = 0x05 ∨ (0x40 ≤ n ∧ n ≤ 0x42) ∨ n = 0x44 then 2 ^ 64 - 1 else 0

def opcodes : List Nat :=
  [0x00, 0x01, 0x02, 0x03, 0x04, 0x05, 0x10, 0x11, 0x12, 0x20, 0x21, 0x22, 0x23, 0x24, 0x25, 0x26, 0x27, 0x28] ++
  [0x29, 0x2A, 0x2B, 0x30, 0x40, 0x41, 0x42, 0x43, 0x44, 0x45, 0x46, 0x47, 0x48, 0x50, 0x51, 0x52, 0x53, 0x54] ++
  [0x55, 0x56]

/-- A mask covers a value. -/
def within (x m : Nat) : Bool := (x &&& m) == x

/-- Reason 2: a reserved opcode, flag or field value. -/
def Insn.reserved (i : Insn) : Bool :=
  !opcodes.contains i.op || !within i.flags (flagMask i.op) || !within i.imm (immMask i) ||
  (match i.op with
   | 0x20 => bits i.flags 4 3 == 3
   | 0x21 => bits i.flags 4 3 == 3
   | 0x22 => bits i.flags 4 3 == 3
   | 0x23 => bits i.flags 4 3 == 3
   | 0x24 => bits i.flags 6 5 == 3
   | 0x26 => bits i.flags 4 3 == 3
   | 0x27 => decide (i.imm % 16 > 7)
   | 0x28 => decide (i.imm % 16 > 7)
   | 0x29 => decide (i.imm % 16 > 7 ∨ i.imm % 16 < 2)
   | 0x30 => i.imm % 4 == 3
   | 0x53 => Marg.scope i.imm == 3 || decide (i.imm % 16 > 1)
   | 0x54 => bits i.imm 17 16 == 3
   | _ => false)

/-! ## Operand ranges (R98, R102; reason 3) -/

/-- Elements of a vector format in one line of 32 bytes. -/
def lineElems (f : Nat) : Nat := 256 / (vfmtOf f).bits

/-- What a MAC names by its immediate: tokens, weight format, activation format; with its assignment code (R102, R116). -/
def Insn.tokens (i : Insn) : Nat := bits i.imm 34 32 + 1
def Insn.wfmt (i : Insn) : Nat := bits i.imm 38 36
def Insn.afmt (i : Insn) : Nat := bits i.imm 41 40
def Insn.asg (i : Insn) : Nat := bits i.flags 2 1
/-- Accumulator entries and vector-file lines of a MAC, the line of activation scales included (R116, R117). -/
def Insn.entries (i : Insn) : Nat := if i.asg = 1 then i.tokens * macBlocks i.wfmt else i.tokens
def Insn.lines (i : Insn) : Nat := macLines i.wfmt i.afmt i.tokens + (if i.afmt = 2 then 0 else 1)
/-- FLAGS[3] of MAC, WRITE and PACK: the operands move on each iteration of the enclosing REPEAT (R101, R102). -/
def Insn.advances (i : Insn) : Bool := (i.op == 0x10 || i.op == 0x11 || i.op == 0x28) && i.flags.testBit 3
/-- FLAGS[4] of MAC and WRITE: the position comes from the stream. -/
def Insn.streams (i : Insn) : Bool := (i.op == 0x10 || i.op == 0x11) && i.flags.testBit 4

/-- An instruction on iteration k of its REPEAT: what moves and by how much is what R111 moves on a repeated issue, the entries or lines
of a MAC by its assignment code (log 10). -/
def Insn.advanced (i : Insn) (k : Nat) : Insn :=
  if i.advances = false then i
  else if i.op = 0x10 then
    { i with
      imm := i.imm + k
      a := if i.asg = 2 then i.a + k * i.tokens else i.a
      c := if i.asg = 3 then i.c + k * (macLines i.wfmt i.afmt i.tokens + 1) else i.c }
  else if i.op = 0x11 then { i with a := i.a + k, imm := i.imm + k }
  else
    let n := lineElems (i.imm % 16)
    let e := bits i.imm 13 8 + 8 * k
    { i with a := i.a + e / n, imm := i.imm - 256 * bits i.imm 13 8 + 256 * (e % n) }

/-- A row or line operand lies in the share. -/
def inKind (acc lines kind n : Nat) : Bool := if kind = 0 then decide (8 * n + 8 ≤ acc) else decide (n < lines)

/-- An operand lies out of range: `units` native units and `stream` bytes of the stream program are in the image. -/
def Insn.outOfRange (i : Insn) (exclusive : Bool) (units stream : Nat) : Bool :=
  let acc := if exclusive then 1024 else 256
  let lines := if exclusive then 512 else 128
  let kind (n k : Nat) : Bool := inKind acc lines (i.flags / 2 ^ k % 2) n
  let pen (n : Nat) : Bool := decide (n < 1024)
  let pen? (n : Nat) : Bool := decide (n < 1024 ∨ n = 0xFFFF)
  let ten (n : Nat) : Bool := decide (n < 4096)
  !(match i.op with
    | 0x04 => decide (i.imm + i.a ≤ units)
    | 0x05 => decide (i.imm < stream)
    | 0x10 => ten i.b && decide (i.a + i.entries ≤ acc ∧ i.c + i.lines ≤ lines)
    | 0x11 => decide (i.a < lines) && ten i.b
    | 0x12 => i.flags % 2 == 1 || decide (i.b < lines)
    | 0x24 => decide (i.a < lines) && kind i.b 1 && kind i.c 2
    | 0x26 => kind i.a 0 && kind i.c 2
    | 0x27 => inKind acc lines 0 i.a && decide (i.c < lines) && decide (bits i.imm 13 8 + 8 ≤ lineElems (i.imm % 16))
    | 0x28 => decide (i.a < lines) && inKind acc lines 0 i.c && decide (bits i.imm 13 8 + 8 ≤ lineElems (i.imm % 16))
    | 0x29 => decide (i.a < lines ∧ bits i.imm 24 16 < lines ∧ i.c % 4 = 0) && inKind acc lines 0 (i.c + 3) &&
        decide (bits i.imm 13 8 + 32 ≤ lineElems (i.imm % 16))
    | 0x2A => kind i.a 0 && kind i.c 2
    | 0x2B => inKind acc lines 0 i.c
    | 0x30 => decide (1 ≤ i.b ∧ i.b ≤ 512 ∧ i.a + i.b ≤ lines ∧ i.c ≤ 16 ∧
        (if i.imm % 4 = 1 then i.imm / 32 + i.b ≤ 8192 else i.imm / 1024 < 2 ^ 26))
    | 0x40 => pen i.a && decide (1 ≤ i.imm ∧ i.imm ≤ 65535)
    | 0x41 => pen i.a && decide (i.b < 8 ∧ i.imm ≤ 32767)
    | 0x42 => decide (i.a < 8 ∧ i.imm < 2 ^ 25)
    | 0x43 => decide (i.a < 64)
    | 0x44 => decide (1 ≤ i.imm ∧ i.imm < 2 ^ 28)
    | 0x47 => ten i.a
    | 0x48 => ten i.a
    | 0x53 => ten i.a && pen? i.c &&
        (if Marg.count i.imm = 0 then ten i.b
         else decide (0x1000 ≤ i.b ∧ i.b < 0x1200) && !Marg.acc i.imm && (!Marg.lse i.imm || Marg.count i.imm % Marg.rows i.imm == 0)) &&
        decide (Marg.bsum i.imm ≤ 5)
    | 0x54 => ten i.a && ten i.b && pen? i.c && decide (1 ≤ Targ.k i.imm ∧ Targ.k i.imm ≤ 4096) &&
        !(bits i.imm 17 16 == 2 && bits i.imm 43 32 == 0xFFF)
    | 0x55 => ten i.a && ten i.b && pen? i.c && decide (bits i.imm 44 32 ≤ 4096) &&
        (let t : Word32 := BitVec.ofNat 32 (i.imm % 65536 * 65536)
         !isNan t && !isPinf t && !isMinf t && (i.imm % 65536 == 0x8000 || !t.getLsbD 31))
    | 0x56 => ten i.a && ten i.b && pen? i.c && decide (1 ≤ i.imm % 16 ∧ i.imm % 16 ≤ 8)
    | n => if 0x20 ≤ n ∧ n ≤ 0x25 then kind i.a 0 && kind i.b 1 && kind i.c 2
           else if 0x50 ≤ n ∧ n ≤ 0x52 then ten i.a && ten i.b && pen? i.c
           else true)

/-! ## Tensors, pennants, roll calls (R136, R219, R244, R266, R323; reasons 5 and 6) -/

/-- Tensors an instruction names: handle, and whether it writes the tensor. -/
def Insn.tensors (i : Insn) : List (Nat × Bool) :=
  match i.op with
  | 0x10 => [(i.b, false)]
  | 0x11 => [(i.b, true)]
  | 0x47 => [(i.a, i.flags % 2 == 1)]
  | 0x48 => [(i.a, false)]
  | 0x50 => [(i.a, true), (i.b, false)]
  | 0x51 => [(i.a, true), (i.b, false)]
  | 0x52 => [(i.a, true), (i.b, false)]
  | 0x53 => (i.a, true) :: (if Marg.count i.imm = 0 then [(i.b, false)] else [])
  | 0x54 => [(i.a, true), (i.b, false)] ++ (if bits i.imm 43 32 = 0xFFF then [] else [(bits i.imm 43 32, false)])
  | 0x55 => [(i.a, true), (i.b, false)]
  | 0x56 => [(i.a, true), (i.b, false)] ++ (if bits i.imm 43 32 = 0xFFF then [] else [(bits i.imm 43 32, true)])
  | _ => []

/-- Engine-1 tensors lie in staging SRAM in the formats of R266. -/
def Insn.mergeOk (i : Insn) (d : Nat → Desc) : Bool :=
  let at_ (h : Nat) (fs : List Nat) : Bool := (d h).space == 1 && fs.contains (d h).fmt
  match i.op with
  | 0x53 => at_ i.a [6, 7] && (decide (Marg.count i.imm ≠ 0) || at_ i.b [6, 7])
  | 0x54 => at_ i.a [8] && at_ i.b [7] && (bits i.imm 43 32 == 0xFFF || at_ (bits i.imm 43 32) [8])
  | 0x55 => at_ i.a [8] && at_ i.b [8]
  | 0x56 => at_ i.a [8] && at_ i.b [7] && (bits i.imm 43 32 == 0xFFF || at_ (bits i.imm 43 32) [7])
  | _ => true

/-- What is wrong with an instruction's tensors, reason 5: 1 for a handle that is no valid descriptor, else the code that R244 and R266
report with the refusal; 0 for nothing. -/
def State.tensorCode (s : State) (c : Nat) (i : Insn) : BitVec 16 :=
  let d (h : Nat) : Desc := s.desc c h
  if i.tensors.any (fun t => !(d t.1).live || (t.2 && !(d t.1).writable)) then 1
  else if i.mergeOk d = false then Code.descFormat
  else if 0x50 ≤ i.op ∧ i.op ≤ 0x52 then copyPair (i.op - 0x4F) (i.flags % 2 == 1) (d i.a) (d i.b)
  else 0

/-- Roll call of a SCOPE 2 operation, if it is one. -/
def Insn.ringRoll (i : Insn) : Option Nat :=
  if i.op = 0x53 ∧ Marg.scope i.imm = 2 then some (Marg.roll i.imm)
  else if i.op = 0x54 ∧ bits i.imm 17 16 = 2 then some (Targ.roll i.imm)
  else none

/-- Reason 6: a pennant or roll call that is not bound, or a SCOPE 2 roll call without participant 17. -/
def State.bindFault (s : State) (c : Nat) (i : Insn) : Bool :=
  let pen (n : Nat) : Bool := (s.binding c n).kind == 0
  (decide (i.op = 0x40 ∨ i.op = 0x41) && pen i.a) ||
  (decide (0x50 ≤ i.op ∧ i.op ≤ 0x56 ∧ i.c ≠ 0xFFFF) && pen i.c) ||
  (decide (i.op = 0x43) && !(s.rollHandle c i.a).bound) ||
  (match i.ringRoll with
   | some h => !(s.rollHandle c h).bound || !(s.rollCall (s.rollHandle c h).num.toNat).localMask.getLsbD 17
   | none => false)

end Sys2Proof.Machine
end

