-- ==== Sys2Proof/Machine/Words.lean ====
section
/-! DEFINITION. Bank long words as the loader makes and checks them: encoding, reading from units, the ranges of moving fields, and the
structure of a hand-built word (R105 to R107, R111 to R128, R131, R138). -/

namespace Sys2Proof.Machine

/-! ## Encoding (R105 to R107) -/

/-- PRESENT of a list of eight slots: bit 63 for ROW down to bit 56 for CTRL. -/
def presentBits (slots : List (Option Word32)) : Nat := slots.foldl (fun n x => 2 * n + (if x.isSome then 1 else 0)) 0

/-- The fields of a header that a translation chooses (R107). -/
structure Header where
  rep : Nat
  sel : Nat
  end_ : Bool
  recess : Bool
  rclass : Nat
  stream : Bool
  cop : Nat
  origin : Nat
  deriving DecidableEq, Repr

def Header.plain (origin : Nat) : Header := ⟨0, 0, false, false, 0, false, 0, origin⟩

/-- A word from its header fields and slots; reserved bits are 0. -/
def mkWord (h : Header) (slots : List (Option Word32)) : Word :=
  { header := BitVec.ofNat 64 (presentBits slots * 2 ^ 56 + h.rep * 2 ^ 44 + h.sel * 2 ^ 40 + h.end_.toNat * 2 ^ 39 +
      h.recess.toNat * 2 ^ 38 + h.rclass * 2 ^ 36 + h.stream.toNat * 2 ^ 35 + h.cop * 2 ^ 32 + h.origin % 2 ^ 20)
    slots := slots }

def noSlots : List (Option Word32) := List.replicate 8 none

/-- n beats without a command (R107, R111): words without slots of up to 4,096 issues. -/
def idleWords (origin n : Nat) : List Word :=
  (List.range ((n + 4095) / 4096)).map (fun i => mkWord { Header.plain origin with rep := min 4096 (n - 4096 * i) - 1 } noSlots)

/-- The units of a word: header bits [63:32], then [31:0], then its slots (R106). -/
def Word.units (w : Word) : List Word32 := [w.header.extractLsb' 32 32, w.header.extractLsb' 0 32] ++ w.slots.filterMap id

/-- Words as bytes: consecutive units, little-endian, without padding (R106). -/
def wordBytes (ws : List Word) : List Byte := ws.flatMap (fun w => w.units.flatMap (fun u => bytesOf 4 u))

/-- Length of words in units. -/
def unitCount (ws : List Word) : Nat := (ws.map (fun w => w.bytes / 4)).foldl (· + ·) 0

/-- The same word with another REPEAT, or another ORIGIN (R138). -/
def Word.withRepeats (w : Word) (n : Nat) : Word := { w with header := setBits w.header 44 12 n }
def Word.withOrigin (w : Word) (n : Nat) : Word := { w with header := setBits w.header 0 20 n }

/-- The slots of PRESENT, taken from units: none when too few are left. -/
def takeSlots (p : BitVec 8) : Nat → List Word32 → Option (List (Option Word32) × List Word32)
  | 0, us => some ([], us)
  | n + 1, us =>
    if p.getLsbD n then
      match us with
      | [] => none
      | u :: us => (takeSlots p n us).map (fun r => (some u :: r.1, r.2))
    else (takeSlots p n us).map (fun r => (none :: r.1, r.2))

/-- Units read as words, each with its offset in units: none when the last word is cut off (R105). -/
def readWords : Nat → Nat → List Word32 → Option (List (Nat × Word))
  | _, _, [] => some []
  | 0, _, _ => none
  | _, _, [_] => none
  | n + 1, at_, a :: b :: us =>
    let h : BitVec 64 := a ++ b
    match takeSlots (h.extractLsb' 56 8) 8 us with
    | none => none
    | some r =>
      let w : Word := { header := h, slots := r.1 }
      (readWords n (at_ + w.bytes / 4) r.2).map (fun ws => (at_, w) :: ws)

/-! ## Ranges of moving fields (R111, R112, R120) -/

/-- A VEC operation that takes fields from LIT (R120). -/
def Vec.needsLit (w : Word32) : Bool := [3, 6, 7, 8].contains (Vec.op w) || (Vec.op w == 10 && Vec.bk w == 0)

/-- A row or line operand of VEC on issue k lies in the file: rows 0 to 127, lines 0 to 511 (R119). -/
def inFile (kind n : Nat) : Bool := if kind = 0 then decide (n < 128) else decide (n < 512)

def Col.inRange (w : Word32) (k : Nat) : Bool :=
  (Col.ags w || decide (Col.column w + k < 64)) && (!(Col.op w == 3 || Col.op w == 4) || decide (Col.line w + k < 512))

def Mac.inRange (w : Word32) (k : Nat) : Bool :=
  let n := macLines (Mac.wfmt w) (Mac.afmt w) (Mac.tokens w)
  let es := if Mac.asg w = 1 then Mac.tokens w * macBlocks (Mac.wfmt w) else Mac.tokens w
  let a := Mac.acc w + (if Mac.asg w = 2 then k * Mac.tokens w else 0)
  let l := Mac.vline w + (if Mac.asg w = 3 then k * (n + 1) else 0)
  decide (a + es ≤ 1024 ∧ l + n + (if Mac.afmt w = 2 then 0 else 1) ≤ 512)

def Vec.inRange (w lit : Word32) (k : Nat) : Bool :=
  let op := Vec.op w
  let f := vfmtOf (Vec.fmt w)
  if op = 7 then
    let n := 256 / f.bits
    let e := Lit.eoff lit + 8 * k
    inLine f (Lit.eoff lit) 8 && decide (Vec.d w + e / n < 512) && inFile (Vec.bk w) (Vec.b w + k) && inLine f (e % n) 8
  else if op = 8 then
    decide (Vec.d w + k < 512 ∧ Vec.b w + 4 * k + 3 < 128 ∧ Vec.b w % 4 = 0) && inLine f (Lit.eoff lit) 32
  else if op = 9 then inFile 0 (Vec.b w + k)
  else if op = 10 then Vec.bk w == 0 || decide (Vec.b w + k < 512)
  else
    inFile (Vec.dk w) (Vec.d w + k) && inFile (Vec.bk w) (Vec.b w + k) &&
      (op != 3 || decide (Lit.byte lit + k < 32)) && (op != 6 || inLine f (Lit.eoff lit) 8)

def Xfer.inRange (w : Word32) (k : Nat) : Bool :=
  decide (Xfer.line w + (k + 1) * Xfer.n w ≤ 512 ∧ Xfer.off w + (k + 1) * Xfer.n w ≤ 8192)

/-- Every slot of a word lies in its ranges on issue k. -/
def Word.inRangeAt (w : Word) (k : Nat) : Bool :=
  (match w.slot 1 with
   | some x => Col.inRange x k
   | none => true) &&
  (match w.slot 2 with
   | some x => Mac.inRange x k
   | none => true) &&
  (match w.slot 3 with
   | some x => Vec.inRange x ((w.slot 7).getD 0) k
   | none => true) &&
  (match w.slot 4 with
   | some x => Xfer.inRange x k
   | none => true)

/-- Moving fields leave their ranges within no repetition (R112). -/
def Word.inRange (w : Word) : Bool := (List.range (w.repeats + 1)).all w.inRangeAt

/-- A word may have REPEAT above 0: only COL, MAC, VEC and XFER slots, or none (R111). -/
def Word.repeatable (w : Word) : Bool := [0, 5, 6, 7].all (fun i => (w.slot i).isNone)

/-! ## Structure of a hand-built word (R113 to R128, R131, R138) -/

def Row.formed (w : Word32) : Bool := decide (fld w 31 30 ≠ 0 ∧ fld w 25 16 = 0)
def Col.formed (w : Word32) : Bool := decide (1 ≤ Col.op w ∧ Col.op w ≤ 4 ∧ Col.le w ≠ 3 ∧ fld w 7 1 = 0)
def Mac.formed (w : Word32) : Bool :=
  decide (Mac.wfmt w ≠ 7 ∧ Mac.afmt w ≠ 3 ∧ Mac.le w ≠ 3 ∧ (Mac.wfmt w = 1 ∨ Mac.wfmt w = 2 → Mac.le w = 0))
/-- LIT is there for the operations that take it (R120); its reserved bits are 0 (R121). -/
def Vec.formed (w : Word32) (lit : Option Word32) : Bool :=
  decide (Vec.op w ≤ 10 ∧ Vec.fmt w ≤ 7 ∧ Vec.mod w ≤ (if Vec.op w = 4 then 1 else 2)) &&
    (!Vec.needsLit w || lit.isSome) && (Vec.op w != 8 || decide (2 ≤ Vec.fmt w)) &&
    (Vec.op w == 10 || !Vec.needsLit w || fld (lit.getD 0) 11 8 == 0)
def Xfer.formed (w : Word32) : Bool := decide (Xfer.src w ≠ 3 ∧ Xfer.dsel w ≤ 16)
/-- R123 gives the COUNT of a BELL no range: 0 is no error, and no bell is waited for (DESIGN CHOICE, log 88). -/
def Sync.formed (w : Word32) : Bool :=
  match Sync.op w with
  | 1 => decide (fld w 17 16 = 0 ∧ Sync.amt w ≠ 0)
  | 2 => true
  | 3 => true
  | 4 => decide (fld w 27 26 = 0 ∧ fld w 18 0 = 0)
  | 5 => decide (fld w 27 26 = 0 ∧ fld w 19 0 = 0)
  | 6 => true
  | 7 => decide (fld w 20 0 = 0)
  | 8 => decide (fld w 27 0 = 0)
  | 9 => decide (fld w 27 16 = 0)
  | _ => false
def Addr.formed (w : Word32) : Bool :=
  match Addr.op w with
  | 1 => decide (fld w 12 0 = 0)
  | 2 => decide (fld w 12 0 = 0)
  | 3 => true
  | 4 => decide (Addr.src w = 0 ∨ Addr.src w = 2)
  | _ => false
def Ctrl.formed (cop : Nat) (w : Word32) : Bool :=
  match cop with
  | 0 => true
  | 1 => decide (Ctrl.reg w ≠ 0 ∧ fld w 25 16 = 0)
  | 2 => decide (fld w 29 24 = 0)
  | 3 => decide (fld w 29 22 = 0)
  | 4 => decide (Ctrl.engine w ≤ 1 ∧ fld w 29 22 = 0)
  | _ => false

/-- LIT of a word: its CTRL slot with COP = LIT. -/
def Word.lit (w : Word) : Option Word32 := if w.cop = 0 then w.slot 7 else none

/-- A hand-built word is formed as R105 to R128 and R131 say, has no END and no STREAM outside profile 1, and its fields stay in their
ranges. -/
def Word.formed (w : Word) (profile : Nat) : Bool :=
  let ok (i : Nat) (p : Word32 → Bool) : Bool := match w.slot i with
    | some x => p x
    | none => true
  fld w.header 31 20 == 0 && !w.end_ && w.rclass != 3 && decide (w.cop.toNat ≤ 4) && (!w.stream || profile == 1) &&
  (w.repeats == 0 || w.repeatable) && w.inRange &&
  (!w.recess || decide (w.present = 0 ∧ w.repeats = 0 ∧ w.sel = 0)) &&
  ok 0 Row.formed && ok 1 Col.formed && ok 2 Mac.formed && ok 3 (fun x => Vec.formed x w.lit) && ok 4 Xfer.formed &&
  ok 5 Sync.formed && ok 6 Addr.formed && ok 7 (Ctrl.formed w.cop.toNat)

/-- The words of a hand-built block are formed (R138). A recess word in a block of a profile 1 image is no error: R143 speaks of what the
loader inserts (DESIGN CHOICE, log 88). -/
def blockFormed (ws : List (Nat × Word)) (profile : Nat) : Bool := ws.all (fun w => w.2.formed profile)

end Sys2Proof.Machine
end

