-- ==== Sys2Proof/Machine/Native.lean ====
section
/-! DEFINITION. The path of a timetable's words, followed issue by issue with the loop counters, mask registers and generators as they
stand: what hand-built blocks on it break of the distances, open rows and recesses (R114, R130 to R134, R138), and its OUT issues and
stream launches (R260, R261). -/

namespace Sys2Proof.Machine

/-- A half of a bank along the path: 0 precharged, 1 open, 2 perhaps open; the beats from which COL, PRE and ACT are allowed. -/
structure HalfTrace where
  st : Nat
  mayCol : Nat
  mayPre : Nat
  mayAct : Nat
  deriving DecidableEq, Repr

def HalfTrace.init : HalfTrace := ⟨0, 0, 0, 0⟩

/-- A bank along the path; where a walk by an index tensor opened a row in a half the loader does not know, the generator, the beat from
which it may be used, and its position. -/
structure BankTrace where
  half0 : HalfTrace
  half1 : HalfTrace
  byGen : Option (Nat × Nat × Nat)
  deriving DecidableEq, Repr

def BankTrace.init : BankTrace := ⟨HalfTrace.init, HalfTrace.init, none⟩

def BankTrace.half (b : BankTrace) (h : Nat) : HalfTrace := if h = 0 then b.half0 else b.half1
def BankTrace.setHalf (b : BankTrace) (h : Nat) (x : HalfTrace) : BankTrace := if h = 0 then { b with half0 := x } else { b with half1 := x }

/-- An event of the path, with its instruction: an OUT issue of a tag on some bank units, or a launch of the MERGE of a tag (R260, R261). -/
inductive PathEvent where
  | out (ix tag : Nat) (units : BitVec 53)
  | launch (ix tag : Nat)
  deriving DecidableEq, Repr

/-- What a path is followed with: the row of a generator's position, none in the outer place where only the index tensor knows it and in the
inner one at an absent position; whether an instruction is a NATIVE; PROFILE; and the instruction and tag of a stream's MERGE launched
with a record. -/
structure PathEnv where
  look : Gen → Option (Option Nat)
  native : Nat → Bool
  profile : Nat
  launch : Nat → Option (Nat × Nat)

/-- The path so far: word, its ORIGIN, beat, loop counters, mask registers, generators, the banks, the beat from which each generator may
be used, the beat from which no column command is due, the last recess taken for RDIV 1, 2 and 4, the events with the last one first, and
the NATIVE instruction that breaks a rule first. -/
structure Trace where
  pc : Nat
  here : Nat
  beat : Nat
  loops : Table Nat
  masks : Table (BitVec 53)
  gens : Table Gen
  banks : Table BankTrace
  walks : Table Nat
  quietAt : Nat
  lastRecess : List Nat
  events : List PathEvent
  bad : Option Nat
  deriving DecidableEq, Repr

def Trace.start : Trace := ⟨0, 0, 0, [], [], [], [], [], 0, [0, 0, 0], [], none⟩

/-- A rule is broken by the word: only the words of hand-built blocks count (R138). -/
def Trace.fail (t : Trace) (e : PathEnv) (p : Bool) : Trace := if p && e.native t.here && t.bad.isNone then { t with bad := some t.here } else t

/-- Bank positions of a quadrant that a MASK_SEL selects, as the mask registers stand. -/
def Trace.maskOf (t : Trace) (sel : Nat) : BitVec 53 := if sel = 0 then BitVec.allOnes 53 else tget (BitVec.allOnes 53) t.masks sel
def Trace.selected (t : Trace) (sel : Nat) : List Nat := maskUnits 0 (t.maskOf sel)

/-- The row that a slot takes by its generator or its immediate. -/
def Trace.rowAt (t : Trace) (e : PathEnv) (ags : Bool) (g row : Nat) : Option (Option Nat) :=
  if ags then e.look (tget Gen.unset t.gens g) else some (some row)

/-- Where a generator stands, as BankTrace keeps it. -/
def Trace.genKey (t : Trace) (g : Nat) : Nat × Nat × Nat := (g, tget 0 t.walks g, (tget Gen.unset t.gens g).pos)

/-- ROW of a bank: the bank after it, and whether a distance or an open row forbids it. -/
def BankTrace.row (b : BankTrace) (beat : Nat) (w : Word32) (place : Option (Option Nat)) (key : Nat × Nat × Nat) : BankTrace × Bool :=
  let op := fld w 31 30
  let act (x : HalfTrace) : HalfTrace := { x with st := 1, mayCol := beat + 10, mayPre := beat + 24 }
  let near (x : HalfTrace) : HalfTrace := { x with mayAct := max x.mayAct (beat + 4) }
  let pre (x : HalfTrace) : HalfTrace := if x.st = 0 then x else { x with st := 0, mayAct := max x.mayAct (beat + 10) }
  let maybe (x : HalfTrace) : HalfTrace := if x.st = 0 then x else { x with st := 2, mayAct := max x.mayAct (beat + 10) }
  let early (x : HalfTrace) : Bool := decide (x.st ≠ 0 ∧ beat < x.mayPre)
  if op = 3 then (⟨pre b.half0, pre b.half1, none⟩, early b.half0 || early b.half1)
  else match place with
    | some none => (b, false)
    | some (some row) =>
      let h := row % 2
      let x := b.half h
      if op = 1 then ((b.setHalf h (act x)).setHalf (1 - h) (near (b.half (1 - h))), x.st != 0 || decide (beat < x.mayAct))
      else ({ b.setHalf h (pre x) with byGen := none }, early x)
    | none =>
      if op = 1 then
        (⟨{ act (near b.half0) with st := 2 }, { act (near b.half1) with st := 2 }, some key⟩,
          b.half0.st != 0 || b.half1.st != 0 || decide (beat < b.half0.mayAct ∨ beat < b.half1.mayAct))
      else (⟨maybe b.half0, maybe b.half1, none⟩, early b.half0 || early b.half1)

/-- COL of a bank: every half it can name has an open row, 10 beats after its ACT (R114, R130). -/
def BankTrace.col (b : BankTrace) (beat : Nat) (w : Word32) (place : Option (Option Nat)) (key : Nat × Nat × Nat) : BankTrace × Bool :=
  let wait := if Col.op w = 3 then 10 else if Col.op w = 4 then 18 else 2
  let used (x : HalfTrace) : HalfTrace := { x with mayPre := max x.mayPre (beat + wait) }
  let late (x : HalfTrace) : Bool := decide (beat < x.mayCol)
  match place with
  | some none => (b, false)
  | some (some row) =>
    let x := b.half (row % 2)
    (b.setHalf (row % 2) (used x), x.st != 1 || late x)
  | none =>
    let known := b.byGen == some key || (b.half0.st == 1 && b.half1.st == 1)
    (⟨used b.half0, used b.half1, b.byGen⟩, !known || late b.half0 || late b.half1)

/-- One bank command on the selected banks. -/
def Trace.onBanks (t : Trace) (e : PathEnv) (sel : Nat) (f : BankTrace → BankTrace × Bool) : Trace :=
  (t.selected sel).foldl (fun (t : Trace) u =>
    let r := f (tget BankTrace.init t.banks u)
    { t with banks := tset BankTrace.init t.banks u r.1 }.fail e r.2) t

/-- A generator is used 32 beats after it was set, or later (R130). -/
def Trace.useGen (t : Trace) (e : PathEnv) (ags : Bool) (g : Nat) : Trace := t.fail e (ags && decide (t.beat < tget 0 t.walks g))

/-- A generator steps. -/
def Trace.stepGen (t : Trace) (g n : Nat) : Trace :=
  { t with gens := tmod Gen.unset t.gens g (fun y => if y.set then { y with pos := y.pos + n } else y) }

/-- COL, then ROW of one issue, both by the generators as they stood (R110); an address of the stream opens its own row (R142). -/
def Trace.bankSlots (t : Trace) (e : PathEnv) (w : Word) (slots : List (Option Word32)) : Trace :=
  let sel := w.sel.toNat
  let old := t
  let t := match slots.getD 1 none with
    | some x =>
      let t := t.useGen e (Col.ags x && !w.stream) (Col.ag x)
      let t := if w.stream then t
        else t.onBanks e sel (fun b => b.col t.beat x (old.rowAt e (Col.ags x) (Col.ag x) (Col.half x)) (old.genKey (Col.ag x)))
      let t := if Col.ags x && !w.stream then t.stepGen (Col.ag x) 1 else t
      { t with quietAt := max t.quietAt (t.beat + (if Col.op x = 3 then 6 else if Col.op x = 4 then 14 else 8)) }
    | none => t
  match slots.getD 0 none with
  | some x =>
    if w.stream then t
    else (t.useGen e (Row.ags x) (Row.ag x)).onBanks e sel
      (fun b => b.row t.beat x (old.rowAt e (Row.ags x) (Row.ag x) (Row.row x)) (old.genKey (Row.ag x)))
  | none => t

/-- ADDR of one issue (R125, R126, R550). -/
def Trace.addrSlot (t : Trace) (e : PathEnv) (x : Word32) : Trace :=
  let g := Addr.ag x
  match Addr.op x with
  | 1 => { t with
      gens := tset Gen.unset t.gens g ⟨true, false, BitVec.ofNat 12 (Addr.desc x), 0⟩, walks := tset 0 t.walks g (t.beat + 32) }
  | 2 => { t with
      gens := tset Gen.unset t.gens g ⟨true, decide (e.profile = 0), BitVec.ofNat 12 (Addr.desc x), 0⟩
      walks := tset 0 t.walks g (t.beat + 32) }
  | 3 => t.stepGen g (Addr.count x)
  | _ => t

/-- OUT, ADDR, MSK and LAUNCH of one issue. -/
def Trace.otherSlots (t : Trace) (e : PathEnv) (w : Word) (slots : List (Option Word32)) : Trace :=
  let t := match slots.getD 3 none with
    | some x => if Vec.op x = 9 then { t with events := .out t.here (Vec.d x) (t.maskOf w.sel.toNat) :: t.events } else t
    | none => t
  let t := match slots.getD 6 none with
    | some x => t.addrSlot e x
    | none => t
  match slots.getD 7 none with
  | some x =>
    if w.cop = 1 then
      let r := Ctrl.reg x
      let m := t.maskOf r
      let p := Ctrl.part x
      let m := if p = 0 then setBits m 0 5 (Ctrl.value x) else setBits m (5 + 16 * (p - 1)) 16 (Ctrl.value x)
      { t with masks := tset (BitVec.allOnes 53) t.masks r m }
    else if w.cop = 4 ∧ Ctrl.engine x = 1 then
      match e.launch (Ctrl.record x) with
      | some l => { t with events := .launch l.1 l.2 :: t.events }
      | none => t
    else t
  | none => t

/-- One issue of a word. -/
def Trace.issue (t : Trace) (e : PathEnv) (w : Word) (k : Nat) : Trace :=
  let slots := w.moved k
  let t := (t.bankSlots e w slots).otherSlots e w slots
  { t with beat := t.beat + 1 }

/-- A recess word: every half precharged and no column command due (R134); for each RDIV of 1, 2 and 4 it is taken or skipped by its
class, and in profile 0 no more than RDIV × 600 beats lie between two that are taken (R133, R143). -/
def Trace.recess (t : Trace) (e : PathEnv) (w : Word) : Trace :=
  let quiet := t.banks.all (fun b => b.2.half0.st == 0 && b.2.half1.st == 0)
  let spaced := e.profile == 1 || [0, 1, 2].all (fun n => decide (t.beat - t.lastRecess.getD n 0 ≤ 2 ^ n * 600))
  let last := [0, 1, 2].map (fun n => if w.rclass.toNat ≥ n then t.beat else t.lastRecess.getD n 0)
  { t.fail e (!quiet || decide (t.beat < t.quietAt) || !spaced) with lastRecess := last }

/-- Words with their offsets in units. -/
def placed (ws : List Word) : List (Nat × Word) :=
  (ws.foldl (fun (acc : Nat × List (Nat × Word)) w => (acc.1 + w.bytes / 4, (acc.1, w) :: acc.2)) (0, [])).2.reverse

/-- Index of the word at an offset in units. -/
def wordAt (ws : List (Nat × Word)) (a : Nat) : Option Nat := ws.findIdx? (fun w => w.1 == a)

/-- One word of the path; ENDL goes to a word, in a hand-built block to one of the block (R127). -/
def Trace.step (t : Trace) (e : PathEnv) (ws : List (Nat × Word)) (a : Nat) (w : Word) : Trace :=
  let t := { t with here := fld w.header 19 0 }
  if w.recess then { t.recess e w with pc := t.pc + 1 }
  else
    let t := (List.range (w.repeats + 1)).foldl (fun (t : Trace) k => t.issue e w k) t
    match w.slot 7 with
    | some x =>
      let n := tget 0 t.loops (Ctrl.cnt x)
      if w.cop = 2 then { t with loops := tset 0 t.loops (Ctrl.cnt x) (Ctrl.count x), pc := t.pc + 1 }
      else if w.cop = 3 ∧ n ≠ 0 then
        match (if Ctrl.back x ≤ a then wordAt ws (a - Ctrl.back x) else none) with
        | some p =>
          { t.fail e (fld (ws.getD p (a, w)).2.header 19 0 != t.here) with loops := tset 0 t.loops (Ctrl.cnt x) (n - 1), pc := p }
        | none => { t.fail e true with pc := t.pc + 1 }
      else { t with pc := t.pc + 1 }
    | none => { t with pc := t.pc + 1 }

/-- The path to its end, or to the first NATIVE that breaks a rule; one that does not end within the steps given fails. -/
def Trace.run (e : PathEnv) (ws : List (Nat × Word)) : Nat → Trace → Trace
  | 0, t => t.fail e true
  | n + 1, t =>
    if t.bad.isSome then t
    else match ws[t.pc]? with
      | none => t
      | some w => (t.step e ws w.1 w.2).run e ws n

/-- More words than a path whose loops end can take: each loop counter counts at most 2^24 times from each loading. -/
def pathBound (ws : List (Nat × Word)) : Nat := (ws.length + 1) * 2 ^ (25 * (ws.length + 1))

/-- The path of a lesson's words from its start, every mask register full and every generator unset (R109, R148). -/
def wordsPath (e : PathEnv) (ws : List Word) : Trace := Trace.start.run e (placed ws) (pathBound (placed ws))

/-- Beats that the loader lets pass after a block before it closes every row, and before the recess that follows (R139). -/
def drainBeats : Nat := 32
def closeBeats : Nat := 11

end Sys2Proof.Machine
end

