-- ==== Sys2Proof/Machine/Schedule.lean ====
section
/-! DEFINITION. The loader's scheduler: one slot after another goes to the earliest beat that the latencies of R53 and R59, the occupancies
and the distances of R130 allow; the slots of a beat become one word, and runs of equal words repeated words (04 before R130; R95, R105,
R111). A block begins and ends with nothing in flight and every row closed. -/

namespace Sys2Proof.Machine

/-- What slots read, write or occupy. `stream` is the compatibility stream, `order` the program's place (R96). -/
inductive Res where
  | latch (e : Nat)
  | scale
  | pointer
  | acc (e : Nat)
  | line (l : Nat)
  | wmask
  | slices
  | vector
  | memory
  | mask (r : Nat)
  | base (src : Nat)
  | gen (g : Nat)
  | walk (g : Nat)
  | stream
  | order
  deriving DecidableEq, Repr

/-- A resource in a block: the first beat at which its last write is visible, and the first beat after its last read. -/
structure Use where
  res : Res
  visible : Nat
  read : Nat
  deriving DecidableEq, Repr

/-- One slot to be placed: its position in the slot order, its word, LIT or the COP of a CTRL slot, MASK_SEL and STREAM, the earliest beat it
may take, what it reads and how many beats after its issue, and what it writes or occupies and for how long. -/
structure Piece where
  slot : Nat
  word : Word32
  lit : Option Word32
  cop : Nat
  sel : Nat
  stream : Bool
  origin : Nat
  start : Nat
  reads : List (Res × Nat)
  writes : List (Res × Nat)
  deriving DecidableEq, Repr

def Piece.of (slot : Nat) (word : Word32) (origin : Nat) : Piece := ⟨slot, word, none, 0, 0, false, origin, 0, [], []⟩

/-- A masked column write takes the column path again eight beats later (R56, R59). -/
def Piece.masked (p : Piece) : Bool := p.slot == 1 && Col.op p.word == 4

/-- A slot that acts on bank units, so that MASK_SEL counts (R108). -/
def Piece.onUnits (p : Piece) : Bool := decide (p.slot ≤ 4)

/-- The word of one beat as it fills: MASK_SEL once it counts, STREAM, COP once CTRL is taken, and the slots with their origins. -/
structure Cell where
  sel : Option Nat
  stream : Bool
  cop : Nat
  slots : List (Option (Word32 × Nat))
  deriving DecidableEq, Repr

def Cell.empty : Cell := ⟨none, false, 0, List.replicate 8 none⟩

def Cell.has (c : Cell) (i : Nat) : Bool := (c.slots.getD i none).isSome

/-- A piece fits a word: its slots are free, MASK_SEL agrees, and an address of the stream has ROW and COL to itself (R107, R108, R141). -/
def Cell.fits (c : Cell) (p : Piece) : Bool :=
  !c.has p.slot && (p.lit.isNone || !c.has 7) &&
  (!p.onUnits || c.sel.isNone || c.sel == some p.sel) &&
  (!(p.stream && (c.has 0 || c.has 1))) && (!(c.stream && (p.slot == 0 || p.slot == 1)))

def Cell.add (c : Cell) (p : Piece) : Cell :=
  let slots := c.slots.set p.slot (some (p.word, p.origin))
  { sel := if p.onUnits then some p.sel else c.sel
    stream := c.stream || p.stream
    cop := if p.slot = 7 then p.cop else c.cop
    slots := match p.lit with
      | some l => slots.set 7 (some (l, p.origin))
      | none => slots }

/-- A half of the quadrant's banks as the loader drives it: the open row and its MASK_SEL, none in the first place when it may be open on a
row the loader does not know; the beats from which COL, PRE and ACT are allowed (R130). -/
structure HalfPlan where
  row : Option (Option Nat × Nat)
  mayCol : Nat
  mayPre : Nat
  mayAct : Nat
  /-- The instruction that has used it last. -/
  origin : Nat
  deriving DecidableEq, Repr

def HalfPlan.closed : HalfPlan := ⟨none, 0, 0, 0, 0⟩

/-- A block in the making: words by beat, beats at which the column path is taken, resources, the two halves, and the beat after the last
word. -/
structure Sched where
  cells : Table Cell
  taken : List Nat
  uses : List Use
  half0 : HalfPlan
  half1 : HalfPlan
  top : Nat
  deriving DecidableEq, Repr

def Sched.empty : Sched := ⟨[], [], [], HalfPlan.closed, HalfPlan.closed, 0⟩

def Sched.use (t : Sched) (r : Res) : Use := (t.uses.find? (fun u => u.res = r)).getD ⟨r, 0, 0⟩
def Sched.setUse (t : Sched) (u : Use) : Sched := { t with uses := u :: t.uses.filter (fun x => x.res ≠ u.res) }
def Sched.half (t : Sched) (h : Nat) : HalfPlan := if h = 0 then t.half0 else t.half1
def Sched.setHalf (t : Sched) (h : Nat) (x : HalfPlan) : Sched := if h = 0 then { t with half0 := x } else { t with half1 := x }

/-- The earliest beat for a piece by what it reads and writes: a read at or after the write it depends on is visible, a write visible after
every earlier read and write of the same place (R59, R95). A column write comes after every earlier column read: a read of the column it
has not left would wait for it (R58). -/
def Sched.bound (t : Sched) (p : Piece) : Nat :=
  let b := p.reads.foldl (fun b r => max b ((t.use r.1).visible - r.2)) p.start
  p.writes.foldl (fun b w =>
    max b (max ((t.use w.1).read - (if w.1 = .memory then 0 else w.2)) ((t.use w.1).visible + 1 - w.2))) b

/-- A piece may issue in a beat. -/
def Sched.free (t : Sched) (p : Piece) (b : Nat) : Bool :=
  (tget Cell.empty t.cells b).fits p && (p.slot != 1 || !t.taken.contains b) &&
  (!p.masked || (!(tget Cell.empty t.cells (b + 8)).has 1 && !t.taken.contains (b + 8)))

/-- The first beat from b on in which a piece may issue, looking at n beats. -/
def Sched.first (t : Sched) (p : Piece) : Nat → Nat → Nat
  | 0, b => b
  | n + 1, b => if t.free p b then b else t.first p n (b + 1)

/-- A piece is placed: its beat and the block after. -/
def Sched.place (t : Sched) (p : Piece) : Nat × Sched :=
  let b := t.first p (2 * (t.cells.length + t.taken.length) + 1) (t.bound p)
  let t := { t with
    cells := tmod Cell.empty t.cells b (fun c => c.add p)
    taken := if p.masked then (b + 8) :: t.taken else t.taken
    top := max t.top (b + 1) }
  let t := p.reads.foldl (fun (t : Sched) r => let u := t.use r.1; t.setUse { u with read := max u.read (b + r.2 + 1) }) t
  (b, p.writes.foldl (fun (t : Sched) w => t.setUse { t.use w.1 with visible := b + w.2 }) t)

/-! ## Rows (R114, R130) -/

/-- ACT of a row: 10 beats to its first COL, 24 to PRE of the half, 4 to ACT of the other half. -/
def Sched.act (t : Sched) (row sel origin : Nat) (needs : List (Res × Nat)) : Sched :=
  let h := row % 2
  let x := t.half h
  let r := t.place { Piece.of 0 (BitVec.ofNat 32 (2 ^ 30 + row)) origin with sel := sel, start := x.mayAct, reads := needs }
  let o := r.2.half (1 - h)
  (r.2.setHalf h { x with row := some (some row, sel), mayCol := r.1 + 10, mayPre := r.1 + 24, origin := origin }).setHalf (1 - h)
    { o with mayAct := max o.mayAct (r.1 + 4) }

/-- PRE of a half, or PREA when the loader does not know a row: 10 beats to ACT. It belongs to the instruction that has used the row last. -/
def Sched.close (t : Sched) (h : Nat) : Sched :=
  let x := t.half h
  match x.row with
  | none => t
  | some (some row, _) =>
    let r := t.place { Piece.of 0 (BitVec.ofNat 32 (2 ^ 31 + row)) x.origin with start := x.mayPre }
    r.2.setHalf h { HalfPlan.closed with mayAct := max x.mayAct (r.1 + 10) }
  | some (none, _) =>
    let r := t.place { Piece.of 0 (BitVec.ofNat 32 (2 ^ 31 + 2 ^ 30)) x.origin with start := max t.half0.mayPre t.half1.mayPre }
    let z : HalfPlan := { HalfPlan.closed with mayAct := max (max t.half0.mayAct t.half1.mayAct) (r.1 + 10) }
    (r.2.setHalf 0 z).setHalf 1 z

def Sched.closeAll (t : Sched) : Sched := (t.close 0).close 1

/-- A half that may be open on an unknown row is closed with the other one; a known row other than this one is closed; then the row is
opened. -/
def Sched.openRow (t : Sched) (row sel origin : Nat) (needs : List (Res × Nat)) : Sched :=
  let h := row % 2
  if (t.half h).row = some (some row, sel) then t else (t.close h).act row sel origin needs

/-- A column command has issued at a beat: 2, 10 or 18 beats to PRE of its half. -/
def Sched.touch (t : Sched) (h op b origin : Nat) : Sched :=
  let x := t.half h
  t.setHalf h { x with
    origin := origin, mayPre := max x.mayPre (b + (if op = 3 then 10 else if op = 4 then 18 else 2)) }

/-! ## Blocks as words -/

/-- The word of a filled cell; ORIGIN is that of the first present slot in the order of R107. -/
def Cell.origin (c : Cell) : Nat := ([2, 3, 1, 4, 0, 5, 6, 7].findSome? (fun i => c.slots.getD i none)).elim 0 (·.2)
def Cell.word (c : Cell) : Word :=
  mkWord { Header.plain c.origin with sel := c.sel.getD 0, stream := c.stream, cop := c.cop } (c.slots.map (fun x => x.map (·.1)))

/-- The next word is the issue that REPEAT would make after those of a word (R111, R112). -/
def Word.continues (w x : Word) : Bool :=
  w.repeatable && decide (w.repeats < 4095) && !w.stream && w.inRangeAt (w.repeats + 1) &&
  w.withRepeats 0 == { w with header := setBits x.header 44 12 0 } && w.moved (w.repeats + 1) == x.slots

/-- A word joins a list of words in which the last one comes first. -/
def joinWord (ws : List Word) (x : Word) : List Word :=
  match ws with
  | w :: rest => if w.continues x then w.withRepeats (w.repeats + 1) :: rest else x :: ws
  | [] => [x]

/-- Cells by rising beat, with the gaps between them, as words; the last one comes first. An empty word has the ORIGIN of what comes next
(R107). -/
def cellWords (cells : Table Cell) : Nat × List Word :=
  cells.foldl (fun (acc : Nat × List Word) p =>
    let gap := p.1 - acc.1
    let ws := if gap = 0 then acc.2 else (idleWords p.2.origin gap).reverse ++ acc.2
    (p.1 + 1, if gap = 0 then joinWord ws p.2.word else p.2.word :: ws)) (0, [])

/-- Beats from which a closed block has nothing in flight: every result visible, every half ready for a row. -/
def Sched.drained (t : Sched) : Nat :=
  t.uses.foldl (fun b u => max b (max u.visible u.read)) (max t.top (max t.half0.mayAct t.half1.mayAct))

/-- A block with its rows closed and its results awaited, as words, and its length in beats. -/
def Sched.finish (t : Sched) (next : Nat) : List Word × Nat :=
  if t.cells = [] then ([], 0)
  else
    let t := t.closeAll
    let r := cellWords t.cells
    (r.2.reverse ++ idleWords next (t.drained - r.1), t.drained)

end Sys2Proof.Machine
end

