-- ==== Sys2Proof/Machine/Translate.lean ====
section
/-! DEFINITION. The translation of an EVI program into the words and launch records of one quadrant (R91 to R105, R111, R114, R130 to R135,
R138, R139, R141, R143, R165, R234 to R236, R250, R262, R264). Which generators, latch entries and mask registers it takes, where it puts
recess words, and that a block of words begins with everything drained, is the model's choice (DESIGN CHOICE, log 10). -/

namespace Sys2Proof.Machine

/-! ## What a translation works on -/

/-- The load of one quadrant: the state and context that hold the descriptors, the program, the native units, the profile, the tensors in
the order of their scoreboard entries, the record number of the first launch record, and a row of accumulators or a line that no
instruction names. -/
structure Job where
  st : State
  ctx : Nat
  quad : Nat
  prog : List Insn
  native : List Word32
  profile : Nat
  entries : List Nat
  record : Nat
  spare : Option (Nat × Nat)

def Job.desc (j : Job) (h : Nat) : Desc := j.st.desc j.ctx h
/-- Scoreboard entry of a tensor, relative to the slot (R135, R235). -/
def Job.entry (j : Job) (h : Nat) : Nat := j.entries.findIdx (fun x => x == h)

/-- An open REPEAT: its first instruction, iterations done and in all, whether it is a loop of words, and then the offset of its first
word in units. -/
structure Frame where
  first : Nat
  iter : Nat
  count : Nat
  looped : Bool
  unit : Nat
  deriving DecidableEq, Repr

/-- A generator as the program stands: descriptor, by its index tensor or not, position. -/
structure GenPlan where
  gen : Nat
  desc : Nat
  byIndex : Bool
  pos : Nat
  deriving DecidableEq, Repr

/-- Scales in the scale latch: tensor, group, blocks taken (R118). -/
structure ScalePlan where
  desc : Nat
  group : Nat
  taken : Nat
  deriving DecidableEq, Repr

/-- A translation in progress. `words` holds the last word first; `since` counts the beats since the last recess word; `outs` are the rows
of an LSE record that is not complete; `bad` is the first instruction that cannot be translated and the reason. -/
structure Tr where
  words : List Word
  size : Nat
  sched : Sched
  since : Nat
  latch : Nat
  masks : List (Nat × BitVec 53)
  nextMask : Nat
  bases : List (Nat × Nat)
  gens : List GenPlan
  nextGen : Nat
  scale : Option ScalePlan
  records : List (BitVec 512)
  outs : List Nat
  outTag : Nat
  pc : Nat
  frames : List Frame
  done : Bool
  bad : Option (Nat × Nat)
  deriving DecidableEq, Repr

def Tr.start : Tr := ⟨[], 0, Sched.empty, 0, 0, [], 1, [], [], 0, none, [], [], 0, 0, [], false, none⟩

/-! ## Words and blocks -/

def Tr.put (t : Tr) (p : Piece) : Nat × Tr := let r := t.sched.place p; (r.1, { t with sched := r.2 })
def Tr.add (t : Tr) (p : Piece) : Tr := (t.put p).2

/-- A word after the block so far, outside any block. -/
def Tr.emit (t : Tr) (w : Word) : Tr := { t with words := w :: t.words, size := t.size + w.bytes / 4, since := t.since + w.repeats + 1 }

/-- The block ends: its rows are closed, its results awaited, its words written. -/
def Tr.flush (t : Tr) : Tr :=
  let f := t.sched.finish t.pc
  { t with words := f.1.reverse ++ t.words, size := t.size + unitCount f.1, since := t.since + f.2, sched := Sched.empty }

/-- A recess word, at a beat where every row is closed and nothing is due (R131, R134). Its class is 2, so it is taken for every RDIV
(R132, R133). -/
def Tr.recess (t : Tr) : Tr :=
  { t.flush.emit (mkWord { Header.plain t.pc with recess := true, rclass := 2 } noSlots) with since := 0 }

/-- A recess word once so many beats have passed since the last one (R133). None in profile 1 (R143). -/
def Tr.reliefAt (t : Tr) (profile n : Nat) : Tr := if profile = 0 ∧ t.since + t.sched.top ≥ n then t.recess else t

/-- A recess word well before 600 beats have passed since the last one (R133): one instruction takes fewer than 400, but for long walks
and the words of an LSE record, which have recess words of their own. -/
def Tr.relief (t : Tr) (j : Job) : Tr := t.reliefAt j.profile 200

/-- Nothing is known of the slot's registers any more. -/
def Tr.forget (t : Tr) : Tr := { t with masks := [], bases := [], gens := [], scale := none }

/-! ## Bank units (R108, R109, R127) -/

/-- Bank units of a tensor's box in a quadrant, as a mask. -/
def Desc.unitMask (d : Desc) (q : Nat) : BitVec 53 :=
  let bit (lo hi : Nat) (n off : Nat) : Nat := ((List.range n).filter (fun i => lo ≤ i + off ∧ i + off ≤ hi)).foldl (fun x i => x + 2 ^ i) 0
  BitVec.ofNat 53 (bit d.stackLo d.stackHi 5 (5 * q) + bit d.dieLo d.dieHi 16 0 * 2 ^ 5 + bit d.bankLo d.bankHi 32 0 * 2 ^ 21)

/-- The four parts of a mask register are written (R127). -/
def Tr.setMask (t : Tr) (r : Nat) (m : BitVec 53) : Tr :=
  let parts := [fld m 4 0, fld m 20 5, fld m 36 21, fld m 52 37]
  parts.zipIdx.foldl (fun (t : Tr) x =>
    t.add { Piece.of 7 (BitVec.ofNat 32 (r * 2 ^ 28 + x.2 * 2 ^ 26 + x.1)) t.pc with cop := 1, writes := [(.mask r, 1)] }) t

/-- MASK_SEL for some bank units: 0 for all, a register that holds them, or the next register in turn. -/
def Tr.select (t : Tr) (m : BitVec 53) : Nat × Tr :=
  if m = BitVec.allOnes 53 then (0, t)
  else match t.masks.find? (fun x => x.2 == m) with
    | some x => (x.1, t)
    | none =>
      let r := t.nextMask
      let t := t.setMask r m
      (r, { t with masks := (r, m) :: t.masks.filter (fun x => decide (x.1 ≠ r)), nextMask := r % 15 + 1 })

/-- What a slot with a MASK_SEL reads besides. -/
def maskReads (sel : Nat) : List (Res × Nat) := if sel = 0 then [] else [(.mask sel, 0)]

/-! ## Vector operations (R103, R119 to R121) -/

def vecWord (op sr mod dk d bk b fmt : Nat) : Word32 :=
  BitVec.ofNat 32 (op * 2 ^ 27 + sr * 2 ^ 26 + mod * 2 ^ 24 + dk * 2 ^ 23 + d * 2 ^ 14 + bk * 2 ^ 13 + b * 2 ^ 4 + fmt)
def litWord (line byte eoff scale : Nat) : Word32 := BitVec.ofNat 32 (line * 2 ^ 23 + byte * 2 ^ 18 + eoff * 2 ^ 12 + scale)

/-- Entries of a row, or a line. -/
def fileOf (kind n : Nat) : List Res := if kind = 0 then (List.range 8).map (fun i => .acc (8 * n + i)) else [.line n]

/-- A VEC slot that reads and writes places of the files, with its occupancy and latency (R53). -/
def Tr.vec (t : Tr) (sel : Nat) (w : Word32) (lit : Option Word32) (reads writes : List Res) (occ lat : Nat) : Tr :=
  t.add { Piece.of 3 w t.pc with
    lit := lit, sel := sel
    reads := (.vector, 0) :: maskReads sel ++ reads.map (fun r => (r, 0))
    writes := (.vector, occ) :: writes.map (fun r => (r, lat)) }

/-- A move: CVT with FMT FP32 (R120). -/
def Tr.move (t : Tr) (dk d bk b : Nat) : Tr := t.vec 0 (vecWord 6 0 0 dk d bk b 0) (some 0) (fileOf bk b) (fileOf dk d) 1 2

/-- d ← a op b′ of two sources: a is moved into the destination first when it is another place (R103). A destination that is the second
source is kept in a spare place before that, and so is |b| for SUB, whose VEC form would need −|b|. With no spare place ADD, MUL and MAX
without a modifier take their sources in the other order, and another instruction does not fit (log 82). -/
def Tr.binary (t : Tr) (j : Job) (op mod dk d ak a bk b : Nat) (sub : Bool) : Tr :=
  let moves : Bool := decide (dk ≠ ak ∨ d ≠ a)
  let keeps : Bool := (moves && decide (dk = bk ∧ d = b)) || (sub && mod == 2)
  if keeps && j.spare.isNone then
    (if op < 3 ∧ sub = false ∧ mod = 0 then
      t.vec 0 (vecWord op 0 0 dk d ak a 0) none (fileOf dk d ++ fileOf ak a) (fileOf dk d) 1 2
    else { t with bad := some (t.pc, 10) })
  else
    let r := j.spare.getD (0, 0)
    let t := if keeps then t.move r.1 r.2 bk b else t
    let t := if keeps && sub && mod == 2 then
        t.vec 0 (vecWord 2 0 2 r.1 r.2 r.1 r.2 0) none (fileOf r.1 r.2) (fileOf r.1 r.2) 1 2
      else t
    let t := if moves then t.move dk d ak a else t
    let m := if sub then (if mod = 1 then 0 else 1) else mod
    let k := if keeps then r.1 else bk
    let n := if keeps then r.2 else b
    t.vec 0 (vecWord op 0 m dk d k n 0) none (fileOf dk d ++ fileOf k n) (fileOf dk d) 1 2

/-! ## Columns (R114, R115, R126, R130, R141, R207 to R213) -/

/-- Where a column command finds its column: a bank-local row and column, a walk's position, or the compatibility stream. -/
inductive ColPlace where
  | fixed (row col : Nat)
  | walk (desc : Nat) (byIndex : Bool) (pos : Nat)
  | stream
  deriving DecidableEq, Repr

/-- Data columns of dimension 0, and the walk's number of the c-th one (R213). -/
def Desc.weightCols (d : Desc) : Nat :=
  if d.scaleMode = 1 then d.fullGroups * d.groupCols + (if d.size 0 % 1024 = 0 then 0 else d.lastCols) else d.cols
def Desc.walkCol (d : Desc) (c : Nat) : Nat := if d.scaleMode = 1 then c / d.groupCols * (d.groupCols + 1) + c % d.groupCols + 1 else c

/-- Column n of the walk of dimension 0 at the o-th combination of outer local indices: at a fixed place, or by the generator when the
descriptor has an index tensor or the walk ends before it. -/
def Job.placeOf (j : Job) (h o n : Nat) : ColPlace :=
  let d := j.desc h
  let counts := d.outerDims.map d.localCount
  if d.indexDim ≠ 7 ∨ o ≥ product counts then .walk h (decide (d.indexDim ≠ 7)) (o * d.cols + n)
  else
    let off := (d.outerDims.zip (digits counts o)).foldl (fun x i => x + i.2 * d.stride i.1) (d.base + d.colOffset n)
    .fixed (off / 2048 % 65536) (off / 32 % 64)

/-- The k-th data column of a tensor in walk order (log 10: a position counts data columns, or groups of three for MXFP6). -/
def Job.dataPlace (j : Job) (h k : Nat) : ColPlace :=
  let d := j.desc h
  j.placeOf h (k / d.weightCols) (d.walkCol (k % d.weightCols))

/-- The group of the k-th data column, numbered through the tensor, and the scale column of that group: inline, or in the scale tensor
(R209). -/
def Desc.groupsOf (d : Desc) : Nat := (d.size 0 + 1023) / 1024
def Job.groupOf (j : Job) (h k : Nat) : Nat :=
  let d := j.desc h
  k / d.weightCols * d.groupsOf + k % d.weightCols / d.groupCols
def Job.scalePlace (j : Job) (h g : Nat) : ColPlace :=
  let d := j.desc h
  let o := g / d.groupsOf
  let n := g % d.groupsOf
  if d.scaleMode = 1 then j.placeOf h o (n * (d.groupCols + 1)) else j.placeOf d.scaleHandle o n

/-- A generator stands at a position: one that walks the descriptor and has not passed it steps there, another is set (R125, R126, R130). -/
def Tr.walkTo (t : Tr) (profile h : Nat) (byIndex : Bool) (pos : Nat) : Nat × Tr :=
  let step (t : Tr) (g n : Nat) : Tr :=
    (List.range ((n + (2 ^ 25 - 2)) / (2 ^ 25 - 1))).foldl (fun (t : Tr) i =>
      (t.reliefAt profile 300).add { Piece.of 6 (BitVec.ofNat 32 (3 * 2 ^ 28 + g * 2 ^ 25 + min (2 ^ 25 - 1) (n - i * (2 ^ 25 - 1)))) t.pc with
        reads := [(.gen g, 0)], writes := [(.gen g, 1)] }) t
  match t.gens.find? (fun x => x.desc = h ∧ x.byIndex = byIndex ∧ x.pos ≤ pos) with
  | some x =>
    let t := step t x.gen (pos - x.pos)
    (x.gen, { t with gens := { x with pos := pos } :: t.gens.filter (fun y => decide (y.gen ≠ x.gen)) })
  | none =>
    let g := t.nextGen
    let op := if byIndex then 2 else 1
    let t := t.add { Piece.of 6 (BitVec.ofNat 32 (op * 2 ^ 28 + g * 2 ^ 25 + h * 2 ^ 13)) t.pc with
      writes := [(.gen g, 1), (.walk g, 32)] }
    let t := step t g pos
    (g, { t with gens := ⟨g, h, byIndex, pos⟩ :: t.gens.filter (fun y => decide (y.gen ≠ g)), nextGen := (g + 1) % 8 })

/-- A column command by a generator: every row closed, ACT and COL from the generator, and every row closed again. -/
def Tr.walkColumn (t : Tr) (sel g : Nat) (w : Word32) (reads writes : List (Res × Nat)) : Tr :=
  let t := { t with sched := t.sched.closeAll }
  let gen : List (Res × Nat) := [(.gen g, 0), (.walk g, 0)]
  let a := t.put { Piece.of 0 (BitVec.ofNat 32 (2 ^ 30 + 2 ^ 29 + g * 2 ^ 26)) t.pc with
    sel := sel, start := max t.sched.half0.mayAct t.sched.half1.mayAct, reads := maskReads sel ++ gen }
  let x : HalfPlan := ⟨some (none, sel), a.1 + 10, a.1 + 24, a.1 + 4, t.pc⟩
  let t := { a.2 with sched := (a.2.sched.setHalf 0 x).setHalf 1 x }
  let c := t.put { Piece.of 1 (w ||| BitVec.ofNat 32 (2 ^ 26 + g * 2 ^ 23)) t.pc with
    sel := sel, start := x.mayCol, reads := maskReads sel ++ gen ++ reads, writes := (.gen g, 1) :: writes }
  let t := { c.2 with
    gens := c.2.gens.map (fun (y : GenPlan) => if y.gen = g then { y with pos := y.pos + 1 } else y)
    sched := ((c.2.sched.touch 0 (Col.op w) c.1 c.2.pc).touch 1 (Col.op w) c.1 c.2.pc) }
  { t with sched := t.sched.closeAll }

/-- A column command with the rest of its word: the row is opened first (R114); an address of the stream comes at least 4 beats after the
one before, and leaves rows open that the loader does not know (R141). -/
def Tr.column (t : Tr) (profile sel : Nat) (p : ColPlace) (w : Word32) (reads writes : List (Res × Nat)) : Tr :=
  match p with
  | .fixed row col =>
    let h := row % 2
    let t := { t with sched := t.sched.openRow row sel t.pc (maskReads sel) }
    let c := t.put { Piece.of 1 (w ||| BitVec.ofNat 32 (col * 2 ^ 17 + h)) t.pc with
      sel := sel, start := (t.sched.half h).mayCol, reads := maskReads sel ++ reads, writes := writes }
    { c.2 with sched := c.2.sched.touch h (Col.op w) c.1 t.pc }
  | .walk h byIndex pos =>
    let g := t.walkTo profile h byIndex pos
    g.2.walkColumn sel g.1 w reads writes
  | .stream =>
    let known (x : HalfPlan) : Bool := match x.row with
      | some (some _, _) => true
      | _ => false
    let t := if known t.sched.half0 || known t.sched.half1 then { t with sched := t.sched.closeAll } else t
    let c := t.put { Piece.of 1 w t.pc with
      sel := sel, stream := true, start := max t.sched.half0.mayAct t.sched.half1.mayAct
      reads := (.stream, 0) :: maskReads sel ++ reads, writes := (.stream, 4) :: writes }
    let open_ (x : HalfPlan) : HalfPlan := { x with row := some (none, sel), mayAct := 0, mayPre := max x.mayPre (c.1 + 24) }
    let s := (c.2.sched.setHalf 0 (open_ c.2.sched.half0)).setHalf 1 (open_ c.2.sched.half1)
    { c.2 with sched := (s.touch 0 (Col.op w) c.1 t.pc).touch 1 (Col.op w) c.1 t.pc }

/-! ## MAC and WRITE (R45, R59, R60, R102, R116 to R118) -/

/-- A MAC slot. -/
def macWord (ovw tok le wf af line acc asg : Nat) : Word32 :=
  BitVec.ofNat 32 (ovw * 2 ^ 31 + tok * 2 ^ 28 + le * 2 ^ 26 + wf * 2 ^ 23 + af * 2 ^ 21 + line * 2 ^ 12 + acc * 2 ^ 2 + asg)

/-- The scale column of a group is read when the latch holds another, and MACs that select no bank unit carry the scale pointer to the
blocks wanted (R118). -/
def Tr.scales (t : Tr) (profile sel h wf group block : Nat) (p : ColPlace) : Tr :=
  let step := macBlocks wf
  let skip (t : Tr) (n : Nat) : Tr :=
    if n = 0 then t
    else
      let none_ := t.select 0
      (List.range n).foldl (fun (t : Tr) _ =>
        t.add { Piece.of 2 (macWord 0 0 0 wf 0 0 0 0) t.pc with
          sel := none_.1, reads := [(.slices, 0), (.pointer, 0)] ++ maskReads none_.1
          writes := [(.slices, macOccupancy wf 0 1), (.pointer, 1)] }) none_.2
  let here := match t.scale with
    | some x => if x.desc = h ∧ x.group = group ∧ x.taken ≤ block then some x.taken else none
    | none => none
  let t := match here with
    | some n => skip t ((block - n) / step)
    | none => skip (t.column profile sel p (BitVec.ofNat 32 (2 * 2 ^ 29)) [(.memory, 0)] [(.scale, 8), (.pointer, 8)]) (block / step)
  { t with scale := some ⟨h, group, block + step⟩ }

/-- Scales taken from the stream: the next scale column after 32 blocks (log 10). -/
def Tr.streamScales (t : Tr) (profile sel h wf : Nat) : Tr :=
  match t.scale with
  | some x =>
    if x.desc = h ∧ x.taken + macBlocks wf ≤ 32 then t.scales profile sel h wf x.group x.taken .stream
    else t.scales profile sel h wf (x.group + 1) 0 .stream
  | none => t.scales profile sel h wf 0 0 .stream

/-- MAC (R102): scales, the column or the three columns of a group, and the MAC itself, on the units of the tensor's box. -/
def Tr.mac (t : Tr) (j : Job) (i : Insn) : Tr :=
  let d := j.desc i.b
  let m := d.unitMask j.quad
  if fld m 4 0 = 0 then t
  else
    let wf := i.wfmt
    let six := wf = 1 ∨ wf = 2
    let pos := i.imm % 2 ^ 32
    let s := t.select m
    let sel := s.1
    let t := s.2
    let first := if six then 3 * pos else pos
    let t := if d.scaleMode = 0 ∨ wf = 6 then t
      else if i.streams then t.streamScales j.profile sel i.b wf
      else
        let c := first % d.weightCols % d.groupCols
        let g := j.groupOf i.b first
        t.scales j.profile sel i.b wf g (if six then c / 3 * 4 else c * macBlocks wf) (j.scalePlace i.b g)
    let les := if six then [0, 1, 2] else [t.latch]
    let t := les.zipIdx.foldl (fun (t : Tr) x =>
      t.column j.profile sel (if i.streams then .stream else j.dataPlace i.b (first + x.2)) (BitVec.ofNat 32 (2 ^ 29 + x.1 * 2 ^ 27))
        [(.memory, 0)] [(.latch x.1, 8)]) t
    let n := macOccupancy wf i.afmt i.tokens
    let entries := (List.range i.entries).map (fun k => Res.acc (i.a + k))
    let scaled : List (Res × Nat) := if wf = 6 then [] else [(.scale, 0), (.pointer, 0)]
    let ovw := i.flags.testBit 0
    let t := t.add { Piece.of 2 (macWord ovw.toNat (i.tokens - 1) (les.headD 0) wf i.afmt i.c i.a i.asg) t.pc with
      sel := sel
      reads := [(.slices, 0)] ++ maskReads sel ++ scaled ++ les.map (fun e => (.latch e, 0)) ++
        (List.range i.lines).map (fun k => (.line (i.c + k), 0)) ++ (if ovw then [] else entries.map (fun r => (r, n + 2)))
      writes := [(.slices, n)] ++ (if wf = 6 then [] else [(.pointer, 1)]) ++ entries.map (fun r => (r, n + 3)) }
    { t with latch := if six then t.latch else (t.latch + 1) % 3 }

/-- WRITE (R102): a full or masked column write of a line, on the units of the tensor's box. -/
def Tr.write (t : Tr) (j : Job) (i : Insn) : Tr :=
  let m := (j.desc i.b).unitMask j.quad
  if fld m 4 0 = 0 then t
  else
    let s := t.select m
    let masked := i.flags.testBit 0
    s.2.column j.profile s.1 (if i.streams then .stream else j.dataPlace i.b (i.imm % 2 ^ 32))
      (BitVec.ofNat 32 ((if masked then 4 else 3) * 2 ^ 29 + i.a * 2 ^ 8))
      ((.line i.a, 0) :: (if masked then [(.wmask, 0)] else [])) [(.memory, if masked then 14 else 6)]

/-- FILL (R102, R122, R125): the transfer base for a source in SRAM, then eight lines a beat. -/
def Tr.fill (t : Tr) (i : Insn) : Tr :=
  let src := i.imm % 4
  let base := if src = 1 then 0 else i.imm / 1024
  let off := if src = 1 then i.imm / 32 else i.imm / 32 % 32
  let t := if src = 1 ∨ t.bases.contains (src, base) then t
    else
      let t := t.add { Piece.of 6 (BitVec.ofNat 32 (4 * 2 ^ 28 + src * 2 ^ 26 + base)) t.pc with writes := [(.base src, 1)] }
      { t with bases := (src, base) :: t.bases.filter (fun x => decide (x.1 ≠ src)) }
  (List.range ((i.b + 7) / 8)).foldl (fun (t : Tr) k =>
    let n := min 8 (i.b - 8 * k)
    let line := i.a + 8 * k
    t.add { Piece.of 4 (BitVec.ofNat 32 (src * 2 ^ 30 + i.c * 2 ^ 25 + line * 2 ^ 16 + (n - 1) * 2 ^ 13 + (off + 8 * k))) t.pc with
      reads := if src = 1 then [] else [(.base src, 0)]
      writes := (List.range n).map (fun x => (.line (line + x), 2)) }) t

/-! ## OUT (R260 to R262) -/

/-- The MERGE instructions that take a stream, with their places (R260, R261). -/
def takers (prog : List Insn) (tag : Nat) : List (Insn × Nat) :=
  prog.zipIdx.filter (fun x => x.1.op = 0x53 ∧ Marg.count x.1.imm ≠ 0 ∧ x.1.b = 0x1000 + tag)

/-- Rows of a record of an LSE stream; 1 for any other stream (R267, R269). -/
def recordRows (prog : List Insn) (tag : Nat) : Option Nat :=
  match takers prog tag with
  | x :: _ => if Marg.lse x.1.imm then some (Marg.rows x.1.imm) else none
  | [] => none

/-- The bank units of one die (R262). -/
def dieMask (die : Nat) : BitVec 53 := BitVec.ofNat 53 (31 + 2 ^ (5 + die) + (2 ^ 32 - 1) * 2 ^ 21)

def Tr.outWord (t : Tr) (sel row tag : Nat) : Tr :=
  t.add { Piece.of 3 (vecWord 9 0 0 0 tag 0 row 0) t.pc with
    sel := sel, reads := [(.vector, 0), (.order, 0)] ++ maskReads sel ++ (fileOf 0 row).map (fun r => (r, 0)), writes := [(.vector, 1)] }

/-- OUT: one word, or, for an LSE stream, one word for each die with a mask register that selects it alone (R262). The words of a record are
gathered so that the issues that form it select the same bank units (R261, R269). -/
def Tr.out (t : Tr) (j : Job) (i : Insn) : Tr :=
  let tag := i.imm % 512
  match recordRows j.prog tag with
  | none => if t.outs = [] then t.outWord 0 i.c tag else { t with bad := some (t.pc, 3) }
  | some n =>
    if t.outs ≠ [] ∧ t.outTag ≠ tag then { t with bad := some (t.pc, 3) }
    else
      let rows := t.outs ++ [i.c]
      if rows.length < n then { t with outs := rows, outTag := tag }
      else
        (List.range 16).foldl (fun (t : Tr) die =>
          let s := (t.reliefAt j.profile 400).select (dieMask die)
          rows.foldl (fun (t : Tr) r => t.outWord s.1 r tag) s.2) { t with outs := [] }

/-! ## SYNC and launches (R96, R123, R127, R165, R234, R236, R250, R264) -/

/-- A SYNC operation that does not wait: at or after every earlier slot of the program. -/
def Tr.sync (t : Tr) (w : Word32) : Tr :=
  t.add { Piece.of 5 w t.pc with start := t.sched.top - 1, reads := [(.order, 0)], writes := [(.order, 1)] }

/-- FREE: no sooner than the last column command of every earlier slot, a masked write's second one too (R102). -/
def Tr.free (t : Tr) (w : Word32) : Tr :=
  t.add { Piece.of 5 w t.pc with
    start := t.sched.taken.foldl max (t.sched.top - 1), reads := [(.order, 0)], writes := [(.order, 1)] }

/-- A SYNC operation that waits, at a quiet beat: the rows closed, nothing in flight (R164, R165). -/
def Tr.quietSync (t : Tr) (w : Word32) : Tr := t.flush.emit (mkWord (Header.plain t.pc) (noSlots.set 5 (some w)))

/-- Quadrants in which a combination of outer indices may lie: with the owner dimension spread its place is known only at the launch. -/
def Desc.quadsAt (x : Desc) (idx : List Nat) : List Nat :=
  if x.inside idx = false then []
  else if x.ownerDim ≠ 7 ∧ x.ownerDim = x.spreadDim then (List.range x.boxSize).map (fun i => quadOf (x.boxUnit i))
  else [quadOf (x.outerPlace idx).1]

/-- The combinations of source indices that the bytes of a destination combination may come from (R240, R241): with TRANSPOSE those of every
index of dimension 0, and what an index tensor names may be any index. -/
def sourceIndices (op : Nat) (tr : Bool) (d e : Desc) (elements : Nat) (idx : List Nat) : List (List Nat) :=
  let base := if tr then (List.range (d.size 0)).map (fun i => i :: idx.drop 1) else [idx]
  if op = 2 then base.flatMap (fun i => (List.range (e.size e.indexDim)).map (fun x => i.set (e.indexDim - 1) x))
  else if op = 3 then base.flatMap (fun i => (List.range elements).map (fun x => i.set (d.indexDim - 1) x))
  else base

/-- The quadrants from which a copy reads the bytes that it writes in a quadrant, or that it sends to other modules from the lowest one of
the span (R236, R257). -/
def Job.sourceQuads (j : Job) (op dst src : Nat) (tr : Bool) : Nat :=
  let d := j.desc dst
  let e := j.desc src
  let sends : Bool := d.ownerDim != 7 && (bitsSet (j.st.ctx j.ctx).span).head? == some j.quad
  let mine := (combos (d.outerDims.map d.size)).filter (fun i => d.space == 1 || sends || (d.quadsAt i).contains j.quad)
  if mine = [] then 0
  else if e.space = 1 then 2 ^ j.quad
  else
    let quads := mine.flatMap (fun i => (sourceIndices op tr d e ((j.desc d.indexHandle).size 0) i).flatMap e.quadsAt)
    ([0, 1, 2, 3].filter (fun q => quads.contains q)).foldl (fun x q => x + 2 ^ q) 0

/-- The completion pennant of an instruction: PEN_EN and PEN (R236, R264). -/
def Insn.penEn (i : Insn) : Nat := if i.c = 0xFFFF then 0 else 1
def Insn.pen (i : Insn) : Nat := if i.c = 0xFFFF then 0 else i.c % 1024

/-- The launch record of a COPY, GATHER or SCATTER (R236, R250). -/
def Job.copyRecord (j : Job) (i : Insn) (origin : Nat) : BitVec 512 :=
  let d := j.desc i.a
  let e := j.desc i.b
  let op := i.op - 0x4F
  let tr := i.flags % 2
  let plan := if tr = 0 then 0 else if d.bits = 8 then 1 else if d.bits = 16 then 2 else 3
  BitVec.ofNat 512 (op * 2 ^ 508 + tr * 2 ^ 507 + (if d.sameBytes e then 1 else 0) * 2 ^ 506 + i.penEn * 2 ^ 505 +
    (if d.ownerDim ≠ 7 ∨ e.ownerDim ≠ 7 then 1 else 0) * 2 ^ 504 + i.a * 2 ^ 492 + i.b * 2 ^ 480 + j.entry i.a * 2 ^ 474 +
    j.entry i.b * 2 ^ 468 + i.pen * 2 ^ 458 + 1 * 2 ^ 442 + j.sourceQuads op i.a i.b (tr == 1) * 2 ^ 438 + plan * 2 ^ 432 + origin * 2 ^ 412)

/-- AUX of a TOPK or ROUTE; 0xFFF for none (R264). -/
def Insn.aux (i : Insn) : Nat := if i.op = 0x54 ∨ i.op = 0x56 then bits i.imm 43 32 else 0xFFF

/-- The launch record of a MERGE, TOPK, SAMPLE or ROUTE (R264). -/
def Job.mergeRecord (j : Job) (i : Insn) (origin : Nat) : BitVec 512 :=
  let stream := i.op = 0x53 ∧ Marg.count i.imm ≠ 0
  BitVec.ofNat 512 ((i.op - 0x52) * 2 ^ 508 + i.penEn * 2 ^ 507 + (if stream then 1 else 0) * 2 ^ 506 + i.a * 2 ^ 492 +
    (if stream then 0 else i.b) * 2 ^ 480 + j.entry i.a * 2 ^ 474 + (if stream then 0 else j.entry i.b) * 2 ^ 468 + i.pen * 2 ^ 458 +
    1 * 2 ^ 442 + (if stream then i.b - 0x1000 else 0) * 2 ^ 433 + origin * 2 ^ 412 + i.aux * 2 ^ 400 +
    (if i.aux = 0xFFF then 0 else j.entry i.aux) * 2 ^ 394 + i.imm * 2 ^ 330)

/-- A LAUNCH at the instruction's place, with its record (R127, R234). -/
def Tr.launch (t : Tr) (j : Job) (engine : Nat) (r : BitVec 512) : Tr :=
  let n := j.record + t.records.length
  let t := t.add { Piece.of 7 (BitVec.ofNat 32 (engine * 2 ^ 30 + n)) t.pc with
    cop := 4, start := t.sched.top - 1, reads := [(.order, 0)], writes := [(.order, 1)] }
  { t with records := t.records ++ [r] }

/-! ## Loops, native blocks, the end -/

/-- The instructions of a REPEAT's own body advance, so that its iterations are written out (R101). -/
def bodyAdvances : Nat → List Insn → Bool
  | _, [] => false
  | d, i :: is =>
    if i.op = 0x01 then bodyAdvances (d + 1) is
    else if i.op = 0x02 then (if d = 0 then false else bodyAdvances (d - 1) is)
    else (d == 0 && i.advances) || bodyAdvances d is

/-- REPEAT: written out, or a loop of words with the counter of its depth; a loop begins with a recess word, and with nothing known of the
registers. A NATIVE block of its body that loads that counter changes the loop: no rule keeps the counters apart (DESIGN CHOICE,
log 88). -/
def Tr.openLoop (t : Tr) (j : Job) (count : Nat) : Tr :=
  if bodyAdvances 0 (j.prog.drop (t.pc + 1)) then { t with frames := ⟨t.pc + 1, 0, count, false, 0⟩ :: t.frames, pc := t.pc + 1 }
  else
    let cnt := (t.frames.filter (fun f => f.looped)).length
    let t := t.flush
    let t := (t.emit (mkWord { Header.plain t.pc with cop := 2 } (noSlots.set 7 (some (BitVec.ofNat 32 (cnt * 2 ^ 30 + (count - 1))))))).forget
    let f : Frame := ⟨t.pc + 1, 0, count, true, t.size⟩
    let t := if j.profile = 0 then t.recess else t
    { t with frames := f :: t.frames, pc := t.pc + 1 }

/-- ENDREP: the next iteration, or the ENDL word that continues at the loop's first word (R127). -/
def Tr.closeLoop (t : Tr) : Tr :=
  match t.frames with
  | [] => { t with bad := some (t.pc, 7) }
  | f :: fs =>
    if f.looped then
      let cnt := (fs.filter (fun f => f.looped)).length
      let t := t.flush
      let t := t.emit (mkWord { Header.plain t.pc with cop := 3 }
        (noSlots.set 7 (some (BitVec.ofNat 32 (cnt * 2 ^ 30 + (t.size - f.unit))))))
      { t with frames := fs, pc := t.pc + 1 }
    else if f.iter + 1 < f.count then { t with frames := { f with iter := f.iter + 1 } :: fs, pc := f.first }
    else { t with frames := fs, pc := t.pc + 1 }

/-- The words of a NATIVE instruction, with their offsets. -/
def nativeWords (native : List Word32) (i : Insn) : Option (List (Nat × Word)) :=
  let us := (native.drop i.imm).take i.a
  readWords (us.length + 1) 0 us

/-- A NATIVE block (R138, R139): recesses on both sides in profile 0; its words unchanged but for ORIGIN; drained before and after, and
rows it has left open closed. -/
def Tr.native (t : Tr) (j : Job) (i : Insn) : Tr :=
  let t := if j.profile = 0 then t.recess else t.flush
  let ws := ((nativeWords j.native i).getD []).map (fun w => w.2.withOrigin t.pc)
  let after := idleWords t.pc drainBeats ++ [mkWord (Header.plain t.pc) (noSlots.set 0 (some (BitVec.ofNat 32 (3 * 2 ^ 30))))] ++
    idleWords t.pc (closeBeats - 1)
  let t := ((ws ++ after).foldl (fun (t : Tr) w => t.emit w) t).forget
  if j.profile = 0 then t.recess else t

/-- The timetable ends with a word of its own (R107, R138). -/
def Tr.finish (t : Tr) : Tr :=
  { t.flush.emit (mkWord { Header.plain t.pc with end_ := true } noSlots) with done := true }

/-! ## The instructions -/

/-- Kinds of d, a and b. -/
def Insn.kd (i : Insn) : Nat := i.flags % 2
def Insn.ka (i : Insn) : Nat := i.flags / 2 % 2
def Insn.kb (i : Insn) : Nat := i.flags / 4 % 2

/-- One instruction other than REPEAT, ENDREP and END. -/
def Tr.insn (t : Tr) (j : Job) (i : Insn) : Tr :=
  let mod := bits i.flags 4 3
  match i.op with
  | 0x04 => t.native j i
  | 0x10 => t.mac j i
  | 0x11 => t.write j i
  | 0x12 =>
    if i.flags % 2 = 1 then t.vec 0 (vecWord 10 0 0 0 0 0 0 0) (some (BitVec.ofNat 32 i.imm)) [] [.wmask] 1 1
    else t.vec 0 (vecWord 10 0 0 0 0 1 i.b 0) none (fileOf 1 i.b) [.wmask] 1 1
  | 0x20 => t.binary j 0 mod i.kd i.a i.ka i.b i.kb i.c false
  | 0x21 => t.binary j 0 mod i.kd i.a i.ka i.b i.kb i.c true
  | 0x22 => t.binary j 1 mod i.kd i.a i.ka i.b i.kb i.c false
  | 0x23 => t.binary j 2 mod i.kd i.a i.ka i.b i.kb i.c false
  | 0x24 =>
    t.vec 0 (vecWord 3 0 (bits i.flags 6 5) i.ka i.b i.kb i.c 0) (some (litWord i.a (i.imm % 32) 0 0)) (fileOf i.ka i.b ++ fileOf i.kb i.c)
      [.line i.a] 1 2
  | 0x25 => t.binary j 4 (i.flags / 32 % 2) i.kd i.a i.ka i.b i.kb i.c false
  | 0x26 => t.vec 0 (vecWord 5 0 mod i.kd i.a i.kb i.c 0) none (fileOf i.kb i.c) (fileOf i.kd i.a) 1 3
  | 0x27 =>
    t.vec 0 (vecWord 6 0 0 0 i.a 1 i.c (i.imm % 16)) (some (litWord 0 0 (bits i.imm 13 8) (bits i.imm 23 16))) [.line i.c] (fileOf 0 i.a) 1 2
  | 0x28 =>
    t.vec 0 (vecWord 7 0 0 1 i.a 0 i.c (i.imm % 16)) (some (litWord 0 0 (bits i.imm 13 8) (bits i.imm 23 16))) (fileOf 0 i.c) [.line i.a] 1 2
  | 0x29 =>
    let sr := i.flags % 2
    let line := bits i.imm 24 16
    let writes : List Res := if line = i.a then [.line i.a] else [.line i.a, .line line]
    t.vec 0 (vecWord 8 sr 0 1 i.a 0 i.c (i.imm % 16)) (some (litWord line (bits i.imm 29 25) (bits i.imm 13 8) 0))
      ((List.range 4).flatMap (fun k => fileOf 0 (i.c + k))) writes 4 (6 + sr)
  | 0x2A => t.move i.kd i.a i.kb i.c
  | 0x2B => t.out j i
  | 0x30 => t.fill i
  | 0x40 => t.sync (BitVec.ofNat 32 (1 * 2 ^ 28 + i.a * 2 ^ 18 + i.imm))
  | 0x41 => t.quietSync (BitVec.ofNat 32 (2 * 2 ^ 28 + i.a * 2 ^ 18 + i.b * 2 ^ 15 + i.imm))
  | 0x42 => t.sync (BitVec.ofNat 32 (3 * 2 ^ 28 + i.a * 2 ^ 25 + i.imm))
  | 0x43 =>
    let w : Word32 := BitVec.ofNat 32 (7 * 2 ^ 28 + i.a * 2 ^ 22 + i.flags % 2 * 2 ^ 21)
    if i.flags % 2 = 1 then t.quietSync w else t.sync w
  | 0x44 => t.quietSync (BitVec.ofNat 32 (6 * 2 ^ 28 + i.imm))
  | 0x45 => t.quietSync (BitVec.ofNat 32 (8 * 2 ^ 28))
  | 0x46 => t.sync (BitVec.ofNat 32 (9 * 2 ^ 28 + i.imm))
  | 0x47 => t.quietSync (BitVec.ofNat 32 (4 * 2 ^ 28 + j.entry i.a * 2 ^ 20 + i.flags % 2 * 2 ^ 19))
  | 0x48 => t.free (BitVec.ofNat 32 (5 * 2 ^ 28 + j.entry i.a * 2 ^ 20))
  | n =>
    if 0x50 ≤ n ∧ n ≤ 0x52 then t.launch j 0 (j.copyRecord i t.pc)
    else if 0x53 ≤ n ∧ n ≤ 0x56 then t.launch j 1 (j.mergeRecord i t.pc)
    else t

/-- The instruction at which the translation stands. NOP and STREAM make no word; an LSE record is gathered from OUT instructions that
follow one another. -/
def Tr.step (t : Tr) (j : Job) : Tr :=
  match j.prog[t.pc]? with
  | none => if t.outs = [] then t.finish else { t with bad := some (t.pc - 1, 3) }
  | some i =>
    if t.outs ≠ [] ∧ i.op ≠ 0x2B ∧ i.op ≠ 0x00 then { t with bad := some (t.pc, 3) }
    else
      let t := t.relief j
      match i.op with
      | 0x01 => t.openLoop j i.imm
      | 0x02 => t.closeLoop
      | 0x03 => t.finish
      | _ =>
        let k := match t.frames with
          | f :: _ => f.iter
          | [] => 0
        let t := t.insn j (i.advanced k)
        { t with pc := t.pc + 1 }

def Tr.run (j : Job) : Nat → Tr → Tr
  | 0, t => t
  | n + 1, t => if t.done || t.bad.isSome then t else (t.step j).run j n

/-- More steps than the program has instructions with its repetitions written out. -/
def progBound (prog : List Insn) : Nat := prog.foldl (fun n i => if i.op = 0x01 then n * (i.imm + 1) else n) (prog.length + 2)

/-- The words and launch records of a quadrant. -/
def Job.translate (j : Job) : Tr := Tr.start.run j (progBound j.prog)

end Sys2Proof.Machine
end

