-- ==== Sys2Proof/Machine/Paths.lean ====
section
/-! DEFINITION. What the loader finds along the path of a translation: the blocks that break R138, the OUT issues of every stream against
the launches of its MERGE (R260, R261); and the places that no instruction names. -/

namespace Sys2Proof.Machine

def PathEvent.tagOf : PathEvent → Option Nat
  | .out _ t _ => some t
  | .launch _ t => some t

/-- The OUT issues since the last launch of a stream, the instruction of that launch, and the instructions at which a rule of R261 fails. -/
structure StreamCheck where
  units : List (BitVec 53)
  launch : Option Nat
  bad : List Nat
  deriving DecidableEq, Repr

/-- Issues of an LSE stream in records of n that do not all select the same bank units. -/
def unevenRecord (n : Nat) (us : List (BitVec 53)) : Bool :=
  decide (n ≠ 0) && (List.range (us.length / n)).any (fun k => ((us.drop (k * n)).take n).eraseDups.length != 1)

/-- What a launch, or the end, finds of the issues before it. -/
def StreamCheck.close (c : StreamCheck) (count : Nat) (rows : Option Nat) : List Nat :=
  match c.launch with
  | none => []
  | some ix => if c.units.length ≠ count ∨ unevenRecord (rows.getD 0) c.units.reverse = true then [ix] else []

/-- The instruction of an OUT issue in a word with an ORIGIN: the NATIVE, or else the first OUT of the tag, which the path meets first. -/
def outIndex (prog : List Insn) (origin tag : Nat) : Nat :=
  if (prog.getD origin ⟨0, 0, 0, 0, 0, 0⟩).op = 0x04 then origin else prog.findIdx (fun i => i.op = 0x2B ∧ i.imm % 512 = tag)

/-- R261 for one tag: an OUT before the first launch, a number of issues between launches other than COUNT, a record on differing units. -/
def streamFaults (prog : List Insn) (es : List PathEvent) (tag : Nat) : List Nat :=
  match takers prog tag with
  | [] => es.filterMap (fun e => match e with
    | .out ix t _ => if t = tag then some (outIndex prog ix tag) else none
    | _ => none)
  | [m] =>
    let count := Marg.count m.1.imm
    let rows := recordRows prog tag
    let c := (es.filter (fun e => e.tagOf = some tag)).foldl (fun (c : StreamCheck) e =>
      match e with
      | .out ix _ u => if c.launch.isNone then { c with bad := outIndex prog ix tag :: c.bad } else { c with units := u :: c.units }
      | .launch ix _ => { units := [], launch := some ix, bad := c.close count rows ++ c.bad }) (⟨[], none, []⟩ : StreamCheck)
    c.close count rows ++ c.bad
  | _ :: m :: _ => [m.2]

/-- The first instruction at which R261 fails along the path. -/
def streamFault (prog : List Insn) (es : List PathEvent) : Option Nat :=
  let tags := (es.filterMap PathEvent.tagOf ++ (List.range 512).filter (fun t => (takers prog t).length > 1)).eraseDups
  (tags.flatMap (fun t => streamFaults prog es t)).foldl (fun m x => some (match m with
    | none => x
    | some y => min x y)) none

/-- The row of a generator's position, as the loader knows it from the descriptors (R126, R148): an unset one yields row 0. -/
def Job.look (j : Job) (g : Gen) : Option (Option Nat) :=
  if g.set = false then some (some 0)
  else if g.byIndex then none
  else match j.st.walkPlace j.quad j.ctx g.desc.toNat false g.pos with
    | .at_ off => some (some (off / 2048 % 65536))
    | _ => some none

/-- The instruction and tag of the stream's MERGE that a launch record starts (R264). -/
def mergeTag (r : BitVec 512) : Option (Nat × Nat) :=
  if fld r 511 508 = 1 ∧ r.getLsbD 506 = true then some (fld r 431 412, fld r 441 433) else none

/-- The path of a translation's words. -/
def Job.path (j : Job) (t : Tr) : Trace :=
  wordsPath
    { look := j.look, native := fun i => decide ((j.prog.getD i ⟨0, 0, 0, 0, 0, 0⟩).op = 0x04), profile := j.profile
      launch := fun n => if n < j.record then none else (t.records[n - j.record]?).bind mergeTag }
    t.words.reverse

/-! ## A spare place -/

/-- Accumulator rows that an instruction names on an iteration. -/
def Insn.rows (i : Insn) : List Nat :=
  let row (kind n : Nat) : List Nat := if kind = 0 then [n] else []
  match i.op with
  | 0x10 => (List.range i.entries).map (fun k => (i.a + k) / 8)
  | 0x24 => row (i.flags / 2 % 2) i.b ++ row (i.flags / 4 % 2) i.c
  | 0x26 => row (i.flags % 2) i.a ++ row (i.flags / 4 % 2) i.c
  | 0x27 => [i.a]
  | 0x28 => [i.c]
  | 0x29 => [i.c, i.c + 1, i.c + 2, i.c + 3]
  | 0x2A => row (i.flags % 2) i.a ++ row (i.flags / 4 % 2) i.c
  | 0x2B => [i.c]
  | n => if n = 0x20 ∨ n = 0x21 ∨ n = 0x22 ∨ n = 0x23 ∨ n = 0x25
      then row (i.flags % 2) i.a ++ row (i.flags / 2 % 2) i.b ++ row (i.flags / 4 % 2) i.c else []

/-- Accumulator rows that a word names on an issue. -/
def Word.rows (w : Word) (k : Nat) : List Nat :=
  let slots := w.moved k
  (match slots.getD 2 none with
   | some x =>
     let n := if Mac.asg x = 1 then Mac.tokens x * macBlocks (Mac.wfmt x) else Mac.tokens x
     (List.range n).map (fun i => (Mac.acc x + i) / 8)
   | none => []) ++
  (match slots.getD 3 none with
   | some x => (if Vec.dk x = 0 then [Vec.d x] else []) ++
       (if Vec.bk x = 0 then [Vec.b x, Vec.b x + 1, Vec.b x + 2, Vec.b x + 3] else [])
   | none => [])

/-- Vector-file lines that an instruction names on an iteration. -/
def Insn.lineNames (i : Insn) : List Nat :=
  let line (kind n : Nat) : List Nat := if kind = 1 then [n] else []
  match i.op with
  | 0x10 => (List.range i.lines).map (fun k => i.c + k)
  | 0x11 => [i.a]
  | 0x12 => if i.flags % 2 = 1 then [] else [i.b]
  | 0x24 => i.a :: line (i.flags / 2 % 2) i.b ++ line (i.flags / 4 % 2) i.c
  | 0x26 => line (i.flags % 2) i.a ++ line (i.flags / 4 % 2) i.c
  | 0x27 => [i.c]
  | 0x28 => [i.a]
  | 0x29 => [i.a, bits i.imm 24 16]
  | 0x2A => line (i.flags % 2) i.a ++ line (i.flags / 4 % 2) i.c
  | 0x30 => (List.range i.b).map (fun k => i.a + k)
  | n => if n = 0x20 ∨ n = 0x21 ∨ n = 0x22 ∨ n = 0x23 ∨ n = 0x25
      then line (i.flags % 2) i.a ++ line (i.flags / 2 % 2) i.b ++ line (i.flags / 4 % 2) i.c else []

/-- Iterations of the REPEAT around an instruction. -/
def iterations (prog : List Insn) (ix : Nat) : Nat :=
  match (prog.take ix).foldl (fun (open_ : List Nat) i =>
    if i.op = 0x01 then i.imm :: open_ else if i.op = 0x02 then open_.drop 1 else open_) [] with
  | n :: _ => n
  | [] => 1

/-- Places of a kind that an image names: by its instructions on every iteration, and by the words of its blocks, whose lines are all taken
to be named. -/
def namedPlaces (prog : List Insn) (native : List Word32) (kind : Nat) : List Nat :=
  prog.zipIdx.flatMap (fun x =>
    if x.1.op = 0x04 then
      (if kind = 1 then List.range 512
       else ((nativeWords native x.1).getD []).flatMap (fun w => (List.range (w.2.repeats + 1)).flatMap w.2.rows))
    else (List.range (if x.1.advances then iterations prog x.2 else 1)).flatMap (fun k =>
      if kind = 1 then (x.1.advanced k).lineNames else (x.1.advanced k).rows))

/-- A place that the image does not name: the highest accumulator row of the share, or else the highest line (log 10); its kind, and its
number. -/
def sparePlace (prog : List Insn) (native : List Word32) (exclusive : Bool) : Option (Nat × Nat) :=
  let free (kind n : Nat) : Option (Nat × Nat) :=
    let named := namedPlaces prog native kind
    ((List.range n).reverse.find? (fun r => !named.contains r)).map (fun r => (kind, r))
  match free 0 (if exclusive then 128 else 32) with
  | some p => some p
  | none => free 1 (if exclusive then 512 else 128)

end Sys2Proof.Machine
end

