-- ==== Sys2Proof/Machine/Loader.lean ====
section
/-! DEFINITION. The Wellu loader: the walk over a program, the reasons for refusing an image, and the halves it writes (R91 to R98, R135
to R138, R150, R153, R155, R235, R408; logs 10 and 82). -/

namespace Sys2Proof.Machine

/-! ## The walk over the program (R97, R104, R135, R137) -/

/-- What the walk carries: open REPEATs, held tensors, tensors with entries; and the first fault, instruction and reason. -/
structure Walk where
  open_ : List Nat
  held : List Nat
  tensors : List Nat
  fault : Option (Nat × Nat)
  deriving DecidableEq, Repr

/-- What the checks of one image share: its program, native units, PROFILE, bytes of the stream program, and whether the quadrants of the
span are exclusive. -/
structure Image where
  prog : List Insn
  native : List Word32
  profile : Nat
  stream : Nat
  exclusive : Bool
  deriving DecidableEq, Repr

def imageOf (m : List Byte) (exclusive : Bool) : Image :=
  let n := imgNat m 8 4
  { prog := insns m
    native := (List.range (imgNat m 12 4)).map (fun k => BitVec.ofNat 32 (imgNat m (64 + 16 * n + 4 * k) 4))
    profile := imgNat m 6 2, stream := imgNat m 16 4, exclusive := exclusive }

/-- Pennants and roll calls named by the SYNC slots of a block are bound (R136). -/
def State.blockBindFault (s : State) (c : Nat) (ws : List (Nat × Word)) : Bool :=
  ws.any (fun w => match w.2.slot 5 with
    | some x =>
      (decide (Sync.op x = 1 ∨ Sync.op x = 2) && (s.binding c (Sync.pen x)).kind == 0) ||
        (decide (Sync.op x = 7) && !(s.rollHandle c (Sync.call x)).bound)
    | none => false)

/-- A hand-built block is cut off within a word, or a word of it is not formed (R138). -/
def Image.blockFault (m : Image) (i : Insn) : Bool :=
  match nativeWords m.native i with
  | none => true
  | some ws => !blockFormed ws m.profile

/-- Reasons of one instruction, the lowest first. An operand that advances stays in its range to the last iteration (R98). A MAC or WRITE
has a HOLD of its tensor before it and a FREE after it (R97). -/
def State.insnFault (s : State) (c : Nat) (m : Image) (w : Walk) (x : Insn × Nat) : Option Nat :=
  let i := x.1
  let many := (w.tensors ++ (i.tensors.map (·.1))).eraseDups.length > 64
  let last := match w.open_ with
    | r :: _ => (m.prog.getD r i).imm - 1
    | [] => 0
  let iters := if i.advances then List.range (last + 1) else [0]
  let freed := (m.prog.drop (x.2 + 1)).any (fun k => k.op = 0x48 ∧ k.a = i.b)
  [(i.reserved, 2),
   (iters.any (fun k => (i.advanced k).outOfRange m.exclusive m.native.length m.stream), 3),
   (decide (i.op = 0x10 ∧ (bits i.imm 38 36 = 7 ∨ bits i.imm 41 40 = 3)), 4),
   (s.tensorCode c i != 0, 5),
   (s.bindFault c i || (i.op == 0x04 && s.blockBindFault c ((nativeWords m.native i).getD [])), 6),
   (decide ((i.op = 0x01 ∧ (i.imm = 0 ∨ i.imm > 16777216 ∨ w.open_.length ≥ 4)) ∨ (i.op = 0x02 ∧ w.open_ = [])), 7),
   (decide ((i.op = 0x10 ∨ i.op = 0x11) ∧ (i.b ∉ w.held ∨ freed = false)), 8), (decide many, 9),
   (i.op == 0x04 && m.blockFault i, 11),
   (decide (m.profile = 0 ∧ (i.op = 0x05 ∨ i.streams = true)), 12)].findSome?
    (fun x => if x.1 then some x.2 else none)

def State.walkInsn (s : State) (c : Nat) (m : Image) (w : Walk) (x : Insn × Nat) : Walk :=
  if w.fault.isSome then w
  else
    let i := x.1
    let fault := (s.insnFault c m w x).map (fun r => (x.2, r))
    { open_ := if i.op = 0x01 then x.2 :: w.open_ else if i.op = 0x02 then w.open_.drop 1 else w.open_
      held := if i.op = 0x47 then i.a :: w.held else if i.op = 0x48 then w.held.filter (fun h => h ≠ i.a) else w.held
      tensors := (w.tensors ++ (i.tensors.map (·.1))).eraseDups
      fault := fault }

/-- The earlier of two faults; of one instruction, the lower reason. -/
def firstFault (a b : Option (Nat × Nat)) : Option (Nat × Nat) :=
  match a, b with
  | some x, some y => if x.1 < y.1 ∨ (x.1 = y.1 ∧ x.2 ≤ y.2) then a else b
  | some _, none => a
  | none, _ => b

/-- The outermost REPEAT that no ENDREP closes. -/
def unclosedRepeat (prog : List Insn) : Option Nat :=
  (prog.zipIdx.foldl (fun (open_ : List Nat) x =>
    if x.1.op = 0x01 then x.2 :: open_ else if x.1.op = 0x02 then open_.drop 1 else open_) []).getLast?

/-- Every quadrant of a span is exclusive. -/
def State.exclusiveSpan (s : State) (span : BitVec 4) : Bool := (bitsSet span).all (fun q => !(s.quad q).shared)

/-- A list in the order of an image's picks. -/
def pickOrder (m : List Byte) : Nat → Nat → List Nat → List Nat
  | 0, _, _ => []
  | n + 1, k, xs =>
    let j := Config.entryPick m k % xs.length
    (xs.getD j 0) :: pickOrder m n (k + 1) (xs.eraseIdx j)

/-- Every tensor handle an image names. -/
def imageNames (m : List Byte) : List Nat := ((insns m).flatMap (fun i => i.tensors.map (·.1))).eraseDups

/-- Descriptor handles that an ADDR slot names (R125). -/
def Word.addrNames (w : Word) : List Nat :=
  match w.slot 6 with
  | some x => if Addr.op x = 1 ∨ Addr.op x = 2 then [Addr.desc x] else []
  | none => []

/-- Its tensors with scoreboard entries, in entry order (R135). -/
def imageTensors (m : List Byte) : List Nat := pickOrder m (imageNames m).length 0 (imageNames m)

/-- The load of one quadrant, with the number of its first launch record. -/
def State.job (s : State) (c q record : Nat) (m : List Byte) : Job :=
  let x := imageOf m (!(s.quad q).shared)
  { st := s, ctx := c, quad := q, prog := x.prog, native := x.native, profile := x.profile, entries := imageTensors m, record := record
    spare := sparePlace x.prog x.native x.exclusive }

/-- Bytes rounded up to 64. -/
def align64 (n : Nat) : Nat := (n + 63) / 64 * 64

/-- The load of a quadrant with the number of its first launch record: the records follow the words at 64-byte alignment, and their number
stands in the LAUNCH slots, which does not change the words' length (R127, R150). -/
def State.placedJob (s : State) (c q : Nat) (m : List Byte) : Job :=
  s.job c q (align64 (0x440 + 4 * (s.job c q 0 m).translate.size) / 64) m

/-- The words of a quadrant and its launch records. -/
def State.translation (s : State) (c q : Nat) (m : List Byte) : Tr := (s.placedJob c q m).translate

/-- Every handle that the halves of an image name: its instructions', and those of the generators in its words (R218). -/
def State.halfNames (s : State) (c : Nat) (m : List Byte) : List Nat :=
  (imageNames m ++ (bitsSet (s.ctx c).span).flatMap (fun q => (s.translation c q m).words.flatMap Word.addrNames)).eraseDups

/-- Bytes of a half that a translation fills: header and bounds table, words, records, stream program (R150). -/
def Tr.halfBytes (t : Tr) (stream : Nat) : Nat :=
  if t.records = [] ∧ stream = 0 then 0x440 + 4 * t.size else align64 (0x440 + 4 * t.size) + 64 * t.records.length + stream

/-- The first fault of the translation of a quadrant: an instruction it cannot translate, a block that breaks R138 on its path, a stream that
breaks R261; with none, reason 10 when it does not fit the half. DESIGN CHOICE (log 82): R137 names no instruction for that, the model names
the last one. -/
def State.translationFault (s : State) (c q : Nat) (m : List Byte) : Option (Nat × Nat) :=
  let j := s.placedJob c q m
  let t := j.translate
  let p := j.path t
  let f := firstFault t.bad (p.bad.map (fun i => (i, 11)))
  let f := if t.bad.isSome then f else firstFault f ((streamFault j.prog p.events.reverse).map (fun i => (i, 3)))
  if f.isSome then f
  else if t.halfBytes (imgNat m 16 4) > halfSize (s.quad q).shared then some (imgNat m 8 4 - 1, 10) else none

/-- Why an image is refused: instruction and reason (R137). DESIGN CHOICE (log 82), where R137 names no instruction: 0 for a bad header,
the outermost REPEAT left open, the last instruction when the translation does not fit. -/
def State.refusal (s : State) (c : Nat) (m : List Byte) : Option (Nat × Nat) :=
  if headerOk m = false then some (0, 1)
  else
    let m := m.take (imageLength m)
    let x := imageOf m (s.exclusiveSpan (s.ctx c).span)
    let w := x.prog.zipIdx.foldl (s.walkInsn c x) ⟨[], [], [], none⟩
    let f := firstFault w.fault ((unclosedRepeat x.prog).map (fun i => (i, 7)))
    (bitsSet (s.ctx c).span).foldl (fun f q => firstFault f (s.translationFault c q m)) f

/-- The code that R244 and R266 report with a refusal of reason 5; 0 for any other refusal. -/
def State.refusalCode (s : State) (c : Nat) (m : List Byte) (f : Nat × Nat) : BitVec 16 :=
  if f.2 = 5 then (let code := s.tensorCode c ((insns m).getD f.1 (insnAt m 0)); if code = 1 then 0 else code) else 0

/-! ## The halves (R150, R155, R182, R183, R235) -/

/-- A bounds-table entry of 16 bytes in the layout of R182: bound, its space, its bounds. -/
def boundsEntry (d : Desc) (q : Nat) : List Byte := bytesOf 16 (BitVec.ofNat 128 (1 * 2 ^ 126 + d.space * 2 ^ 124 + (d.bounds q).toNat * 2 ^ 40))

/-- A list of bytes filled up with zeros to a length. -/
def fillTo (n : Nat) (bs : List Byte) : List Byte := bs ++ List.replicate (n - bs.length) 0

/-- A half as it is written (R150): the header, the bounds table, the words, the launch records at 64-byte alignment, and the stream program
after them, where the next multiple of 64 is (log 10). -/
def State.halfBytes (s : State) (c q number : Nat) (m : List Byte) : List Byte :=
  let t := s.translation c q m
  let profile := imgNat m 6 2
  let stream := imgNat m 16 4
  let ts := imageTensors m
  let at_ := align64 (0x440 + 4 * t.size)
  let header := toLe 4 (4 * t.size) ++ toLe 4 (if t.records = [] then 0 else at_) ++
    toLe 4 (if profile = 0 then 0 else at_ + 64 * t.records.length) ++ toLe 2 profile ++ toLe 2 ts.length ++ toLe 8 number ++ toLe 8 0 ++
    (m.drop 32).take 32
  let body := fillTo 0x440 (header ++ ts.flatMap (fun h => boundsEntry (s.desc c h) q)) ++ wordBytes t.words.reverse
  if t.records = [] ∧ stream = 0 then body
  else fillTo at_ body ++ t.records.flatMap (fun r => bytesOf 64 r) ++ (m.drop (imageLength m - stream)).take stream

/-- A write of a half reaches the timetable store: the store drops it when the half is active and the context's lesson has started and is not
dismissed (R155). -/
def State.storeHalf (s : State) (c q : Nat) (half : Bool) (bs : List Byte) : Option State :=
  let x := s.ctx c
  if half = x.active ∧ x.lesson.isSome = true then none
  else
    let base := halfBase (s.quad q).shared (tget 0 x.slotIn q) half
    let size := halfSize (s.quad q).shared
    some (s.modQuad q (fun y => { y with tt := writeBytes (dropRange y.tt base (base + size)) base bs }))

/-- The loader aims every write at the shadow half (R92). -/
def State.shadow (s : State) (c : Nat) : Bool := !(s.ctx c).active

/-- Every shadow half of a context is written, or none is (R153, R155). -/
def State.storeHalves (s : State) (c number : Nat) (m : List Byte) : Option State :=
  (bitsSet (s.ctx c).span).foldl (fun t q =>
    match t with
    | none => none
    | some (t : State) => t.storeHalf c q (s.shadow c) (s.halfBytes c q number m)) (some s)

/-! ## Reading an image (R408) -/

/-- Columns of a descriptor in position order, with the bytes taken from each. -/
def Desc.imageColumns (d : Desc) : List (Nat × Nat) :=
  (List.range (if d.rank = 2 then d.size 1 else 1)).flatMap (fun i =>
    let p := d.outerPlace [i]
    (List.range d.cols).map (fun k =>
      ((p.1 * 2 ^ 27 + d.base + (if d.rank = 2 then p.2 else 0)) / 32 + k, min 32 (d.size 0 - 32 * k))))

/-- The first columns that hold n bytes. -/
def enough : Nat → List (Nat × Nat) → List (Nat × Nat)
  | _, [] => []
  | n, x :: xs => if n = 0 then [] else x :: enough (n - x.2) xs

def State.readColumns (s : State) (cs : List (Nat × Nat)) : List Byte × State :=
  cs.foldl (fun (acc : List Byte × State) x =>
    let r := acc.2.ctrlRead x.1
    (acc.1 ++ (bytesOf 32 r.1.data).take x.2, r.2)) ([], s)

/-- The columns of the image behind a descriptor: the header tells how many bytes are read. -/
def State.imageReads (s : State) (d : Desc) : List Nat :=
  (enough (imageLength (s.readColumns (enough 64 d.imageColumns)).1) d.imageColumns).map (fun x => x.1)

/-- The image behind a descriptor, as its columns read. -/
def State.readImage (s : State) (d : Desc) : List Byte × State :=
  let cs := d.imageColumns
  let head := s.readColumns (enough 64 cs)
  let n := imageLength head.1
  let all := enough n cs
  let rest := head.2.readColumns (all.drop (enough 64 cs).length)
  ((head.1 ++ rest.1).take n, rest.2)

end Sys2Proof.Machine
end

