-- ==== Sys2Proof/Machine/Present.lean ====
section
/-! DEFINITION. The SYNC word as it is presented (R145): ROLL, whose arrival may release a round at once, and the choice among the
operations that can block. -/

namespace Sys2Proof.Machine

/-- ROLL (R315 to R318, R322, R329, R553). An arrival that completes a round on a bell is released on that bell. -/
def State.presentRoll (s : State) (q sl : Nat) (w : Word32) : State :=
  match (s.slot q sl).ctx with
  | none => s
  | some c =>
    let e := s.rollHandle c (Sync.call w)
    let r := s.rollCall e.num.toNat
    if e.bound = false ∨ e.dead = true ∨ r.st ≠ 1 then s.pass q sl (Sync.waits w)
    else if r.ring = true ∧ s.outOfRing = true then
      let s := s.ringRollAlone e.num.toNat
      s.pass q sl (Sync.waits w)
    else
      let a := s.arriveAt e.num.toNat (4 * q + sl)
      match a.2 with
      | .recorded n =>
        let s := a.1.meetBell
        if Sync.waits w = false then s.pass q sl false
        else if n = r.round.toNat ∧ (s.rollCall e.num.toNat).round ≠ r.round then s.pass q sl r.poisonNext
        else s.block q sl (.rollCall (Sync.call w) n)
      | .held => a.1.block q sl (.rollHeld (Sync.call w))
      | .outsider =>
        if Sync.waits w then a.1.block q sl (.rollCall (Sync.call w) r.round.toNat) else a.1.pass q sl false

/-- A SYNC word that can block is presented, unless it has been: none for another SYNC operation. -/
def State.present (s : State) (q sl : Nat) (w : Word32) : State :=
  let x := s.slot q sl
  if x.passed.isSome ∨ x.blocked.isSome then s
  else
    match Sync.op w with
    | 2 => s.presentWait q sl w
    | 4 => s.presentRget q sl w
    | 6 => s.presentBell q sl w
    | 7 => s.presentRoll q sl w
    | 8 => s.presentFence q sl
    | 9 => s.presentReport q sl w
    | _ => s

/-- SYNC operations that are presented. -/
def Sync.blocks (w : Word32) : Bool := [2, 4, 6, 7, 8, 9].contains (Sync.op w)

/-- ROLL (R316). -/
def execRoll (q sl : Fin 4) (w : Word32) (s : State) : Host.Outcome State Fault Refusal :=
  .next (let x := s.slot q sl
    if x.passed.isSome ∨ x.blocked.isSome then s else s.presentRoll q sl w)

end Sys2Proof.Machine
end

