-- ==== Sys2Proof/Machine/Lesson.lean ====
section
/-! DEFINITION. Lessons: bells, starts, switches of context, dismissal, the choice of frequency point, saturation, loads, and
the end of a context (R25 to R30, R152 to R176, R190, R191, R256, R290, R313 to R329, R356, R484, R542 to R549). -/

namespace Sys2Proof.Machine

/-! ## Frequency points (R172, R356, R484, R485) -/

/-- The nearest allowed point (R484). -/
def State.limitPoint (s : State) (p : Nat) : Nat := max s.pow.fastLimit.toNat (min s.pow.slowLimit.toNat p)

/-- Sensor sites of a quadrant: its hub site and its five stack sites (R468, R471). -/
def quadSites (q : Nat) : List Nat := q :: (List.range 5).map (fun i => 4 + 5 * q + i)

/-- A site in throttle or above, or failed (R484). -/
def Site.hot (x : Site) : Bool := x.failed || decide (x.level.toNat ≥ 2)

/-- Late beats among the last n issued at the present point (R484). -/
def Quad.lateIn (x : Quad) (n : Nat) : Nat := (x.lateAt.filter (fun b => decide (x.issuedHere < b + n))).length

/-- The faster point was left for a slower one within the last LATE_HOLDOFF ms (R484). -/
def State.leftLately (s : State) (q p : Nat) : Bool :=
  match tget none (s.quad q).leftFaster p with
  | some t => decide (s.ring.timebase < t + s.pow.lateHoldoff.toNat * 1000000)
  | none => false

/-- Fixed floor or a lost crystal asks for F3 (R458, R485). -/
def State.floorPoint (s : State) : Bool := decide (s.pow.mode = 1) || s.clk.xtalLost

/-- The point the governor chooses at a dismissal (R484, R485). -/
def State.nextPoint (s : State) (q : Nat) : Nat :=
  let x := s.quad q
  if s.floorPoint then 3
  else
    let slower := x.forced || decide (x.lateIn (2 ^ 24) > 16)
    let faster := decide (x.point ≠ 0) && decide (x.issuedHere ≥ 2 ^ 26) && decide (x.lateIn (2 ^ 26) ≤ 4) &&
      (quadSites q).all (fun i => !(s.site i).hot) && !s.leftLately q (x.point - 1)
    s.limitPoint (if slower then min 3 (x.point + 1) else if faster then x.point - 1 else x.point)

/-- The choice of a dismissal: one already made and not yet carried out stands, but for fixed floor and a lost crystal. -/
def State.choosePoint (s : State) (q : Nat) : State :=
  let x := s.quad q
  if x.changing ∨ (x.chosen.isSome ∧ s.floorPoint = false) then s
  else
    let p := s.nextPoint q
    s.setQuad q { x with chosen := if p = x.point then none else some p }

/-- A slot's lesson has issued a word and has not been dismissed (R172). -/
def Slot.underway (y : Slot) : Bool :=
  match y.st with
  | .dismissed => false
  | _ => decide (y.lessonBeat ≠ 0 ∨ y.pc ≠ 0x440)

/-- FREQ_CHANGE_START (R172, R356): with a point chosen and no lesson under way the change begins: queued neighbour refreshes are
performed, every bank is precharged, the stacks enter self-refresh. -/
def State.startChange (s : State) (q : Nat) : State :=
  let x := s.quad q
  match x.chosen with
  | none => s
  | some p =>
    if x.changing ∨ (List.range 4).any (fun i => (x.slot i).underway) = true then s
    else
      let left := if p > x.point then tset none x.leftFaster x.point (some s.ring.timebase) else x.leftFaster
      let s := s.setQuad q { x with changing := true, leftFaster := left }
      { s with banks := tmap Bank.init s.banks (fun u => quadOf u == q) (fun b =>
        { b with nbq := [], open0 := none, open1 := none }) }

/-- FREQ_CHANGE_COMPLETE (R169, R356, R357, R358, R484): the quadrant runs at the new point, its debts are paid and its statistics
begin anew; what waited for it goes on. -/
def execFreqChangeComplete (q : Fin 4) (s : State) : Host.Outcome State Fault Refusal :=
  .next (let x := s.quad q
    match x.changing, x.chosen with
    | true, some p =>
      let s := s.setQuad q { x with
        changing := false, chosen := none, point := p, issuedHere := 0, lateAt := [], forced := false, sinceRecess := 0, idle := 0,
        rateK := 0 }
      let s := (List.range 4).foldl (fun (s : State) sl => s.modSlot q sl (fun y => { y with heldFirst := false })) s
      let s := { s with
        banks := tmap Bank.init s.banks (fun u => quadOf u == q.val) (fun b => { b with debt := 0 })
        health := { s.health with freqChanges := bump s.health.freqChanges 1 } }
      let s := (List.range 5).foldl (fun (s : State) i => s.applyBand (5 * q + i)) s
      (s.pumpQuad q).kvPump
    | _, _ => s)

/-! ## Halves (R149 to R157, R183) -/

/-- A scoreboard entry as the bounds table of an active half gives it (R182, R183). -/
def State.tableEntry (s : State) (q c base i : Nat) : SbEntry :=
  let w : BitVec 128 := BitVec.ofNat 128 (leNat (readBytes (s.quad q).tt (base + 0x40 + 16 * i) 16))
  if i < leNat (readBytes (s.quad q).tt (base + 0x0E) 2) then
    { SbEntry.init with st := 1, space := w.getLsbD 124, ctx := BitVec.ofNat 4 c, bounds := w.extractLsb' 40 72 }
  else SbEntry.init

/-- A slot's entries are written from its active half. -/
def State.loadBounds (s : State) (c q : Nat) : State :=
  let sl := tget 0 (s.ctx c).slotIn q
  let base := s.activeBase q sl
  s.modQuad q (fun x => (List.range 64).foldl (fun (x : Quad) i =>
    x.modEntry (64 * sl + i) (fun _ => s.tableEntry q c base i)) x)

/-- HALF_SWAP (R154, R183): armed halves become active in every quadrant of the span together. -/
def State.swapHalves (s : State) (c : Nat) : State :=
  let x := s.ctx c
  match x.armed with
  | none => s
  | some h =>
    let s := s.setCtx c { x with active := !x.active, half := h, armed := none }
    (bitsSet x.span).foldl (fun (s : State) q => s.loadBounds c q) s

/-- The LOAD record (R400): a code that R244 and R266 report with the refusal stands in STATUS (R554). -/
def loadReport (number : Nat) (bad : Option (Nat × Nat)) (code : BitVec 16) : Report :=
  { Report.blank 6 with
    status := if bad.isNone then Code.ok else if code = 0 then Code.loadRefused else code
    w0 := BitVec.ofNat 64 number
    w1 := (match bad with
      | some (i, r) => BitVec.ofNat 64 (r + i * 2 ^ 32)
      | none => 0) }

/-- The LOAD record of a load whose write met an active half in use (R155). -/
def loadBusyReport (number : Nat) : Report := { Report.blank 6 with status := Code.loadBusy, w0 := BitVec.ofNat 64 number }

/-- The load that waits begins once no load is under way and no halves are armed; its image is read once its columns can be reached, which
opens the gates of their quadrants (R147, R156, R337, R463). -/
def State.beginLoad (s : State) (c : Nat) : State :=
  let x := s.ctx c
  match x.waitLoad with
  | none => s
  | some (n, h) =>
    if x.loading.isSome ∨ x.armed.isSome then s
    else
      let d := s.desc c h
      let cols := if d.live then s.imageReads d else []
      let s := cols.foldl (fun (s : State) k => let q := quadOf (bankOfCol k); if (s.gate q).state = 3 then s else s.demandGate q) s
      if s.reachAll cols = false then s
      else
        let r := if d.live then s.readImage d else ([], s)
        r.2.modCtx c (fun x => { x with waitLoad := none, loading := some ⟨n, r.1⟩ })

/-- LOAD_BEGIN (R156). -/
def execLoadBegin (c : Fin 16) (s : State) : Host.Outcome State Fault Refusal := .next (s.beginLoad c)

/-- LOAD_COMPLETE (R137, R153 to R155, R157): a refused image leaves every half as it was; another fills the shadow halves of the span
and arms them, and they swap at once in a dismissed context, but in the beat of a bell, which may start a lesson, once that beat is
over. -/
def execLoadComplete (c : Fin 16) (s : State) : Host.Outcome State Fault Refusal :=
  .next (let x := s.ctx c
    match x.loading with
    | none => s
    | some l =>
      let s := s.setCtx c { x with loading := none }
      match s.refusal c l.image with
      | some f => s.post c (loadReport l.number (some f) (s.refusalCode c l.image f))
      | none =>
        let m := l.image.take (imageLength l.image)
        match s.storeHalves c l.number m with
        | none => s.post c (loadBusyReport l.number)
        | some s =>
          let s := s.modCtx c (fun x => { x with armed := some ⟨l.number, imageTensors m, s.halfNames c m⟩ })
          let bell := decide (s.ring.period ≠ 0 ∧ s.ring.timebase % s.ring.period = 0)
          let s := if x.dismissed && !bell then s.swapHalves c else s
          s.post c (loadReport l.number none 0))

/-! ## Bells (R21, R313, R318 to R321, R445) -/

/-- A blocked BELL word has seen one more bell; the last one releases it (R313). -/
def Slot.hearBell (x : Slot) : Slot :=
  match x.blocked with
  | some (.bells n) => if n ≤ 1 then x.release false else { x with blocked := some (.bells (n - 1)) }
  | _ => x

/-- A bell rings at timebase t: roll calls are released, BELL words count, lessons start. -/
def State.bellAt (s : State) (t : Nat) : State :=
  let s := { s with ring := { s.ring with lastBell := t, bells := s.ring.bells + 1 } }
  let s := allSlots.foldl (fun (s : State) p => s.modSlot p.1 p.2 Slot.hearBell) s
  let s := (List.range 64).foldl (fun (s : State) r => s.bellRoll r t) s
  (List.range 16).foldl (fun (s : State) c => s.startLesson c) s

/-- The next bell at or after a time, later than the last one. -/
def State.bellFrom (s : State) (period t : Nat) : Nat :=
  bellAtOrAfter period (if s.ring.bells = 0 then t else max t (s.ring.lastBell + 1))

/-- A stored period takes effect: at CHANGE_AT no bell of the old one is left (R445). -/
def State.applyPeriod (s : State) : State :=
  if s.ring.nextPeriod = 0 then s
  else { s with ring := { s.ring with period := s.ring.nextPeriod, nextPeriod := 0 } }

/-- Armed halves of dismissed contexts swap once the beat of their load's completion is over (R154, R157). -/
def State.swapArmed (s : State) : State :=
  (List.range 16).foldl (fun (s : State) c => if (s.ctx c).live && (s.ctx c).dismissed then s.swapHalves c else s) s

/-- The timebase goes on to a later value without a bell between. DESIGN CHOICE (log 79): the recovery procedures that act on a fencing or
a leaving (R552), for which no command marks an end, are over when the timebase has gone on. -/
def State.moveTime (s : State) (t : Nat) : State :=
  if t ≤ s.ring.timebase then s else (((s.swapArmed).endRecovery recFence).endRecovery recLeave).passTime t

/-- A bell of the period in force is due at the present timebase and has not rung (R21). -/
def State.bellDue (s : State) : Bool := decide (s.ring.period ≠ 0 ∧ s.ring.timebase % s.ring.period = 0) && !s.onBell

/-- The bell due at the present timebase rings (R21); at CHANGE_AT it is one of the new period (R445). -/
def State.ringDue (s : State) : State :=
  let s := if s.ring.nextPeriod ≠ 0 ∧ s.ring.changeAt ≤ s.ring.timebase then s.applyPeriod else s
  if s.bellDue then s.bellAt s.ring.timebase else s

/-- The bells of the period in force ring up to a timebase, which is not reached yet itself. -/
def State.ringUntil (s : State) (t : Nat) : Nat → State
  | 0 => s
  | n + 1 =>
    let b := s.bellFrom s.ring.period s.ring.timebase
    if b < t ∧ s.ring.period ≠ 0 then ((s.moveTime b).bellAt b).ringUntil t n else s

/-- One nanosecond of the timebase, which does not count before auxiliary power is good (R20, R541; log 2). A bell due at its start
rings first (R21). -/
def State.tick (s : State) : State :=
  if s.boot.auxGood then (let s := s.ringDue; s.moveTime (s.ring.timebase + 1)) else s

/-- BELL_RING (R20, R21): the timebase reaches the next multiple of the period in force then. -/
def execBellRing (s : State) : Host.Outcome State Fault Refusal :=
  .next (if s.boot.auxGood = false then s
    else
      let t := s.bellFrom s.ring.period s.ring.timebase
      let late := decide (s.ring.nextPeriod ≠ 0 ∧ s.ring.changeAt ≤ t)
      let s := if late then s.applyPeriod else s
      let t := if late then s.bellFrom s.ring.period (max s.ring.timebase s.ring.changeAt) else t
      (s.moveTime t).bellAt t)

/-- BELL_PERIOD_CHANGE (R21, R445): the bells of the old period before CHANGE_AT ring; the timebase reaches CHANGE_AT, where the new
period takes effect. -/
def execBellPeriodChange (s : State) : Host.Outcome State Fault Refusal :=
  .next (if s.ring.nextPeriod = 0 then s
    else
      let t := s.ring.changeAt
      ((s.ringUntil t ((t - s.ring.timebase) / s.ring.period + 1)).moveTime t).applyPeriod)

/-! ## Switches of context (R160 to R170) -/

/-- A slot has no result due and no masked write in flight. -/
def State.settled (s : State) (q sl : Nat) : Bool :=
  (s.quad q).dues.all (fun d => decide (d.slot ≠ sl)) && (s.quad q).masked.all (fun m => decide (m.slot ≠ sl))

/-- Every open row of a quadrant is closed (R167). -/
def State.closeRows (s : State) (q : Nat) : State :=
  { s with banks := tmap Bank.init s.banks (fun u => quadOf u == q) (fun b => { b with open0 := none, open1 := none }) }

/-- A word that holds the quadrant in place becomes a switch point: at a quiet beat, or in profile 1 once its results are visible and
the rows are closed (R166, R167). -/
def State.settleBlocked (s : State) (q sl : Nat) : State :=
  let y := s.slot q sl
  if y.st ≠ .issuing ∨ y.blocked.isNone then s
  else if s.quiet q sl then s.modSlot q sl (fun y => { y with st := .waiting })
  else if s.profile q sl = 1 ∧ s.settled q sl then (s.closeRows q).modSlot q sl (fun y => { y with st := .waiting })
  else s

/-- Priority of the context of a slot (R161). -/
def State.priority (s : State) (q sl : Nat) : Nat :=
  match (s.slot q sl).ctx with
  | some c => (s.cfg c).priority.toNat
  | none => 0

/-- READY slots in slot order after the outgoing one; a first word held by R172 is not there to issue. DESIGN CHOICE (log 76): with no
slot selected ever, the order starts at slot 0. -/
def State.readySlots (s : State) (q : Nat) : List Nat :=
  let after := match (s.quad q).sel with
    | some sl => sl + 1
    | none => 0
  ((List.range 4).map (fun i => (after + i) % 4)).filter (fun sl => (s.slot q sl).st == .ready && !s.firstHeld q sl)

/-- The READY slot of the highest priority, the first among equals (R162). -/
def State.bestReady (s : State) (q : Nat) : Option Nat :=
  (s.readySlots q).foldl (fun best sl =>
    match best with
    | none => some sl
    | some b => if s.priority q sl > s.priority q b then some sl else some b) none

/-- Whether a READY slot is selected in place of the selected one (R162, R166). -/
def State.mayReplace (s : State) (q sl : Nat) : Bool :=
  let x := s.quad q
  match x.sel with
  | none => true
  | some old =>
    let y := x.slot old
    if y.st = .issuing then
      x.atSwitch && (decide (s.priority q sl > s.priority q old) ||
        (decide (s.priority q sl = s.priority q old) && (x.quantumUp || decide (x.selBeats ≥ s.mgmt.quantum.toNat))))
    else if y.st = .draining then s.settled q old
    else true

/-- A slot is selected, after a switch recess where the quadrant's count exceeds the slot's own (R162, R168). -/
def State.select (s : State) (q sl : Nat) (late : List Nat) : State :=
  let s := match (s.quad q).sel with
    | some old => s.modSlot q old (fun y => { y with st := if y.st = CtxState.issuing then CtxState.ready else y.st })
    | none => s
  let s := if (s.quad q).sinceRecess > (s.slot q sl).sinceRecess then s.recess q late else s
  (s.modSlot q sl (fun y => { y with st := .issuing })).modQuad q (fun x =>
    { x with sel := some sl, selBeats := 0, quantumUp := false, atSwitch := false })

/-- CONTEXT_SWITCH (R63, R64, R162, R163, R166 to R168): a held quadrant has no switch point, and one in a recess goes on with it. Units
named late hold the boundaries of the switch recess before their results. -/
def execContextSwitch (b : BeatStart) (s : State) : Host.Outcome State Fault Refusal :=
  .next (
    let q := b.q
    if s.holding q then s
    else if (s.quad q).recessLeft ≠ 0 then s.runRecess q b.late
    else
    let s := match (s.quad q).sel with
      | some sl => s.settleBlocked q sl
      | none => s
    match s.bestReady q with
    | none => s
    | some sl => if s.mayReplace q sl then s.select q sl b.late else s)

/-- QUANTUM_EXPIRY (R162): the selected context has issued for at least the quantum. -/
def execQuantumExpiry (q : Fin 4) (s : State) : Host.Outcome State Fault Refusal :=
  .next (s.modQuad q (fun x =>
    { x with quantumUp := x.quantumUp || (x.stretching && decide (x.selBeats ≥ s.mgmt.quantum.toNat)) }))

/-- END (R160, R173): the context is DRAINING in the quadrant. -/
def execEndWord (q sl : Fin 4) (s : State) : Host.Outcome State Fault Refusal :=
  .next (if (s.slot q sl).st = .issuing then s.modSlot q sl (fun y => { y with st := .draining }) else s)

/-! ## Dismissal (R27, R28, R152, R173 to R175, R401) -/

/-- An operation of the context runs in a quadrant: a share of its own, or a copy share of another quadrant that reads there (R173,
R187, R237). -/
def State.runsIn (s : State) (c q : Nat) : Bool :=
  ((s.quad q).xq ++ (s.quad q).mq).any (fun h => h.ctx = c) ||
    (List.range 4).any (fun p => (s.quad p).xq.any (fun h => h.ctx = c ∧ Nat.testBit (fld h.record 441 438) q = true))

/-- Steps 1 and 2 are reached in one quadrant: the slot DRAINING, its results visible, its long-running operations ended (R173). -/
def State.quadDrained (s : State) (c q : Nat) : Bool :=
  let sl := tget 0 (s.ctx c).slotIn q
  (s.slot q sl).st == .draining && s.settled q sl && !s.runsIn c q

/-- Steps 1 and 2 are reached in every quadrant of the span, and no operation of the context runs in the ring. -/
def State.drained (s : State) (c : Nat) : Bool :=
  (bitsSet (s.ctx c).span).all (fun q => s.quadDrained c q) && !s.ring.merges.any (fun m => m.ctx = c)

/-- POISONED of a descriptor (R175, R220). -/
def State.poisonDesc (s : State) (c h : Nat) : State :=
  s.modCtx c (fun x => { x with descs := tmod 0 x.descs h (fun d => setBits d 493 1 1) })

/-- Tensors of a quadrant's entries that the lesson held for writing are marked (R175). -/
def State.markWritten (s : State) (c q : Nat) : State :=
  let sl := tget 0 (s.ctx c).slotIn q
  ((List.range 64).filter (fun i => ((s.quad q).entry (64 * sl + i)).wroteLesson)).foldl
    (fun (s : State) i => s.poisonDesc c ((s.ctx c).half.entries.getD i 0)) s

/-- Step 3: tensors the lesson held for writing are marked if it is unsettled, and its entries become bound (R175, R188). Which were
held for writing is kept until step 6: the lesson may become unsettled in another quadrant. -/
def State.releaseEntries (s : State) (c : Nat) (mark : Bool) (q : Nat) : State :=
  let sl := tget 0 (s.ctx c).slotIn q
  let s := if mark then s.markWritten c q else s
  s.modQuad q (fun x => (List.range 64).foldl (fun (x : Quad) i =>
    x.modEntry (64 * sl + i) (fun e =>
      { e with st := if e.st = 0 then 0 else 1, wr := false, holders := [], byLesson := false })) x)

/-- The entries of a quadrant keep nothing of a lesson that ends; its tensors held for writing are marked if it is unsettled by
now (R175). -/
def State.forgetWritten (s : State) (c : Nat) (mark : Bool) (q : Nat) : State :=
  let sl := tget 0 (s.ctx c).slotIn q
  let s := if mark then s.markWritten c q else s
  s.modQuad q (fun x => (List.range 64).foldl (fun (x : Quad) i =>
    x.modEntry (64 * sl + i) (fun e => { e with wroteLesson := false })) x)

/-- Step 4: the event records of a quadrant's units are collected and cleared (R39). DESIGN CHOICE (log 77): the spec names no
place where the stack controller keeps what it has collected, and no way to read it; the counts and the address end here. -/
def State.collectEvents (s : State) (q : Nat) : State :=
  { s with units := tmap BankUnit.init s.units (fun u => quadOf u == q) (fun b => { b with ev := EventRec.init }) }

/-- RESULT of the closing record: bytes, poisoned, missing (R401). -/
def State.resultOf (s : State) (c : Nat) (l : Lesson) : BitVec 224 × Bool × Bool :=
  let d := s.desc c (l.result.toNat % 4096)
  if l.result.toNat = 0xFFF ∨ d.live = false ∨ d.space = 0 then (0, false, true)
  else
    let q := s.lowQuad c
    let bad := [d.base / 32, (d.base + 27) / 32].any (fun i => s.stageMark q i)
    (BitVec.ofNat 224 (leNat (s.stageBytes q d.base 28)), bad, false)

/-- The RECOMPUTE records of a lesson, one for each tensor (R401). -/
def recomputeReport (l : Lesson) (r : Nat × Nat × List Nat) : Report :=
  { Report.blank 7 with
    roll := l.roll, w0 := BitVec.ofNat 64 (r.1 + r.2.1 * 2 ^ 16), w1 := BitVec.ofNat 64 r.2.2.length }

/-- The CLOSING record (R158, R174, R399 to R401). -/
def State.closingReport (s : State) (c : Nat) (l : Lesson) : Report :=
  let r := s.resultOf c l
  let bit (b : Bool) (n : Nat) : Nat := if b then 2 ^ n else 0
  let u := l.unsettled.getD (0, 0)
  { Report.blank 1 with
    roll := l.roll
    status := if l.unsettledMark then Code.unsettled else Code.ok
    flags := BitVec.ofNat 32 (bit l.unsettledMark 0 + bit l.stolen 1 + bit (!l.recompute.isEmpty) 2 + bit r.2.1 3 + bit r.2.2 4)
    w0 := BitVec.ofNat 64 l.loadSeq
    w1 := BitVec.ofNat 64 (u.1 + u.2 * 2 ^ 20 + (s.ring.bells - l.startBell) * 2 ^ 32)
    result := r.1 }

/-- Steps 3 to 5 in one quadrant (R173). -/
def State.closeQuad (s : State) (c : Nat) (mark : Bool) (q : Nat) : State :=
  let s := (s.releaseEntries c mark q).collectEvents q
  (s.modSlot q (tget 0 (s.ctx c).slotIn q) (fun y => { y with closed := true })).serveDeferred

/-- The quadrants of the span that have reached steps 3 to 5 take them, each by itself (R173). One that has taken them releases entries
that a copy share of another quadrant held there since (R188). -/
def State.closeQuads (s : State) (c : Nat) : State :=
  (bitsSet (s.ctx c).span).foldl (fun (s : State) q =>
    let y := s.slot q (tget 0 (s.ctx c).slotIn q)
    let mark := match (s.ctx c).lesson with
      | some l => l.unsettledMark
      | none => false
    if s.quadDrained c q = false then s
    else if y.closed then (s.releaseEntries c mark q).serveDeferred
    else s.closeQuad c mark q) s

/-- An access that the lesson of a context deferred has not been served (R27). -/
def State.owesAccess (s : State) (c : Nat) : Bool :=
  (s.host.deferred ++ s.host.inFlight ++ (List.range 20).flatMap (fun st => (s.stack st).slateQ)).any (fun a => a.by_.contains c)

/-- Every quadrant of the span has taken steps 3 to 5, and the accesses the lesson deferred are served. -/
def State.settledAll (s : State) (c : Nat) : Bool :=
  (bitsSet (s.ctx c).span).all (fun q => (s.slot q (tget 0 (s.ctx c).slotIn q)).closed) &&
    !s.ring.merges.any (fun m => m.ctx = c) && !s.owesAccess c

/-- Step 6: the last reports of the lesson are posted; its closing record comes after every column write of the lesson (R381). -/
def State.closeLesson (s : State) (c : Nat) (l : Lesson) : State :=
  let s := (bitsSet (s.ctx c).span).foldl (fun (s : State) q => s.forgetWritten c l.unsettledMark q) s
  let s := s.modCtx c (fun x => { x with lesson := some { l with closing := true } })
  let s := l.recompute.foldl (fun (s : State) r => s.post c (recomputeReport l r)) s
  s.postFrom c (s.closingReport c l) ((bitsSet (s.ctx c).span).map (fun q => (q, (s.quad q).seq + 1))) false none

/-- Step 7 (R152, R154, R172, R410): the lesson is over; halves swap, the governor chooses and a change may begin. -/
def State.finishLesson (s : State) (c : Nat) : State :=
  let x := s.ctx c
  let qs := bitsSet x.span
  let after := x.accepted.dropWhile (·.skip)
  let done := match after.head? with
    | some a => BitVec.ofNat 12 ((a.slot + a.slots) % 4096)
    | none => x.done
  let roll := match x.lesson with
    | some l => l.roll
    | none => x.doneRoll
  let s := s.setCtx c { x with
    lesson := none, lessons := x.lessons + 1, done := done, doneRoll := roll, accepted := after.drop 1
    head := if x.hostLost then done else x.head, lastRoll := if x.hostLost then roll else x.lastRoll }
  let s := qs.foldl (fun (s : State) q => s.modSlot q (tget 0 x.slotIn q) (fun y => { y with st := .dismissed, closed := false })) s
  let s := s.swapHalves c
  qs.foldl (fun (s : State) q => (s.choosePoint q).startChange q) s

/-- The closing record waits at its source (R403). -/
def Ctx.closingWaits (x : Ctx) : Bool := x.queue.any (fun w => decide (w.record.type = 1))

/-- DISMISSAL_COMPLETE (R27, R173, R403): every quadrant that has drained takes steps 3 to 5; once all have and no access the lesson
deferred is outstanding, the closing record is posted; while it finds no place in the report buffer the dismissal stands at step 6. -/
def execDismissalComplete (c : Fin 16) (s : State) : Host.Outcome State Fault Refusal :=
  .next (match (s.ctx c).lesson with
    | none => s
    | some _ =>
      let s := s.closeQuads c
      let s := match (s.ctx c).lesson with
        | some l => if l.closing = false ∧ s.settledAll c then s.closeLesson c l else s
        | none => s
      let closed := match (s.ctx c).lesson with
        | some l => l.closing
        | none => false
      if closed && !(s.ctx c).closingWaits then s.finishLesson c else s)

/-! ## Saturation (R190, R191) -/

/-- Largest category: ties go to SLICES over COLUMN, else to the lowest code; NONE when nothing was assigned. -/
def satLargest (t : Table Nat) : Nat :=
  t.foldl (fun best p =>
    let v := tget 0 t best
    if best = 0 ∨ p.2 > v ∨ (p.2 = v ∧ best = Sat.column ∧ p.1 = Sat.slices) then p.1 else best) 0

/-- Categories that took at least 5 % of the assigned time. -/
def satFlagsOf (t : Table Nat) : BitVec 16 :=
  let total := t.foldl (fun n p => n + p.2) 0
  t.foldl (fun w p => if p.2 * 20 ≥ total ∧ p.2 ≠ 0 then w ||| (1#16 <<< p.1) else w) 0

/-- The categories of the four quadrants together. -/
def State.satTotal (s : State) : Table Nat :=
  (List.range 4).foldl (fun t q => (s.quad q).sat.foldl (fun t p => tmod 0 t p.1 (· + p.2)) t) []

/-- SATURATION_INTERVAL (R191): the codes of the interval are published and a new interval begins. -/
def execSaturationInterval (linkBusy peerBusy : Bool) (s : State) : Host.Outcome State Fault Refusal :=
  .next (let code := if linkBusy then 5 else if peerBusy then 6 else satLargest s.satTotal
    let s := { s with mgmt := { s.mgmt with moduleSat := BitVec.ofNat 8 code } }
    (List.range 4).foldl (fun (s : State) q => s.modQuad q (fun x =>
      { x with satCode := BitVec.ofNat 8 (satLargest x.sat), satFlags := satFlagsOf x.sat, sat := [] })) s)

/-! ## The end of a context (R176, R203, R256, R290, R327 to R329, R542 to R549) -/

/-- The folds of a roll call that is about to be freed wait for its release no longer (R275; log 96). -/
def State.releaseDead (s : State) (n : Nat) : State :=
  (s.ring.merges.filter (fun m => m.num = n ∧ m.released = false)).foldl (fun (s : State) m => s.releaseMerge m true) s

/-- A roll call at half-mast without handles is freed (R329). -/
def State.freeRolls (s : State) : State :=
  (List.range 64).foldl (fun (s : State) n =>
    if (s.rollCall n).st = 2 ∧ s.ctxs.all (fun c => c.2.rolls.all (fun h => !(h.2.bound && h.2.num.toNat == n))) then
      (s.releaseDead n).setRoll n RollCall.free
    else s) s

/-- Every waiter at a roll call is released with POISONED, whatever its round (R329); operations that wait there are done with their own
rows, and the ring's fold passes them by (R275). -/
def State.releaseAllAt (s : State) (num : Nat) : State :=
  let at_ (c h : Nat) : Bool := let e := s.rollHandle c h; e.bound && e.num.toNat == num
  let s := allSlots.foldl (fun (s : State) p =>
    match (s.slot p.1 p.2).ctx, (s.slot p.1 p.2).blocked with
    | some c, some (.rollCall h _) => if at_ c h then s.modSlot p.1 p.2 (fun y => y.release true) else s
    | some c, some (.rollHeld h) => if at_ c h then s.modSlot p.1 p.2 Slot.unblock else s
    | _, _ => s) s
  let s := (List.range 16).foldl (fun (s : State) c =>
    let due := (s.ctx c).releases.filter (fun p => at_ c p.1)
    let s := s.modCtx c (fun x => { x with releases := x.releases.filter (fun p => !at_ c p.1) })
    due.foldl (fun (s : State) p => s.post c (releaseReport p.1 p.2 true)) s) s
  (s.ring.merges.filter (fun m => decide (m.num = num ∧ m.ctx < 32))).foldl (fun (s : State) m =>
    (s.finishMerge { m with poison := true } m.rows).leaveMerge m) s

/-- Slots a context holds, as bits of LOCAL_MASK (R314). -/
def State.slotBits (s : State) (c : Nat) : BitVec 18 :=
  (bitsSet (s.ctx c).span).foldl (fun m q => m ||| (1#18 <<< (4 * q + tget 0 (s.ctx c).slotIn q))) 0

/-- What the end of a context does to one roll call (R329). Its round in the ring goes on without it: the module arrives there, so that
the others are released (R275; log 96). -/
def State.endAtRoll (s : State) (c num : Nat) : State :=
  let r := s.rollCall num
  let bits := s.slotBits c
  if r.st ≠ 1 then s
  else if r.owner.toNat = c then
    let t := (s.setRoll num { r with st := 2, arrived := r.arrived ||| r.localMask }).releaseAllAt num
    if r.ring && !r.complete then t.reportArrival num else t
  else if r.localMask &&& bits = 0 then s
  else
    let r' := { r with
      localMask := r.localMask &&& ~~~bits, arrived := r.arrived &&& ~~~bits, ahead := r.ahead &&& ~~~bits
      shrunk := true, poisonNext := true }
    let r' := { r' with completeAt := if r'.complete then (if r.complete then r.completeAt else some s.ring.timebase) else none }
    let s := s.setRoll num r'
    if r'.complete && !r.complete then s.reportArrival num else s

/-- Pennants a context owns go to half-mast, then its own bindings are removed (R327). -/
def State.endPens (s : State) (c : Nat) : State :=
  let own := (s.sync.pens.filter (fun p => decide (p.2.st = 1) && p.2.owner.toNat == c)).map (·.1)
  let s := (own.foldl (fun (s : State) p => s.halfMastPen p) s).evalWaiters
  let s := (s.ctx c).pens.foldl (fun (s : State) p => s.bindIdent c p.1 PenBinding.unbound) s
  s.evalWaiters.trimSubs

/-- The shares of a context stop without a hoist and release their entries (R176, R256, R290). -/
def State.cancelShares (s : State) (c : Nat) : State :=
  let late := s.unarrived c
  let s := (List.range 8).foldl (fun (s : State) i =>
    let engine := i % 2
    let q := i / 2
    (((s.quad q).shares engine).filter (fun h => h.ctx = c)).foldl (fun (s : State) h =>
      let rs := s.ring.requests.filter (fun r => !(engine == 0 && r.quad == q && r.share == h.id))
      let s := { s with ring := { s.ring with requests := rs } }
      s.endShare engine q h false) s) s
  let s := (List.range 4).foldl (fun (s : State) q =>
    s.modQuad q (fun x => { x with outs := x.outs.filter (fun o => decide (o.ctx ≠ c)) })) s
  late.foldl (fun (s : State) h => s.arriveDead c h) (s.abandonMerges c)

/-- The context issues no further word (R160, R176). -/
def State.stopIssue (s : State) (c : Nat) : State :=
  (bitsSet (s.ctx c).span).foldl (fun (s : State) q =>
    s.modSlot q (tget 0 (s.ctx c).slotIn q) (fun y => { y with st := .resetting, blocked := none, passed := none })) s

/-- A PEN_BIND whose owner has not answered asks for nothing any more when its context ends: the command is refused, and the answer finds
no context, which is entry 16 of the waiting bindings (R296; log 45). -/
def State.voidBinds (s : State) (c : Nat) : State :=
  let due := s.ring.binds.filter (fun b => decide (b.1 = c))
  let s := { s with ring := { s.ring with binds := s.ring.binds.map (fun b => if b.1 = c then (16, b.2) else b) } }
  due.foldl (fun (s : State) _ => s.answer Code.badRequest []) s

/-- A context reset begins (R176, R327, R329). -/
def State.beginReset (s : State) (c : Nat) : State :=
  let s := (s.modCtx c (fun x => { x with resetting := true })).stopIssue c
  let s := (s.cancelShares c).endPens c
  let s := (List.range 64).foldl (fun (s : State) n => s.endAtRoll c n) s
  (s.voidBinds c).meetBell

/-- Results of the slot are discarded, masked writes end, entries and slot are freed (R176). -/
def State.freeSlot (s : State) (c q : Nat) : State :=
  let sl := tget 0 (s.ctx c).slotIn q
  let s := ((s.quad q).masked.filter (fun m => m.slot = sl)).foldl (fun (s : State) m => s.mergeMasked q m) s
  s.modQuad q (fun x =>
    { x.setSlot sl Slot.init with
      dues := x.dues.filter (fun d => decide (d.slot ≠ sl))
      sb := x.sb.filter (fun p => decide (p.1 / 64 ≠ sl))
      sbWait := x.sbWait.filter (fun r => decide (r.entry / 64 ≠ sl)) })

/-- The plots and granules of an allocation leave it (R202, R362, R543, R558): plots queued for retirement are retired, the others are
cleared; plots of a failed stack are neither. -/
def State.freeAllocation (s : State) (c a : Nat) : State :=
  let x := s.allocation c a
  let s := s.modCtx c (fun y => { y with allocs := tset Allocation.none y.allocs a Allocation.none })
  if x.live = false then s
  else if x.staging then
    let gs := (bitsSet (s.ctx c).span).flatMap (fun q => (span x.lo x.hi).map (fun g => 768 * q + g))
    { s with health := { s.health with clearingG := s.health.clearingG ++ gs } }
  else
    x.plots.foldl (fun (s : State) p =>
      if s.health.retired.contains p ∨ (s.stack (stackOf (bankOfPlot p))).failed then s
      else if s.health.queued.contains p then s.retirePlot p
      else { s with health := { s.health with clearing := s.health.clearing ++ [p] } }) s

/-- A context ends (R176, R203, R542, R543, R546, R549, R556): entry in the log, slots and allocations freed, its tenant sessions and
digest gone, a full map its tenant opened closed. -/
def State.endContext (s : State) (c inst : Nat) : State :=
  let x := s.ctx c
  let qs := bitsSet x.span
  let s := s.logOnly Code.ctxReset inst (BitVec.ofNat 8 c) x.lessons.toNat 0
  let s := ((qs.foldl (fun (s : State) q => s.freeSlot c q) s).forgetBy c).serveDeferred
  let s := x.allocs.foldl (fun (s : State) a => s.freeAllocation c a.1) s
  let s := (s.setCtx c Ctx.init).freeRolls.fillBuffer
  let s := { s with
    sec := { s.sec with digests := tset 0 s.sec.digests (1 + c) 0, parts := tset 0 s.sec.parts (1 + c) 0 }
    host := { s.host with
      sessions := s.host.sessions.filter (fun y => decide (y.tenant ≠ some c))
      fullMap := s.host.fullMap && decide (s.host.fullMapBy ≠ some c)
      fullMapBy := if s.host.fullMapBy = some c then none else s.host.fullMapBy } }
  qs.foldl (fun (s : State) q => s.startChange q) s

/-- CTX_RESET_COMPLETE (R176, R544): the reset ends, and the requests for it complete with status 0. -/
def execCtxResetComplete (c : Fin 16) (s : State) : Host.Outcome State Fault Refusal :=
  .next (let x := s.ctx c
    if x.resetting = false then s
    else
      let s := s.endContext c (if x.hostLost then 2 else 0)
      (List.range x.replies).foldl (fun (s : State) _ => s.answer Code.ok []) s)

end Sys2Proof.Machine
end

