-- ==== Sys2Proof/Machine/Link.lean ====
section
/-! DEFINITION. The CXL link and the loss of the host (R405, R409, R410, R538, R541, R544, R545). -/

namespace Sys2Proof.Machine

/-- A context at host loss (R410): commands not started and records are discarded, ENABLE is cleared, HOST_LOST set, and no interrupt
is owed any more; without a lesson the ring stands at RING_DONE at once. -/
def Ctx.loseHost (x : Ctx) : Ctx :=
  if x.live = false then x
  else
    let kept := if x.lesson.isSome then x.accepted.take ((x.accepted.takeWhile (·.skip)).length + 1) else []
    { x with
      pendingDb := none, accepted := kept, buffer := [], queue := [], unsignalled := 0, hostLost := true
      reportCfg := x.reportCfg &&& ~~~0x100#64
      head := if x.lesson.isSome then x.head else x.done
      lastRoll := if x.lesson.isSome then x.lastRoll else x.doneRoll }

/-- A REPORT word that waited for a place goes on: its record is discarded (R403, R410). -/
def Slot.dropReport (y : Slot) : Slot := if y.blocked = some .reportBuffer then y.release false else y

/-- Mailbox sessions, the transfer in progress and SPDM state are closed (R533, R541). -/
def State.closeSessions (s : State) : State :=
  { s with host := { s.host with sessions := [], fwTransfer := none }
           sec := { s.sec with spdmVersion := false, spdmCaps := false, spdmAlgs := false, spdmSigns := false } }

/-- HOST_LOSS (R410): `cause` is 0 link down, 1 PERST_n, 2 CXL reset (R509). -/
def State.hostLoss (s : State) (cause : Nat) : State :=
  let n := s.ctxs.foldl (fun n c => if c.2.live then n + c.2.buffer.length + c.2.queue.length else n) 0
  let s := (List.range 16).foldl (fun (s : State) c => s.modCtx c Ctx.loseHost) s
  let s := allSlots.foldl (fun (s : State) p => s.modSlot p.1 p.2 Slot.dropReport) s
  let s := { s with host := { s.host with
    hostLostEvents := bump s.host.hostLostEvents 1, discarded := bump s.host.discarded n, deferred := [], panes := [], hdm := 0
    barWindow := [] } }
  (s.emcyEvent 0xFF30 0 cause).fillBuffer

/-- CXL.mem requests in progress are discarded; with `writes` one received whole is applied and stays, which one without a credit is
not (R379, R409). -/
def State.discardMem (s : State) (writes : Bool) : State :=
  let keep (as : List Access) : List Access := if writes then as.filter (fun a => a.wr.isSome) else []
  let s := { s with host := { s.host with
    deferred := keep s.host.deferred, stalled := [], inFlight := keep s.host.inFlight } }
  (List.range 20).foldl (fun (s : State) st => s.modStack st (fun k => { k with slateQ := keep k.slateQ })) s

def State.setLink (s : State) (st width speed : BitVec 8) : State :=
  { s with host := { s.host with linkState := st, linkWidth := width, linkSpeed := speed } }

/-- A host reset (R366, R409, R541, R545): before B7 it changes nothing but the link, the decoders and the sessions. -/
def State.hostReset (s : State) (cause : Nat) (link : BitVec 8) : State :=
  let s := (s.discardMem false).closeSessions
  let s := { s with host := { s.host with hdm := 0, barWindow := [] } }
  let s := if s.boot.stage = 7 then s.hostLoss cause else s
  s.setLink link 0 0

/-- CXL_LINK_RECOVERY (R409, R412): requests are kept, reports wait until the link is up again, the retrain is counted. -/
def execCxlLinkRecovery (s : State) : Host.Outcome State Fault Refusal :=
  .next (if s.host.linkState = 2 then
      { s with host := { s.host with linkState := 3, retrains := bump s.host.retrains 1 } }
    else s)

/-- CXL_LINK_DOWN (R409). -/
def execCxlLinkDown (s : State) : Host.Outcome State Fault Refusal :=
  .next (if s.host.linkState = 2 ∨ s.host.linkState = 3 then (s.discardMem true).setLink 0 0 0 else s)

/-- Widths and speeds that training may settle at: lanes and GT/s (R364). -/
def linkTrains (width speed : BitVec 8) : Bool := [16, 8, 4].contains width.toNat && [64, 32, 16].contains speed.toNat

/-- CXL_LINK_UP (R364, R409, R412, R538): the link is up at a width and speed; one that was down counts as a retrain, and a recovery ends.
A link that is up has its REFCLK (R457, R486; DEDUCED, log 98). -/
def execCxlLinkUp (width speed : BitVec 8) (s : State) : Host.Outcome State Fault Refusal :=
  .next (if s.boot.cxlReleased = false ∨ s.boot.perstN = false ∨ s.host.linkState = 2 ∨ linkTrains width speed = false then s
    else
      let back := decide (s.host.linkState = 0)
      let s := { s.setLink 2 width speed with clk := { s.clk with refclk := true } }
      if back then { s with host := { s.host with retrains := bump s.host.retrains 1 } } else s)

/-- HOST_LOSS_TIMEOUT (R409, R410): the link has been down longer than 2 s; the port goes on training. -/
def execHostLossTimeout (s : State) : Host.Outcome State Fault Refusal :=
  .next (if s.boot.cxlReleased = true ∧ s.boot.perstN = true ∧ s.host.linkState = 0 ∧ s.boot.stage = 7 then
      ((s.discardMem false).hostLoss 0).setLink 1 0 0
    else s)

/-- PERST_N (R409, R541): the host is lost at once; the port trains after the deassertion. -/
def execPerstN (s : State) : Host.Outcome State Fault Refusal :=
  .next (if s.boot.perstN = false then s
    else { s with boot := { s.boot with perstN := false } }.hostReset 1 0)

/-- PERST_N_DEASSERT (R538): link training begins once the port is released. -/
def execPerstNDeassert (s : State) : Host.Outcome State Fault Refusal :=
  .next (if s.boot.perstN then s
    else
      let s := { s with boot := { s.boot with perstN := true } }
      if s.boot.cxlReleased then s.setLink 1 0 0 else s)

/-- CXL_HOT_RESET (R409, R541): the port retrains. -/
def execCxlHotReset (s : State) : Host.Outcome State Fault Refusal :=
  .next (if s.boot.cxlReleased then s.hostReset 2 1 else s)

/-- FUNCTION_LEVEL_RESET (R409, R541). -/
def execFunctionLevelReset (s : State) : Host.Outcome State Fault Refusal :=
  .next (if s.boot.cxlReleased then s.hostReset 2 1 else s)

end Sys2Proof.Machine
end

