-- ==== Sys2Proof/Machine/Ring.lean ====
section
/-! DEFINITION. The peer ring: joining, leaving, fencing, the master, time words, ports, and the frames of pennants, roll calls
and merges (R296, R304, R319, R320, R330, R413 to R449, R552, R553). -/

namespace Sys2Proof.Machine

/-! ## Leaving the ring (R427, R433, R436, R437, R553) -/

/-- Both bypass switches close and the ports behind them are off (R425, R427). -/
def State.closeSwitches (s : State) : State :=
  let s := { s with boot := { s.boot with open0 := false, open1 := false, bypassArmed := false } }
  (List.range 4).foldl (fun (s : State) p => s.modPort p (fun x =>
    { x with st := 0, partnerDepth := 255, lseq := 0, lack := 0, replay := [], used := [], owed := [], transit := [], own := [] })) s

/-- What waits on the ring goes on as R553 gives for a module that is ALONE or FENCED. -/
def State.aloneActs (s : State) : State :=
  let s := (List.range 64).foldl (fun (s : State) n => if (s.rollCall n).st = 1 then s.ringRollAlone n else s) s
  let s := s.aloneMerges
  s.runHoists.evalWaiters

/-- Bindings to other modules that satisfy a test act as half-mast until they are made again (R330, R437). -/
def State.deadBindings (s : State) (p : PenBinding → Bool) : State :=
  (List.range 16).foldl (fun (s : State) c => s.modCtx c (fun x =>
    { x with pens := x.pens.map (fun b => if b.2.kind == 2 && p b.2 then (b.1, { b.2 with dead := true }) else b) })) s

/-- Bindings that wait for an owner that will not answer are refused (R296). -/
def State.refuseBinds (s : State) (p : BitVec 14 → Bool) : State :=
  let bad := s.ring.binds.filter (fun b => p b.2.2.1 && decide (b.1 < 16))
  let s := { s with ring := { s.ring with binds := s.ring.binds.filter (fun b => !p b.2.2.1) } }
  bad.foldl (fun (s : State) _ => s.answer Code.penBind []) s

/-- BELL_PERIOD as stored is the period in force of a module without a ring (R24, R445). -/
def State.ownPeriod (s : State) : State :=
  { s with ring := { s.ring with period := s.ring.bellStored.toNat, nextPeriod := 0 } }

/-- A pennant of another module that is lost: at half-mast, its last VALUE frozen (R327, R330). -/
def RemotePen.lost (r : RemotePen) : RemotePen := { r with st := 2, subscribed := false }

/-- The module leaves the ring for a state: ALONE (0) or FENCED (4). That is a recovery procedure (R552). -/
def State.leaveFor (s : State) (st : BitVec 8) : State :=
  let s := (s.startRecovery recLeave).closeSwitches
  let s := { s with
    ring := { s.ring with state := st, position := 255, roster := [], rosterVer := 0, depth := 255, masterId := 0, candidates := []
                          electing := false, holdover := false, longPath := false, rate := 0, kvWait := [], eseq := [], esin := []
                          early := [], silent := [], leaving := false, timeError := 0 }
    sync := { s.sync with subs := [], news := [], remotes := s.sync.remotes.map (fun (r : Nat × RemotePen) => (r.1, r.2.lost)) } }
  let s := ((s.loseRequests (fun _ => true)).refuseBinds (fun _ => true)).deadBindings (fun _ => true)
  s.ownPeriod.aloneActs

/-- Fenced, or fallen out (R509, R554). -/
def State.fencedEvent (s : State) (st version : Nat) : State := s.emcyEvent 0xFF20 st version

/-- This module's identifier in the ring. -/
def State.ownIdent (s : State) : BitVec 14 := s.ring.moduleId.extractLsb' 0 14

/-- The FENCE frame that names this module has still to go out by a port (R422, R433). -/
def State.fencePending (s : State) : Bool :=
  (List.range 4).any (fun i => (s.port i).up && (s.port i).own.any (fun f =>
    match f.body with
    | .fence m _ => m == s.ownIdent
    | _ => false))

/-- The switches close and the module is ALONE (R433). -/
def State.finishLeave (s : State) : State := (s.leaveFor 0).fencedEvent 0 s.ring.rosterVer

/-- A leave whose FENCE frame has gone out is completed. -/
def State.checkLeave (s : State) : State := if s.ring.leaving && !s.fencePending then s.finishLeave else s

/-- A member leaves (R433): a FENCE frame naming itself, then the switches closed, ALONE. A module that is no member has nothing to
leave (log 34). -/
def State.leaveRing (s : State) : State :=
  if s.inRing = false ∨ s.ring.leaving = true then s
  else
    let s := (s.startRecovery recLeave).broadcast (.fence s.ownIdent s.ring.rosterVer)
    { s with ring := { s.ring with leaving := true } }.checkLeave

/-- RING_LEAVE (R433). -/
def execRingLeave (s : State) : Host.Outcome State Fault Refusal := .next s.leaveRing

/-- MASTER_LOST (R436): a joined module without a time word from the master for 10 ms leaves without a FENCE frame. -/
def execMasterLost (s : State) : Host.Outcome State Fault Refusal :=
  .next (if s.ring.state = 2 then (s.leaveFor 0).fencedEvent 0 s.ring.rosterVer else s)

/-- BYPASS_TIMER_EXPIRY (R426, R427, R429): the switches close, with which a member or a joining module is ALONE. -/
def execBypassTimerExpiry (s : State) : Host.Outcome State Fault Refusal :=
  .next (if s.boot.bypassArmed = false then s
    else if s.inRing then s.finishLeave
    else if s.ring.state = 1 then (s.leaveFor 0).endRecovery recJoin
    else s.closeSwitches)

/-! ## The master (R438 to R445) -/

/-- An election begins: holdover, the own candidacy announced (R439, R442). -/
def State.startElection (s : State) : State :=
  if s.ring.electing then s
  else
    let s := { s with ring := { s.ring with
      electing := true, holdover := true, candidates := (s.ring.priority, s.ownIdent) :: s.ring.candidates,
      elections := bump s.ring.elections 1 } }
    s.broadcast (.join s.ring.name s.ring.priority true)

/-- MASTER_SILENCE (R439): 1 ms without a time word from the master. -/
def execMasterSilence (s : State) : Host.Outcome State Fault Refusal :=
  .next (if s.ring.state = 2 then s.startElection else s)

/-- The first candidate of the highest priority and, among equals, the lowest identifier (R439). -/
def bestCandidate (cs : List (BitVec 8 × BitVec 14)) : Option (BitVec 8 × BitVec 14) :=
  cs.foldl (fun best c =>
    match best with
    | none => some c
    | some b => if c.1.toNat > b.1.toNat ∨ (c.1 = b.1 ∧ c.2.toNat < b.2.toNat) then some c else some b) none

/-- A new period is announced ring-wide (R445). -/
def State.schedulePeriod (s : State) (p : Nat) : State :=
  if p = s.ring.period then { s with ring := { s.ring with nextPeriod := 0 } }
  else { s with ring := { s.ring with nextPeriod := p, changeAt := bellAtOrAfter p (s.ring.timebase + 10000000) } }

/-- The roster names a master. -/
def markMaster (id : BitVec 14) (es : List RosterEntry) : List RosterEntry :=
  es.map (fun e => { e with master := e.ident == id })

/-- The lowest free ring position (R431). -/
def freePos (es : List RosterEntry) : Option Nat := (List.range 64).find? (fun p => es.all (fun e => decide (e.pos ≠ p)))

/-- A module enters the roster at the lowest free position and at a place in the order eastward (R431, R432). -/
def enroll (es : List RosterEntry) (place : Nat) (id : BitVec 14) (master : Bool) : List RosterEntry :=
  if es.any (fun e => e.ident == id) then es
  else match freePos es with
    | some p => es.take place ++ ⟨p, id, master⟩ :: es.drop place
    | none => es

/-- Modules enter at the end of the order known here. -/
def enrollAll (es : List RosterEntry) (ids : List (BitVec 14)) : List RosterEntry :=
  ids.foldl (fun es id => enroll es es.length id false) es

/-- The place of a module whose JOIN came by a port with HOPS left of the 63 it set out with (R423, R432; log 25): it has passed all the
members that lie between. -/
def State.joinPlace (s : State) (port hops : Nat) : Nat :=
  let n := s.ring.roster.length
  let i := (s.ring.roster.takeWhile (fun e => e.ident != s.ownIdent)).length
  let d := max 1 (min n (64 - hops))
  if port < 2 then (if i + d ≤ n then i + d else i + d - n) else if d ≤ i + 1 then i + 1 - d else n + i + 1 - d

/-- This module becomes the ring's master: its own time, its stored period, a new roster (R438, R439, R442, R445). -/
def State.becomeMaster (s : State) : State :=
  let es := markMaster s.ownIdent (enroll s.ring.roster 0 s.ownIdent true)
  let s := { s with ring := { s.ring with
    roster := es, rosterVer := s.ring.rosterVer + 1, masterId := s.ring.moduleId, depth := 0, holdover := false, timeError := 0
    state := if s.ring.state = 2 then 3 else s.ring.state } }
  let s := s.schedulePeriod s.ring.bellStored.toNat
  s.broadcast (.roster s.ring.rosterVer s.ring.roster)

/-- ELECTION_TIMEOUT (R431, R439): after 10 ms the best candidate is master; where a ring forms the others join it. -/
def execElectionTimeout (s : State) : Host.Outcome State Fault Refusal :=
  .next (if s.ring.electing = false then s
    else
      let best := bestCandidate s.ring.candidates
      let candidates := s.ring.candidates.map (·.2)
      let s := { s with ring := { s.ring with electing := false, candidates := [] } }
      match best with
      | none => s
      | some b =>
        if b.2 = s.ownIdent then
          let es := enrollAll (enroll s.ring.roster 0 s.ownIdent true) candidates
          { s with ring := { s.ring with roster := es } }.becomeMaster
        else { s with ring := { s.ring with masterId := b.2.zeroExtend 16, roster := markMaster b.2 s.ring.roster } })

/-- Least DEPTH that a neighbour offers over a link that is up, and its port: east on plane 0 when two are equal (R441). -/
def State.bestNeighbour (s : State) : Option (Nat × Nat) :=
  (List.range 4).foldl (fun best p =>
    let d := (s.port p).partnerDepth
    if !(s.port p).up || decide (d ≥ 255) then best
    else match best with
      | none => some (d, p)
      | some b => if d < b.1 then some (d, p) else some b) none

/-- HOLDOVER_EXPIRY (R443): after 20 ms the module follows the longer path. -/
def execHoldoverExpiry (s : State) : Host.Outcome State Fault Refusal :=
  .next (match s.bestNeighbour with
    | some (d, _) =>
      if s.ring.holdover ∧ s.ring.state = 2 then
        { s with ring := { s.ring with holdover := false, longPath := true, depth := BitVec.ofNat 8 (min 254 (d + 1)) } }
      else s
    | none => s)

/-! ## Joining (R430, R431, R444) -/

/-- Step 1: JOINING, the ports in loopback; after B7 the join is a recovery procedure (R430, R431, R552). -/
def State.beginJoin (s : State) : State :=
  if s.outOfRing = false then s
  else
    let s := { s with ring := { s.ring with state := 1 } }
    let s := (List.range 4).foldl (fun (s : State) p => (s.demandGate (4 + p)).modPort p (fun x => { x with st := 1 })) s
    if s.boot.stage = 7 then s.startRecovery recJoin else s

/-- A step forward: every bell of the skipped span rings once (R444). -/
def State.stepForward (s : State) (t : Nat) : State :=
  let p := s.ring.period
  let first := s.bellFrom p s.ring.timebase
  let n := if p = 0 ∨ t < first then 0 else (t - first) / p + 1
  let s := { s with ring := { s.ring with timebase := t % 2 ^ 64, timeSteps := bump s.ring.timeSteps 1 } }
  (List.range n).foldl (fun (s : State) i => s.bellAt (first + i * p)) s

/-- A step back, taken only with every context dismissed; the next bell is the first at or after the new time (R444). -/
def State.stepBack (s : State) (t : Nat) : State :=
  { s with ring := { s.ring with timebase := t, lastBell := t - 1, timeSteps := bump s.ring.timeSteps 1 } }

/-- The timebase d ns ahead of the ring's runs at 0.9 ns per ns until it is within 12.5 ns of it: 9 ns pass here for 10 of the ring's,
and the bells in them ring (R444, log 31). -/
def State.slew (s : State) (d : Nat) : State :=
  if d ≤ 12 then s
  else
    let t := s.ring.timebase + 9 * (d - 12)
    let s := s.ringUntil t (9 * (d - 12) / s.ring.period + 2)
    s.moveTime t

/-- Ring time and the module's (R444): ahead, behind by up to 1 ms, or behind by more. None: the step back has to wait. -/
def State.align (s : State) (t : Nat) : Option State :=
  let t := t % 2 ^ 64
  if t > s.ring.timebase then some (s.stepForward t)
  else if s.ring.timebase ≤ t + 1000000 then some (s.slew (s.ring.timebase - t))
  else if s.ctxs.all (fun c => c.2.dismissed) then some (s.stepBack t)
  else none

/-- A step failed: every switch closed, ALONE, the reason kept (R431). -/
def State.failJoin (s : State) (code : BitVec 8) : State :=
  let s := { s with ring := { s.ring with joinResult := code } }
  (s.leaveFor 0).endRecovery recJoin

/-- Waits on other modules' pennants subscribe, as R553 left them until now. -/
def State.subscribeAll (s : State) : State :=
  let s := allSlots.foldl (fun (s : State) p =>
    match (s.slot p.1 p.2).ctx, (s.slot p.1 p.2).blocked with
    | some c, some (.pennant i _) => s.subscribe c i
    | _, _ => s) s
  (s.ctxs.flatMap (fun c => (c.2.watches.filter (fun w => w.2.armed)).map (fun w => (c.1, w.2.pen.toNat % 1024)))).foldl
    (fun (s : State) p => s.subscribe p.1 p.2) s

/-- Ring roll calls begin as those of a joined module: the poisoned answers of its time alone are over but for the handles not
rebound, and complete rounds are reported (R319, R553). -/
def State.ringRollsJoined (s : State) : State :=
  (List.range 64).foldl (fun (s : State) n =>
    let r := s.rollCall n
    if r.st = 1 ∧ r.ring then (s.setRoll n { r with aloneDone := false, poisonNext := false }).reportArrival n else s) s

/-- The port name a port's partner must announce: E0 meets W0, E1 meets W1 (R413). -/
def partnerOf (p : Nat) : Nat := (p + 2) % 4

/-- A valid frame has come by a port, or its link has come up (R434). -/
def State.hearPort (s : State) (p : Nat) : State :=
  { s with ring := { s.ring with silent := s.ring.silent.filter (fun x => decide (x ≠ p)) } }

/-- A port trains with the partner that announces a name (R413, R417): up at 8 lanes or 4; with a wrong name the link stays down; without
a partner the port reads 5. -/
def State.trainPort (s : State) (p : Nat) (partner : Option (Fin 4)) : State :=
  s.modPort p (fun x =>
    { x with
      st := match partner with
        | none => 5
        | some n => if n.val = partnerOf p then (if x.halfLanes.isSome then 4 else 3) else 2
      lseq := 0, lack := 0, replay := [], used := [], owed := [] }) |>.hearPort p

/-- A plane's switch opens and its two ports train (R425, R426, R431). -/
def State.trainPlane (s : State) (plane : Nat) (partners : List (Option (Fin 4))) : State :=
  let s := { s with boot := { s.boot with
    open0 := s.boot.open0 || plane == 0, open1 := s.boot.open1 || plane == 1, bypassArmed := true } }
  (s.trainPort plane (partners.getD plane none)).trainPort (2 + plane) (partners.getD (2 + plane) none)

def State.planeUp (s : State) (plane : Nat) : Bool := (s.port plane).up || (s.port (2 + plane)).up

/-- What a time word from the ring says of its master and its bells (R431, R440, R445). -/
def State.adopt (s : State) (t : TimeWord) : State :=
  match t.master with
  | none => s
  | some m =>
    { s with ring := { s.ring with
      masterId := m.zeroExtend 16, ringLead := t.rollLead.toNat, period := if t.bellPeriod = 0 then s.ring.period else t.bellPeriod
      nextPeriod := t.nextPeriod, changeAt := t.changeAt } }

/-- Step 6: JOINED, or MASTER if elected, at the position that the roster gives; what waited goes on (R431, R553). -/
def State.completeJoin (s : State) (elected : Bool) : State :=
  let s := { s with ring := { s.ring with
    state := if elected then 3 else 2, joinResult := 0, electing := false, candidates := []
    position := match s.posOf s.ring.moduleId.toNat with
      | some p => BitVec.ofNat 8 p
      | none => 255 } }
  let s := (s.ringRollsJoined.meetBell.subscribeAll).endRecovery recJoin
  s.runHoists.evalWaiters

/-- Steps 5 and 6: plane 1 opens and trains, and the module is joined; without plane 1 both switches close (R431). -/
def State.finishJoin (s : State) (elected : Bool) (partners : List (Option (Fin 4))) : State :=
  let s := s.trainPlane 1 partners
  if s.planeUp 1 then s.completeJoin elected else s.failJoin 6

/-- This module stands in the roster, as its master or not. -/
def State.rostered (s : State) : Bool := s.ring.roster.any (fun e => e.ident == s.ownIdent)
def State.electedHere (s : State) : Bool := s.ring.roster.any (fun e => e.ident == s.ownIdent && e.master)

/-- Steps 3 to 6 as far as they can go now (R431, R439, R444): JOIN is sent both ways, and without a master an election begins; once the
master's roster lists this module the timebase is aligned to a time word, and the join ends. A module elected aligns to nobody. -/
def State.joinStep (s : State) (met : JoinMet) : State :=
  if s.ring.electing then s
  else if s.electedHere then s.finishJoin true met.partners
  else
    match met.word with
    | none => if s.rostered then s else s.startElection
    | some t =>
      if s.rostered then
        (match s.align t.txTime with
         | some s => (s.adopt t).finishJoin false met.partners
         | none => s)
      else s.broadcast (.join s.ring.name s.ring.priority false)

/-- RING_JOIN (R413, R430, R431, R444, R463): the join procedure as far as it goes, with the outcome its steps give, the names that the
ports' partners announce, and a time word where a master answered. The module stays JOINING while the ports' gates open, an election
runs, the master has not listed it, or the step back has to wait; the next RING_JOIN goes on from there. -/
def execRingJoin (result : BitVec 8) (met : JoinMet) (s : State) : Host.Outcome State Fault Refusal :=
  .next (if s.inRing then s
    else
      let s := s.beginJoin
      if result ≠ 0 then s.failJoin result
      else if (List.range 4).any (fun p => s.shutGate (4 + p)) then s
      else
        let s := if s.planeUp 0 then s else s.trainPlane 0 met.partners
        if s.planeUp 0 = false then s.failJoin 2 else s.joinStep met)

/-- JOIN_FRAME (R431, R439): the master enrolls a module of its ring's name; while a ring has no master candidates are noted, one heard
before this module's own election begins among them. -/
def State.joinFrame (s : State) (src : BitVec 14) (name : Word32) (prio : BitVec 8) (candidate : Bool) (port hops : Nat) : State :=
  if s.ring.state = 3 ∨ (s.ring.state = 1 ∧ s.electedHere = true) then
      if name ≠ s.ring.name ∨ s.ring.roster.any (fun e => e.ident == src) ∨ (freePos s.ring.roster).isNone then s
      else
        let s := { s with ring := { s.ring with
          roster := enroll s.ring.roster (s.joinPlace port hops) src false, rosterVer := s.ring.rosterVer + 1 } }
        s.broadcast (.roster s.ring.rosterVer s.ring.roster)
    else if name = s.ring.name ∧ candidate ∧ s.outOfRing = false then
      let s := if s.ring.state = 1 then s.startElection else s
      { s with ring := { s.ring with candidates := s.ring.candidates ++ [(prio, src)] } }
    else s

/-- ROSTER_FRAME (R431, R439): a newer roster is installed; with a master in it an election is over. -/
def State.rosterFrame (s : State) (version : Nat) (entries : List RosterEntry) : State :=
  if s.outOfRing = true ∨ s.ring.state = 3 ∨ version ≤ s.ring.rosterVer then s
    else
      let s := { s with ring := { s.ring with roster := entries, rosterVer := version } }
      let m := entries.find? (fun e => e.master)
      let p := match s.posOf s.ring.moduleId.toNat with
        | some p => BitVec.ofNat 8 p
        | none => s.ring.position
      { s with ring := { s.ring with
        masterId := match m with
          | some e => e.ident.zeroExtend 16
          | none => s.ring.masterId
        position := if s.ring.state = 1 then s.ring.position else p
        electing := s.ring.electing && m.isNone
        candidates := if m.isSome then [] else s.ring.candidates } }

/-! ## Fencing (R330, R434, R435) -/

/-- Step 2 at one ring roll call: the member is removed, the round in progress ends poisoned, a new home hears every arrival again
(R330). DESIGN CHOICE (log 93): a new home that holds the release notice of the old one sends that notice again. -/
def State.fenceRoll (s : State) (num pos : Nat) (home : Option Nat) : State :=
  let r := s.rollCall num
  if r.st = 0 ∨ r.ring = false ∨ r.ringMask.getLsbD pos = false then s
  else
    let bit : BitVec 64 := ~~~(1#64 <<< pos)
    let s := s.setRoll num { r with
      ringMask := r.ringMask &&& bit, ringArrived := r.ringArrived &&& bit, ringAhead := r.ringAhead &&& bit, shrunk := true
      poisonNext := true }
    let now := s.homeOf (s.rollCall num)
    if now ≠ home then
      (match (s.rollCall num).release with
       | some b => if now = some s.ring.moduleId.toNat then (s.reportArrival num).sendNotices num b else s.reportArrival num
       | none => s.reportArrival num)
    else if now = some s.ring.moduleId.toNat then s.homeCheck num
    else s

/-- Step 4 for one quadrant and one owner table: present entries of the member become lost (R225, R435). -/
def State.loseOwned (s : State) (q : Nat) (t : Desc) (ident : Nat) : State :=
  (List.range (t.size 0)).foldl (fun (s : State) i =>
    let e := BitVec.ofNat 32 (s.stageWord q (t.base + 4 * i))
    if fld e 31 30 = 1 ∧ fld e 29 16 = ident then s.setStage q (t.base + 4 * i) (bytesOf 4 (setBits e 30 2 2)) else s) s

/-- Owner tables: context and the table's descriptor. -/
def State.ownerTables (s : State) : List (Nat × Desc) :=
  s.ctxs.flatMap (fun c => (c.2.descs.filter (fun p => decide (Desc.ownerDim p.2 ≠ 7) && Desc.live p.2)).map
    (fun p => (c.1, s.desc c.1 (Desc.ownerHandle p.2))))

/-- The steps of R435 for another member: a recovery procedure (R552). -/
def State.fenceMember (s : State) (ident : BitVec 14) (version : Nat) : State :=
  match s.posOf ident.toNat with
  | none => s
  | some pos =>
    let homes := (List.range 64).map (fun n => s.homeOf (s.rollCall n))
    let wasMaster := s.ring.masterId.toNat == ident.toNat
    let hit (r : RollCall) : Bool := r.ring && r.ringMask.getLsbD pos
    let s := (s.startRecovery recFence).poisonMerges hit
    let s := { s with ring := { s.ring with
      roster := s.ring.roster.filter (fun e => e.ident != ident), rosterVer := max s.ring.rosterVer version
      fences := bump s.ring.fences 1, lastFenced := ident.zeroExtend 16
      kvWait := s.ring.kvWait.filter (fun w => decide (w.src ≠ ident.toNat))
      eseq := s.ring.eseq.filter (fun p => decide (p.1 / 4 ≠ ident.toNat))
      esin := s.ring.esin.filter (fun p => decide (p.1 / 4 ≠ ident.toNat ∧ p.1 / 4 ≠ 16384 + ident.toNat))
      early := s.ring.early.filter (fun f => decide (f.src ≠ ident.toNat))
      merges := s.ring.merges.map (fun (m : RingMerge) => { m with mask := m.mask &&& ~~~(1#64 <<< pos) }) } }
    let s := (s.deadBindings (fun b => b.module == ident)).refuseBinds (fun m => m == ident)
    let hits := (List.range 64).filter (fun n => hit (s.rollCall n))
    let s := homes.zipIdx.foldl (fun (s : State) h => s.fenceRoll h.2 pos h.1) s
    let s := s.refold (fun r => hits.any (fun n => (s.rollCall n).rid == r.rid && r.ring))
    let s := s.ownerTables.foldl (fun (s : State) t =>
      (bitsSet (s.ctx t.1).span).foldl (fun (s : State) q => s.loseOwned q t.2 ident.toNat) s) s
    let s := s.loseRequests (fun r => decide (r.module = ident.toNat))
    let s := { s with sync := { s.sync with
      remotes := s.sync.remotes.map (fun (r : Nat × RemotePen) => if r.1 / 16384 = ident.toNat then (r.1, r.2.lost) else r)
      subs := s.sync.subs.filter (fun x => decide (x.1 ≠ ident.toNat))
      news := s.sync.news.filter (fun n => decide (n.dst ≠ ident.toNat)) } }
    let s := s.meetBell.evalWaiters
    if wasMaster then s.startElection else s

/-- FENCE_FRAME (R435, R433): naming this module it fences it; another member is removed; a module not in the roster is none. -/
def State.fenceFrame (s : State) (ident : BitVec 14) (version : Nat) : State :=
  if s.inRing = false then s
    else if ident = s.ownIdent then
      ({ s with ring := { s.ring with
        fences := bump s.ring.fences 1, lastFenced := ident.zeroExtend 16 } }.leaveFor 4).fencedEvent 4 (max s.ring.rosterVer version)
    else s.fenceMember ident version

/-- The neighbour on a port: the next member eastward of ports 0 and 1, westward of ports 2 and 3 (R413). -/
def State.neighbour (s : State) (p : Nat) : Option (BitVec 14) :=
  let es := s.ring.roster.map (·.ident)
  let i := (es.takeWhile (fun m => m != s.ownIdent)).length
  let n := es.length
  if n < 2 ∨ i ≥ n then none else es[(if p < 2 then i + 1 else i + n - 1) % n]?

/-- A FENCE frame is broadcast for a failed member, and acted on here (R434, R435). -/
def State.fenceOut (s : State) (ident : BitVec 14) : State :=
  let v := s.ring.rosterVer + 1
  (s.broadcast (.fence ident v)).fenceMember ident v

/-- For 1 ms no valid frame has come by the ports of a direction (0 east, 1 west) on either plane (R434); a port whose link is down has
none. -/
def State.silentSide (s : State) (dir : Nat) : Bool :=
  [2 * dir, 2 * dir + 1].all (fun p => s.ring.silent.contains p || !(s.port p).up)

/-- The link from the east neighbour to the module east of it is down (R434): in a ring of two that module is this one. In a longer ring
this module does not see that link, and whether it is down is free (DESIGN CHOICE, log 46). -/
def State.farDown (s : State) : Bool × State :=
  if s.ring.roster.length ≤ 2 then ((s.portOn 1 0).isNone, s)
  else
    let d := s.draw 1
    (d.1 == 1, d.2)

/-- A failed neighbour on a port is fenced: by the module east of it, or by the one west of it when its link eastward is down (R434). -/
def State.fenceNeighbour (s : State) (p : Nat) (m : BitVec 14) : State :=
  if p ≥ 2 then s.fenceOut m
  else
    let d := s.farDown
    if d.1 then d.2.fenceOut m else d.2

/-- NEIGHBOUR_SILENCE (R417, R434): a port has received no valid frame for 1 ms. With both planes of its direction silent the neighbour
has failed; a module east of it whose links to it are both down has a cut there, and fences nobody. -/
def execNeighbourSilence (p : Fin 4) (s : State) : Host.Outcome State Fault Refusal :=
  .next (if s.inRing = false then s
    else
      let s := { s with ring := { s.ring with silent := p.val :: s.ring.silent.filter (fun x => decide (x ≠ p.val)) } }
      if s.silentSide (p / 2) = false ∨ (p.val ≥ 2 ∧ (s.portOn 1 0).isNone) then s
      else match s.neighbour p with
        | some m => s.fenceNeighbour p m
        | none => s)

/-! ## Time words (R440 to R445) -/

/-- The time word this module sends. -/
def State.timeWord (s : State) (p turnaround : Nat) : TimeWord :=
  { txTime := s.ring.timebase, txFrac := 0, master := if s.inRing && !s.ring.electing then some (s.ring.masterId.extractLsb' 0 14) else none
    depth := s.ring.depth.toNat, ownFault := s.ring.ownFault, holdover := s.ring.holdover
    rollLead := BitVec.ofNat 16 (if s.ring.state = 3 then s.sync.rollLead.toNat else s.ring.ringLead)
    echoTime := (s.port p).partnerTx, turnaround := turnaround, bellPeriod := s.ring.period, nextPeriod := s.ring.nextPeriod
    changeAt := s.ring.changeAt, rosterVer := s.ring.rosterVer }

/-- IDLE_SEND (R422, R440): a time word over a link that is up, while the port may inject on VC0; the turnaround and the fraction of a
nanosecond are measured times, which are free (log 5). -/
def execIdleSend (p : Fin 4) (s : State) : Host.Outcome State Fault Refusal :=
  .next (if (s.port p).up = false ∨ (s.port p).left 0 < 2 ∨ (s.port p).replay.length ≥ 256 then s
    else
      let r := s.draw 32
      let f := r.2.draw 16
      let s := f.2
      s.sendOn p ⟨s.ring.moduleId.toNat, 0, false, 1, 0, .idle { s.timeWord p r.1.toNat with txFrac := f.1 }, none⟩)

/-- One-way delay of a hop in ps: half of the round trip less the partner's turnaround (R441). An arrival is given in ps. -/
def hopDelay (t : TimeWord) (arrival : Nat) : Nat := ((arrival - t.echoTime * 1000) - t.turnaround * 1000 / 65536) / 2

/-- What the least DEPTH on offer makes of the discipline (R441 to R443): up to 32 the member follows it; above, or with nobody to follow,
it is in holdover, until it has come to follow the longer path. -/
def State.chooseDepth (s : State) : State :=
  match s.bestNeighbour with
  | some (d, _) =>
    if d ≤ 32 then
      { s with ring := { s.ring with holdover := s.ring.electing, longPath := false, depth := BitVec.ofNat 8 (d + 1) } }
    else if s.ring.longPath then
      { s with ring := { s.ring with holdover := s.ring.electing, depth := BitVec.ofNat 8 (min 254 (d + 1)) } }
    else { s with ring := { s.ring with holdover := true } }
  | none => { s with ring := { s.ring with holdover := true } }

/-- The rate, in ppm, at which a member comes nearer to the master (R441). DESIGN CHOICE (log 47): the whole 100 ppm, until the offset
is 0. -/
def rateFor (err : Int) : Int := if err > 0 then 100 else if err < 0 then -100 else 0

/-- What a member that is not the master takes from a time word (R441 to R445). -/
def State.follow (s : State) (t : TimeWord) (arrival p : Nat) : State :=
  let err : Int := (t.txTime : Int) * 1000 + t.txFrac.toNat * 1000 / 65536 + hopDelay t arrival - (arrival : Int)
  let own := match s.bestNeighbour with
    | some b => decide (b.2 = p)
    | none => false
  let s := s.chooseDepth
  let s := if own then { s with ring := { s.ring with
      timeError := BitVec.ofInt 32 err, rate := if s.ring.holdover then s.ring.rate else rateFor err } }
    else s
  s.adopt t

/-- IDLE_FRAME (R434, R441, R449): hop delay and partner's time; a member follows the ring; a neighbour that announces its own fault is
fenced. How many codewords were corrected since the last one is free (log 94). -/
def State.idleFrame (s : State) (p : Nat) (src : BitVec 14) (t : TimeWord) (arrival : Nat) : State :=
  if s.outOfRing then s
    else
      let n := s.draw 16
      let s := n.2.modPort p (fun x =>
        { x with fecCorrected := bump x.fecCorrected n.1.toNat, hopDelay := BitVec.ofNat 32 (hopDelay t arrival), partnerTx := t.txTime, partnerDepth := min 255 t.depth })
      let s := if s.ring.state = 3 then s else s.follow t arrival p
      if t.ownFault = true ∧ s.inRing = true then s.fenceNeighbour p src else s

/-! ## Ports (R415, R417, R420, R435) -/

/-- Frames sent and covered by LACK leave the replay buffer (R420). -/
def Port.covered (x : Port) (lack : BitVec 16) : Port :=
  { x with replay := if x.replay.any (fun r => r.lseq == lack) then (x.replay.dropWhile (fun r => r.lseq != lack)).drop 1 else x.replay }

/-- FRAME_CRC_ERROR (R419, R420): a frame has failed its CRC, or was of a type that R419 does not list, and is discarded; the LACK that
comes back names the last frame in order, and every later one is sent again in the original order, with the LSEQ and the credits it had.
How many codewords were not corrected is free (log 94). -/
def execFrameCrcError (p : Fin 4) (lack : BitVec 16) (s : State) : Host.Outcome State Fault Refusal :=
  .next (let x := (s.port p).covered lack
    let n := s.draw 8
    let s := n.2.modPort p (fun _ => { x with replays := bump x.replays 1, fecUncorrected := bump x.fecUncorrected n.1.toNat })
    x.replay.foldl (fun (s : State) r => s.emit (.frame p r.frame r.lseq x.lack r.cred)) (s.emit (.resend p lack)))

/-- A broadcast that meets a cut turns back, to the modules beyond it: over the line that the ring is now, each module lies on its way
(R423; log 93). -/
def State.turnCast (s : State) (dir plane : Nat) (f : PeerFrame) : State :=
  match s.portOn dir plane with
  | some p => if s.ring.roster.length ≤ 1 then s.freeVia f else s.enqueue p { f with hops := s.ring.roster.length - 1 }
  | none => s.freeVia f

/-- A frame that waits at a port whose link is down goes by another way, if there is one (R421, R423). -/
def State.wayFrom (s : State) (p : Nat) (f : PeerFrame) : State :=
  match f.body, f.bcast with
  | .idle _, _ => s
  | _, true => (match s.portOn (p / 2) 0 with
    | some o => s.enqueue o f
    | none => s.turnCast (1 - p / 2) 0 f)
  | _, false => s.route f

/-- Frames that wait at ports whose links are down are routed anew. -/
def State.reroute (s : State) : State :=
  ((List.range 4).filter (fun p => !(s.port p).up)).foldl (fun (s : State) p =>
    let fs := (s.port p).transit ++ (s.port p).own
    let s := s.modPort p (fun x => { x with transit := [], own := [] })
    fs.foldl (fun (s : State) f => s.wayFrom p f) s) s

/-- The buffers of a port whose link is down hold nothing: frames in transit that came by it free none there any more. -/
def State.forgetVia (s : State) (p : Nat) : State :=
  (List.range 4).foldl (fun (s : State) i => s.modPort i (fun x =>
    { x with transit := x.transit.map (fun f => if f.via = some p then { f with via := some 4 } else f) })) s

/-- A link goes down for a state of its port: it is a cut, and frames not acknowledged on it are sent again by another way (R417, R420,
R421). A member that has no neighbour left to follow is in holdover (R442). -/
def State.linkLost (s : State) (p : Nat) (st : BitVec 8) : State :=
  let s := ((s.modPort p (fun x =>
    { x with st := st, partnerDepth := 255, lseq := 0, lack := 0, replay := [], used := [], owed := []
             own := x.replay.map (·.frame) ++ x.own })).forgetVia p).reroute
  let s := if s.ring.state = 2 then s.chooseDepth else s
  s.checkLeave

/-- PORT_TRAIN_TIMEOUT (R417): a port that has not trained takes its link down. -/
def execPortTrainTimeout (p : Fin 4) (s : State) : Host.Outcome State Fault Refusal :=
  .next (s.modPort p (fun x => if x.st = 2 then { x with st := 5, partnerDepth := 255 } else x))

/-- PORT_CODEWORD_LIMIT (R417): more than 64 codewords were not corrected; how many is free (log 5). -/
def execPortCodewordLimit (p : Fin 4) (s : State) : Host.Outcome State Fault Refusal :=
  .next (if (s.port p).up = false then s
    else
      let r := s.draw 32
      (r.2.modPort p (fun x => { x with fecUncorrected := bump x.fecUncorrected (65 + r.1.toNat) })).linkLost p 5)

/-- PORT_RETRAIN (R417): a failed port trains again. -/
def execPortRetrain (p : Fin 4) (s : State) : Host.Outcome State Fault Refusal :=
  .next (s.modPort p (fun x => if x.st = 5 then { x with st := 2 } else x))

/-- LANE_FAILURE (R415): the port retrains on the half that is whole, if one is. -/
def execLaneFailure (p : Fin 4) (lane : Fin 8) (s : State) : Host.Outcome State Fault Refusal :=
  .next (let upper := decide (lane.val ≥ 4)
    let x := s.port p
    if x.up = false then s
    else match x.halfLanes with
      | none => (s.modPort p (fun x => { x with halfLanes := some (!upper) })).linkLost p 2
      | some h => if h = upper then s.linkLost p 5 else s)

/-- PORT_LINK_DOWN (R417, R435): the hop is a cut until the port has trained again. -/
def execPortLinkDown (p : Fin 4) (s : State) : Host.Outcome State Fault Refusal :=
  .next (if (s.port p).up then s.linkLost p 2 else s)

/-- PORT_LINK_UP (R413, R415, R417): training completes with a partner that announces a port name, at 8 lanes, or at 4; with a wrong name
the port refuses the link, which stays down. Frames that waited for a way go on. -/
def execPortLinkUp (l : LinkEnds) (s : State) : Host.Outcome State Fault Refusal :=
  .next (if (s.port l.port).st = 2 ∧ l.partner.val = partnerOf l.port then (s.trainPort l.port (some l.partner)).reroute.checkLeave else s)

/-! ## Pennants over the ring (R296, R304) -/

/-- HOIST_FRAME (R304). -/
def State.hoistFrame (s : State) (phys : BitVec 14) (amt : BitVec 16) : State :=
  if s.inRing ∧ amt ≠ 0 then s.hoistPhys phys.toNat amt.toNat else s

/-- PEN_SUB (R304): a subscriber is added and told VALUE and STATE, or a subscription ends. -/
def State.penSubFrame (s : State) (src phys : BitVec 14) (subscribe : Bool) : State :=
  if s.inRing = false then s
  else
    let rest := s.sync.subs.filter (fun x => x != (src.toNat, phys.toNat))
    if subscribe then
      let s := { s with sync := { s.sync with subs := rest ++ [(src.toNat, phys.toNat)] } }
      s.tellSub src.toNat phys.toNat
    else { s with sync := { s.sync with subs := rest, news := s.sync.news.filter (fun n => !(n.dst == src.toNat && n.phys == phys.toNat)) } }

/-- PEN_UPDATE (R304, R327): the value received is kept and its waiters are evaluated; without a waiter left the subscription
ends. -/
def State.penUpdateFrame (s : State) (src phys : BitVec 14) (value : Word64) (st : BitVec 2) : State :=
  if s.inRing = false then s
  else ((s.setRemote src.toNat phys.toNat ⟨value, st, true⟩).evalWaiters).trimSubs

/-- A binding by a context that does not own the pennant (R296). -/
def Pennant.mayBind (p : Pennant) (tag : Word32) : Bool := p.st == 1 && p.shared && p.tag == tag

/-- An answer to a request of PEN_BIND completes the binding that waits for it, or gives the pennant back if its context has ended
(R296; log 45). -/
def State.penBindAnswer (s : State) (src phys : BitVec 14) (ok : Bool) : State :=
  match s.ring.binds.find? (fun b => b.2.2.1 == src && b.2.2.2 == phys) with
  | none => s
  | some b =>
    let s := { s with ring := { s.ring with binds := s.ring.binds.erase b } }
    if b.1 ≥ 16 then (if ok then s.giveBack src phys else s)
    else if ok then
      let s := s.bindIdent b.1 b.2.1 ⟨2, src, phys, false⟩
      ((s.evalWaiters.subscribeAll).trimSubs).answer Code.ok []
    else s.answer Code.penBind []

/-- PEN_BIND_FRAME (R296, R297, R327): the owner checks a request and answers it; a pennant of this module is given back. -/
def State.penBindFrame (s : State) (src phys : BitVec 14) (tag : Word32) (word : BindWord) : State :=
  if s.inRing = false then s
  else
    match word with
    | .request =>
      let x := s.pen phys.toNat
      let ok := x.mayBind tag
      let s := if ok then s.setPen phys.toNat { x with bindings := x.bindings + 1 } else s
      s.sendTo src.toNat (.penBind phys tag (if ok then .yes else .no))
    | .yes => s.penBindAnswer src phys true
    | .no => s.penBindAnswer src phys false
    | .back => s.lowerPen phys.toNat

/-! ## Roll calls and merges over the ring (R274, R319, R320, R448) -/

/-- The live ring roll call of an identifier (R314). -/
def State.rollByRid (s : State) (rid : BitVec 16) : Option Nat :=
  (List.range 64).find? (fun n => let r := s.rollCall n; r.st != 0 && r.ring && r.rid == rid)

/-- ROLL_ARRIVE_FRAME (R319): the home notes an arrival in its current round, or one in the next that comes early. A module that reports
the round before, whose release it has not heard, is told it again (R330; log 93). -/
def State.rollArriveFrame (s : State) (src : BitVec 14) (rid : BitVec 16) (round : Word32) : State :=
  match s.rollByRid rid, s.posOf src.toNat with
    | some n, some pos =>
      let r := s.rollCall n
      if s.inRing = false ∨ s.homeOf r ≠ some s.ring.moduleId.toNat then s
      else if round = r.round then (s.homeArrival n pos).meetBell
      else if round = r.round + 1 then s.setRoll n { r with ringAhead := r.ringAhead ||| (1#64 <<< pos) }
      else if round + 1 = r.round then
        (match r.releasedAt with
         | some b => s.sendTo src.toNat (.rollRelease rid round b)
         | none => s)
      else s
    | _, _ => s

/-- ROLL_RELEASE_FRAME (R319, R320): the round is released on the named bell, or on receipt if that bell has rung. -/
def State.rollReleaseFrame (s : State) (rid : BitVec 16) (round : Word32) (bell : Nat) : State :=
  match s.rollByRid rid with
    | none => s
    | some n =>
      let r := s.rollCall n
      if s.inRing = false ∨ round ≠ r.round then s
      else if s.ring.bells ≠ 0 ∧ bell ≤ s.ring.lastBell then
        let s := { s with sync := { s.sync with rollLate := bump s.sync.rollLate 1 } }
        if r.st = 1 then (s.releaseFold n r.poisonNext).reportArrival n else s.releaseFold n r.poisonNext
      else s.setRoll n { r with release := some bell }

/-- The entry of the operation that a frame names; where nothing here takes part in it, one that contributes nothing (R275). -/
def State.mergeOf (s : State) (rid : BitVec 16) (round : Nat) : Option RingMerge :=
  match s.ring.merges.find? (fun m => m.mask ≠ 0 ∧ m.rid = rid ∧ m.round = round) with
  | some m => some m
  | none => (s.rollByRid rid).map (fun n => deadMerge n round rid (s.rollCall n).ringMask true)

/-- An operation's entry is kept, in the place of the one it had. -/
def State.noteMerge (s : State) (m : RingMerge) : State :=
  if s.ring.merges.any (fun x => x.ctx == m.ctx && x.nth == m.nth) then s.keepMerge m
  else { s with ring := { s.ring with merges := s.ring.merges ++ [m] } }

/-- MERGE_PART (R274, R275, R418, R448): with the last frame of the part, and its round released here, the module adds its contribution
and passes the fold on; until then the part waits. -/
def State.mergePartFrame (s : State) (rid : BitVec 16) (round : Word32) (off : Nat) (words : List Word32) (last poison : Bool) : State :=
  if s.inRing = false then s
  else
    match s.mergeOf rid round.toNat with
    | none => s
    | some m =>
      let m := { m.hear off words with poison := m.poison || poison }
      let s := s.noteMerge m
      if last = false then s
      else
        let part := rowsIn m.heard
        let m := { m with heard := [] }
        if m.released then (s.keepMerge m).passFold m (some part) else s.keepMerge { m with part := some part }

/-- MERGE_RESULT (R275, R418, R448): with its last frame the ring's result is known here. -/
def State.mergeResultFrame (s : State) (rid : BitVec 16) (round : Word32) (off : Nat) (words : List Word32) (last poison : Bool) : State :=
  if s.inRing = false then s
  else
    match s.mergeOf rid round.toNat with
    | none => s
    | some m =>
      let m := { m.hear off words with poison := m.poison || poison }
      if last then s.finishMerge m (rowsIn m.heard) else s.noteMerge m

end Sys2Proof.Machine
end

