-- ==== Sys2Proof/Machine/Reset.lean ====
section
/-! DEFINITION. The reset scopes cold, module reset and main power loss, and shut-down (R427, R454, R470, R473, R498, R541, R542,
R544, R549, R559, R566, R568). Log 50 names what each scope keeps. -/

namespace Sys2Proof.Machine

/-- A change of every listed entry. -/
def tmapAll {V : Type} [DecidableEq V] (d : V) (t : Table V) (f : V → V) : Table V :=
  t.foldl (fun acc p => tset d acc p.1 (f (tget d t p.1))) []

/-- Every context is destroyed, with no report (R541, R542, R549): tables in hub SRAM are gone, dictionary values stay, the
tenants' digests and sessions go. -/
def State.dropContexts (s : State) : State :=
  let byTenant := match s.host.fullMapBy with
    | some c => (s.ctx c).live
    | none => false
  let cfgs := tmapAll CtxCfg.init s.cfgs (fun g => { g with hazLog := [] })
  { s with
    ctxs := []
    cfgs := cfgs
    sync := { s.sync with pens := [], rolls := [], remotes := [], subs := [], ordering := 1, recoveries := [] }
    host := { s.host with
      fullMap := s.host.fullMap && !byTenant
      fullMapBy := if byTenant then none else s.host.fullMapBy }
    sec := { s.sec with
      digests := tset 0 [] 0 (tget 0 s.sec.digests 0)
      parts := tset 0 [] 0 (tget 0 s.sec.parts 0) } }

/-- What a quadrant keeps without main power: its mode, the hazard recorder's setting, its point and what it published (R498). -/
def Quad.unpowered (x : Quad) : Quad :=
  { Quad.init with
    shared := x.shared, hazard := x.hazard, point := x.point, thermalRate := x.thermalRate, satCode := x.satCode,
    satFlags := x.satFlags, beat := x.beat, seq := x.seq, issuedAll := x.issuedAll }

/-- What a stack controller keeps without main power: counters, threshold, the bands and a failure, until B5 (R498, R559). -/
def Stack.unpowered (k : Stack) : Stack :=
  { k with recovering := false, retry := [], behind := [], nextTag := 0, sameFails := 0, alerts := [], recFails := 0, writes := [], slateQ := [],
           scrubHead := [] }

/-- What a bank keeps without main power: its health counts (R519). -/
def Bank.unpowered (b : Bank) : Bank :=
  { Bank.init with act := b.act, cePass := b.cePass, ceNow := b.ceNow, hard := b.hard, watch := b.watch, ueSeen := b.ueSeen }

/-- The main rails are off: hub SRAM, DRAM contents, the PLLs and the CXL port are lost. -/
def State.railsOff (s : State) : State :=
  let s := s.dropContexts
  let s := { s with
    mem := Memory.zero
    quads := tmapAll Quad.init s.quads Quad.unpowered
    stk := tmapAll Stack.init s.stk Stack.unpowered
    banks := tmapAll Bank.init s.banks Bank.unpowered
    units := []
    health := { s.health with clearing := [], clearingG := [] }
    boot := { s.boot with rails := 0, plls := false, stacksUp := false, cxlReleased := false } }
  let s := { s with host := { s.host with
    linkState := 0, linkWidth := 0, linkSpeed := 0, panes := [], deferred := [], stalled := [], inFlight := [], rings := []
    hdm := 0, barWindow := [], events := [], timestamp := none } }
  let s := { s with ring := { s.ring with requests := [], kvWait := [], merges := [], binds := [] } }
  { s.closeSessions with clk := { s.clk with gates := tmapAll Gate.init s.clk.gates (fun g => { g with state := 0, demands := 0 }) } }

/-- MAIN POWER LOSS (R541, R568): the module waits for B3 on auxiliary power; its switches are closed and it is ALONE. -/
def State.mainPowerLoss (s : State) : State :=
  if s.boot.stage.val < 3 then s
  else
    let s := s.railsOff.leaveFor 0
    { s with boot := { s.boot with stage := 2 } }

/-- A running frequency measurement ends with the reset. -/
def Fmc.stop (f : Fmc) : Fmc := { f with running := false, status := if f.running then 0 else f.status }

/-- Level of a site by its reading alone: shut-down is over (R470). -/
def Site.cooled (x : Site) : Site := { x with level := if x.level = 3 then 2 else x.level }

/-- MODULE RESET (R454, R470, R541): B0 with a new series of attempts; values and counters are kept, and the CAN FD
port is error-active again (R510). -/
def State.moduleReset (s : State) : State :=
  let s := (s.railsOff.leaveFor 0).clearCondition 0x8120 0
  { s with
    boot := { s.boot with
      stage := 0, fwRunning := false, shut := false, heldB0 := !s.boot.modResetN }
    clk := { s.clk with
      source := 0, attempts := 0, xtalEnabled := false, seriesFailed := false, laterSuccess := false, inWindow := 0, outWindow := 0
      monitor := false, judging := none, fmc := s.clk.fmc.stop, itoTrim := false }
    therm := { s.therm with sites := tmapAll Site.init s.therm.sites Site.cooled }
    mgmt := { s.mgmt with
      nmt := .initialisation, usdo := none, canState := .active, tec := 0
      conditions := s.mgmt.conditions.filter (fun p => decide (p.1 ≠ 0x8120)) } }

/-- COLD (R541, R566): everything is as State.reset but flash, the pins as driven, and the model's own fields. -/
def State.cold (s : State) : State :=
  { State.reset with
    pending := s.pending, free := s.free, out := s.out
    boot := { Boot.init with
      mainPresent := s.boot.mainPresent, modResetN := s.boot.modResetN, perstN := s.boot.perstN, pwrBrakeN := s.boot.pwrBrakeN
      straps := s.boot.straps, cool := s.boot.cool }
    clk := { Clocks.init with refclk := s.clk.refclk }
    health := { Health.init with retired := s.health.retired }
    mgmt := { Mgmt.init with stored := s.mgmt.stored }
    sec := { Sec.init with slots := s.sec.slots, nextSlot := s.sec.nextSlot } }

/-- SHUTDOWN (R473, R476): the rails go off, the switches close, FAULT_n is asserted and the cause is kept; already off, it changes
nothing (R568). -/
def State.shutdown (s : State) (cause : BitVec 8) : State :=
  if s.boot.shut then s
  else
    let s := s.mainPowerLoss
    { s with boot := { s.boot with shut := true, shutCause := cause, cool := true } }

/-- AUX_POWER_LOSS (R566, R541): the cold reset. -/
def execAuxPowerLoss (s : State) : Host.Outcome State Fault Refusal := .next s.cold

/-- AUX_POWER_GOOD (R537, R541): B0 begins, or is held by MOD_RESET_n. -/
def execAuxPowerGood (s : State) : Host.Outcome State Fault Refusal :=
  .next (if s.boot.auxGood then s
    else { s.cold with boot := { s.cold.boot with auxGood := true, heldB0 := !s.boot.modResetN } })

/-- MOD_RESET_N (R427, R541): a module reset, held at the start of B0. -/
def execModResetN (s : State) : Host.Outcome State Fault Refusal :=
  .next (let s := { s with boot := { s.boot with modResetN := false } }
    if s.boot.auxGood then s.moduleReset else s)

/-- MOD_RESET_N_DEASSERT (R454, R537): a module held at the start of B0 may begin its attempts. -/
def execModResetNDeassert (s : State) : Host.Outcome State Fault Refusal :=
  .next { s with boot := { s.boot with modResetN := true, heldB0 := false } }

/-- MAIN_INPUT_PRESENT (R565). -/
def execMainInputPresent (s : State) : Host.Outcome State Fault Refusal :=
  .next { s with boot := { s.boot with mainPresent := true } }

/-- MAIN_INPUT_LOST (R565, R568): the beats are held, the rails go off in reverse order, start-up waits at B3. -/
def execMainInputLost (s : State) : Host.Outcome State Fault Refusal :=
  .next ({ s with boot := { s.boot with mainPresent := false } } : State).mainPowerLoss

end Sys2Proof.Machine
end

