-- ==== Sys2Proof/Machine/Gates.lean ====
section
/-! DEFINITION. The gate controller and the frequency-measuring counter (R461 to R467, R486). -/

namespace Sys2Proof.Machine

/-! ## The gate controller (R461 to R465) -/

/-- No access but scrub waits for the stacks of a quadrant (R462). -/
def State.noAccess (s : State) (q : Nat) : Bool :=
  (List.range 5).all (fun i => (s.stack (5 * q + i)).slateQ.isEmpty && (s.stack (5 * q + i)).writes.isEmpty) &&
    (s.host.deferred ++ s.host.inFlight).all (fun a => a.cols.all (fun c => decide (quadOf (bankOfCol c) ≠ q))) &&
    s.ring.kvWait.all (fun w => w.boxes.all (fun b => decide (b.1 ≠ q))) && (s.quad q).xq.isEmpty

/-- Every context of a quadrant is DISMISSED, or it holds none (R152, R462). -/
def State.allDismissed (s : State) (q : Nat) : Bool :=
  (List.range 4).all (fun i => match (s.slot q i).ctx with
    | some c => (s.ctx c).dismissed && !(s.ctx c).resetting
    | none => true)

/-- Whether every block of a group acknowledges (R462): a quadrant group idle, with no change of point under way; a port group
ALONE or FENCED. -/
def State.gateIdle (s : State) (g : Nat) : Bool :=
  if g < 4 then
    s.allDismissed g && s.noAccess g && !(s.quad g).changing &&
      (List.range 5).all (fun i => (s.stack (5 * g + i)).scrubHead.isEmpty)
  else s.outOfRing

/-- A request to close a group (R461). -/
def State.requestClose (s : State) (g : Nat) : State :=
  if (s.gate g).state = 0 then s.modGate g (fun x => { x with state := 1 }) else s

/-- GATE_CLOSE (R461). -/
def execGateClose (g : Fin 8) (s : State) : Host.Outcome State Fault Refusal := .next (s.requestClose g)

/-- GATE_CLOSED (R461, R462, R356): the last acknowledge; a quadrant's queued neighbour refreshes are performed and its banks
precharged before self-refresh. -/
def execGateClosed (g : Fin 8) (s : State) : Host.Outcome State Fault Refusal :=
  .next (if (s.gate g).state ≠ 1 ∨ s.gateIdle g = false then s
    else
      let s := s.modGate g (fun x => { x with state := 2 })
      if g.val < 4 then
        { s with banks := tmap Bank.init s.banks (fun u => quadOf u == g.val) (fun b =>
            { b with nbq := [], open0 := none, open1 := none }) }
      else s)

/-- GATE_TIMEOUT (R461, R509): the request fails, the clocks run on. -/
def execGateTimeout (g : Fin 8) (s : State) : Host.Outcome State Fault Refusal :=
  .next (let x := s.gate g
    if x.state ≠ 1 then s
    else
      let n := bump x.timeouts 1
      (s.modGate g (fun x => { x with state := 0, timeouts := n })).emcyEvent 0xFF40 g n.toNat)

/-- GATE_OPEN (R463, R464): an operator request or a demand. -/
def execGateOpen (g : Fin 8) (s : State) : Host.Outcome State Fault Refusal := .next (s.demandGate g)

/-- GATE_OPENED (R463): the demands go on; a quadrant leaves self-refresh with no debt and its recess count reset. -/
def execGateOpened (g : Fin 8) (s : State) : Host.Outcome State Fault Refusal :=
  .next (if (s.gate g).state ≠ 3 then s
    else
      let s := s.modGate g (fun x => { x with state := 0, demands := 0 })
      if g.val < 4 then
        let s := { s with banks := tmap Bank.init s.banks (fun u => quadOf u == g.val) (fun b => { b with debt := 0 }) }
        ((s.modQuad g (fun x => { x with sinceRecess := 0 })).pumpQuad g).kvPump
      else s)

/-- QUAD_IDLE_GATE_EXPIRY (R465): the governor asks an idle quadrant to close. -/
def execQuadIdleGateExpiry (q : Fin 4) (s : State) : Host.Outcome State Fault Refusal :=
  .next (if s.clk.quadIdle ≠ 0 ∧ s.allDismissed q = true ∧ s.noAccess q = true then s.requestClose q else s)

/-! ## The frequency-measuring counter (R466, R467) -/

/-- Gate group of a measured clock, if it has one (R460, R466). -/
def Fmc.group (f : Fmc) : Option Nat :=
  let m := f.measured.toNat
  if 6 ≤ m ∧ m ≤ 9 then some (m - 6)
  else if 10 ≤ m ∧ m ≤ 13 then some (m - 6)
  else if m = 26 then some (quadOfStack f.stack.toNat)
  else none

/-- A start: refused with status 4 while a measurement runs (R467). -/
def Fmc.start (f : Fmc) : Fmc := if f.running then { f with status := 4 } else { f with running := true, status := 1 }

/-- The measurement ends: a gated clock counts 0 (R467). -/
def State.fmcCount (s : State) (count : Word32) : Word32 :=
  match s.clk.fmc.group with
  | some g => if s.shutGate g then 0 else count
  | none => count

/-- FMC_DONE (R467). -/
def execFmcDone (count : Word32) (s : State) : Host.Outcome State Fault Refusal :=
  .next (if s.clk.fmc.running then
      { s with clk := { s.clk with fmc := { s.clk.fmc with running := false, status := 2, count := s.fmcCount count } } }
    else s)

/-- FMC_REFERENCE_STALL (R467). -/
def execFmcReferenceStall (s : State) : Host.Outcome State Fault Refusal :=
  .next (if s.clk.fmc.running then { s with clk := { s.clk with fmc := { s.clk.fmc with running := false, status := 3 } } } else s)

end Sys2Proof.Machine
end

