-- ==== Sys2Proof/Machine/Governor.lean ====
section
/-! DEFINITION. Temperature, power telemetry and the budget loop (R5, R6, R358, R468 to R485). Temperatures are in units of
0.125 degrees, power in milliwatts. -/

namespace Sys2Proof.Machine

/-! ## Temperature (R358, R468 to R473) -/

/-- Warning, throttle and shut-down levels of a site in 0.125 degrees (R470, R488). -/
def Thermal.warn (t : Thermal) (i : Nat) : Int := 8 * (if i < 4 then t.hubWarn.toNat else t.stackWarn.toNat)
def Thermal.throttle (t : Thermal) (i : Nat) : Int := 8 * (if i < 4 then t.hubThrottle.toNat else t.stackThrottle.toNat)
def shutLevel (i : Nat) : Int := if i < 4 then 920 else 840

/-- Whether a level is held: entered at the level, left below the level less 3 degrees (R470). -/
def held (was : Bool) (t level : Int) : Bool := decide (t ≥ level) || (was && decide (t ≥ level - 24))

/-- Level of a site after a reading: 0 normal, 1 warning, 2 throttle, 3 shut-down, which stays (R470). -/
def Thermal.levelAfter (t : Thermal) (i : Nat) (old : BitVec 8) (r : Int) : BitVec 8 :=
  if old = 3 ∨ r ≥ shutLevel i then 3
  else if held (decide (old.toNat ≥ 2)) r (t.throttle i) then 2
  else if held (decide (old.toNat ≥ 1)) r (t.warn i) then 1
  else 0

/-- Issue rate a site at a level asks for after a reading, in 1/256 (R471). -/
def Thermal.rateAt (t : Thermal) (i : Nat) (level : BitVec 8) (r : Int) : Nat :=
  let d := r - t.throttle i
  if level.toNat ≥ 2 ∧ d ≥ 0 then max 32 (256 * (100 - d.toNat) / 100) else 256

/-- The thermal rate of a quadrant: the lowest that its six sites ask for since their last readings (R471, R488). -/
def State.setThermalRate (s : State) (q : Nat) : State :=
  let r := (quadSites q).foldl (fun r i => min r (s.site i).asks) 256
  s.modQuad q (fun x => { x with thermalRate := r })

/-- Delay band after a reading (R358): entered rising above 45, 70, 90; left downwards below 42, 67, 87. -/
def bandAfter (old : Nat) (r : Int) : Nat :=
  let up := if r > 720 then 3 else if r > 560 then 2 else if r > 360 then 1 else 0
  let down := if r < 336 then 0 else if r < 536 then 1 else if r < 696 then 2 else 3
  if up > old then up else min old down

/-- The band a stack site asks for is kept; a failed site counts as TB3 (R358, R472). -/
def State.setBand (s : State) (i : Nat) (r : Option Int) : State :=
  if i < 4 then s
  else s.modStack (i - 4) (fun k =>
    { k with bandWanted := match r with
               | some r => BitVec.ofNat 8 (bandAfter k.bandWanted.toNat r)
               | none => 3 })

/-- Quadrant of a site. -/
def quadOfSite (i : Nat) : Nat := if i < 4 then i else quadOfStack (i - 4)

def State.setSite (s : State) (i : Nat) (x : Site) : State :=
  { s with therm := { s.therm with sites := tset Site.init s.therm.sites i x } }

/-- Warning and throttle are conditions of their own; shut-down is an event (R470, R509). -/
def State.announceLevel (s : State) (i : Nat) (old new : BitVec 8) (r : Int) : State :=
  let v := (BitVec.ofInt 32 r).toNat
  let s := if old.toNat < 1 ∧ new.toNat ≥ 1 then s.raiseCondition 0x4200 i v else s
  let s := if old.toNat < 2 ∧ new.toNat ≥ 2 then s.raiseCondition 0x4210 i v else s
  let s := if old.toNat ≥ 2 ∧ new.toNat < 2 then s.clearCondition 0x4210 i else s
  let s := if old.toNat ≥ 1 ∧ new.toNat < 1 then s.clearCondition 0x4200 i else s
  if old ≠ 3 ∧ new = 3 then
    (s.emcyEvent 0x4300 i v).shutdown (if i < 4 then 1 else 2)
  else s

/-- A site fails and asks for the floor rate (R472). -/
def State.failSite (s : State) (i : Nat) : State :=
  let x := s.site i
  if x.failed then s.setSite i { x with goodRun := 0, badRun := 0 }
  else
    let x := { x with failed := true, asks := 32, fails := bump x.fails 1, goodRun := 0, badRun := 0 }
    (((s.setSite i x).setBand i none).raiseCondition 0x5010 i x.fails.toNat)

/-- A reading in range acts on the site (R470 to R472). -/
def State.actOn (s : State) (i : Nat) (x : Site) (r : Int) : State :=
  let new := s.therm.levelAfter i x.level r
  let s := (s.setSite i { x with level := new, asks := s.therm.rateAt i new r }).setBand i (some r)
  s.announceLevel i x.level new r

/-- A reading in range: a failed site recovers with the tenth in a row. -/
def State.readSite (s : State) (i : Nat) (r : Int) : State :=
  let x := s.site i
  let x := { x with
    temp := BitVec.ofInt 16 r, maxTemp := if x.maxTemp.all (fun m => decide (r > m.toInt)) then some (BitVec.ofInt 16 r) else x.maxTemp, badRun := 0
    goodRun := if x.failed then x.goodRun + 1 else 0 }
  if x.failed = false then s.actOn i x r
  else if x.goodRun ≥ 10 then (s.actOn i { x with failed := false, goodRun := 0 } r).clearCondition 0x5010 i
  else s.setSite i x

/-- SENSOR_CONVERSION (R358, R469 to R473, R484): a reading in 0.125 degrees, or none in the interval. -/
def execSensorConversion (site : Fin 24) (reading : Option Int) (s : State) : Host.Outcome State Fault Refusal :=
  .next (let i := site.val
    if s.boot.auxGood = false then s
    else
      let s := match reading with
        | some r => if -320 ≤ r ∧ r ≤ 1200 then s.readSite i r else s.failSite i
        | none =>
          let x := s.site i
          if x.badRun + 1 ≥ 3 then s.failSite i else s.setSite i { x with badRun := x.badRun + 1, goodRun := 0 }
      s.setThermalRate (quadOfSite i))

/-! ## The budget in force (R5, R6, R479, R481) -/

/-- Top of the governed budget range (R5, R6). -/
def budgetTop : Nat := if Config.partIsAE then 700 else 780

/-- A budget that may be written: 300 W to the part's limit in steps of 10 W (R6). -/
def budgetOk (v : Nat) : Bool := decide (300 ≤ v ∧ v ≤ budgetTop ∧ v % 10 = 0)

/-- The budget in force, in watts (R479). -/
def Power.inForce (p : Power) (brakeN : Bool) : Nat :=
  if brakeN then p.budget.toNat else min p.budget.toNat p.brakeBudget.toNat

def State.budgetInForce (s : State) : Nat := s.pow.inForce s.boot.pwrBrakeN

/-- The budget in force was `old` watts and may have changed (R481). Fallen below P_avg, G falls from P_avg to it over `us` microseconds;
fallen otherwise, G follows it. Risen while G falls, the fall goes on from where G stands to the new budget in the time it has left, or
is over where G is not above it; a rise of G is BUDGET_TICK's (DEDUCED, log 97). -/
def State.budgetChanged (s : State) (old us : Nat) : State :=
  let p := s.pow
  let b := 1000 * s.budgetInForce
  let p :=
    if s.budgetInForce < old then
      if b < p.pAvg then { p with g := p.pAvg, ramp := some ⟨p.pAvg, b, us, 0⟩ } else { p with g := min p.g b, ramp := none }
    else if s.budgetInForce > old then
      { p with ramp := p.ramp.bind (fun r => if b < p.g then some ⟨p.g, b, r.length - r.elapsed, 0⟩ else none) }
    else p
  { s with pow := p }

/-- PWR_BRAKE_N (R479, R481): 0.5 ms for the brake. -/
def execPwrBrakeN (asserted : Bool) (s : State) : Host.Outcome State Fault Refusal :=
  .next (if s.boot.pwrBrakeN = !asserted then s
    else ({ s with boot := { s.boot with pwrBrakeN := !asserted } } : State).budgetChanged s.budgetInForce (if asserted then 500 else 4000))

/-! ## Telemetry (R474 to R477) -/

/-- P_avg: the mean of the last ten VIN polls plus the last VAUX poll (R475). -/
def Power.mean (p : Power) : Nat := p.vinPolls.foldl (· + ·) 0 / max 1 p.vinPolls.length + p.vauxPoll

/-- An answered poll of VIN or VAUX: the draw and the energy (R475). -/
def Power.answered (p : Power) (rail mw : Nat) : Power :=
  if rail = 0 then
    let p := { p with vinPolls := (mw :: p.vinPolls).take 10, energy := p.energy + mw, unanswered := 0, telemetryLost := false }
    { p with pAvg := p.mean }
  else if rail = 1 then
    let p := { p with vauxPoll := mw, energy := p.energy + 100 * mw }
    { p with pAvg := if p.telemetryLost then p.pAvg else p.mean }
  else p

/-- PMBUS_POLL (R474 to R477, R509): a regulator answers with 16 bytes of telemetry, its status word and its draw, or does not answer.
Three unanswered polls of the input monitor lose the telemetry; a fault is a shut-down. -/
def execPmbusPoll (rail : Fin 8) (answer : Option PmbusAnswer) (powerMw : Nat) (warning fault : Bool) (s : State) :
    Host.Outcome State Fault Refusal :=
  .next (let i := rail.val
    if s.boot.auxGood = false then s
    else
      match answer with
      | none =>
        if i ≠ 0 then s
        else
          let n := s.pow.unanswered + 1
          let s := { s with pow := { s.pow with unanswered := n } }
          if n ≥ 3 then
            ({ s with pow := { s.pow with telemetryLost := true, pAvg := 780000 } } : State).raiseCondition 0xFF02 0 0
          else s
      | some a =>
        let word := a.status.toNat
        let old := s.pow.regWarning.getLsbD i
        let p := s.pow.answered i powerMw
        let bit : BitVec 8 := 1#8 <<< i
        let s := { s with pow := { p with
          rails := tset 0 p.rails i a.telemetry
          regWarning := if warning then p.regWarning ||| bit else p.regWarning &&& ~~~bit
          warnings := if warning && !old then p.warnings + 1 else p.warnings } }
        let s := if i = 0 then s.clearCondition 0xFF02 0 else s
        let s := if warning && !old then s.emcyEvent 0x3200 i word else s
        if fault && !s.boot.shut then ((s.emcyEvent 0x3300 i word).logOnly Code.shutdown i 0xFF word 0).shutdown 3 else s)

/-! ## The budget loop (R480 to R483) -/

/-- G after one tick of 100 microseconds: on its linear fall, or following the budget with a rise of at most 20 W per ms (R481). -/
def Power.stepG (p : Power) (budget : Nat) : Power :=
  match p.ramp with
  | some r =>
    let e := r.elapsed + 100
    if e ≥ r.length then { p with g := r.target, ramp := none }
    else { p with g := r.start - (r.start - r.target) * e / r.length, ramp := some { r with elapsed := e } }
  | none => { p with g := min (1000 * budget) (p.g + 2000) }

/-- The budget rate of the next tick (R480). -/
def Power.nextRate (p : Power) : Nat :=
  let scaled := p.budgetRate * (p.g - p.pBase) / (p.pAvg - p.pBase)
  let r :=
    if p.pAvg > p.g then (if p.g > p.pBase then scaled else 32)
    else if p.pAvg < p.g ∧ p.pAvg > p.pBase then max p.budgetRate scaled
    else p.budgetRate
  max 32 (min 256 r)

/-- P_base is measured after 1 ms in which no quadrant issued a word (R480). -/
def Power.baseTick (p : Power) (beats : Nat) : Power :=
  let n := if beats = p.seenBeats then p.quietTicks + 1 else 0
  { p with seenBeats := beats, quietTicks := n, pBase := if n ≥ 10 then p.pAvg else p.pBase }

/-- Words that the four quadrants have issued. -/
def State.allBeats (s : State) : Nat := (List.range 4).foldl (fun n q => n + (s.quad q).issuedAll) 0

/-- BUDGET_TICK (R480, R481, R483): every 100 microseconds. -/
def execBudgetTick (s : State) : Host.Outcome State Fault Refusal :=
  .next (if s.boot.fwRunning = false then s
    else
      let b := s.budgetInForce
      let p := (s.pow.baseTick s.allBeats).stepG b
      let p := { p with budgetRate := p.nextRate }
      let over_ := decide (p.budgetRate = 32 ∧ p.pAvg > 1000 * b)
      let p := { p with floorTicks := if over_ then p.floorTicks + 1 else 0, budgetUnmet := p.budgetUnmet && over_ }
      let was := s.pow.budgetUnmet
      let s := { s with pow := p }
      if was && !over_ then s.clearCondition 0xFF01 0 else s)

/-- INPUT_CEILING_ALERT (R482): the floor rate at once; G starts again at P_avg. -/
def execInputCeilingAlert (s : State) : Host.Outcome State Fault Refusal :=
  .next (let n := bump s.pow.ceilings 1
    let s := { s with pow := { s.pow with budgetRate := 32, g := s.pow.pAvg, ramp := none, ceilings := n } }
    s.logOnly Code.ceiling 0 0xFF n.toNat 0)

/-- BUDGET_UNMET (R483): 10 ms at the floor rate with P_avg above the budget. -/
def execBudgetUnmet (s : State) : Host.Outcome State Fault Refusal :=
  .next (if s.pow.floorTicks < 100 ∨ s.pow.budgetUnmet = true then s
    else ({ s with pow := { s.pow with budgetUnmet := true } } : State).raiseCondition 0xFF01 0 (s.pow.pAvg / 1000))

end Sys2Proof.Machine
end

