-- ==== Sys2Proof/Machine/Mailbox.lean ====
section
/-! DEFINITION. Mailbox sessions and context control (R159, R180, R194 to R220, R292 to R297, R315, R329, R376, R406 to R408, R535, R546). The
bytes of an answer's payload are in the order the table of R407 names its outputs, little-endian, in the smallest whole number
of bytes (log 12). -/

namespace Sys2Proof.Machine

/-! ## Sessions (R406, R535) -/

def State.session (s : State) (h : Word64) : Option Session := s.host.sessions.find? (fun y => y.handle = h)

/-- SHA3-256 of a token, byte 0 first. -/
def tokenDigest (t : BitVec 256) : BitVec 256 := sha3Word (bytesOf 32 t)

/-- The stored digest of a role and context: entry 0 the operator's, 1 + c the tenant's of context c (R536). -/
def State.roleDigest (s : State) (role ctx : Nat) : BitVec 256 :=
  if role = 0 then tget 0 s.sec.digests 0 else if role = 1 ∧ ctx < 16 then tget 0 s.sec.digests (1 + ctx) else 0

/-- SESSION_OPEN (R535): a digest of zeros opens nothing; after 8 failures in a row the requests of the next second are refused;
with 8 sessions open no other is opened. -/
def execSessionOpen (role ctx : BitVec 8) (token : BitVec 256) (s : State) : Host.Outcome State Fault Refusal :=
  .next (let d := s.roleDigest role.toNat ctx.toNat
    if s.boot.cxlReleased = false then s
    else if s.host.locked ∨ s.host.sessions.length ≥ 8 then s.answer Code.accessDenied []
    else if d ≠ 0 ∧ tokenDigest token = d then
      let r := s.draw 64
      let y : Session := ⟨r.1, if role = 0 then none else some ctx.toNat, none⟩
      let s := { r.2 with host := { r.2.host with sessions := r.2.host.sessions ++ [y], failures := 0 } }
      s.answer Code.ok (toLe 8 r.1.toNat ++ [role, ctx])
    else
      let n := s.host.failures + 1
      let s := { s with host := { s.host with failures := if n ≥ 8 then 0 else n, locked := decide (n ≥ 8) } }
      s.answer Code.accessDenied [])

/-- SESSION_LOCKOUT_EXPIRY (R535). -/
def execSessionLockoutExpiry (s : State) : Host.Outcome State Fault Refusal :=
  .next { s with host := { s.host with locked := false } }

/-- SESSION_CLOSE (R406, R407). -/
def execSessionClose (h : Word64) (s : State) : Host.Outcome State Fault Refusal :=
  .next (if s.boot.cxlReleased = false then s
    else match s.session h with
    | none => s.answer Code.accessDenied []
    | some _ =>
      ({ s with host := { s.host with sessions := s.host.sessions.filter (fun y => decide (y.handle ≠ h)) } } : State).answer
        Code.ok [])

/-- A command of context control: unheard before the port is released, Busy before B7, ACCESS_DENIED outside the session's role and context (R376, R406). `who` is the
context of a command that its tenant may give. -/
def State.request (s : State) (h : Word64) (who : Option Nat) (f : State → State) : State :=
  if s.boot.cxlReleased = false then s
  else if s.boot.stage ≠ 7 then s.cxlAnswer .busy []
  else match s.session h with
    | none => s.answer Code.accessDenied []
    | some y => if y.tenant.isNone || (who.isSome && y.tenant == who) then f s else s.answer Code.accessDenied []

/-- A command that names a context which has to exist and not to be ending (R554 BAD_REQUEST). -/
def State.onCtx (s : State) (h : Word64) (c : Nat) (f : State → State) : State :=
  s.request h (some c) (fun s => if (s.ctx c).live && !(s.ctx c).resetting then f s else s.answer Code.badRequest [])

/-! ## The CAN FD port (R503 to R505) -/

/-- The port is silent (R453, R458, R503, R504). -/
def State.canSilent (s : State) : Bool :=
  !s.boot.auxGood || s.boot.stage == 0 || s.clk.xtalLost || s.mgmt.nodeId == 0

/-- The port takes part in the bus. -/
def State.canUp (s : State) : Bool := !s.canSilent && s.mgmt.canState != .busOff

/-- The USDO server runs in Pre-operational and Operational (R505). -/
def State.usdoUp (s : State) : Bool := s.canUp && (s.mgmt.nmt == .preOperational || s.mgmt.nmt == .operational)

/-! ## Contexts (R52, R159, R176, R180, R203) -/

/-- The lowest-numbered free slot of a quadrant; an exclusive one offers slot 0 only (R159). -/
def State.freeSlotIn (s : State) (q : Nat) : Option Nat :=
  (List.range (if (s.quad q).shared then 4 else 1)).find? (fun sl => (s.slot q sl).ctx.isNone)

/-- CTX_CREATE (R11, R159, R161, R180): the lowest free context number is taken (log 32). -/
def execCtxCreate (h : Word64) (qs : BitVec 4) (prio : BitVec 8) (s : State) : Host.Outcome State Fault Refusal :=
  .next (s.request h none (fun s =>
    if qs = 0 ∨ prio.toNat > 3 then s.answer Code.badRequest []
    else
      let slots := (bitsSet qs).map (fun q => (q, s.freeSlotIn q))
      match (List.range 16).find? (fun c => !(s.ctx c).live) with
      | none => s.answer Code.noSlot []
      | some c =>
        if slots.any (fun x => x.2.isNone) then s.answer Code.noSlot []
        else
          let took := slots.map (fun x => (x.1, x.2.getD 0))
          let t := took.foldl (fun t x => tset 0 t x.1 x.2) []
          let s := s.setCtx c { Ctx.init with live := true, span := qs, slotIn := t }
          let s := took.foldl (fun (s : State) x => s.modSlot x.1 x.2 (fun _ => { Slot.init with ctx := some c })) s
          let s := s.modCfg c (fun g => { g with priority := prio, hazLog := [], hazCount := [] })
          s.answer Code.ok [BitVec.ofNat 8 c]))

/-- CTX_DESTROY (R176, R203, R327): the context ends. -/
def execCtxDestroy (h : Word64) (c : Fin 16) (s : State) : Host.Outcome State Fault Refusal :=
  .next (s.request h none (fun s =>
    if (s.ctx c).live = false ∨ (s.ctx c).resetting then s.answer Code.badRequest []
    else ((s.beginReset c).endContext c 1).answer Code.ok []))

/-- The reset of a context begins, or is in progress already (R544). -/
def State.askReset (s : State) (c : Nat) : State := if (s.ctx c).resetting then s else s.beginReset c

/-- CTX_RESET (R176, R544, R546): the reset begins; over the mailbox the command completes when the reset does, and so does one that finds
it in progress. Over CAN FD it is the operator's, after B7, and nothing answers it (log 100). -/
def execCtxReset (h : Option Word64) (c : Fin 16) (s : State) : Host.Outcome State Fault Refusal :=
  .next (match h with
    | some h => s.request h (some c.val) (fun s =>
        if (s.ctx c).live = false then s.answer Code.badRequest []
        else (s.askReset c).modCtx c (fun x => { x with replies := x.replies + 1 }))
    | none => if s.usdoUp = true ∧ s.boot.stage = 7 ∧ (s.ctx c).live = true then s.askReset c else s)

/-- QUAD_MODE (R52): refused while the quadrant holds a context. -/
def execQuadMode (h : Word64) (q : Fin 4) (shared : Bool) (s : State) : Host.Outcome State Fault Refusal :=
  .next (s.request h none (fun s =>
    if (List.range 4).any (fun sl => (s.slot q sl).ctx.isSome) then s.answer Code.modeBusy []
    else (s.modQuad q (fun x => { x with shared := shared })).answer Code.ok []))

/-! ## Allocations (R194 to R203, R543, R558) -/

/-- A plot may be part of a new range: free, or retired and so a hole (R195, R543, R558). -/
def State.plotOpen (s : State) (p : Nat) : Bool :=
  s.health.retired.contains p || (!s.plotAllocated p && !s.health.clearing.contains p && !s.health.queued.contains p)

def State.granuleOpen (s : State) (q g : Nat) : Bool := !s.granuleTaken q g && !s.health.clearingG.contains (768 * q + g)

/-- The lowest range of a request (R195). -/
def State.findRange (s : State) (c : Nat) (a : Allocation) (count : Nat) : Option Nat :=
  let top := if a.staging then granules else 2048
  (List.range (top + 1 - count)).find? (fun lo =>
    if a.staging then (bitsSet (s.ctx c).span).all (fun q => (span lo (lo + count - 1)).all (fun g => s.granuleOpen q g))
    else a.banks.all (fun b => (span lo (lo + count - 1)).all (fun i => s.plotOpen (2048 * b + i))))

/-- A box whose bounds are in order, with dies and banks that exist (R194). -/
def boxInModule (b : Box) : Bool :=
  decide (b.stackLo ≤ b.stackHi ∧ b.dieLo ≤ b.dieHi ∧ b.dieHi < 16 ∧ b.bankLo ≤ b.bankHi ∧ b.bankHi < 32)

/-- ALLOC (R194 to R200, R558): stacks 20 to 31 lie in no span (R198). BAD_REQUEST, DESC_EXTENT, NO_SPACE and OVER_QUOTA in this order. -/
def execAlloc (h : Word64) (c : Fin 16) (staging : Bool) (box : Box) (count : Nat) (s : State) :
    Host.Outcome State Fault Refusal :=
  .next (s.onCtx h c (fun s =>
    let x := s.ctx c
    let a : Allocation :=
      if staging then { Allocation.none with live := true, staging := true }
      else ⟨true, false, box.stackLo, box.stackHi, box.dieLo, box.dieHi, box.bankLo, box.bankHi, 0, 0⟩
    if count = 0 ∨ (staging = false ∧ boxInModule box = false) then s.answer Code.badRequest []
    else if staging = false ∧
        (box.stackHi ≥ 20 ∨ (span box.stackLo box.stackHi).any (fun st => !x.span.getLsbD (quadOfStack st))) then
      s.answer Code.descExtent []
    else if staging = false ∧ (span box.stackLo box.stackHi).any (fun st => (s.stack st).failed) then s.answer Code.noSpace []
    else
      match s.findRange c a count, (List.range 256).find? (fun i => !(s.allocation c i).live) with
      | some lo, some i =>
        let a := { a with lo := lo, hi := lo + count - 1 }
        let holes := if staging then 0 else (s.health.retired.filter (fun p => a.holdsPlot p)).length
        let t := s.modCtx c (fun x => { x with allocs := tset Allocation.none x.allocs i a })
        let excess := if staging then decide (t.stageUse c > (s.cfg c).stageQuota.toNat)
          else decide (t.plotUse c > (s.cfg c).plotQuota.toNat)
        if excess then s.answer Code.overQuota []
        else t.answer Code.ok ([BitVec.ofNat 8 i] ++ toLe 2 a.lo ++ toLe 2 a.hi ++ toLe 4 holes)
      | _, _ => s.answer Code.noSpace []))

/-- FREE (R202, R362, R543): refused while a live descriptor names the allocation. -/
def execFree (h : Word64) (c : Fin 16) (entry : BitVec 8) (s : State) : Host.Outcome State Fault Refusal :=
  .next (s.onCtx h c (fun s =>
    if (s.allocation c entry.toNat).live = false then s.answer Code.badRequest []
    else if (s.ctx c).descs.any (fun d => Desc.live d.2 && Desc.alloc d.2 == entry.toNat) then s.answer Code.descInUse []
    else (s.freeAllocation c entry.toNat).answer Code.ok []))

/-! ## Descriptors (R215, R218, R220) -/

/-- The active or armed halves name a handle (R218). -/
def Ctx.namesHandle (x : Ctx) (k : Nat) : Bool :=
  x.half.names.contains k || (match x.armed with
    | some a => a.names.contains k
    | none => false)

/-- DESC_CREATE (R215, R218, R220). -/
def execDescCreate (h : Word64) (c : Fin 16) (handle : BitVec 12) (d : BitVec 512) (s : State) :
    Host.Outcome State Fault Refusal :=
  .next (s.onCtx h c (fun s =>
    let k := handle.toNat
    if (s.desc c k).live && (s.ctx c).namesHandle k then s.answer Code.descInUse []
    else
      let code := s.checkDesc c k d
      if code = Code.ok then (s.modCtx c (fun x => { x with descs := tset 0 x.descs k d })).answer Code.ok []
      else s.answer code []))

/-- DESC_DESTROY (R218). -/
def execDescDestroy (h : Word64) (c : Fin 16) (handle : BitVec 12) (s : State) : Host.Outcome State Fault Refusal :=
  .next (s.onCtx h c (fun s =>
    let k := handle.toNat
    if (s.desc c k).live = false then s.answer Code.badRequest []
    else if (s.ctx c).namesHandle k then s.answer Code.descInUse []
    else (s.modCtx c (fun x => { x with descs := tset 0 x.descs k 0 })).answer Code.ok []))

/-- DESC_READ (R205, R407): an unbound handle reads as zero. -/
def execDescRead (h : Word64) (c : Fin 16) (handle : BitVec 12) (s : State) : Host.Outcome State Fault Refusal :=
  .next (s.onCtx h c (fun s =>
    s.answer Code.ok (bytesOf 64 (s.desc c handle.toNat))))

/-- DESC_CLEAR_POISON (R220): while the context is dismissed; while it is not, the answer is BAD_REQUEST (DESIGN CHOICE, log 90). -/
def execDescClearPoison (h : Word64) (c : Fin 16) (handle : BitVec 12) (s : State) : Host.Outcome State Fault Refusal :=
  .next (s.onCtx h c (fun s =>
    let k := handle.toNat
    if (s.desc c k).live = false ∨ (s.ctx c).dismissed = false then s.answer Code.badRequest []
    else (s.modCtx c (fun x => { x with descs := tmod 0 x.descs k (fun d => setBits d 493 1 0) })).answer Code.ok []))

/-! ## Loads and halves (R151, R156, R408) -/

/-- A descriptor that can hold an image (R408). -/
def Desc.holdsImage (d : Desc) : Bool := d.live && d.space == 0 && d.fmt == 9 && decide (d.rank ≤ 2)

/-- LOAD (R156, R408): begins at once, or waits, or is dropped with LOAD_BUSY. -/
def execLoad (h : Word64) (c : Fin 16) (handle : BitVec 12) (s : State) : Host.Outcome State Fault Refusal :=
  .next (s.onCtx h c (fun s =>
    let x := s.ctx c
    let d := s.desc c handle.toNat
    let n := x.loads + 1
    if d.holdsImage = false then s.answer Code.badRequest []
    else if x.waitLoad.isSome then s.answer Code.loadBusy []
    else
      ((s.setCtx c { x with loads := n, waitLoad := some (n, handle.toNat) }).beginLoad c).answer Code.ok (toLe 8 n)))

/-- HALF_READ (R149, R151): bytes of a half that fit the 4 KiB payload. -/
def execHalfRead (h : Word64) (q : Fin 4) (sl : Fin 4) (half : Bool) (off len : Nat) (s : State) :
    Host.Outcome State Fault Refusal :=
  .next (s.request h none (fun s =>
    let shared := (s.quad q).shared
    if (shared = false ∧ sl.val ≠ 0) ∨ off + len > halfSize shared ∨ len > 4092 then s.answer Code.badRequest []
    else s.answer Code.ok (readBytes (s.quad q).tt (halfBase shared sl half + off) len)))

/-! ## Pennants (R292, R296, R297) -/

/-- Pennants a context owns. -/
def State.penUse (s : State) (c : Nat) : Nat :=
  (s.sync.pens.filter (fun p => decide (p.2.st = 1) && p.2.owner.toNat == c)).length

/-- A free physical pennant: which one is free (log 5). -/
def State.freePen (s : State) : Option Nat :=
  let start := Config.freeNat s.free
  ((List.range 16384).map (fun i => (start + i) % 16384)).find? (fun p => (s.pen p).st = 0)

/-- What follows a change of a binding: waiters under the new translation, subscriptions to match (R297, R304). -/
def State.rebound (s : State) (c ident : Nat) : State := ((s.evalWaiters).subscribe c ident).trimSubs

/-- PEN_CREATE (R292, R294). -/
def execPenCreate (h : Word64) (c : Fin 16) (ident : BitVec 10) (init : Word64) (s : State) :
    Host.Outcome State Fault Refusal :=
  .next (s.onCtx h c (fun s =>
    if s.penUse c ≥ (s.cfg c).penQuota.toNat then s.answer Code.overQuota []
    else
      match s.freePen with
      | none => s.answer Code.noSpace []
      | some p =>
        let s := { s with free := s.free + 1 }
        let s := s.setPen p { Pennant.free with
          value := init, st := 1, sat := init == BitVec.allOnes 64, owner := BitVec.ofNat 4 c }
        ((s.bindIdent c ident.toNat ⟨1, 0, BitVec.ofNat 14 p, false⟩).rebound c ident.toNat).answer Code.ok []))

/-- PEN_BIND (R296): a pennant of this module is checked here; one of another joined module by its owner, whose answer completes
the command; without a ring the binding is refused. -/
def execPenBind (h : Word64) (c : Fin 16) (ident : BitVec 10) (module phys : BitVec 14) (tag : Word32) (s : State) :
    Host.Outcome State Fault Refusal :=
  .next (s.onCtx h c (fun s =>
    let x := s.pen phys.toNat
    if module = s.ownIdent then
      if (decide (x.st = 1) && x.owner.toNat == c.val) || x.mayBind tag then
        ((s.bindIdent c ident.toNat ⟨1, 0, phys, false⟩).rebound c ident.toNat).answer Code.ok []
      else s.answer Code.penBind []
    else if s.inRing = false ∨ (s.posOf module.toNat).isNone then s.answer Code.penBind []
    else
      let s := { s with ring := { s.ring with binds := s.ring.binds ++ [(c.val, ident.toNat, module, phys)] } }
      s.sendTo module.toNat (.penBind phys tag .request)))

/-- PEN_UNBIND (R297). -/
def execPenUnbind (h : Word64) (c : Fin 16) (ident : BitVec 10) (s : State) : Host.Outcome State Fault Refusal :=
  .next (s.onCtx h c (fun s =>
    ((s.bindIdent c ident.toNat PenBinding.unbound).rebound c ident.toNat).answer Code.ok []))

/-- PEN_SHARE (R296): on an identifier bound to a live pennant that the context owns. -/
def execPenShare (h : Word64) (c : Fin 16) (ident : BitVec 10) (shared : Bool) (tag : Word32) (s : State) :
    Host.Outcome State Fault Refusal :=
  .next (s.onCtx h c (fun s =>
    let b := s.binding c ident.toNat
    let x := s.pen b.phys.toNat
    if b.kind = 1 ∧ x.st = 1 ∧ x.owner.toNat = c.val then
      (s.setPen b.phys.toNat { x with shared := shared, tag := if shared then tag else 0 }).answer Code.ok []
    else s.answer Code.badRequest []))

/-! ## Roll calls (R314, R315, R329) -/

/-- A word that waits on a handle goes free with POISONED when the handle is unbound, and so do RELEASE reports (R329). -/
def State.unbindRoll (s : State) (c hd : Nat) : State :=
  let s := allSlots.foldl (fun (s : State) p =>
    let y := s.slot p.1 p.2
    if y.ctx ≠ some c then s
    else match y.blocked with
      | some (.rollCall k _) => if k = hd then s.modSlot p.1 p.2 (fun y => y.release true) else s
      | some (.rollHeld k) => if k = hd then s.modSlot p.1 p.2 Slot.unblock else s
      | _ => s) s
  let due := (s.ctx c).releases.filter (fun r => decide (r.1 = hd))
  let s := s.modCtx c (fun x =>
    { x with releases := x.releases.filter (fun r => decide (r.1 ≠ hd)), rolls := tset RollHandle.unbound x.rolls hd RollHandle.unbound })
  due.foldl (fun (s : State) r => s.post c (releaseReport r.1 r.2 true)) s

/-- A handle is bound to a roll call. -/
def State.bindRoll (s : State) (c hd num : Nat) : State :=
  let s := s.unbindRoll c hd
  (s.modCtx c (fun x => { x with rolls := tset RollHandle.unbound x.rolls hd ⟨true, BitVec.ofNat 6 num, false⟩ })).freeRolls

/-- A free roll call: which one is free (log 5). -/
def State.freeRoll (s : State) : Option Nat :=
  ((List.range 64).map (fun i => (Config.freeNat s.free + i) % 64)).find? (fun n => (s.rollCall n).st = 0)

/-- ROLL_CREATE (R314, R315): RING is set when RING_MASK names another module. A roll call without local participants is complete from
the start, and a ring roll call's home hears so (R318, R319, log 43). -/
def execRollCreate (h : Word64) (c : Fin 16) (handle : BitVec 6) (localMask : BitVec 18) (ringMask : BitVec 64) (rid : BitVec 16)
    (s : State) : Host.Outcome State Fault Refusal :=
  .next (s.onCtx h c (fun s =>
    match s.freeRoll with
    | none => s.answer Code.noSpace []
    | some n =>
      let s := { s with free := s.free + 1 }
      let own : BitVec 64 := if s.ring.position.toNat < 64 then 1#64 <<< s.ring.position.toNat else 0
      let ring := ringMask &&& ~~~own != 0
      let r := { RollCall.free with
        st := 1, owner := BitVec.ofNat 4 c, ring := ring, rid := if ring then rid else 0, localMask := localMask
        ringMask := ringMask, completeAt := if localMask = 0 then some s.ring.timebase else none }
      let s := ((s.setRoll n r).bindRoll c handle.toNat n).reportArrival n
      s.meetBell.answer Code.ok [BitVec.ofNat 8 n]))

/-- ROLL_BIND (R315): by the owner or a context named in LOCAL_MASK. -/
def execRollBind (h : Word64) (c : Fin 16) (handle : BitVec 6) (num : BitVec 6) (s : State) : Host.Outcome State Fault Refusal :=
  .next (s.onCtx h c (fun s =>
    let r := s.rollCall num.toNat
    if r.st = 0 ∨ (r.owner.toNat ≠ c.val ∧ r.localMask &&& s.slotBits c = 0) then s.answer Code.badRequest []
    else (s.bindRoll c handle.toNat num.toNat).answer Code.ok []))

/-- ROLL_UNBIND (R329): a half-mast roll call without handles is freed. -/
def execRollUnbind (h : Word64) (c : Fin 16) (handle : BitVec 6) (s : State) : Host.Outcome State Fault Refusal :=
  .next (s.onCtx h c (fun s => ((s.unbindRoll c handle.toNat).freeRolls).answer Code.ok []))

end Sys2Proof.Machine
end

