-- ==== Sys2Proof/Machine/Dict.lean ====
section
/-! DEFINITION. The object dictionary: its entries, their values, access rights, ranges and the effect of a write (R4, R6, R22, R161,
R177 to R182, R201, R291, R310, R314, R336, R350, R363, R368, R412, R449, R454, R467, R486 to R519, R536, R555). -/

namespace Sys2Proof.Machine

/-! ## Entries (R489 to R492) -/

/-- Types: numbers of n bytes, text, DOMAIN (R491). -/
inductive OdType where
  | num (n : Nat) | text | domain
  deriving DecidableEq, Repr

/-- Access rights (R492). -/
inductive OdAccess where
  | const | ro | rw | wo | rws
  deriving DecidableEq, Repr

structure OdEntry where
  sub : Nat
  ty : OdType
  acc : OdAccess
  deriving DecidableEq, Repr

/-- A single value stands at sub-index 0 (R490). -/
def odOne (acc : OdAccess) (ty : OdType) : List OdEntry := [⟨0, ty, acc⟩]
/-- More entries: sub-index 0 holds the highest sub-index in use (R490). -/
def odMany (es : List OdEntry) : List OdEntry := ⟨0, .num 1, .const⟩ :: es
/-- Sub-indices 1 to k of one kind. -/
def odArr (k : Nat) (acc : OdAccess) (ty : OdType) : List OdEntry := odMany ((List.range k).map (fun i => ⟨i + 1, ty, acc⟩))

/-- Indices lo to hi and the entries of each. -/
structure OdRow where
  lo : Nat
  hi : Nat
  es : List OdEntry
  deriving DecidableEq, Repr

def odAt (i : Nat) (es : List OdEntry) : OdRow := ⟨i, i, es⟩

/-- 0x1000 to 0x2000 (R514, R515). -/
def odProfile : List OdRow :=
  [odAt 0x1000 (odOne .const (.num 4)), odAt 0x1001 (odOne .ro (.num 1)),
   odAt 0x1003 (⟨0, .num 1, .rw⟩ :: (List.range 16).map (fun i => ⟨i + 1, .num 4, .ro⟩)),
   odAt 0x1008 (odOne .const .text), odAt 0x1009 (odOne .const .text), odAt 0x100A (odOne .ro .text),
   odAt 0x1010 (odArr 1 .rw (.num 4)), odAt 0x1011 (odArr 1 .rw (.num 4)), odAt 0x1014 (odOne .ro (.num 4)),
   odAt 0x1015 (odOne .rw (.num 2)), odAt 0x1017 (odOne .rw (.num 2)), odAt 0x1018 (odArr 4 .const (.num 4)),
   ⟨0x1800, 0x1803, odMany [⟨1, .num 4, .ro⟩, ⟨2, .num 1, .const⟩, ⟨5, .num 2, .rw⟩]⟩,
   ⟨0x1A00, 0x1A03, odArr 14 .const (.num 4)⟩,
   odAt 0x2000 (odMany [⟨1, .text, .const⟩, ⟨2, .text, .const⟩, ⟨3, .text, .const⟩, ⟨4, .num 8, .ro⟩, ⟨5, .num 4, .ro⟩,
     ⟨6, .num 4, .ro⟩, ⟨7, .num 1, .const⟩, ⟨8, .num 1, .ro⟩])]

/-- 0x2100 to 0x2304 (R486 to R488). -/
def odPlant : List OdRow :=
  [odAt 0x2100 (odMany [⟨1, .num 1, .ro⟩, ⟨2, .num 2, .ro⟩, ⟨3, .num 1, .ro⟩]), odAt 0x2101 (odOne .wo (.num 1)),
   odAt 0x2102 (odMany [⟨1, .num 1, .rws⟩, ⟨2, .num 1, .rws⟩, ⟨3, .num 4, .rws⟩, ⟨4, .num 1, .rws⟩, ⟨5, .num 1, .rws⟩,
     ⟨6, .num 1, .wo⟩, ⟨7, .num 1, .ro⟩, ⟨8, .num 4, .ro⟩]),
   odAt 0x2103 (odArr 8 .ro (.num 1)), odAt 0x2104 (odArr 8 .wo (.num 1)), odAt 0x2105 (odArr 8 .ro (.num 4)),
   odAt 0x2106 (odOne .rw (.num 4)), odAt 0x2107 (odOne .ro (.num 4)),
   odAt 0x2200 (odOne .rws (.num 1)), odAt 0x2201 (odOne .rw (.num 2)), odAt 0x2202 (odOne .ro (.num 2)),
   odAt 0x2203 (odOne .rw (.num 2)), odAt 0x2204 (odOne .rw (.num 2)),
   odAt 0x2205 (odMany [⟨1, .num 4, .ro⟩, ⟨2, .num 4, .ro⟩, ⟨3, .num 8, .ro⟩]), odAt 0x2206 (odArr 4 .ro (.num 2)),
   odAt 0x2207 (odArr 4 .ro (.num 1)), odAt 0x2208 (odMany [⟨1, .num 1, .rw⟩, ⟨2, .num 1, .rw⟩, ⟨3, .num 2, .rw⟩]),
   odAt 0x2209 (odMany [⟨1, .num 4, .ro⟩, ⟨2, .num 2, .ro⟩]), odAt 0x220A (odOne .ro .domain), odAt 0x220B (odOne .ro (.num 1)),
   odAt 0x2300 (odArr 24 .ro (.num 2)), odAt 0x2301 (odArr 24 .ro (.num 1)),
   odAt 0x2302 (odMany [⟨1, .num 1, .rw⟩, ⟨2, .num 1, .rw⟩, ⟨3, .num 1, .const⟩, ⟨4, .num 1, .rw⟩, ⟨5, .num 1, .rw⟩,
     ⟨6, .num 1, .const⟩]),
   odAt 0x2303 (odArr 24 .ro (.num 2)), odAt 0x2304 (odArr 24 .ro (.num 4))]

/-- 0x2410 to 0x2630 (R363, R412, R449). -/
def odFabric : List OdRow :=
  [⟨0x2410, 0x2411, odArr 20 .ro (.num 4)⟩, odAt 0x2412 (odArr 20 .ro (.num 2)), ⟨0x2413, 0x2414, odArr 20 .ro (.num 4)⟩,
   ⟨0x2415, 0x2416, odArr 20 .ro (.num 1)⟩, odAt 0x2420 (odArr 20 .rw (.num 2)), odAt 0x2430 (odOne .rw (.num 1)),
   ⟨0x2431, 0x2434, odArr 20 .ro (.num 4)⟩, odAt 0x2435 (odOne .rw (.num 2)), odAt 0x2436 (odOne .rw (.num 1)),
   odAt 0x2440 (odMany [⟨1, .num 4, .ro⟩, ⟨2, .num 4, .ro⟩, ⟨3, .domain, .ro⟩, ⟨4, .num 1, .ro⟩]),
   odAt 0x2441 (odArr 20 .ro (.num 4)), odAt 0x2450 (odOne .ro (.num 4)),
   odAt 0x2500 (odArr 3 .ro (.num 1)), odAt 0x2501 (odOne .rw (.num 1)), odAt 0x2502 (odOne .rw (.num 1)),
   odAt 0x2503 (odOne .rw (.num 4)), odAt 0x2510 (odArr 3 .ro (.num 4)), odAt 0x2511 (odArr 16 .ro (.num 4)),
   ⟨0x2520, 0x2521, odArr 1 .ro (.num 4)⟩, odAt 0x2522 (odMany [⟨1, .num 2, .ro⟩, ⟨2, .num 4, .ro⟩]),
   odAt 0x2523 (odArr 1 .ro (.num 2)),
   odAt 0x2600 (odMany [⟨1, .num 1, .ro⟩, ⟨2, .num 1, .ro⟩, ⟨3, .num 1, .ro⟩, ⟨4, .num 2, .ro⟩, ⟨5, .num 1, .ro⟩,
     ⟨6, .num 1, .ro⟩]),
   odAt 0x2601 (odOne .rws (.num 2)), odAt 0x2602 (odOne .rw (.num 1)), odAt 0x2603 (odOne .rws (.num 4)),
   odAt 0x2604 (odOne .rw (.num 1)), odAt 0x2605 (odOne .rw (.num 4)), odAt 0x2606 (odOne .wo (.num 1)),
   odAt 0x2607 (odOne .ro .domain), odAt 0x2610 (odArr 4 .ro (.num 1)), ⟨0x2611, 0x2614, odArr 4 .ro (.num 4)⟩,
   odAt 0x2620 (odOne .ro (.num 4)), odAt 0x2621 (odOne .ro (.num 4)),
   odAt 0x2630 (odMany [⟨1, .num 4, .ro⟩, ⟨2, .num 2, .ro⟩, ⟨3, .num 4, .ro⟩])]

/-- 0x2700 to 0x333F (R161, R177 to R182, R191, R201, R336, R516 to R519, R536). -/
def odRun : List OdRow :=
  [odAt 0x2700 (odArr 4 .ro (.num 1)), odAt 0x2701 (odArr 16 .ro (.num 1)), odAt 0x2702 (odArr 16 .ro (.num 8)),
   odAt 0x2710 (odArr 16 .rw (.num 1)), odAt 0x2711 (odOne .rw (.num 4)), odAt 0x2720 (odArr 16 .rw (.num 4)),
   odAt 0x2721 (odArr 16 .ro (.num 4)), odAt 0x2722 (odArr 16 .rw (.num 2)), odAt 0x2723 (odArr 16 .ro (.num 2)),
   odAt 0x2730 (odArr 4 .rws (.num 1)), odAt 0x2740 (odArr 5 .ro (.num 1)), odAt 0x2741 (odArr 4 .ro (.num 2)),
   ⟨0x2750, 0x2753, odArr 16 .ro .domain⟩, ⟨0x2758, 0x275B, odArr 16 .rw (.num 4)⟩,
   odAt 0x2800 (odOne .rw (.num 1)), odAt 0x2801 (odOne .rw (.num 1)), odAt 0x2802 (odArr 16 .rw (.num 4)),
   odAt 0x2803 (odArr 16 .rw (.num 2)), odAt 0x2804 (odArr 16 .ro (.num 2)),
   odAt 0x2810 (odMany [⟨1, .num 2, .rw⟩, ⟨2, .domain, .ro⟩]), odAt 0x2811 (odMany [⟨1, .num 1, .rw⟩, ⟨2, .domain, .ro⟩]),
   odAt 0x2812 (odArr 4 .ro (.num 4)),
   odAt 0x2900 (odMany [⟨1, .domain, .ro⟩, ⟨2, .num 4, .ro⟩, ⟨3, .num 1, .wo⟩]), odAt 0x2901 (odArr 4 .ro (.num 4)),
   odAt 0x2902 (odOne .ro (.num 2)), odAt 0x2903 (odOne .wo (.num 4)), odAt 0x2904 (odOne .ro (.num 4)),
   odAt 0x2A00 (odMany [⟨1, .num 1, .ro⟩, ⟨2, .num 4, .ro⟩, ⟨3, .num 4, .ro⟩, ⟨4, .num 1, .rw⟩]),
   odAt 0x2A01 (odOne .ro .domain), odAt 0x2A02 (odOne .ro (.num 1)), odAt 0x2A03 (odOne .ro (.num 4)),
   odAt 0x2A04 (odArr 4 .wo (.num 8)), odAt 0x2A05 (odArr 64 .wo (.num 8)),
   ⟨0x3100, 0x3103, odArr 64 .ro .domain⟩, ⟨0x3110, 0x3113, odArr 64 .ro .domain⟩, ⟨0x3120, 0x3123, odArr 64 .ro .domain⟩,
   ⟨0x3130, 0x3133, odArr 64 .ro .domain⟩, ⟨0x3200, 0x333F, odArr 32 .ro (.num 8)⟩]

def odTable : List OdRow := odProfile ++ odPlant ++ odFabric ++ odRun

/-- The entries of an index, if it exists. -/
def odEntries (idx : Nat) : Option (List OdEntry) := (odTable.find? (fun r => decide (r.lo ≤ idx ∧ idx ≤ r.hi))).map (·.es)

def odEntry (idx sub : Nat) : Option OdEntry :=
  match odEntries idx with
  | some es => es.find? (fun e => decide (e.sub = sub))
  | none => none

/-! ## Records read as DOMAINs -/

/-- A pennant record (R291). -/
def State.penRecord (s : State) (p : Nat) : Nat :=
  let x := s.pen p
  x.value.toNat * 2 ^ 64 + x.st.toNat * 2 ^ 62 + x.sat.toNat * 2 ^ 61 + x.shared.toNat * 2 ^ 60 + x.owner.toNat * 2 ^ 56 +
    s.waitersOn p * 2 ^ 48 + x.bindings.toNat * 2 ^ 32 + x.tag.toNat

/-- A roll-call record (R314). -/
def RollCall.record (r : RollCall) : Nat :=
  r.st.toNat * 2 ^ 254 + r.owner.toNat * 2 ^ 250 + r.ring.toNat * 2 ^ 249 + r.shrunk.toNat * 2 ^ 248 + r.rid.toNat * 2 ^ 232 +
    r.localMask.toNat * 2 ^ 214 + r.arrived.toNat * 2 ^ 196 + r.ahead.toNat * 2 ^ 178 + r.ringMask.toNat * 2 ^ 114 +
    r.ringArrived.toNat * 2 ^ 50 + r.round.toNat * 2 ^ 18

/-- A scoreboard entry (R182). -/
def Quad.sbRecord (x : Quad) (e : Nat) : Nat :=
  let b := x.entry e
  let readers := min 127 (b.holders.filter (fun h => !h.2)).length
  let wq := x.sbWait.any (fun r => decide (r.entry = e) && r.write)
  b.st.toNat * 2 ^ 126 + b.wr.toNat * 2 ^ 125 + b.space.toNat * 2 ^ 124 + b.ctx.toNat * 2 ^ 120 + readers * 2 ^ 113 +
    wq.toNat * 2 ^ 112 + b.bounds.toNat * 2 ^ 40

/-- A hazard log record (R178). -/
def HazRec.bytes (h : HazRec) : List Byte :=
  toLe 8 h.lesson ++ toLe 4 h.beat ++ toLe 4 h.due ++ toLe 4 (h.readSlot * 2 ^ 20 + h.readOrigin) ++
    toLe 4 (h.writeSlot * 2 ^ 20 + h.writeOrigin) ++ toLe 2 h.index ++ toLe 1 (2 * h.quad + h.line.toNat) ++ toLe 1 h.slot ++
    toLe 4 0

/-- An error log entry (R555). -/
def LogEntry.bytes (e : LogEntry) : List Byte :=
  toLe 8 e.time ++ bytesOf 2 e.code ++ bytesOf 2 e.inst ++ bytesOf 1 e.ctx ++ [0] ++ bytesOf 2 e.emcy ++ bytesOf 8 e.value ++
    bytesOf 8 e.address

/-- One position of the roster (R449). -/
def State.rosterWord (s : State) (p : Nat) : Nat :=
  match s.ring.roster.find? (fun e => e.pos = p) with
  | some e => e.ident.toNat + (if e.master then 2 else 1) * 2 ^ 30
  | none => 0

/-- BANK_HEALTH of a bank (R519). -/
def State.bankHealth (s : State) (u : Nat) : Nat :=
  let b := s.bank u
  let inBank (ps : List Nat) : Nat := (ps.filter (fun p => decide (bankOfPlot p = u))).length
  b.cePass.toNat * 2 ^ 48 + b.hard.toNat * 2 ^ 32 + inBank s.health.retired * 2 ^ 16 + min 255 (inBank s.health.queued) * 2 ^ 8 +
    b.watch.toNat * 2 + b.ueSeen.toNat

/-! ## Values -/

/-- Period of a TPDO (R514). -/
def evDefault (t : Nat) : BitVec 16 := if t < 2 then 100 else 1000
def Mgmt.period (m : Mgmt) (t : Nat) : BitVec 16 := tget (evDefault t) m.eventTime t

/-- Mapped objects of a TPDO: index, sub-index, bits (R511). -/
def tpdoMap (t : Nat) : List (Nat × Nat × Nat) :=
  match t with
  | 0 => [(0x2205, 1, 32), (0x2205, 3, 64), (0x2202, 0, 16)] ++ (span 1 4).map (fun i => (0x2206, i, 16)) ++
      (span 1 4).map (fun i => (0x2207, i, 8)) ++ [(0x2209, 2, 16), (0x2200, 0, 8), (0x2100, 2, 16)]
  | 1 => (span 1 24).map (fun i => (0x2300, i, 16))
  | 2 => (span 1 5).map (fun i => (0x2740, i, 8)) ++ (span 1 4).map (fun i => (0x2741, i, 16)) ++
      [(0x2500, 1, 8), (0x2600, 1, 8), (0x2600, 3, 8), (0x2620, 0, 32), (0x2522, 1, 16), (0x2523, 1, 16)]
  | _ => (span 1 4).map (fun i => (0x2901, i, 32)) ++
      [(0x2440, 1, 32), (0x2440, 2, 32), (0x2510, 1, 32), (0x2630, 1, 32)]

/-- Frame length of a TPDO (R511). -/
def tpdoBytes (t : Nat) : Nat := match t with
  | 0 => 32
  | 1 => 48
  | 2 => 24
  | _ => 32

/-- The bytes of a firmware slot (R521, R526): as at manufacture until Transfer FW has written it. -/
def State.fwImage (s : State) (i : Nat) : List Byte :=
  match tget none s.sec.slots i with
  | some b => b
  | none => Config.fwSlot i

def fwNat (b : List Byte) (a n : Nat) : Nat := leNat ((b.drop a).take n)

/-- A slot is valid (R526, R527). -/
def fwValid (b : List Byte) : Bool :=
  let n := fwNat b 8 4
  decide (fwNat b 0 4 = 0x4D57465A ∧ 1 ≤ n ∧ n ≤ 25161728) &&
    Config.mlDsaVerify (b.take 0x40) ((b.drop 0x40).take 2420) &&
    (b.drop 0x20).take 32 == sha3 ((b.drop 0x1000).take n)

/-- SLOT_A_VERSION, SLOT_B_VERSION (R527). -/
def State.slotVersion (s : State) (i : Nat) : Nat := if fwValid (s.fwImage i) then fwNat (s.fwImage i) 4 4 else 0

/-- POWER_MODE reads 2 while governed with a site in throttle or failed (R485). -/
def State.powerMode (s : State) : Nat :=
  if s.pow.mode = 0 ∧ (List.range 24).any (fun i => (s.site i).hot) then 2 else s.pow.mode.toNat

def State.powerFlags (s : State) : Nat :=
  s.pow.budgetUnmet.toNat + 2 * s.pow.telemetryLost.toNat + 4 * (!s.boot.pwrBrakeN).toNat + 8 * (s.pow.regWarning != 0).toNat

def State.clkStatus (s : State) : Nat :=
  s.clk.clkFault.toNat + 2 * s.clk.xtalLost.toNat + 4 * s.clk.itoFault.toNat + 8 * s.clk.refclk.toNat

/-- Capacity less retired plots (R4, R515). -/
def State.capacity (s : State) : Nat := 1374389534720 - 65536 * s.health.retired.length

def stackSum (s : State) (f : Stack → Nat) : Nat := (List.range 20).foldl (fun n i => n + f (s.stack i)) 0

/-- Values of 0x1000 to 0x2000. -/
def State.odProfileVal (s : State) (idx sub : Nat) : List Byte :=
  let n := s.mgmt.nodeId.toNat
  match idx with
  | 0x1000 => toLe 4 0
  | 0x1001 => bytesOf 1 (errorRegister s.mgmt)
  | 0x1003 => if sub = 0 then toLe 1 s.mgmt.history.length else bytesOf 4 (s.mgmt.history.getD (sub - 1) 0)
  | 0x1008 => [0x5A, 0x69, 0x6C, 0x64, 0x61, 0x6D, 0x6F, 0x6E, 0x20, 0x5A, 0x44, 0x2D, 0x31, 0x32, 0x38, 0x30]
  | 0x1009 => [0x41, 0x31]
  | 0x100A => Config.versionText s.sec.fwVersion
  | 0x1010 => toLe 4 1
  | 0x1011 => toLe 4 1
  | 0x1014 => toLe 4 (0x80 + n)
  | 0x1015 => bytesOf 2 s.mgmt.emcyInhibit
  | 0x1017 => bytesOf 2 s.mgmt.heartbeat
  | 0x1018 => toLe 4 (match sub with
      | 1 => 0x0E3A
      | 2 => if Config.partIsAE then 0x1280E else 0x1280C
      | 3 => 0x00010001
      | _ => Config.serial.toNat)
  | 0x2000 => match sub with
      | 1 => if Config.partIsAE then [0x5A, 0x44, 0x31, 0x32, 0x38, 0x30, 0x2D, 0x41, 0x45] else [0x5A, 0x44, 0x31, 0x32, 0x38, 0x30, 0x2D, 0x41, 0x43]
      | 2 => [0x41, 0x31]
      | 3 => Config.serialText
      | 4 => toLe 8 s.capacity
      | 5 => bytesOf 4 s.sec.fwVersion
      | 6 => bytesOf 4 s.sec.loaderVersion
      | 7 => [1]
      | _ => toLe 1 s.boot.stage.val
  | _ =>
    let t := idx % 4
    if idx < 0x1A00 then
      (match sub with
       | 1 => toLe 4 (0x180 + 0x100 * t + n)
       | 2 => [254]
       | _ => bytesOf 2 (s.mgmt.period t))
    else
      let m := (tpdoMap t).getD (sub - 1) (0, 0, 0)
      toLe 4 (m.1 * 65536 + m.2.1 * 256 + m.2.2)

/-- Values of 0x2100 to 0x2304. -/
def State.odPlantVal (s : State) (idx sub : Nat) : List Byte :=
  let c := s.clk
  let p := s.pow
  let i := sub - 1
  match idx with
  | 0x2100 => match sub with
      | 1 => bytesOf 1 c.source
      | 2 => toLe 2 s.clkStatus
      | _ => bytesOf 1 c.attempts
  | 0x2102 => match sub with
      | 1 => bytesOf 1 c.fmc.measured
      | 2 => bytesOf 1 c.fmc.reference
      | 3 => bytesOf 4 c.fmc.gate
      | 4 => bytesOf 1 c.fmc.stack
      | 5 => bytesOf 1 c.fmc.die
      | 7 => bytesOf 1 c.fmc.status
      | _ => bytesOf 4 c.fmc.count
  | 0x2103 => bytesOf 1 (s.gate i).state
  | 0x2105 => bytesOf 4 (s.gate i).timeouts
  | 0x2106 => bytesOf 4 c.quadIdle
  | 0x2107 => bytesOf 4 c.trips
  | 0x2200 => toLe 1 s.powerMode
  | 0x2201 => bytesOf 2 p.budget
  | 0x2202 => toLe 2 s.budgetInForce
  | 0x2203 => bytesOf 2 p.brakeBudget
  | 0x2204 => bytesOf 2 p.fixedRate
  | 0x2205 => match sub with
      | 1 => toLe 4 p.pAvg
      | 2 => toLe 4 p.pBase
      | _ => toLe 8 (p.energy / 10000)
  | 0x2206 => toLe 2 (s.rateInForce i)
  | 0x2207 => toLe 1 (s.quad i).point
  | 0x2208 => match sub with
      | 1 => bytesOf 1 p.fastLimit
      | 2 => bytesOf 1 p.slowLimit
      | _ => bytesOf 2 p.lateHoldoff
  | 0x2209 => if sub = 1 then bytesOf 4 p.ceilings else toLe 2 s.powerFlags
  | 0x220A => (List.range 8).flatMap (fun r => bytesOf 16 (tget 0 p.rails r))
  | 0x220B => bytesOf 1 s.boot.shutCause
  | 0x2300 => bytesOf 2 (s.site i).temp
  | 0x2301 => if (s.site i).failed then [4] else bytesOf 1 (s.site i).level
  | 0x2302 => match sub with
      | 1 => bytesOf 1 s.therm.hubWarn
      | 2 => bytesOf 1 s.therm.hubThrottle
      | 3 => [115]
      | 4 => bytesOf 1 s.therm.stackWarn
      | 5 => bytesOf 1 s.therm.stackThrottle
      | _ => [105]
  | 0x2303 => bytesOf 2 ((s.site i).maxTemp.getD 0)
  | _ => bytesOf 4 (s.site i).fails

/-- Values of 0x2410 to 0x2630. -/
def State.odFabricVal (s : State) (idx sub : Nat) : List Byte :=
  let i := sub - 1
  let k := s.stack i
  let h := s.host
  let r := s.ring
  match idx with
  | 0x2410 => bytesOf 4 k.steals
  | 0x2411 => bytesOf 4 k.replays
  | 0x2412 => bytesOf 2 k.recoveries
  | 0x2413 => bytesOf 4 k.slateHolds
  | 0x2414 => bytesOf 4 k.neighbours
  | 0x2415 => bytesOf 1 k.band
  | 0x2416 => toLe 1 (s.hot i).toNat
  | 0x2420 => bytesOf 2 k.rdThreshold
  | 0x2430 => bytesOf 1 s.health.scrubHours
  | 0x2431 => toLe 4 (s.scrubLag i)
  | 0x2432 => bytesOf 4 k.ceScrub
  | 0x2433 => bytesOf 4 k.hardErrors
  | 0x2434 => bytesOf 4 k.ueCount
  | 0x2435 => bytesOf 2 s.health.ceBankLimit
  | 0x2436 => bytesOf 1 s.health.hardLimit
  | 0x2440 => match sub with
      | 1 => toLe 4 s.health.retired.length
      | 2 => toLe 4 s.health.queued.length
      | 3 => s.health.retired.flatMap (toLe 4)
      | _ => toLe 1 (decide (s.health.retired.length ≥ 65536)).toNat
  | 0x2441 => toLe 4 (s.banks.filter (fun b => inStack i b.1 && b.2.watch)).length
  | 0x2450 => bytesOf 4 s.health.freqChanges
  | 0x2500 => match sub with
      | 1 => bytesOf 1 h.linkState
      | 2 => bytesOf 1 h.linkWidth
      | _ => bytesOf 1 h.linkSpeed
  | 0x2501 => toLe 1 h.fullMap.toNat
  | 0x2502 => toLe 1 h.paneUnchecked.toNat
  | 0x2503 => bytesOf 4 h.doorbellHold
  | 0x2510 => match sub with
      | 1 => bytesOf 4 h.hostLostEvents
      | 2 => bytesOf 4 h.retrains
      | _ => bytesOf 4 h.discarded
  | 0x2511 => bytesOf 4 (s.cfg i).staleDoorbells
  | 0x2520 => bytesOf 4 h.paneFaults
  | 0x2521 => bytesOf 4 h.ringDrops
  | 0x2522 => if sub = 1 then toLe 2 h.deferred.length else bytesOf 4 h.deferMax
  | 0x2523 => toLe 2 s.bufferUse
  | 0x2600 => match sub with
      | 1 => bytesOf 1 r.state
      | 2 => bytesOf 1 r.position
      | 3 => toLe 1 (if s.inRing then r.roster.length else 0)
      | 4 => bytesOf 2 r.masterId
      | 5 => bytesOf 1 r.depth
      | _ => bytesOf 1 r.joinResult
  | 0x2601 => bytesOf 2 r.moduleId
  | 0x2602 => bytesOf 1 r.enable
  | 0x2603 => bytesOf 4 r.name
  | 0x2604 => bytesOf 1 r.priority
  | 0x2605 => bytesOf 4 r.bellStored
  | 0x2607 => (List.range 64).flatMap (fun p => toLe 4 (s.rosterWord p))
  | 0x2610 => bytesOf 1 (s.port i).st
  | 0x2611 => bytesOf 4 (s.port i).fecCorrected
  | 0x2612 => bytesOf 4 (s.port i).fecUncorrected
  | 0x2613 => bytesOf 4 (s.port i).replays
  | 0x2614 => bytesOf 4 (s.port i).hopDelay
  | 0x2620 => bytesOf 4 r.timeError
  | 0x2621 => bytesOf 4 r.timeSteps
  | _ => match sub with
      | 1 => bytesOf 4 r.fences
      | 2 => bytesOf 2 r.lastFenced
      | _ => bytesOf 4 r.elections

/-- Values of 0x2700 to 0x333F. -/
def State.odRunVal (s : State) (idx sub : Nat) : List Byte :=
  let i := sub - 1
  match idx with
  | 0x2700 => toLe 1 (s.quad i).shared.toNat
  | 0x2701 => toLe 1 (if (s.ctx i).live then (s.ctx i).span.toNat else 0)
  | 0x2702 => bytesOf 8 (s.ctx i).lessons
  | 0x2710 => bytesOf 1 (s.cfg i).priority
  | 0x2711 => bytesOf 4 s.mgmt.quantum
  | 0x2720 => bytesOf 4 (s.cfg i).plotQuota
  | 0x2721 => toLe 4 (s.plotUse i)
  | 0x2722 => bytesOf 2 (s.cfg i).stageQuota
  | 0x2723 => toLe 2 (s.stageUse i)
  | 0x2730 => toLe 1 (s.quad i).hazard.toNat
  | 0x2740 => if sub = 5 then bytesOf 1 s.mgmt.moduleSat else bytesOf 1 (s.quad i).satCode
  | 0x2741 => bytesOf 2 (s.quad i).satFlags
  | 0x2800 => bytesOf 1 s.sync.ordering
  | 0x2801 => bytesOf 1 s.sync.rollLead
  | 0x2802 => bytesOf 4 (s.cfg i).waitLimit
  | 0x2803 => bytesOf 2 (s.cfg i).penQuota
  | 0x2804 => toLe 2 (s.penUse i)
  | 0x2810 => if sub = 1 then bytesOf 2 s.sync.penSelect else toLe 16 (s.penRecord s.sync.penSelect.toNat)
  | 0x2811 => if sub = 1 then bytesOf 1 s.sync.rollSelect else toLe 32 (s.rollCall s.sync.rollSelect.toNat).record
  | 0x2812 => match sub with
      | 1 => bytesOf 4 s.sync.rollLate
      | 2 => bytesOf 4 s.sync.rollDrop
      | 3 => bytesOf 4 s.sync.penSat
      | _ => bytesOf 4 s.sync.waitTimeouts
  | 0x2900 => if sub = 1 then s.mgmt.log.flatMap LogEntry.bytes else bytesOf 4 s.mgmt.logCount
  | 0x2901 => toLe 4 (match sub with
      | 1 => stackSum s (fun k => k.ueCount.toNat)
      | 2 => s.health.ceTotal.toNat
      | 3 => stackSum s (fun k => k.steals.toNat)
      | _ => stackSum s (fun k => k.replays.toNat))
  | 0x2902 => bytesOf 2 s.faultCause
  | 0x2904 => bytesOf 4 s.mgmt.emcyDropped
  | 0x2A00 => match sub with
      | 1 => bytesOf 1 s.sec.activeSlot
      | 2 => toLe 4 (s.slotVersion 0)
      | 3 => toLe 4 (s.slotVersion 1)
      | _ => bytesOf 1 s.sec.nextSlot
  | 0x2A01 => bytesOf 32 s.sec.identityDigest
  | 0x2A02 => bytesOf 1 s.sec.calStatus
  | 0x2A03 => bytesOf 4 s.sec.spdmRequests
  | _ =>
    if idx < 0x2754 then (tget [] (s.cfg i).hazLog (idx - 0x2750)).flatMap HazRec.bytes
    else if idx < 0x275C then bytesOf 4 (tget 0 (s.cfg i).hazCount (idx - 0x2758))
    else if idx < 0x3200 then toLe 16 ((s.quad (idx / 16 % 16)).sbRecord (64 * (idx % 16) + i))
    else toLe 8 (s.bankHealth (bankNo ((idx - 0x3200) / 16) (idx % 16) i))

/-- The value of an existing entry; sub-index 0 of an index with more entries is the highest one (R490). -/
def State.odValue (s : State) (idx sub : Nat) : List Byte :=
  if sub = 0 ∧ (odEntries idx).any (fun es => decide (es.length > 1)) ∧ idx ≠ 0x1003 then
    toLe 1 (((odEntries idx).getD []).foldl (fun n e => max n e.sub) 0)
  else if idx ≤ 0x2000 then s.odProfileVal idx sub
  else if idx < 0x2400 then s.odPlantVal idx sub
  else if idx < 0x2700 then s.odFabricVal idx sub
  else s.odRunVal idx sub

end Sys2Proof.Machine
end

