-- ==== Sys2Proof/Machine/Write.lean ====
section
/-! DEFINITION. Writes of the dictionary and of BAR0, reads over the mailbox, snapshots, stored values (R4, R6, R22, R161, R177, R180,
R310, R350, R363, R366, R368, R398, R445, R454, R485 to R498, R501, R512, R513, R522, R536). -/

namespace Sys2Proof.Machine

/-! ## Ranges (R493) -/

/-- The value written lies in its entry's range (R6, R22, R161, R310, R336, R350, R363, R412, R449, R454, R484 to R488, R514 to
R518). -/
def State.odRange (s : State) (idx sub v : Nat) : Bool :=
  let t := s.therm
  match idx with
  | 0x1003 => v == 0
  | 0x1010 => v == 0x65766173
  | 0x1011 => v == 0x64616F6C
  | 0x2101 => v == 1
  | 0x2102 => match sub with
      | 1 => decide (v < 32)
      | 2 => decide (v < 32)
      | 3 => decide (1 ≤ v ∧ v ≤ 16777216)
      | 4 => decide (v < 20)
      | 5 => decide (v < 16)
      | _ => v == 1
  | 0x2104 => decide (v = 1 ∨ v = 2)
  | 0x2200 => decide (v ≤ 1)
  | 0x2201 => budgetOk v
  | 0x2203 => budgetOk v
  | 0x2204 => decide (32 ≤ v ∧ v ≤ 256)
  | 0x2208 => match sub with
      | 1 => decide (v ≤ 3 ∧ v ≤ s.pow.slowLimit.toNat)
      | 2 => decide (v ≤ 3 ∧ s.pow.fastLimit.toNat ≤ v)
      | _ => true
  | 0x2302 => match sub with
      | 1 => decide (60 ≤ v ∧ v ≤ 95 ∧ v < t.hubThrottle.toNat)
      | 2 => decide (60 ≤ v ∧ v ≤ 100 ∧ t.hubWarn.toNat < v)
      | 4 => decide (60 ≤ v ∧ v ≤ 85 ∧ v < t.stackThrottle.toNat)
      | _ => decide (60 ≤ v ∧ v ≤ 92 ∧ t.stackWarn.toNat < v)
  | 0x2420 => decide (256 ≤ v ∧ v ≤ 4096)
  | 0x2430 => decide (1 ≤ v ∧ v ≤ 168)
  | 0x2436 => decide (1 ≤ v ∧ v ≤ 64)
  | 0x2501 => decide (v ≤ 1)
  | 0x2502 => decide (v ≤ 1)
  | 0x2503 => decide (1 ≤ v ∧ v ≤ 10000)
  | 0x2601 => decide (v < 16384)
  | 0x2602 => decide (v ≤ 1)
  | 0x2605 => decide (256 ≤ v ∧ v ≤ 1000000 ∧ v % 64 = 0)
  | 0x2606 => decide (v = 1 ∨ v = 2)
  | 0x2710 => decide (v ≤ 3)
  | 0x2711 => decide (256 ≤ v ∧ v ≤ 1048576)
  | 0x2730 => decide (v ≤ 1)
  | 0x2758 => v == 0
  | 0x2759 => v == 0
  | 0x275A => v == 0
  | 0x275B => v == 0
  | 0x2800 => decide (v ≤ 1)
  | 0x2801 => decide (1 ≤ v ∧ v ≤ 64)
  | 0x2803 => decide (v ≤ 1024)
  | 0x2810 => decide (v < 16384)
  | 0x2811 => decide (v < 64)
  | 0x2900 => v == 1
  | 0x2903 => v == 0x74736572
  | 0x2A00 => decide (v ≤ 1 ∨ v = 255)
  | _ => if 0x1800 ≤ idx ∧ idx ≤ 0x1803 then decide (v = 0 ∨ 10 ≤ v) else true

/-- The state of the module lets the write act (R177, R310, R368, R430, R433, R449, R454, R485, R486, R493). -/
def State.odAllowed (s : State) (tenant : Option Nat) (idx sub v : Nat) : Bool :=
  match idx with
  | 0x2101 => s.clk.laterSuccess || !s.clk.clkFault
  | 0x2102 => sub == 6 || s.clk.fmc.status != 1
  | 0x2200 => s.ctxs.all (fun c => c.2.dismissed && !c.2.resetting)
  | 0x2501 => match tenant with
      | none => true
      | some c => (s.ctx c).span == 15 && (List.range 4).all (fun q => !(s.quad q).shared)
  | 0x2601 => s.outOfRing
  | 0x2603 => s.outOfRing
  | 0x2606 => v != 1 || s.outOfRing
  | 0x2730 => s.allDismissed (sub - 1)
  | 0x2800 => v == 1 || (decide (s.boot.stage = 7) && s.sync.recoveries.isEmpty)
  | _ => true

/-- Entries held in hub SRAM or the sequencers need main power (R499). -/
def needsMain (idx sub : Nat) : Bool :=
  decide ((0x2750 ≤ idx ∧ idx ≤ 0x275B) ∨ (idx = 0x2810 ∧ sub = 2) ∨ (idx = 0x2811 ∧ sub = 2) ∨ (0x3100 ≤ idx ∧ idx < 0x3200))

def State.odAvailable (s : State) (idx sub : Nat) : Bool := !needsMain idx sub || decide (s.boot.stage.val ≥ 5)

/-! ## Effects -/

def State.modClk (s : State) (f : Clocks → Clocks) : State := { s with clk := f s.clk }
def State.modFmc (s : State) (f : Fmc → Fmc) : State := s.modClk (fun c => { c with fmc := f c.fmc })
def State.modPow (s : State) (f : Power → Power) : State := { s with pow := f s.pow }
def State.modMgmt (s : State) (f : Mgmt → Mgmt) : State := { s with mgmt := f s.mgmt }
def State.modHost (s : State) (f : HostSide → HostSide) : State := { s with host := f s.host }
def State.modSync (s : State) (f : Sync → Sync) : State := { s with sync := f s.sync }
def State.modRing (s : State) (f : Ring → Ring) : State := { s with ring := f s.ring }
def State.modTherm (s : State) (f : Thermal → Thermal) : State := { s with therm := f s.therm }
def State.modHealth (s : State) (f : Health → Health) : State := { s with health := f s.health }
def State.modSec (s : State) (f : Sec → Sec) : State := { s with sec := f s.sec }

/-- RD_THRESHOLD (R350, R361, R363): the watch of every bank of the stack ends. -/
def State.setThreshold (s : State) (st v : Nat) : State :=
  let s := s.modStack st (fun k => { k with rdThreshold := BitVec.ofNat 16 v })
  { s with banks := tmap Bank.init s.banks (inStack st) (fun b => { b with watch := false }) }

/-- BELL_PERIOD (R24, R445): stored; in force at once without a ring, ring-wide at CHANGE_AT on the master. -/
def State.setBellPeriod (s : State) (v : Nat) : State :=
  let s := s.modRing (fun r => { r with bellStored := BitVec.ofNat 32 v })
  if s.ring.state = 3 then s.schedulePeriod v
  else if s.ring.state = 2 then s
  else s.ownPeriod

/-- RING_CMD (R430, R433). -/
def State.ringCmd (s : State) (v : Nat) : State := if v = 1 then s.beginJoin else s.leaveRing

/-- A part of a credential digest is written; the last one puts the digest in effect and closes the sessions opened under the
old one (R536). Role 0 is the operator, 1 + c the tenant of context c; part k holds bytes 8k to 8k + 7. -/
def State.writeDigest (s : State) (role part v : Nat) : State :=
  let d := setBits (tget 0 s.sec.parts role) (64 * part) 64 v
  let s := s.modSec (fun x => { x with parts := tset 0 x.parts role d })
  if part = 3 then
    let s := s.modSec (fun x => { x with digests := tset 0 x.digests role d })
    s.modHost (fun h => { h with
      sessions := h.sessions.filter (fun y => decide ((match y.tenant with
        | none => 0
        | some c => 1 + c) ≠ role)) })
  else s

/-- The hazard log of a context in a quadrant is emptied (R180). -/
def State.clearHazards (s : State) (q c : Nat) : State :=
  s.modCfg c (fun g => { g with hazLog := tset [] g.hazLog q [], hazCount := tset 0 g.hazCount q 0 })

/-- CLK_ACK (R454). -/
def Clocks.ack (c : Clocks) : Clocks := { c with clkFault := false, laterSuccess := false }

/-- Entries of the stored set (R513): index and sub-index. -/
def storedSet : List (Nat × Nat) :=
  [(0x1003, 0), (0x1010, 1), (0x1011, 1), (0x1015, 0), (0x1017, 0)] ++ (List.range 4).map (fun t => (0x1800 + t, 5)) ++ (span 1 5).map (fun i => (0x2102, i)) ++
    [(0x2106, 0), (0x2200, 0), (0x2201, 0), (0x2203, 0), (0x2204, 0), (0x2208, 1), (0x2208, 2), (0x2208, 3), (0x2302, 1),
     (0x2302, 2), (0x2302, 4), (0x2302, 5)] ++ (span 1 20).map (fun i => (0x2420, i)) ++
    [(0x2430, 0), (0x2435, 0), (0x2436, 0), (0x2501, 0), (0x2502, 0), (0x2503, 0), (0x2601, 0), (0x2602, 0), (0x2603, 0),
     (0x2604, 0), (0x2605, 0)]

/-- STORE (R513, R522): the present values go to the copy with the next sequence number; POWER_MODE is stored as set. -/
def State.storeValues (s : State) : State :=
  let es := storedSet.map (fun p =>
    (p.1 * 256 + p.2, if p.1 = 0x2200 then bytesOf 1 s.pow.mode else s.odValue p.1 p.2))
  s.modMgmt (fun m => { m with stored := ⟨true, m.stored.seqNo + 1, es⟩ })

/-- The effect of an accepted write of value v. -/
def State.odSet (s : State) (tenant : Option Nat) (idx sub v : Nat) : State :=
  let i := sub - 1
  match idx with
  | 0x1003 => s.modMgmt (fun m => { m with history := [] })
  | 0x1010 => s.storeValues
  | 0x1011 => s.modMgmt (fun m => { m with stored := { m.stored with valid := false } })
  | 0x1015 => s.modMgmt (fun m => { m with emcyInhibit := BitVec.ofNat 16 v })
  | 0x1017 => s.modMgmt (fun m => { m with heartbeat := BitVec.ofNat 16 v })
  | 0x2101 => s.modClk Clocks.ack
  | 0x2102 => s.modFmc (fun f => match sub with
      | 1 => { f with measured := BitVec.ofNat 8 v }
      | 2 => { f with reference := BitVec.ofNat 8 v }
      | 3 => { f with gate := BitVec.ofNat 32 v }
      | 4 => { f with stack := BitVec.ofNat 8 v }
      | 5 => { f with die := BitVec.ofNat 8 v }
      | _ => f.start)
  | 0x2104 => if v = 1 then s.requestClose i else s.demandGate i
  | 0x2106 => s.modClk (fun c => { c with quadIdle := BitVec.ofNat 32 v })
  | 0x2200 => s.modPow (fun p => { p with mode := BitVec.ofNat 8 v })
  | 0x2201 => (s.modPow (fun p => { p with budget := BitVec.ofNat 16 v })).budgetChanged s.budgetInForce 4000
  | 0x2203 =>
      let s' := s.modPow (fun p => { p with brakeBudget := BitVec.ofNat 16 v })
      if s.boot.pwrBrakeN then s' else s'.budgetChanged s.budgetInForce 4000
  | 0x2204 => s.modPow (fun p => { p with fixedRate := BitVec.ofNat 16 v })
  | 0x2208 => s.modPow (fun p => match sub with
      | 1 => { p with fastLimit := BitVec.ofNat 8 v }
      | 2 => { p with slowLimit := BitVec.ofNat 8 v }
      | _ => { p with lateHoldoff := BitVec.ofNat 16 v })
  | 0x2302 => s.modTherm (fun t => match sub with
      | 1 => { t with hubWarn := BitVec.ofNat 8 v }
      | 2 => { t with hubThrottle := BitVec.ofNat 8 v }
      | 4 => { t with stackWarn := BitVec.ofNat 8 v }
      | _ => { t with stackThrottle := BitVec.ofNat 8 v })
  | 0x2420 => s.setThreshold i v
  | 0x2430 => (s.modHealth (fun h => { h with scrubHours := BitVec.ofNat 8 v })).restartScrubs
  | 0x2435 => s.modHealth (fun h => { h with ceBankLimit := BitVec.ofNat 16 v })
  | 0x2436 => s.modHealth (fun h => { h with hardLimit := BitVec.ofNat 8 v })
  | 0x2501 => s.modHost (fun h => { h with fullMap := v == 1, fullMapBy := tenant })
  | 0x2502 => s.modHost (fun h => { h with paneUnchecked := v == 1 })
  | 0x2503 => s.modHost (fun h => { h with doorbellHold := BitVec.ofNat 32 v })
  | 0x2601 => s.modRing (fun r => { r with moduleId := BitVec.ofNat 16 v })
  | 0x2602 => s.modRing (fun r => { r with enable := BitVec.ofNat 8 v })
  | 0x2603 => s.modRing (fun r => { r with name := BitVec.ofNat 32 v })
  | 0x2604 => s.modRing (fun r => { r with priority := BitVec.ofNat 8 v })
  | 0x2605 => s.setBellPeriod v
  | 0x2606 => s.ringCmd v
  | 0x2710 => s.modCfg i (fun g => { g with priority := BitVec.ofNat 8 v })
  | 0x2711 => s.modMgmt (fun m => { m with quantum := BitVec.ofNat 32 v })
  | 0x2720 => s.modCfg i (fun g => { g with plotQuota := BitVec.ofNat 32 v })
  | 0x2722 => s.modCfg i (fun g => { g with stageQuota := BitVec.ofNat 16 v })
  | 0x2730 => s.modQuad i (fun x => { x with hazard := v == 1 })
  | 0x2758 => s.clearHazards 0 i
  | 0x2759 => s.clearHazards 1 i
  | 0x275A => s.clearHazards 2 i
  | 0x275B => s.clearHazards 3 i
  | 0x2800 => s.modSync (fun x => { x with ordering := BitVec.ofNat 8 v })
  | 0x2801 => s.modSync (fun x => { x with rollLead := BitVec.ofNat 8 v })
  | 0x2802 => s.modCfg i (fun g => { g with waitLimit := BitVec.ofNat 32 v })
  | 0x2803 => s.modCfg i (fun g => { g with penQuota := BitVec.ofNat 16 v })
  | 0x2810 => s.modSync (fun x => { x with penSelect := BitVec.ofNat 16 v })
  | 0x2811 => s.modSync (fun x => { x with rollSelect := BitVec.ofNat 8 v })
  | 0x2900 => s.modMgmt (fun m => { m with log := [], logCount := 0 })
  | 0x2903 => s.moduleReset
  | 0x2A00 => s.modSec (fun x => { x with nextSlot := BitVec.ofNat 8 v })
  | 0x2A04 => s.writeDigest 0 i v
  | 0x2A05 => s.writeDigest (1 + i / 4) (i % 4) v
  | _ =>
    if 0x1800 ≤ idx ∧ idx ≤ 0x1803 then
      s.modMgmt (fun m => { m with eventTime := tset (evDefault (idx - 0x1800)) m.eventTime (idx - 0x1800) (BitVec.ofNat 16 v) })
    else s

/-- Abort code of a write (R493): the first row that applies. -/
def State.odWriteAbort (s : State) (tenant : Option Nat) (idx sub : Nat) (value : List Byte) : Word32 :=
  match odEntries idx, odEntry idx sub with
  | none, _ => Abort.noIndex
  | some _, none => Abort.noSub
  | some _, some e =>
    let v := leNat value
    if e.acc = .const ∨ e.acc = .ro then Abort.readOnly
    else if e.ty ≠ .num value.length then Abort.length
    else if s.odRange idx sub v = false then Abort.range
    else if s.odAllowed tenant idx sub v = false then Abort.state
    else if s.odAvailable idx sub = false then Abort.unavailable
    else Abort.none

/-- Abort code of a read (R493). -/
def State.odReadAbort (s : State) (idx sub : Nat) : Word32 :=
  match odEntries idx, odEntry idx sub with
  | none, _ => Abort.noIndex
  | some _, none => Abort.noSub
  | some _, some e =>
    if e.acc = .wo then Abort.writeOnly
    else if s.odAvailable idx sub = false then Abort.unavailable
    else Abort.none

/-- A write: its abort code, and the state with its effect when that is 0 (R493, R494). -/
def State.odWrite (s : State) (tenant : Option Nat) (idx sub : Nat) (value : List Byte) : Word32 × State :=
  let a := s.odWriteAbort tenant idx sub value
  (a, if a = Abort.none then s.odSet tenant idx sub (leNat value) else s)

/-! ## Writes over CAN FD (R499, R503 to R507) -/

/-- A message on the bus: its identifier is a base plus the node-ID (R506). -/
def State.canSend (s : State) (base : Nat) (bytes : List Byte) : State := s.emit (.can (base + s.mgmt.nodeId.toNat) bytes)

def State.usdoAbort (s : State) (a : Word32) : State := s.emit (.abort (0x580 + s.mgmt.nodeId.toNat) a)

/-- The answer to a download: the entry it wrote (log 12). -/
def State.usdoAck (s : State) (idx sub : Nat) : State := s.canSend 0x580 (toLe 2 idx ++ toLe 1 sub)

/-- A value that is received whole is written; MOD_RESET is answered before it begins (R517). -/
def State.usdoWrite (s : State) (idx sub : Nat) (value : List Byte) : State :=
  let r := s.odWrite none idx sub value
  if r.1 ≠ Abort.none then s.usdoAbort r.1
  else if idx = 0x2903 then ((s.usdoAck idx sub).odWrite none idx sub value).2
  else r.2.usdoAck idx sub

/-- A write of an entry by the operator, over CAN FD (R499, R504, R505; log 51): an expedited download, which a server that does not run
never sees, and one with a transfer in progress turns away (R507). -/
def State.operatorWrite (s : State) (idx sub : Nat) (value : List Byte) : State :=
  if s.usdoUp = false then s
  else if s.mgmt.usdo.isSome then s.usdoAbort Abort.busy
  else s.usdoWrite idx sub value

/-! ## Roles (R501) -/

/-- Entries whose sub-index c + 1 the tenant of context c may read. -/
def tenantIndices : List Nat :=
  [0x2701, 0x2702, 0x2710, 0x2720, 0x2721, 0x2722, 0x2723, 0x2750, 0x2751, 0x2752, 0x2753, 0x2758, 0x2759, 0x275A, 0x275B,
   0x2803, 0x2804, 0x2511, 0x2802]

def State.tenantReads (s : State) (c idx sub : Nat) : Bool :=
  let readOnly := match odEntry idx sub with
    | some e => decide (e.acc = .const ∨ e.acc = .ro)
    | none => false
  (decide ((0x1000 ≤ idx ∧ idx ≤ 0x1018) ∨ idx = 0x2000) && readOnly) ||
    (tenantIndices.contains idx && sub == c + 1) ||
    (decide (idx = 0x2740 ∨ idx = 0x2741) && decide (1 ≤ sub ∧ sub ≤ 4) && (s.ctx c).span.getLsbD (sub - 1)) ||
    (idx == 0x2740 && sub == 5) || (idx == 0x2500 && decide (1 ≤ sub ∧ sub ≤ 3)) || (idx == 0x2501 && sub == 0)

def tenantWrites (c idx sub : Nat) : Bool := (idx == 0x2802 && sub == c + 1) || (idx == 0x2501 && sub == 0)

/-! ## The mailbox (R497, R512) -/

/-- A dictionary command of a session, from stage B4 (R376, R499). -/
def State.odRequest (s : State) (h : Word64) (f : Session → State) : State :=
  if s.boot.cxlReleased = false then s
  else match s.session h with
    | none => s.answer Code.accessDenied []
    | some y => f y

def State.setSnapshot (s : State) (h : Word64) (x : Option (Nat × List Byte)) : State :=
  s.modHost (fun y => { y with sessions := y.sessions.map (fun z => if z.handle = h then { z with snapshot := x } else z) })

/-- A session's snapshot has been read just now. -/
def State.touch (s : State) (h : Word64) : State :=
  s.modMgmt (fun m => { m with snapOrder := m.snapOrder.filter (fun k => decide (k ≠ h)) ++ [h] })

/-- Sessions with a snapshot, the one read least recently first. -/
def State.snapshots (s : State) : List Word64 :=
  s.mgmt.snapOrder.filter (fun k => s.host.sessions.any (fun y => decide (y.handle = k) && y.snapshot.isSome))

/-- A snapshot is taken: a fifth discards the one read least recently (R497). -/
def State.takeSnapshot (s : State) (h : Word64) (key : Nat) (bs : List Byte) : State :=
  let s := s.setSnapshot h none
  let s := match s.snapshots with
    | k :: rest => if rest.length ≥ 3 then s.setSnapshot k none else s
    | [] => s
  (s.setSnapshot h (some (key, bs))).touch h

/-- OD_READ's answer: abort code, TOTAL and the bytes from OFFSET (R512). -/
def odAnswer (bs : List Byte) (off len : Nat) : List Byte := toLe 4 0 ++ toLe 4 bs.length ++ (bs.drop off).take len

def odRefused (a : Word32) : List Byte := bytesOf 4 a ++ toLe 4 0

/-- OD_READ (R497, R501, R512, R554): an entry that is no DOMAIN has one piece, at OFFSET 0. -/
def execOdRead (h : Word64) (idx : BitVec 16) (sub : OdSub) (off len : Nat) (s : State) :
    Host.Outcome State Fault Refusal :=
  .next (s.odRequest h (fun y =>
    let i := idx.toNat
    let j := sub.sub.toNat
    let may := match y.tenant with
      | none => true
      | some c => s.tenantReads c i j
    let domain := decide ((odEntry i j).map (·.ty) = some .domain)
    let a := s.odReadAbort i j
    if may = false then s.answer Code.accessDenied []
    else if len > 4032 ∨ sub.reserved ≠ 0 then s.answer Code.badRequest []
    else if a ≠ Abort.none then s.answer Code.ok (odRefused a)
    else
      if domain = false then
        if off ≠ 0 then s.answer Code.badRequest [] else s.answer Code.ok (odAnswer (s.odValue i j) 0 len)
      else if off = 0 then
        let bs := s.odValue i j
        (s.takeSnapshot h (256 * i + j) bs).answer Code.ok (odAnswer bs 0 len)
      else match y.snapshot with
        | some (key, bs) =>
          if key = 256 * i + j then (s.touch h).answer Code.ok (odAnswer bs off len)
          else s.answer Code.ok (odRefused Abort.noSnapshot)
        | none => s.answer Code.ok (odRefused Abort.noSnapshot)))

/-- OD_WRITE (R494, R501, R512, R554). -/
def execOdWrite (h : Word64) (idx : BitVec 16) (sub : OdSub) (value : List Byte) (s : State) :
    Host.Outcome State Fault Refusal :=
  .next (s.odRequest h (fun y =>
    let may := match y.tenant with
      | none => true
      | some c => tenantWrites c idx.toNat sub.sub.toNat
    if may = false then s.answer Code.accessDenied []
    else if sub.reserved ≠ 0 then s.answer Code.badRequest []
    else
      let r := s.odWrite y.tenant idx.toNat sub.sub.toNat value
      if r.2.boot.cxlReleased then r.2.answer Code.ok (bytesOf 4 r.1) else r.2))

/-- SNAPSHOT_EXPIRY (R497): the n-th snapshot, counted from the one read least recently, has been unread for 10 s. -/
def execSnapshotExpiry (n : Nat) (s : State) : Host.Outcome State Fault Refusal :=
  .next (match s.snapshots[n]? with
    | some k => s.setSnapshot k none
    | none => s)

/-! ## BAR0 (R366, R383, R384, R398) -/

/-- Component registers, the HDM decoders' control words among them (R366; log 4): bit 9 commits a decoder. -/
def State.barComponent (s : State) (off : Nat) (v : Word64) : State :=
  let s := s.modHost (fun h => { h with barWindow := tset 0 h.barWindow off v })
  (List.range 2).foldl (fun (s : State) n =>
    if off = Config.hdmOffset + 0x20 + 0x20 * n then
      s.modHost (fun h => { h with hdm := setBits h.hdm n 1 (v.getLsbD 9).toNat })
    else s) s

/-- REPORT_BASE (R384, R398): a write while ENABLE is 1 is ignored. -/
def State.barReportBase (s : State) (c : Nat) (v : Word64) : State :=
  if (s.ctx c).live && !(s.ctx c).reportEnabled then s.modCtx c (fun x => { x with reportBase := setBits v 0 12 0 }) else s

/-- A word of a watch entry (R333): EXPECTED; LIMIT, PEN and TAG; CONTROL, whose bit 0 arms. -/
def Watch.word (w : Watch) (k : Nat) (v : Word64) : Watch :=
  if k = 0 then { w with expected := v }
  else if k = 1 then
    { w with limit := v.extractLsb' 0 32, pen := v.extractLsb' 32 16, tag := v.extractLsb' 48 16 }
  else if k = 2 then { w with armed := v.getLsbD 0 }
  else w

/-- A BAR0 register with no behaviour of its own; read-only and reserved places ignore the write (R383). A watch is written in 64-bit words
(R333, R384; log 81). -/
def State.barWrite (s : State) (off : Nat) (v : Word64) : State :=
  let page := off % 0x10000
  if 0x100000 ≤ off ∧ 0x1000 ≤ page ∧ page < 0x1400 then
    s.writeWatch ((off - 0x100000) / 0x10000) ((page - 0x1000) / 32) (fun w => w.word (page % 32 / 8) v)
  else if 0x10000 ≤ off ∧ off < 0x20000 then s.barComponent off v
  else if 0x100000 ≤ off ∧ off % 0x10000 = 0x40 then s.barReportBase ((off - 0x100000) / 0x10000) v
  else s

/-- REGISTER_WRITE (R493, R494). -/
def execRegisterWrite (t : RegTarget) (s : State) : Host.Outcome State Fault Refusal :=
  .next (match t with
    | .od idx sub value => s.operatorWrite idx.toNat sub.toNat value
    | .bar off value => s.barWrite off.toNat value)

/-! ## Entries whose writes act -/

/-- STORE (R513). -/
def execStore (v : Word32) (s : State) : Host.Outcome State Fault Refusal := .next (s.operatorWrite 0x1010 1 (bytesOf 4 v))

/-- RESTORE (R513). -/
def execRestore (v : Word32) (s : State) : Host.Outcome State Fault Refusal := .next (s.operatorWrite 0x1011 1 (bytesOf 4 v))

/-- NEXT_SLOT_WRITE (R513, R518). -/
def execNextSlotWrite (v : BitVec 8) (s : State) : Host.Outcome State Fault Refusal :=
  .next (s.operatorWrite 0x2A00 4 (bytesOf 1 v))

/-- ERROR_COUNT_CLEAR (R514). -/
def execErrorCountClear (v : BitVec 8) (s : State) : Host.Outcome State Fault Refusal :=
  .next (s.operatorWrite 0x1003 0 (bytesOf 1 v))

/-- ERR_LOG_CLEAR (R517, R555). -/
def execErrLogClear (v : BitVec 8) (s : State) : Host.Outcome State Fault Refusal :=
  .next (s.operatorWrite 0x2900 3 (bytesOf 1 v))

/-- MOD_RESET (R517, R541). -/
def execModReset (v : Word32) (s : State) : Host.Outcome State Fault Refusal :=
  .next (s.operatorWrite 0x2903 0 (bytesOf 4 v))

/-- CREDENTIAL_DIGEST_WRITE (R536). -/
def execCredentialDigestWrite (tenant : Option (Fin 16)) (part : Fin 4) (v : Word64) (s : State) :
    Host.Outcome State Fault Refusal :=
  .next (match tenant with
    | none => s.operatorWrite 0x2A04 (part.val + 1) (bytesOf 8 v)
    | some c => s.operatorWrite 0x2A05 (4 * c.val + part.val + 1) (bytesOf 8 v))

/-- HAZARD_LOG_CLEAR (R180). -/
def execHazardLogClear (q : Fin 4) (c : Fin 16) (v : Word32) (s : State) : Host.Outcome State Fault Refusal :=
  .next (s.operatorWrite (0x2758 + q.val) (c.val + 1) (bytesOf 4 v))

/-- RD_THRESHOLD_WRITE (R350, R363). -/
def execRdThresholdWrite (st : Fin 20) (v : BitVec 16) (s : State) : Host.Outcome State Fault Refusal :=
  .next (s.operatorWrite 0x2420 (st.val + 1) (bytesOf 2 v))

/-- PWR_BUDGET_WRITE (R6, R479, R481). -/
def execPwrBudgetWrite (brake : Bool) (v : BitVec 16) (s : State) : Host.Outcome State Fault Refusal :=
  .next (s.operatorWrite (if brake then 0x2203 else 0x2201) 0 (bytesOf 2 v))

/-- ORDERING_WRITE (R310). -/
def execOrderingWrite (v : BitVec 8) (s : State) : Host.Outcome State Fault Refusal :=
  .next (s.operatorWrite 0x2800 0 (bytesOf 1 v))

/-- FULL_MAP_WRITE (R368, R499, R501): by the operator over CAN FD, or by a tenant over the mailbox, from stage B4 (log 51). -/
def execFullMapWrite (tenant : Option (Fin 16)) (v : BitVec 8) (s : State) : Host.Outcome State Fault Refusal :=
  .next (match tenant with
    | none => s.operatorWrite 0x2501 0 (bytesOf 1 v)
    | some c =>
      if s.boot.cxlReleased = false then s
      else
        let r := s.odWrite (some c.val) 0x2501 0 (bytesOf 1 v)
        r.2.answer Code.ok (bytesOf 4 r.1))

/-- BELL_PERIOD_WRITE (R22, R445). -/
def execBellPeriodWrite (v : Word32) (s : State) : Host.Outcome State Fault Refusal :=
  .next (s.operatorWrite 0x2605 0 (bytesOf 4 v))

/-- CLK_ACK (R454). -/
def execClkAck (v : BitVec 8) (s : State) : Host.Outcome State Fault Refusal :=
  .next (s.operatorWrite 0x2101 0 (bytesOf 1 v))

/-- FMC_START (R467). -/
def execFmcStart (v : BitVec 8) (s : State) : Host.Outcome State Fault Refusal :=
  .next (s.operatorWrite 0x2102 6 (bytesOf 1 v))

end Sys2Proof.Machine
end

