-- ==== Sys2Proof/Machine/Can.lean ====
section
/-! DEFINITION. The CAN FD transport: NMT, USDO, heartbeat, TPDOs, emergencies, bus errors (R497, R500 to R511, R513). The fields of
a message after its identifier are in the order the rules name them (log 12). -/

namespace Sys2Proof.Machine

/-! ## NMT (R503, R505, R508, R513) -/

/-- Stored values whose index lies in a range are loaded from a valid copy (R513, R522). Those of 0x1003:00, 0x1010:01 and 0x1011:01, whose
writes only command, set nothing (R505, R514; DEDUCED, log 56). -/
def State.loadStored (s : State) (p : Nat → Bool) : State :=
  if s.mgmt.stored.valid then
    (s.mgmt.stored.entries.filter (fun e => p (e.1 / 256) && !([0x1003, 0x1010, 0x1011].contains (e.1 / 256)))).foldl
      (fun (s : State) e => s.odSet none (e.1 / 256) (e.1 % 256) (leNat e.2)) s
  else s

/-- Initialisation: straps read, stored communication values loaded, then Pre-operational with the boot-up message (R503, R505). -/
def State.nmtInit (s : State) : State :=
  let s := s.modMgmt (fun m => { m with nmt := .initialisation, nodeId := s.boot.straps, usdo := none })
  let s := s.loadStored (fun i => decide (0x1000 ≤ i ∧ i ≤ 0x1FFF))
  let s := s.modMgmt (fun m => { m with nmt := .preOperational })
  if s.canUp then s.canSend 0x700 [0] else s

/-- An NMT command is received: nothing but a silent port or a state before Pre-operational ignores it. -/
def State.nmtCommand (s : State) (f : State → State) : State :=
  if s.canUp = false ∨ s.mgmt.nmt = .initialisation then s else f s

/-- START_REMOTE_NODE (R505). -/
def execStartRemoteNode (s : State) : Host.Outcome State Fault Refusal :=
  .next (s.nmtCommand (fun s => s.modMgmt (fun m => { m with nmt := .operational })))

/-- STOP_REMOTE_NODE (R505). -/
def execStopRemoteNode (s : State) : Host.Outcome State Fault Refusal :=
  .next (s.nmtCommand (fun s => s.modMgmt (fun m => { m with nmt := .stopped })))

/-- ENTER_PRE_OPERATIONAL (R505). -/
def execEnterPreOperational (s : State) : Host.Outcome State Fault Refusal :=
  .next (s.nmtCommand (fun s => s.modMgmt (fun m => { m with nmt := .preOperational })))

/-- RESET_COMMUNICATION (R505): 0x1001 and 0x1003 keep their values. -/
def execResetCommunication (s : State) : Host.Outcome State Fault Refusal := .next (s.nmtCommand State.nmtInit)

/-- RESET_NODE (R505): 0x1001 and 0x1003 are cleared. -/
def execResetNode (s : State) : Host.Outcome State Fault Refusal :=
  .next (s.nmtCommand (fun s => (s.modMgmt (fun m => { m with conditions := [], history := [] })).nmtInit))

/-- The state byte of a heartbeat (R505). -/
def Nmt.byte (n : Nmt) : Byte :=
  match n with
  | .initialisation => 0
  | .preOperational => 0x7F
  | .operational => 0x05
  | .stopped => 0x04

/-- HEARTBEAT (R505, R508). -/
def execHeartbeat (s : State) : Host.Outcome State Fault Refusal :=
  .next (if s.canUp ∧ s.mgmt.heartbeat ≠ 0 ∧ s.mgmt.nmt ≠ .initialisation then s.canSend 0x700 [s.mgmt.nmt.byte] else s)

/-! ## USDO (R493, R494, R497, R507, R517) -/

def State.setUsdo (s : State) (x : Option (BitVec 16 × BitVec 8 × List Byte × Bool)) : State :=
  s.modMgmt (fun m => { m with usdo := x })

/-- USDO_DOWNLOAD (R493, R507): a value, expedited or by segments. A new request while a transfer is in progress is refused and the
transfer goes on; a segment of no transfer is none of the server's (log 60). -/
def execUsdoDownload (idx : BitVec 16) (sub : BitVec 8) (value : List Byte) (part : UsdoPart) (s : State) :
    Host.Outcome State Fault Refusal :=
  .next (if s.usdoUp = false then s
    else match s.mgmt.usdo, part with
      | none, .expedited => s.usdoWrite idx.toNat sub.toNat value
      | none, .first => s.setUsdo (some (idx, sub, value, false))
      | none, _ => s
      | some _, .expedited => s.usdoAbort Abort.busy
      | some _, .first => s.usdoAbort Abort.busy
      | some (i, j, bs, up), part =>
        if up = true ∨ i ≠ idx ∨ j ≠ sub then s.usdoAbort Abort.busy
        else if part = .last then (s.setUsdo none).usdoWrite idx.toNat sub.toNat (bs ++ value)
        else s.setUsdo (some (i, j, bs ++ value, false)))

/-- Data bytes of one upload segment (log 12). -/
def usdoSegment : Nat := 56

/-- A piece of a segmented upload leaves; the last one ends the transfer. -/
def State.usdoPiece (s : State) (idx : BitVec 16) (sub : BitVec 8) (bs : List Byte) : State :=
  let rest := bs.drop usdoSegment
  (s.setUsdo (if rest.isEmpty then none else some (idx, sub, rest, true))).canSend 0x580
    (bytesOf 2 idx ++ [sub] ++ bs.take usdoSegment)

/-- USDO_UPLOAD (R497, R507): a value is sent expedited; a DOMAIN is read as one snapshot, piece by piece. A new request while a
transfer is in progress is refused and the transfer goes on; a segment of no transfer is none of the server's (log 60). -/
def execUsdoUpload (idx : BitVec 16) (ask : UsdoAsk) (s : State) : Host.Outcome State Fault Refusal :=
  .next (let sub := ask.sub
    if s.usdoUp = false then s
    else match s.mgmt.usdo with
      | some (i, j, bs, up) =>
        if ask.segment = true ∧ up = true ∧ i = idx ∧ j = sub then s.usdoPiece idx sub bs else s.usdoAbort Abort.busy
      | none =>
        if ask.segment then s
        else
        let a := s.odReadAbort idx.toNat sub.toNat
        if a ≠ Abort.none then s.usdoAbort a
        else
          let bs := s.odValue idx.toNat sub.toNat
          if (odEntry idx.toNat sub.toNat).map (·.ty) = some .domain then s.usdoPiece idx sub bs
          else s.canSend 0x580 (bytesOf 2 idx ++ [sub] ++ bs))

/-- USDO_SEGMENT_TIMEOUT (R493): the transfer ends; a server that does not run says nothing (R504, R505). -/
def execUsdoSegmentTimeout (s : State) : Host.Outcome State Fault Refusal :=
  .next (match s.mgmt.usdo with
    | some _ =>
      let t := s.setUsdo none
      if s.usdoUp then t.usdoAbort Abort.segmentTimeout else t
    | none => s)

/-! ## Telemetry (R511) -/

/-- The content of a TPDO, padded with zeros. -/
def State.tpdoContent (s : State) (t : Nat) : List Byte :=
  let bs := (tpdoMap t).flatMap (fun m => s.odValue m.1 m.2.1)
  bs ++ List.replicate (tpdoBytes t - bs.length) 0

/-- TPDO (R511). -/
def execTpdo (t : Fin 4) (s : State) : Host.Outcome State Fault Refusal :=
  .next (if s.canUp ∧ s.mgmt.nmt = .operational ∧ s.mgmt.period t ≠ 0 then s.canSend (0x180 + 0x100 * t.val) (s.tpdoContent t)
    else s)

/-! ## Emergencies (R502, R509, R510) -/

/-- The 16 bytes of an EMCY message (R509). -/
def Emcy.bytes (e : Emcy) : List Byte :=
  bytesOf 2 e.code ++ [e.register, e.inst] ++ bytesOf 4 e.value ++ toLe 8 e.time

/-- An event that is entered in 0x1003 and the log and sent at once (R509). -/
def State.emcyNow (s : State) (code : BitVec 16) (value : Nat) : State :=
  let m := s.mgmt.emcy s.ring.timebase code 0 value 0xFF 0
  let e : Emcy := ⟨code, errorRegister s.mgmt, 0, BitVec.ofNat 32 value, s.ring.timebase⟩
  ({ s with mgmt := { m with emcyQ := s.mgmt.emcyQ, emcyLost := false, emcyDropped := s.mgmt.emcyDropped } } : State).canSend 0x80 e.bytes

/-- EMCY_SEND (R509): after messages have been lost the next one sent is 0x8110; otherwise the oldest that waits. -/
def execEmcySend (s : State) : Host.Outcome State Fault Refusal :=
  .next (if s.canUp = false ∨ s.mgmt.nmt = .initialisation ∨ s.mgmt.nmt = .stopped then s
    else if s.mgmt.emcyLost then s.emcyNow 0x8110 s.mgmt.emcyDropped.toNat
    else match s.mgmt.emcyQ with
      | [] => s
      | e :: es => (s.modMgmt (fun m => { m with emcyQ := es })).canSend 0x80 e.bytes)

/-- CAN_BUS_ERROR (R502, R509): the error counters lead into or out of error passive, or to bus-off. -/
def execCanBusError (st : CanState) (tec : BitVec 16) (s : State) : Host.Outcome State Fault Refusal :=
  .next (if s.canSilent = true ∨ s.mgmt.canState = .busOff then s
    else
      let s := s.modMgmt (fun m => { m with canState := st, tec := tec })
      match st with
      | .active => s.clearCondition 0x8120 0
      | .passive => s.raiseCondition 0x8120 0 tec.toNat
      | .busOff => s.modMgmt (fun m => { m with busOffs := bump m.busOffs 1 }))

/-- BUS_OFF_RECOVERY (R502, R509). -/
def execBusOffRecovery (s : State) : Host.Outcome State Fault Refusal :=
  .next (if s.mgmt.canState = .busOff then
      let s := s.modMgmt (fun m => { m with canState := .active, tec := 0 })
      (s.clearCondition 0x8120 0).emcyEvent 0x8140 0 s.mgmt.busOffs.toNat
    else s)

end Sys2Proof.Machine
end

