-- ==== Sys2Proof/Machine/Cxl.lean ====
section
/-! DEFINITION. The standard and firmware commands of the CXL mailbox and the SPDM responder (R364, R376, R405, R524 to R534). What
CXL 3.1 and SPDM 1.3 put into an answer beyond the spec's own words is Config's (log 12). -/

namespace Sys2Proof.Machine

/-! ## Standard commands (R364, R376) -/

/-- A mailbox command of CXL 3.1: it needs the port, and Busy answers it before B7 (R376). -/
def State.cxlCommand (s : State) (always : Bool) (f : State → State) : State :=
  if s.boot.cxlReleased = false then s
  else if always = false ∧ s.boot.stage ≠ 7 then s.cxlAnswer .busy []
  else f s

/-- IDENTIFY_MEMORY_DEVICE (R364, R365, R376): the capacity and what CXL 3.1 adds. -/
def execIdentifyMemoryDevice (s : State) : Host.Outcome State Fault Refusal :=
  .next (s.cxlCommand true (fun s => s.cxlAnswer .success (toLe 8 1374657970176 ++ Config.answerBytes 0x4000)))

/-- GET_HEALTH_INFO (R364, R376). -/
def execGetHealthInfo (s : State) : Host.Outcome State Fault Refusal :=
  .next (s.cxlCommand true (fun s => s.cxlAnswer .success (Config.answerBytes 0x4200)))

/-- Records of a log. -/
def State.eventsOf (s : State) (log : Nat) : List CxlEvent := s.host.events.filter (fun e => decide (Config.eventLog e.kind = log))

/-- GET_EVENT_RECORDS (R364): kind and address of each record of the log. -/
def execGetEventRecords (log : BitVec 8) (s : State) : Host.Outcome State Fault Refusal :=
  .next (s.cxlCommand false (fun s =>
    s.cxlAnswer .success ((s.eventsOf log.toNat).flatMap (fun e => toLe 1 e.kind ++ toLe 8 e.addr))))

/-- CLEAR_EVENT_RECORDS (R364). -/
def execClearEventRecords (log : BitVec 8) (s : State) : Host.Outcome State Fault Refusal :=
  .next (s.cxlCommand false (fun s =>
    (s.modHost (fun h => { h with events := h.events.filter (fun e => decide (Config.eventLog e.kind ≠ log.toNat)) })).cxlAnswer
      .success []))

/-- GET_TIMESTAMP (R364): 0 until it has been set; then it goes on with the timebase. -/
def execGetTimestamp (s : State) : Host.Outcome State Fault Refusal :=
  .next (s.cxlCommand false (fun s =>
    s.cxlAnswer .success (match s.host.timestamp with
      | some d => bytesOf 8 (d + BitVec.ofNat 64 s.ring.timebase)
      | none => toLe 8 0)))

/-- SET_TIMESTAMP (R364). -/
def execSetTimestamp (t : Word64) (s : State) : Host.Outcome State Fault Refusal :=
  .next (s.cxlCommand false (fun s =>
    (s.modHost (fun h => { h with timestamp := some (t - BitVec.ofNat 64 s.ring.timebase) })).cxlAnswer .success []))

/-- GET_SUPPORTED_LOGS (R364). -/
def execGetSupportedLogs (s : State) : Host.Outcome State Fault Refusal :=
  .next (s.cxlCommand false (fun s => s.cxlAnswer .success (Config.answerBytes 0x0400)))

/-- GET_LOG (R364): the command effects log. -/
def execGetLog (s : State) : Host.Outcome State Fault Refusal :=
  .next (s.cxlCommand false (fun s => s.cxlAnswer .success (Config.answerBytes 0x0401)))

/-! ## Firmware commands (R526 to R530) -/

/-- CXL slot 1 is slot A and 2 is slot B (R529). -/
def fwSlotOf (slot : BitVec 8) : Option Nat := if slot = 1 then some 0 else if slot = 2 then some 1 else none

/-- GET_FW_INFO (R529): slots, the active one, the one to activate, no online activation, and the versions of valid slots. -/
def execGetFwInfo (s : State) : Host.Outcome State Fault Refusal :=
  .next (s.cxlCommand false (fun s =>
    let text (i : Nat) : List Byte := if fwValid (s.fwImage i) then Config.versionText (BitVec.ofNat 32 (s.slotVersion i)) else []
    let next : Byte := if s.sec.nextSlot.toNat ≤ 1 then s.sec.nextSlot + 1 else 0
    s.cxlAnswer .success ([2, s.sec.activeSlot + 1, next, 0] ++ text 0 ++ text 1)))

/-- A mailbox session of the operator role is open (R529). -/
def State.operatorOpen (s : State) : Bool := s.host.sessions.any (fun y => y.tenant.isNone)

/-- Bytes placed at an offset of a slot, zeros filling what lies before it. -/
def placeAt (old : List Byte) (off : Nat) (data : List Byte) : List Byte :=
  old.take off ++ List.replicate (off - old.length) 0 ++ data ++ old.drop (off + data.length)

/-- A slot under transfer reads as invalid until the transfer has ended. -/
def State.setFw (s : State) (i : Nat) (image : List Byte) (x : Option (Nat × List Byte)) : State :=
  (s.modSec (fun y => { y with slots := tset none y.slots i (some image) })).modHost (fun h => { h with fwTransfer := x })

/-- The end of a transfer: the slot holds the image and is checked (R527, R529). -/
def State.endFw (s : State) (i : Nat) (image : List Byte) : State :=
  (s.setFw i image none).cxlAnswer (if fwValid image then .success else .authFailed) []

/-- A return code of CXL 3.1 that the spec does not name (log 5). -/
def State.unnamedRc (s : State) : State :=
  let r := s.draw 16
  r.2.cxlAnswer (.unnamed r.1) []

/-- TRANSFER_FW (R529): offsets in bytes. -/
def execTransferFw (a : FwAction) (slot : BitVec 8) (off : Nat) (data : List Byte) (s : State) :
    Host.Outcome State Fault Refusal :=
  .next (s.cxlCommand false (fun s =>
    if s.operatorOpen = false then s.cxlAnswer .unsupported []
    else match s.host.fwTransfer, a with
      | none, .full => match fwSlotOf slot with
          | some i => if i = s.sec.activeSlot.toNat then s.cxlAnswer .invalidSlot [] else s.endFw i data
          | none => s.cxlAnswer .invalidSlot []
      | none, .initiate => match fwSlotOf slot with
          | some i =>
            if i = s.sec.activeSlot.toNat then s.cxlAnswer .invalidSlot []
            else (s.setFw i [] (some (i, placeAt [] off data))).cxlAnswer .success []
          | none => s.cxlAnswer .invalidSlot []
      | none, .continue => s.unnamedRc
      | none, .endAction => s.unnamedRc
      | none, .abort => s.unnamedRc
      | some _, .full => s.cxlAnswer .transferInProgress []
      | some _, .initiate => s.cxlAnswer .transferInProgress []
      | some (i, m), .continue =>
        (s.modHost (fun h => { h with fwTransfer := some (i, placeAt m off data) })).cxlAnswer .success []
      | some (i, m), .endAction => s.endFw i (placeAt m off data)
      | some _, .abort => (s.modHost (fun h => { h with fwTransfer := none })).cxlAnswer .success []))

/-- ACTIVATE_FW (R513, R529): offline sets NEXT_SLOT to a valid slot; online is unsupported. -/
def execActivateFw (online : Bool) (slot : BitVec 8) (s : State) : Host.Outcome State Fault Refusal :=
  .next (s.cxlCommand false (fun s =>
    if s.operatorOpen = false ∨ online = true then s.cxlAnswer .unsupported []
    else match fwSlotOf slot with
      | some i =>
        if fwValid (s.fwImage i) then (s.modSec (fun x => { x with nextSlot := BitVec.ofNat 8 i })).cxlAnswer .success []
        else s.cxlAnswer .invalidSlot []
      | none => s.cxlAnswer .invalidSlot []))

/-! ## SPDM (R405, R525, R533, R534) -/

/-- A DOE answer is signalled on vector 18 (R405). -/
def State.spdmAnswer (s : State) (ok : Bool) (payload : List Byte) : State := (s.emit (.spdm ok payload)).emit (.msix 18)

def State.spdm (s : State) (ready : Bool) (f : State → State) : State :=
  if s.boot.cxlReleased = false then s else if ready then f s else s.spdmAnswer false []

/-- GET_VERSION (R533): the connection begins anew; version 1.3. -/
def execGetVersion (s : State) : Host.Outcome State Fault Refusal :=
  .next (s.spdm true (fun s =>
    (s.modSec (fun x => { x with spdmVersion := true, spdmCaps := false, spdmAlgs := false, spdmSigns := false })).spdmAnswer true
      [0x13]))

/-- GET_CAPABILITIES (R533). -/
def execGetCapabilities (s : State) : Host.Outcome State Fault Refusal :=
  .next (s.spdm s.sec.spdmVersion (fun s =>
    (s.modSec (fun x => { x with spdmCaps := true })).spdmAnswer true (Config.answerBytes 0xE1)))

/-- NEGOTIATE_ALGORITHMS (R533): SHA3-256 is the one hash; without ML-DSA-44 no signature is negotiated. -/
def execNegotiateAlgorithms (offersMlDsa offersSha3 : Bool) (s : State) : Host.Outcome State Fault Refusal :=
  .next (s.spdm s.sec.spdmCaps (fun s =>
    if offersSha3 = false then s.spdmAnswer false []
    else (s.modSec (fun x => { x with spdmAlgs := true, spdmSigns := offersMlDsa })).spdmAnswer true [offersMlDsa.toNat]))

/-- GET_DIGESTS (R533): the digest of the chain in slot 0. -/
def execGetDigests (s : State) : Host.Outcome State Fault Refusal :=
  .next (s.spdm s.sec.spdmAlgs (fun s => s.spdmAnswer true (sha3 Config.certChain)))

/-- GET_CERTIFICATE (R524, R525): a portion of the chain, or Unspecified. -/
def execGetCertificate (slot : BitVec 8) (off len : Nat) (s : State) : Host.Outcome State Fault Refusal :=
  .next (s.spdm s.sec.spdmAlgs (fun s =>
    if slot ≠ 0 ∨ s.sec.identityGood = false then s.spdmAnswer false []
    else s.spdmAnswer true ((Config.certChain.drop off).take len)))

/-- A signed answer: what it says and the signature over it and the nonce (log 12). -/
def signed_ (nonce : BitVec 256) (bytes : List Byte) : List Byte := bytes ++ Config.mlDsaSign (bytesOf 32 nonce ++ bytes)

/-- CHALLENGE (R525, R533). -/
def execChallenge (slot : BitVec 8) (nonce : BitVec 256) (s : State) : Host.Outcome State Fault Refusal :=
  .next (s.spdm (s.sec.spdmAlgs && s.sec.spdmSigns) (fun s =>
    if slot ≠ 0 ∨ s.sec.identityGood = false then s.spdmAnswer false []
    else s.spdmAnswer true (signed_ nonce (sha3 Config.certChain))))

/-- Measurement block of a context (R534). -/
def State.contextBlock (s : State) (c : Nat) : List Byte :=
  let x := s.ctx c
  if x.live = false then [0]
  else
    toLe 1 x.span.toNat ++ (bitsSet x.span).flatMap (fun q =>
      let base := s.activeBase q (tget 0 x.slotIn q)
      readBytes (s.quad q).tt (base + 0x10) 8 ++ readBytes (s.quad q).tt (base + 0x20) 32)

/-- Measurement blocks (R534). -/
def State.measurement (s : State) (i : Nat) : Option (List Byte) :=
  match i with
  | 1 => some (sha3 Config.bootRom)
  | 2 => some (bytesOf 32 s.sec.bodyDigest)
  | 3 => some (bytesOf 4 s.sec.fwVersion ++ bytesOf 4 s.sec.loaderVersion ++ bytesOf 1 s.sec.activeSlot)
  | 4 => some (bytesOf 32 s.sec.calDigest)
  | 5 => some (toLe 4 (s.slotVersion 0) ++ toLe 4 (s.slotVersion 1) ++ bytesOf 1 s.sec.nextSlot)
  | 6 => some (bytesOf 32 s.sec.storedDigest)
  | 7 => some (toLe 1 s.host.fullMap.toNat ++ toLe 1 s.host.paneUnchecked.toNat ++
      (List.range 4).flatMap (fun q => toLe 1 (s.quad q).shared.toNat) ++ bytesOf 1 s.ring.state ++ bytesOf 2 s.ring.moduleId ++
      toLe 1 (tget 0 s.sec.digests 0 != 0).toNat)
  | _ => if 16 ≤ i ∧ i < 32 then some (s.contextBlock (i - 16)) else none

/-- Blocks a request asks for: one, or all for 0xFF (log 12). -/
def State.measured (s : State) (i : Nat) : Option (List Byte) :=
  if i = 0 then some [23]
  else if i = 0xFF then
    some ((span 1 7 ++ span 16 31).flatMap (fun k => toLe 1 k ++ ((s.measurement k).getD [])))
  else (s.measurement i).map (fun b => toLe 1 i ++ b)

/-- GET_MEASUREMENTS (R518, R533, R534): blocks with or without a signature; each request served is counted. -/
def execGetMeasurements (isSigned : Bool) (index : BitVec 8) (nonce : BitVec 256) (s : State) :
    Host.Outcome State Fault Refusal :=
  .next (s.spdm (s.sec.spdmAlgs && (!isSigned || s.sec.spdmSigns)) (fun s =>
    match s.measured index.toNat with
    | none => s.spdmAnswer false []
    | some b =>
      (s.modSec (fun x => { x with spdmRequests := bump x.spdmRequests 1 })).spdmAnswer true
        (if isSigned then signed_ nonce b else b)))

end Sys2Proof.Machine
end

