-- ==== Sys2Proof/Machine/Frames.lean ====
section
/-! DEFINITION. Frames of the ring as they arrive: link numbering and credits, forwarding, delivery in order, and what each type does
(R418 to R423). -/

namespace Sys2Proof.Machine

/-! ## What a frame does at its destination (R419) -/

/-- The frame's body acts here. -/
def State.deliver (s : State) (f : PeerFrame) : State :=
  let src := f.src
  let id : BitVec 14 := BitVec.ofNat 14 src
  match f.body with
  | .idle _ => s
  | .join name prio candidate => s.joinFrame id name prio candidate (f.via.getD 0) f.hops
  | .roster version entries => s.rosterFrame version entries
  | .fence ident version => s.fenceFrame ident version
  | .hoist phys amt => s.hoistFrame phys amt
  | .penSub phys subscribe => s.penSubFrame id phys subscribe
  | .penUpdate phys value st => s.penUpdateFrame id phys value st
  | .penBind phys tag word => s.penBindFrame id phys tag word
  | .rollArrive rid round => s.rollArriveFrame id rid round
  | .rollRelease rid round bell => s.rollReleaseFrame rid round bell
  | .kvWrite tid index column cols poison => s.kvWriteFrame src tid index column cols poison
  | .kvRead tid index column count => s.kvReadFrame src tid index column count
  | .kvData tid index column cols poison => s.kvDataFrame src tid index column cols poison
  | .kvAck tid index column => s.kvAckFrame src tid index column
  | .mergePart rid round off words last poison => s.mergePartFrame rid round off words last poison
  | .mergeResult rid round off words last poison => s.mergeResultFrame rid round off words last poison

/-! ## The hop (R418, R420, R422) -/

/-- A port has a frame in order from its partner: LSEQ is kept for the next LACK, frames that LACK covers leave the replay buffer, and
returned credits are free again. -/
def Port.heard (x : Port) (h : FrameHead) : Port :=
  { x.covered h.lack with
    lack := h.lseq
    used := (List.range 4).foldl (fun t v => tmod 0 t v (· - fld h.cred (8 * v + 7) (8 * v))) x.used }

/-- A frame is the next in order on its hop; any other is discarded, to be sent again (R420). -/
def State.inOrder (s : State) (h : FrameHead) : Bool := (s.port h.port).up && h.lseq == (s.port h.port).lack + 1

/-- The hop's part of a frame: with the credits that come back the port goes on sending, changes of pennants that waited for an earlier
message are told (R304), and a leave that waited for its FENCE frame is completed (R433). -/
def State.took (s : State) (h : FrameHead) : State :=
  let s := (s.modPort h.port (fun x => x.heard h)).hearPort h.port
  ((s.pump h.port ((s.port h.port).transit.length + (s.port h.port).own.length)).tellNews).checkLeave

/-- The buffer of a delivered or discarded frame is free: the port owes its partner a credit. -/
def State.owe (s : State) (p v : Nat) : State := s.modPort p (fun x => { x with owed := tmod 0 x.owed v (· + 1) })

/-! ## Delivery in order (R421) -/

/-- The number after another in a sequence of frames: a module's broadcasts are numbered from 1 (log 93). -/
def nextSeq (bcast : Bool) (n : Nat) : Nat := if bcast then n % (2 ^ 32 - 1) + 1 else (n + 1) % 2 ^ 32

/-- Frames of a sequence that came before their turn are delivered once it has come. -/
def State.deliverEarly (s : State) (key : Nat) : Nat → State
  | 0 => s
  | n + 1 =>
    let e := tget 0 s.ring.esin key
    match s.ring.early.find? (fun f => seqKey f.bcast f.src f.body.channel = key ∧ f.eseq = e) with
    | none => s
    | some f =>
      let s := { s with ring := { s.ring with
        early := s.ring.early.erase f, esin := tset 0 s.ring.esin key (nextSeq f.bcast e) } }
      (s.deliver f).deliverEarly key n

/-- A frame that acts here: delivered in its turn, kept until then, or discarded as delivered before (R421). Of a module whose broadcasts
have not been heard yet the first one heard begins the sequence; those of a module outside the roster, which asks to join, belong to none
(DESIGN CHOICE, log 93). -/
def State.inTurn (s : State) (h : FrameHead) (b : FrameBody) : State :=
  let f : PeerFrame := ⟨h.src.toNat, h.dst.toNat, h.bcast, h.hops.toNat, h.eseq.toNat, b, some h.port.val⟩
  let key := seqKey h.bcast f.src b.channel
  let e := tget 0 s.ring.esin key
  if h.bcast = true ∧ (s.posOf f.src).isNone then s.deliver f
  else if f.eseq = e ∨ (h.bcast = true ∧ e = 0) then
    let s := { s with ring := { s.ring with esin := tset 0 s.ring.esin key (nextSeq h.bcast f.eseq) } }
    (s.deliver f).deliverEarly key s.ring.early.length
  else if (f.eseq + 2 ^ 32 - e) % 2 ^ 32 < 2 ^ 31 then { s with ring := { s.ring with early := s.ring.early ++ [f] } }
  else s

/-! ## Forwarding (R422, R423) -/

/-- The way of a frame in transit: onward in the direction it travels, or back where that is a cut, the same way then to its end
(R423; log 93). -/
def State.wayOn (s : State) (h : FrameHead) : Nat :=
  let plane := h.src.toNat + h.dst.toNat
  match s.portOn (1 - h.port / 2) plane with
  | some p => p
  | none => (s.portOn (h.port / 2) plane).getD h.port

/-- A frame for another module goes on with one hop less, or is discarded with none left. -/
def State.forward (s : State) (h : FrameHead) (b : FrameBody) : State :=
  if h.hops.toNat ≤ 1 then s.owe h.port b.channel
  else s.enqueue (s.wayOn h) ⟨h.src.toNat, h.dst.toNat, false, h.hops.toNat - 1, h.eseq.toNat, b, some h.port.val⟩

/-- A broadcast goes on in its direction with one hop less, turns back at a cut, or is discarded with no hop left. -/
def State.passOn (s : State) (h : FrameHead) (b : FrameBody) : State :=
  let f : PeerFrame := ⟨h.src.toNat, 0, true, h.hops.toNat - 1, h.eseq.toNat, b, some h.port.val⟩
  if h.hops.toNat ≤ 1 then s.owe h.port b.channel
  else
    match s.portOn (1 - h.port / 2) h.port with
    | some p => s.enqueue p f
    | none => s.turnCast (h.port / 2) h.port f

/-- A broadcast goes on, and acts here unless it is this module's own. -/
def State.castOn (s : State) (h : FrameHead) (b : FrameBody) : State :=
  let s := s.passOn h b
  if h.src = s.ownIdent then s else s.inTurn h b

/-- A frame arrives at a port. -/
def State.receiveFrame (s : State) (h : FrameHead) (b : FrameBody) : State :=
  if s.inOrder h = false then s
  else
    let s := s.took h
    if h.bcast then s.castOn h b
    else if h.dst = s.ownIdent then (s.owe h.port b.channel).inTurn h b
    else s.forward h b

/-! ## Meanings -/

/-- IDLE_FRAME (R434, R440, R441): a time word of the partner acts on its hop alone. -/
def execIdleFrame (h : FrameHead) (t : TimeWord) (arrival : Nat) (frac : BitVec 16) (s : State) : Host.Outcome State Fault Refusal :=
  .next (if s.inOrder h = false then s
    else ((s.took h).owe h.port 0).idleFrame h.port h.src t (arrival * 1000 + frac.toNat * 1000 / 65536))

/-- JOIN_FRAME (R431, R439). -/
def execJoinFrame (h : FrameHead) (name : Word32) (prio : BitVec 8) (candidate : Bool) (s : State) :
    Host.Outcome State Fault Refusal := .next (s.receiveFrame h (.join name prio candidate))

/-- ROSTER_FRAME (R431). -/
def execRosterFrame (h : FrameHead) (version : Nat) (entries : List RosterEntry) (s : State) :
    Host.Outcome State Fault Refusal := .next (s.receiveFrame h (.roster version entries))

/-- FENCE_FRAME (R433, R435). -/
def execFenceFrame (h : FrameHead) (ident : BitVec 14) (version : Nat) (s : State) : Host.Outcome State Fault Refusal :=
  .next (s.receiveFrame h (.fence ident version))

/-- HOIST_FRAME (R304). -/
def execHoistFrame (h : FrameHead) (phys : BitVec 14) (amt : BitVec 16) (s : State) : Host.Outcome State Fault Refusal :=
  .next (s.receiveFrame h (.hoist phys amt))

/-- PEN_SUB (R304). -/
def execPenSub (h : FrameHead) (phys : BitVec 14) (subscribe : Bool) (s : State) : Host.Outcome State Fault Refusal :=
  .next (s.receiveFrame h (.penSub phys subscribe))

/-- PEN_UPDATE (R304). -/
def execPenUpdate (h : FrameHead) (phys : BitVec 14) (value : Word64) (st : BitVec 2) (s : State) :
    Host.Outcome State Fault Refusal := .next (s.receiveFrame h (.penUpdate phys value st))

/-- PEN_BIND_FRAME (R296). -/
def execPenBindFrame (h : FrameHead) (phys : BitVec 14) (tag : Word32) (word : BindWord) (s : State) :
    Host.Outcome State Fault Refusal := .next (s.receiveFrame h (.penBind phys tag word))

/-- ROLL_ARRIVE_FRAME (R319). -/
def execRollArriveFrame (h : FrameHead) (rid : BitVec 16) (round : Word32) (s : State) : Host.Outcome State Fault Refusal :=
  .next (s.receiveFrame h (.rollArrive rid round))

/-- ROLL_RELEASE_FRAME (R319, R320). -/
def execRollReleaseFrame (h : FrameHead) (rid : BitVec 16) (round : Word32) (bell : Nat) (s : State) :
    Host.Outcome State Fault Refusal := .next (s.receiveFrame h (.rollRelease rid round bell))

/-- KV_WRITE (R447). -/
def execKvWrite (h : FrameHead) (tid : BitVec 16) (index column : Nat) (cols : List Line) (poison : Bool) (s : State) :
    Host.Outcome State Fault Refusal := .next (s.receiveFrame h (.kvWrite tid.toNat index column cols poison))

/-- KV_READ (R447). -/
def execKvRead (h : FrameHead) (tid : BitVec 16) (index column count : Nat) (s : State) : Host.Outcome State Fault Refusal :=
  .next (s.receiveFrame h (.kvRead tid.toNat index column count))

/-- KV_DATA (R447). -/
def execKvData (h : FrameHead) (tid : BitVec 16) (index column : Nat) (cols : Option (List Line)) (poison : Bool) (s : State) :
    Host.Outcome State Fault Refusal := .next (s.receiveFrame h (.kvData tid.toNat index column cols poison))

/-- KV_ACK (R254, R447). -/
def execKvAck (h : FrameHead) (tid : BitVec 16) (index column : Nat) (s : State) : Host.Outcome State Fault Refusal :=
  .next (s.receiveFrame h (.kvAck tid.toNat index column))

/-- MERGE_PART (R274, R418, R448). -/
def execMergePart (h : FrameHead) (rid : BitVec 16) (round : Word32) (off : Nat) (words : List Word32) (poison : Bool)
    (s : State) : Host.Outcome State Fault Refusal := .next (s.receiveFrame h (.mergePart rid round off words h.last poison))

/-- MERGE_RESULT (R275, R418, R448). -/
def execMergeResult (h : FrameHead) (rid : BitVec 16) (round : Word32) (off : Nat) (words : List Word32) (poison : Bool)
    (s : State) : Host.Outcome State Fault Refusal := .next (s.receiveFrame h (.mergeResult rid round off words h.last poison))

end Sys2Proof.Machine
end

