-- ==== Sys2Proof/Machine/Run.lean ====
section
/-! DEFINITION. A beat of a quadrant: the word that issues, the command that each of its slots is by its operation code, and what
else a beat can be (R105 to R112, R144 to R146, R162 to R169). -/

namespace Sys2Proof.Machine

/-! ## The commands of a word (R113, R115, R119, R120, R122, R123, R125, R127) -/

/-- The row command of a ROW slot by OP. -/
def Row.command (q sl : Fin 4) (sel : BitVec 4) (w : Word32) : Option Instr :=
  match fld w 31 30 with
  | 1 => some (.act q sl sel w)
  | 2 => some (.pre q sl sel w)
  | 3 => some (.prea q sl sel w)
  | _ => none

/-- The column command of a COL slot by OP. -/
def Col.command (q sl : Fin 4) (sel : BitVec 4) (w : Word32) : Option Instr :=
  match Col.op w with
  | 1 => some (.rd q sl sel w)
  | 2 => some (.rds q sl sel w)
  | 3 => some (.wr q sl sel w)
  | 4 => some (.wrm q sl sel w)
  | _ => none

/-- The operation of a VEC slot by OP, with the LIT of the same word. -/
def Vec.command (q sl : Fin 4) (sel : BitVec 4) (w lit : Word32) : Option Instr :=
  match Vec.op w with
  | 0 => some (.add q sl sel w lit)
  | 1 => some (.mul q sl sel w lit)
  | 2 => some (.max q sl sel w lit)
  | 3 => some (.cmp q sl sel w lit)
  | 4 => some (.scale q sl sel w lit)
  | 5 => some (.exp2 q sl sel w lit)
  | 6 => some (.cvt q sl sel w lit)
  | 7 => some (.pack q sl sel w lit)
  | 8 => some (.cvtmx q sl sel w lit)
  | 9 => some (.out q sl sel w lit)
  | 10 => some (.mask q sl sel w lit)
  | _ => none

/-- The operation of a SYNC slot by OP that is carried out when its word issues; the others are presented before (R145). -/
def Sync.command (q sl : Fin 4) (w : Word32) : Option Instr :=
  match Sync.op w with
  | 1 => some (.hoist q sl w)
  | 3 => some (.kadd q sl w)
  | 5 => some (.rrel q sl w)
  | _ => none

/-- The operation of an ADDR slot by OP. -/
def Addr.command (q sl : Fin 4) (w : Word32) : Option Instr :=
  match Addr.op w with
  | 1 => some (.agset q sl w)
  | 2 => some (.agidx q sl w)
  | 3 => some (.agskip q sl w)
  | 4 => some (.xbase q sl w)
  | _ => none

/-- The operation of a CTRL slot by COP, of a LAUNCH by its engine; LIT is an operand. -/
def Ctrl.command (q sl : Fin 4) (cop : BitVec 3) (w : Word32) : Option Instr :=
  match cop.toNat with
  | 1 => some (.msk q sl w)
  | 2 => some (.loop q sl w)
  | 3 => some (.endl q sl w)
  | 4 => if Ctrl.engine w = 0 then some (.launchExchange q sl w) else if Ctrl.engine w = 1 then some (.launchMerge q sl w) else none
  | _ => none

/-- Slot i of a word in issue, if it is present. -/
def Issued.at? (i : Issued) (n : Nat) : Option Word32 := if i.present.getLsbD (7 - n) then some (i.words.getD n 0) else none

/-- The commands that the slots of a word are, in the order in which they act within a beat (R110): the column command goes to the
row open at its start and so comes before the row command, SYNC comes after every data write, ADDR and CTRL come last. A VEC
operation that uses LIT in a word without one finds 0 (such a word never issues, R120). -/
def Issued.commands (i : Issued) (q sl : Fin 4) : List Instr :=
  let lit := if i.cop = 0 then (i.at? 7).getD 0 else 0
  [(i.at? 1).bind (Col.command q sl i.sel), (i.at? 2).map (Instr.mac q sl i.sel),
    (i.at? 3).bind (fun w => Vec.command q sl i.sel w lit), (i.at? 4).map (Instr.xfer q sl i.sel),
    (i.at? 0).bind (Row.command q sl i.sel), (i.at? 5).bind (Sync.command q sl), (i.at? 6).bind (Addr.command q sl),
    (i.at? 7).bind (Ctrl.command q sl i.cop)].filterMap id

/-- The state a meaning leads to. -/
def after (s : State) (o : Host.Outcome State Fault Refusal) : State :=
  match o with
  | .next t => t
  | _ => s

/-- A slot's command is carried out. -/
def State.runSlot (s : State) (c : Instr) : State :=
  match c with
  | .act q sl sel w => after s (execAct q sl sel w s)
  | .pre q sl sel w => after s (execPre q sl sel w s)
  | .prea q sl sel w => after s (execPrea q sl sel w s)
  | .rd q sl sel w => after s (execRd q sl sel w s)
  | .rds q sl sel w => after s (execRds q sl sel w s)
  | .wr q sl sel w => after s (execWr q sl sel w s)
  | .wrm q sl sel w => after s (execWrm q sl sel w s)
  | .mac q sl sel w => after s (execMac q sl sel w s)
  | .add q sl sel w lit => after s (execAdd q sl sel w lit s)
  | .mul q sl sel w lit => after s (execMul q sl sel w lit s)
  | .max q sl sel w lit => after s (execMax q sl sel w lit s)
  | .cmp q sl sel w lit => after s (execCmp q sl sel w lit s)
  | .scale q sl sel w lit => after s (execScale q sl sel w lit s)
  | .exp2 q sl sel w lit => after s (execExp2 q sl sel w lit s)
  | .cvt q sl sel w lit => after s (execCvt q sl sel w lit s)
  | .pack q sl sel w lit => after s (execPack q sl sel w lit s)
  | .cvtmx q sl sel w lit => after s (execCvtmx q sl sel w lit s)
  | .out q sl sel w lit => after s (execOut q sl sel w lit s)
  | .mask q sl sel w lit => after s (execMask q sl sel w lit s)
  | .xfer q sl sel w => after s (execXfer q sl sel w s)
  | .hoist q sl w => after s (execHoist q sl w s)
  | .kadd q sl w => after s (execKadd q sl w s)
  | .rrel q sl w => after s (execRrel q sl w s)
  | .agset q sl w => after s (execAgset q sl w s)
  | .agidx q sl w => after s (execAgidx q sl w s)
  | .agskip q sl w => after s (execAgskip q sl w s)
  | .xbase q sl w => after s (execXbase q sl w s)
  | .msk q sl w => after s (execMsk q sl w s)
  | .loop q sl w => after s (execLoop q sl w s)
  | .endl q sl w => after s (execEndl q sl w s)
  | .launchExchange q sl w => after s (execLaunchExchange q sl w s)
  | .launchMerge q sl w => after s (execLaunchMerge q sl w s)
  | _ => s

/-! ## Issue (R111, R144, R146, R148) -/

/-- A word takes the beat: the next beat starts, what is due becomes visible, the slot moves on. -/
def State.takeBeat (s : State) (q sl : Nat) (w : Word) (p : Bool) : State :=
  let y := s.slot q sl
  let s := (s.startBeat q ((s.quad q).beat + 1)).accountBeat q w
  let s := if p then s.unsettleSlot q sl w.origin else s
  let slots := w.moved y.rep
  let e := if w.stream then let r := s.takeEntry q sl; (some r.1, r.2) else (none, s)
  let s := e.2.logHazard q sl w.sel w.origin slots
  let last := decide (y.rep ≥ w.repeats)
  let i : Issued :=
    { slot := sl, sel := w.sel, origin := w.origin, issue := y.rep, present := w.present,
      words := slots.map (fun x => x.getD 0), cop := w.cop, pc := y.pc, entry := e.1,
      gens := y.gens, k := y.k }
  let s := s.modSlot q sl (fun y =>
    { y with passed := none, heldFirst := false, rep := if last then 0 else y.rep + 1, pc := if last then y.pc + w.bytes else y.pc,
             lessonBeat := y.lessonBeat + 1, sinceRecess := y.sinceRecess + 1 })
  s.modQuad q (fun x =>
    { x with word := some i, selBeats := x.selBeats + 1, sinceRecess := x.sinceRecess + 1, idle := 0, atSwitch := false,
             issuedAll := x.issuedAll + 1, issuedHere := if x.hazard then x.issuedHere else x.issuedHere + 1 })

/-- The slots of the word in issue act (R110, R144). -/
def State.runWord (s : State) (q sl : Fin 4) : State :=
  match (s.quad q).word with
  | none => s
  | some i => (i.commands q sl).foldl (fun (s : State) c => s.runSlot c) s

/-- A word issues, and its slots act; after the last issue of a word with END the context is DRAINING (R107, R144, R173). -/
def State.issue (s : State) (q sl : Fin 4) (w : Word) (p : Bool) : State :=
  let last := decide ((s.slot q sl).rep ≥ w.repeats)
  let s := ((s.takeBeat q sl w p).runWord q sl).reportIssued q sl
  if w.end_ && last then after s (execEndWord q sl s) else s

/-- A recess word comes to its turn: the slot moves on past it, and the recess is taken or skipped by its class (R107, R131,
R132). DESIGN CHOICE (log 76): the beats of a recess do not count towards the quantum. -/
def State.issueRecess (s : State) (q sl : Fin 4) (w : Word) (late : List Nat) : State :=
  let s := s.recessWord q sl w.rclass late
  let s := s.modSlot q sl (fun y => { y with pc := y.pc + w.bytes, passed := none, heldFirst := false })
  if w.end_ then after s (execEndWord q sl s) else s

/-- What the word at which the ISSUING context stands does in the next beat (R145, R166, R172, R238, R263): a first word held, or a
LAUNCH or OUT without room, stretches the beat; a blocked word lets it pass without a word and becomes a switch point when it may;
another word issues. DESIGN CHOICE (log 89): of requests of one beat, which R185 orders in no way, a word's RGET comes before what its
LAUNCH starts, and others are in the order of the commands that make them. -/
def State.wordBeat (s : State) (q sl : Fin 4) (late : List Nat) : State :=
  let w := s.fetchWord q sl
  if s.firstHeld q sl then s
  else if w.recess then s.issueRecess q sl w late
  else
    match s.full q sl w with
    | some code => s.accountOpen q code
    | none =>
      let s := match w.slot 5 with
        | some y => if Sync.blocks y then s.present q sl y else s.pass q sl false
        | none => s.pass q sl false
      match (s.slot q sl).passed with
      | some p => s.issue q sl w p
      | none => (s.settleBlocked q sl).idleBeats q 1

/-- ISSUE_WORD (R144 to R146): a beat of the quadrant. The word of the ISSUING context issues in it with all its slots, unless
something holds the beat or its SYNC condition does not hold. Units named late raise their late lines at the boundary and hold it
(R63, R64). Without an ISSUING context the beat passes (R163, R169). -/
def execIssueWord (q : Fin 4) (late : List Nat) (s : State) : Host.Outcome State Fault Refusal :=
  .next (
    let us := s.lateUnits q ((s.quad q).beat + 1) late
    if s.holding q then s
    else if (s.quad q).recessLeft ≠ 0 then s.runRecess q late
    else if us.isEmpty = false then s.raiseLate q us
    else
      let s := s.yieldRows q
      match (s.quad q).sel with
      | none => s.idleBeats q 1
      | some sl =>
        if (s.slot q sl).st = .issuing then s.wordBeat q (Fin.ofNat 4 sl) late else s.idleBeats q 1)

end Sys2Proof.Machine
end

