-- ==== Sys2Proof/Machine/Start.lean ====
section
/-! DEFINITION. Crystal start-up, the clock monitor and the boot stages (R4, R310, R355, R358, R362, R451 to R459, R484, R513, R522 to
R540, R559, R567). -/

namespace Sys2Proof.Machine

/-! ## Stage B1 (R503, R513, R522, R537) -/

/-- Stored values are loaded once after auxiliary power-on; the digest is that of the copy loaded, and free without one (R513, R522,
R534). -/
def State.loadAtPower (s : State) : State :=
  if s.boot.loaded then s
  else
    let s := { s with boot := { s.boot with loaded := true } }
    let m := s.mgmt.stored
    let r := s.draw 256
    let s := if m.valid then s.modSec (fun x => { x with storedDigest := sha3Word (Config.storedCopy m.seqNo m.entries) })
      else r.2.modSec (fun x => { x with storedDigest := r.1 })
    s.loadStored (fun _ => true)

/-- STAGE_B1 (R451, R454, R455, R537): the crystal feeds the management domain and the timebase, values are loaded, the monitor and the
CAN FD port start. -/
def State.stageB1 (s : State) : State :=
  let s := { s with boot := { s.boot with stage := 1 } }
  let s := s.modClk (fun c => { c with
    source := 1, monitor := !c.itoFault, outWindow := 0, laterSuccess := c.laterSuccess || c.clkFault })
  s.loadAtPower.nmtInit

/-! ## Start-up attempts (R452, R453) -/

/-- A failed attempt; the fourth ends the series with CLK_FAULT (R453, R556). -/
def State.failAttempt (s : State) : State :=
  let s := s.modClk (fun c => { c with xtalEnabled := false, inWindow := 0, source := 0, monitor := false, outWindow := 0 })
  if s.clk.attempts.toNat ≥ 4 then
    (s.modClk (fun c => { c with seriesFailed := true, clkFault := true, laterSuccess := false })).logOnly Code.clkFault 0 0xFF
      s.clk.attempts.toNat 0
  else s

/-- XTAL_START_ATTEMPT (R453). -/
def execXtalStartAttempt (s : State) : Host.Outcome State Fault Refusal :=
  .next (if s.boot.auxGood = false ∨ s.boot.heldB0 = true ∨ s.boot.stage ≠ 0 ∨ s.clk.xtalEnabled = true ∨
        s.clk.seriesFailed = true then s
    else s.modClk (fun c => { c with xtalEnabled := true, inWindow := 0, attempts := c.attempts + 1 }))

/-- XTAL_ATTEMPT_TIMEOUT (R453). -/
def execXtalAttemptTimeout (s : State) : Host.Outcome State Fault Refusal :=
  .next (if s.boot.stage = 0 ∧ s.clk.xtalEnabled = true then s.failAttempt else s)

/-! ## The clock monitor (R455 to R459) -/

/-- XTAL_LOST (R458, R556): the ITO takes over, the rate is halved, the fault is announced to the ring, the CAN FD port is silent. -/
def State.loseXtal (s : State) : State :=
  let s := s.modClk (fun c => { c with source := 0, xtalLost := true, monitor := false, judging := none })
  (s.modRing (fun r => { r with ownFault := true })).logOnly Code.xtalLost 0 0xFF s.clk.lastGood 0

/-- ITO_FAULT (R459, R509): the monitor stops. -/
def State.loseIto (s : State) (count : Nat) : State :=
  (s.modClk (fun c => { c with itoFault := true, monitor := false, judging := none })).emcyEvent 0x5020 0 count

/-- CLOCK_MONITOR_TRIP (R455, R456): before B3 a failed attempt back in B0; from B3 on it is judged. -/
def State.trip (s : State) (edgeMissing : Bool) (count : Nat) : State :=
  let s := s.modClk (fun c => { c with trips := bump c.trips 1, outWindow := 0 })
  if s.boot.stage.val < 3 then
    ({ s with boot := { s.boot with stage := 0, fwRunning := false }, mgmt := { s.mgmt with nmt := .initialisation, usdo := none } }
      : State).failAttempt
  else if edgeMissing then s.loseXtal
  else if s.clk.judging.isSome then s
  else s.modClk (fun c => { c with judging := some count })

/-- STABILITY_MEASUREMENT (R452, R453, R455): a count over 4,096 ITO cycles. -/
def execStabilityMeasurement (count : Nat) (s : State) : Host.Outcome State Fault Refusal :=
  .next (let good := decide (3775 ≤ count ∧ count ≤ 4089)
    if s.boot.stage = 0 then
      if s.clk.xtalEnabled = false then s
      else if good = false then s.modClk (fun c => { c with inWindow := 0 })
      else
        let s := s.modClk (fun c => { c with inWindow := c.inWindow + 1, lastGood := count })
        if s.clk.inWindow ≥ 8 then s.stageB1 else s
    else if s.clk.monitor = false then s
    else if good then s.modClk (fun c => { c with outWindow := 0, lastGood := count })
    else
      let s := s.modClk (fun c => { c with outWindow := c.outWindow + 1 })
      if s.clk.outWindow ≥ 2 then s.trip false count else s)

/-- XTAL_NO_EDGE (R455 to R458). -/
def execXtalNoEdge (s : State) : Host.Outcome State Fault Refusal :=
  .next (if s.clk.monitor then s.trip true 0 else s)

/-- A count over 6,554 cycles of 100 MHz lies more than tol / 1,000 from that of f / 10 MHz. -/
def offNominal (count f tol : Nat) : Bool :=
  let nominal := 6554 * f
  decide (1000 * (max (1000 * count) nominal - min (1000 * count) nominal) > tol * nominal)

/-- TRIP_JUDGEMENT (R457): without REFCLK, or with the CXL link down, the crystal is treated as failed. -/
def execTripJudgement (xtal ito : Nat) (refclk : Bool) (s : State) : Host.Outcome State Fault Refusal :=
  .next (match s.clk.judging with
    | none => s
    | some count =>
      let s := s.modClk (fun c => { c with judging := none, refclk := refclk })
      if refclk = false ∨ (s.boot.cxlReleased = true ∧ s.host.linkState = 0) ∨ offNominal xtal 384 2 = true then s.loseXtal
      else if offNominal ito 400 15 then s.loseIto count
      else s)

/-! ## Stage B2 (R522 to R532) -/

/-- CAL_STATUS (R531, R532): 2 without MAGIC, 1 when the digest or the signature fails. -/
def calCheck (b : List Byte) : BitVec 8 :=
  let n := fwNat b 8 4
  if fwNat b 0 4 ≠ 0x4C41435A then 2
  else if (b.drop n).take 32 = sha3 (b.take n) ∧ Config.mlDsaVerify (b.take (n + 32)) ((b.drop (n + 64)).take 2420) = true then 0
  else 1

/-- Order of the slots to try (R528). -/
def State.slotOrder (s : State) : List Nat :=
  if s.sec.nextSlot = 1 then [1, 0]
  else if s.sec.nextSlot = 0 then [0, 1]
  else if s.slotVersion 1 > s.slotVersion 0 then [1, 0] else [0, 1]

/-- The firmware of a slot is started and its measurements are captured (R528, R534). -/
def State.startFw (s : State) (i : Nat) : State :=
  let b := s.fwImage i
  let s := { s with boot := { s.boot with fwRunning := true } }
  s.modSec (fun x => { x with
    activeSlot := BitVec.ofNat 8 i, fwVersion := BitVec.ofNat 32 (fwNat b 4 4), loaderVersion := BitVec.ofNat 32 (fwNat b 12 4)
    bodyDigest := BitVec.ofNat 256 (leNat ((b.drop 0x20).take 32)), nextSlot := 255 })

/-- STAGE_B2 (R451, R523 to R532, R537): identity, calibration record, firmware; without a valid record or slot the module stays
here. -/
def execStageB2 (s : State) : Host.Outcome State Fault Refusal :=
  .next (if s.boot.stage ≠ 1 then s
    else
      let cal := calCheck Config.calRecord
      let n := fwNat Config.calRecord 8 4
      let s := { s with boot := { s.boot with stage := 2 } }
      let s := s.modSec (fun x => { x with
        identityGood := Config.identityMatches
        identityDigest := if Config.identityMatches then sha3Word Config.identityKey else 0
        calStatus := cal, calDigest := BitVec.ofNat 256 (leNat ((Config.calRecord.drop n).take 32)) })
      if cal ≠ 0 then s
      else
        let s := s.modClk (fun c => { c with itoTrim := true })
        match s.slotOrder.find? (fun i => fwValid (s.fwImage i)) with
        | some i => s.startFw i
        | none => s)

/-! ## Stages B3 to B7 (R537 to R540) -/

/-- Every site reads below its warning level (R473). -/
def State.coolEnough (s : State) : Bool := (List.range 24).all (fun i => decide ((s.site i).temp.toInt < s.therm.warn i))

/-- STAGE_B3 (R473, R537, R567): rails and PLLs; after a shut-down only by a reset, and once the sites are cool. -/
def execStageB3 (s : State) : Host.Outcome State Fault Refusal :=
  .next (if s.boot.stage ≠ 2 ∨ s.boot.fwRunning = false ∨ s.boot.mainPresent = false ∨ s.boot.shut = true ∨
        (s.boot.cool = true ∧ s.coolEnough = false) then s
    else { s with boot := { s.boot with stage := 3, rails := 0x3F, plls := true, cool := false } })

/-- STAGE_B4 (R537, R538): the CXL port is released; training begins at once or with the deassertion of PERST_n. -/
def execStageB4 (s : State) : Host.Outcome State Fault Refusal :=
  .next (if s.boot.stage ≠ 3 then s
    else
      let s := { s with boot := { s.boot with stage := 4, cxlReleased := true } }
      if s.boot.perstN then s.setLink 1 0 0 else s)

/-- A bank after initialisation: activation table cleared (R347, R537). -/
def Bank.started (b : Bank) : Bank := { b with act := [], open0 := none, open1 := none, debt := 0, nbq := [] }

/-- A quadrant starts at POINT_FAST_LIMIT; after XTAL_LOST it stays at F3 (R458, R484). -/
def Quad.started (x : Quad) (p : Nat) : Quad :=
  { x with point := p, chosen := none, changing := false, issuedHere := 0, lateAt := [], forced := false, sinceRecess := 0 }

/-- The calibration record's image of the shadow timing registers of a frequency point (R355, R531). -/
def timingImage (p : Nat) : List Byte := (Config.calRecord.drop (0x160 + 256 * p)).take 256

/-- The shadow timing registers of one stack: its controller's by point, its base die's by 4 + point. -/
def shadowTiming : Table (List Byte) :=
  (List.range 4).foldl (fun t p => tset [] (tset [] t p (timingImage p)) (4 + p) (timingImage p)) []

/-- STAGE_B5 (R355, R358, R362, R484, R537, R559): stacks and delays, every column zero, activation tables cleared, queued plots
retired, failed stacks tried again. -/
def execStageB5 (s : State) : Host.Outcome State Fault Refusal :=
  .next (if s.boot.stage ≠ 4 then s
    else
      let p := if s.clk.xtalLost then 3 else s.pow.fastLimit.toNat
      let s := { s with
        boot := { s.boot with stage := 5, stacksUp := true }
        mem := Memory.zero
        banks := tmapAll Bank.init s.banks Bank.started
        stk := tmapAll Stack.init s.stk (fun k => { k with failed := false, ueLogged := false, band := k.bandWanted }) }
      let s := (List.range 20).foldl (fun (s : State) st => s.modStack st (fun k => { k with timing := shadowTiming })) s.restartScrubs
      let s := (List.range 4).foldl (fun (s : State) q => s.modQuad q (fun x => x.started p)) s
      s.health.queued.foldl (fun (s : State) n => s.retirePlot n) s)

/-- STAGE_B6 (R430, R537): the join begins when RING_ENABLE is 1, otherwise the module is ALONE. -/
def execStageB6 (s : State) : Host.Outcome State Fault Refusal :=
  .next (if s.boot.stage ≠ 5 then s
    else
      let s := { s with boot := { s.boot with stage := 6 } }
      if s.ring.enable = 1 then s.beginJoin else s)

/-- STAGE_B7 (R310, R537, R540): the join has ended; ORDERING is 0 and the module is ready. -/
def execStageB7 (s : State) : Host.Outcome State Fault Refusal :=
  .next (if s.boot.stage ≠ 6 ∨ s.ring.state = 1 then s
    else
      let s := { s with boot := { s.boot with stage := 7 } }
      s.modSync (fun x => { x with ordering := 0 }))

end Sys2Proof.Machine
end

