-- ==== Sys2Proof/Machine/Wire.lean ====
section
/-! DEFINITION. The bytes of what the module sends: peer frames and their time words (R418, R419, R440), report records (R399) and the
outputs of the vendor-specific commands (R406). -/

namespace Sys2Proof.Machine

/-- A field's bytes cut or filled with zeros to a length. -/
def fill (n : Nat) (bs : List Byte) : List Byte := (bs ++ List.replicate n 0).take n

/-- One bit of the CRC-32 with polynomial 0x04C1_1DB7, in its reflected form (R418; PRESUMED, log 95). -/
def crcBit (r : Word32) : Word32 := if r.getLsbD 0 then (r >>> 1) ^^^ 0xEDB88320#32 else r >>> 1

/-- One byte of the CRC-32. -/
def crcByte (r : Word32) (b : Byte) : Word32 :=
  (List.range 8).foldl (fun (x : Word32) _ => crcBit x) (r ^^^ b.zeroExtend 32)

/-- The CRC-32 of a frame's bytes: it starts at all ones and ends complemented (R418; PRESUMED, log 95). -/
def crc (bs : List Byte) : Word32 := ~~~ bs.foldl crcByte 0xFFFFFFFF#32

/-- The 224 bytes of a time word (R440). -/
def TimeWord.bytes (t : TimeWord) : List Byte :=
  let master : BitVec 16 := match t.master with
    | some m => m.zeroExtend 16
    | none => 0x8000
  fill 224 (toLe 8 t.txTime ++ bytesOf 2 t.txFrac ++ bytesOf 2 master ++ toLe 1 t.depth ++
    toLe 1 (t.ownFault.toNat + 2 * t.holdover.toNat) ++ bytesOf 2 t.rollLead ++ toLe 8 t.echoTime ++ toLe 4 t.turnaround ++
    toLe 4 t.bellPeriod ++ toLe 4 t.nextPeriod ++ toLe 8 t.changeAt ++ toLe 4 t.rosterVer)

/-- TYPE of a frame (R419). -/
def FrameBody.code : FrameBody → Nat
  | .idle .. => 0x00
  | .join .. => 0x01
  | .roster .. => 0x02
  | .fence .. => 0x03
  | .hoist .. => 0x10
  | .penSub .. => 0x11
  | .penUpdate .. => 0x12
  | .penBind .. => 0x13
  | .rollArrive .. => 0x20
  | .rollRelease .. => 0x21
  | .kvWrite .. => 0x30
  | .kvRead .. => 0x31
  | .kvData .. => 0x32
  | .kvAck .. => 0x33
  | .mergePart .. => 0x40
  | .mergeResult .. => 0x41

/-- POISON of a frame (R418, R419). -/
def FrameBody.poisoned : FrameBody → Bool
  | .kvWrite _ _ _ _ p => p
  | .kvData _ _ _ _ p => p
  | .mergePart _ _ _ _ _ p => p
  | .mergeResult _ _ _ _ _ p => p
  | _ => false

/-- LAST of a frame (R418): a merge's fragments carry it, and a frame of another type is an operation by itself (log 95). -/
def FrameBody.last : FrameBody → Bool
  | .mergePart _ _ _ _ l _ => l
  | .mergeResult _ _ _ _ l _ => l
  | _ => true

/-- The fields of a frame that its ARG and payload carry in a layout the spec does not give (R419, log 95). -/
def FrameBody.fields : FrameBody → List Nat
  | .join n p c => [n.toNat, p.toNat, c.toNat]
  | .roster v es => v :: es.flatMap (fun (e : RosterEntry) => [e.pos, e.ident.toNat, e.master.toNat])
  | .fence i v => [i.toNat, v]
  | .hoist p a => [p.toNat, a.toNat]
  | .penSub p b => [p.toNat, b.toNat]
  | .penUpdate p v st => [p.toNat, v.toNat, st.toNat]
  | .penBind p t w => [p.toNat, t.toNat, match w with | .request => 0 | .yes => 1 | .no => 2 | .back => 3]
  | .rollArrive r n => [r.toNat, n.toNat]
  | .rollRelease r n b => [r.toNat, n.toNat, b]
  | .kvWrite t i c _ _ => [t, i, c]
  | .kvRead t i c n => [t, i, c, n]
  | .kvData t i c d _ => [t, i, c, d.isSome.toNat]
  | .kvAck t i c => [t, i, c]
  | .mergePart r n o _ _ _ => [r.toNat, n.toNat, o]
  | .mergeResult r n o _ _ _ => [r.toNat, n.toNat, o]
  | .idle _ => []

/-- ARG of a frame: 0 of an IDLE frame; its layout is open for the other types (R419, log 95). -/
def FrameBody.arg (b : FrameBody) : BitVec 64 :=
  match b with
  | .idle _ => 0
  | _ => Config.frameArg b.code b.fields

/-- The 224 payload bytes of a frame: a time word, columns of 32 bytes, the words of a merge; open where R419 gives fields without a
layout (log 95). -/
def FrameBody.payload (b : FrameBody) : List Byte :=
  match b with
  | .idle t => TimeWord.bytes t
  | .kvWrite _ _ _ cols _ => fill 224 (cols.flatMap (bytesOf 32))
  | .kvData _ _ _ (some cols) _ => fill 224 (cols.flatMap (bytesOf 32))
  | .mergePart _ _ _ ws _ _ => fill 224 (ws.flatMap (bytesOf 4))
  | .mergeResult _ _ _ ws _ _ => fill 224 (ws.flatMap (bytesOf 4))
  | .fence .. => fill 224 []
  | .hoist .. => fill 224 []
  | .penSub .. => fill 224 []
  | .rollArrive .. => fill 224 []
  | .rollRelease .. => fill 224 []
  | .kvRead .. => fill 224 []
  | .kvAck .. => fill 224 []
  | _ => fill 224 (Config.framePayload b.code b.fields)

/-- Bytes 0x00 to 0xFB of a frame as it leaves by a port (R418). -/
def PeerFrame.head (f : PeerFrame) (lseq lack : BitVec 16) (cred : List Nat) : List Byte :=
  toLe 1 f.body.code ++
  toLe 1 (64 * f.body.channel + 32 * f.body.poisoned.toNat + 16 * f.body.last.toNat + 8 * f.bcast.toNat) ++
  toLe 2 f.src ++ toLe 2 (if f.bcast then 0 else f.dst) ++ toLe 1 f.hops ++ [(0 : Byte)] ++ bytesOf 2 lseq ++ bytesOf 2 lack ++
  (List.range 4).flatMap (fun v => toLe 1 (cred.getD v 0)) ++ toLe 4 f.eseq ++ bytesOf 8 f.body.arg ++ f.body.payload

/-- The 256 bytes of a frame (R418). -/
def PeerFrame.bytes (f : PeerFrame) (lseq lack : BitVec 16) (cred : List Nat) : List Byte :=
  f.head lseq lack cred ++ bytesOf 4 (crc (f.head lseq lack cred))

/-- The 64 bytes of a report record (R399). -/
def Report.bytes (r : Report) (ctx : Nat) (seqNo : BitVec 24) (phase : Bool) : List Byte :=
  toLe 8 r.roll.toNat ++ bytesOf 1 r.type ++ toLe 1 (ctx % 16) ++ bytesOf 2 r.status ++ bytesOf 4 r.flags ++ bytesOf 8 r.w0 ++
  bytesOf 8 r.w1 ++ bytesOf 28 r.result ++ bytesOf 3 seqNo ++ toLe 1 (128 * phase.toNat)

/-- The bytes that leave with an output: a record, a frame, the output of a vendor-specific command with its 4-byte status (R406), the
data of a read; none of the others has a layout the spec gives. -/
def Output.bytes : Output → List Byte
  | .report c _ r q p => Report.bytes r c q p
  | .frame _ f lseq lack cred => f.bytes lseq lack cred
  | .mailbox status payload => bytesOf 4 status ++ payload
  | .memRead _ data _ => bytesOf 64 data
  | .cxlAnswer _ payload => payload
  | .spdm _ payload => payload
  | .can _ bytes => bytes
  | _ => []

end Sys2Proof.Machine
end

