-- ==== Sys2Proof/Machine/Dispatch.lean ====
section
/-! DEFINITION. The dispatch: one arm for each command. -/

namespace Sys2Proof.Machine

open Sys2Proof

/-- The effect of a command on everything but the queue. -/
def exec (i : Instr) (s : State) : Host.Outcome State Fault Refusal :=
  match i with
  | .issueWord x1 x2 => Sys2Proof.Machine.execIssueWord x1 x2 s
  | .lateComplete x1 => Sys2Proof.Machine.execLateComplete x1 s
  | .forcedCompletion x1 => Sys2Proof.Machine.execForcedCompletion x1 s
  | .resultVisible x1 => Sys2Proof.Machine.execResultVisible x1 s
  | .maskedWriteMerge x1 => Sys2Proof.Machine.execMaskedWriteMerge x1 s
  | .columnWriteDrain x1 => Sys2Proof.Machine.execColumnWriteDrain x1 s
  | .act x1 x2 x3 x4 => Sys2Proof.Machine.execAct x1 x2 x3 x4 s
  | .pre x1 x2 x3 x4 => Sys2Proof.Machine.execPre x1 x2 x3 x4 s
  | .prea x1 x2 x3 x4 => Sys2Proof.Machine.execPrea x1 x2 x3 x4 s
  | .rd x1 x2 x3 x4 => Sys2Proof.Machine.execRd x1 x2 x3 x4 s
  | .rds x1 x2 x3 x4 => Sys2Proof.Machine.execRds x1 x2 x3 x4 s
  | .wr x1 x2 x3 x4 => Sys2Proof.Machine.execWr x1 x2 x3 x4 s
  | .wrm x1 x2 x3 x4 => Sys2Proof.Machine.execWrm x1 x2 x3 x4 s
  | .mac x1 x2 x3 x4 => Sys2Proof.Machine.execMac x1 x2 x3 x4 s
  | .add x1 x2 x3 x4 x5 => Sys2Proof.Machine.execAdd x1 x2 x3 x4 x5 s
  | .mul x1 x2 x3 x4 x5 => Sys2Proof.Machine.execMul x1 x2 x3 x4 x5 s
  | .max x1 x2 x3 x4 x5 => Sys2Proof.Machine.execMax x1 x2 x3 x4 x5 s
  | .cmp x1 x2 x3 x4 x5 => Sys2Proof.Machine.execCmp x1 x2 x3 x4 x5 s
  | .scale x1 x2 x3 x4 x5 => Sys2Proof.Machine.execScale x1 x2 x3 x4 x5 s
  | .exp2 x1 x2 x3 x4 x5 => Sys2Proof.Machine.execExp2 x1 x2 x3 x4 x5 s
  | .cvt x1 x2 x3 x4 x5 => Sys2Proof.Machine.execCvt x1 x2 x3 x4 x5 s
  | .pack x1 x2 x3 x4 x5 => Sys2Proof.Machine.execPack x1 x2 x3 x4 x5 s
  | .cvtmx x1 x2 x3 x4 x5 => Sys2Proof.Machine.execCvtmx x1 x2 x3 x4 x5 s
  | .out x1 x2 x3 x4 x5 => Sys2Proof.Machine.execOut x1 x2 x3 x4 x5 s
  | .mask x1 x2 x3 x4 x5 => Sys2Proof.Machine.execMask x1 x2 x3 x4 x5 s
  | .xfer x1 x2 x3 x4 => Sys2Proof.Machine.execXfer x1 x2 x3 x4 s
  | .hoist x1 x2 x3 => Sys2Proof.Machine.execHoist x1 x2 x3 s
  | .wait x1 x2 x3 => Sys2Proof.Machine.execWait x1 x2 x3 s
  | .kadd x1 x2 x3 => Sys2Proof.Machine.execKadd x1 x2 x3 s
  | .rget x1 x2 x3 => Sys2Proof.Machine.execRget x1 x2 x3 s
  | .rrel x1 x2 x3 => Sys2Proof.Machine.execRrel x1 x2 x3 s
  | .bell x1 x2 x3 => Sys2Proof.Machine.execBell x1 x2 x3 s
  | .roll x1 x2 x3 => Sys2Proof.Machine.execRoll x1 x2 x3 s
  | .fence x1 x2 x3 => Sys2Proof.Machine.execFence x1 x2 x3 s
  | .report x1 x2 x3 => Sys2Proof.Machine.execReport x1 x2 x3 s
  | .agset x1 x2 x3 => Sys2Proof.Machine.execAgset x1 x2 x3 s
  | .agidx x1 x2 x3 => Sys2Proof.Machine.execAgidx x1 x2 x3 s
  | .agskip x1 x2 x3 => Sys2Proof.Machine.execAgskip x1 x2 x3 s
  | .xbase x1 x2 x3 => Sys2Proof.Machine.execXbase x1 x2 x3 s
  | .msk x1 x2 x3 => Sys2Proof.Machine.execMsk x1 x2 x3 s
  | .loop x1 x2 x3 => Sys2Proof.Machine.execLoop x1 x2 x3 s
  | .endl x1 x2 x3 => Sys2Proof.Machine.execEndl x1 x2 x3 s
  | .launchExchange x1 x2 x3 => Sys2Proof.Machine.execLaunchExchange x1 x2 x3 s
  | .launchMerge x1 x2 x3 => Sys2Proof.Machine.execLaunchMerge x1 x2 x3 s
  | .recessWord x1 x2 x3 => Sys2Proof.Machine.execRecessWord x1 x2 x3 s
  | .endWord x1 x2 => Sys2Proof.Machine.execEndWord x1 x2 s
  | .dismissalComplete x1 => Sys2Proof.Machine.execDismissalComplete x1 s
  | .freqChangeComplete x1 => Sys2Proof.Machine.execFreqChangeComplete x1 s
  | .bellRing => Sys2Proof.Machine.execBellRing s
  | .contextSwitch x1 => Sys2Proof.Machine.execContextSwitch x1 s
  | .quantumExpiry x1 => Sys2Proof.Machine.execQuantumExpiry x1 s
  | .scoreboardGrant x1 => Sys2Proof.Machine.execScoreboardGrant x1 s
  | .copy x1 x2 => Sys2Proof.Machine.execCopy x1 x2 s
  | .gather x1 x2 => Sys2Proof.Machine.execGather x1 x2 s
  | .scatter x1 x2 => Sys2Proof.Machine.execScatter x1 x2 s
  | .transposeBufferGrant x1 => Sys2Proof.Machine.execTransposeBufferGrant x1 s
  | .copyShareEnd x1 x2 => Sys2Proof.Machine.execCopyShareEnd x1 x2 s
  | .merge x1 x2 => Sys2Proof.Machine.execMerge x1 x2 s
  | .topk x1 x2 => Sys2Proof.Machine.execTopk x1 x2 s
  | .sample x1 x2 => Sys2Proof.Machine.execSample x1 x2 s
  | .route x1 x2 => Sys2Proof.Machine.execRoute x1 x2 s
  | .mergeShareEnd x1 x2 => Sys2Proof.Machine.execMergeShareEnd x1 x2 s
  | .loadComplete x1 => Sys2Proof.Machine.execLoadComplete x1 s
  | .loadBegin x1 => Sys2Proof.Machine.execLoadBegin x1 s
  | .ctxResetComplete x1 => Sys2Proof.Machine.execCtxResetComplete x1 s
  | .plotCleared x1 x2 => Sys2Proof.Machine.execPlotCleared x1 x2 s
  | .refreshDue x1 => Sys2Proof.Machine.execRefreshDue x1 s
  | .neighbourDeadline x1 => Sys2Proof.Machine.execNeighbourDeadline x1 s
  | .idleRefresh x1 => Sys2Proof.Machine.execIdleRefresh x1 s
  | .scrubColumn x1 x2 => Sys2Proof.Machine.execScrubColumn x1 x2 s
  | .delaySetTimeout x1 => Sys2Proof.Machine.execDelaySetTimeout x1 s
  | .linkAlert x1 x2 => Sys2Proof.Machine.execLinkAlert x1 x2 s
  | .stackLinkRecoveryDone x1 x2 => Sys2Proof.Machine.execStackLinkRecoveryDone x1 x2 s
  | .slateRead x1 x2 => Sys2Proof.Machine.execSlateRead x1 x2 s
  | .slateWrite x1 x2 x3 => Sys2Proof.Machine.execSlateWrite x1 x2 x3 s
  | .fullMapAccess x1 x2 x3 => Sys2Proof.Machine.execFullMapAccess x1 x2 x3 s
  | .slateHold x1 => Sys2Proof.Machine.execSlateHold x1 s
  | .paneWrite x1 x2 => Sys2Proof.Machine.execPaneWrite x1 x2 s
  | .doorbell x1 x2 => Sys2Proof.Machine.execDoorbell x1 x2 s
  | .commandRingWrite x1 x2 x3 => Sys2Proof.Machine.execCommandRingWrite x1 x2 x3 s
  | .doorbellHoldExpiry x1 => Sys2Proof.Machine.execDoorbellHoldExpiry x1 s
  | .ringReinit x1 x2 => Sys2Proof.Machine.execRingReinit x1 x2 s
  | .ackHostLost x1 => Sys2Proof.Machine.execAckHostLost x1 s
  | .reportCfgWrite x1 x2 => Sys2Proof.Machine.execReportCfgWrite x1 x2 s
  | .reportHeadWrite x1 x2 => Sys2Proof.Machine.execReportHeadWrite x1 x2 s
  | .reportWrite x1 => Sys2Proof.Machine.execReportWrite x1 s
  | .msixDelayExpiry x1 => Sys2Proof.Machine.execMsixDelayExpiry x1 s
  | .penHoist x1 x2 => Sys2Proof.Machine.execPenHoist x1 x2 s
  | .rollArrive x1 x2 => Sys2Proof.Machine.execRollArrive x1 x2 s
  | .watchArm x1 x2 x3 x4 x5 x6 => Sys2Proof.Machine.execWatchArm x1 x2 x3 x4 x5 x6 s
  | .watchLimitExpiry x1 x2 => Sys2Proof.Machine.execWatchLimitExpiry x1 x2 s
  | .waitTimeout x1 x2 => Sys2Proof.Machine.execWaitTimeout x1 x2 s
  | .saturationInterval x1 x2 => Sys2Proof.Machine.execSaturationInterval x1 x2 s
  | .cxlLinkRecovery => Sys2Proof.Machine.execCxlLinkRecovery s
  | .cxlLinkDown => Sys2Proof.Machine.execCxlLinkDown s
  | .cxlLinkUp x1 x2 => Sys2Proof.Machine.execCxlLinkUp x1 x2 s
  | .hostLossTimeout => Sys2Proof.Machine.execHostLossTimeout s
  | .perstN => Sys2Proof.Machine.execPerstN s
  | .cxlHotReset => Sys2Proof.Machine.execCxlHotReset s
  | .functionLevelReset => Sys2Proof.Machine.execFunctionLevelReset s
  | .sessionOpen x1 x2 x3 => Sys2Proof.Machine.execSessionOpen x1 x2 x3 s
  | .sessionLockoutExpiry => Sys2Proof.Machine.execSessionLockoutExpiry s
  | .sessionClose x1 => Sys2Proof.Machine.execSessionClose x1 s
  | .ctxCreate x1 x2 x3 => Sys2Proof.Machine.execCtxCreate x1 x2 x3 s
  | .ctxDestroy x1 x2 => Sys2Proof.Machine.execCtxDestroy x1 x2 s
  | .ctxReset x1 x2 => Sys2Proof.Machine.execCtxReset x1 x2 s
  | .quadMode x1 x2 x3 => Sys2Proof.Machine.execQuadMode x1 x2 x3 s
  | .alloc x1 x2 x3 x4 x5 => Sys2Proof.Machine.execAlloc x1 x2 x3 x4 x5 s
  | .free x1 x2 x3 => Sys2Proof.Machine.execFree x1 x2 x3 s
  | .descCreate x1 x2 x3 x4 => Sys2Proof.Machine.execDescCreate x1 x2 x3 x4 s
  | .descDestroy x1 x2 x3 => Sys2Proof.Machine.execDescDestroy x1 x2 x3 s
  | .descRead x1 x2 x3 => Sys2Proof.Machine.execDescRead x1 x2 x3 s
  | .descClearPoison x1 x2 x3 => Sys2Proof.Machine.execDescClearPoison x1 x2 x3 s
  | .load x1 x2 x3 => Sys2Proof.Machine.execLoad x1 x2 x3 s
  | .halfRead x1 x2 x3 x4 x5 x6 => Sys2Proof.Machine.execHalfRead x1 x2 x3 x4 x5 x6 s
  | .penCreate x1 x2 x3 x4 => Sys2Proof.Machine.execPenCreate x1 x2 x3 x4 s
  | .penBind x1 x2 x3 x4 x5 x6 => Sys2Proof.Machine.execPenBind x1 x2 x3 x4 x5 x6 s
  | .penUnbind x1 x2 x3 => Sys2Proof.Machine.execPenUnbind x1 x2 x3 s
  | .penShare x1 x2 x3 x4 x5 => Sys2Proof.Machine.execPenShare x1 x2 x3 x4 x5 s
  | .rollCreate x1 x2 x3 x4 x5 x6 => Sys2Proof.Machine.execRollCreate x1 x2 x3 x4 x5 x6 s
  | .rollBind x1 x2 x3 x4 => Sys2Proof.Machine.execRollBind x1 x2 x3 x4 s
  | .rollUnbind x1 x2 x3 => Sys2Proof.Machine.execRollUnbind x1 x2 x3 s
  | .odRead x1 x2 x3 x4 x5 => Sys2Proof.Machine.execOdRead x1 x2 x3 x4 x5 s
  | .odWrite x1 x2 x3 x4 => Sys2Proof.Machine.execOdWrite x1 x2 x3 x4 s
  | .registerWrite x1 => Sys2Proof.Machine.execRegisterWrite x1 s
  | .snapshotExpiry x1 => Sys2Proof.Machine.execSnapshotExpiry x1 s
  | .identifyMemoryDevice => Sys2Proof.Machine.execIdentifyMemoryDevice s
  | .getHealthInfo => Sys2Proof.Machine.execGetHealthInfo s
  | .getEventRecords x1 => Sys2Proof.Machine.execGetEventRecords x1 s
  | .clearEventRecords x1 => Sys2Proof.Machine.execClearEventRecords x1 s
  | .getTimestamp => Sys2Proof.Machine.execGetTimestamp s
  | .setTimestamp x1 => Sys2Proof.Machine.execSetTimestamp x1 s
  | .getSupportedLogs => Sys2Proof.Machine.execGetSupportedLogs s
  | .getLog => Sys2Proof.Machine.execGetLog s
  | .getFwInfo => Sys2Proof.Machine.execGetFwInfo s
  | .transferFw x1 x2 x3 x4 => Sys2Proof.Machine.execTransferFw x1 x2 x3 x4 s
  | .activateFw x1 x2 => Sys2Proof.Machine.execActivateFw x1 x2 s
  | .getVersion => Sys2Proof.Machine.execGetVersion s
  | .getCapabilities => Sys2Proof.Machine.execGetCapabilities s
  | .negotiateAlgorithms x1 x2 => Sys2Proof.Machine.execNegotiateAlgorithms x1 x2 s
  | .getDigests => Sys2Proof.Machine.execGetDigests s
  | .getCertificate x1 x2 x3 => Sys2Proof.Machine.execGetCertificate x1 x2 x3 s
  | .challenge x1 x2 => Sys2Proof.Machine.execChallenge x1 x2 s
  | .getMeasurements x1 x2 x3 => Sys2Proof.Machine.execGetMeasurements x1 x2 x3 s
  | .startRemoteNode => Sys2Proof.Machine.execStartRemoteNode s
  | .stopRemoteNode => Sys2Proof.Machine.execStopRemoteNode s
  | .enterPreOperational => Sys2Proof.Machine.execEnterPreOperational s
  | .resetCommunication => Sys2Proof.Machine.execResetCommunication s
  | .resetNode => Sys2Proof.Machine.execResetNode s
  | .usdoDownload x1 x2 x3 x4 => Sys2Proof.Machine.execUsdoDownload x1 x2 x3 x4 s
  | .usdoUpload x1 x2 => Sys2Proof.Machine.execUsdoUpload x1 x2 s
  | .usdoSegmentTimeout => Sys2Proof.Machine.execUsdoSegmentTimeout s
  | .heartbeat => Sys2Proof.Machine.execHeartbeat s
  | .tpdo x1 => Sys2Proof.Machine.execTpdo x1 s
  | .emcySend => Sys2Proof.Machine.execEmcySend s
  | .busOffRecovery => Sys2Proof.Machine.execBusOffRecovery s
  | .store x1 => Sys2Proof.Machine.execStore x1 s
  | .restore x1 => Sys2Proof.Machine.execRestore x1 s
  | .nextSlotWrite x1 => Sys2Proof.Machine.execNextSlotWrite x1 s
  | .errorCountClear x1 => Sys2Proof.Machine.execErrorCountClear x1 s
  | .errLogClear x1 => Sys2Proof.Machine.execErrLogClear x1 s
  | .modReset x1 => Sys2Proof.Machine.execModReset x1 s
  | .credentialDigestWrite x1 x2 x3 => Sys2Proof.Machine.execCredentialDigestWrite x1 x2 x3 s
  | .hazardLogClear x1 x2 x3 => Sys2Proof.Machine.execHazardLogClear x1 x2 x3 s
  | .rdThresholdWrite x1 x2 => Sys2Proof.Machine.execRdThresholdWrite x1 x2 s
  | .pwrBudgetWrite x1 x2 => Sys2Proof.Machine.execPwrBudgetWrite x1 x2 s
  | .orderingWrite x1 => Sys2Proof.Machine.execOrderingWrite x1 s
  | .fullMapWrite x1 x2 => Sys2Proof.Machine.execFullMapWrite x1 x2 s
  | .bellPeriodWrite x1 => Sys2Proof.Machine.execBellPeriodWrite x1 s
  | .bellPeriodChange => Sys2Proof.Machine.execBellPeriodChange s
  | .clkAck x1 => Sys2Proof.Machine.execClkAck x1 s
  | .fmcStart x1 => Sys2Proof.Machine.execFmcStart x1 s
  | .fmcDone x1 => Sys2Proof.Machine.execFmcDone x1 s
  | .fmcReferenceStall => Sys2Proof.Machine.execFmcReferenceStall s
  | .gateClose x1 => Sys2Proof.Machine.execGateClose x1 s
  | .gateClosed x1 => Sys2Proof.Machine.execGateClosed x1 s
  | .gateTimeout x1 => Sys2Proof.Machine.execGateTimeout x1 s
  | .gateOpen x1 => Sys2Proof.Machine.execGateOpen x1 s
  | .gateOpened x1 => Sys2Proof.Machine.execGateOpened x1 s
  | .quadIdleGateExpiry x1 => Sys2Proof.Machine.execQuadIdleGateExpiry x1 s
  | .auxPowerGood => Sys2Proof.Machine.execAuxPowerGood s
  | .auxPowerLoss => Sys2Proof.Machine.execAuxPowerLoss s
  | .modResetN => Sys2Proof.Machine.execModResetN s
  | .mainInputPresent => Sys2Proof.Machine.execMainInputPresent s
  | .mainInputLost => Sys2Proof.Machine.execMainInputLost s
  | .pwrBrakeN x1 => Sys2Proof.Machine.execPwrBrakeN x1 s
  | .xtalStartAttempt => Sys2Proof.Machine.execXtalStartAttempt s
  | .xtalAttemptTimeout => Sys2Proof.Machine.execXtalAttemptTimeout s
  | .stabilityMeasurement x1 => Sys2Proof.Machine.execStabilityMeasurement x1 s
  | .xtalNoEdge => Sys2Proof.Machine.execXtalNoEdge s
  | .tripJudgement x1 x2 x3 => Sys2Proof.Machine.execTripJudgement x1 x2 x3 s
  | .stageB2 => Sys2Proof.Machine.execStageB2 s
  | .stageB3 => Sys2Proof.Machine.execStageB3 s
  | .stageB4 => Sys2Proof.Machine.execStageB4 s
  | .stageB5 => Sys2Proof.Machine.execStageB5 s
  | .stageB6 => Sys2Proof.Machine.execStageB6 s
  | .stageB7 => Sys2Proof.Machine.execStageB7 s
  | .sensorConversion x1 x2 => Sys2Proof.Machine.execSensorConversion x1 x2 s
  | .pmbusPoll x1 x2 x3 x4 x5 => Sys2Proof.Machine.execPmbusPoll x1 x2 x3 x4 x5 s
  | .budgetTick => Sys2Proof.Machine.execBudgetTick s
  | .inputCeilingAlert => Sys2Proof.Machine.execInputCeilingAlert s
  | .budgetUnmet => Sys2Proof.Machine.execBudgetUnmet s
  | .bypassTimerExpiry => Sys2Proof.Machine.execBypassTimerExpiry s
  | .ringJoin x1 x2 => Sys2Proof.Machine.execRingJoin x1 x2 s
  | .ringLeave => Sys2Proof.Machine.execRingLeave s
  | .idleSend x1 => Sys2Proof.Machine.execIdleSend x1 s
  | .idleFrame x1 x2 x3 x4 => Sys2Proof.Machine.execIdleFrame x1 x2 x3 x4 s
  | .joinFrame x1 x2 x3 x4 => Sys2Proof.Machine.execJoinFrame x1 x2 x3 x4 s
  | .rosterFrame x1 x2 x3 => Sys2Proof.Machine.execRosterFrame x1 x2 x3 s
  | .fenceFrame x1 x2 x3 => Sys2Proof.Machine.execFenceFrame x1 x2 x3 s
  | .hoistFrame x1 x2 x3 => Sys2Proof.Machine.execHoistFrame x1 x2 x3 s
  | .penSub x1 x2 x3 => Sys2Proof.Machine.execPenSub x1 x2 x3 s
  | .penUpdate x1 x2 x3 x4 => Sys2Proof.Machine.execPenUpdate x1 x2 x3 x4 s
  | .penBindFrame x1 x2 x3 x4 => Sys2Proof.Machine.execPenBindFrame x1 x2 x3 x4 s
  | .rollArriveFrame x1 x2 x3 => Sys2Proof.Machine.execRollArriveFrame x1 x2 x3 s
  | .rollReleaseFrame x1 x2 x3 x4 => Sys2Proof.Machine.execRollReleaseFrame x1 x2 x3 x4 s
  | .kvWrite x1 x2 x3 x4 x5 x6 => Sys2Proof.Machine.execKvWrite x1 x2 x3 x4 x5 x6 s
  | .kvRead x1 x2 x3 x4 x5 => Sys2Proof.Machine.execKvRead x1 x2 x3 x4 x5 s
  | .kvData x1 x2 x3 x4 x5 x6 => Sys2Proof.Machine.execKvData x1 x2 x3 x4 x5 x6 s
  | .kvAck x1 x2 x3 x4 => Sys2Proof.Machine.execKvAck x1 x2 x3 x4 s
  | .mergePart x1 x2 x3 x4 x5 x6 => Sys2Proof.Machine.execMergePart x1 x2 x3 x4 x5 x6 s
  | .mergeResult x1 x2 x3 x4 x5 x6 => Sys2Proof.Machine.execMergeResult x1 x2 x3 x4 x5 x6 s
  | .frameCrcError x1 x2 => Sys2Proof.Machine.execFrameCrcError x1 x2 s
  | .neighbourSilence x1 => Sys2Proof.Machine.execNeighbourSilence x1 s
  | .masterLost => Sys2Proof.Machine.execMasterLost s
  | .electionTimeout => Sys2Proof.Machine.execElectionTimeout s
  | .holdoverExpiry => Sys2Proof.Machine.execHoldoverExpiry s
  | .portTrainTimeout x1 => Sys2Proof.Machine.execPortTrainTimeout x1 s
  | .portCodewordLimit x1 => Sys2Proof.Machine.execPortCodewordLimit x1 s
  | .portRetrain x1 => Sys2Proof.Machine.execPortRetrain x1 s
  | .laneFailure x1 x2 => Sys2Proof.Machine.execLaneFailure x1 x2 s
  | .perstNDeassert => Sys2Proof.Machine.execPerstNDeassert s
  | .modResetNDeassert => Sys2Proof.Machine.execModResetNDeassert s
  | .portLinkDown x1 => Sys2Proof.Machine.execPortLinkDown x1 s
  | .portLinkUp x1 => Sys2Proof.Machine.execPortLinkUp x1 s
  | .masterSilence => Sys2Proof.Machine.execMasterSilence s
  | .canBusError x1 x2 => Sys2Proof.Machine.execCanBusError x1 x2 s

end Sys2Proof.Machine
end

