-- ==== Sys2Proof/Safety.lean ====
section
/-! DEFINITION. What a safe run is: every command of the queue is carried out, and the sparse tables keep their canonical
form. -/

namespace Sys2Proof.Machine

/-- A command is carried out: it ends in a next state. -/
def Runs (c : Instr) (s : State) : Prop := ∃ t, exec c s = .next t

/-- Nothing of a run of n steps stops. -/
def SafeFor (n : Nat) (s : State) : Prop := ∃ t, Host.Core.run Sys2Proof.core n s = .next t

/-- The canonical form of memory: its data and its check bytes (R13, R35). -/
def Memory.wf (m : Memory) : Bool := twf 0 m.data && twf 0 m.chk

/-- A later retirement list of which an earlier one is the beginning, with no plot twice, within its 65,536 entries (R362). -/
def RetiredKept (earlier later : List Nat) : Prop := earlier <+: later ∧ later.length ≤ 65536 ∧ later.Nodup

end Sys2Proof.Machine

/-! ## What commands do to a quadrant -/

namespace Sys2Proof.Machine

/-- A quadrant with one more result in flight: visible lat beats after its beat, under the next order number (R59). -/
def Quad.withResult (x : Quad) (sl lat writer origin : Nat) (ws : List DueWrite) : Quad :=
  { x with dues := x.dues ++ [⟨x.beat, x.beat + lat, x.seq, sl, writer, origin, ws⟩], seq := x.seq + 1 }

/-- One result enters flight in quadrant q, and nothing else changes but the free values set aside. -/
def State.entersResult (s t : State) (q sl lat writer : Nat) (ws : List DueWrite) : Prop :=
  t.quad q = (s.quad q).withResult sl lat writer (s.origin q) ws ∧ (∀ p, p ≠ q → t.quad p = s.quad p) ∧
    t = { s with quads := t.quads, free := t.free }

/-- One result of stochastic rounding enters flight in quadrant q: the generators of the slot in the selected units have given n numbers
each, and nothing else changes (R54, R88). Without stochastic rounding the generators stay. -/
def State.entersRounded (s t : State) (q sl : Nat) (sel : BitVec 4) (sr : Bool) (n lat : Nat) (ws : List DueWrite) : Prop :=
  t.quad q = (s.quad q).withResult sl lat 1 (s.origin q) ws ∧ (∀ p, p ≠ q → t.quad p = s.quad p) ∧
    (∀ u, t.unit u = if sr = true ∧ u ∈ s.units_ q sl sel then (s.unit u).give sl n else s.unit u) ∧
    t = { s with quads := t.quads, units := t.units }

/-- One context slot becomes y, and nothing else changes. -/
def State.slotBecomes (s t : State) (q sl : Nat) (y : Slot) : Prop :=
  t.slot q sl = y ∧ (∀ i, i ≠ sl → t.slot q i = s.slot q i) ∧ t.quad q = { s.quad q with slots := (t.quad q).slots } ∧
    (∀ p, p ≠ q → t.quad p = s.quad p) ∧ t = { s with quads := t.quads }

/-- A slot whose word blocks: at a quiet beat its ISSUING context becomes WAITING (R145, R166). -/
def Slot.blockedOn (x : Slot) (quiet : Bool) (b : Blocked) : Slot :=
  { x with blocked := some b, timedOut := false, st := if quiet && x.st == .issuing then .waiting else x.st }

end Sys2Proof.Machine

/-! ## Frames -/

namespace Sys2Proof.Machine

/-- The hop has taken a frame that is for this module or for all: a broadcast has gone on, the buffer of another owes its credit (R418,
R422, R423). -/
def State.hop (s : State) (h : FrameHead) (b : FrameBody) : State :=
  if h.bcast then (s.took h).passOn h b else (s.took h).owe h.port b.channel

/-- A broadcast of a module that the roster does not list: it belongs to no sequence (log 93). -/
def State.unlisted (s : State) (h : FrameHead) : Bool := h.bcast && (s.posOf h.src.toNat).isNone

/-- The number that the next frame of a frame's sequence carries, 0 of broadcasts that have not begun (R421). -/
def State.awaits (s : State) (h : FrameHead) (b : FrameBody) : Nat := tget 0 s.ring.esin (seqKey h.bcast h.src.toNat b.channel)

/-- A frame that acts here now: the next in order on its hop, addressed to this module or a broadcast of another, and the next of its
sequence, if it belongs to one, with no later one kept (R420, R421, R423). -/
def State.actsHere (s : State) (h : FrameHead) (b : FrameBody) : Prop :=
  let v := s.hop h b
  s.inOrder h = true ∧ (if h.bcast then h.src ≠ v.ownIdent else h.dst = v.ownIdent) ∧
    (v.unlisted h = true ∨ v.ring.early = [] ∧ (h.eseq.toNat = v.awaits h b ∨ h.bcast = true ∧ v.awaits h b = 0))

/-- The state in which the body of such a frame acts: the hop has taken it, and its sequence goes on after it (R421, R423). -/
def State.reached (s : State) (h : FrameHead) (b : FrameBody) : State :=
  let v := s.hop h b
  if v.unlisted h then v
  else
    let key := seqKey h.bcast h.src.toNat b.channel
    { v with ring := { v.ring with esin := tset 0 v.ring.esin key (nextSeq h.bcast h.eseq.toNat) } }

/-- The frame that such a head and body make (R418). -/
def PeerFrame.came (h : FrameHead) (b : FrameBody) : PeerFrame :=
  ⟨h.src.toNat, h.dst.toNat, h.bcast, h.hops.toNat, h.eseq.toNat, b, some h.port.val⟩

end Sys2Proof.Machine

/-! ## Who is heard -/

namespace Sys2Proof.Machine

/-- A mailbox command is heard and granted: the module is ready, its session open, of the operator's role or of the tenant of the
context that the command acts on (R376, R406, R535). -/
def State.grants (s : State) (h : Word64) (who : Option Nat) : Prop :=
  s.boot.cxlReleased = true ∧ s.boot.stage = 7 ∧
    ∃ y, s.session h = some y ∧ (y.tenant = none ∨ who ≠ none ∧ y.tenant = who)

/-- A command for a context that exists and is not ending is heard and granted. -/
def State.grantsOn (s : State) (h : Word64) (c : Nat) : Prop :=
  s.grants h (some c) ∧ (s.ctx c).live = true ∧ (s.ctx c).resetting = false

/-- A record of a context goes into the report buffer at once: its host is there, none of its records waits, and there is room
(R403, R410). -/
def State.roomFor (s : State) (c : Nat) : Prop :=
  (s.ctx c).hostLost = false ∧ (s.ctx c).queue = [] ∧ (s.ctx c).buffer.length < 64 ∧ s.bufferUse < 256

end Sys2Proof.Machine

/-! ## Classes of commands -/

namespace Sys2Proof

/-- The commands that may change module memory, data or check bytes: column and masked writes, issues and events that complete
them, forced completions, engine copies and remote writes (a frame of the ring may bring one in its turn, R421), accesses from
outside when they are served, corrections written back, clearing, and what loses or restarts memory. -/
def Instr.mayStore (i : Instr) : Bool :=
  match i with
  | .issueWord .. | .resultVisible .. | .maskedWriteMerge .. | .rd .. | .rds .. | .wr .. | .wrm .. | .recessWord .. |
    .dismissalComplete .. | .freqChangeComplete .. | .contextSwitch .. | .scoreboardGrant .. | .copy .. |
    .gather .. | .scatter .. | .loadBegin .. | .ctxResetComplete .. | .plotCleared .. | .scrubColumn .. |
    .slateRead .. | .slateWrite .. | .fullMapAccess .. | .slateHold .. | .ctxDestroy .. | .load .. | .odWrite .. |
    .registerWrite .. | .resetCommunication | .resetNode | .usdoDownload .. | .store .. | .restore .. |
    .nextSlotWrite .. | .errorCountClear .. | .errLogClear .. | .modReset .. | .credentialDigestWrite .. |
    .hazardLogClear .. | .rdThresholdWrite .. | .pwrBudgetWrite .. | .orderingWrite .. | .fullMapWrite .. |
    .bellPeriodWrite .. | .clkAck .. | .fmcStart .. | .gateOpened .. | .modResetN | .mainInputLost | .auxPowerGood |
    .auxPowerLoss | .stackLinkRecoveryDone .. |
    .stabilityMeasurement .. | .stageB5 | .sensorConversion .. | .pmbusPoll .. | .kvWrite .. | .kvRead .. |
    .kvData .. | .kvAck .. | .forcedCompletion .. | .joinFrame .. | .rosterFrame .. | .fenceFrame .. | .hoistFrame .. |
    .penSub .. | .penUpdate .. | .penBindFrame .. | .rollArriveFrame .. | .rollReleaseFrame .. | .mergePart .. |
    .mergeResult .. => true
  | _ => false

/-- The session handle of a context-control or dictionary command of the mailbox (R406, R412). -/
def Instr.sessionHandle (i : Instr) : Option Word64 :=
  match i with
  | .sessionClose h | .ctxCreate h .. | .ctxDestroy h .. | .ctxReset (some h) .. | .quadMode h .. | .alloc h .. | .free h ..
    | .descCreate h .. | .descDestroy h .. | .descRead h .. | .descClearPoison h .. | .load h .. | .halfRead h ..
    | .penCreate h .. | .penBind h .. | .penUnbind h .. | .penShare h .. | .rollCreate h .. | .rollBind h ..
    | .rollUnbind h .. | .odRead h .. | .odWrite h .. => some h
  | _ => none

/-- OD_READ and OD_WRITE, which check their entry in place of a context (R501). -/
def Instr.ofDictionary (i : Instr) : Bool :=
  match i with
  | .odRead .. | .odWrite .. => true
  | _ => false

/-- The context that a command names and whose tenant may give it (R406). -/
def Instr.namesContext (i : Instr) : Option Nat :=
  match i with
  | .ctxReset _ c | .alloc _ c .. | .free _ c _ | .descCreate _ c .. | .descDestroy _ c _ | .descRead _ c _
    | .descClearPoison _ c _ | .load _ c _ | .penCreate _ c .. | .penBind _ c .. | .penUnbind _ c _ | .penShare _ c ..
    | .rollCreate _ c .. | .rollBind _ c .. | .rollUnbind _ c _ => some c.val
  | _ => none

/-- A frame that a command brings, by its head and its body (R418, R419); a time word acts on its hop alone and is none of them. -/
def Instr.frame (i : Instr) : Option (FrameHead × Machine.FrameBody) :=
  match i with
  | .joinFrame h name prio candidate => some (h, .join name prio candidate)
  | .rosterFrame h version entries => some (h, .roster version entries)
  | .fenceFrame h ident version => some (h, .fence ident version)
  | .hoistFrame h phys amt => some (h, .hoist phys amt)
  | .penSub h phys subscribe => some (h, .penSub phys subscribe)
  | .penUpdate h phys value st => some (h, .penUpdate phys value st)
  | .penBindFrame h phys tag answer => some (h, .penBind phys tag answer)
  | .rollArriveFrame h rid round => some (h, .rollArrive rid round)
  | .rollReleaseFrame h rid round at_ => some (h, .rollRelease rid round at_)
  | .kvWrite h tid index column cols poison => some (h, .kvWrite tid.toNat index column cols poison)
  | .kvRead h tid index column count => some (h, .kvRead tid.toNat index column count)
  | .kvData h tid index column cols poison => some (h, .kvData tid.toNat index column cols poison)
  | .kvAck h tid index column => some (h, .kvAck tid.toNat index column)
  | .mergePart h rid round off words poison => some (h, .mergePart rid round off words h.last poison)
  | .mergeResult h rid round off words poison => some (h, .mergeResult rid round off words h.last poison)
  | _ => none

/-- The dictionary entry that a command of its own writes over CAN FD, by index and sub-index (R494, R512). -/
def Instr.entryWritten (i : Instr) : Option (Nat × Nat) :=
  match i with
  | .store _ => some (0x1010, 1)
  | .restore _ => some (0x1011, 1)
  | .nextSlotWrite _ => some (0x2A00, 4)
  | .errorCountClear _ => some (0x1003, 0)
  | .errLogClear _ => some (0x2900, 3)
  | .modReset _ => some (0x2903, 0)
  | .credentialDigestWrite none part _ => some (0x2A04, part.val + 1)
  | .credentialDigestWrite (some c) part _ => some (0x2A05, 4 * c.val + part.val + 1)
  | .hazardLogClear q c _ => some (0x2758 + q.val, c.val + 1)
  | .rdThresholdWrite st _ => some (0x2420, st.val + 1)
  | .pwrBudgetWrite brake _ => some (if brake then 0x2203 else 0x2201, 0)
  | .orderingWrite _ => some (0x2800, 0)
  | .fullMapWrite none _ => some (0x2501, 0)
  | .bellPeriodWrite _ => some (0x2605, 0)
  | .clkAck _ => some (0x2101, 0)
  | .fmcStart _ => some (0x2102, 6)
  | _ => none

end Sys2Proof
end

