-- ==== Sys2Proof/Certificates/Slice0/Obligations.lean ====
section
/-! DEFINITION. The statements about the model. A statement of a command's result says under which conditions on the state and the
operands the command has its own effect, and what it leaves alone. -/

open Sys2Proof Sys2Proof.Machine

/-- For every command c and state s, step of s with c put at the front of its queue is exec c on s with the queue's rest.
(The queue is the model's own.) (95_what_each_step_holds.md; notes/assumptions/1.md) -/
def Obligations.StepTakesTheFrontCommand : Prop :=
  ∀ (c : Instr) (s : State), step { s with pending := c :: s.pending } = exec c s

/-- With no command waiting, step answers a next state. Before auxiliary power is good it is the same state. After that its
timebase is 1 ns later, counted in 64 bits; with no change of period stored, a bell that is due at the present timebase and
has not rung rings first, and otherwise none does. Then, with no halves armed, only the timebase, the offset that a member
disciplines and its rate, the time accounts, the recovery procedures and free values change. A member outside holdover comes
nearer to the master by its rate, counted in whole 10 ns, never past an offset of 0, where its rate is 0 (R441); any other
keeps offset and rate. Memory, banks, stacks, boot, power, sensors, context settings and security stay. That a step on an
empty queue is one nanosecond is the model's choice, log 2. (01_architecture.md R20; 01_architecture.md R21;
notes/assumptions/2.md; 12_peer_ring.md R441; notes/assumptions/47.md; notes/assumptions/79.md) -/
def Obligations.EmptyQueueCountsOneNanosecond : Prop :=
  ∀ s : State, s.pending = [] →
    ∃ t, step s = .next t ∧ t.pending = [] ∧
      (s.boot.auxGood = false → t = s) ∧
      (s.boot.auxGood = true → t.ring.timebase = (s.ring.timebase + 1) % 2 ^ 64) ∧
      (t.mem = s.mem ∧ t.banks = s.banks ∧ t.stk = s.stk ∧ t.boot = s.boot ∧ t.pow = s.pow ∧ t.therm = s.therm ∧ t.cfgs = s.cfgs ∧
        t.sec = s.sec) ∧
      (s.boot.auxGood = true → s.ring.nextPeriod = 0 → s.bellDue = true →
        t.ring.lastBell = s.ring.timebase ∧ t.ring.bells = s.ring.bells + 1) ∧
      (s.boot.auxGood = true → s.ring.nextPeriod = 0 → s.bellDue = false →
        t.ring.lastBell = s.ring.lastBell ∧ t.ring.bells = s.ring.bells ∧
        ((∀ c, (s.ctx c).armed = none) →
          t = { s with ring := { s.ring with timebase := t.ring.timebase, timeError := t.ring.timeError, rate := t.ring.rate }
                       quads := t.quads, sync := { s.sync with recoveries := t.sync.recoveries }, free := t.free } ∧
          (s.ring.state ≠ 2 ∨ s.ring.holdover = true → t.ring.timeError = s.ring.timeError ∧ t.ring.rate = s.ring.rate) ∧
          (s.ring.state = 2 → s.ring.holdover = false →
            (let e := s.ring.timeError.toInt
             let w := if (s.ring.timebase + 1) % 10 = 0 then s.ring.rate / 100 else 0
             t.ring.timeError = BitVec.ofInt 32 (if e ≤ 0 then min 0 (e - w) else max 0 (e - w)) ∧
             t.ring.rate = if t.ring.timeError = 0 then 0 else s.ring.rate)) ∧
          ∀ q, t.quad q = { s.quad q with sat := (t.quad q).sat }))

/-- Every command in every state ends in a next state: errors are status codes, counts, log entries, poison or half-mast.
(16_modes_errors_recovery.md R554; 16_modes_errors_recovery.md R555; 16_modes_errors_recovery.md R556) -/
def Obligations.EveryCommandEndsInANextState : Prop :=
  ∀ (c : Instr) (s : State), ∃ t, exec c s = .next t

/-- In State.reset the registers named hold the reset values of the register tables: clocks, power, temperature levels,
memory health, ring, synchronisation, host coupling, contexts, security. Only values the spec gives are named.
(13_clocks_power_thermal.md R486; 13_clocks_power_thermal.md R487; 13_clocks_power_thermal.md R488; 10_dram_controller.md
R363; 12_peer_ring.md R449; 09_synchronisation.md R336; 11_host_coupling.md R412; 05_sequencer.md R161;
14_object_dictionary.md R518) -/
def Obligations.ResetHoldsTheDictionaryDefaults : Prop :=
  let s := State.reset
  (s.clk.fmc.reference = 1 ∧ s.clk.fmc.gate = 38400 ∧ s.clk.quadIdle = 200 ∧ s.clk.trips = 0) ∧
  (s.pow.mode = 0 ∧ s.pow.budget = (if Config.partIsAE then 700 else 720) ∧ s.pow.brakeBudget = 300 ∧ s.pow.fixedRate = 32 ∧
    s.pow.fastLimit = 0 ∧ s.pow.slowLimit = 3 ∧ s.pow.lateHoldoff = 1000) ∧
  (s.therm.hubWarn = 95 ∧ s.therm.hubThrottle = 100 ∧ s.therm.stackWarn = 85 ∧ s.therm.stackThrottle = 92) ∧
  (s.health.scrubHours = 24 ∧ s.health.ceBankLimit = 32 ∧ s.health.hardLimit = 4 ∧
    ∀ st, (s.stack st).rdThreshold = 2048) ∧
  (s.ring.state = 0 ∧ s.ring.position = 255 ∧ s.ring.depth = 255 ∧ s.ring.enable = 0 ∧ s.ring.priority = 128 ∧
    s.ring.bellStored = 1024) ∧
  (s.sync.ordering = 1 ∧ s.sync.rollLead = 2) ∧
  (s.host.doorbellHold = 20 ∧ s.host.fullMap = false ∧ s.host.linkState = 0) ∧
  (s.mgmt.quantum = 4096 ∧ ∀ c, (s.cfg c).priority = 1 ∧ (s.cfg c).waitLimit = 100000 ∧ (s.cfg c).penQuota = 1024) ∧
  (s.sec.nextSlot = 255 ∧ s.boot.stage = 0)

/-- State.reset has memory in canonical form, and its retirement list is within 65,536 entries and names no plot twice.
(02_bank_units.md R35; 10_dram_controller.md R362) -/
def Obligations.ResetMeetsTheKeptForms : Prop :=
  Memory.wf State.reset.mem = true ∧ RetiredKept State.reset.health.retired State.reset.health.retired ∧
    State.reset.pending = []

/-- For every state whose memory (data and check bytes) is in canonical form, addresses strictly rising and no entry equal
to what an unlisted address reads as, the state after any step has its memory in that form: two memories with the same bytes
are the same data. (01_architecture.md R13; 02_bank_units.md R35; notes/assumptions/7.md) -/
def Obligations.MemoryStaysInCanonicalForm : Prop :=
  ∀ s t : State, Memory.wf s.mem = true → step s = .next t → Memory.wf t.mem = true

/-- For every state whose retirement list has at most 65,536 entries and names no plot twice, after any step the list is the
old one with entries added behind it, still within 65,536 and naming no plot twice; so no command, reset or power loss
un-retires a plot. (10_dram_controller.md R362; 15_security_and_startup.md R541) -/
def Obligations.RetiredPlotsStayRetired : Prop :=
  ∀ s t : State, RetiredKept s.health.retired s.health.retired → step s = .next t →
    RetiredKept s.health.retired t.health.retired

/-- For every state with commands c :: cs waiting, the state after a step has exactly cs waiting: no meaning, however deep,
drops, adds or reorders a waiting command. (95_what_each_step_holds.md; notes/assumptions/1.md) -/
def Obligations.QueueLosesOnlyItsFront : Prop :=
  ∀ (c : Instr) (cs : List Instr) (s t : State), s.pending = c :: cs → step s = .next t → t.pending = cs

/-- For every command outside the list of storing commands (WR, WRM, merges and issues that complete masked writes, copies
and remote writes, slate writes and the events that serve waiting accesses, forced completions, scrubs, clears, context
ends, frames that bring a remote write in its turn, the end of a link recovery, and the resets and power events that lose or
zero memory), memory after it is memory before it. (02_bank_units.md R57; 10_dram_controller.md R342;
15_security_and_startup.md R541) -/
def Obligations.OnlyStoringCommandsChangeMemory : Prop :=
  ∀ (c : Instr) (s t : State), c.mayStore = false → exec c s = .next t → t.mem = s.mem

/-- For every flat address below 1,280 GiB its bank-view address lies in a stack 0 to 19 and maps back to it, and for every
bank-view address in a stack 0 to 19 its flat address lies below 1,280 GiB and maps back to it. (01_architecture.md R16) -/
def Obligations.FlatAndBankViewsAreInverse : Prop :=
  (∀ f, f < 20 * 2 ^ 36 → flatToBank f < 20 * 2 ^ 36 ∧ bankToFlat (flatToBank f) = f) ∧
  (∀ b, b < 20 * 2 ^ 36 → bankToFlat b < 20 * 2 ^ 36 ∧ flatToBank (bankToFlat b) = b)

/-- Storing 32 bytes in a column with fresh check bytes, XORed with the poison pattern when poisoned, makes the column
decode as clean, or as poisoned, with those bytes; the 36 stored bytes of every other column are unchanged.
(02_bank_units.md R35; 02_bank_units.md R36; 02_bank_units.md R37) -/
def Obligations.StoredColumnReadsBack : Prop :=
  ∀ (m : Memory) (col : Nat) (d : List Byte) (poison : Bool), d.length = 32 →
    ((m.store col d poison).decode col).1 = (if poison then .poisoned else .clean) ∧
    ((m.store col d poison).decode col).2 = d ∧
    ∀ other, other ≠ col → (m.store col d poison).raw other = m.raw other

/-- For every context-control or dictionary command of the mailbox and every session handle that is not open, once the
module is ready the command answers 0x001B with no payload; nothing else of the state changes. (11_host_coupling.md R406;
15_security_and_startup.md R535; 16_modes_errors_recovery.md R554) -/
def Obligations.MailboxNeedsAnOpenSession : Prop :=
  ∀ (c : Instr) (h : Word64) (s : State), c.sessionHandle = some h → s.session h = none → s.boot.cxlReleased = true →
    s.boot.stage = 7 → exec c s = .next (s.answer Code.accessDenied [])

/-- For every context-control command that names a context (or none) and a session of the tenant of another context, the
command answers ACCESS_DENIED and changes nothing else. (11_host_coupling.md R406; 15_security_and_startup.md R535;
16_modes_errors_recovery.md R554) -/
def Obligations.TenantReachesOnlyItsContext : Prop :=
  ∀ (c : Instr) (h : Word64) (k : Nat) (y : Session) (s : State), c.sessionHandle = some h → c.ofDictionary = false →
    c ≠ .sessionClose h → c.namesContext ≠ some k → s.session h = some y → y.tenant = some k → s.boot.cxlReleased = true →
    s.boot.stage = 7 → exec c s = .next (s.answer Code.accessDenied [])

/-- For every RD_THRESHOLD of at least 2 and every activation table of at most 64 entries with distinct rows and counts
below the threshold, one activate of any row leaves such a table; a neighbour refresh is queued exactly when the row's count
would reach the threshold, and its count is then 0. (10_dram_controller.md R347) -/
def Obligations.ActivationTablesStayBounded : Prop :=
  ∀ (thr : Nat) (t : List (BitVec 16 × BitVec 16)) (row : BitVec 16), 2 ≤ thr → thr < 65536 →
    t.length ≤ 64 → (t.map (·.1)).Nodup → (∀ e ∈ t, e.2.toNat < thr) →
    let r := activate thr t row
    r.1.length ≤ 64 ∧ (r.1.map (·.1)).Nodup ∧ (∀ e ∈ r.1, e.2.toNat < thr) ∧
    (r.2 = true ↔ ∃ e ∈ t, e.1 = row ∧ e.2.toNat + 1 = thr) ∧ (r.2 = true → (row, 0) ∈ r.1)

/-- RING_JOIN outside the ring: a failed step leaves it ALONE with the reason; while the ports' gates open it waits,
JOINING; a port comes up only with the partner it must meet, without one on plane 0 the join fails with 2, on plane 1 with
6. Not listed and with no master met it begins an election, with one it sends JOIN; elected it ends as MASTER; listed, with
ring time at hand, it steps forward, slews back up to 1 ms or, all contexts dismissed, steps back, takes the master's words
and is JOINED; a step back that must wait leaves it JOINING. RING_LEAVE (once its FENCE frame is out), MASTER_LOST,
BYPASS_TIMER_EXPIRY and a FENCE frame naming it put a member out: switches closed, ports off, no member, request, kept frame
or wait for a remote binding, remote bindings dead, its own bell period; a recovery runs. A FENCE frame, or silence on both
planes seen from the east, removes a member; seen from the west also, where that module's eastern link is down: in a ring of
over two that is free (log 46). MASTER_SILENCE begins an election, ELECTION_TIMEOUT ends it with the highest priority and
lowest identifier, who enrols all that asked. JOIN frames enrol at their place eastward, or note a candidate; newer ROSTER
frames replace. Memory stays. A frame acts in its turn, on the state its hop leaves; where its condition does not hold only
the hop is left, and the other commands change nothing. (09_synchronisation.md R330; 12_peer_ring.md R413; 12_peer_ring.md
R423; 12_peer_ring.md R426; 12_peer_ring.md R429; 12_peer_ring.md R431; 12_peer_ring.md R433; 12_peer_ring.md R434;
12_peer_ring.md R435; 12_peer_ring.md R439; 12_peer_ring.md R444; 16_modes_errors_recovery.md R553) -/
def Obligations.RingMembersJoinLeaveAndFence : Prop :=
  ∀ s : State,
    let dead (t : State) (p : PenBinding → Prop) : Prop := ∀ c, c < 16 → ∀ i, (t.binding c i).kind = 2 → p (t.binding c i) →
      (t.binding c i).dead = true
    let shut (t : State) : Prop := t.boot.open0 = false ∧ t.boot.open1 = false ∧ t.boot.bypassArmed = false ∧
      ∀ p, p < 4 → (t.port p).st = 0 ∧ (t.port p).lseq = 0 ∧ (t.port p).lack = 0 ∧ (t.port p).replay = [] ∧ (t.port p).own = []
    let left (u t : State) (st : BitVec 8) : Prop := shut t ∧ t.ring.state = st ∧ t.ring.position = 255 ∧ t.ring.roster = [] ∧
      t.ring.rosterVer = 0 ∧ t.ring.leaving = false ∧ t.ring.electing = false ∧
      (∀ r ∈ t.ring.requests, r.answered ≠ none) ∧ t.ring.binds = [] ∧ t.ring.kvWait = [] ∧ t.ring.esin = [] ∧ t.ring.early = [] ∧ t.sync.subs = [] ∧
      t.ring.period = u.ring.bellStored.toNat ∧ recLeave ∈ t.sync.recoveries ∧ dead t (fun _ => True) ∧ t.mem = u.mem
    let removed (u t : State) (id : BitVec 14) : Prop := t.ring.roster = u.ring.roster.filter (fun e => decide (e.ident ≠ id)) ∧
      t.ring.fences = bump u.ring.fences 1 ∧ t.ring.lastFenced = id.zeroExtend 16 ∧ t.ring.state = u.ring.state ∧
      (∀ r ∈ t.ring.requests, r.module = id.toNat → r.answered ≠ none) ∧ (∀ b ∈ t.ring.binds, b.2.2.1 ≠ id) ∧ dead t (fun b => b.module = id) ∧
      (u.ring.masterId.toNat = id.toNat → t.ring.electing = true) ∧ recFence ∈ t.sync.recoveries ∧ t.mem = u.mem
    (s.inRing = false → ∀ (word : Option TimeWord) (partners : List (Option (Fin 4))),
      let good (p : Nat) : Prop := ∃ n, partners.getD p none = some n ∧ n.val = partnerOf p
      let trains := s.outOfRing = true ∨ s.planeUp 0 = false
      let trained (t : State) (p : Nat) : Prop := (t.port p).st = match partners.getD p none with
        | none => 5
        | some n => if n.val = partnerOf p then (if (s.port p).halfLanes.isSome then 4 else 3) else 2
      let gated := ∃ p, p < 4 ∧ s.shutGate (4 + p) = true
      let up0 := ¬ gated ∧ (trains → good 0 ∨ good 2)
      let waits (t : State) : Prop := (s.outOfRing = true → t.ring.state = 1) ∧ t.planeUp 0 = true ∧
        t.ring.timebase = s.ring.timebase ∧ t.ring.roster = s.ring.roster ∧ t.mem = s.mem
      let joined (t : State) : Prop := t.ring.joinResult = 0 ∧ t.boot.open1 = true ∧ trained t 1 ∧ trained t 3 ∧
        (trains → t.boot.open0 = true ∧ trained t 0 ∧ trained t 2) ∧ t.ring.electing = false ∧
        t.ring.position = (match s.posOf s.ring.moduleId.toNat with
          | some p => BitVec.ofNat 8 p
          | none => 255)
      (∀ r : BitVec 8, r ≠ 0 → ∃ t, exec (.ringJoin r ⟨word, partners⟩) s = .next t ∧ left s t 0 ∧ t.ring.joinResult = r) ∧
      (gated → ∃ t, exec (.ringJoin 0 ⟨word, partners⟩) s = .next t ∧ (s.outOfRing = true → t.ring.state = 1 ∧
          ∀ p, p < 4 → s.shutGate (4 + p) = true → (t.gate (4 + p)).state = 3) ∧
        t.boot = s.boot ∧ t.ring.roster = s.ring.roster ∧ t.mem = s.mem) ∧
      (¬ gated → ¬ up0 → ∃ t, exec (.ringJoin 0 ⟨word, partners⟩) s = .next t ∧ left s t 0 ∧ t.ring.joinResult = 2) ∧
      (up0 → s.ring.electing = true → ∃ t, exec (.ringJoin 0 ⟨word, partners⟩) s = .next t ∧ waits t) ∧
      (up0 → s.ring.electing = false →
        (s.electedHere = true → ¬ (good 1 ∨ good 3) →
          ∃ t, exec (.ringJoin 0 ⟨word, partners⟩) s = .next t ∧ left s t 0 ∧ t.ring.joinResult = 6) ∧
        (s.electedHere = true → good 1 ∨ good 3 → ∃ t, exec (.ringJoin 0 ⟨word, partners⟩) s = .next t ∧ t.ring.state = 3 ∧
          joined t ∧ t.ring.masterId = s.ring.masterId ∧ t.ring.roster = s.ring.roster) ∧
        (s.rostered = false → ∃ t, exec (.ringJoin 0 ⟨none, partners⟩) s = .next t ∧ waits t ∧ t.ring.electing = true ∧
          t.ring.elections = bump s.ring.elections 1 ∧
          t.ring.candidates = (s.ring.priority, s.ownIdent) :: s.ring.candidates) ∧
        (s.rostered = false → ∀ w : TimeWord, ∃ t u, exec (.ringJoin 0 ⟨some w, partners⟩) s = .next t ∧ waits t ∧ waits u ∧
          t.ring.electing = false ∧ t = u.broadcast (.join s.ring.name s.ring.priority false)) ∧
        (s.electedHere = false → s.rostered = true →
          (∃ t, exec (.ringJoin 0 ⟨none, partners⟩) s = .next t ∧ waits t) ∧
          (∀ w : TimeWord, good 1 ∨ good 3 → w.txTime < 2 ^ 64 → s.ring.timebase + 9000000 < 2 ^ 64 →
            (s.ring.timebase ≤ w.txTime + 1000000 ∨ (∀ c ∈ s.ctxs, c.2.dismissed = true) →
              ∃ t, exec (.ringJoin 0 ⟨some w, partners⟩) s = .next t ∧ t.ring.state = 2 ∧ joined t ∧
                (∀ m, w.master = some m → t.ring.masterId = m.zeroExtend 16 ∧ t.ring.ringLead = w.rollLead.toNat ∧
                  t.ring.nextPeriod = w.nextPeriod ∧ t.ring.changeAt = w.changeAt ∧
                  (w.bellPeriod ≠ 0 → t.ring.period = w.bellPeriod)) ∧
                (s.ring.timebase < w.txTime → t.ring.timebase = w.txTime ∧ t.ring.timeSteps = bump s.ring.timeSteps 1) ∧
                (w.txTime ≤ s.ring.timebase → s.ring.timebase ≤ w.txTime + 1000000 →
                  t.ring.timebase = s.ring.timebase + 9 * (s.ring.timebase - w.txTime - 12) ∧
                  t.ring.timeSteps = s.ring.timeSteps) ∧
                (w.txTime + 1000000 < s.ring.timebase → t.ring.timebase = w.txTime ∧
                  t.ring.timeSteps = bump s.ring.timeSteps 1))) ∧
          (∀ w : TimeWord, w.txTime + 1000000 < s.ring.timebase → (∃ c ∈ s.ctxs, c.2.dismissed = false) →
              ∃ t, exec (.ringJoin 0 ⟨some w, partners⟩) s = .next t ∧ waits t)))) ∧
    (s.inRing = true → ∀ r met, exec (.ringJoin r met) s = .next s) ∧
    (s.inRing = false → exec .ringLeave s = .next s ∧ ∀ p, exec (.neighbourSilence p) s = .next s) ∧
    (s.inRing = true → (s.ring.leaving = true → exec .ringLeave s = .next s) ∧
      (s.ring.leaving = false →
        let u := (s.startRecovery recLeave).broadcast (.fence s.ownIdent s.ring.rosterVer)
        (u.fencePending = false → ∃ t, exec .ringLeave s = .next t ∧ left s t 0) ∧
        (u.fencePending = true → exec .ringLeave s = .next { u with ring := { u.ring with leaving := true } })) ∧
      (∀ p : Fin 4,
        let u : State := { s with ring := { s.ring with silent := p.val :: s.ring.silent.filter (fun x => decide (x ≠ p.val)) } }
        let hears := u.silentSide (p.val / 2) = false ∨ 2 ≤ p.val ∧ s.portOn 1 0 = none
        (hears ∨ s.neighbour p = none → exec (.neighbourSilence p) s = .next u) ∧
        (∀ id : BitVec 14, ¬ hears → s.neighbour p = some id →
          let fences := ∃ t, exec (.neighbourSilence p) s = .next t ∧ removed s t id ∧ t.ring.rosterVer = s.ring.rosterVer + 1
          (2 ≤ p.val → fences) ∧
          (p.val < 2 → s.ring.roster.length ≤ 2 → s.portOn 1 0 = none → fences) ∧
          (p.val < 2 → s.ring.roster.length ≤ 2 → s.portOn 1 0 ≠ none → exec (.neighbourSilence p) s = .next u) ∧
          (p.val < 2 → 2 < s.ring.roster.length →
            fences ∨ exec (.neighbourSilence p) s = .next { u with free := s.free + 1 })))) ∧
    (∀ (h : FrameHead) (id : BitVec 14) (version : Nat), s.actsHere h (.fence id version) →
      let u := s.reached h (.fence id version)
      (u.inRing = false → exec (.fenceFrame h id version) s = .next u) ∧
      (u.inRing = true →
        (id = u.ownIdent → ∃ t, exec (.fenceFrame h id version) s = .next t ∧ left u t 4 ∧
          t.ring.fences = bump u.ring.fences 1 ∧ t.ring.lastFenced = id.zeroExtend 16) ∧
        (id ≠ u.ownIdent → (u.posOf id.toNat).isSome = true → ∃ t, exec (.fenceFrame h id version) s = .next t ∧ removed u t id ∧
          t.ring.rosterVer = max u.ring.rosterVer version) ∧
        (id ≠ u.ownIdent → u.posOf id.toNat = none → exec (.fenceFrame h id version) s = .next u))) ∧
    (s.ring.state ≠ 2 → exec .masterLost s = .next s ∧ exec .masterSilence s = .next s ∧ exec .holdoverExpiry s = .next s) ∧
    (s.ring.electing = true → exec .masterSilence s = .next s) ∧
    (s.ring.holdover = false ∨ s.bestNeighbour = none → exec .holdoverExpiry s = .next s) ∧
    (s.ring.electing = false → exec .electionTimeout s = .next s) ∧
    (s.ring.electing = true → s.ring.candidates = [] → exec .electionTimeout s =
      .next { s with ring := { s.ring with electing := false } }) ∧
    (s.boot.bypassArmed = false → exec .bypassTimerExpiry s = .next s) ∧
    (s.ring.state = 2 → (∃ t, exec .masterLost s = .next t ∧ left s t 0) ∧
      (s.ring.electing = false → ∃ t, exec .masterSilence s = .next t ∧ t.ring.electing = true ∧ t.ring.holdover = true ∧
        t.ring.candidates = (s.ring.priority, s.ownIdent) :: s.ring.candidates ∧
        t.ring.elections = bump s.ring.elections 1 ∧ t.ring.state = 2 ∧ t = { s with ring := t.ring, out := t.out }) ∧
      (∀ d p, s.ring.holdover = true → s.bestNeighbour = some (d, p) → exec .holdoverExpiry s = .next { s with ring := { s.ring with
        holdover := false, longPath := true, depth := BitVec.ofNat 8 (min 254 (d + 1)) } })) ∧
    (∀ b, s.ring.electing = true → bestCandidate s.ring.candidates = some b → ∃ t, exec .electionTimeout s = .next t ∧
      b ∈ s.ring.candidates ∧ (∀ c ∈ s.ring.candidates, c.1.toNat < b.1.toNat ∨ c.1 = b.1 ∧ b.2.toNat ≤ c.2.toNat) ∧
      t.ring.electing = false ∧ t.ring.candidates = [] ∧
      (b.2 = s.ownIdent → t.ring.masterId = s.ring.moduleId ∧ t.ring.depth = 0 ∧
        t.ring.rosterVer = s.ring.rosterVer + 1 ∧ (s.ring.state = 2 → t.ring.state = 3) ∧
        (s.ring.roster = [] → t.ring.roster.head? = some ⟨0, s.ownIdent, true⟩) ∧
        (∀ e ∈ s.ring.roster, ∃ e' ∈ t.ring.roster, e'.ident = e.ident ∧ e'.pos = e.pos) ∧
        (s.ring.roster.length + s.ring.candidates.length < 64 → ∀ c ∈ s.ring.candidates, ∃ e ∈ t.ring.roster, e.ident = c.2)) ∧
      (b.2 ≠ s.ownIdent → t.ring.masterId = b.2.zeroExtend 16 ∧ t.ring.state = s.ring.state) ∧
      t = { s with ring := t.ring, out := t.out }) ∧
    (∀ (h : FrameHead) (name : Word32) (prio : BitVec 8) (cand : Bool), s.actsHere h (.join name prio cand) →
      let u := s.reached h (.join name prio cand)
      let known := (∃ e ∈ u.ring.roster, e.ident = h.src)
      let enrols := u.ring.state = 3 ∨ u.ring.state = 1 ∧ u.electedHere = true
      let notes := name = u.ring.name ∧ cand = true ∧ u.outOfRing = false
      let place := u.joinPlace h.port h.hops.toNat
      (∀ p, enrols → name = u.ring.name → ¬ known → freePos u.ring.roster = some p →
        ∃ t, exec (.joinFrame h name prio cand) s = .next t ∧
          t.ring.roster = u.ring.roster.take place ++ ⟨p, h.src, false⟩ :: u.ring.roster.drop place ∧
          t.ring.rosterVer = u.ring.rosterVer + 1 ∧ t = { u with ring := t.ring, out := t.out }) ∧
      (enrols → name ≠ u.ring.name ∨ known ∨ freePos u.ring.roster = none →
        exec (.joinFrame h name prio cand) s = .next u) ∧
      (¬ enrols → ¬ notes → exec (.joinFrame h name prio cand) s = .next u) ∧
      (¬ enrols → notes → u.ring.state ≠ 1 ∨ u.ring.electing = true → exec (.joinFrame h name prio cand) s =
        .next { u with ring := { u.ring with candidates := u.ring.candidates ++ [(prio, h.src)] } }) ∧
      (¬ enrols → notes → u.ring.state = 1 → u.ring.electing = false → ∃ t, exec (.joinFrame h name prio cand) s = .next t ∧
        t.ring.electing = true ∧ t.ring.elections = bump u.ring.elections 1 ∧
        t.ring.candidates = (u.ring.priority, u.ownIdent) :: u.ring.candidates ++ [(prio, h.src)] ∧
        t = { u with ring := t.ring, out := t.out })) ∧
    (∀ (h : FrameHead) (version : Nat) (es : List RosterEntry), s.actsHere h (.roster version es) →
      let u := s.reached h (.roster version es)
      (u.outOfRing = true ∨ u.ring.state = 3 ∨ version ≤ u.ring.rosterVer → exec (.rosterFrame h version es) s = .next u) ∧
      (u.outOfRing = false → u.ring.state ≠ 3 → u.ring.rosterVer < version →
        ∃ t, exec (.rosterFrame h version es) s = .next t ∧ t.ring = { u.ring with
            roster := es, rosterVer := version, masterId := t.ring.masterId, position := t.ring.position
            electing := t.ring.electing, candidates := t.ring.candidates } ∧
          (∀ e, es.find? (fun e => e.master) = some e →
            t.ring.masterId = e.ident.zeroExtend 16 ∧ t.ring.electing = false ∧ t.ring.candidates = []) ∧
          ((∀ e ∈ es, e.master = false) → t.ring.masterId = u.ring.masterId ∧ t.ring.electing = u.ring.electing ∧
            t.ring.candidates = u.ring.candidates) ∧
          (u.ring.state = 1 → t.ring.position = u.ring.position) ∧
          (∀ e, u.ring.state ≠ 1 → es.find? (fun e => decide (e.ident.toNat = u.ring.moduleId.toNat)) = some e →
            t.ring.position = BitVec.ofNat 8 e.pos) ∧ t = { u with ring := t.ring })) ∧
    (s.boot.bypassArmed = true → ∃ t, exec .bypassTimerExpiry s = .next t ∧ shut t ∧
      (s.inRing = true ∨ s.ring.state = 1 → left s t 0) ∧
      (s.outOfRing = true → t.ring.state = s.ring.state ∧
        t = { s with boot := t.boot, ring := { s.ring with ports := t.ring.ports } }))

/-- A frame out of order on its hop changes nothing; the hop of one in order changes ports, silence, sequence numbers and
messages to subscribers. One for another module goes on; one before its turn is kept, one delivered before dropped, one in
its turn acts, then those kept for it. IDLE_SEND over a link that is up, with two credits of VC0 and room in the replay
buffer, sends the time word; IDLE_FRAME of a module in the ring notes the hop's delay and the partner's word and, except at
the master, follows the least depth and the master's period; a neighbour with a fault of its own is fenced as by silence.
Port events change that port: a CRC error resends what follows the LACK in order, with its numbers and credits; training
ends up with the right partner or fails, a lane failure halves the port or fails it; a link that goes down sends its
unacknowledged frames another way. Of a joined module: HOIST raises its pennant and tells its subscribers; PEN_SUB adds a
subscriber and tells it VALUE and STATE, after an earlier message has arrived; PEN_UPDATE is kept and releases a word whose
wait it meets; PEN_BIND requests, answers and give-backs act; ROLL_ARRIVE reaches the home, ROLL_RELEASE sets the bell or
releases a late round; with its last frame a MERGE part waits for its round or is folded on, and a MERGE result reaches
every share. Where a frame's condition does not hold only its hop is left. (09_synchronisation.md R296;
09_synchronisation.md R304; 09_synchronisation.md R319; 09_synchronisation.md R320; 12_peer_ring.md R415; 12_peer_ring.md
R417; 12_peer_ring.md R420; 12_peer_ring.md R421; 12_peer_ring.md R422; 12_peer_ring.md R440; 12_peer_ring.md R441;
12_peer_ring.md R448) -/
def Obligations.RingFramesAndPortsAct : Prop :=
  ∀ s : State,
    (∀ (i : Instr) (h : FrameHead) (b : FrameBody), i.frame = some (h, b) →
      let k := s.took h
      let v := s.hop h b
      let e := v.awaits h b
      let f := PeerFrame.came h b
      (s.inOrder h = false → exec i s = .next s) ∧
      (s.ring.leaving = false → k = { s with
        ring := { s.ring with ports := k.ring.ports, silent := k.ring.silent, eseq := k.ring.eseq }
        sync := { s.sync with news := k.sync.news }, out := k.out }) ∧
      (s.inOrder h = true → h.bcast = false → h.dst ≠ k.ownIdent →
        (h.hops.toNat ≤ 1 → exec i s = .next v) ∧
        (1 < h.hops.toNat → exec i s = .next (k.enqueue (k.wayOn h)
          ⟨h.src.toNat, h.dst.toNat, false, h.hops.toNat - 1, h.eseq.toNat, b, some h.port.val⟩))) ∧
      (s.inOrder h = true → h.bcast = true → h.src = v.ownIdent → exec i s = .next v) ∧
      (s.inOrder h = true → (if h.bcast then h.src ≠ v.ownIdent else h.dst = k.ownIdent) →
        (v.unlisted h = true → exec i s = .next (v.deliver f)) ∧
        (v.unlisted h = false →
          (h.eseq.toNat = e ∨ h.bcast = true ∧ e = 0 → exec i s = .next
            (((s.reached h b).deliver f).deliverEarly (seqKey h.bcast h.src.toNat b.channel) v.ring.early.length)) ∧
          (h.eseq.toNat ≠ e → ¬ (h.bcast = true ∧ e = 0) →
            (2 ^ 31 ≤ (h.eseq.toNat + 2 ^ 32 - e) % 2 ^ 32 → exec i s = .next v) ∧
            ((h.eseq.toNat + 2 ^ 32 - e) % 2 ^ 32 < 2 ^ 31 → exec i s = .next { v with ring := { v.ring with
              early := v.ring.early ++ [f] } }))))) ∧
    (∀ (p : Fin 4),
      let x := s.port p
      let only (t : State) (y : Port) : Prop := (∀ i, t.port i = if i = p.val then y else s.port i) ∧
        t = { s with ring := { s.ring with ports := t.ring.ports }, out := t.out, free := t.free }
      let cut (y : Port) (st : BitVec 8) : Port := { y with
        st := st, partnerDepth := 255, lseq := 0, lack := 0, replay := [], used := [], owed := []
        own := y.replay.map (·.frame) ++ y.own }
      let forgot (y : Port) : Port :=
        { y with transit := y.transit.map (fun f => if f.via = some p.val then { f with via := some 4 } else f) }
      let lost (i : Instr) (y : Port) : Prop := ∃ u : State,
        (∀ j, u.port j = if j < 4 then forgot (if j = p.val then y else s.port j) else s.port j) ∧
        u = { s with ring := { s.ring with ports := u.ring.ports }, free := u.free } ∧
        exec i s = .next (if s.ring.state = 2 then u.reroute.chooseDepth else u.reroute).checkLeave
      (x.up = true →
        (2 ≤ x.left 0 → x.replay.length < 256 → ∃ t n f, exec (.idleSend p) s = .next t ∧
          let fr : PeerFrame := ⟨s.ring.moduleId.toNat, 0, false, 1, 0, .idle { s.timeWord p n with txFrac := f }, none⟩
          t.out = .frame p.val fr (x.lseq + 1) x.lack x.returns :: s.out ∧
          only t { x with
            lseq := x.lseq + 1, replay := x.replay ++ [⟨x.lseq + 1, fr, x.returns⟩], used := tmod 0 x.used 0 (· + 1), owed := []
            transit := x.transit.erase fr, own := x.own.erase fr }) ∧
        (∃ n, 65 ≤ n ∧ lost (.portCodewordLimit p) (cut { x with fecUncorrected := bump x.fecUncorrected n } 5)) ∧
        lost (.portLinkDown p) (cut x 2) ∧
        (∀ lane : Fin 8, (x.halfLanes = none →
            lost (.laneFailure p lane) (cut { x with halfLanes := some (decide (lane.val < 4)) } 2)) ∧
          (x.halfLanes = some (decide (4 ≤ lane.val)) → lost (.laneFailure p lane) (cut x 5)) ∧
          (x.halfLanes = some (decide (lane.val < 4)) → exec (.laneFailure p lane) s = .next s))) ∧
      (x.up = false ∨ x.left 0 < 2 ∨ 256 ≤ x.replay.length → exec (.idleSend p) s = .next s) ∧
      (x.up = false → exec (.portCodewordLimit p) s = .next s ∧ exec (.portLinkDown p) s = .next s ∧
        ∀ lane, exec (.laneFailure p lane) s = .next s) ∧
      (∃ t, exec (.portTrainTimeout p) s = .next t ∧ t.out = s.out ∧
        only t (if x.st = 2 then { x with st := 5, partnerDepth := 255 } else x)) ∧
      (∃ t, exec (.portRetrain p) s = .next t ∧ t.out = s.out ∧ only t (if x.st = 5 then { x with st := 2 } else x)) ∧
      (∀ n : Fin 4,
        (x.st = 2 → n.val = (p.val + 2) % 4 → ∃ u : State, exec (.portLinkUp ⟨p, n⟩) s = .next u.reroute.checkLeave ∧
          (∀ i, u.port i = if i = p.val then { x with
            st := if x.halfLanes.isSome then 4 else 3, lseq := 0, lack := 0, replay := [], used := [], owed := [] } else s.port i) ∧
          u = { s with ring := { s.ring with
            ports := u.ring.ports, silent := s.ring.silent.filter (fun i => decide (i ≠ p.val)) } }) ∧
        (x.st ≠ 2 ∨ n.val ≠ (p.val + 2) % 4 → exec (.portLinkUp ⟨p, n⟩) s = .next s)) ∧
      (∀ (lack : BitVec 16) (before after : List SentFrame),
        (∃ f, x.replay = before ++ f :: after ∧ f.lseq = lack ∧ ∀ r ∈ before, r.lseq ≠ lack) ∨
          (before = [] ∧ after = x.replay ∧ ∀ r ∈ after, r.lseq ≠ lack) →
        ∃ t n, exec (.frameCrcError p lack) s = .next t ∧ n < 256 ∧
          t.out = (after.map (fun r => Output.frame p.val r.frame r.lseq x.lack r.cred)).reverse ++ .resend p lack :: s.out ∧
          only t { x with replay := after, replays := bump x.replays 1, fecUncorrected := bump x.fecUncorrected n })) ∧
    (∀ (h : FrameHead) (w : TimeWord) (arrival : Nat) (frac : BitVec 16),
      let u := (s.took h).owe h.port 0
      let at_ := arrival * 1000 + frac.toNat * 1000 / 65536
      let delay := ((at_ - w.echoTime * 1000) - w.turnaround * 1000 / 65536) / 2
      let err : Int := (w.txTime : Int) * 1000 + w.txFrac.toNat * 1000 / 65536 + delay - (at_ : Int)
      let notes (t : State) : Prop := (∃ n, ∀ i, t.port i = if i = h.port.val then { u.port i with
          fecCorrected := bump (u.port i).fecCorrected n, hopDelay := BitVec.ofNat 32 delay, partnerTx := w.txTime
          partnerDepth := min 255 w.depth } else u.port i) ∧
        (u.ring.state = 3 → t = { u with ring := { u.ring with ports := t.ring.ports }, free := u.free + 1 }) ∧
        (u.ring.state ≠ 3 → t = { u with ring := t.ring, free := u.free + 1 } ∧ t.ring.timebase = u.ring.timebase ∧
          t.ring.roster = u.ring.roster ∧
          (∀ m, w.master = some m → t.ring.masterId = m.zeroExtend 16 ∧ t.ring.ringLead = w.rollLead.toNat ∧
            t.ring.nextPeriod = w.nextPeriod ∧ t.ring.changeAt = w.changeAt ∧
            t.ring.period = (if w.bellPeriod = 0 then u.ring.period else w.bellPeriod)) ∧
          (w.master = none → t.ring.masterId = u.ring.masterId ∧ t.ring.period = u.ring.period) ∧
          (t.bestNeighbour = none → t.ring.holdover = true ∧ t.ring.depth = u.ring.depth ∧ t.ring.timeError = u.ring.timeError) ∧
          (∀ d p, t.bestNeighbour = some (d, p) →
            (d ≤ 32 → t.ring.depth = BitVec.ofNat 8 (d + 1) ∧ t.ring.holdover = u.ring.electing ∧ t.ring.longPath = false) ∧
            (32 < d → u.ring.longPath = true →
              t.ring.depth = BitVec.ofNat 8 (min 254 (d + 1)) ∧ t.ring.holdover = u.ring.electing) ∧
            (32 < d → u.ring.longPath = false → t.ring.depth = u.ring.depth ∧ t.ring.holdover = true) ∧
            (p = h.port.val → t.ring.timeError = BitVec.ofInt 32 err ∧
              t.ring.rate = if t.ring.holdover then u.ring.rate else rateFor err) ∧
            (p ≠ h.port.val → t.ring.timeError = u.ring.timeError ∧ t.ring.rate = u.ring.rate)))
      let run (t : State) : Prop := exec (.idleFrame h w arrival frac) s = .next t
      (s.inOrder h = false → run s) ∧
      (s.inOrder h = true → u.outOfRing = true → run u) ∧
      (s.inOrder h = true → u.outOfRing = false → w.ownFault = false ∨ u.inRing = false → ∃ t, run t ∧ notes t) ∧
      (s.inOrder h = true → u.inRing = true → w.ownFault = true → ∃ v, notes v ∧
        (2 ≤ h.port.val ∨ v.ring.roster.length ≤ 2 ∧ v.portOn 1 0 = none → run (v.fenceOut h.src)) ∧
        (h.port.val < 2 → v.ring.roster.length ≤ 2 → v.portOn 1 0 ≠ none → run v) ∧
        (h.port.val < 2 → 2 < v.ring.roster.length → run { v with free := v.free + 1 } ∨
          run (State.fenceOut { v with free := v.free + 1 } h.src)) ∧
        (2 ≤ h.port.val → (u.posOf h.src.toNat).isSome = true → ∃ t, run t ∧ t.ring.lastFenced = h.src.zeroExtend 16 ∧
          t.ring.roster = u.ring.roster.filter (fun e => decide (e.ident ≠ h.src)) ∧ t.mem = u.mem))) ∧
    (∀ (h : FrameHead) (phys : BitVec 14),
      (∀ amt : BitVec 16, s.actsHere h (.hoist phys amt) →
        let u := s.reached h (.hoist phys amt)
        let x := u.pen phys.toNat
        let y := x.hoisted amt.toNat
        (u.inRing = false ∨ amt = 0 → exec (.hoistFrame h phys amt) s = .next u) ∧
        (u.inRing = true → amt ≠ 0 →
          (x.st = 1 → x.sat = true → exec (.hoistFrame h phys amt) s =
            .next { u with sync := { u.sync with penSat := bump u.sync.penSat 1 } }) ∧
          (x.st ≠ 1 → exec (.hoistFrame h phys amt) s = .next u.evalWaiters) ∧
          (x.st = 1 → x.sat = false → ∃ t, exec (.hoistFrame h phys amt) s = .next t ∧
            t = ((u.setPen phys.toNat y).notifySubs phys.toNat).evalWaiters ∧
            (∀ p, t.pen p = if p = phys.toNat then y else u.pen p) ∧
            t = { u with quads := t.quads, ctxs := t.ctxs, sync := t.sync, host := t.host, ring := t.ring, out := t.out }))) ∧
      (∀ on : Bool, s.actsHere h (.penSub phys on) →
        let u := s.reached h (.penSub phys on)
        let rest := u.sync.subs.filter (fun x => x != (h.src.toNat, phys.toNat))
        let others := u.sync.news.filter (fun n => !(n.dst == h.src.toNat && n.phys == phys.toNat))
        let x := u.pen phys.toNat
        let v : State := { u with sync := { u.sync with subs := rest ++ [(h.src.toNat, phys.toNat)] } }
        (u.inRing = false → exec (.penSub h phys on) s = .next u) ∧
        (u.inRing = true → on = true → exec (.penSub h phys on) s = .next (if v.telling h.src.toNat phys.toNat
          then { v with sync := { v.sync with news := others ++ [⟨h.src.toNat, phys.toNat, x.value, x.st⟩] } }
          else v.sendTo h.src.toNat (.penUpdate phys x.value x.st))) ∧
        (u.inRing = true → on = false → exec (.penSub h phys on) s = .next { u with sync := { u.sync with
          subs := rest, news := others } })) ∧
      (∀ (value : Word64) (st : BitVec 2), s.actsHere h (.penUpdate phys value st) →
        let u := s.reached h (.penUpdate phys value st)
        (u.inRing = false → exec (.penUpdate h phys value st) s = .next u) ∧
        (u.inRing = true → ∃ t, exec (.penUpdate h phys value st) s = .next t ∧ t.mem = u.mem ∧ t.units = u.units ∧
          t.remote h.src.toNat phys.toNat =
            (if t.waitsOn (remoteKey h.src.toNat phys.toNat) then ⟨value, st, true⟩ else RemotePen.none) ∧
          (∀ (q sl : Fin 4) (c ident atLeast : Nat), (u.slot q sl).ctx = some c →
            (u.slot q sl).blocked = some (.pennant ident atLeast) → u.binding c ident = ⟨2, h.src, phys, false⟩ →
            (st = 2 ∨ atLeast ≤ value.toNat) → t.slot q sl = (u.slot q sl).release (decide (st = 2))))) ∧
      (∀ (tag : Word32) (word : BindWord), s.actsHere h (.penBind phys tag word) →
        let u := s.reached h (.penBind phys tag word)
        let run (t : State) : Prop := exec (.penBindFrame h phys tag word) s = .next t
        let may := (u.pen phys.toNat).st = 1 ∧ (u.pen phys.toNat).shared = true ∧ (u.pen phys.toNat).tag = tag
        let waits := u.ring.binds.find? (fun b => b.2.2.1 == h.src && b.2.2.2 == phys)
        (u.inRing = false → run u) ∧
        (u.inRing = true →
          (word = .request → ∃ v : State, run (v.sendTo h.src.toNat (.penBind phys tag (if decide may then .yes else .no))) ∧
            (∀ r, v.pen r = if r = phys.toNat ∧ may then { u.pen r with bindings := (u.pen r).bindings + 1 } else u.pen r) ∧
            v = { u with sync := { u.sync with pens := v.sync.pens } }) ∧
          (word = .back → ∃ t, run t ∧
            (∀ r, t.pen r = if r ≠ phys.toNat then u.pen r
              else if (u.pen r).st = 2 ∧ (u.pen r).bindings ≤ 1 then Pennant.free
              else { u.pen r with bindings := if (u.pen r).bindings = 0 then 0 else (u.pen r).bindings - 1 }) ∧
            t = { u with sync := { u.sync with pens := t.sync.pens } }) ∧
          (word = .yes ∨ word = .no → waits = none → run u) ∧
          (∀ b, waits = some b →
            let v : State := { u with ring := { u.ring with binds := u.ring.binds.erase b } }
            (word = .no → run (if b.1 < 16 then v.answer Code.penBind [] else v)) ∧
            (word = .yes → 16 ≤ b.1 → run (v.giveBack h.src phys)) ∧
            (word = .yes → b.1 < 16 → ∃ t, run t ∧
              t.binding b.1 b.2.1 = ⟨2, h.src, phys, false⟩ ∧ t.ring.binds = u.ring.binds.erase b ∧
              t.out.take 2 = [.msix 16, .mailbox 0 []]))))) ∧
    (∀ (h : FrameHead) (rid : BitVec 16) (round : Word32),
      (s.actsHere h (.rollArrive rid round) →
        let u := s.reached h (.rollArrive rid round)
        let run (t : State) : Prop := exec (.rollArriveFrame h rid round) s = .next t
        (∀ n pos, u.inRing = true → u.rollByRid rid = some n → u.posOf h.src.toNat = some pos →
          u.homeOf (u.rollCall n) = some u.ring.moduleId.toNat →
          let r := u.rollCall n
          let bit := r.ringArrived ||| (1#64 <<< pos)
          let all := ∀ e ∈ u.membersOf r.ringMask, bit.getLsbD e.pos = true
          (round = r.round → ∃ v : State, run v.meetBell ∧
            v.rollCall n = { r with
              ringArrived := bit
              release := if r.release = none ∧ all
                then some (bellAtOrAfter u.ring.period (u.ring.timebase + u.leadInForce * u.ring.period)) else r.release } ∧
            (∀ m, m ≠ n → v.rollCall m = u.rollCall m) ∧
            v = { u with sync := { u.sync with rolls := v.sync.rolls }, ring := v.ring, out := v.out }) ∧
          (round ≠ r.round → round = r.round + 1 → ∃ t, run t ∧
            t.rollCall n = { r with ringAhead := r.ringAhead ||| (1#64 <<< pos) } ∧
            (∀ m, m ≠ n → t.rollCall m = u.rollCall m) ∧ t = { u with sync := { u.sync with rolls := t.sync.rolls } }) ∧
          (round ≠ r.round → round ≠ r.round + 1 →
            (∀ b, round + 1 = r.round → r.releasedAt = some b → run (u.sendTo h.src.toNat (.rollRelease rid round b))) ∧
            (round + 1 ≠ r.round ∨ r.releasedAt = none → run u))) ∧
        (u.inRing = false ∨ u.rollByRid rid = none ∨ u.posOf h.src.toNat = none ∨
            (∃ n, u.rollByRid rid = some n ∧ u.homeOf (u.rollCall n) ≠ some u.ring.moduleId.toNat) → run u)) ∧
      (∀ bell : Nat, s.actsHere h (.rollRelease rid round bell) →
        let u := s.reached h (.rollRelease rid round bell)
        let run (t : State) : Prop := exec (.rollReleaseFrame h rid round bell) s = .next t
        (∀ n, u.inRing = true → u.rollByRid rid = some n → round = (u.rollCall n).round →
          let r := u.rollCall n
          let v : State := { u with sync := { u.sync with rollLate := bump u.sync.rollLate 1 } }
          (u.ring.bells = 0 ∨ u.ring.lastBell < bell → ∃ t, run t ∧
            t.rollCall n = { r with release := some bell } ∧ (∀ m, m ≠ n → t.rollCall m = u.rollCall m) ∧
            t = { u with sync := { u.sync with rolls := t.sync.rolls } }) ∧
          (u.ring.bells ≠ 0 → bell ≤ u.ring.lastBell →
            (r.st ≠ 1 → run (v.releaseFold n r.poisonNext)) ∧
            (r.st = 1 → run ((v.releaseFold n r.poisonNext).reportArrival n) ∧
              ∃ t, run t ∧ t.sync.rollLate = bump u.sync.rollLate 1 ∧ (t.rollCall n).round = r.round + 1 ∧
                (t.rollCall n).arrived = r.ahead ∧ t.mem = u.mem ∧ t.units = u.units))) ∧
        (u.inRing = false ∨ u.rollByRid rid = none ∨ (∃ n, u.rollByRid rid = some n ∧ round ≠ (u.rollCall n).round) → run u)) ∧
      (∀ (off : Nat) (words : List Word32) (poison : Bool),
        (s.actsHere h (.mergePart rid round off words h.last poison) →
          let u := s.reached h (.mergePart rid round off words h.last poison)
          let run (t : State) : Prop := exec (.mergePart h rid round off words poison) s = .next t
          (u.inRing = false ∨ u.mergeOf rid round.toNat = none → run u) ∧
          (∀ m, u.inRing = true → u.mergeOf rid round.toNat = some m →
            let x : RingMerge := { m.hear off words with poison := m.poison || poison }
            let y : RingMerge := { x with heard := [] }
            let only (t : State) : Prop := t = { u with ring := { u.ring with merges := t.ring.merges } }
            (h.last = false → ∃ t, run t ∧ x ∈ t.ring.merges ∧ only t) ∧
            (h.last = true → m.released = false → ∃ t, run t ∧ { y with part := some (rowsIn x.heard) } ∈ t.ring.merges ∧ only t) ∧
            (h.last = true → m.released = true → ∃ v, run (v.passFold y (some (rowsIn x.heard))) ∧ y ∈ v.ring.merges ∧ only v))) ∧
        (s.actsHere h (.mergeResult rid round off words h.last poison) →
          let u := s.reached h (.mergeResult rid round off words h.last poison)
          let run (t : State) : Prop := exec (.mergeResult h rid round off words poison) s = .next t
          (u.inRing = false ∨ u.mergeOf rid round.toNat = none → run u) ∧
          (∀ m, u.inRing = true → u.mergeOf rid round.toNat = some m →
            let x : RingMerge := { m.hear off words with poison := m.poison || poison }
            let result := if x.poison then poisonRows (rowsIn x.heard) else rowsIn x.heard
            (h.last = false → ∃ t, run t ∧ x ∈ t.ring.merges ∧ t = { u with ring := { u.ring with merges := t.ring.merges } }) ∧
            (h.last = true → ∃ t, run t ∧
              t.ring.merges = u.ring.merges.filter (fun z => !(z.ctx == m.ctx && z.nth == m.nth)) ∧
              (∀ z ∈ u.group m.ctx m.nth, t.share 1 z.1 z.2.id =
                (u.share 1 z.1 z.2.id).map (fun y => { y with result := some result, ringing := false })) ∧
              t = { u with quads := t.quads, ring := { u.ring with merges := t.ring.merges } })))))

/-- With a row (immediate, stream or generator): after ACT the half that the row's lowest bit names has that row open in
every selected bank; after PRE that half and after PREA both halves are precharged there; every other half and bank is as
before (but for a row no timetable opened, which a refresh may close), and each stack that has not failed with a selected
bank has used one sequence tag. PRE and PREA change only banks and stacks; ACT may, when a neighbour refresh finds its queue
full, besides refresh or steal: it holds the beat and marks lessons. At an absent position banks, stacks and memory stay.
(04_instruction_sets.md R113; 04_instruction_sets.md R114; 04_instruction_sets.md R126; 10_dram_controller.md R351) -/
def Obligations.RowCommandsOpenAndCloseRows : Prop :=
  ∀ (q sl : Fin 4) (sel : BitVec 4) (w : Word32) (s : State),
    (∀ r, s.rowOf q sl w = some r →
      (∃ t, exec (.act q sl sel w) s = .next t ∧
        (∀ u h, h < 2 → (t.bank u).half h =
          if u ∈ s.units_ q sl sel ∧ h = r % 2 then some ⟨BitVec.ofNat 16 r, true⟩
          else if (t.bank u).half h = none then OpenRow.kept ((s.bank u).half h) else (s.bank u).half h) ∧
        (s.issuing q = true ∨ (∀ u ∈ s.units_ q sl sel, (s.bank u).nbq.length < 4) →
          ∀ u h, h < 2 → u ∉ s.units_ q sl sel ∨ h ≠ r % 2 → (t.bank u).half h = (s.bank u).half h) ∧
        ((∀ u ∈ s.units_ q sl sel, (s.bank u).nbq.length < 4) → ∀ st, (t.stack st).nextTag = (s.stack st).nextTag +
          if (s.stack st).failed = false ∧ (s.units_ q sl sel).any (fun u => stackOf u = st) = true then 1 else 0) ∧
        t = { s with stk := t.stk, banks := t.banks, quads := t.quads, ctxs := t.ctxs, free := t.free } ∧
        (∀ p, t.quad p = { s.quad p with
          holdLen := (t.quad p).holdLen, holdCode := (t.quad p).holdCode, refreshing := (t.quad p).refreshing }) ∧
        (∀ c, t.ctx c = { s.ctx c with lesson := (t.ctx c).lesson })) ∧
      (∃ t, exec (.pre q sl sel w) s = .next t ∧
        (∀ u, t.bank u = if u ∈ s.units_ q sl sel then (s.bank u).setHalf (r % 2) none else s.bank u) ∧
        (∀ st, (t.stack st).nextTag = (s.stack st).nextTag +
          if (s.stack st).failed = false ∧ (s.units_ q sl sel).any (fun u => stackOf u = st) = true then 1 else 0) ∧
        t = { s with stk := t.stk, banks := t.banks }) ∧
      (∃ t, exec (.prea q sl sel w) s = .next t ∧
        (∀ u, t.bank u = if u ∈ s.units_ q sl sel then { s.bank u with open0 := none, open1 := none } else s.bank u) ∧
        (∀ st, (t.stack st).nextTag = (s.stack st).nextTag +
          if (s.stack st).failed = false ∧ (s.units_ q sl sel).any (fun u => stackOf u = st) = true then 1 else 0) ∧
        t = { s with stk := t.stk, banks := t.banks })) ∧
    (s.rowOf q sl w = none → ∃ t, exec (.act q sl sel w) s = .next t ∧ exec (.pre q sl sel w) s = .next t ∧
      exec (.prea q sl sel w) s = .next t ∧ t = { s with ctxs := t.ctxs } ∧
      ∀ c, t.ctx c = { s.ctx c with lesson := (t.ctx c).lesson })

/-- For a word outside a stream, with no column write and no host access waiting in the stacks: RD puts into the quadrant's
results in flight one result, visible 8 beats after the issue beat, that writes latch entry LE of each selected unit whose
half has an open timetable row with that unit's decoded column (units without one are left out), and RDS one that writes the
slot's scale latch and then sets the scale pointer to 0; at an absent position each selected unit gets a clean column of
zero bytes. A generator that was used steps once. Memory, open rows and everything but error records, counts, logs and
queues of retirement stay. LE 3 is reserved: its result writes nothing. (02_bank_units.md R41; 02_bank_units.md R59;
04_instruction_sets.md R114; 04_instruction_sets.md R115; 04_instruction_sets.md R118; 04_instruction_sets.md R126;
06_tensors.md R224) -/
def Obligations.ColumnReadsArriveEightBeatsLater : Prop :=
  ∀ (q sl : Fin 4) (sel : BitVec 4) (w : Word32) (s : State), s.entry q = none → (s.quad q).masked = [] →
    (∀ st, (s.stack st).writes = [] ∧ (s.stack st).slateQ = []) →
    let cols : List (Nat × Column) := match s.colOf q sl w with
      | some p => (s.units_ q sl sel).filterMap (fun u => (s.target u p.1 p.2).map (fun c => (u, s.column c)))
      | none => (s.units_ q sl sel).map (fun u => (u, Column.zero))
    let x := if Col.ags w then (s.quad q).modSlot sl (fun y => y.stepGen (Col.ag w) 1) else s.quad q
    (∃ t, exec (.rd q sl sel w) s = .next t ∧
      t.quad q = x.withResult sl 8 6 (s.origin q)
        (if Col.le w = 3 then [] else cols.map (fun x => .latch x.1 (Col.le w) x.2)) ∧
      (∀ p, p ≠ q.val → t.quad p = s.quad p) ∧ (∀ u, t.unit u = { s.unit u with ev := (t.unit u).ev }) ∧
      (∀ u, t.bank u = { s.bank u with ueSeen := (t.bank u).ueSeen }) ∧
      t = { s with quads := t.quads, units := t.units, banks := t.banks, stk := t.stk, ctxs := t.ctxs, health := t.health,
                   mgmt := t.mgmt, host := t.host, out := t.out }) ∧
    (∃ t, exec (.rds q sl sel w) s = .next t ∧
      t.quad q = x.withResult sl 8 6 (s.origin q)
        (cols.map (fun x => .scale x.1 sl x.2) ++ if cols.isEmpty then [] else [.pointer sl]) ∧
      (∀ p, p ≠ q.val → t.quad p = s.quad p) ∧ (∀ u, t.unit u = { s.unit u with ev := (t.unit u).ev }) ∧
      (∀ u, t.bank u = { s.bank u with ueSeen := (t.bank u).ueSeen }) ∧
      t = { s with quads := t.quads, units := t.units, banks := t.banks, stk := t.stk, ctxs := t.ctxs, health := t.health,
                   mgmt := t.mgmt, host := t.host, out := t.out })

/-- For a word with a stream entry, with no column write and no host access waiting in the stacks: RD and RDS enter one
result in flight, visible 8 beats later, with the entry's column of every selected bank. The row is the entry's where its
operation opens a row (1 or 2) or where the half has no row of the timetable open (a row that was closed is opened again),
and otherwise the row open there. Memory stays. LE 3 is reserved: its result writes nothing. (04_instruction_sets.md R140;
04_instruction_sets.md R141; 05_sequencer.md R167; 02_bank_units.md R41; 02_bank_units.md R59; 04_instruction_sets.md R115)
-/
def Obligations.StreamReadsOpenTheirRow : Prop :=
  ∀ (q sl : Fin 4) (sel : BitVec 4) (w e : Word32) (s : State), s.entry q = some e → (s.quad q).masked = [] →
    (∀ st, (s.stack st).writes = [] ∧ (s.stack st).slateQ = []) →
    let row (u : Nat) : Nat := if entryOp e = 1 ∨ entryOp e = 2 then entryRow e
      else match OpenRow.kept ((s.bank u).half (entryRow e % 2)) with
        | some r => r.row.toNat
        | none => entryRow e
    let cols := (s.units_ q sl sel).map (fun u => (u, s.column (colNo u (row u) (entryCol e))))
    (∃ t, exec (.rd q sl sel w) s = .next t ∧ t.mem = s.mem ∧
      (t.quad q).dues = ((s.quad q).withResult sl 8 6 (s.origin q)
        (if Col.le w = 3 then [] else cols.map (fun x => .latch x.1 (Col.le w) x.2))).dues) ∧
    (∃ t, exec (.rds q sl sel w) s = .next t ∧ t.mem = s.mem ∧
      (t.quad q).dues = ((s.quad q).withResult sl 8 6 (s.origin q)
        (cols.map (fun x => .scale x.1 sl x.2) ++ if cols.isEmpty then [] else [.pointer sl])).dues)

/-- For a word outside a stream at a present position. The column stored to in a selected unit is the one the open timetable
row of the named half gives (none without one: the write is discarded), in a stack that has not failed. After WR each such
column holds the unit's line with fresh check bytes, poisoned if the line is, and the 36 stored bytes of every other column
are unchanged. After WRM with no masked write in flight and no host access waiting this holds of units whose write mask
selects every byte; each other unit with a column has one masked write in flight, due 8 beats later, with the mask, the
line's bytes, and the column read now. A write's visibility to later reads is in flight, with nothing left to write, for 6
beats (WR, and WRM where every selected unit writes every byte) or 14. Units, the dictionary's clocks and power, and every
quadrant's store stay. (02_bank_units.md R55; 02_bank_units.md R56; 02_bank_units.md R57; 02_bank_units.md R59;
04_instruction_sets.md R114; 04_instruction_sets.md R115; 16_modes_errors_recovery.md R557) -/
def Obligations.ColumnWritesStoreTheirLines : Prop :=
  ∀ (q sl : Fin 4) (sel : BitVec 4) (w : Word32) (p : Nat × Nat) (s : State), s.entry q = none → s.colOf q sl w = some p →
    let us := s.units_ q sl sel
    let stores (full : Nat → Bool) (c : Nat) : Option Nat := us.find? (fun u =>
      decide (s.target u p.1 p.2 = some c) && !(s.stack (stackOf u)).failed && full u)
    let after (full : Nat → Bool) (c : Nat) : List Byte := match stores full c with
      | some u => let l := (s.view q sl u).line (Col.line w)
                  (Memory.zero.store c (bytesOf 32 l.data) l.poison).raw c
      | none => s.mem.raw c
    let allBytes (u : Nat) : Bool := decide ((s.unit u).writeMask sl = BitVec.allOnes 32)
    (∃ t, exec (.wr q sl sel w) s = .next t ∧ (∀ c, t.mem.raw c = after (fun _ => true) c) ∧
      (t.quad q).seq = (s.quad q).seq + 1 ∧ (t.quad q).dues = ((s.quad q).withResult sl 6 6 (s.origin q) []).dues ∧
      (t.quad q).tt = (s.quad q).tt ∧
      t = { s with mem := t.mem, stk := t.stk, quads := t.quads, ctxs := t.ctxs, sync := t.sync, host := t.host,
                   ring := t.ring, out := t.out, free := t.free }) ∧
    ((s.quad q).masked = [] → (∀ st, (s.stack st).slateQ = []) → ∃ t, exec (.wrm q sl sel w) s = .next t ∧ (∀ c, t.mem.raw c = after allBytes c) ∧
      (t.quad q).masked = us.filterMap (fun u => if allBytes u then none else
        (s.target u p.1 p.2).map (fun c =>
          { due := (s.quad q).beat + 8, ctx := ((s.slot q sl).ctx).getD 0, slot := sl, col := c,
            mask := (s.unit u).writeMask sl, data := ((s.view q sl u).line (Col.line w)).data,
            poison := ((s.view q sl u).line (Col.line w)).poison, old := s.column c,
            corrected := (s.decodeCol c).1.wasCorrected, origin := s.origin q, seq := (s.quad q).seq })) ∧
      (t.quad q).seq = (s.quad q).seq + 1 ∧ (t.quad q).dues = ((s.quad q).withResult sl (if us.all allBytes then 6 else 14) 6 (s.origin q) []).dues ∧
      t.units = s.units ∧ t.banks = s.banks)

/-- With masked writes due by the quadrant's beat in distinct columns, MASKED_WRITE_MERGE leaves only those not due, and
each due one whose stack has not failed has its column written with the bytes it selects taken from its line and the others
from the column as read, poisoned if either is; every other column is unchanged. COLUMN_WRITE_DRAIN removes the oldest of
that stack's queue and of no other, and changes no byte, once its alert window of 4 beats has passed (or no word issues
there) and while the link is not in recovery; else, and with none queued, nothing happens. (02_bank_units.md R40;
02_bank_units.md R56; 02_bank_units.md R57; 10_dram_controller.md R342; 16_modes_errors_recovery.md R557) -/
def Obligations.QueuedWritesComplete : Prop :=
  (∀ (q : Fin 4) (s : State),
    let ms := (s.quad q).masked.filter (fun m => decide (m.due ≤ (s.quad q).beat))
    (ms.map (·.col)).Nodup → ∃ t, exec (.maskedWriteMerge q) s = .next t ∧
      (t.quad q).masked = (s.quad q).masked.filter (fun m => !decide (m.due ≤ (s.quad q).beat)) ∧
      (∀ c, t.mem.raw c =
        match ms.find? (fun m => decide (m.col = c) && !(s.stack (stackOf (bankOfCol c))).failed) with
        | some m => (Memory.zero.store c
            ((List.range 32).map (fun i => if m.mask.getLsbD i then byteAt m.data i else byteAt m.old.data i))
            (m.poison || m.old.poison)).raw c
        | none => s.mem.raw c) ∧
      (∀ p, (t.quad p).dues = (s.quad p).dues)) ∧
  (∀ (st : Fin 20) (s : State), (s.stack st).writes = [] → exec (.columnWriteDrain st) s = .next s) ∧
  (∀ (st : Fin 20) (w : QWrite) (ws : List QWrite) (s : State), (s.stack st).writes = w :: ws →
    let q := quadOfStack st
    let ready := (s.stack st).recovering = false ∧ (s.issuing q = false ∨ ∀ b, w.goes = some b → b + 4 ≤ (s.quad q).beat)
    (¬ ready → exec (.columnWriteDrain st) s = .next s) ∧
    (ready → ∃ t, exec (.columnWriteDrain st) s = .next t ∧ (t.stack st).writes = ws ∧
      (∀ i, i ≠ st.val → t.stack i = s.stack i) ∧
      t = { s with stk := t.stk, quads := t.quads, ctxs := t.ctxs, sync := t.sync, host := t.host, ring := t.ring,
                   out := t.out }))

/-- With late lines raised in a quadrant: LATE_COMPLETE drops them and the hold, of at least a quarter-beat, results in
flight and beat unchanged, and changes nothing but that quadrant. FORCED_COMPLETION drops them too, marks each late unit's
record stuck, logs one FORCED_COMPLETION entry a unit, marks poisoned every value that a late unit's result due at the held
boundary will write (rows on their way to the merge engine too) and every masked write of a late unit merging there, and
stores poisoned, with its data as it is, each column of a late unit whose full write goes out at that boundary; every other
byte of memory and every other result in flight stays. With no late line raised neither does anything. (02_bank_units.md
R36; 02_bank_units.md R63; 02_bank_units.md R64; 02_bank_units.md R65; 02_bank_units.md R67; 02_bank_units.md R70;
05_sequencer.md R174) -/
def Obligations.LateEventsHoldAndFall : Prop :=
  ∀ (q : Fin 4) (s : State),
    ((s.quad q).late = [] → exec (.lateComplete q) s = .next s ∧ exec (.forcedCompletion q) s = .next s) ∧
    ((s.quad q).late ≠ [] →
    (∃ t, exec (.lateComplete q) s = .next t ∧
      t.quad q = { s.quad q with
        late := [], held := false, holdLen := (t.quad q).holdLen, holdCode := (t.quad q).holdCode } ∧
      pointCycle (s.quad q).point ≤ (t.quad q).holdLen ∧ (∀ p, p ≠ q.val → t.quad p = s.quad p) ∧ t = { s with quads := t.quads, free := t.free }) ∧
    (∃ t, exec (.forcedCompletion q) s = .next t ∧
      t.quad q = { s.quad q with
        late := [], held := false, forced := true, holdLen := (t.quad q).holdLen, holdCode := (t.quad q).holdCode
        dues := (s.quad q).dues.map (fun d => if d.due = (s.quad q).beat + 1 then
          { d with writes := d.writes.map (DueWrite.force (s.quad q).late) } else d)
        masked := (s.quad q).masked.map (fun m =>
          if m.due = (s.quad q).beat + 1 ∧ bankOfCol m.col ∈ (s.quad q).late then { m with poison := true } else m) } ∧
      (∀ p, p ≠ q.val → t.quad p = s.quad p) ∧
      (∀ c, t.mem.raw c =
        if bankOfCol c ∈ (s.quad q).late ∧ (s.stack (stackOf (bankOfCol c))).failed = false ∧
          (s.stack (stackOf (bankOfCol c))).writes.any (fun w => decide (w.goes = some ((s.quad q).beat + 1) ∧ w.col = c)) = true
        then (Memory.zero.store c (readBytes s.mem.data (32 * c) 32) true).raw c else s.mem.raw c) ∧
      (∀ u, t.unit u = if u ∈ (s.quad q).late then { s.unit u with ev := { (s.unit u).ev with stuck := true } } else s.unit u) ∧
      (s.mgmt.log.length ≤ 8192 → t.mgmt.log.length = min 8192 (s.mgmt.log.length + (s.quad q).late.length)) ∧
      (∀ c, t.ctx c = { s.ctx c with lesson := (t.ctx c).lesson }) ∧
      t = { s with quads := t.quads, units := t.units, ctxs := t.ctxs, mgmt := t.mgmt, mem := t.mem }))

/-- For every quadrant. While something holds the beat RESULT_VISIBLE does nothing; in a recess it goes on with the recess;
with no result in flight it does nothing. Otherwise, with the earliest result due at beat b, not before the present beat,
and no masked write due by then: without a unit late by b, the beat becomes b and every result due at b leaves the list and
makes its writes (those of a context in reset none), in the order of issue and, within a word, the VEC result last; an
accumulate adds to the value from before the beat; other units, lists and memory stay. With a unit late at the start of beat
l, the beat becomes l - 1, the late units' lines are raised and counted, the boundary is held and no result becomes visible.
(01_architecture.md R32; 02_bank_units.md R59; 02_bank_units.md R60; 02_bank_units.md R61; 02_bank_units.md R63;
02_bank_units.md R64) -/
def Obligations.ResultsBecomeVisible : Prop :=
  ∀ (q : Fin 4) (late : List Nat) (s : State),
    (s.holding q = true → exec (.resultVisible ⟨q, late⟩) s = .next s) ∧
    (s.holding q = false → (s.quad q).recessLeft ≠ 0 → exec (.resultVisible ⟨q, late⟩) s = .next (s.runRecess q late)) ∧
    (s.holding q = false → (s.quad q).recessLeft = 0 → (s.quad q).dues = [] → exec (.resultVisible ⟨q, late⟩) s = .next s) ∧
    (s.holding q = false → (s.quad q).recessLeft = 0 → ∀ b, firstDue (s.quad q).dues = some b → (s.quad q).beat ≤ b →
      (∀ m ∈ (s.quad q).masked, b < m.due) →
      (s.lateBeat q (b - (s.quad q).beat) late = none → ∃ t, exec (.resultVisible ⟨q, late⟩) s = .next t ∧
        (let r := (s.modQuad q (fun x => { x with dues := x.dues.filter (fun d => decide (d.due ≠ b)) })).applyBeat q
          ((s.quad q).dues.filter (fun d => decide (d.due = b)))
         (∀ u, t.unit u = r.unit u) ∧ (t.quad q).outs = (r.quad q).outs ∧
         ∀ i, t.slot q i = { r.slot q i with sinceRecess := (t.slot q i).sinceRecess }) ∧
        (t.quad q).dues = (s.quad q).dues.filter (fun d => decide (d.due ≠ b)) ∧ (t.quad q).beat = b ∧
        (t.quad q).masked = (s.quad q).masked ∧ (∀ p, p ≠ q.val → t.quad p = s.quad p) ∧
        t = { s with units := t.units, quads := t.quads }) ∧
      (∀ l, s.lateBeat q (b - (s.quad q).beat) late = some l → ∃ t, exec (.resultVisible ⟨q, late⟩) s = .next t ∧
        (t.quad q).late = s.lateUnits q l late ∧ (t.quad q).held = true ∧ (t.quad q).beat = l - 1 ∧
        (t.quad q).dues = (s.quad q).dues ∧ (t.quad q).masked = (s.quad q).masked ∧ (t.quad q).outs = (s.quad q).outs ∧
        (late.Nodup → ∀ u, t.unit u = if u ∈ s.lateUnits q l late
          then { s.unit u with ev := { (s.unit u).ev with late := satInc (s.unit u).ev.late } } else s.unit u) ∧
        (∀ p, p ≠ q.val → t.quad p = s.quad p) ∧ t = { s with units := t.units, quads := t.quads }))

/-- A MAC slot with a reserved value does nothing. Otherwise the result in flight is due n + 3 beats after the issue beat, n
the occupancy of its weight format, activation format and tokens, and writes for each selected unit the sums of its tokens
(each block's own entry with assignment code 1, else one entry a token, added in a free order) to the slot's accumulator
entries, added to them or, with OVW, in place of them, poisoned if any operand is. The scale pointer advances by the weight
blocks (not for BF16), the lesson is marked unsettled if an operand column is uncorrectable, and nothing else changes.
(02_bank_units.md R42; 02_bank_units.md R45; 02_bank_units.md R46; 02_bank_units.md R48; 02_bank_units.md R59;
02_bank_units.md R70; 04_instruction_sets.md R116; 04_instruction_sets.md R117; 04_instruction_sets.md R118;
04_instruction_sets.md R129; 05_sequencer.md R174) -/
def Obligations.MacAccumulatesAfterItsOccupancy : Prop :=
  ∀ (q sl : Fin 4) (sel : BitVec 4) (w : Word32) (s : State),
    (6 < Mac.wfmt w ∨ 2 < Mac.afmt w ∨ Mac.le w = 3 → exec (.mac q sl sel w) s = .next s) ∧
    (Mac.wfmt w ≤ 6 → Mac.afmt w ≤ 2 → Mac.le w ≤ 2 →
    let us := s.units_ q sl sel
    let ops (u : Nat) : MacIn := (s.view q sl u).macIn w
    let ws := us.zipIdx.flatMap (fun x =>
      ((ops x.1).results w (s.slot q sl).scalePtr.toNat (s.free + 64 * x.2)).map (fun y =>
        let e := (s.view q sl x.1).accIx y.1
        if Mac.ovw w then DueWrite.accSet x.1 e y.2 (ops x.1).poison else DueWrite.accAdd x.1 e y.2 (ops x.1).poison))
    ∃ t, exec (.mac q sl sel w) s = .next t ∧
      t.quad q = (if Mac.wfmt w = 6 then s.quad q else (s.quad q).modSlot sl (fun y =>
        { y with scalePtr := y.scalePtr + BitVec.ofNat 5 (macBlocks (Mac.wfmt w)) })).withResult sl
          (macOccupancy (Mac.wfmt w) (Mac.afmt w) (Mac.tokens w) + 3) 2 (s.origin q) ws ∧
      (∀ p, p ≠ q.val → t.quad p = s.quad p) ∧
      (∀ c, t.ctx c = if (us.any fun u => (ops u).ue) ∧ (s.slot q sl).ctx = some c
        then (s.ctx c).markUnsettled q (s.origin q) else s.ctx c) ∧
      t = { s with quads := t.quads, ctxs := t.ctxs, free := s.free + 64 * us.length })

/-- For every form of the operands (accumulator row or vector-file line, modifier): ADD, MUL, MAX and SCALE enter one result
due 2 beats later, EXP2 one due 3 beats later, that writes for each selected unit the eight result lanes to D (an
accumulator row entry by entry, or a whole line); a result lane of a row is poisoned if a source lane of it is, a line if
any is. With a reserved modifier (3, for SCALE 2 and 3) the result writes nothing. Nothing else changes. (02_bank_units.md
R53; 02_bank_units.md R59; 02_bank_units.md R70; 03_arithmetic.md R84; 03_arithmetic.md R89; 04_instruction_sets.md R119;
04_instruction_sets.md R120; 04_instruction_sets.md R129) -/
def Obligations.LaneOperationsOfVec : Prop :=
  ∀ (q sl : Fin 4) (sel : BitVec 4) (w lit : Word32) (s : State),
    let us := s.units_ q sl sel
    (∃ t, exec (.add q sl sel w lit) s = .next t ∧ s.entersResult t q sl 2 1 (us.flatMap (fun u =>
      if Vec.mod w < 3 then (s.view q sl u).write (Vec.dk w) (Vec.d w)
        (List.zipWith (fun d b => (fadd d.1 (modified (Vec.mod w) b.1), d.2 || b.2)) ((s.view q sl u).lanes (Vec.dk w) (Vec.d w))
          ((s.view q sl u).lanes (Vec.bk w) (Vec.b w))) else []))) ∧
    (∃ t, exec (.mul q sl sel w lit) s = .next t ∧ s.entersResult t q sl 2 1 (us.flatMap (fun u =>
      if Vec.mod w < 3 then (s.view q sl u).write (Vec.dk w) (Vec.d w)
        (List.zipWith (fun d b => (fmul d.1 (modified (Vec.mod w) b.1), d.2 || b.2)) ((s.view q sl u).lanes (Vec.dk w) (Vec.d w))
          ((s.view q sl u).lanes (Vec.bk w) (Vec.b w))) else []))) ∧
    (∃ t, exec (.max q sl sel w lit) s = .next t ∧ s.entersResult t q sl 2 1 (us.flatMap (fun u =>
      if Vec.mod w < 3 then (s.view q sl u).write (Vec.dk w) (Vec.d w)
        (List.zipWith (fun d b => (fmax d.1 (modified (Vec.mod w) b.1), d.2 || b.2)) ((s.view q sl u).lanes (Vec.dk w) (Vec.d w))
          ((s.view q sl u).lanes (Vec.bk w) (Vec.b w))) else []))) ∧
    (∃ t, exec (.scale q sl sel w lit) s = .next t ∧ s.entersResult t q sl 2 1 (us.flatMap (fun u =>
      if Vec.mod w < 2 then (s.view q sl u).write (Vec.dk w) (Vec.d w)
        (List.zipWith (fun d b => (fscale (Vec.mod w == 1) d.1 b.1, d.2 || b.2)) ((s.view q sl u).lanes (Vec.dk w) (Vec.d w))
          ((s.view q sl u).lanes (Vec.bk w) (Vec.b w))) else []))) ∧
    (∃ t, exec (.exp2 q sl sel w lit) s = .next t ∧ s.entersResult t q sl 3 1 (us.flatMap (fun u =>
      if Vec.mod w < 3 then (s.view q sl u).write (Vec.dk w) (Vec.d w)
        (((s.view q sl u).lanes (Vec.bk w) (Vec.b w)).map (fun b => (fexp2 (modified (Vec.mod w) b.1), b.2))) else [])))

/-- CMP enters a result due 2 beats later that writes, for each selected unit, byte BYTE of line LINE: bit i is the
comparison of lane i of D with lane i of B for i 0 to 7; no other bit of the line is written, and the line is marked
poisoned if a source lane is and keeps its mark otherwise; with the reserved condition 3 it writes nothing. MASK enters one
due 1 beat later that writes the slot's write mask from bytes 0 to 3 of line B (BK 1) or from LIT. (02_bank_units.md R53;
03_arithmetic.md R84; 04_instruction_sets.md R119; 04_instruction_sets.md R120; 04_instruction_sets.md R121;
04_instruction_sets.md R129) -/
def Obligations.CompareAndMaskWriteTheirBits : Prop :=
  ∀ (q sl : Fin 4) (sel : BitVec 4) (w lit : Word32) (s : State),
    let us := s.units_ q sl sel
    (∃ t, ∃ bits : Nat → Nat, exec (.cmp q sl sel w lit) s = .next t ∧
      (∀ u i d b, ((s.view q sl u).lanes (Vec.dk w) (Vec.d w))[i]? = some d →
        ((s.view q sl u).lanes (Vec.bk w) (Vec.b w))[i]? = some b →
        (bits u).testBit i = fcmp (Vec.mod w) d.1 b.1) ∧
      (∀ u, bits u < 256) ∧
      s.entersResult t q sl 2 1 (if Vec.mod w = 3 then [] else us.map (fun u =>
        .line u ((s.view q sl u).lineIx (Lit.line lit)) (maskAt (8 * Lit.byte lit) 8) (dataAt (8 * Lit.byte lit) 8 (bits u))
          (if ((s.view q sl u).lanes (Vec.dk w) (Vec.d w)).any (·.2) || ((s.view q sl u).lanes (Vec.bk w) (Vec.b w)).any (·.2)
            then some true else none)))) ∧
    (∃ t, exec (.mask q sl sel w lit) s = .next t ∧
      s.entersResult t q sl 1 1 (us.map (fun u =>
        .wmask u sl (if Vec.bk w = 1 then ((s.view q sl u).line (Vec.b w)).data.extractLsb' 0 32 else lit))))

/-- For every form and state exec answers a next state. CVT enters a result due 2 beats later (3 with SR): with format FP32
B's lanes moved to D, the whole destination poisoned if a lane is; with another format elements EOFF to EOFF + 7 of line B
widened (scaled for the MX formats), poisoned with the line. PACK enters one due 2 beats later (3) that writes eight
elements of line D, each lane of B narrowed, and no other bit; CVTMX one due 6 beats later (7) that writes 32 elements of
line D from four rows from B on, and the block scale to byte BYTE of LINE. A written line is marked poisoned if a lane is or
a code stands for no number, clean if the whole line is written, and else keeps its mark. With SR the codes take the next
random numbers of the slot's generator of the unit, which then has given 8 or 32 more. A reserved format, or elements beyond
the line, write nothing. (02_bank_units.md R53; 02_bank_units.md R54; 02_bank_units.md R70; 03_arithmetic.md R75;
03_arithmetic.md R85; 03_arithmetic.md R86; 03_arithmetic.md R87; 03_arithmetic.md R88; 04_instruction_sets.md R119;
04_instruction_sets.md R120; 04_instruction_sets.md R129) -/
def Obligations.ConversionsOfVec : Prop :=
  ∀ (q sl : Fin 4) (sel : BitVec 4) (w lit : Word32) (s : State),
    let us := s.units_ q sl sel
    let f := vfmtOf (Vec.fmt w)
    let e := Lit.eoff lit
    let rand (v : View) (i : Nat) : Option Nat := if Vec.sr w then some (v.random16 i) else none
    let rows (v : View) : List (Word32 × Bool) := (List.range 4).flatMap (fun i => v.lanes 0 (Vec.b w / 4 * 4 + i))
    let scale (v : View) : Option Nat := blockScale f ((rows v).map (fun y => decode32 y.1))
    let packed (v : View) : List (Nat × Bool) := (v.lanes (Vec.bk w) (Vec.b w)).zipIdx.map
      (fun x => narrow f (rand v x.2) (Lit.scale8 lit) x.1.1)
    let block (v : View) : List (Nat × Bool) := (rows v).zipIdx.map
      (fun x => match scale v with
        | none => (0, false)
        | some k => narrow f (rand v x.2) k x.1.1)
    let mark (bad : Bool) (n : Nat) : Option Bool := if bad then some true
      else if maskAt (f.bits * e) (f.bits * n) = BitVec.allOnes 256 then some false else none
    (∃ t, exec (.cvt q sl sel w lit) s = .next t ∧
      s.entersResult t q sl (if Vec.sr w then 3 else 2) 1 (us.flatMap (fun u =>
        let v := s.view q sl u
        if Vec.fmt w = 0 then v.write (Vec.dk w) (Vec.d w)
          ((v.lanes (Vec.bk w) (Vec.b w)).map (fun x => (x.1, (v.lanes (Vec.bk w) (Vec.b w)).any (·.2))))
        else if Vec.fmt w ≤ 7 ∧ (e + 8) * f.bits ≤ 256 then v.write (Vec.dk w) (Vec.d w) ((List.range 8).map (fun i =>
          (widen f (Lit.scale8 lit) (v.line (Vec.b w)).data (e + i), (v.line (Vec.b w)).poison)))
        else []))) ∧
    (∃ t, exec (.pack q sl sel w lit) s = .next t ∧
      s.entersRounded t q sl sel (Vec.sr w) 8 (if Vec.sr w then 3 else 2) (us.flatMap (fun u =>
        let v := s.view q sl u
        if Vec.fmt w ≤ 7 ∧ (e + 8) * f.bits ≤ 256 then
          [.line u (v.lineIx (Vec.d w)) (maskAt (f.bits * e) (f.bits * 8)) (placeCodes f.bits e ((packed v).map (·.1))).2
            (mark ((v.lanes (Vec.bk w) (Vec.b w)).any (·.2) || (packed v).any (·.2)) 8)]
        else []))) ∧
    (∃ t, exec (.cvtmx q sl sel w lit) s = .next t ∧
      s.entersRounded t q sl sel (Vec.sr w) 32 (if Vec.sr w then 7 else 6) (us.flatMap (fun u =>
        let v := s.view q sl u
        if Vec.fmt w ≤ 7 ∧ f.isMx = true ∧ (e + 32) * f.bits ≤ 256 then
          [.line u (v.lineIx (Vec.d w)) (maskAt (f.bits * e) (f.bits * 32)) (placeCodes f.bits e ((block v).map (·.1))).2
            (mark ((rows v).any (·.2) || (block v).any (·.2)) 32),
          .line u (v.lineIx (Lit.line lit)) (maskAt (8 * Lit.byte lit) 8)
            (dataAt (8 * Lit.byte lit) 8 ((scale v).getD 0)) none]
        else [])))

/-- For every form and state exec answers a next state. XFER with the reserved source 3 or a die select above 16 does
nothing; otherwise it enters one result due 2 beats later that writes N whole lines, with their marks, from LINE on in each
selected unit of the named die (16 names every die); line i is 32 bytes of the payload from line OFF + i on, clean, or line
OFF + i from the slot's transfer base of the context's staging allocation, with its mark. OUT of a slot without a context,
or while the engine holds rows of 64 issues (it is held then), does nothing; otherwise it enters one result due 1 beat later
that gives the merge engine one issue under the next issue number of its stream, with one row for each place (stack of the
quadrant, bank) that has a selected unit: the FP32 sum, in some order, of the rows of the selected units there, poisoned if
a lane of them is. No memory, unit or bank changes. (02_bank_units.md R53; 02_bank_units.md R59; 03_arithmetic.md R90;
04_instruction_sets.md R122; 04_instruction_sets.md R125; 04_instruction_sets.md R129; 08_attention_and_merge.md R259;
08_attention_and_merge.md R260; 08_attention_and_merge.md R263; 11_host_coupling.md R391) -/
def Obligations.OutAndXferMoveRows : Prop :=
  (∀ (q sl : Fin 4) (sel : BitVec 4) (w : Word32) (s : State),
    (Xfer.src w = 3 ∨ 16 < Xfer.dsel w → exec (.xfer q sl sel w) s = .next s) ∧
    (Xfer.src w ≠ 3 → Xfer.dsel w ≤ 16 → ∃ t, ∃ line : Nat → VecLine, exec (.xfer q sl sel w) s = .next t ∧
      (∀ i l, i < Xfer.n w → Xfer.src w = 1 → (s.slot q sl).ctx.bind (fun c => (s.ctx c).lesson) = some l →
        line i = ⟨BitVec.ofNat 256 (leNat ((l.payload.drop (32 * (Xfer.off w + i))).take 32)), false⟩) ∧
      (∀ i c n, i < Xfer.n w → Xfer.src w ≠ 1 → (s.slot q sl).ctx = some c →
        s.stageLine c (32 * (if Xfer.src w = 0 then (s.slot q sl).xbaseStage.toNat else (s.slot q sl).xbaseMerge.toNat) +
          Xfer.off w + i) = some n →
        line i = ⟨BitVec.ofNat 256 (leNat (s.stageBytes q (32 * n) 32)), s.stageMark q n⟩) ∧
      s.entersResult t q sl 2 5 (((s.units_ q sl sel).filter (fun u =>
        decide (Xfer.dsel w = 16 ∨ dieOf u = Xfer.dsel w))).flatMap (fun u =>
        (List.range (Xfer.n w)).map (fun i =>
          .line u ((s.view q sl u).lineIx (Xfer.line w + i)) (BitVec.allOnes 256) (line i).data (some (line i).poison)))))) ∧
  (∀ (q sl : Fin 4) (sel : BitVec 4) (w lit : Word32) (s : State),
    ((s.slot q sl).ctx = none ∨ 64 ≤ (s.quad q).outCount → exec (.out q sl sel w lit) s = .next s) ∧
    (∀ c, (s.slot q sl).ctx = some c → (s.quad q).outCount < 64 →
      let us := s.units_ q sl sel
      let n := tget 0 (s.ctx c).streams (q * 512 + Vec.d w)
      ∃ t rows, exec (.out q sl sel w lit) s = .next t ∧
      t.quad q = (s.quad q).withResult sl 1 1 (s.origin q) [.out ⟨c, Vec.d w, n, rows⟩ us] ∧
      (rows.map (fun r => (r.stack, r.bank))).Nodup ∧
      (∀ i b, (∃ r ∈ rows, r.stack = i ∧ r.bank = b) ↔ ∃ u ∈ us, stackOf u = 5 * q + i ∧ bankOf u = b) ∧
      (∀ r ∈ rows,
        let here := (us.filter (fun u => decide (stackOf u = 5 * q + r.stack ∧ bankOf u = r.bank))).map
          (fun u => (s.view q sl u).lanes 0 (Vec.b w))
        (r.poison = true ↔ ∃ l ∈ here, ∃ x ∈ l, x.2 = true) ∧
        ∃ first others, List.Perm (first :: others) (here.map (fun l => l.map (·.1))) ∧
          r.lanes = others.foldl (fun a b => List.zipWith fadd a b) first) ∧
      (∀ p, p ≠ q.val → t.quad p = s.quad p) ∧
      t.ctx c = { s.ctx c with streams := tset 0 (s.ctx c).streams (q * 512 + Vec.d w) (n + 1) } ∧
      (∀ k, k ≠ c → t.ctx k = s.ctx k) ∧
      t = { s with quads := t.quads, ctxs := t.ctxs, free := t.free }))

/-- For every form and state exec answers a next state. AGSET and AGIDX set the named generator to the first position of the
descriptor's walk (AGIDX by the index tensor in profile 0, the local part in profile 1); AGSKIP advances a set generator by
COUNT and leaves an unset one; XBASE sets the transfer base of its source (of a reserved source none); MSK replaces one part
of its mask register (of the reserved register 0 none); LOOP loads a loop counter; ENDL with a counter above 0 lowers it and
steps back BACK units from the word in issue, and with 0 does nothing. Every other part of the state stays.
(04_instruction_sets.md R110; 04_instruction_sets.md R125; 04_instruction_sets.md R126; 04_instruction_sets.md R127;
04_instruction_sets.md R128; 04_instruction_sets.md R129; 05_sequencer.md R148; 16_modes_errors_recovery.md R550) -/
def Obligations.AddressAndLoopCommandsSetTheirRegister : Prop :=
  ∀ (q sl : Fin 4) (w : Word32) (s : State),
    let y := s.slot q sl
    let becomes (i : Instr) (z : Slot) : Prop := ∃ t, exec i s = .next t ∧ s.slotBecomes t q sl z
    becomes (.agset q sl w) { y with
      gens := tset Gen.unset y.gens (Addr.ag w) ⟨true, false, BitVec.ofNat 12 (Addr.desc w), 0⟩ } ∧
    becomes (.agidx q sl w) { y with
      gens := tset Gen.unset y.gens (Addr.ag w) ⟨true, decide (s.profile q sl = 0), BitVec.ofNat 12 (Addr.desc w), 0⟩ } ∧
    (∃ t, exec (.agskip q sl w) s = .next t ∧ s.slotBecomes t q sl { y with gens := (t.slot q sl).gens } ∧
      ∀ g, tget Gen.unset (t.slot q sl).gens g =
        let z := tget Gen.unset y.gens g
        if g = Addr.ag w ∧ z.set = true then { z with pos := z.pos + Addr.count w } else z) ∧
    becomes (.xbase q sl w) (if Addr.src w = 0 then { y with xbaseStage := BitVec.ofNat 26 (Addr.base w) }
      else if Addr.src w = 2 then { y with xbaseMerge := BitVec.ofNat 26 (Addr.base w) } else y) ∧
    (∃ t, exec (.msk q sl w) s = .next t ∧ s.slotBecomes t q sl { y with masks := (t.slot q sl).masks } ∧
      ∀ r, (t.slot q sl).maskReg r =
        if r = Ctrl.reg w ∧ r ≠ 0 then mskPart (y.maskReg r) (Ctrl.part w) (Ctrl.value w) else y.maskReg r) ∧
    becomes (.loop q sl w) { y with loops := tset 0 y.loops (Ctrl.cnt w) (BitVec.ofNat 24 (Ctrl.count w)) } ∧
    becomes (.endl q sl w) (if tget 0 y.loops (Ctrl.cnt w) = 0 then y else { y with
      loops := tset 0 y.loops (Ctrl.cnt w) (tget 0 y.loops (Ctrl.cnt w) - 1)
      pc := (match (s.quad q).word with
        | some i => i.pc
        | none => y.pc) - 4 * Ctrl.back w })

/-- For a slot with a context. A word presented before is left as it is. WAIT on K + OFS: an unbound identifier, a half-mast
pennant, or a binding cut off from its ring passes with POISONED; a live pennant passes when its value has reached the sum
and blocks the word otherwise; a pennant of another module of which no value has come yet blocks, and in the ring is
subscribed to; while JOINING one blocks. BELL passes when COUNT bells (a bell at this very time counted) have come, else
blocks for those left. FENCE passes when every earlier column write of the context in the quadrant is acknowledged, else
blocks. A word that blocks at a quiet beat makes its context WAITING. KADD adds a sum below 2^64 to its register, and
otherwise writes a value the model leaves free. Nothing else changes. (04_instruction_sets.md R99; 04_instruction_sets.md
R123; 05_sequencer.md R145; 05_sequencer.md R166; 09_synchronisation.md R298; 09_synchronisation.md R300;
09_synchronisation.md R304; 09_synchronisation.md R308; 09_synchronisation.md R313; 09_synchronisation.md R327;
16_modes_errors_recovery.md R553) -/
def Obligations.WaitsPassOrBlock : Prop :=
  ∀ (q sl : Fin 4) (w : Word32) (s : State),
    let b (c : Nat) : PenBinding := s.binding c (Sync.pen w)
    let v := (tget 0 (s.slot q sl).k (Sync.waitK w)).toNat + Sync.ofs w
    let passes (i : Instr) (poisoned : Bool) : Prop :=
      exec i s = .next (s.modSlot q sl (fun x => { x with passed := some poisoned }))
    let blocks (i : Instr) (on : Blocked) : Prop :=
      exec i s = .next (s.modSlot q sl (fun x => x.blockedOn (s.quiet q sl) on))
    ((s.slot q sl).passed ≠ none ∨ (s.slot q sl).blocked ≠ none → exec (.wait q sl w) s = .next s ∧
      exec (.bell q sl w) s = .next s ∧ exec (.fence q sl w) s = .next s) ∧
    (∀ c, (s.slot q sl).ctx = some c → (s.slot q sl).passed = none → (s.slot q sl).blocked = none →
      ((b c).kind ≠ 1 → (b c).kind ≠ 2 → passes (.wait q sl w) true) ∧
      ((b c).kind = 1 → (s.pen (b c).phys.toNat).st ≠ 1 → passes (.wait q sl w) true) ∧
      ((b c).kind = 1 → (s.pen (b c).phys.toNat).st = 1 → v ≤ (s.pen (b c).phys.toNat).value.toNat →
        passes (.wait q sl w) false) ∧
      ((b c).kind = 1 → (s.pen (b c).phys.toNat).st = 1 → (s.pen (b c).phys.toNat).value.toNat < v →
        blocks (.wait q sl w) (.pennant (Sync.pen w) v)) ∧
      ((b c).kind = 2 → s.outOfRing = true → passes (.wait q sl w) true) ∧
      ((b c).kind = 2 → s.inRing = true → (b c).dead = true → passes (.wait q sl w) true) ∧
      ((b c).kind = 2 → s.inRing = true → (b c).dead = false →
        (s.remote (b c).module.toNat (b c).phys.toNat).subscribed = true →
        if (s.remote (b c).module.toNat (b c).phys.toNat).st = 2 then passes (.wait q sl w) true
        else if v ≤ (s.remote (b c).module.toNat (b c).phys.toNat).value.toNat then passes (.wait q sl w) false
        else blocks (.wait q sl w) (.pennant (Sync.pen w) v)) ∧
      ((b c).kind = 2 → s.inRing = true → (b c).dead = false →
        (s.remote (b c).module.toNat (b c).phys.toNat).subscribed = false → exec (.wait q sl w) s = .next
          ((s.sendTo (b c).module.toNat (.penSub (b c).phys true)).modSlot q sl
            (fun x => x.blockedOn (s.quiet q sl) (.pennant (Sync.pen w) v)))) ∧
      ((b c).kind = 2 → s.ring.state = 1 → blocks (.wait q sl w) (.pennant (Sync.pen w) v)) ∧
      (let left := Sync.count w - (if s.ring.bells ≠ 0 ∧ s.ring.timebase = s.ring.lastBell then 1 else 0)
       if left = 0 then passes (.bell q sl w) false else blocks (.bell q sl w) (.bells left)) ∧
      (if s.writesDone q c (s.quad q).seq then passes (.fence q sl w) false else blocks (.fence q sl w) .fence)) ∧
    (let n := (tget 0 (s.slot q sl).k (Sync.k w)).toNat + Sync.addend w
     ∃ x t, exec (.kadd q sl w) s = .next t ∧ (n < 2 ^ 64 → x = BitVec.ofNat 64 n ∧ t.free = s.free) ∧
       t = { s.modSlot q sl (fun y => { y with k := tset 0 y.k (Sync.k w) x }) with free := t.free })

/-- For a slot with a context; a word presented before is left as it is. RGET of an entry that is free or that the timetable
holds passes; of another it takes the hold when no other holder of an overlapping box conflicts and no earlier request or
remote access stands before it, and otherwise joins the waiting requests and blocks. RREL takes the timetable's hold from
its entry alone, which with no holder left is released and deferring. ROLL on an unbound, dead or half-mast handle, or of a
ring roll call out of the ring, passes (POISONED with WAIT). Otherwise an arrival is recorded for the earliest round lacking
it, and the word blocks with WAIT and passes without; a second early arrival blocks; a context outside LOCAL_MASK adds none.
On a bell, an arrival that completes the round of a roll call of this module releases it there. (05_sequencer.md R145;
05_sequencer.md R182; 05_sequencer.md R184; 05_sequencer.md R185; 05_sequencer.md R186; 05_sequencer.md R188;
09_synchronisation.md R315; 09_synchronisation.md R316; 09_synchronisation.md R317; 09_synchronisation.md R318;
09_synchronisation.md R329; 16_modes_errors_recovery.md R553) -/
def Obligations.RegionAndRollWords : Prop :=
  ∀ (q sl : Fin 4) (w : Word32) (s : State),
    let e := 64 * sl.val + Sync.entry w
    let x := s.quad q
    let passed (t : State) (poisoned : Bool) : Prop := t.slot q sl = { s.slot q sl with passed := some poisoned }
    let blocked (t : State) (on : Blocked) : Prop := t.slot q sl = (s.slot q sl).blockedOn (s.quiet q sl) on
    let arrived (t : State) : Prop := t = { s with quads := t.quads, sync := { s.sync with arrivals := s.sync.arrivals + 1 } }
    let waits : Bool := x.conflicts (.timetable sl) e (Sync.wr w) || x.behind x.sbWait e (Sync.wr w) ||
      s.behindRemote q ⟨sl, none, e, Sync.wr w, s.sync.arrivals⟩
    ((s.slot q sl).passed ≠ none ∨ (s.slot q sl).blocked ≠ none →
      exec (.rget q sl w) s = .next s ∧ exec (.roll q sl w) s = .next s) ∧
    ((s.slot q sl).passed = none → (s.slot q sl).blocked = none →
      ((x.entry e).st = 0 ∨ (∃ h ∈ (x.entry e).holders, h.1 = none) → ∃ t, exec (.rget q sl w) s = .next t ∧ passed t false ∧
        (t.quad q).sb = x.sb ∧ (t.quad q).sbWait = x.sbWait ∧ t = { s with quads := t.quads }) ∧
      ((x.entry e).st ≠ 0 → (∀ h ∈ (x.entry e).holders, h.1 ≠ none) → waits = false →
        ∃ t, exec (.rget q sl w) s = .next t ∧ passed t false ∧ (t.quad q).sbWait = x.sbWait ∧
          (∀ i, (t.quad q).entry i = if i = e then (x.entry e).hold (none, Sync.wr w) else x.entry i) ∧ arrived t) ∧
      ((x.entry e).st ≠ 0 → (∀ h ∈ (x.entry e).holders, h.1 ≠ none) → waits = true →
        ∃ t, exec (.rget q sl w) s = .next t ∧ blocked t (.region e (Sync.wr w)) ∧ (t.quad q).sb = x.sb ∧
          (t.quad q).sbWait = x.sbWait ++ [⟨sl, none, e, Sync.wr w, s.sync.arrivals⟩] ∧ arrived t)) ∧
    (∃ t, exec (.rrel q sl w) s = .next t ∧ t = { s with quads := t.quads } ∧
      (∀ i, i ≠ e → (t.quad q).entry i = x.entry i) ∧
      ((t.quad q).entry e).holders = (x.entry e).holders.filter (fun h => h.1.isSome) ∧
      ((∃ h ∈ (x.entry e).holders, h.1 = none) → ((t.quad q).entry e).holders = [] → ((t.quad q).entry e).st = 3)) ∧
    (∀ c, (s.slot q sl).ctx = some c → (s.slot q sl).passed = none → (s.slot q sl).blocked = none →
     let hd := s.rollHandle c (Sync.call w)
     let r := s.rollCall hd.num.toNat
     let b := 4 * q.val + sl.val
     let wait := Sync.waits w
     (hd.bound = false ∨ hd.dead = true ∨ r.st ≠ 1 → exec (.roll q sl w) s =
       .next (s.modSlot q sl (fun y => { y with passed := some wait }))) ∧
     (hd.bound = true → hd.dead = false → r.st = 1 → r.ring = true → s.outOfRing = true →
       ∃ t, exec (.roll q sl w) s = .next t ∧ passed t wait) ∧
     (hd.bound = true → hd.dead = false → r.st = 1 → (r.ring = false ∨ s.outOfRing = false) →
       (s.onBell = false → ∃ t, exec (.roll q sl w) s = .next t ∧
         t = { s with quads := t.quads, sync := t.sync, ring := t.ring, out := t.out } ∧
         (t.rollCall hd.num.toNat).round = r.round ∧
         (if r.localMask.getLsbD b = false then
            (t.rollCall hd.num.toNat).arrived = r.arrived ∧ (t.rollCall hd.num.toNat).ahead = r.ahead ∧
            (if wait then blocked t (.rollCall (Sync.call w) r.round.toNat) else passed t false)
          else if r.arrived.getLsbD b = false then
            (t.rollCall hd.num.toNat).arrived = r.arrived ||| (1#18 <<< b) ∧ (t.rollCall hd.num.toNat).ahead = r.ahead ∧
            (if wait then blocked t (.rollCall (Sync.call w) r.round.toNat) else passed t false)
          else if r.ahead.getLsbD b = false then
            (t.rollCall hd.num.toNat).arrived = r.arrived ∧ (t.rollCall hd.num.toNat).ahead = r.ahead ||| (1#18 <<< b) ∧
            (if wait then blocked t (.rollCall (Sync.call w) (r.round.toNat + 1)) else passed t false)
          else
            (t.rollCall hd.num.toNat).arrived = r.arrived ∧ (t.rollCall hd.num.toNat).ahead = r.ahead ∧
            blocked t (.rollHeld (Sync.call w)))) ∧
       (s.onBell = true → r.ring = false → r.localMask.getLsbD b = true → r.arrived.getLsbD b = false →
         (r.arrived ||| (1#18 <<< b)) &&& r.localMask = r.localMask → r.releasedAt ≠ some s.ring.timebase →
         ∃ t, exec (.roll q sl w) s = .next t ∧ (t.rollCall hd.num.toNat).round = r.round + 1 ∧
           passed t (wait && r.poisonNext))))

/-- In a slot with a context. HOIST with no other hoist waiting: in fenced ordering, or with the context's earlier column
writes of the quadrant acknowledged, a pennant of this module rises by AMT (saturating; half-mast and saturated ones stay)
and every other pennant stays, and to another member's pennant one frame goes; through an unbound or dead binding, or out of
the ring, it changes nothing; otherwise the hoist joins the quadrant's list and no pennant changes. REPORT not yet
presented, by a context with a lesson: with the host lost the record is discarded and counted and the word passes; while the
context holds fewer than 64 records and all contexts fewer than 256, and none of its records waits, the TAG record (ROLL,
tag, ORIGIN) enters the report buffer and the word passes; while there is no room the record queues and the word blocks.
(04_instruction_sets.md R123; 04_instruction_sets.md R124; 09_synchronisation.md R293; 09_synchronisation.md R294;
09_synchronisation.md R298; 09_synchronisation.md R303; 09_synchronisation.md R304; 09_synchronisation.md R306;
09_synchronisation.md R307; 11_host_coupling.md R400; 11_host_coupling.md R403; 11_host_coupling.md R404) -/
def Obligations.HoistAndReportWords : Prop :=
  (∀ (q sl : Fin 4) (w : Word32) (s : State), (s.slot q sl).ctx = none →
    exec (.hoist q sl w) s = .next s ∧ exec (.report q sl w) s = .next s) ∧
  (∀ (q sl : Fin 4) (w : Word32) (c : Nat) (s : State), (s.slot q sl).ctx = some c → (∀ p, (s.quad p).hoists = []) →
    let b := s.binding c (Sync.pen w)
    let before := if s.slotFenced q sl then 0 else (s.quad q).seq
    let later : Sync := { s.sync with arrivals := s.sync.arrivals + 1 }
    let goes : Prop := s.outOfRing = false ∧ b.dead = false ∧ (s.posOf b.module.toNat).isSome = true
    let frame : State := s.sendTo b.module.toNat (.hoist b.phys (BitVec.ofNat 16 (Sync.amt w)))
    (b.kind = 1 → s.writesDone q c before = true → ∃ t, exec (.hoist q sl w) s = .next t ∧ (t.quad q).hoists = [] ∧
      (∀ p, t.pen p = if p = b.phys.toNat then (s.pen p).hoisted (Sync.amt w) else s.pen p) ∧
      t = { s with quads := t.quads, ctxs := t.ctxs, sync := t.sync, host := t.host, ring := t.ring, out := t.out }) ∧
    (b.kind = 2 ∧ goes → s.ring.state ≠ 1 → s.writesDone q c before = true →
      ∃ t, exec (.hoist q sl w) s = .next t ∧ (∀ p, t.quad p = s.quad p) ∧
        t = { s with quads := t.quads, sync := later, ring := frame.ring, out := frame.out }) ∧
    (b.kind ≠ 1 → (b.kind = 2 → s.ring.state ≠ 1 ∧ ¬ goes) → s.writesDone q c before = true →
      ∃ t, exec (.hoist q sl w) s = .next t ∧ (∀ p, t.quad p = s.quad p) ∧ t = { s with quads := t.quads, sync := later }) ∧
    (s.writesDone q c before = false ∨ (b.kind = 2 ∧ s.ring.state = 1) → ∃ t, exec (.hoist q sl w) s = .next t ∧
      t.quad q = { s.quad q with hoists := [⟨c, b, BitVec.ofNat 16 (Sync.amt w), before, s.sync.arrivals⟩] } ∧
      (∀ p, p ≠ q.val → t.quad p = s.quad p) ∧ t = { s with quads := t.quads, sync := later })) ∧
  (∀ (q sl : Fin 4) (w : Word32) (s : State), (s.slot q sl).passed ≠ none ∨ (s.slot q sl).blocked ≠ none →
    exec (.report q sl w) s = .next s) ∧
  (∀ (q sl : Fin 4) (w : Word32) (c : Nat) (l : Lesson) (s : State), (s.slot q sl).ctx = some c → (s.ctx c).lesson = some l →
    (s.slot q sl).passed = none → (s.slot q sl).blocked = none →
    let r : Waiting :=
      { record := { roll := l.roll, type := 2, status := 0, flags := 0, w0 := BitVec.ofNat 64 (Sync.tag w),
                    w1 := BitVec.ofNat 64 (s.nextOrigin q sl + q * 2 ^ 20), result := 0 }
        after := [], early := true, src := some (q.val, sl.val) }
    let passes (t : State) : Prop := t.slot q sl = { s.slot q sl with passed := some false, timedOut := false }
    ((s.ctx c).hostLost = true → ∃ t, exec (.report q sl w) s = .next t ∧ passes t ∧
      t = { s with quads := t.quads, host := { s.host with discarded := bump s.host.discarded 1 } }) ∧
    ((s.ctx c).hostLost = false → (s.ctx c).queue = [] → (s.ctx c).buffer.length < 64 → s.bufferUse < 256 →
      ∃ t, exec (.report q sl w) s = .next t ∧ t.ctx c = { s.ctx c with buffer := (s.ctx c).buffer ++ [r] } ∧
        passes t ∧ (∀ k, k ≠ c → t.ctx k = s.ctx k) ∧ t = { s with quads := t.quads, ctxs := t.ctxs }) ∧
    ((s.ctx c).hostLost = false → (s.ctx c).buffer.length ≥ 64 ∨ s.bufferUse ≥ 256 →
      ∃ t, exec (.report q sl w) s = .next t ∧ t.ctx c = { s.ctx c with queue := (s.ctx c).queue ++ [r] } ∧
        t.slot q sl = (s.slot q sl).blockedOn (s.quiet q sl) .reportBuffer ∧ (∀ k, k ≠ c → t.ctx k = s.ctx k) ∧
        t = { s with quads := t.quads, ctxs := t.ctxs }))

/-- In a slot with a context that has fewer than 16 launch records with the engine in the quadrant: the exchange network's
or the merge engine's queue gets one share at its end, under the next number, with the 64-byte record the word names in the
active half, the context, the slot, the pennant binding of its identifier as it is now, the number of the launch and K7 as
at the start of the word's beat; the slot's count of launches rises. Memory, units, banks and the other engine's queue stay.
With 16 records there, or without a context, nothing happens. (04_instruction_sets.md R110; 04_instruction_sets.md R124;
04_instruction_sets.md R127; 07_exchange_network.md R236; 07_exchange_network.md R238; 07_exchange_network.md R239;
08_attention_and_merge.md R264; 08_attention_and_merge.md R265; 08_attention_and_merge.md R287) -/
def Obligations.LaunchQueuesAShare : Prop :=
  ∀ (q sl : Fin 4) (w : Word32) (s : State),
    let full (hs : List Share) : Prop := 16 ≤ (hs.filter (fun h => decide (h.slot = sl.val))).length
    ((s.slot q sl).ctx = none ∨ full (s.quad q).xq → exec (.launchExchange q sl w) s = .next s) ∧
    ((s.slot q sl).ctx = none ∨ full (s.quad q).mq → exec (.launchMerge q sl w) s = .next s) ∧
    (∀ c, (s.slot q sl).ctx = some c →
    let rec_ : BitVec 512 := BitVec.ofNat 512 (leNat (readBytes (s.quad q).tt (s.activeBase q sl + 64 * Ctrl.record w) 64))
    let queued (old new : List Share) (nth : Nat) : Prop :=
      new.map (·.id) = old.map (·.id) ++ [(s.quad q).shareIds] ∧
      ∃ h ∈ new, h.id = (s.quad q).shareIds ∧ h.slot = sl.val ∧ h.ctx = c ∧ h.record = rec_ ∧
        h.binding = s.binding c (fld rec_ 467 458) ∧ h.nth = nth ∧ h.k7 = s.paramAt q sl 7
    let framed (t : State) : Prop :=
      t = { s with quads := t.quads, ctxs := t.ctxs, sync := { s.sync with arrivals := t.sync.arrivals } }
    (¬ full (s.quad q).xq → ∃ t, exec (.launchExchange q sl w) s = .next t ∧
      queued (s.quad q).xq (t.quad q).xq (s.slot q sl).launches0 ∧ (t.quad q).mq = (s.quad q).mq ∧
      t.slot q sl = { s.slot q sl with launches0 := (s.slot q sl).launches0 + 1 } ∧ t.ctxs = s.ctxs ∧ framed t) ∧
    (¬ full (s.quad q).mq → ∃ t, exec (.launchMerge q sl w) s = .next t ∧
      queued (s.quad q).mq (t.quad q).mq (s.slot q sl).launches1 ∧ (t.quad q).xq = (s.quad q).xq ∧
      t.slot q sl = { s.slot q sl with launches1 := (s.slot q sl).launches1 + 1 } ∧
      (∀ k, t.ctx k = { s.ctx k with streams := (t.ctx k).streams }) ∧ framed t))

/-- ISSUE_WORD does nothing while something holds the beat, goes on with a recess in progress, and with units late at the
boundary raises their lines and holds it. Otherwise, with the selected slot ISSUING: a first word held waits; a recess word
is taken or skipped by its class; without place for its OUT or LAUNCH the beat is held; a word whose SYNC condition is met
issues: beat, lesson's beats, words since a recess and beats of the quantum rise by 1, the word in issue is the one at the
slot's place, the slot moves on, then each present slot acts as its own command, in the order of R110, and END drains; a
blocked one lets a beat pass. Without an ISSUING slot a beat passes. RECESS_WORD that is taken passes the recess's beats,
unless a late line stops it, and each bank of the quadrant in a stack that has not failed has performed one operation, a
regular refresh first where its debt is above 8; class 3 and a class below RDIV pass none. (02_bank_units.md R63;
02_bank_units.md R64; 04_instruction_sets.md R106; 04_instruction_sets.md R110; 04_instruction_sets.md R111;
04_instruction_sets.md R131; 04_instruction_sets.md R132; 05_sequencer.md R144; 05_sequencer.md R145; 05_sequencer.md R168;
05_sequencer.md R169; 10_dram_controller.md R345) -/
def Obligations.WordsIssueAndRecessesRefresh : Prop :=
  (∀ (i : Issued) (q sl : Fin 4) (s : State), ∀ c ∈ i.commands q sl, exec c s = .next (s.runSlot c)) ∧
  (∀ (q : Fin 4) (late : List Nat) (s : State),
    let us := s.lateUnits q ((s.quad q).beat + 1) late
    (s.holding q = true → exec (.issueWord q late) s = .next s) ∧
    (s.holding q = false → (s.quad q).recessLeft ≠ 0 → exec (.issueWord q late) s = .next (s.runRecess q late)) ∧
    (s.holding q = false → (s.quad q).recessLeft = 0 → us ≠ [] → us.Nodup → ∃ t, exec (.issueWord q late) s = .next t ∧
      (t.quad q).late = us ∧ (t.quad q).held = true ∧ (t.quad q).beat = (s.quad q).beat ∧
      (∀ u, t.unit u = if u ∈ us
        then { s.unit u with ev := { (s.unit u).ev with late := satInc (s.unit u).ev.late } } else s.unit u) ∧
      (∀ i, t.slot q i = s.slot q i) ∧ t = { s with quads := t.quads, units := t.units }) ∧
    (s.holding q = false → (s.quad q).recessLeft = 0 → us = [] →
      let s1 := s.yieldRows q
      (∀ u h, (∃ r, (s.bank u).half h = some r ∧ r.timetable = true) → (s1.bank u).half h = (s.bank u).half h) ∧
      (((s.quad q).sel = none ∨ ∃ sl, (s.quad q).sel = some sl ∧ (s.slot q sl).st ≠ .issuing) →
        exec (.issueWord q late) s = .next (s1.idleBeats q 1)) ∧
      (∀ sl : Fin 4, (s.quad q).sel = some sl.val → (s.slot q sl).st = .issuing →
        let w := s.fetchWord q sl
        let y := s.slot q sl
        let s2 := match w.slot 5 with
          | some x => if Sync.blocks x then s1.present q sl x else s1.pass q sl false
          | none => s1.pass q sl false
        (s.firstHeld q sl = true → exec (.issueWord q late) s = .next s1) ∧
        (s.firstHeld q sl = false → w.recess = true → exec (.issueWord q late) s = .next (s1.issueRecess q sl w late)) ∧
        (s.firstHeld q sl = false → w.recess = false → ∀ code, s.full q sl w = some code →
          exec (.issueWord q late) s = .next (s1.accountOpen q code)) ∧
        (s.firstHeld q sl = false → w.recess = false → s.full q sl w = none →
          ((s2.slot q sl).passed = none → exec (.issueWord q late) s = .next ((s2.settleBlocked q sl).idleBeats q 1)) ∧
          ((s2.slot q sl).passed ≠ none → ∃ (u : State) (i : Issued),
            exec (.issueWord q late) s = .next
              (let v := ((i.commands q sl).foldl (fun (x : State) c => x.runSlot c) u).reportIssued q sl
               if w.end_ = true ∧ y.rep ≥ w.repeats then after v (exec (.endWord q sl) v) else v) ∧
            (u.quad q).beat = (s.quad q).beat + 1 ∧ (u.quad q).word = some i ∧ i.slot = sl ∧ i.sel = w.sel ∧
            i.origin = w.origin ∧ i.issue = y.rep ∧ i.pc = y.pc ∧ i.present = w.present ∧ i.cop = w.cop ∧
            i.words = (w.moved y.rep).map (fun x => x.getD 0) ∧ i.gens = y.gens ∧ i.k = y.k ∧
            (w.stream = false → i.entry = none) ∧
            (∀ e es, w.stream = true → y.stream = e :: es → i.entry = some e ∧ (u.slot q sl).stream = es) ∧
            (u.slot q sl).passed = none ∧ (u.slot q sl).lessonBeat = y.lessonBeat + 1 ∧
            (u.slot q sl).sinceRecess = y.sinceRecess + 1 ∧ (u.quad q).selBeats = (s.quad q).selBeats + 1 ∧
            (u.slot q sl).rep = (if y.rep ≥ w.repeats then 0 else y.rep + 1) ∧
            (u.slot q sl).pc = (if y.rep ≥ w.repeats then y.pc + w.bytes else y.pc)))))) ∧
  (∀ (q sl : Fin 4) (rclass : BitVec 2) (late : List Nat) (s : State),
    let n := recessBeats (s.quad q).point
    (s.holding q = true → exec (.recessWord q sl ⟨rclass, late⟩) s = .next s) ∧
    (s.holding q = false → (s.quad q).recessLeft ≠ 0 → exec (.recessWord q sl ⟨rclass, late⟩) s = .next (s.runRecess q late)) ∧
    (s.holding q = false → (s.quad q).recessLeft = 0 → rclass ≠ 3 → s.rdiv q ≤ 2 ^ rclass.toNat →
      ∃ t, exec (.recessWord q sl ⟨rclass, late⟩) s = .next t ∧ (t.quad q).sinceRecess = 0 ∧ (t.slot q sl).sinceRecess = 0 ∧
        (t.slot q sl).lessonBeat = (s.slot q sl).lessonBeat + n ∧ (t.quad q).atSwitch = s.quiet q sl ∧
        (s.lateBeat q n late = none → (t.quad q).beat = (s.quad q).beat + n ∧ (t.quad q).recessLeft = 0) ∧
        (∀ b, s.lateBeat q n late = some b → (t.quad q).beat = b - 1 ∧ (t.quad q).late = s.lateUnits q b late ∧
          (t.quad q).held = true ∧ (t.quad q).recessLeft = n - (b - 1 - (s.quad q).beat)) ∧
        (∀ u, t.bank u = { (if quadOf u = q ∧ (s.stack (stackOf u)).failed = false then (s.bank u).doRecess else s.bank u) with
          ueSeen := (t.bank u).ueSeen })) ∧
    (s.holding q = false → (s.quad q).recessLeft = 0 → rclass = 3 ∨ 2 ^ rclass.toNat < s.rdiv q →
      exec (.recessWord q sl ⟨rclass, late⟩) s = .next (s.modQuad q (fun x => { x with atSwitch := s.quiet q sl }))))

/-- CONTEXT_SWITCH does nothing while something holds the quadrant's beat and goes on with a recess in progress. Otherwise
it selects a READY slot whose priority is highest among those that are not held back, when no slot is selected, or the
selected one is ISSUING, not blocked, at a switch point, and of lower priority or of equal priority with its quantum up, or
ISSUING and blocked at a quiet beat, or draining with its results visible, or neither; the slot selected is then ISSUING
with no beats counted and no quantum up, and an ISSUING one that is replaced is READY, or WAITING if it was blocked (READY
if what it waited for came during a switch recess). Otherwise an unblocked selection stays. QUANTUM_EXPIRY notes the quantum
once the selected context has issued for it. END makes an ISSUING context DRAINING in its quadrant. (02_bank_units.md R64;
05_sequencer.md R160; 05_sequencer.md R161; 05_sequencer.md R162; 05_sequencer.md R163; 05_sequencer.md R166;
05_sequencer.md R168; 05_sequencer.md R173) -/
def Obligations.ContextsSwitchAndDrain : Prop :=
  (∀ (q : Fin 4) (late : List Nat) (s : State),
    (s.holding q = true → exec (.contextSwitch ⟨q, late⟩) s = .next s) ∧
    (s.holding q = false → (s.quad q).recessLeft ≠ 0 → exec (.contextSwitch ⟨q, late⟩) s = .next (s.runRecess q late))) ∧
  (∀ (q : Fin 4) (late : List Nat) (sl : Nat) (s : State), s.holding q = false → (s.quad q).recessLeft = 0 →
    s.bestReady q = some sl →
    let lower (o : Nat) : Prop := s.priority q o < s.priority q sl ∨
      (s.priority q o = s.priority q sl ∧ ((s.quad q).quantumUp = true ∨ s.mgmt.quantum.toNat ≤ (s.quad q).selBeats))
    ((s.quad q).sel = none ∨ (∃ o, (s.quad q).sel = some o ∧
      ((s.slot q o).st = .issuing ∧ (s.slot q o).blocked = none ∧ (s.quad q).atSwitch = true ∧ lower o ∨
       (s.slot q o).st = .issuing ∧ (s.slot q o).blocked ≠ none ∧ s.quiet q o = true ∨
       (s.slot q o).st = .draining ∧ s.settled q o = true ∨
       ((s.slot q o).st ≠ .issuing ∧ (s.slot q o).st ≠ .draining))) →
    ∃ t, exec (.contextSwitch ⟨q, late⟩) s = .next t ∧ (s.slot q sl).st = .ready ∧ s.firstHeld q sl = false ∧
      (∀ i, i < 4 → (s.slot q i).st = .ready → s.firstHeld q i = false → s.priority q i ≤ s.priority q sl) ∧
      (t.quad q).sel = some sl ∧ (t.slot q sl).st = .issuing ∧ (t.quad q).selBeats = 0 ∧ (t.quad q).quantumUp = false ∧
      (∀ o, (s.quad q).sel = some o → (s.slot q o).st = .issuing →
        (t.slot q o).st = .ready ∨ ((s.slot q o).blocked ≠ none ∧ (t.slot q o).st = .waiting))) ∧
    ((∃ o, (s.quad q).sel = some o ∧ ((s.slot q o).st = .issuing ∧ (s.slot q o).blocked = none ∧
        ¬ ((s.quad q).atSwitch = true ∧ lower o) ∨ (s.slot q o).st = .draining ∧ s.settled q o = false)) →
      exec (.contextSwitch ⟨q, late⟩) s = .next s)) ∧
  (∀ (q : Fin 4) (late : List Nat) (s : State), s.holding q = false → (s.quad q).recessLeft = 0 → s.bestReady q = none →
    ((s.quad q).sel = none ∨ ∃ o, (s.quad q).sel = some o ∧ ((s.slot q o).st ≠ .issuing ∨ (s.slot q o).blocked = none)) →
    exec (.contextSwitch ⟨q, late⟩) s = .next s ∧ ∀ i, i < 4 → (s.slot q i).st = .ready → s.firstHeld q i = true) ∧
  (∀ (q : Fin 4) (s : State), ∃ t, exec (.quantumExpiry q) s = .next t ∧ t = { s with quads := t.quads } ∧
    (∀ p, p ≠ q.val → t.quad p = s.quad p) ∧ t.quad q = { s.quad q with quantumUp := (t.quad q).quantumUp } ∧
    ((t.quad q).quantumUp = true ↔ (s.quad q).quantumUp = true ∨ (s.mgmt.quantum.toNat ≤ (s.quad q).selBeats ∧
      ∃ sl, (s.quad q).sel = some sl ∧ (s.slot q sl).st = .issuing))) ∧
  (∀ (q sl : Fin 4) (s : State),
    ((s.slot q sl).st = .issuing → exec (.endWord q sl) s = .next (s.modSlot q sl (fun y => { y with st := .draining }))) ∧
    ((s.slot q sl).st ≠ .issuing → exec (.endWord q sl) s = .next s))

/-- With auxiliary power good and a period above 0: BELL_RING takes the timebase to the first multiple of the period at or
after it (and after the last bell), or, where a stored period takes effect by then, of that period from CHANGE_AT on; that
is the last bell then, the count of bells rises by 1, and each live context with no lesson and an accepted LESSON command
has one. BELL_PERIOD_CHANGE with a period stored rings every bell of the old one before CHANGE_AT, takes the timebase there
and puts the stored one in force. SATURATION_INTERVAL publishes each quadrant's largest category and flags of the interval
and the module's code, and begins a new interval; nothing else changes. Without auxiliary power, or a stored period, the
first or second does nothing. (01_architecture.md R20; 01_architecture.md R21; 01_architecture.md R25; 01_architecture.md
R26; 05_sequencer.md R190; 05_sequencer.md R191; 09_synchronisation.md R313; 12_peer_ring.md R445) -/
def Obligations.BellsAndIntervals : Prop :=
  (∀ s : State, s.boot.auxGood = false → exec .bellRing s = .next s) ∧
  (∀ s : State, s.boot.auxGood = true → s.ring.period ≠ 0 → ∃ t, exec .bellRing s = .next t ∧
    (let first := s.bellFrom s.ring.period s.ring.timebase
     first % s.ring.period = 0 ∧ s.ring.timebase ≤ first ∧ (s.ring.bells ≠ 0 → s.ring.lastBell < first) ∧
     (∀ b, s.ring.timebase ≤ b → (s.ring.bells ≠ 0 → s.ring.lastBell < b) → b % s.ring.period = 0 → first ≤ b) ∧
     (if s.ring.nextPeriod ≠ 0 ∧ s.ring.changeAt ≤ first then
        t.ring.period = s.ring.nextPeriod ∧ t.ring.nextPeriod = 0 ∧ t.ring.lastBell % s.ring.nextPeriod = 0 ∧
        s.ring.changeAt ≤ t.ring.lastBell ∧ s.ring.timebase ≤ t.ring.lastBell ∧
        (s.ring.bells ≠ 0 → s.ring.lastBell < t.ring.lastBell)
      else t.ring.period = s.ring.period ∧ t.ring.nextPeriod = s.ring.nextPeriod ∧ t.ring.lastBell = first)) ∧
    (t.ring.lastBell < 2 ^ 64 → t.ring.timebase = t.ring.lastBell) ∧ t.ring.bells = s.ring.bells + 1 ∧
    (∀ c, c < 16 → (s.ctx c).live = true → (s.ctx c).resetting = false → (s.ctx c).lesson = none →
      (∃ a ∈ (s.ctx c).accepted, a.skip = false) → (t.ctx c).lesson.isSome = true)) ∧
  (∀ s : State, s.ring.nextPeriod = 0 → exec .bellPeriodChange s = .next s) ∧
  (∀ s : State, s.ring.nextPeriod ≠ 0 → ∃ t, exec .bellPeriodChange s = .next t ∧
    t.ring.period = s.ring.nextPeriod ∧ t.ring.nextPeriod = 0 ∧
    (s.ring.timebase ≤ s.ring.changeAt → s.ring.changeAt < 2 ^ 64 → t.ring.timebase = s.ring.changeAt) ∧
    (s.ring.changeAt < 2 ^ 64 → ∀ b, s.ring.timebase ≤ b → b < s.ring.changeAt → s.ring.period ≠ 0 → b % s.ring.period = 0 →
      (s.ring.bells ≠ 0 → s.ring.lastBell < b) → b ≤ t.ring.lastBell) ∧
    (s.ring.changeAt ≤ s.bellFrom s.ring.period s.ring.timebase → (∀ c, (s.ctx c).armed = none) →
      t.ring = { s.ring with
        timebase := t.ring.timebase, timeError := t.ring.timeError, rate := t.ring.rate, period := s.ring.nextPeriod, nextPeriod := 0 } ∧
      t = { s with ring := t.ring, quads := t.quads, free := t.free, sync := { s.sync with recoveries := t.sync.recoveries } } ∧
      ∀ p, t.quad p = { s.quad p with sat := (t.quad p).sat })) ∧
  (∀ (linkBusy peerBusy : Bool) (s : State), ∃ t, exec (.saturationInterval linkBusy peerBusy) s = .next t ∧
    t.mgmt = { s.mgmt with
      moduleSat := if linkBusy then 5 else if peerBusy then 6 else BitVec.ofNat 8 (satLargest s.satTotal) } ∧
    (∀ q, q < 4 → t.quad q = { s.quad q with
      satCode := BitVec.ofNat 8 (satLargest (s.quad q).sat), satFlags := satFlagsOf (s.quad q).sat, sat := [] }) ∧
    (∀ q, 4 ≤ q → t.quad q = s.quad q) ∧ t = { s with mgmt := t.mgmt, quads := t.quads })

/-- DISMISSAL_COMPLETE of a context whose lesson has drained everywhere, with no access waiting and room in the report
buffer: the lesson is over, the count of lessons rises, the slots of the span are DISMISSED, and a closing record with the
lesson's ROLL and status SUCCESS or UNSETTLED is in the buffer. LOAD_BEGIN begins the load that waits once none is under
way, no halves are armed and the image's columns can be reached; otherwise it opens their quadrants' gates. LOAD_COMPLETE of
a refused image, or of one that would write a half in use, leaves halves and stores alone; of a good one it makes the new
halves active in a dismissed context outside a bell's beat, and else armed. CTX_RESET_COMPLETE leaves the context as never
created and answers each waiting request with SUCCESS. FREQ_CHANGE_COMPLETE puts the chosen point in force with every debt
of the quadrant paid. Each does nothing where there is nothing to complete. (01_architecture.md R27; 05_sequencer.md R152;
05_sequencer.md R153; 05_sequencer.md R154; 05_sequencer.md R155; 05_sequencer.md R156; 05_sequencer.md R157;
05_sequencer.md R173; 05_sequencer.md R174; 10_dram_controller.md R356; 11_host_coupling.md R401; 11_host_coupling.md R408)
-/
def Obligations.LessonsCloseAndLoadsSwap : Prop :=
  (∀ (c : Fin 16) (l : Lesson) (s : State), (s.ctx c).lesson = some l → l.closing = false → s.drained c = true →
    s.host.deferred = [] → s.host.stalled = [] → s.host.inFlight = [] → s.owesAccess c = false → (s.ctx c).hostLost = false →
    (s.ctx c).queue = [] → (s.ctx c).buffer.length + l.recompute.length < 64 → s.bufferUse + l.recompute.length < 256 →
    ∃ t, exec (.dismissalComplete c) s = .next t ∧ (t.ctx c).lesson = none ∧ (t.ctx c).lessons = (s.ctx c).lessons + 1 ∧
      (∀ q ∈ bitsSet (s.ctx c).span, (t.slot q (tget 0 (s.ctx c).slotIn q)).st = .dismissed) ∧
      (∃ r ∈ (t.ctx c).buffer, r.record.type = 1 ∧ r.record.roll = l.roll ∧
        r.record.status = if l.unsettledMark then Code.unsettled else Code.ok) ∧ t.mem = s.mem) ∧
  (∀ (c : Fin 16) (s : State), (s.ctx c).lesson = none → exec (.dismissalComplete c) s = .next s) ∧
  (∀ (c : Fin 16) (s : State),
    ((s.ctx c).waitLoad = none ∨ (s.ctx c).loading ≠ none ∨ (s.ctx c).armed ≠ none → exec (.loadBegin c) s = .next s) ∧
    (∀ n h, (s.ctx c).waitLoad = some (n, h) → (s.ctx c).loading = none → (s.ctx c).armed = none →
      let cols := if (s.desc c h).live then s.imageReads (s.desc c h) else []
      let u := cols.foldl (fun (u : State) k =>
        if (u.gate (quadOf (bankOfCol k))).state = 3 then u else u.demandGate (quadOf (bankOfCol k))) s
      (u.reachAll cols = false → exec (.loadBegin c) s = .next u) ∧
      (u.reachAll cols = true → ∃ t image, exec (.loadBegin c) s = .next t ∧ (t.ctx c).waitLoad = none ∧ (t.ctx c).loading = some ⟨n, image⟩ ∧
        ((s.desc c h).live = false → image = []) ∧ t.boot = s.boot ∧ t.ring.timebase = s.ring.timebase))) ∧
  (∀ (c : Fin 16) (s : State), (s.ctx c).loading = none → exec (.loadComplete c) s = .next s) ∧
  (∀ (c : Fin 16) (l : Load) (s : State), (s.ctx c).loading = some l →
    let s1 := s.setCtx c { s.ctx c with loading := none }
    let stored := s1.storeHalves c l.number (l.image.take (imageLength l.image))
    ((s1.refusal c l.image).isSome = true ∨ stored = none → ∃ t, exec (.loadComplete c) s = .next t ∧
      (t.ctx c).loading = none ∧ (t.ctx c).active = (s.ctx c).active ∧ (t.ctx c).half = (s.ctx c).half ∧
      (t.ctx c).armed = (s.ctx c).armed ∧ (∀ q, (t.quad q).tt = (s.quad q).tt)) ∧
    (∀ u : State, s1.refusal c l.image = none → stored = some u → ∃ t, exec (.loadComplete c) s = .next t ∧
      (t.ctx c).loading = none ∧ (∀ q, (t.quad q).tt = (u.quad q).tt) ∧
      (if (s.ctx c).lesson = none ∧ ¬ (s.ring.period ≠ 0 ∧ s.ring.timebase % s.ring.period = 0) then
        (t.ctx c).armed = none ∧ (t.ctx c).active = !(s.ctx c).active ∧ (t.ctx c).half.seq = l.number
       else (t.ctx c).active = (s.ctx c).active ∧ (t.ctx c).half = (s.ctx c).half ∧
        ∃ h, (t.ctx c).armed = some h ∧ h.seq = l.number))) ∧
  (∀ (c : Fin 16) (s : State), ((s.ctx c).resetting = false → exec (.ctxResetComplete c) s = .next s) ∧
    ((s.ctx c).resetting = true → ∃ t, exec (.ctxResetComplete c) s = .next t ∧
    t.ctx c = Ctx.init ∧ (∀ y ∈ t.host.sessions, y.tenant ≠ some c.val) ∧
    ∃ before, t.out = (List.replicate (s.ctx c).replies [Output.msix 16, .mailbox 0 []]).flatten ++ before)) ∧
  (∀ (q : Fin 4) (s : State),
    ((s.quad q).changing = false ∨ (s.quad q).chosen = none → exec (.freqChangeComplete q) s = .next s) ∧
    (∀ p, (s.quad q).changing = true → (s.quad q).chosen = some p →
    ∃ t, exec (.freqChangeComplete q) s = .next t ∧ (t.quad q).point = p ∧ (t.quad q).changing = false ∧
      (t.quad q).chosen = none ∧ (∀ u, quadOf u = q → (t.bank u).debt = 0) ∧
      t.health.freqChanges = bump s.health.freqChanges 1))

/-- On a failed stack or in self-refresh the refresh events do nothing. Else REFRESH_DUE raises the bank's debt by 1; from 8
on the bank is relieved as well, unless a recess is about to begin. While its link is in recovery nothing else of this
happens. IDLE_REFRESH of a bank that no access is queued for, in a quadrant that issues no word, performs one operation,
notes that it may still run, and applies the delay set; of another it does nothing. NEIGHBOUR_DEADLINE with a neighbour
refresh queued relieves its bank: an idle bank performs such an operation, for another the stack steals. DELAY_SET_TIMEOUT
with a set outstanding applies it, in a steal while words issue. In a steal every bank that owes one performs an operation,
the delay set is applied, and open rows are open after it. SCRUB_COLUMN with nothing queued at the column's stack takes the
column at the head of its queue, or at its position, which steps by one, if the timetable leaves its row, and writes back a
corrected column clean but for as many bytes as the command names hard, an uncorrectable one poisoned, and nothing else.
PLOT_CLEARED of a plot or granule being cleared leaves it zero, clean and no longer listed. (10_dram_controller.md R343;
10_dram_controller.md R344; 10_dram_controller.md R345; 10_dram_controller.md R346; 10_dram_controller.md R347;
10_dram_controller.md R348; 10_dram_controller.md R358; 10_dram_controller.md R359; 10_dram_controller.md R360;
10_dram_controller.md R361; 15_security_and_startup.md R543; 16_modes_errors_recovery.md R557) -/
def Obligations.RefreshAndScrub : Prop :=
  (let steals (i : Instr) (s0 s : State) (st : Nat) : Prop := ∃ t, exec i s0 = .next t ∧
      (t.stack st).band = (s.stack st).bandWanted ∧
      (∀ u h, (t.bank u).half h = (s.bank u).half h) ∧ (∀ u, stackOf u ≠ st → t.bank u = s.bank u) ∧
      ((∀ u, stackOf u = st → (s.bank u).open0 = none ∧ (s.bank u).open1 = none) →
        t.stack st = { s.stack st with
          steals := bump (s.stack st).steals 1, band := (s.stack st).bandWanted, nextTag := (t.stack st).nextTag, retry := (t.stack st).retry } ∧
        ∀ u, stackOf u = st → t.bank u = (s.bank u).doOp) ∧
      (∀ p, t.quad p = { s.quad p with holdLen := (t.quad p).holdLen, holdCode := (t.quad p).holdCode }) ∧
      t = { s with stk := t.stk, banks := t.banks, quads := t.quads, ctxs := t.ctxs, free := t.free }
   (∀ (b : Fin 10240) (s : State),
    ((s.stack (stackOf b)).failed = true ∨ s.selfRefresh (quadOf b) = true → exec (.refreshDue b) s = .next s ∧
      exec (.idleRefresh b) s = .next s ∧ exec (.neighbourDeadline b) s = .next s) ∧
    ((s.stack (stackOf b)).recovering = true → exec (.idleRefresh b) s = .next s ∧ exec (.neighbourDeadline b) s = .next s) ∧
    ((s.stack (stackOf b)).failed = false → s.selfRefresh (quadOf b) = false →
      let s1 := s.modBank b (fun x => { x with debt := x.debt + 1 })
      ((s.bank b).debt < 8 ∨ s1.recessNext (quadOf b) = true ∨ (s.stack (stackOf b)).recovering = true →
        exec (.refreshDue b) s = .next s1) ∧
      let idle (s : State) : State := (((if (s.bank b).owes then s.linkBank b .refresh 0 else s).modBank b Bank.doOne).modQuad (quadOf b) (fun x => { x with
          refreshing := x.refreshing || (s.bank b).owes })).modStack (stackOf b)
            (fun k => { k with band := k.bandWanted })
      let free : Prop := s.issuing (quadOf b) = false ∧
        (∀ a ∈ (s.stack (stackOf b)).slateQ, bankOfCol (a.addr / 32) ≠ b.val ∧ bankOfCol ((a.addr / 32 + 1) % 2 ^ 36) ≠ b.val) ∧
        ∀ w ∈ (s.stack (stackOf b)).writes, bankOfCol w.col ≠ b.val
      ((s.stack (stackOf b)).recovering = false →
      (8 ≤ (s.bank b).debt → s1.recessNext (quadOf b) = false → (free → exec (.refreshDue b) s = .next (idle s1)) ∧
        (¬ free → steals (.refreshDue b) s s1 (stackOf b))) ∧
      (free → exec (.idleRefresh b) s = .next (idle s)) ∧
      (¬ free → exec (.idleRefresh b) s = .next s) ∧
      ((s.bank b).nbq = [] → exec (.neighbourDeadline b) s = .next s) ∧
      ((s.bank b).nbq ≠ [] → (free → exec (.neighbourDeadline b) s = .next (idle s)) ∧
        (¬ free → steals (.neighbourDeadline b) s s (stackOf b)))))) ∧
   (∀ (st : Fin 20) (s : State),
    ((s.stack st).failed = true ∨ (s.stack st).recovering = true ∨ s.selfRefresh (quadOfStack st) = true ∨ (s.stack st).band = (s.stack st).bandWanted →
      exec (.delaySetTimeout st) s = .next s) ∧
    ((s.stack st).failed = false → (s.stack st).recovering = false → s.selfRefresh (quadOfStack st) = false → (s.stack st).band ≠ (s.stack st).bandWanted →
      (s.issuing (quadOfStack st) = true → steals (.delaySetTimeout st) s s st) ∧
      (s.issuing (quadOfStack st) = false → exec (.delaySetTimeout st) s =
        .next (s.modStack st (fun k => { k with band := k.bandWanted })))))) ∧
  (∀ (st : Fin 20) (hard : Nat) (s : State),
    let k := s.stack st
    let col := k.scrubHead.head?.getD (st.val * 2 ^ 31 + k.scrubPos)
    (k.failed = true ∨ s.reachAll [col] = false → exec (.scrubColumn st hard) s = .next s) ∧
    (k.failed = false → s.reachAll [col] = true → (s.stack (stackOf (bankOfCol col))).failed = false →
      (s.stack (stackOf (bankOfCol col))).writes = [] → (s.stack (stackOf (bankOfCol col))).slateQ = [] → (s.quad (quadOf (bankOfCol col))).masked = [] →
      ∃ t, exec (.scrubColumn st hard) s = .next t ∧ (t.stack st).scrubHead = k.scrubHead.tail ∧
        (t.stack st).scrubPos = (if k.scrubHead ≠ [] then k.scrubPos else if k.scrubPos + 1 < 2 ^ 31 then k.scrubPos + 1 else 0) ∧
        (match s.mem.decode col with
          | (.corrected _, d) => if hard = 0 then t.mem = s.mem.store col d false
            else (∀ c, c ≠ col → t.mem.raw c = s.mem.raw c) ∧ ∃ stay : List Nat, stay.length ≤ hard ∧ ∀ i, i < 36 →
              (t.mem.raw col).getD i 0 = if i ∈ stay then (s.mem.raw col).getD i 0 else (d ++ rsCheck d).getD i 0
          | (.uncorrectable, d) => t.mem = s.mem.store col d true
          | _ => t.mem = s.mem) ∧
        (∀ q, (t.quad q).dues = (s.quad q).dues))) ∧
  (∀ (p : Nat) (s : State), (p ∉ s.health.clearing → exec (.plotCleared false p) s = .next s) ∧
    (p ∈ s.health.clearing → ∃ t, exec (.plotCleared false p) s = .next t ∧
      (∀ c, t.mem.raw c = if plotOfCol c = p then List.replicate 36 0 else s.mem.raw c) ∧
      t = { s with mem := t.mem, health := { s.health with clearing := s.health.clearing.erase p } })) ∧
  (∀ (g : Nat) (s : State), (g ∉ s.health.clearingG → exec (.plotCleared true g) s = .next s) ∧
    (g ∈ s.health.clearingG → ∃ t, exec (.plotCleared true g) s = .next t ∧
      (∀ a, tget 0 (t.quad (g / 768)).staging a =
        if a / 65536 = g % 768 then 0 else tget 0 (s.quad (g / 768)).staging a) ∧
      (∀ l, t.stageMark (g / 768) l = if l / 2048 = g % 768 then false else s.stageMark (g / 768) l) ∧
      (∀ q, q ≠ g / 768 → t.quad q = s.quad q) ∧
      t = { s with quads := t.quads, health := { s.health with clearingG := s.health.clearingG.erase g } }))

/-- A die takes a command exactly when its tag equals NEXT and its parity is good; the replay of a retry buffer of
consecutive tags brings a die that stands at one of them back in step. On a stack that is neither failed nor recovering
LINK_ALERT counts one replay; with three replays of the same command failed before and this one the same, or 15 alerts in
the last 10 us before it, a recovery starts: the stack is RECOVERING, recoveries are counted, the fenced period is entered
and one entry logged; otherwise the buffer is replayed. STACK_LINK_RECOVERY_DONE on a recovering stack: a good end clears
it, replays, applies the delay set, ends the fenced period, and lets what waited for the link go on; a first or second bad
one in a row begins another recovery; the third marks the stack failed, with no refresh owed in it. With nothing waiting, no
memory, bank or unit else changes. Otherwise both do nothing. (10_dram_controller.md R351; 10_dram_controller.md R352;
10_dram_controller.md R353; 10_dram_controller.md R354; 10_dram_controller.md R358; 16_modes_errors_recovery.md R552;
16_modes_errors_recovery.md R556; 16_modes_errors_recovery.md R557) -/
def Obligations.StackLinksRecover : Prop :=
  (∀ (next tag : BitVec 6) (good : Bool),
    dieTakes next tag good = if tag = next ∧ good = true then (next + 1, true) else (next, false)) ∧
  (∀ (k : Stack) (d n m : Nat), n ≤ 63 → m ≤ n → 1 ≤ m →
    k.retry.map (fun r => r.tag) = (List.range n).map (fun i => k.nextTag - BitVec.ofNat 6 (n - i)) →
    tget none k.behind d = some (k.nextTag - BitVec.ofNat 6 m) → k.replayed d = k.nextTag) ∧
  (∀ (st : Fin 20) (die : Fin 17) (tag : BitVec 6) (same : Bool) (s : State),
    let k := s.stack st
    let k1 := k.parityError die tag
    let recent := k.alerts.filter (fun x => decide (s.ring.timebase < x + 10000)) ++ [s.ring.timebase]
    let fails := if same then k.sameFails + 1 else 0
    (k.failed = true ∨ k.recovering = true → exec (.linkAlert ⟨st, die⟩ ⟨tag, same⟩) s = .next s) ∧
    (k.failed = false → k.recovering = false → ∃ t, exec (.linkAlert ⟨st, die⟩ ⟨tag, same⟩) s = .next t ∧
      (fails < 4 → recent.length < 16 →
        t.stack st = { k1 with replays := bump k.replays 1, sameFails := fails, alerts := recent }.replay ∧
        t = { s with stk := t.stk, quads := t.quads, free := t.free }) ∧
      (4 ≤ fails ∨ 16 ≤ recent.length →
        t.stack st = { k1 with replays := bump k.replays 1, recovering := true, recoveries := bump k.recoveries 1
                               sameFails := 0, alerts := [] } ∧
        recLink st ∈ t.sync.recoveries ∧ t.mgmt.logCount = bump s.mgmt.logCount 1 ∧
        t = { s with stk := t.stk, quads := t.quads, sync := { s.sync with recoveries := t.sync.recoveries }, mgmt := t.mgmt
                     free := t.free }) ∧
      (∀ p, t.quad p = { s.quad p with holdLen := (t.quad p).holdLen, holdCode := (t.quad p).holdCode }) ∧
      (∀ i, i ≠ st.val → t.stack i = s.stack i))) ∧
  (∀ (st : Fin 20) (ok : Bool) (s : State), (s.stack st).recovering = false →
    exec (.stackLinkRecoveryDone st ok) s = .next s) ∧
  (∀ (st : Fin 20) (s : State), (s.stack st).recovering = true →
    let held (t : State) : Prop := ∀ p, t.quad p = { s.quad p with holdLen := (t.quad p).holdLen, holdCode := (t.quad p).holdCode }
    let up (t : State) : Prop :=
      t.stack st = { (s.stack st).replay with recovering := false, recFails := 0, band := (s.stack st).bandWanted } ∧
      (∀ i, i ≠ st.val → t.stack i = s.stack i) ∧ held t ∧
      t = { s with stk := t.stk, quads := t.quads, free := t.free, sync := { s.sync with recoveries := s.sync.recoveries.erase (20 + st) } }
    let alone : Prop := (∀ i, i < 5 → (s.stack (5 * quadOfStack st + i)).slateQ = []) ∧ s.host.inFlight = [] ∧
      s.ring.kvWait = [] ∧ ∀ r ∈ s.ring.requests, r.answered = none
    (∃ u, exec (.stackLinkRecoveryDone st true) s = .next (u.linkBack st) ∧ up u) ∧
    (alone → (∀ p ∈ s.banks, stackOf p.1 = st → p.2.debt ≤ 8 ∧ ∀ n ∈ p.2.nbq, s.ring.timebase < n.deadline) →
      ∃ t, exec (.stackLinkRecoveryDone st true) s = .next t ∧ up t) ∧
    ((s.stack st).recFails < 2 → ∃ t, exec (.stackLinkRecoveryDone st false) s = .next t ∧
      (t.stack st).recovering = true ∧ (t.stack st).recFails = (s.stack st).recFails + 1 ∧
      (t.stack st).recoveries = bump (s.stack st).recoveries 1 ∧ (t.stack st).failed = (s.stack st).failed ∧
      held t ∧
      t = { s with stk := t.stk, quads := t.quads, free := t.free, sync := t.sync, mgmt := t.mgmt }) ∧
    (2 ≤ (s.stack st).recFails → alone → ∃ t, exec (.stackLinkRecoveryDone st false) s = .next t ∧
      (t.stack st).failed = true ∧ (t.stack st).recovering = false ∧ (t.stack st).writes = [] ∧
      (∀ u, stackOf u = st → (t.bank u).debt = 0 ∧ (t.bank u).nbq = []) ∧ t.mem = s.mem ∧ t.units = s.units ∧
      t.mgmt.logCount = bump s.mgmt.logCount 1))

/-- A share that is not of this operation, does not hold its entries (or the transpose buffer), or whose columns the
timetable does not leave to it now, waits: nothing changes. Otherwise it has then written its destination and counts the
remote requests it has outstanding; clocks, power, temperatures, boot and security stay. In the ring, each byte from another
module has its place in a read request, and each byte for another module a write request. Where all bytes are local and each
destination is named once, with nothing queued or in flight at any column and no destination stack failed: each destination
byte, in a bank column or a staging line, holds its source byte (column, line or constant) as it was before the command;
every other byte of those memories stays; and a column or line is poisoned afterwards if a source of it was, else not if it
is written whole, else as before. (06_tensors.md R229; 06_tensors.md R230; 07_exchange_network.md R235;
07_exchange_network.md R237; 07_exchange_network.md R240; 07_exchange_network.md R241; 07_exchange_network.md R242;
07_exchange_network.md R243; 07_exchange_network.md R247; 07_exchange_network.md R254; 07_exchange_network.md R257;
10_dram_controller.md R337) -/
def Obligations.CopiesMoveTheirBytes : Prop :=
  ∀ (q : Fin 4) (id : Nat) (s : State),
    let moved (i : Instr) (op : Nat) : Prop :=
      ((∀ h, s.share 0 q id = some h → s.ready q op h = false ∨ s.reachAll (moveCols (s.moves q h).1) = false) →
        exec i s = .next s) ∧
      (∀ h, s.share 0 q id = some h → s.ready q op h = true → s.reachAll (moveCols (s.moves q h).1) = true →
        ∃ t, exec i s = .next t ∧
        (∃ h', t.share 0 q id = some h' ∧ h'.phase = 3 ∧ h'.record = h.record ∧
          h'.remote = (t.ring.requests.filter (fun x => x.quad = q.val ∧ x.share = id)).length) ∧
        t.boot = s.boot ∧ t.clk = s.clk ∧ t.pow = s.pow ∧ t.therm = s.therm ∧ t.cfgs = s.cfgs ∧ t.sec = s.sec ∧
        (let ms := (s.moves q h).1
         let val (u : State) (l : Loc) : Byte :=
           if l.kind = 0 then byteAt (u.column l.key).data l.byte
           else if l.kind = 1 then tget 0 (u.quad q).staging (32 * l.key + l.byte) else BitVec.ofNat 8 l.byte
         let bad (u : State) (l : Loc) : Bool :=
           if l.kind = 0 then (u.column l.key).poison else if l.kind = 1 then u.stageMark q l.key else false
         (ms.map (·.dst)).Nodup →
         (s.outOfRing = false →
           (∀ m ∈ ms, m.src.kind = 2 → ∃ r ∈ t.ring.requests, r.quad = q.val ∧ r.share = id ∧ r.write = false ∧
             r.module = remoteModule m.src.key ∧ r.index = remoteIndex m.src.key ∧ r.column = remoteColumn m.src.key ∧
             ∃ p, (m.src.byte, p) ∈ r.moves) ∧
           (∀ m ∈ ms, m.dst.kind = 2 → ∃ r ∈ t.ring.requests, r.quad = q.val ∧ r.share = id ∧ r.write = true ∧
             r.module = remoteModule m.dst.key ∧ r.index = remoteIndex m.dst.key ∧ r.column = remoteColumn m.dst.key)) ∧
         ((∀ p, (s.quad p).masked = []) → (∀ k, (s.stack k).writes = [] ∧ (s.stack k).slateQ = []) →
          (∀ m ∈ ms, m.dst.kind ≤ 1 ∧ m.dst.byte < 32 ∧ (m.src.kind ≤ 1 ∧ m.src.byte < 32 ∨ m.src.kind = 3)) →
          (∀ m ∈ ms, m.dst.kind = 0 → (s.stack (stackOf (bankOfCol m.dst.key))).failed = false) →
          (∀ m ∈ ms, val t m.dst = val s m.src) ∧
          (∀ l : Loc, l.kind ≤ 1 → l.byte < 32 → l ∉ ms.map (·.dst) → val t l = val s l) ∧
          (∀ l : Loc, l.kind ≤ 1 →
            let here := ms.filter (fun m => decide (m.dst.kind = l.kind ∧ m.dst.key = l.key))
            bad t l = (here.any (fun m => bad s m.src) || (decide (here.length ≠ 32) && bad s l))))))
    moved (.copy q id) 1 ∧ moved (.gather q id) 2 ∧ moved (.scatter q id) 3

/-- COPY_SHARE_END of a share that has written its destination with no remote part outstanding, and MERGE_SHARE_END of one
that has written its: the share is gone from its engine, no entry of any quadrant is held by it, and with its pennant
enabled and bound in this module (no other hoist waiting) the pennant has risen by its amount; module memory stays. Any
other share, or none: nothing changes. TRANSPOSE_BUFFER_GRANT with the buffer free and fewer than 8 shares moving data gives
it to the first transposing share that holds its entries, and else changes nothing. SCOREBOARD_GRANT gives the first
grantable request its entry: a waiting word is released, and nothing else changes; a share asks on. With none grantable the
first remote access that may go on is served, or else the first answer whose columns can be reached is given, or else
nothing changes. (05_sequencer.md R185; 05_sequencer.md R187; 07_exchange_network.md R237; 07_exchange_network.md R238;
07_exchange_network.md R239; 07_exchange_network.md R247; 07_exchange_network.md R254; 08_attention_and_merge.md R265;
08_attention_and_merge.md R288) -/
def Obligations.SharesEndAndGrants : Prop :=
  (∀ (q : Fin 4) (id : Nat) (s : State),
    let ended (engine : Nat) (h : Share) (hoists : Bool) (t : State) : Prop := t.share engine q id = none ∧
      (∀ p, p < 4 → ∀ e ∈ (t.quad p).sb, ∀ k ∈ e.2.holders, k.1 ≠ some (shareKey engine q id)) ∧ t.mem = s.mem ∧
      (hoists = true → h.binding.kind = 1 → (∀ p, (s.quad p).hoists = []) →
        t.pen h.binding.phys.toNat = (s.pen h.binding.phys.toNat).hoisted h.amt)
    (∀ h, s.share 0 q id = some h → h.phase = 3 → h.remote = 0 →
      ∃ t, exec (.copyShareEnd q id) s = .next t ∧ ended 0 h h.penEn0 t ∧ (t.quad q).tbuf ≠ some id) ∧
    ((∀ h, s.share 0 q id = some h → h.phase ≠ 3 ∨ h.remote ≠ 0) → exec (.copyShareEnd q id) s = .next s) ∧
    (∀ h, s.share 1 q id = some h → h.phase = 3 → ∃ t, exec (.mergeShareEnd q id) s = .next t ∧ ended 1 h h.penEn1 t) ∧
    ((∀ h, s.share 1 q id = some h → h.phase ≠ 3) → exec (.mergeShareEnd q id) s = .next s)) ∧
  (∀ (q : Fin 4) (s : State),
    let first := (s.quad q).xq.find? (fun h => h.phase = 2 ∧ h.transpose = true)
    (∀ h, first = some h → (s.quad q).tbuf = none → (s.quad q).busy 0 < 8 →
      exec (.transposeBufferGrant q) s = .next (s.modQuad q (fun x => { x with tbuf := some h.id }))) ∧
    (first = none ∨ (s.quad q).tbuf ≠ none ∨ 8 ≤ (s.quad q).busy 0 → exec (.transposeBufferGrant q) s = .next s)) ∧
  (∀ (q : Fin 4) (s : State),
    let x := s.quad q
    (∀ r, s.grantable q [] x.sbWait = some r → ∃ t, exec (.scoreboardGrant q) s = .next t ∧
      (r.share, r.write) ∈ ((t.quad q).entry r.entry).holders ∧ ((t.quad q).entry r.entry).st = 2 ∧
      t = { s with quads := t.quads, sync := { s.sync with arrivals := t.sync.arrivals } } ∧
      (r.share = none → t = { s with quads := t.quads } ∧ (∀ p, p ≠ q.val → t.quad p = s.quad p) ∧
        t.quad q = { x with sbWait := x.sbWait.erase r, sb := (t.quad q).sb, slots := (t.quad q).slots } ∧
        (∀ e, (t.quad q).entry e = if e = r.entry then (x.entry e).hold (none, r.write) else x.entry e) ∧
        ∀ i, t.slot q i = if i = r.slot then (s.slot q i).release false else s.slot q i)) ∧
    (s.grantable q [] x.sbWait = none →
      ((∀ w ∈ s.ring.kvWait, s.kvReady w = false) →
        ((∀ r ∈ s.ring.requests, s.answerReady r = false) → exec (.scoreboardGrant q) s = .next s) ∧
        (∀ r a, s.ring.requests.find? s.answerReady = some r → r.answered = some a →
          exec (.scoreboardGrant q) s = .next (s.giveAnswer r a))) ∧
      (∀ w, s.ring.kvWait.find? s.kvReady = some w → exec (.scoreboardGrant q) s =
        .next (({ s with ring := { s.ring with kvWait := s.ring.kvWait.erase w } } : State).kvServe w))))

/-- A share of another operation, or that does not hold its entries, is left alone. MERGE of a stream first takes the issues
the engine holds for it. A stream combined in one module writes, record by record, the rows whose contributions have all
arrived, and has written its destination with the last. Other MERGEs and TOPK wait while a share of their scope is not
supplied; then the combined rows, or the selected pairs or labels in rank order with short selections filled, are written to
the destination's instance in the quadrant. With SCOPE 2 they first go to the roll call: through an unbound or dead handle
the own result is the result, poisoned; an arrival off a bell leaves the share ringing; a known result is written. ROUTE
writes the distinct experts of all tokens, rising, then filler, and with WEIGHTS each token's gate weights, +0 for the
others. SAMPLE writes one label for each sequence from the launch's draws, which are kept. A line is marked poisoned by the
rule of each operation. A share that has written is at phase 3. Module memory, units, banks and registers stay.
(08_attention_and_merge.md R260; 08_attention_and_merge.md R263; 08_attention_and_merge.md R268; 08_attention_and_merge.md
R271; 08_attention_and_merge.md R272; 08_attention_and_merge.md R274; 08_attention_and_merge.md R275;
08_attention_and_merge.md R279; 08_attention_and_merge.md R282; 08_attention_and_merge.md R284; 08_attention_and_merge.md
R286; 08_attention_and_merge.md R289) -/
def Obligations.MergeEngineWritesItsResult : Prop :=
  ∀ (q : Fin 4) (id : Nat) (s : State),
    let body (i : Instr) (op : Nat) (runs : Share → Prop) : Prop :=
      ((∀ h, s.share 1 q id = some h → h.op ≠ op ∨ h.phase ≠ 2) → exec i s = .next s) ∧
      (∀ h, s.share 1 q id = some h → h.op = op → h.phase = 2 → runs h)
    let wrote (u : State) (i : Instr) (h : Share) (v : State) : Prop := ∃ t, exec i s = .next t ∧
      (t.quad q).staging = (v.quad q).staging ∧ (t.quad q).stagePoison = (v.quad q).stagePoison ∧
      (∃ h', t.share 1 q id = some h' ∧ h'.phase = 3 ∧ h'.record = h.record) ∧
      t = { u with quads := t.quads, ctxs := t.ctxs, free := t.free }
    let filled (u : State) (d : Desc) (ps : List (Nat × Word32 × Bool)) (bad : Bool) : State :=
      let v := u.writePositions q d ps
      if bad then v.poisonTensor q d else v
    let ringed (u : State) (i : Instr) (h : Share) (handle : Nat) (rows : List MergeRow) : Prop :=
      let e := u.rollHandle h.ctx handle
      let r := u.rollCall e.num.toNat
      let known (res : List MergeRow) (ringing : Bool) (t : State) : Prop := exec i s = .next t ∧
        ∃ h', t.share 1 q id = some h' ∧ h'.result = some res ∧ h'.ringing = ringing ∧ h'.phase = 2
      (e.bound = false ∨ e.dead = true → ∃ t, known (poisonRows rows) false t ∧ t = { u with quads := t.quads, free := t.free }) ∧
      (e.bound = true → e.dead = false → r.st = 1 → (r.ring = false ∨ (u.outOfRing = false ∧ u.ring.state ≠ 1)) →
        u.onBell = false → ∀ n, (r.arrive 17 u.ring.timebase).2 = .recorded n → ∃ t, known rows true t ∧
          t.ring.merges = u.ring.merges ++ [⟨e.num.toNat, n, r.rid, if r.ring then r.ringMask else 0, h.ctx, h.nth, rows, false, false, none, []⟩] ∧
          t = { u with quads := t.quads, free := t.free, sync := t.sync, ring := t.ring, out := t.out })
    let placed (h : Share) (rows : List MergeRow) : List (Nat × Word32 × Bool) := (rows.flatMap (finishRow h.arg)).flatMap
      (fun r => r.words.zipIdx.map (fun w => (h.lanes * r.index + w.2, w.1, r.poison)))
    body (.merge q id) 1 (fun h0 =>
      let u := s.takeIssues q h0
      (h0.stream = false → u = s) ∧
      (h0.stream = true →
        let mine (o : OutIssue) : Bool := o.ctx == h0.ctx && o.tag == h0.tag && decide (h0.firstIssue ≤ o.number) &&
          decide (o.number < h0.firstIssue + Marg.count h0.arg)
        (u.quad q).outs = (s.quad q).outs.filter (fun o => !mine o) ∧
        u.share 1 q id = some { h0 with taken := h0.taken ++ (s.quad q).outs.filter mine } ∧ u = { s with quads := u.quads }) ∧
      (∀ h, u.share 1 q id = some h →
        let d := u.desc h.ctx h.dst
        (h.stream = true → h.scope ≠ 2 → (∀ g, u.crew q h = some g → (q.val, h) ∈ g) →
          let g := (u.crew q h).getD []
          let n := if u.crew q h = none then 0 else g.foldl (fun n x => min n x.2.records) h.records
          let all := h.result.getD [] ++ (if n ≤ h.combined then [] else u.combineShares h g true h.combined n)
          ∃ t, exec (.merge q id) s = .next t ∧
            (let v := u.writePositions q d (placed h (all.drop h.wrote))
             (t.quad q).staging = (v.quad q).staging ∧ (t.quad q).stagePoison = (v.quad q).stagePoison) ∧
            (∃ h', t.share 1 q id = some h' ∧ h'.record = h.record ∧ h'.wrote = all.length ∧ h'.combined = max h.combined n ∧
              h'.phase = if max h.combined n * Marg.rows h.arg ≥ Marg.count h.arg then 3 else 2) ∧
            t = { u with quads := t.quads, ctxs := t.ctxs, free := t.free }) ∧
        (h.stream = false ∨ h.scope = 2 →
          (∀ rows, h.result = some rows → h.ringing = true → exec (.merge q id) s = .next u) ∧
          (∀ rows, h.result = some rows → h.ringing = false →
            wrote u (.merge q id) h (filled u d (placed h rows) false)) ∧
          (h.result = none → u.team q h = none → exec (.merge q id) s = .next u) ∧
          (∀ g, h.result = none → u.team q h = some g → (q.val, h) ∈ g →
            let rows := u.combineShares h g (u.beginsFold h (Marg.roll h.arg)) 0 (Marg.count h.arg / Marg.rows h.arg)
            (h.scope ≠ 2 → wrote u (.merge q id) h (filled u d (placed h rows) false)) ∧
            (h.scope = 2 → ringed u (.merge q id) h (Marg.roll h.arg) rows))))) ∧
    body (.topk q id) 2 (fun h =>
      let d := s.desc h.ctx h.dst
      let k := Targ.k h.arg
      let place (rows : List MergeRow) : State :=
        let bad := rows.any (·.poison)
        filled s d (rows.flatMap (fun r =>
          let cs := wordPairs r.words
          let full := cs ++ List.replicate (k - cs.length) (0xFFFFFFFF#32, 0xFF800000#32)
          if Targ.pairs h.arg then (pairWords full).zipIdx.map (fun w => (r.index * d.size 0 + w.2, w.1, bad))
          else full.zipIdx.map (fun w => (r.index * k + w.2, w.1.1, bad)))) bad
      (∀ rows, h.result = some rows → h.ringing = true → exec (.topk q id) s = .next s) ∧
      (∀ rows, h.result = some rows → h.ringing = false → wrote s (.topk q id) h (place rows)) ∧
      (h.result = none → s.team q h = none → exec (.topk q id) s = .next s) ∧
      (∀ g, h.result = none → s.team q h = some g → (q.val, h) ∈ g →
        (h.scope ≠ 2 → wrote s (.topk q id) h (place (s.selectAll g h))) ∧
        (h.scope = 2 → ringed s (.topk q id) h (Targ.roll h.arg) (s.selectAll g h)))) ∧
    body (.route q id) 4 (fun h =>
      let src := s.desc h.ctx h.src
      let d := s.desc h.ctx h.dst
      let w := s.desc h.ctx h.aux
      let read := (List.range (src.size 0 * src.selections)).map (fun p => s.readPos q src p)
      let bad := read.any (·.2)
      let toks := (chunks (src.size 0) src.selections (read.map (fun v => if v.2 then canonNan else v.1))).zipIdx.map
        (fun x => routeToken (s.free + 2 ^ 20 * x.2) (h.arg % 16) (h.arg.testBit 4) x.1)
      let experts := sortBy (fun x y => decide (x ≤ y)) ((toks.flatMap (fun t => t.map (·.1))).eraseDups)
      let list := experts.map (fun e => BitVec.ofNat 32 e) ++ List.replicate (d.positions - experts.length) 0xFFFFFFFF#32
      let v := filled s d (list.zipIdx.map (fun x => (x.2, x.1, bad))) bad
      wrote s (.route q id) h (if h.aux = 0xFFF then v else
        filled v w (toks.zipIdx.flatMap (fun t => list.zipIdx.map (fun e =>
          (e.2 * w.size 0 + t.2, ((t.1.find? (fun x => decide (x.1 = e.1.toNat))).map (·.2)).getD 0, bad)))) bad)) ∧
    body (.sample q id) 3 (fun h =>
      let src := s.desc h.ctx h.src
      let d := s.desc h.ctx h.dst
      let read := (List.range (src.size 0 * src.selections)).map (fun p => s.readPos q src p)
      let bad := read.any (·.2)
      let draws := s.draws h src.selections
      wrote s (.sample q id) h (filled s d ((chunks (src.size 0) src.selections (read.map (·.1))).zipIdx.map (fun x =>
        (x.2, sampleOne h.arg ((wordPairs x.1).zipIdx.map (fun c =>
          if (read.getD (x.2 * src.size 0 + 2 * c.2 + 1) (0, false)).2 then (c.1.1, canonNan) else c.1))
          (draws.getD x.2 0), bad))) bad) ∧
      ∃ t, exec (.sample q id) s = .next t ∧ tget [] (t.ctx h.ctx).draws h.nth = draws)

/-- For a frame that acts in this module; its hop comes first. Out of the ring, or with more than 7 columns, the access has
no effect. With no descriptor of its RING_TID a write is acknowledged without effect and a read is answered as absent. Else
an access whose boxes conflict with a hold or an earlier request, or whose rows cannot be reached now, waits with its boxes,
its gates opening. One that may go on, with nothing queued or in flight at the columns and no stack of them failed: KV_WRITE
stores each column in its places (banks, or the line of every quadrant of the span), a pad's but for the tensor's data
bytes, poisoned if the frame says so, leaves every other column and staging byte, and sends KV_ACK; KV_READ changes no byte
and sends KV_DATA with the columns and whether one is poisoned, or as absent if a place is. KV_DATA for a read whose columns
cannot be reached is kept with it; else its bytes go to the staging lines or bank columns that wait for them; it, and KV_ACK
that answers a write with nothing missing, remove the request and lower the share's outstanding parts by 1; without a
request nothing changes. (05_sequencer.md R184; 05_sequencer.md R185; 06_tensors.md R224; 06_tensors.md R230;
07_exchange_network.md R254; 10_dram_controller.md R337; 12_peer_ring.md R419; 12_peer_ring.md R423; 12_peer_ring.md R447;
16_modes_errors_recovery.md R553; 07_exchange_network.md R585) -/
def Obligations.RemoteColumnsAreServed : Prop :=
  ∀ (h : FrameHead) (tid : BitVec 16) (index column : Nat) (s : State),
    let idle (u : State) : Prop := (∀ p, (u.quad p).masked = []) ∧ ∀ k, (u.stack k).writes = [] ∧ (u.stack k).slateQ = []
    (∀ (i : Instr) (cols : Option (List Line)) (n : Nat) (poison : Bool),
      (i = .kvWrite h tid index column (cols.getD []) poison ∧ cols.isSome = true ∧ n = (cols.getD []).length ∨
        i = .kvRead h tid index column n ∧ cols = none ∧ poison = false) →
      let b : FrameBody := match cols with
        | some cs => .kvWrite tid.toNat index column cs poison
        | none => .kvRead tid.toNat index column n
      let answer (v : State) (data : Option (List Line)) (bad : Bool) : State := v.sendTo h.src.toNat
        (if cols.isSome then .kvAck tid.toNat index column else .kvData tid.toNat index column data bad)
      let u0 := s.reached h b
      let counted (v : State) : State := { v with sync := { v.sync with arrivals := v.sync.arrivals + 1 } }
      s.actsHere h b →
      (u0.outOfRing = true ∨ 7 < n → exec i s = .next u0) ∧
      (u0.outOfRing = false → n ≤ 7 → u0.tidDesc tid.toNat = none → exec i s = .next (answer (counted u0) none false)) ∧
      (∀ (c : Nat) (d : Desc), u0.outOfRing = false → n ≤ 7 → u0.tidDesc tid.toNat = some (c, d) →
        let ps := (List.range n).map (fun j => u0.kvPlaces c d index (column + j) cols.isSome)
        let ls := ps.flatMap (fun p => p.getD [])
        let u := counted (ls.foldl (fun (v : State) x => if x.2.kind = 0 then v.demandGate x.1 else v) u0)
        let w : KvWait := ⟨h.src.toNat, tid.toNat, index, column, n, cols, poison, ls.map (fun x => (x.1, x.2.box)), u0.sync.arrivals⟩
        let at_ (v : State) (x : Nat × Loc) : Line × Bool := if x.2.kind = 1 then
            (BitVec.ofNat 256 (leNat (v.stageBytes x.1 (32 * x.2.key) 32)), v.stageMark x.1 x.2.key)
          else ((v.column x.2.key).data, (v.column x.2.key).poison)
        let first (p : Option (List (Nat × Loc))) : Line × Bool := match p.getD [] with
          | [] => (0, false)
          | x :: _ => at_ u0 x
        (u.kvReady w = false → exec i s = .next { u with ring := { u.ring with kvWait := u.ring.kvWait ++ [w] } }) ∧
        (u.kvReady w = true → idle u0 → (∀ x ∈ ls, x.2.kind ≠ 1 → (u0.stack (stackOf (bankOfCol x.2.key))).failed = false) →
          (ls.map (fun x => (x.1, x.2.kind, x.2.key))).Nodup → (∀ x ∈ ls, x.2.kind ≤ 1) →
          ∃ v bad, exec i s = .next (answer v (if none ∈ ps then none else some (ps.map (fun p => (first p).1))) bad) ∧
            (bad = true ↔ none ∉ ps ∧ ∃ p ∈ ps, (first p).2 = true) ∧
            (cols = none → v.mem = u0.mem ∧ ∀ p, (v.quad p).staging = (u0.quad p).staging ∧ (v.quad p).stagePoison = (u0.quad p).stagePoison) ∧
            v.boot = u.boot ∧ v.clk = u.clk ∧ v.pow = u.pow ∧ v.therm = u.therm ∧ v.cfgs = u.cfgs ∧ v.sec = u.sec ∧
            (∀ cs, cols = some cs →
              (∀ j l, ps.getD j none = some l → ∀ x ∈ l,
                let kept (i : Nat) : Bool := decide (d.dataCols ≤ column + j) && d.localByte x.2 i
                (∀ i, i < 32 → byteAt (at_ v x).1 i = if kept i then byteAt (at_ u0 x).1 i else byteAt (cs.getD j 0) i) ∧
                (at_ v x).2 = (((List.range 32).any (fun i => !kept i) && poison) ||
                  ((List.range 32).any kept && (at_ u0 x).2))) ∧
              (∀ k, (∀ x ∈ ls, x.2.kind = 0 → x.2.key ≠ k) → v.mem.raw k = u0.mem.raw k) ∧
              (∀ p a, (∀ x ∈ ls, x.2.kind = 1 → x.1 = p → x.2.key ≠ a / 32) →
                tget 0 (v.quad p).staging a = tget 0 (u0.quad p).staging a))))) ∧
    (∀ (cols : Option (List Line)) (poison : Bool),
      let u := s.reached h (.kvData tid.toNat index column cols poison)
      let mine (r : RemoteReq) : Bool :=
        !r.write && r.answered.isNone && r.module == h.src.toNat && r.tid == tid.toNat && r.index == index && r.column == column
      s.actsHere h (.kvData tid.toNat index column cols poison) →
      (u.ring.requests.find? mine = none → exec (.kvData h tid index column cols poison) s = .next u) ∧
      (∀ r : RemoteReq, u.ring.requests.find? mine = some r →
        let data := match cols with
          | some (l :: _) => l
          | _ => r.pad
        let ended (t : State) (y : Share) : Prop :=
          t.ring = { u.ring with requests := u.ring.requests.filter (fun x => decide (x.num ≠ r.num)) } ∧
          ∃ y', t.share 0 r.quad r.share = some y' ∧ y'.remote = y.remote - 1
        (u.reachAll r.cols = false → exec (.kvData h tid index column cols poison) s = .next
          { u with ring := { u.ring with requests := u.ring.requests.map (fun x =>
            if x.num = r.num then { x with answered := some (data, poison && cols.isSome) } else x) } }) ∧
        (∀ y : Share, u.reachAll r.cols = true → u.share 0 r.quad r.share = some y → (r.moves.map (·.2)).Nodup →
          ((∀ m ∈ r.moves, m.2.kind = 1 ∧ m.2.byte < 32) →
            ∃ t, exec (.kvData h tid index column cols poison) s = .next t ∧ ended t y ∧
            (∀ m ∈ r.moves, tget 0 (t.quad r.quad).staging (32 * m.2.key + m.2.byte) = byteAt data m.1) ∧
            (∀ a, (∀ m ∈ r.moves, 32 * m.2.key + m.2.byte ≠ a) →
              tget 0 (t.quad r.quad).staging a = tget 0 (u.quad r.quad).staging a) ∧
            t = { u with quads := t.quads, ring := t.ring }) ∧
          (idle u → (∀ m ∈ r.moves, m.2.kind = 0 ∧ m.2.byte < 32 ∧ (u.stack (stackOf (bankOfCol m.2.key))).failed = false) →
            ∃ t, exec (.kvData h tid index column cols poison) s = .next t ∧ ended t y ∧
            (∀ m ∈ r.moves, byteAt (t.column m.2.key).data m.2.byte = byteAt data m.1) ∧
            (∀ k i, i < 32 → (∀ m ∈ r.moves, m.2.key ≠ k ∨ m.2.byte ≠ i) →
              byteAt (t.column k).data i = byteAt (u.column k).data i))))) ∧
    (let u := s.reached h (.kvAck tid.toNat index column)
     let mine (r : RemoteReq) : Bool :=
       r.write && r.need == 0 && r.module == h.src.toNat && r.tid == tid.toNat && r.index == index && r.column == column
     s.actsHere h (.kvAck tid.toNat index column) →
     (u.ring.requests.find? mine = none → exec (.kvAck h tid index column) s = .next u) ∧
     (∀ (r : RemoteReq) (y : Share), u.ring.requests.find? mine = some r → u.share 0 r.quad r.share = some y →
       ∃ t, exec (.kvAck h tid index column) s = .next t ∧
         t.ring = { u.ring with requests := u.ring.requests.filter (fun x => decide (x.num ≠ r.num)) } ∧
         (∃ y', t.share 0 r.quad r.share = some y' ∧ y'.remote = y.remote - 1) ∧ t = { u with quads := t.quads, ring := t.ring }))

/-- While 512 accesses are deferred or one is stalled, any access is stalled, as it came. Else one to the line at an offset
of a valid pane (by its offset or by its DPA) whose address exists and passes its check, or at a full-map address while
FULL_MAP is 1, goes to its two columns. With a column in a deferring entry it is deferred with its lessons, from now on.
Otherwise a read behind earlier writes waits for them; one whose rows cannot be reached now joins its stack's queue; and
with no write queued at its columns any other is served: a read is answered with the two columns' bytes (poisoned if either
is), memory unchanged; a write stores in each column the bytes enabled, the others kept, poisoned if the data or a column
kept in part is, and nothing else, and is answered. SLATE_HOLD, its quadrant not in self-refresh and its link not in
recovery, answers the accesses queued at its stack that no entry defers, one row for each bank, defers those that one defers
while it holds fewer than 512, leaves the rest, and is counted; else only reads whose earlier writes are done go on.
PANE_WRITE sets an allowed entry and ignores another. (05_sequencer.md R189; 06_tensors.md R193; 10_dram_controller.md R337;
10_dram_controller.md R340; 10_dram_controller.md R342; 11_host_coupling.md R365; 11_host_coupling.md R367;
11_host_coupling.md R370; 11_host_coupling.md R371; 11_host_coupling.md R373; 11_host_coupling.md R375; 11_host_coupling.md
R379) -/
def Obligations.SlateAccessesAreServed : Prop :=
  (∀ (tag dpa addr : Nat) (s : State),
    let a (wr : Option WriteData) : Access := ⟨tag, addr, wr, 0, s.host.accSeq, [], false⟩
    let u : State := { s with host := { s.host with accSeq := s.host.accSeq + 1 } }
    let c0 := addr / 32
    let c1 := (addr / 32 + 1) % 2 ^ 36
    let k0 := stackOf (bankOfCol c0)
    let stalls (i : Instr) (wr : Option WriteData) : Prop := 512 ≤ s.host.deferred.length ∨ s.host.stalled ≠ [] →
      exec i s = .next { s with host := { s.host with stalled := s.host.stalled ++ [⟨tag, dpa, wr⟩] } }
    let one (i : Instr) (wr : Option WriteData) : Prop := s.boot.stage = 7 → s.host.deferred.length < 512 → s.host.stalled = [] →
      ((s.deferring c0 || s.deferring c1) = true → exec i s = .next { u with host := { u.host with
        deferred := s.host.deferred ++ [{ s.withDeferrers (a wr) with since := s.ring.timebase }] } }) ∧
      ((s.deferring c0 || s.deferring c1) = false → s.host.inFlight = [] →
        (u.mustWait (a wr) = true → exec i s = .next { u with host := { u.host with inFlight := [a wr] } }) ∧
        (u.mustWait (a wr) = false → (∀ c ∈ [c0, c1], (s.gate (quadOf (bankOfCol c))).state = 0) →
          (u.busyFor (a wr) = true →
            exec i s = .next (u.modStack k0 (fun k => { k with slateQ := k.slateQ ++ [a wr] }))) ∧
          (u.busyFor (a wr) = false → (∀ q, (s.quad q).masked = []) → (∀ k, (s.stack k).writes = []) →
            (∀ k, ∀ y ∈ (s.stack k).slateQ, c0 ∉ y.cols ∧ c1 ∉ y.cols) →
            (wr = none → ∃ t, exec i s = .next t ∧ t.mem = s.mem ∧ t.out.head? = some (.memRead tag
              (BitVec.ofNat 512 (leNat (bytesOf 32 (s.column c0).data ++ bytesOf 32 (s.column c1).data)))
              ((s.column c0).poison || (s.column c1).poison))) ∧
            (∀ d, wr = some d → (∀ c ∈ [c0, c1], (s.stack (stackOf (bankOfCol c))).failed = false) →
              let new (c : Nat) (data : Line) (en : Word32) : List Byte :=
                if en = 0 then s.mem.raw c
                else if en = BitVec.allOnes 32 then (Memory.zero.store c (bytesOf 32 data) d.poison).raw c
                else (Memory.zero.store c (mergeBytes (s.column c).data data en) (d.poison || (s.column c).poison)).raw c
              ∃ t, exec i s = .next t ∧ t.out.head? = some (.memWrite tag) ∧ ∀ c, t.mem.raw c =
                if c = c0 then new c (d.data.extractLsb' 0 256) (d.enables.extractLsb' 0 32)
                else if c = c1 then new c (d.data.extractLsb' 256 256) (d.enables.extractLsb' 32 32)
                else s.mem.raw c))))
    (∀ (off : BitVec 28) (d : WriteData) (at_ : BitVec 41), dpa = 0x14000000000 + off.toNat / 64 * 64 → at_.toNat / 64 * 64 = dpa →
      let e := s.pane (off.toNat / 64 * 64 / 2 ^ 21)
      let each (p : Instr → Option WriteData → Prop) : Prop := p (.slateRead tag off) none ∧ p (.slateWrite tag off d) (some d) ∧
        p (.fullMapAccess tag at_ none) none ∧ p (.fullMapAccess tag at_ (some d)) (some d)
      each stalls ∧
      (addr = Pane.translate e (off.toNat / 64 * 64 % 2 ^ 21) → Pane.valid e = true → (a none).exists_ = true →
        (Pane.check e = true → ∀ c ∈ [c0, c1], s.inAllocation (Pane.ctx e) (32 * c) = true) → each one)) ∧
    (∀ (at_ : BitVec 41) (d : Option WriteData), dpa = at_.toNat / 64 * 64 → stalls (.fullMapAccess tag at_ d) d ∧
      (dpa < 0x14000000000 → s.host.fullMap = true → addr = flatToBank dpa → one (.fullMapAccess tag at_ d) d))) ∧
  (∀ (st : Fin 20) (s : State),
    let defers (a : Access) : Bool := a.cols.any s.deferring
    let go := (s.stack st).slateQ.filter (fun a => !defers a)
    (go = [] ∨ s.selfRefresh (quadOfStack st) = true ∨ (s.stack st).recovering = true → exec (.slateHold st) s = .next s.pumpReads) ∧
    (s.host.inFlight = [] → s.pumpReads = s) ∧
    (go ≠ [] → s.selfRefresh (quadOfStack st) = false → (s.stack st).recovering = false → s.host.inFlight = [] →
      ∃ t, exec (.slateHold st) s = .next t ∧ (t.stack st).slateQ = (oneRow go).2 ∧
        (t.stack st).slateHolds = bump (s.stack st).slateHolds 1 ∧
        (s.host.deferred.length + ((s.stack st).slateQ.filter defers).length ≤ 512 → t.host.deferred = s.host.deferred ++
          ((s.stack st).slateQ.filter defers).map (fun a => { s.withDeferrers a with since := s.ring.timebase })) ∧
        (∀ a ∈ (oneRow go).1, if a.wr.isSome then .memWrite a.tag ∈ t.out else ∃ d p, .memRead a.tag d p ∈ t.out))) ∧
  (∀ (p : Fin 128) (v : Word64) (s : State),
    (Pane.allowed s.host.paneUnchecked v = true → ∃ t, exec (.paneWrite p v) s = .next t ∧
      (∀ i, t.pane i = if i = p.val then v else s.pane i) ∧ t = { s with host := { s.host with panes := t.host.panes } }) ∧
    (Pane.allowed s.host.paneUnchecked v = false → exec (.paneWrite p v) s = .next s))

/-- Through a pane with VALID 0, to an address whose STACK field is 20 to 31, or failing the pane's check, and before B7, an
access that has a credit is numbered; a read, once no earlier write waits, is completed with poisoned data, and a write is
completed and discarded: nothing else changes but the count of pane faults and the answer, and reads that waited for earlier
writes may go on. A read behind earlier writes waits as others do. (11_host_coupling.md R374) -/
def Obligations.PaneFaultsAnswerAndCount : Prop :=
  ∀ (tag : Nat) (off : BitVec 28) (d : WriteData) (s : State),
    let e := s.pane (off.toNat / 64 * 64 / 2 ^ 21)
    let cols := (⟨tag, Pane.translate e (off.toNat / 64 * 64 % 2 ^ 21), none, 0, 0, [], false⟩ : Access).cols
    (s.boot.stage ≠ 7 ∨ Pane.valid e = false ∨ (∃ c ∈ cols, 20 ≤ stackOf (bankOfCol c)) ∨
      (Pane.check e = true ∧ ∃ c ∈ cols, s.inAllocation (Pane.ctx e) (32 * c) = false)) →
    s.host.deferred.length < 512 → s.host.stalled = [] →
    let u : State := { s with host := { s.host with accSeq := s.host.accSeq + 1 } }
    let r : Access := ⟨tag, 0, none, 0, s.host.accSeq, [], true⟩
    let counted : State := { u with host := { u.host with paneFaults := bump s.host.paneFaults 1 } }
    (u.mustWait r = false → ∃ data, exec (.slateRead tag off) s = .next (counted.emit (.memRead tag data true)).pumpReads) ∧
    (u.mustWait r = true → exec (.slateRead tag off) s =
      .next ({ u with host := { u.host with inFlight := s.host.inFlight ++ [r] } } : State).pumpReads) ∧
    exec (.slateWrite tag off d) s = .next (counted.emit (.memWrite tag)).pumpReads ∧
    (∀ v : State, v.host.inFlight = [] → v.pumpReads = v)

/-- A doorbell to a context without its host, not live, or with no later roll number changes nothing. Another waits while
RING_HEAD is at its TAIL with a command accepted, the ring is stopped or the command there has not arrived. When that
command is valid and ends at TAIL with the doorbell's roll it is accepted, RING_HEAD and LAST_ROLL follow it, no doorbell
waits, and on a bell, with no lesson accepted before, its lesson starts at once. An arrived command with bad fields stops
the ring, and a CMD_INVALID record is posted. COMMAND_RING_WRITE with no doorbell waiting writes its bytes into the
context's part of hub SRAM but for those of taken slots and counts a drop. DOORBELL_HOLD_EXPIRY drops a doorbell still
incomplete, counts it and posts STALE_DOORBELL; without one nothing changes. RING_REINIT of a live, idle ring puts it at
NEW_HEAD; of another it is ignored. (01_architecture.md R26; 11_host_coupling.md R385; 11_host_coupling.md R390;
11_host_coupling.md R392; 11_host_coupling.md R393; 11_host_coupling.md R394; 11_host_coupling.md R395; 11_host_coupling.md
R397; 11_host_coupling.md R400; 11_host_coupling.md R411) -/
def Obligations.CommandsAreAcceptedFromTheRing : Prop :=
  (∀ (c : Fin 16) (v : Word64) (s : State),
    let x := s.ctx c
    let tail : BitVec 12 := v.extractLsb' 0 12
    let roll : BitVec 48 := v.extractLsb' 16 48
    let h := x.head.toNat
    let heard := x.live = true ∧ x.hostLost = false ∧ x.lastRoll.toNat < roll.toNat
    (¬ heard → exec (.doorbell c v) s = .next s) ∧
    (heard → x.head = tail ∧ x.accepted ≠ [] ∨ x.stopped = true ∨ s.cmdArrived c h = false →
      exec (.doorbell c v) s = .next (s.setCtx c { x with pendingDb := some (tail, roll) })) ∧
    (heard → x.head ≠ tail ∨ x.accepted = [] → x.stopped = false → s.cmdArrived c h = true →
      (s.cmdValid c h = true → s.cmdFits c tail = true → BitVec.ofNat 12 ((h + s.cmdSlots c h) % 4096) = tail →
        x.lastRoll + 1 = roll →
        ∃ u, u = { s with ctxs := u.ctxs } ∧ (∀ i, i ≠ c.val → u.ctx i = s.ctx i) ∧
          u.ctx c = { x with
            head := tail, lastRoll := roll, pendingDb := none,
            accepted := x.accepted ++ [⟨h, s.cmdSlots c h, roll, decide (s.cmdOpcode c h = 2)⟩] } ∧
          exec (.doorbell c v) s = .next (if s.onBell && x.accepted.all (·.skip) then u.startLesson c else u)) ∧
      ((s.cmdValid c h && s.cmdFits c tail) = false → s.roomFor c →
        ∃ t, exec (.doorbell c v) s = .next t ∧ t = { s with ctxs := t.ctxs } ∧ (∀ i, i ≠ c.val → t.ctx i = s.ctx i) ∧
          t.ctx c = { x with
            stopped := true, pendingDb := none,
            buffer := x.buffer ++ [⟨doorbellReport x Code.cmdInvalid tail roll, [], false, none⟩] }))) ∧
  (∀ (c : Fin 16) (off : BitVec 18) (bytes : List Byte) (s : State), (s.ctx c).pendingDb = none → bytes.length ≤ 262144 →
    let place (a : Nat) : Nat := (a + 262144 - off.toNat) % 262144
    ∃ t, exec (.commandRingWrite c off bytes) s = .next t ∧
      (∀ a, a < 262144 → tget 0 t.host.rings (0x40000 * c.val + a) =
        if place a < bytes.length ∧ (s.ctx c).slotTaken (a / 64) = false then bytes.getD (place a) 0
        else tget 0 s.host.rings (0x40000 * c.val + a)) ∧
      (∀ a, a / 0x40000 ≠ c.val → tget 0 t.host.rings a = tget 0 s.host.rings a) ∧
      ((∃ a, a < 262144 ∧ place a < bytes.length ∧ (s.ctx c).slotTaken (a / 64) = true) →
        t.host.ringDrops = bump s.host.ringDrops 1) ∧
      ((∀ a, a < 262144 → place a < bytes.length → (s.ctx c).slotTaken (a / 64) = false) →
        t.host.ringDrops = s.host.ringDrops) ∧
      t = { s with host := { s.host with rings := t.host.rings, ringDrops := t.host.ringDrops } }) ∧
  (∀ (c : Fin 16) (s : State),
    ((s.ctx c).pendingDb = none → exec (.doorbellHoldExpiry c) s = .next s) ∧
    (∀ (tail : BitVec 12) (roll : BitVec 48), (s.ctx c).pendingDb = some (tail, roll) →
      ¬ ((s.ctx c).head = tail ∧ (s.ctx c).lastRoll = roll) →
      ((s.ctx c).head = tail ∧ (s.ctx c).accepted ≠ [] ∨ (s.ctx c).stopped = true ∨ s.cmdArrived c (s.ctx c).head.toNat = false) →
      s.roomFor c →
      ∃ t, exec (.doorbellHoldExpiry c) s = .next t ∧ t = { s with ctxs := t.ctxs, cfgs := t.cfgs } ∧
        t.cfg c = { s.cfg c with staleDoorbells := bump (s.cfg c).staleDoorbells 1 } ∧
        (∀ i, i ≠ c.val → t.ctx i = s.ctx i ∧ t.cfg i = s.cfg i) ∧
        t.ctx c = { s.ctx c with
          pendingDb := none
          buffer := (s.ctx c).buffer ++ [⟨doorbellReport (s.ctx c) Code.staleDoorbell tail roll, [], false, none⟩] })) ∧
  (∀ (c : Fin 16) (newHead : BitVec 12) (s : State),
    let idle := (s.ctx c).live = true ∧ (s.ctx c).head = (s.ctx c).done ∧ (s.ctx c).pendingDb = none
    (idle → ∃ t, exec (.ringReinit c newHead) s = .next t ∧ t = { s with ctxs := t.ctxs } ∧
      t.ctx c = { s.ctx c with head := newHead, done := newHead, stopped := false } ∧
      ∀ i, i ≠ c.val → t.ctx i = s.ctx i) ∧
    (¬ idle → exec (.ringReinit c newHead) s = .next s))

/-- For every live context: with HOST_LOST set a doorbell changes nothing; ACK_HOST_LOST without a lesson clears HOST_LOST
and changes nothing else; with a lesson it changes nothing. (11_host_coupling.md R411) -/
def Obligations.HostLostIgnoresDoorbells : Prop :=
  ∀ (c : Fin 16) (v : Word64) (s : State), (s.ctx c).live = true →
    ((s.ctx c).hostLost = true → exec (.doorbell c v) s = .next s) ∧
    ((s.ctx c).lesson = none → ∃ t, exec (.ackHostLost c) s = .next t ∧ t.ctx c = { s.ctx c with hostLost := false } ∧
      (∀ i, i ≠ c.val → t.ctx i = s.ctx i) ∧ t = { s with ctxs := t.ctxs }) ∧
    ((s.ctx c).lesson ≠ none → exec (.ackHostLost c) s = .next s)

/-- With no record of any context waiting for room: REPORT_WRITE of a context whose oldest record may be written (its ring
enabled, the link up, a place free at REPORT_TAIL, the record of a word that has issued, and waiting for no column write)
sends that record to REPORT_BASE + 64 TAIL with the next number and the phase; TAIL goes on (the phase turns at the end),
and with IRQ_COUNT records unsignalled its vector is signalled; of another it changes nothing. MSIX_DELAY_EXPIRY with an
unsignalled record signals it. REPORT_CFG that sets ENABLE starts the ring anew; one that changes the size of an enabled
ring is ignored; another is stored. REPORT_HEAD is stored. Nothing else changes. (11_host_coupling.md R384;
11_host_coupling.md R398; 11_host_coupling.md R399; 11_host_coupling.md R402; 11_host_coupling.md R403; 11_host_coupling.md
R404; 11_host_coupling.md R405) -/
def Obligations.ReportsAreWrittenInOrder : Prop :=
  (∀ (c : Fin 16) (s : State),
    ((s.ctx c).buffer = [] → exec (.reportWrite c) s = .next s) ∧
    (∀ (w : Waiting) (ws : List Waiting), (s.ctx c).buffer = w :: ws → (s.ctx c).reportEnabled = false ∨ s.host.linkState ≠ 2 ∨
      w.early = true ∨ ((s.ctx c).reportTail.toNat + 1) % (s.ctx c).reportEntries = (s.ctx c).reportHead.toNat ∨
      (∃ p ∈ w.after, s.writesDone p.1 c p.2 = false) → exec (.reportWrite c) s = .next s)) ∧
  (∀ (c : Fin 16) (w : Waiting) (ws : List Waiting) (s : State), (s.ctx c).buffer = w :: ws → (∀ k, (s.ctx k).queue = []) →
    (s.ctx c).reportEnabled = true → s.host.linkState = 2 → w.early = false →
    (∀ p ∈ w.after, s.writesDone p.1 c p.2 = true) →
    let x := s.ctx c
    let t0 := x.reportTail.toNat
    let next := (t0 + 1) % x.reportEntries
    let signal := decide (max 1 (fld x.reportCfg 47 32) ≤ x.unsignalled + 1)
    next ≠ x.reportHead.toNat →
    ∃ t, exec (.reportWrite c) s = .next t ∧
      t.out = (if signal then [Output.msix c.val] else []) ++
        .report c (x.reportBase.toNat + 64 * t0) w.record x.seqNo x.phase :: s.out ∧
      t.ctx c = { x with
        reportTail := BitVec.ofNat 16 next, phase := x.phase != decide (next = 0), seqNo := x.seqNo + 1
        unsignalled := if signal then 0 else x.unsignalled + 1, buffer := ws } ∧
      (∀ k, k ≠ c.val → t.ctx k = s.ctx k) ∧ t = { s with out := t.out, ctxs := t.ctxs, free := t.free }) ∧
  (∀ (c : Fin 16) (s : State), (s.ctx c).unsignalled = 0 → exec (.msixDelayExpiry c) s = .next s) ∧
  (∀ (c : Fin 16) (s : State), (s.ctx c).unsignalled ≠ 0 → ∃ t, exec (.msixDelayExpiry c) s = .next t ∧
    t.ctx c = { s.ctx c with unsignalled := 0 } ∧ (∀ k, k ≠ c.val → t.ctx k = s.ctx k) ∧
    t = { s with ctxs := t.ctxs, out := .msix c.val :: s.out }) ∧
  (∀ (c : Fin 16) (v : Word64) (s : State), (s.ctx c).live = true →
    ((s.ctx c).reportEnabled = false → v.getLsbD 8 = true → ∃ t, exec (.reportCfgWrite c v) s = .next t ∧
      t.ctx c = { s.ctx c with reportCfg := v, reportTail := 0, phase := true, seqNo := 0, unsignalled := 0 } ∧
      (∀ k, k ≠ c.val → t.ctx k = s.ctx k) ∧ t = { s with ctxs := t.ctxs }) ∧
    ((s.ctx c).reportEnabled = true → fld (s.ctx c).reportCfg 4 0 ≠ fld v 4 0 → exec (.reportCfgWrite c v) s = .next s) ∧
    ((s.ctx c).reportEnabled = true ∧ fld (s.ctx c).reportCfg 4 0 = fld v 4 0 ∨
      (s.ctx c).reportEnabled = false ∧ v.getLsbD 8 = false → ∃ t, exec (.reportCfgWrite c v) s = .next t ∧
      t.ctx c = { s.ctx c with reportCfg := v } ∧ (∀ k, k ≠ c.val → t.ctx k = s.ctx k) ∧ t = { s with ctxs := t.ctxs }) ∧
    (∃ t, exec (.reportHeadWrite c v) s = .next t ∧ t.ctx c = { s.ctx c with reportHead := v.extractLsb' 0 16 } ∧
      (∀ k, k ≠ c.val → t.ctx k = s.ctx k) ∧ t = { s with ctxs := t.ctxs }))

/-- PEN_HOIST, with a valid word of a live context, raises a pennant of this module by its amount, sends a frame to another
member's (once the module has joined), and changes nothing through other bindings; an invalid word is ignored. ROLL_ARRIVE
at a live roll call, off a bell, records the arrival of participant 16 in the earliest round it has not arrived in, and with
[8] notes that a RELEASE report of it is wanted; a third arrival is ignored and counted; through a dead handle the POISONED
release is reported at once if wanted; an invalid word or unbound handle is ignored. WATCH_ARM of a free entry writes it
(PEN[15:10] as 0): it is armed while its condition is unmet (another member's pennant is subscribed to) and otherwise
reports at once, disarmed; an armed entry takes no write. WATCH_LIMIT_EXPIRY of an armed watch reports it if its condition
is met, and else, with a limit, reports WAIT_TIMEOUT, counted, and disarms it. WAIT_TIMEOUT releases a pennant's waiter
whose condition is met; of a word still blocked but for a bell, within the context's limit and not yet reported, it reports
once, counted, and leaves it blocked; else nothing changes. (09_synchronisation.md R294; 09_synchronisation.md R304;
09_synchronisation.md R316; 09_synchronisation.md R324; 09_synchronisation.md R325; 09_synchronisation.md R331;
09_synchronisation.md R333; 09_synchronisation.md R334; 09_synchronisation.md R335; 11_host_coupling.md R400;
16_modes_errors_recovery.md R553) -/
def Obligations.HostHoistsArrivesAndWatches : Prop :=
  (∀ (c : Fin 16) (v : Word64) (s : State),
    let valid := (s.ctx c).live = true ∧ fld v 63 48 = 0 ∧ fld v 31 10 = 0 ∧ fld v 47 32 ≠ 0
    let b := s.binding c (fld v 9 0)
    let far := b.kind = 2 ∧ b.dead = false ∧ s.outOfRing = false ∧ (s.posOf b.module.toNat).isSome = true
    (¬ valid → exec (.penHoist c v) s = .next s) ∧
    (valid → (∀ p, (s.quad p).hoists = []) →
      let later : Sync := { s.sync with arrivals := s.sync.arrivals + 1 }
      (b.kind = 1 → ∃ t, exec (.penHoist c v) s = .next t ∧
        (∀ p, t.pen p = if p = b.phys.toNat then (s.pen p).hoisted (fld v 47 32) else s.pen p) ∧ (t.quad 0).hoists = [] ∧
        t = { s with quads := t.quads, ctxs := t.ctxs, sync := t.sync, host := t.host, ring := t.ring, out := t.out }) ∧
      (b.kind ≠ 1 → ¬ (b.kind = 2 ∧ s.ring.state = 1) → ∃ t, exec (.penHoist c v) s = .next t ∧ (∀ p, t.quad p = s.quad p) ∧
        (far → t = { s.sendTo b.module.toNat (.hoist b.phys (v.extractLsb' 32 16)) with quads := t.quads, sync := later }) ∧
        (¬ far → t = { s with quads := t.quads, sync := later })) ∧
      (b.kind = 2 → s.ring.state = 1 → ∃ t, exec (.penHoist c v) s = .next t ∧ t = { s with quads := t.quads, sync := later } ∧
        t.quad 0 = { s.quad 0 with hoists := [⟨c, b, v.extractLsb' 32 16, 0, s.sync.arrivals⟩] } ∧
        ∀ p, p ≠ 0 → t.quad p = s.quad p))) ∧
  (∀ (c : Fin 16) (v : Word64) (s : State),
    let valid := (s.ctx c).live = true ∧ fld v 63 9 = 0 ∧ fld v 7 6 = 0
    let hd := s.rollHandle c (fld v 5 0)
    let r := s.rollCall hd.num.toNat
    let a := r.arrive 16 s.ring.timebase
    let wants (n : Nat) : List (Nat × Nat) := if v.getLsbD 8 then [(fld v 5 0, n)] else []
    (¬ valid ∨ hd.bound = false → exec (.rollArrive c v) s = .next s) ∧
    (valid → hd.bound = true → hd.dead = true → exec (.rollArrive c v) s =
      .next (if v.getLsbD 8 then s.post c (releaseReport (fld v 5 0) r.round.toNat true) else s)) ∧
    (valid → hd.bound = true → hd.dead = false → r.st = 1 → (r.ring = false ∨ s.outOfRing = false) →
      (∀ n, a.2 = .recorded n → s.onBell = false → ∃ t, exec (.rollArrive c v) s = .next t ∧
        (t.rollCall hd.num.toNat).arrived = a.1.arrived ∧ (t.rollCall hd.num.toNat).ahead = a.1.ahead ∧
        (t.rollCall hd.num.toNat).round = r.round ∧ (∀ n, n ≠ hd.num.toNat → t.rollCall n = s.rollCall n) ∧
        t.ctx c = { s.ctx c with releases := (s.ctx c).releases ++ wants n } ∧ (∀ i, i ≠ c.val → t.ctx i = s.ctx i) ∧
        (r.ring = false → t = { s with ctxs := t.ctxs, sync := { s.sync with rolls := t.sync.rolls } }) ∧
        t = { s with ctxs := t.ctxs, sync := { s.sync with rolls := t.sync.rolls }, ring := t.ring, out := t.out }) ∧
      (a.2 = .held → exec (.rollArrive c v) s =
        .next { s with sync := { s.sync with rollDrop := bump s.sync.rollDrop 1 } }) ∧
      (a.2 = .outsider → ∃ t, exec (.rollArrive c v) s = .next t ∧ (∀ i, i ≠ c.val → t.ctx i = s.ctx i) ∧
        t.ctx c = { s.ctx c with releases := (s.ctx c).releases ++ wants r.round.toNat } ∧ t = { s with ctxs := t.ctxs }))) ∧
  (∀ (c : Fin 16) (i : Fin 32) (expected : Word64) (limit : Word32) (pen tag : BitVec 16) (s : State),
    let free := (s.ctx c).live = true ∧ (tget Watch.init (s.ctx c).watches i).armed = false
    let w : Watch := ⟨expected, limit, pen &&& 0x3FF, tag, true⟩
    let id := w.pen.toNat
    let b := s.binding c id
    let asks := b.kind = 2 ∧ b.dead = false ∧ (s.remote b.module.toNat b.phys.toNat).subscribed = false ∧ s.inRing = true
    let holds (x : Watch) (t : State) : Prop :=
      (∀ j, tget Watch.init (t.ctx c).watches j = if j = i.val then x else tget Watch.init (s.ctx c).watches j) ∧
      (∀ k, k ≠ c.val → t.ctx k = s.ctx k)
    (¬ free → exec (.watchArm c i expected limit pen tag) s = .next s) ∧
    (free → asks → ∃ t, exec (.watchArm c i expected limit pen tag) s = .next t ∧ holds w t ∧
      t.ctx c = { s.ctx c with watches := (t.ctx c).watches } ∧
      t = { s.sendTo b.module.toNat (.penSub b.phys true) with ctxs := t.ctxs }) ∧
    (free → ¬ asks → s.testWait c id expected.toNat = none → ∃ t, exec (.watchArm c i expected limit pen tag) s = .next t ∧
      holds w t ∧ t.ctx c = { s.ctx c with watches := (t.ctx c).watches } ∧ t = { s with ctxs := t.ctxs }) ∧
    (∀ p, free → ¬ asks → s.testWait c id expected.toNat = some p → s.roomFor c →
      ∃ t, exec (.watchArm c i expected limit pen tag) s = .next t ∧ holds { w with armed := false } t ∧
        t.ctx c = { s.ctx c with
          watches := (t.ctx c).watches
          buffer := (s.ctx c).buffer ++ [⟨watchReport w (if p then Code.poisoned else Code.ok) (s.penRaw c id), [], false, none⟩] } ∧
        t = { s with ctxs := t.ctxs })) ∧
  (∀ (c : Fin 16) (i : Fin 32) (s : State),
    let w := tget Watch.init (s.ctx c).watches i
    let id := w.pen.toNat % 1024
    let reported (code : BitVec 16) (t : State) : Prop := exec (.watchLimitExpiry c i) s = .next t ∧
      (∀ j, tget Watch.init (t.ctx c).watches j =
        if j = i.val then { w with armed := false } else tget Watch.init (s.ctx c).watches j) ∧
      t.ctx c = { s.ctx c with
        watches := (t.ctx c).watches
        buffer := (s.ctx c).buffer ++ [⟨watchReport w code (s.penRaw c id), [], false, none⟩] } ∧
      (∀ k, k ≠ c.val → t.ctx k = s.ctx k)
    (w.armed = false → exec (.watchLimitExpiry c i) s = .next s) ∧
    (∀ p, w.armed = true → s.testWait c id w.expected.toNat = some p → s.roomFor c →
      ∃ t, reported (if p then Code.poisoned else Code.ok) t ∧ t = { s with ctxs := t.ctxs }) ∧
    (w.armed = true → s.testWait c id w.expected.toNat = none →
      (w.limit = 0 → exec (.watchLimitExpiry c i) s = .next s) ∧
      (w.limit ≠ 0 → s.roomFor c → ∃ t, reported Code.waitTimeout t ∧
        t.sync = { s.sync with waitTimeouts := bump s.sync.waitTimeouts 1, remotes := t.sync.remotes } ∧
        t = { s with ctxs := t.ctxs, sync := t.sync, ring := t.ring, out := t.out }))) ∧
  (∀ (q sl : Fin 4) (s : State),
    let x := s.slot q sl
    (∀ (c ident n : Nat) (p : Bool), x.ctx = some c → x.blocked = some (.pennant ident n) → s.testWait c ident n = some p →
      exec (.waitTimeout q sl) s = .next (s.modSlot q sl (fun x => x.release p))) ∧
    (x.blocked = none ∨ s.slotCtx q sl = none ∧ (∀ ident n, x.blocked ≠ some (.pennant ident n)) →
      exec (.waitTimeout q sl) s = .next s) ∧
    (∀ (c : Nat) (l : Lesson) (b : Blocked), x.ctx = some c → (s.ctx c).lesson = some l → x.blocked = some b →
      (∀ ident n, b = .pennant ident n → s.testWait c ident n = none) →
      ((∃ n, b = .bells n) ∨ x.timedOut = true ∨ (s.cfg c).waitLimit = 0 → exec (.waitTimeout q sl) s = .next s) ∧
      ((∀ n, b ≠ .bells n) → x.timedOut = false → (s.cfg c).waitLimit ≠ 0 → s.roomFor c →
        ∃ t, exec (.waitTimeout q sl) s = .next t ∧ t.slot q sl = { x with timedOut := true } ∧
        (∀ i, i ≠ sl.val → t.slot q i = s.slot q i) ∧ (∀ p, p ≠ q.val → t.quad p = s.quad p) ∧
        (t.ctx c).buffer = (s.ctx c).buffer ++ [⟨timeoutReport l q (s.nextOrigin q sl) b.ident, [], false, none⟩] ∧
        (∀ k, k ≠ c → t.ctx k = s.ctx k) ∧ t.sync = { s.sync with waitTimeouts := bump s.sync.waitTimeouts 1 } ∧
        t = { s with quads := t.quads, ctxs := t.ctxs, sync := t.sync })))

/-- CXL_LINK_RECOVERY with the link up is a recovery and counts a retrain. CXL_LINK_UP of a released port, at x16, x8 or x4
and 64, 32 or 16 GT/s, records them (and a retrain if the link was down); its REFCLK is there. CXL_LINK_DOWN drops the reads
in progress and what has no credit, and keeps the writes. HOST_LOSS_TIMEOUT with the link down, PERST_N, CXL_HOT_RESET and
FUNCTION_LEVEL_RESET at B7 lose the host: no pane, decoder or window, no access in progress, every live context HOST_LOST
with no doorbell, record, interrupt or enabled report ring waiting, its lesson going on, and the loss counted; the last
three close every session, and before B7 a reset leaves contexts and quadrants. Memory, bank units and banks stay.
PERST_N_DEASSERT of a released port starts training. Each of these changes nothing where it does not apply.
(11_host_coupling.md R364; 11_host_coupling.md R366; 11_host_coupling.md R379; 11_host_coupling.md R405; 11_host_coupling.md
R409; 11_host_coupling.md R410; 11_host_coupling.md R412; 15_security_and_startup.md R538; 15_security_and_startup.md R541;
15_security_and_startup.md R545) -/
def Obligations.LinkEventsAndHostLoss : Prop :=
  (∀ s : State, s.host.linkState = 2 →
    exec .cxlLinkRecovery s = .next { s with host := { s.host with linkState := 3, retrains := bump s.host.retrains 1 } }) ∧
  (∀ s : State, s.host.linkState = 2 ∨ s.host.linkState = 3 →
    (let keep (as : List Access) := as.filter (fun a => a.wr.isSome)
     ∃ t, exec .cxlLinkDown s = .next t ∧
       t.host = { s.host with
         linkState := 0, linkWidth := 0, linkSpeed := 0, deferred := keep s.host.deferred, stalled := []
         inFlight := keep s.host.inFlight } ∧
       (∀ st, st < 20 → t.stack st = { s.stack st with slateQ := keep (s.stack st).slateQ }) ∧
       t = { s with host := t.host, stk := t.stk })) ∧
  (∀ s : State, s.host.linkState ≠ 2 → exec .cxlLinkRecovery s = .next s ∧ (s.host.linkState ≠ 3 → exec .cxlLinkDown s = .next s)) ∧
  (∀ (width speed : BitVec 8) (s : State), s.boot.cxlReleased = false ∨ s.boot.perstN = false ∨ s.host.linkState = 2 ∨
      width.toNat ∉ [16, 8, 4] ∨ speed.toNat ∉ [64, 32, 16] → exec (.cxlLinkUp width speed) s = .next s) ∧
  (∀ (width speed : BitVec 8) (s : State), s.boot.cxlReleased = true → s.boot.perstN = true → s.host.linkState ≠ 2 →
    width.toNat ∈ [16, 8, 4] → speed.toNat ∈ [64, 32, 16] →
    exec (.cxlLinkUp width speed) s = .next { s with clk := { s.clk with refclk := true }, host := { s.host with
      linkState := 2, linkWidth := width, linkSpeed := speed
      retrains := if s.host.linkState = 0 then bump s.host.retrains 1 else s.host.retrains } }) ∧
  (∀ s : State,
    let kept (t : State) : Prop := t.mem = s.mem ∧ t.units = s.units ∧ t.banks = s.banks ∧ t.health = s.health ∧ t.sync = s.sync ∧
      t.ring = s.ring ∧ t.clk = s.clk ∧ t.pow = s.pow ∧ t.therm = s.therm ∧ t.cfgs = s.cfgs
    let lost (i : Instr) (link : BitVec 8) (closes : Bool) : Prop := ∃ t, exec i s = .next t ∧ kept t ∧
      t.host.linkState = link ∧ t.host.panes = [] ∧ t.host.hdm = 0 ∧ t.host.barWindow = [] ∧ t.host.deferred = [] ∧ t.host.stalled = [] ∧ t.host.inFlight = [] ∧
      (∀ st, st < 20 → (t.stack st).slateQ = []) ∧ t.host.hostLostEvents = bump s.host.hostLostEvents 1 ∧
      (closes = true → t.host.sessions = [] ∧ t.host.fwTransfer = none) ∧
      (∀ c, c < 16 → (s.ctx c).live = true → (t.ctx c).hostLost = true ∧ (t.ctx c).reportEnabled = false ∧
        (t.ctx c).buffer = [] ∧ (t.ctx c).queue = [] ∧ (t.ctx c).unsignalled = 0 ∧ (t.ctx c).pendingDb = none ∧ (t.ctx c).lesson = (s.ctx c).lesson ∧
        ((s.ctx c).lesson = none → (t.ctx c).accepted = [] ∧ (t.ctx c).head = (s.ctx c).done))
    let early (i : Instr) (link : BitVec 8) : Prop := ∃ t, exec i s = .next t ∧ kept t ∧ t.host.linkState = link ∧
      t.ctxs = s.ctxs ∧ t.quads = s.quads ∧ t.boot.stage = s.boot.stage ∧ t.host.sessions = [] ∧ t.host.hdm = 0 ∧ t.host.barWindow = []
    (s.boot.cxlReleased = true → s.boot.perstN = true → s.host.linkState = 0 → s.boot.stage = 7 →
      lost .hostLossTimeout 1 false) ∧
    (s.boot.cxlReleased = false ∨ s.boot.perstN = false ∨ s.host.linkState ≠ 0 ∨ s.boot.stage ≠ 7 →
      exec .hostLossTimeout s = .next s) ∧
    (s.boot.perstN = false → exec .perstN s = .next s) ∧ (s.boot.perstN = true → exec .perstNDeassert s = .next s) ∧
    (s.boot.cxlReleased = false → exec .cxlHotReset s = .next s ∧ exec .functionLevelReset s = .next s) ∧
    (s.boot.perstN = true → if s.boot.stage = 7 then lost .perstN 0 true else early .perstN 0) ∧
    (s.boot.cxlReleased = true → if s.boot.stage = 7 then lost .cxlHotReset 1 true ∧ lost .functionLevelReset 1 true
      else early .cxlHotReset 1 ∧ early .functionLevelReset 1) ∧
    (s.boot.perstN = false → s.boot.cxlReleased = true → exec .perstNDeassert s = .next { s with
      boot := { s.boot with perstN := true }, host := { s.host with linkState := 1, linkWidth := 0, linkSpeed := 0 } }) ∧
    (s.boot.perstN = false → s.boot.cxlReleased = false → exec .perstNDeassert s = .next { s with
      boot := { s.boot with perstN := true } }))

/-- AUX_POWER_LOSS puts everything back to reset but flash (firmware slots, the stored dictionary, the retirement list) and
the pins. AUX_POWER_GOOD after it begins B0, held while MOD_RESET_n is asserted. MAIN_INPUT_LOST from B3 on and MOD_RESET_N
zero the memory and lose contexts, command rings, bank-unit files, staging and timetables, gates open, the port and the
rails; the module is ALONE at B2, or at B0 with a new series of attempts; dictionary settings, hazard counts, retirement
list, slots and the operator's credential stay. Below B3 MAIN_INPUT_LOST changes only its pin. Without auxiliary power
MOD_RESET_N changes only its pin. MOD_RESET_N_DEASSERT ends the hold; MAIN_INPUT_PRESENT notes the input. (12_peer_ring.md
R427; 13_clocks_power_thermal.md R454; 14_object_dictionary.md R498; 15_security_and_startup.md R537;
15_security_and_startup.md R541; 17_electrical_mechanical.md R565; 17_electrical_mechanical.md R566;
17_electrical_mechanical.md R568) -/
def Obligations.PowerAndResetScopes : Prop :=
  (∀ s : State, ∃ t, exec .auxPowerLoss s = .next t ∧
    t.health.retired = s.health.retired ∧ t.mgmt.stored = s.mgmt.stored ∧ t.sec.slots = s.sec.slots ∧
    t.sec.nextSlot = s.sec.nextSlot ∧ t.boot.mainPresent = s.boot.mainPresent ∧ t.boot.perstN = s.boot.perstN ∧
    t.boot.modResetN = s.boot.modResetN ∧ t.boot.pwrBrakeN = s.boot.pwrBrakeN ∧ t.boot.straps = s.boot.straps ∧
    t.clk.refclk = s.clk.refclk ∧ t.boot.auxGood = false ∧ t.boot.stage = 0 ∧ t.out = s.out ∧ t.pending = s.pending ∧
    t = { State.reset with
      pending := t.pending, free := t.free, out := t.out, boot := t.boot, clk := t.clk, health := t.health, mgmt := t.mgmt
      sec := t.sec } ∧
    t.health = { State.reset.health with retired := t.health.retired } ∧
    t.mgmt = { State.reset.mgmt with stored := t.mgmt.stored } ∧
    t.sec = { State.reset.sec with slots := t.sec.slots, nextSlot := t.sec.nextSlot }) ∧
  (∀ s : State, s.boot.auxGood = true → exec .auxPowerGood s = .next s) ∧
  (∀ s : State, s.boot.auxGood = false → ∃ t u, exec .auxPowerGood s = .next t ∧ exec .auxPowerLoss s = .next u ∧
    t = { u with boot := { u.boot with auxGood := true, heldB0 := !s.boot.modResetN } }) ∧
  (∀ s : State,
    let off (t : State) : Prop := t.mem = Memory.zero ∧ t.units = [] ∧ (∀ c, (t.ctx c).live = false) ∧
      (∀ q, (t.quad q).staging = [] ∧ (t.quad q).tt = [] ∧ (t.quad q).dues = [] ∧ (t.quad q).sel = none ∧
        (t.quad q).point = (s.quad q).point ∧ (t.quad q).shared = (s.quad q).shared) ∧
      (∀ g, (t.gate g).state = 0) ∧ t.boot.rails = 0 ∧ t.boot.plls = false ∧ t.boot.cxlReleased = false ∧ t.host.linkState = 0 ∧
      t.host.sessions = [] ∧ t.ring.state = 0 ∧ t.ring.position = 255 ∧
      t.health.retired = s.health.retired ∧ t.sec.slots = s.sec.slots ∧ t.pow = s.pow ∧
      tget 0 t.sec.digests 0 = tget 0 s.sec.digests 0 ∧ (∀ c, tget 0 t.sec.digests (1 + c) = 0) ∧
      (∀ c, (t.cfg c).priority = (s.cfg c).priority ∧ (t.cfg c).waitLimit = (s.cfg c).waitLimit ∧
        (t.cfg c).hazCount = (s.cfg c).hazCount) ∧ t.host.rings = []
    (3 ≤ s.boot.stage.val → ∃ t, exec .mainInputLost s = .next t ∧ off t ∧ t.boot.stage = 2 ∧ t.boot.mainPresent = false) ∧
    (s.boot.stage.val < 3 → exec .mainInputLost s = .next { s with boot := { s.boot with mainPresent := false } }) ∧
    (s.boot.auxGood = true → ∃ t, exec .modResetN s = .next t ∧ off t ∧ t.boot.stage = 0 ∧ t.boot.heldB0 = true ∧
      t.boot.modResetN = false ∧ t.clk.attempts = 0 ∧ t.boot.fwRunning = false ∧ t.clk.xtalEnabled = false ∧
      t.mgmt.canState = .active ∧ ∀ p ∈ t.mgmt.conditions, p.1 ≠ 0x8120) ∧
    (s.boot.auxGood = false → exec .modResetN s = .next { s with boot := { s.boot with modResetN := false } }) ∧
    exec .modResetNDeassert s = .next { s with boot := { s.boot with modResetN := true, heldB0 := false } } ∧
    exec .mainInputPresent s = .next { s with boot := { s.boot with mainPresent := true } })

/-- Before the port is released a mailbox command changes nothing, and before B7 context control answers Busy. SESSION_OPEN
while locked out or with 8 sessions open is denied; with the token of the role's digest it opens a session and clears the
failures; a wrong token counts a failure, the eighth in a row locks out, SESSION_LOCKOUT_EXPIRY ends that. SESSION_CLOSE
removes its session. CTX_CREATE by the operator with an empty span or a priority above 3 answers BAD_REQUEST, with no
context number or slot free NO_SLOT; else it takes the lowest free number and in each quadrant of the span its free slot,
fresh. A command for a context that does not exist or is ending answers BAD_REQUEST (CTX_RESET of one that is ending waits
with it). CTX_RESET marks the context as resetting, counts the request, and no pennant that it owns stays live; over CAN FD
it does the same after B7 and is not answered (log 100). CTX_DESTROY leaves the context as never created, its slots free,
its tenant sessions gone. QUAD_MODE of a quadrant without contexts sets its mode, and else answers MODE_BUSY. Each is
answered with status 0 where it ends at once. (01_architecture.md R11; 02_bank_units.md R52; 05_sequencer.md R159;
05_sequencer.md R161; 05_sequencer.md R176; 05_sequencer.md R180; 06_tensors.md R203; 09_synchronisation.md R327;
11_host_coupling.md R406; 15_security_and_startup.md R535; 15_security_and_startup.md R542; 15_security_and_startup.md R546)
-/
def Obligations.SessionsContextsAndModes : Prop :=
  (∀ (i : Instr) (h : Word64) (s : State), i.sessionHandle = some h →
    (s.boot.cxlReleased = false → exec i s = .next s) ∧
    (s.boot.cxlReleased = true → s.boot.stage ≠ 7 → i.ofDictionary = false → i ≠ .sessionClose h →
      exec i s = .next (s.cxlAnswer .busy [])) ∧
    (∀ k, i.namesContext = some k → s.grants h (some k) → (∀ c, i ≠ .ctxReset (some h) c) →
      (s.ctx k).live = false ∨ (s.ctx k).resetting = true → exec i s = .next (s.answer Code.badRequest []))) ∧
  (∀ (role ctx : BitVec 8) (token : BitVec 256) (s : State),
    (s.boot.cxlReleased = false → exec (.sessionOpen role ctx token) s = .next s) ∧
    (s.boot.cxlReleased = true → s.host.locked = true ∨ 8 ≤ s.host.sessions.length →
      exec (.sessionOpen role ctx token) s = .next (s.answer Code.accessDenied []))) ∧
  (∀ (role ctx : BitVec 8) (token : BitVec 256) (s : State), s.boot.cxlReleased = true → s.host.locked = false →
    s.host.sessions.length < 8 →
    let d := s.roleDigest role.toNat ctx.toNat
    (d ≠ 0 → tokenDigest token = d → ∃ t h, exec (.sessionOpen role ctx token) s = .next t ∧
      t.host = { s.host with
        sessions := s.host.sessions ++ [⟨h, if role = 0 then none else some ctx.toNat, none⟩], failures := 0 } ∧
      t.out = .msix 16 :: .mailbox 0 (toLe 8 h.toNat ++ [role, ctx]) :: s.out ∧
      t = { s with host := t.host, out := t.out, free := t.free }) ∧
    (d = 0 ∨ tokenDigest token ≠ d → exec (.sessionOpen role ctx token) s =
      .next (State.answer { s with host := { s.host with
        failures := if s.host.failures ≥ 7 then 0 else s.host.failures + 1
        locked := decide (s.host.failures ≥ 7) } } Code.accessDenied []))) ∧
  (∀ s : State, exec .sessionLockoutExpiry s = .next { s with host := { s.host with locked := false } }) ∧
  (∀ (h : Word64) (y : Session) (s : State), s.boot.cxlReleased = true → s.session h = some y →
    ∃ t, exec (.sessionClose h) s = .next t ∧ t.session h = none ∧
      (∀ k, k ≠ h → t.session k = s.session k) ∧
      t = { s with host := { s.host with sessions := t.host.sessions }, out := .msix 16 :: .mailbox 0 [] :: s.out }) ∧
  (∀ (h : Word64) (qs : BitVec 4) (prio : BitVec 8) (c : Nat) (s : State), s.grants h none → qs ≠ 0 → prio.toNat ≤ 3 → c < 16 →
    (s.ctx c).live = false → (∀ i, i < c → (s.ctx i).live = true) → (∀ q ∈ bitsSet qs, (s.freeSlotIn q).isSome = true) →
    ∃ t, exec (.ctxCreate h qs prio) s = .next t ∧
      t.ctx c = { Ctx.init with live := true, span := qs, slotIn := (t.ctx c).slotIn } ∧
      (∀ i, i ≠ c → t.ctx i = s.ctx i) ∧
      (∀ q ∈ bitsSet qs, s.freeSlotIn q = some (tget 0 (t.ctx c).slotIn q) ∧
        ∀ sl, t.slot q sl = if sl = tget 0 (t.ctx c).slotIn q then { Slot.init with ctx := some c } else s.slot q sl) ∧
      (∀ q, q ∉ bitsSet qs → t.quad q = s.quad q) ∧
      t.cfg c = { s.cfg c with priority := prio, hazLog := [], hazCount := [] } ∧
      t = { s with ctxs := t.ctxs, quads := t.quads, cfgs := t.cfgs,
                   out := .msix 16 :: .mailbox 0 [BitVec.ofNat 8 c] :: s.out }) ∧
  (∀ (h : Word64) (qs : BitVec 4) (prio : BitVec 8) (s : State), s.grants h none →
    (qs = 0 ∨ 3 < prio.toNat → exec (.ctxCreate h qs prio) s = .next (s.answer Code.badRequest [])) ∧
    (qs ≠ 0 → prio.toNat ≤ 3 → (∀ c, c < 16 → (s.ctx c).live = true) ∨ (∃ q ∈ bitsSet qs, s.freeSlotIn q = none) →
      exec (.ctxCreate h qs prio) s = .next (s.answer Code.noSlot []))) ∧
  (∀ (h : Word64) (c : Fin 16) (s : State), s.grants h (some c.val) →
    ((s.ctx c).live = false → exec (.ctxReset (some h) c) s = .next (s.answer Code.badRequest [])) ∧
    ((s.ctx c).live = true → (s.ctx c).resetting = true →
      exec (.ctxReset (some h) c) s = .next (s.modCtx c (fun x => { x with replies := x.replies + 1 })))) ∧
  (∀ (h : Word64) (c : Fin 16) (s : State), s.grants h none → (s.ctx c).live = false ∨ (s.ctx c).resetting = true →
    exec (.ctxDestroy h c) s = .next (s.answer Code.badRequest [])) ∧
  (∀ (h : Word64) (c : Fin 16) (s : State), s.grants h (some c.val) → (s.ctx c).live = true → (s.ctx c).resetting = false →
    ∃ t, exec (.ctxReset (some h) c) s = .next t ∧ (t.ctx c).resetting = true ∧ (t.ctx c).replies = (s.ctx c).replies + 1 ∧
      (∀ p, (t.pen p).st = 1 → (t.pen p).owner.toNat ≠ c.val) ∧
      t = { s with quads := t.quads, ctxs := t.ctxs, sync := t.sync, host := t.host, ring := t.ring, out := t.out }) ∧
  (∀ (c : Fin 16) (s : State),
    (s.usdoUp = false ∨ s.boot.stage ≠ 7 ∨ (s.ctx c).live = false ∨ (s.ctx c).resetting = true → exec (.ctxReset none c) s = .next s) ∧
    (s.usdoUp = true → s.boot.stage = 7 → (s.ctx c).live = true → (s.ctx c).resetting = false →
      ∃ t, exec (.ctxReset none c) s = .next t ∧ (t.ctx c).resetting = true ∧ (t.ctx c).replies = (s.ctx c).replies ∧
        (∀ p, (t.pen p).st = 1 → (t.pen p).owner.toNat ≠ c.val) ∧
        t = { s with quads := t.quads, ctxs := t.ctxs, sync := t.sync, host := t.host, ring := t.ring, out := t.out })) ∧
  (∀ (h : Word64) (c : Fin 16) (s : State), s.grants h none → (s.ctx c).live = true → (s.ctx c).resetting = false →
    ∃ t, exec (.ctxDestroy h c) s = .next t ∧ t.ctx c = Ctx.init ∧
      (∀ q ∈ bitsSet (s.ctx c).span, (t.slot q (tget 0 (s.ctx c).slotIn q)).ctx = none) ∧
      (∀ y ∈ t.host.sessions, y.tenant ≠ some c.val) ∧ tget 0 t.sec.digests (1 + c) = 0 ∧
      t.out.take 2 = [.msix 16, .mailbox 0 []]) ∧
  (∀ (h : Word64) (q : Fin 4) (shared : Bool) (s : State), s.grants h none →
    ((∀ sl, sl < 4 → (s.slot q sl).ctx = none) →
      exec (.quadMode h q shared) s = .next ((s.modQuad q (fun x => { x with shared := shared })).answer Code.ok [])) ∧
    ((∃ sl, sl < 4 ∧ (s.slot q sl).ctx ≠ none) → exec (.quadMode h q shared) s = .next (s.answer Code.modeBusy [])))

/-- For a session granted the context. ALLOC of no plots, or of a box whose bounds are out of order, answers BAD_REQUEST, of
a box outside the span DESC_EXTENT, with a failed stack, no open range or no free entry NO_SPACE, beyond the quota
OVER_QUOTA; else it takes the lowest range whose plots (granules) are all open. FREE of an entry no live descriptor names
removes it; its plots go to clearing unless retired, queued or of a failed stack; of no live entry it answers BAD_REQUEST,
of a named one DESC_IN_USE. DESC_CREATE with a valid descriptor binds the handle, with another answers its code;
DESC_DESTROY and DESC_CLEAR_POISON (bit 493, the context dismissed) act on a bound handle, and else answer BAD_REQUEST; a
bound handle that a half names is DESC_IN_USE for both. DESC_READ answers the descriptor. LOAD of an image tensor begins,
waits behind an earlier load or until its columns can be reached, or answers LOAD_BUSY behind a waiting one; of another
tensor BAD_REQUEST. HALF_READ answers bytes that lie in the half and the payload, else BAD_REQUEST. What succeeds answers
status 0 and changes nothing else; what fails changes nothing but the answer. (05_sequencer.md R151; 05_sequencer.md R156;
06_tensors.md R194; 06_tensors.md R195; 06_tensors.md R197; 06_tensors.md R199; 06_tensors.md R202; 06_tensors.md R205;
06_tensors.md R218; 06_tensors.md R220; 11_host_coupling.md R408; 15_security_and_startup.md R543) -/
def Obligations.AllocationsDescriptorsAndLoads : Prop :=
  ∀ (h : Word64) (c : Fin 16) (s : State), s.grantsOn h c →
    let fails (i : Instr) (code : BitVec 16) : Prop := exec i s = .next (s.answer code [])
    (∀ (staging : Bool) (box : Box) (count : Nat),
      let i : Instr := .alloc h c staging box count
      let a (lo : Nat) : Allocation :=
        if staging then { Allocation.none with live := true, staging := true, lo := lo, hi := lo + count - 1 }
        else ⟨true, false, box.stackLo, box.stackHi, box.dieLo, box.dieHi, box.bankLo, box.bankHi, lo, lo + count - 1⟩
      let opens (l : Nat) : Prop := ∀ n, l ≤ n → n < l + count →
        if staging then ∀ q ∈ bitsSet (s.ctx c).span, s.granuleOpen q n = true
        else ∀ b ∈ (a l).banks, s.plotOpen (2048 * b + n) = true
      let good := 0 < count ∧ (staging = false → boxInModule box = true)
      let inside := staging = false → box.stackHi < 20 ∧
        ∀ st, box.stackLo ≤ st → st ≤ box.stackHi → (s.ctx c).span.getLsbD (quadOfStack st) = true
      let sound := staging = false → ∀ st, box.stackLo ≤ st → st ≤ box.stackHi → (s.stack st).failed = false
      (¬ good → fails i Code.badRequest) ∧ (good → ¬ inside → fails i Code.descExtent) ∧
      (good → inside → ¬ sound ∨ (∀ l, l + count ≤ (if staging then granules else 2048) → ¬ opens l) ∨
        (∀ e, e < 256 → (s.allocation c e).live = true) → fails i Code.noSpace) ∧
      (∀ lo e, good → inside → sound → lo + count ≤ (if staging then granules else 2048) → opens lo → (∀ l, l < lo → ¬ opens l) →
        e < 256 → (s.allocation c e).live = false → (∀ j, j < e → (s.allocation c j).live = true) →
        let u := s.modCtx c (fun x => { x with allocs := tset Allocation.none x.allocs e (a lo) })
        ¬ (if staging then u.stageUse c ≤ (s.cfg c).stageQuota.toNat else u.plotUse c ≤ (s.cfg c).plotQuota.toNat) →
        fails i Code.overQuota)) ∧
    (∀ e : BitVec 8, let named := ∃ d ∈ (s.ctx c).descs, Desc.live d.2 = true ∧ Desc.alloc d.2 = e.toNat
      ((s.allocation c e.toNat).live = false → fails (.free h c e) Code.badRequest) ∧
      ((s.allocation c e.toNat).live = true → named → fails (.free h c e) Code.descInUse)) ∧
    (∀ (k : BitVec 12) (d : BitVec 512),
      let live := (s.desc c k.toNat).live = true
      let named := (s.ctx c).namesHandle k.toNat = true
      (live → named → fails (.descCreate h c k d) Code.descInUse ∧ fails (.descDestroy h c k) Code.descInUse) ∧
      (¬ (live ∧ named) → s.checkDesc c k.toNat d ≠ Code.ok → fails (.descCreate h c k d) (s.checkDesc c k.toNat d)) ∧
      (¬ live → fails (.descDestroy h c k) Code.badRequest) ∧
      (¬ live ∨ (s.ctx c).dismissed = false → fails (.descClearPoison h c k) Code.badRequest) ∧
      (Desc.holdsImage (s.desc c k.toNat) = false → fails (.load h c k) Code.badRequest) ∧
      (Desc.holdsImage (s.desc c k.toNat) = true → (s.ctx c).waitLoad ≠ none → fails (.load h c k) Code.loadBusy)) ∧
    (∀ (q sl : Fin 4) (half : Bool) (off len : Nat), s.grants h none →
      (s.quad q).shared = false ∧ sl ≠ 0 ∨ halfSize (s.quad q).shared < off + len ∨ 4092 < len →
      fails (.halfRead h q sl half off len) Code.badRequest) ∧
    (∀ (staging : Bool) (box : Box) (count lo i : Nat),
      let a : Allocation :=
        if staging then { Allocation.none with live := true, staging := true, lo := lo, hi := lo + count - 1 }
        else ⟨true, false, box.stackLo, box.stackHi, box.dieLo, box.dieHi, box.bankLo, box.bankHi, lo, lo + count - 1⟩
      let opens (l : Nat) : Prop := ∀ n, l ≤ n → n < l + count →
        if staging then ∀ q ∈ bitsSet (s.ctx c).span, s.granuleOpen q n = true
        else ∀ b ∈ a.banks, s.plotOpen (2048 * b + n) = true
      let u := s.modCtx c (fun x => { x with allocs := tset Allocation.none x.allocs i a })
      0 < count → lo + count ≤ (if staging then granules else 2048) → opens lo → (∀ l, l < lo → ¬ opens l) →
      (staging = false → boxInModule box = true ∧ ∀ st, box.stackLo ≤ st → st ≤ box.stackHi →
        (s.ctx c).span.getLsbD (quadOfStack st) = true ∧ (s.stack st).failed = false) →
      i < 256 → (s.allocation c i).live = false → (∀ j, j < i → (s.allocation c j).live = true) →
      (if staging then u.stageUse c ≤ (s.cfg c).stageQuota.toNat else u.plotUse c ≤ (s.cfg c).plotQuota.toNat) →
      ∃ t, exec (.alloc h c staging box count) s = .next t ∧
        (∀ j, t.allocation c j = if j = i then a else s.allocation c j) ∧
        t.out = .msix 16 :: .mailbox 0 ([BitVec.ofNat 8 i] ++ toLe 2 a.lo ++ toLe 2 a.hi ++
          toLe 4 (if staging then 0 else (s.health.retired.filter (fun p => a.holdsPlot p)).length)) :: s.out ∧
        t.ctx c = { s.ctx c with allocs := (t.ctx c).allocs } ∧ t = { s with ctxs := t.ctxs, out := t.out }) ∧
    (∀ e : BitVec 8, (s.allocation c e.toNat).live = true →
      (∀ d ∈ (s.ctx c).descs, Desc.live d.2 = true → Desc.alloc d.2 ≠ e.toNat) →
      ∃ t, exec (.free h c e) s = .next t ∧
        (∀ j, t.allocation c j = if j = e.toNat then Allocation.none else s.allocation c j) ∧
        ((s.allocation c e.toNat).staging = false → ∀ p ∈ (s.allocation c e.toNat).plots, p ∉ s.health.retired →
          p ∉ s.health.queued → (s.stack (stackOf (bankOfPlot p))).failed = false → p ∈ t.health.clearing) ∧
        t = { s with ctxs := t.ctxs, health := t.health, mgmt := t.mgmt, out := .msix 16 :: .mailbox 0 [] :: s.out }) ∧
    (∀ (k : BitVec 12) (d : BitVec 512),
      let only (t : State) (d : BitVec 512) : Prop := (∀ j, t.desc c j = if j = k.toNat then d else s.desc c j) ∧
        t.ctx c = { s.ctx c with descs := (t.ctx c).descs } ∧ (∀ i, i ≠ c.val → t.ctx i = s.ctx i) ∧
        t = { s with ctxs := t.ctxs, out := .msix 16 :: .mailbox 0 [] :: s.out }
      (s.checkDesc c k.toNat d = Code.ok → ((s.desc c k.toNat).live = false ∨ (s.ctx c).namesHandle k.toNat = false) →
        ∃ t, exec (.descCreate h c k d) s = .next t ∧ only t d) ∧
      ((s.desc c k.toNat).live = true → (s.ctx c).namesHandle k.toNat = false →
        ∃ t, exec (.descDestroy h c k) s = .next t ∧ only t 0) ∧
      exec (.descRead h c k) s = .next (s.answer Code.ok (bytesOf 64 (s.desc c k.toNat))) ∧
      ((s.desc c k.toNat).live = true → (s.ctx c).dismissed = true →
        ∃ t, exec (.descClearPoison h c k) s = .next t ∧ only t (setBits (s.desc c k.toNat) 493 1 0))) ∧
    (∀ k : BitVec 12, Desc.holdsImage (s.desc c k.toNat) = true → (s.ctx c).waitLoad = none →
      (((s.ctx c).loading.isSome = true ∨ (s.ctx c).armed.isSome = true) → ∃ t, exec (.load h c k) s = .next t ∧
        t.ctx c = { s.ctx c with
          loads := (s.ctx c).loads + 1, waitLoad := some ((s.ctx c).loads + 1, k.toNat) } ∧
        (∀ i, i ≠ c.val → t.ctx i = s.ctx i) ∧
        t = { s with ctxs := t.ctxs, out := .msix 16 :: .mailbox 0 (toLe 8 ((s.ctx c).loads + 1)) :: s.out }) ∧
      ((s.ctx c).loading = none → (s.ctx c).armed = none →
        let n := (s.ctx c).loads + 1
        let u := s.setCtx c { s.ctx c with loads := n, waitLoad := some (n, k.toNat) }
        ∃ t v, exec (.load h c k) s = .next t ∧ exec (.loadBegin c) u = .next v ∧ t = v.answer Code.ok (toLe 8 n) ∧
          (t.ctx c).loads = n ∧ ((t.ctx c).waitLoad = some (n, k.toNat) ∧ (t.ctx c).loading = none ∨
            (t.ctx c).waitLoad = none ∧ ∃ image, (t.ctx c).loading = some ⟨n, image⟩))) ∧
    (∀ (q sl : Fin 4) (half : Bool) (off len : Nat), s.grants h none → ((s.quad q).shared = true ∨ sl = 0) →
      off + len ≤ halfSize (s.quad q).shared → len ≤ 4092 → exec (.halfRead h q sl half off len) s =
        .next (s.answer Code.ok (readBytes (s.quad q).tt (halfBase (s.quad q).shared sl half + off) len)))

/-- For a session granted the context. An identifier that is bound anew or unbound first gives up its binding: BINDINGS of a
pennant of this module falls (a half-mast one without bindings is freed), and another member is told. PEN_CREATE within the
quota takes a free pennant with the value given, owned and bound once; else it answers OVER_QUOTA or NO_SPACE. PEN_BIND of a
pennant of this module that the context owns, or that is shared under the tag, binds it and counts the binding; of another
joined module's it waits for the owner's answer; any other is PEN_BIND. PEN_SHARE of a live pennant that the context owns
sets sharing and tag, and else answers BAD_REQUEST. Off a bell ROLL_CREATE takes a free roll call with the masks given,
ring-wide if they name another module, and binds the handle; one without local participants is complete from the start, and
the home of a ring-wide one hears so; with none free it answers NO_SPACE. ROLL_BIND by the owner or a participant binds it,
and else answers BAD_REQUEST; ROLL_UNBIND unbinds it. Other pennants and live roll calls stay; each answers status 0 where
it succeeds at once. (09_synchronisation.md R292; 09_synchronisation.md R294; 09_synchronisation.md R296;
09_synchronisation.md R297; 09_synchronisation.md R298; 09_synchronisation.md R314; 09_synchronisation.md R315;
09_synchronisation.md R318; 09_synchronisation.md R319; 09_synchronisation.md R329) -/
def Obligations.PennantsAndRollCallsAreBound : Prop :=
  ∀ (h : Word64) (c : Fin 16) (s : State), s.grantsOn h c →
    let ok (t : State) (bs : List Byte) : Prop := t.out.take 2 = [.msix 16, .mailbox 0 bs]
    let fails (i : Instr) (code : BitVec 16) : Prop := exec i s = .next (s.answer code [])
    let kept (t : State) : Prop := t = { s with quads := t.quads, ctxs := t.ctxs, sync := t.sync, host := t.host, ring := t.ring,
                                                out := t.out, free := t.free }
    (∀ (id : BitVec 10),
      let b := s.binding c id.toNat
      let low (x : Pennant) : Pennant :=
        if x.st = 2 ∧ x.bindings ≤ 1 then Pennant.free
        else { x with bindings := if x.bindings = 0 then 0 else x.bindings - 1 }
      let given (r : Nat) : Pennant := if b.kind = 1 ∧ r = b.phys.toNat then low (s.pen r) else s.pen r
      (∀ init : Word64,
        ((s.cfg c).penQuota.toNat ≤ s.penUse c → fails (.penCreate h c id init) Code.overQuota) ∧
        (s.penUse c < (s.cfg c).penQuota.toNat → (∀ p, p < 16384 → (s.pen p).st ≠ 0) →
          fails (.penCreate h c id init) Code.noSpace) ∧
        (s.penUse c < (s.cfg c).penQuota.toNat → (∃ p, p < 16384 ∧ (s.pen p).st = 0) →
          (b.kind = 1 → (s.pen b.phys.toNat).st ≠ 0) →
          ∃ t p, exec (.penCreate h c id init) s = .next t ∧ p < 16384 ∧ (s.pen p).st = 0 ∧
            t.pen p = { Pennant.free with
              value := init, st := 1, sat := init == BitVec.allOnes 64, owner := BitVec.ofNat 4 c, bindings := 1 } ∧
            (∀ r, r ≠ p → t.pen r = given r) ∧ t.binding c id.toNat = ⟨1, 0, BitVec.ofNat 14 p, false⟩ ∧ ok t [] ∧ kept t)) ∧
      (∀ (phys : BitVec 14) (tag : Word32),
        let may := (s.pen phys.toNat).st = 1 ∧
          ((s.pen phys.toNat).owner.toNat = c.val ∨ (s.pen phys.toNat).shared = true ∧ (s.pen phys.toNat).tag = tag)
        (may → ∃ t, exec (.penBind h c id s.ownIdent phys tag) s = .next t ∧
          (∀ r, t.pen r = if r = phys.toNat then { given r with bindings := (given r).bindings + 1 } else given r) ∧
          t.binding c id.toNat = ⟨1, 0, phys, false⟩ ∧ ok t [] ∧ kept t) ∧
        (¬ may → fails (.penBind h c id s.ownIdent phys tag) Code.penBind)) ∧
      (∀ (module phys : BitVec 14) (tag : Word32), module ≠ s.ownIdent →
        (s.inRing = true → (s.posOf module.toNat).isSome = true → ∃ t, exec (.penBind h c id module phys tag) s = .next t ∧
          (let u := s.sendTo module.toNat (.penBind phys tag .request)
           t = { u with ring := { u.ring with binds := s.ring.binds ++ [(c.val, id.toNat, module, phys)] } })) ∧
        (s.inRing = false ∨ s.posOf module.toNat = none → fails (.penBind h c id module phys tag) Code.penBind)) ∧
      (∃ t, exec (.penUnbind h c id) s = .next t ∧ t.binding c id.toNat = PenBinding.unbound ∧
        (∀ r, t.pen r = given r) ∧ ok t [] ∧ kept t) ∧
      (b.kind = 2 → b.dead = false → exec (.penUnbind h c id) s = .next
        ((((s.giveBack b.module b.phys).modCtx c (fun x =>
          { x with pens := tset PenBinding.unbound x.pens id.toNat PenBinding.unbound })).rebound c id.toNat).answer Code.ok [])) ∧
      (∀ (shared : Bool) (tag : Word32),
        let p := b.phys.toNat
        let owns := b.kind = 1 ∧ (s.pen p).st = 1 ∧ (s.pen p).owner.toNat = c.val
        (owns → ∃ t, exec (.penShare h c id shared tag) s = .next t ∧
          (∀ r, t.pen r = if r = p then { s.pen r with shared := shared, tag := if shared then tag else 0 } else s.pen r) ∧
          t = { s with sync := t.sync, out := .msix 16 :: .mailbox 0 [] :: s.out }) ∧
        (¬ owns → fails (.penShare h c id shared tag) Code.badRequest))) ∧
    (∀ (hd : BitVec 6),
      (∀ (lmask : BitVec 18) (rmask : BitVec 64) (rid : BitVec 16),
        ((∀ n, n < 64 → (s.rollCall n).st ≠ 0) → fails (.rollCreate h c hd lmask rmask rid) Code.noSpace) ∧
        ((∃ n, n < 64 ∧ (s.rollCall n).st = 0) → s.onBell = false →
          let own : BitVec 64 := if s.ring.position.toNat < 64 then 1#64 <<< s.ring.position.toNat else 0
          let wide := rmask &&& ~~~own != 0
          ∃ t n, exec (.rollCreate h c hd lmask rmask rid) s = .next t ∧ n < 64 ∧ (s.rollCall n).st = 0 ∧
            (let r : RollCall := { RollCall.free with
               st := 1, owner := BitVec.ofNat 4 c, ring := wide, rid := if wide then rid else 0, localMask := lmask
               ringMask := rmask, completeAt := if lmask = 0 then some s.ring.timebase else none }
             t.rollCall n = { r with ringArrived := (t.rollCall n).ringArrived, release := (t.rollCall n).release } ∧
             (¬ (wide = true ∧ lmask = 0 ∧ s.inRing = true) → t.rollCall n = r) ∧
             (∀ pos, wide = true → lmask = 0 → s.inRing = true → s.homeOf r = some s.ring.moduleId.toNat →
               s.posOf s.ring.moduleId.toNat = some pos → (t.rollCall n).ringArrived = 1#64 <<< pos)) ∧
            (∀ m, m ≠ n → (s.rollCall m).st ≠ 2 → t.rollCall m = s.rollCall m) ∧
            t.rollHandle c hd.toNat = ⟨true, BitVec.ofNat 6 n, false⟩ ∧ ok t [BitVec.ofNat 8 n] ∧ kept t)) ∧
      (∀ n : BitVec 6,
        let may := (s.rollCall n.toNat).st ≠ 0 ∧
          ((s.rollCall n.toNat).owner.toNat = c.val ∨ (s.rollCall n.toNat).localMask &&& s.slotBits c ≠ 0)
        (may → ∃ t, exec (.rollBind h c hd n) s = .next t ∧ t.rollHandle c hd.toNat = ⟨true, n, false⟩ ∧
          (∀ m, (s.rollCall m).st ≠ 2 → t.rollCall m = s.rollCall m) ∧ ok t [] ∧ kept t) ∧
        (¬ may → fails (.rollBind h c hd n) Code.badRequest)) ∧
      (∃ t, exec (.rollUnbind h c hd) s = .next t ∧ t.rollHandle c hd.toNat = RollHandle.unbound ∧
        (∀ m, (s.rollCall m).st ≠ 2 → t.rollCall m = s.rollCall m) ∧ ok t [] ∧ kept t))

/-- Once the port is released. A tenant that may not read or write the entry is denied. A reserved byte that is set, OD_READ
of more than 4,032 bytes, or from an offset of a readable entry that is no DOMAIN, answers BAD_REQUEST; of an entry that may
not be read its abort code; of another its value, and changes nothing; a DOMAIN read from 0 takes a snapshot, later parts
come from it or are refused without one, SNAPSHOT_EXPIRY discards it. OD_WRITE by the operator and, while the USDO server
runs and is free, REGISTER_WRITE over CAN FD, of a missing index, a missing sub-index, a read-only entry, a wrong length or
a value out of range are refused with that row's abort code, the first that applies, and change nothing but the answer; an
accepted write of a plain entry reads back as written. A server that does not run hears nothing, one with a transfer under
way answers busy. REGISTER_WRITE of REPORT_BASE of a live context with its ring disabled stores the base; of a word of a
free watch writes that word (PEN[15:10] as 0), and of its CONTROL word arms it as WATCH_ARM does; of a component register
keeps the value, and bit 9 of a decoder's control commits it; of any other place of BAR0 changes nothing.
(11_host_coupling.md R384; 11_host_coupling.md R398; 14_object_dictionary.md R489; 14_object_dictionary.md R490;
14_object_dictionary.md R493; 14_object_dictionary.md R494; 14_object_dictionary.md R496; 14_object_dictionary.md R497;
14_object_dictionary.md R501; 14_object_dictionary.md R512) -/
def Obligations.DictionaryReadsAndWrites : Prop :=
  (∀ (h : Word64) (y : Session) (idx : BitVec 16) (sub : OdSub) (s : State), s.boot.cxlReleased = true →
    s.session h = some y →
    let i := idx.toNat
    let j := sub.sub.toNat
    let domain := (odEntry i j).map (·.ty) = some .domain
    (∀ c, y.tenant = some c →
      (∀ off len, s.tenantReads c i j = false → exec (.odRead h idx sub off len) s = .next (s.answer Code.accessDenied [])) ∧
      (∀ value, tenantWrites c i j = false → exec (.odWrite h idx sub value) s = .next (s.answer Code.accessDenied []))) ∧
    (∀ value, (∀ c, y.tenant = some c → tenantWrites c i j = true) → sub.reserved ≠ 0 →
      exec (.odWrite h idx sub value) s = .next (s.answer Code.badRequest [])) ∧
    (∀ off len, (∀ c, y.tenant = some c → s.tenantReads c i j = true) →
      (4032 < len ∨ sub.reserved ≠ 0 → exec (.odRead h idx sub off len) s = .next (s.answer Code.badRequest [])) ∧
      (len ≤ 4032 → sub.reserved = 0 →
        (s.odReadAbort i j = Abort.none → ¬ domain → off ≠ 0 →
          exec (.odRead h idx sub off len) s = .next (s.answer Code.badRequest [])) ∧
        (s.odReadAbort i j ≠ Abort.none → exec (.odRead h idx sub off len) s =
          .next (s.answer Code.ok (bytesOf 4 (s.odReadAbort i j) ++ toLe 4 0))) ∧
        (s.odReadAbort i j = Abort.none → domain → off ≠ 0 → (∀ bs, y.snapshot ≠ some (256 * i + j, bs)) →
          exec (.odRead h idx sub off len) s = .next (s.answer Code.ok (bytesOf 4 Abort.noSnapshot ++ toLe 4 0)))))) ∧
  (∀ (h : Word64) (y : Session) (idx : BitVec 16) (sub : OdSub) (s : State), s.boot.cxlReleased = true →
    s.session h = some y → y.tenant = none → sub.reserved = 0 →
    let i := idx.toNat
    let j := sub.sub.toNat
    let v := s.odValue i j
    (∀ len, len ≤ 4032 → s.odReadAbort i j = Abort.none → (odEntry i j).map (·.ty) ≠ some .domain →
      exec (.odRead h idx sub 0 len) s = .next (s.answer Code.ok (toLe 4 0 ++ toLe 4 v.length ++ v.take len))) ∧
    (∀ len, len ≤ 4032 → s.odReadAbort i j = Abort.none → (odEntry i j).map (·.ty) = some .domain →
      ∃ t, exec (.odRead h idx sub 0 len) s = .next t ∧ (t.session h).map (·.snapshot) = some (some (256 * i + j, v)) ∧
        t = { s with host := { s.host with sessions := t.host.sessions }, mgmt := { s.mgmt with snapOrder := t.mgmt.snapOrder },
                     out := .msix 16 :: .mailbox 0 (toLe 4 0 ++ toLe 4 v.length ++ v.take len) :: s.out }) ∧
    (∀ off len bs, 0 < off → len ≤ 4032 → s.odReadAbort i j = Abort.none → (odEntry i j).map (·.ty) = some .domain →
      y.snapshot = some (256 * i + j, bs) → ∃ t, exec (.odRead h idx sub off len) s = .next t ∧
        t = { s with mgmt := { s.mgmt with snapOrder := t.mgmt.snapOrder },
                     out := .msix 16 :: .mailbox 0 (toLe 4 0 ++ toLe 4 bs.length ++ (bs.drop off).take len) :: s.out }) ∧
    (∀ (value : List Byte) (a : Word32),
      let can : Prop := s.usdoUp = true ∧ s.mgmt.usdo = none
      let refused : Prop := exec (.odWrite h idx sub value) s = .next (s.answer Code.ok (bytesOf 4 a)) ∧
        (can → exec (.registerWrite (.od idx sub.sub value)) s = .next (s.emit (.abort (0x580 + s.mgmt.nodeId.toNat) a)))
      (s.usdoUp = false → exec (.registerWrite (.od idx sub.sub value)) s = .next s) ∧
      (s.usdoUp = true → s.mgmt.usdo ≠ none → exec (.registerWrite (.od idx sub.sub value)) s =
        .next (s.emit (.abort (0x580 + s.mgmt.nodeId.toNat) Abort.busy))) ∧
      (a = Abort.noIndex → odEntries i = none → refused) ∧
      (∀ es, odEntries i = some es →
        (a = Abort.noSub → odEntry i j = none → refused) ∧
        (∀ e, odEntry i j = some e →
          (a = Abort.readOnly → e.acc = .ro ∨ e.acc = .const → refused) ∧
          (e.acc ≠ .ro → e.acc ≠ .const → (a = Abort.length → e.ty ≠ .num value.length → refused) ∧
            (e.ty = .num value.length → a = Abort.range → s.odRange i j (leNat value) = false → refused)))) ∧
      (i ∈ [0x1015, 0x1017, 0x2106, 0x2204, 0x2430, 0x2435, 0x2436, 0x2503, 0x2604, 0x2711, 0x2801] → j = 0 →
        s.odWriteAbort none i 0 value = Abort.none →
        (∃ t, exec (.odWrite h idx sub value) s = .next t ∧ t.odValue i 0 = value ∧
          t.out = .msix 16 :: .mailbox 0 [0, 0, 0, 0] :: s.out ∧ t.mem = s.mem ∧ t.ctxs = s.ctxs ∧ t.quads = s.quads) ∧
        (can → ∃ t, exec (.registerWrite (.od idx sub.sub value)) s = .next t ∧ t.odValue i 0 = value ∧ t.mem = s.mem ∧
          t.out = .can (0x580 + s.mgmt.nodeId.toNat) (toLe 2 i ++ [0]) :: s.out ∧ t.ctxs = s.ctxs ∧ t.quads = s.quads)))) ∧
  (∀ (c : Fin 16) (v : Word64) (s : State), (s.ctx c).live = true → (s.ctx c).reportEnabled = false →
    ∃ t, exec (.registerWrite (.bar (BitVec.ofNat 21 (0x100040 + 0x10000 * c.val)) v)) s = .next t ∧
      t.ctx c = { s.ctx c with reportBase := v.extractLsb' 12 52 ++ 0#12 } ∧ (∀ i, i ≠ c.val → t.ctx i = s.ctx i) ∧
      t = { s with ctxs := t.ctxs }) ∧
  (∀ (c : Fin 16) (i : Fin 32) (k : Fin 4) (v : Word64) (s : State),
    let w := tget Watch.init (s.ctx c).watches i
    let r : Instr := .registerWrite (.bar (BitVec.ofNat 21 (0x101000 + 0x10000 * c.val + 32 * i.val + 8 * k.val)) v)
    let free := (s.ctx c).live = true ∧ w.armed = false
    let new : Watch := if k = 0 then { w with expected := v, pen := w.pen &&& 0x3FF }
      else if k = 1 then { w with limit := v.extractLsb' 0 32, pen := v.extractLsb' 32 16 &&& 0x3FF, tag := v.extractLsb' 48 16 }
      else { w with pen := w.pen &&& 0x3FF }
    (¬ free → exec r s = .next s) ∧
    (k = 2 → v.getLsbD 0 = true → exec r s = exec (.watchArm c i w.expected w.limit w.pen w.tag) s) ∧
    (free → ¬ (k = 2 ∧ v.getLsbD 0 = true) → ∃ t, exec r s = .next t ∧ (∀ x, x ≠ c.val → t.ctx x = s.ctx x) ∧
      (∀ x, tget Watch.init (t.ctx c).watches x = if x = i.val then new else tget Watch.init (s.ctx c).watches x) ∧
      t.ctx c = { s.ctx c with watches := (t.ctx c).watches } ∧ t = { s with ctxs := t.ctxs })) ∧
  (∀ (off : BitVec 21) (v : Word64) (s : State),
    let o := off.toNat
    let page := o % 0x10000
    (0x10000 ≤ o → o < 0x20000 → ∃ t, exec (.registerWrite (.bar off v)) s = .next t ∧
      (∀ k, tget 0 t.host.barWindow k = if k = o then v else tget 0 s.host.barWindow k) ∧
      (∀ n : Fin 2, t.host.hdm.getLsbD n.val =
        if o = Config.hdmOffset + 0x20 + 0x20 * n.val then v.getLsbD 9 else s.host.hdm.getLsbD n.val) ∧
      t = { s with host := { s.host with barWindow := t.host.barWindow, hdm := t.host.hdm } }) ∧
    (o < 0x10000 ∨ 0x20000 ≤ o ∧ o < 0x100000 ∨ 0x100000 ≤ o ∧ page ≠ 0x40 ∧ (page < 0x1000 ∨ 0x1400 ≤ page) →
      exec (.registerWrite (.bar off v)) s = .next s) ∧
    (0x100000 ≤ o → page = 0x40 → (s.ctx ((o - 0x100000) / 0x10000)).live = false ∨
      (s.ctx ((o - 0x100000) / 0x10000)).reportEnabled = true → exec (.registerWrite (.bar off v)) s = .next s)) ∧
  (∀ (n : Nat) (s : State), s.snapshots[n]? = none → exec (.snapshotExpiry n) s = .next s) ∧
  (∀ (n : Nat) (k : Word64) (s : State), s.snapshots[n]? = some k → ∃ t, exec (.snapshotExpiry n) s = .next t ∧
    t.host.sessions = s.host.sessions.map (fun y => if y.handle = k then { y with snapshot := none } else y) ∧
    t = { s with host := { s.host with sessions := t.host.sessions } })

/-- These writes come over CAN FD: a USDO server that does not run hears none, one with a transfer under way aborts it as
busy; another answers with index and sub-index. With the value that its entry asks for: STORE keeps the present values of
the stored set with the next number; RESTORE forgets them; NEXT_SLOT, the error history, the error log (and its count) take
their value or empty; MOD_RESET starts at B0 with memory zero; a part of a credential digest goes to its place, the last
puts the digest in effect and closes that role's sessions; a hazard log empties; RD_THRESHOLD sets its stack's and ends its
banks' watch; budgets, ORDERING, FULL_MAP, BELL_PERIOD (in force at once without a ring), CLK_ACK and the counter's start
act on their fields alone. FULL_MAP by a tenant comes over the mailbox and answers there. A value out of its entry's range,
and one that the state of the module does not allow, is refused with its abort code and changes nothing else.
(01_architecture.md R22; 05_sequencer.md R180; 09_synchronisation.md R310; 10_dram_controller.md R350; 11_host_coupling.md
R368; 12_peer_ring.md R445; 13_clocks_power_thermal.md R454; 13_clocks_power_thermal.md R467; 13_clocks_power_thermal.md
R479; 13_clocks_power_thermal.md R481; 14_object_dictionary.md R513; 15_security_and_startup.md R536) -/
def Obligations.DictionaryCommandsAct : Prop :=
  (∀ (s : State) (i : Instr) (e : Nat × Nat), i.entryWritten = some e →
    (s.usdoUp = false → exec i s = .next s) ∧
    (s.usdoUp = true → s.mgmt.usdo ≠ none → exec i s = .next (s.emit (.abort (0x580 + s.mgmt.nodeId.toNat) Abort.busy)))) ∧
  (∀ (c : Fin 16) (v : BitVec 8) (s : State),
    let may := (s.ctx c).span = 15 ∧ ∀ q, q < 4 → (s.quad q).shared = false
    (s.boot.cxlReleased = false → exec (.fullMapWrite (some c) v) s = .next s) ∧
    (s.boot.cxlReleased = true →
      (1 < v.toNat → exec (.fullMapWrite (some c) v) s = .next (s.answer Code.ok (bytesOf 4 Abort.range))) ∧
      (v.toNat ≤ 1 → ¬ may → exec (.fullMapWrite (some c) v) s = .next (s.answer Code.ok (bytesOf 4 Abort.state))) ∧
      (v.toNat ≤ 1 → may → exec (.fullMapWrite (some c) v) s = .next (State.answer
        { s with host := { s.host with fullMap := v == 1, fullMapBy := some c.val } } Code.ok [0, 0, 0, 0])))) ∧
  ∀ s : State, s.usdoUp = true → s.mgmt.usdo = none →
    let refused (i : Instr) (a : Word32) : Prop := exec i s = .next (s.emit (.abort (0x580 + s.mgmt.nodeId.toNat) a))
    let said (idx sub : Nat) : Output := .can (0x580 + s.mgmt.nodeId.toNat) (toLe 2 idx ++ toLe 1 sub)
    (∀ v : Word32, (v ≠ 0x65766173 → refused (.store v) Abort.range) ∧ (v ≠ 0x64616F6C → refused (.restore v) Abort.range) ∧
      (v ≠ 0x74736572 → refused (.modReset v) Abort.range)) ∧
    (∀ v : BitVec 8, (v ≠ 0 → v ≠ 1 → v ≠ 255 → refused (.nextSlotWrite v) Abort.range) ∧
      (v ≠ 0 → refused (.errorCountClear v) Abort.range) ∧ (v ≠ 1 → refused (.errLogClear v) Abort.range) ∧
      (1 < v.toNat → refused (.orderingWrite v) Abort.range ∧ refused (.fullMapWrite none v) Abort.range) ∧
      (v ≠ 1 → refused (.clkAck v) Abort.range ∧ refused (.fmcStart v) Abort.range)) ∧
    (∀ (q : Fin 4) (c : Fin 16) (v : Word32), (v ≠ 0 → refused (.hazardLogClear q c v) Abort.range) ∧
      (v = 0 → s.boot.stage.val < 5 → refused (.hazardLogClear q c v) Abort.unavailable)) ∧
    (∀ (st : Fin 20) (v : BitVec 16), v.toNat < 256 ∨ 4096 < v.toNat → refused (.rdThresholdWrite st v) Abort.range) ∧
    (∀ (brake : Bool) (v : BitVec 16), budgetOk v.toNat = false → refused (.pwrBudgetWrite brake v) Abort.range) ∧
    (s.boot.stage ≠ 7 ∨ s.sync.recoveries ≠ [] → refused (.orderingWrite 0) Abort.state) ∧
    (s.clk.laterSuccess = false → s.clk.clkFault = true → refused (.clkAck 1) Abort.state) ∧
    (∃ t, exec (.store 0x65766173) s = .next t ∧ t.mgmt.stored.valid = true ∧
      t.mgmt.stored.seqNo = s.mgmt.stored.seqNo + 1 ∧
      (∀ p ∈ storedSet, p.1 ≠ 0x2200 → (p.1 * 256 + p.2, s.odValue p.1 p.2) ∈ t.mgmt.stored.entries) ∧
      t = { s with mgmt := { s.mgmt with stored := t.mgmt.stored }, out := said 0x1010 1 :: s.out }) ∧
    exec (.restore 0x64616F6C) s = .next { s with mgmt := { s.mgmt with stored := { s.mgmt.stored with valid := false } },
                                                   out := said 0x1011 1 :: s.out } ∧
    (∀ v : BitVec 8, v = 0 ∨ v = 1 ∨ v = 255 → exec (.nextSlotWrite v) s =
      .next { s with sec := { s.sec with nextSlot := v }, out := said 0x2A00 4 :: s.out }) ∧
    exec (.errorCountClear 0) s = .next { s with mgmt := { s.mgmt with history := [] }, out := said 0x1003 0 :: s.out } ∧
    exec (.errLogClear 1) s = .next { s with mgmt := { s.mgmt with log := [], logCount := 0 }, out := said 0x2900 3 :: s.out } ∧
    (∃ t, exec (.modReset 0x74736572) s = .next t ∧ t.mem = Memory.zero ∧ t.boot.stage = 0 ∧ (∀ c, (t.ctx c).live = false) ∧
      t.boot.heldB0 = !s.boot.modResetN ∧ t.health.retired = s.health.retired ∧ t.pow = s.pow ∧ said 0x2903 0 ∈ t.out) ∧
    (∀ (tenant : Option (Fin 16)) (part : Fin 4) (v : Word64),
      let r := match tenant with
        | none => 0
        | some c => 1 + c.val
      ∃ t, exec (.credentialDigestWrite tenant part v) s = .next t ∧
        (∀ k, k < 4 → (tget 0 t.sec.parts r).extractLsb' (64 * k) 64 =
          if k = part.val then v else (tget 0 s.sec.parts r).extractLsb' (64 * k) 64) ∧
        (∀ i, tget 0 t.sec.digests i = if i = r ∧ part = 3 then tget 0 t.sec.parts r else tget 0 s.sec.digests i) ∧
        (part = 3 → ∀ y ∈ t.host.sessions, y.tenant ≠ tenant.map (·.val)) ∧ (part ≠ 3 → t.host = s.host) ∧
        t = { s with sec := t.sec, host := t.host, out := (match tenant with
          | none => said 0x2A04 (part + 1)
          | some c => said 0x2A05 (4 * c + part + 1)) :: s.out }) ∧
    (∀ (q : Fin 4) (c : Fin 16), 5 ≤ s.boot.stage.val → ∃ t, exec (.hazardLogClear q c 0) s = .next t ∧
      (∀ p, tget [] (t.cfg c).hazLog p = if p = q.val then [] else tget [] (s.cfg c).hazLog p) ∧
      (∀ p, tget 0 (t.cfg c).hazCount p = if p = q.val then 0 else tget 0 (s.cfg c).hazCount p) ∧
      (∀ i, i ≠ c.val → t.cfg i = s.cfg i) ∧ t = { s with cfgs := t.cfgs, out := said (0x2758 + q) (c + 1) :: s.out }) ∧
    (∀ (st : Fin 20) (v : BitVec 16), 256 ≤ v.toNat → v.toNat ≤ 4096 → ∃ t, exec (.rdThresholdWrite st v) s = .next t ∧
      (∀ i, t.stack i = if i = st.val then { s.stack i with rdThreshold := v } else s.stack i) ∧
      (∀ u, t.bank u = if inStack st u then { s.bank u with watch := false } else s.bank u) ∧
      t = { s with stk := t.stk, banks := t.banks, out := said 0x2420 (st + 1) :: s.out }) ∧
    (∀ (brake : Bool) (v : BitVec 16), budgetOk v.toNat = true → ∃ t, exec (.pwrBudgetWrite brake v) s = .next t ∧
      (if brake then t.pow.brakeBudget = v ∧ t.pow.budget = s.pow.budget
       else t.pow.budget = v ∧ t.pow.brakeBudget = s.pow.brakeBudget) ∧
      (let old := s.budgetInForce
       let new := if brake = s.boot.pwrBrakeN then old else v.toNat
       (new = old → t.pow.g = s.pow.g ∧ t.pow.ramp = s.pow.ramp) ∧
       (new < old → s.pow.pAvg ≤ 1000 * new → t.pow.g = min s.pow.g (1000 * new) ∧ t.pow.ramp = none) ∧
       (new < old → 1000 * new < s.pow.pAvg → t.pow.g = s.pow.pAvg ∧ t.pow.ramp = some ⟨s.pow.pAvg, 1000 * new, 4000, 0⟩) ∧
       (old < new → t.pow.g = s.pow.g ∧ t.pow.ramp = s.pow.ramp.bind (fun r =>
         if 1000 * new < s.pow.g then some ⟨s.pow.g, 1000 * new, r.length - r.elapsed, 0⟩ else none))) ∧
      t = { s with pow := t.pow, out := said (if brake then 0x2203 else 0x2201) 0 :: s.out }) ∧
    (∀ v : BitVec 8, v = 1 ∨ v = 0 ∧ s.boot.stage = 7 ∧ s.sync.recoveries = [] →
      exec (.orderingWrite v) s = .next { s with sync := { s.sync with ordering := v }, out := said 0x2800 0 :: s.out }) ∧
    (∀ v : BitVec 8, v.toNat ≤ 1 → exec (.fullMapWrite none v) s =
      .next { s with host := { s.host with fullMap := v == 1, fullMapBy := none }, out := said 0x2501 0 :: s.out }) ∧
    (∀ v : Word32,
      (256 ≤ v.toNat ∧ v.toNat ≤ 1000000 ∧ v.toNat % 64 = 0 → ∃ t, exec (.bellPeriodWrite v) s = .next t ∧
        t = { s with ring := t.ring, out := said 0x2605 0 :: s.out } ∧
        t.ring = { s.ring with
          bellStored := v, period := t.ring.period, nextPeriod := t.ring.nextPeriod, changeAt := t.ring.changeAt } ∧
        (s.outOfRing = true → t.ring.period = v.toNat ∧ t.ring.nextPeriod = 0) ∧
        (s.ring.state = 2 → t.ring = { s.ring with bellStored := v }) ∧
        (s.ring.state = 3 → v.toNat ≠ s.ring.period → t.ring.period = s.ring.period ∧ t.ring.nextPeriod = v.toNat ∧
          s.ring.timebase + 10000000 ≤ t.ring.changeAt)) ∧
      (¬ (256 ≤ v.toNat ∧ v.toNat ≤ 1000000 ∧ v.toNat % 64 = 0) → exec (.bellPeriodWrite v) s =
        .next (s.emit (.abort (0x580 + s.mgmt.nodeId.toNat) Abort.range)))) ∧
    (s.clk.laterSuccess = true ∨ s.clk.clkFault = false → exec (.clkAck 1) s =
      .next { s with clk := { s.clk with clkFault := false, laterSuccess := false }, out := said 0x2101 0 :: s.out }) ∧
    exec (.fmcStart 1) s = .next { s with clk := { s.clk with fmc := { s.clk.fmc with
      running := true, status := if s.clk.fmc.running then 4 else 1 } }, out := said 0x2102 6 :: s.out }

/-- A gate group asked to close closes once idle (banks precharged, neighbour queues empty), times out back to open with a
count, opens through a demand, and at GATE_OPENED owes no debt and serves what waits; an idle quadrant asks by itself. In
any other state of the gate these change nothing. FMC_DONE and FMC_REFERENCE_STALL end a running measurement, a gated clock
counting 0. SENSOR_CONVERSION with auxiliary power: a reading below shut-down of a good site sets its temperature, level and
delay band, and from its throttle level on the rate it asks for, one at the shut-down level shuts the module down, one out
of range or the third missing fails the site (TB3, it asks for 32/256), a failed site recovers with the tenth good reading;
the quadrant then runs at the lowest rate that its sites have asked for. PMBUS_POLL of VIN takes the draw into the mean, a
third unanswered one loses the telemetry at 780 W; VAUX counts its energy; a new warning is counted and announced with the
status word; a fault shuts down. BUDGET_TICK moves G along its fall or by 20 W per ms, scales the rate and keeps it within
32 to 256. A ceiling alert goes to the floor rate; an unmet budget and the brake act on their fields, the brake beginning a
fall over 0.5 ms, its end one over 4 ms, where P_avg is above the new budget; a budget that rises leaves G, and a fall under
way goes on to it (the model's reading, log 97). (10_dram_controller.md R358; 13_clocks_power_thermal.md R461;
13_clocks_power_thermal.md R462; 13_clocks_power_thermal.md R463; 13_clocks_power_thermal.md R464;
13_clocks_power_thermal.md R465; 13_clocks_power_thermal.md R467; 13_clocks_power_thermal.md R470;
13_clocks_power_thermal.md R471; 13_clocks_power_thermal.md R475; 13_clocks_power_thermal.md R480;
13_clocks_power_thermal.md R482) -/
def Obligations.GatesCounterAndGovernor : Prop :=
  (∀ (g : Fin 8) (s : State),
    let to_ (t : State) (x : Gate) : Prop := ∀ i, t.gate i = if i = g.val then x else s.gate i
    ((s.gate g).state = 0 → ∃ t, exec (.gateClose g) s = .next t ∧ to_ t { s.gate g with state := 1 } ∧
      t = { s with clk := { s.clk with gates := t.clk.gates } }) ∧
    ((s.gate g).state ≠ 0 → exec (.gateClose g) s = .next s) ∧
    ((s.gate g).state ≠ 1 ∨ s.gateIdle g = false → exec (.gateClosed g) s = .next s) ∧
    ((s.gate g).state ≠ 1 → exec (.gateTimeout g) s = .next s) ∧
    ((s.gate g).state = 0 → exec (.gateOpen g) s = .next s) ∧
    ((s.gate g).state ≠ 3 → exec (.gateOpened g) s = .next s) ∧
    ((s.gate g).state = 1 → s.gateIdle g = true → ∃ t, exec (.gateClosed g) s = .next t ∧ to_ t { s.gate g with state := 2 } ∧
      (∀ u, t.bank u = if quadOf u = g.val ∧ g.val < 4 then { s.bank u with nbq := [], open0 := none, open1 := none }
        else s.bank u) ∧ t = { s with clk := { s.clk with gates := t.clk.gates }, banks := t.banks }) ∧
    ((s.gate g).state = 1 → ∃ t, exec (.gateTimeout g) s = .next t ∧
      to_ t { s.gate g with state := 0, timeouts := bump (s.gate g).timeouts 1 } ∧
      t = { s with clk := { s.clk with gates := t.clk.gates }, mgmt := t.mgmt }) ∧
    ((s.gate g).state ≠ 0 → (s.gate g).state ≠ 1 → ∃ t, exec (.gateOpen g) s = .next t ∧
      to_ t { s.gate g with state := 3, demands := (s.gate g).demands + 1 } ∧
      t = { s with clk := { s.clk with gates := t.clk.gates } }) ∧
    ((s.gate g).state = 1 → ∃ t, exec (.gateOpen g) s = .next t ∧ to_ t { s.gate g with state := 0 } ∧
      t = { s with clk := { s.clk with gates := t.clk.gates } }) ∧
    ((s.gate g).state = 3 → ∃ u : State, exec (.gateOpened g) s = .next (if g.val < 4 then (u.pumpQuad g).kvPump else u) ∧
      to_ u { s.gate g with state := 0, demands := 0 } ∧
      (∀ k, u.bank k = if quadOf k = g.val ∧ g.val < 4 then { s.bank k with debt := 0 } else s.bank k) ∧
      (∀ q, u.quad q = if q = g.val ∧ g.val < 4 then { s.quad q with sinceRecess := 0 } else s.quad q) ∧
      u = { s with clk := { s.clk with gates := u.clk.gates }, banks := u.banks, quads := u.quads }) ∧
    ((s.gate g).state = 3 → s.host.inFlight = [] → s.ring.kvWait = [] → (∀ r ∈ s.ring.requests, r.answered = none) → (∀ st, (s.stack st).slateQ = []) →
      ∃ t, exec (.gateOpened g) s = .next t ∧ to_ t { s.gate g with state := 0, demands := 0 } ∧
        (∀ u, t.bank u = if quadOf u = g.val ∧ g.val < 4 then { s.bank u with debt := 0 } else s.bank u) ∧
        (∀ q, t.quad q = if q = g.val ∧ g.val < 4 then { s.quad q with sinceRecess := 0 } else s.quad q) ∧
        (∀ st, t.stack st = s.stack st) ∧ t.mem = s.mem ∧ t.units = s.units ∧ t.ctxs = s.ctxs)) ∧
  (∀ (q : Fin 4) (s : State), s.clk.quadIdle ≠ 0 → s.allDismissed q = true → s.noAccess q = true → (s.gate q).state = 0 →
    ∃ t, exec (.quadIdleGateExpiry q) s = .next t ∧ (∀ i, t.gate i = if i = q.val then { s.gate i with state := 1 } else s.gate i) ∧
      t = { s with clk := { s.clk with gates := t.clk.gates } }) ∧
  (∀ (q : Fin 4) (s : State), s.clk.quadIdle = 0 ∨ s.allDismissed q = false ∨ s.noAccess q = false ∨ (s.gate q).state ≠ 0 →
    exec (.quadIdleGateExpiry q) s = .next s) ∧
  (∀ (count : Word32) (s : State), s.clk.fmc.running = false →
    exec (.fmcDone count) s = .next s ∧ exec .fmcReferenceStall s = .next s) ∧
  (∀ (count : Word32) (s : State), s.clk.fmc.running = true →
    (∃ t, exec (.fmcDone count) s = .next t ∧
      t = { s with clk := { s.clk with fmc := { s.clk.fmc with running := false, status := 2, count := t.clk.fmc.count } } } ∧
      t.clk.fmc.count = if (∃ g, s.clk.fmc.group = some g ∧ s.shutGate g = true) then 0 else count) ∧
    exec .fmcReferenceStall s =
      .next { s with clk := { s.clk with fmc := { s.clk.fmc with running := false, status := 3 } } }) ∧
  (∀ (i : Fin 24) (r : Int) (s : State), s.boot.auxGood = true →
    (-320 ≤ r → r < shutLevel i → (s.site i).failed = false → (s.site i).level ≠ 3 →
      ∃ t, exec (.sensorConversion i (some r)) s = .next t ∧ (t.site i).temp = BitVec.ofInt 16 r ∧ (t.site i).failed = false ∧
        (t.site i).level = (if held (decide ((s.site i).level.toNat ≥ 2)) r (s.therm.throttle i) then 2
          else if held (decide ((s.site i).level.toNat ≥ 1)) r (s.therm.warn i) then 1 else 0) ∧
        (t.site i).asks = (let d := r - s.therm.throttle i
          if 2 ≤ (t.site i).level.toNat ∧ 0 ≤ d then max 32 (256 * (100 - d.toNat) / 100) else 256) ∧
        (∀ m, (t.site i).maxTemp = some m → r ≤ m.toInt ∧ (m = BitVec.ofInt 16 r ∨ (s.site i).maxTemp = some m)) ∧
        (t.site i).maxTemp ≠ none ∧ (∀ j, j ≠ i.val → t.site j = s.site j) ∧
        (4 ≤ i.val → (t.stack (i.val - 4)).bandWanted = BitVec.ofNat 8 (bandAfter (s.stack (i.val - 4)).bandWanted.toNat r)) ∧
        (∀ q, q ≠ quadOfSite i → t.quad q = s.quad q) ∧
        t = { s with therm := t.therm, quads := t.quads, stk := t.stk, mgmt := t.mgmt }) ∧
    (r < -320 ∨ 1200 < r → ∃ t, exec (.sensorConversion i (some r)) s = .next t ∧ (t.site i).failed = true ∧
      (t.site i).asks = (if (s.site i).failed then (s.site i).asks else 32) ∧ (∀ j, j ≠ i.val → t.site j = s.site j) ∧
      (4 ≤ i.val → (s.site i).failed = false → (t.stack (i.val - 4)).bandWanted = 3) ∧
      t = { s with therm := t.therm, quads := t.quads, stk := t.stk, mgmt := t.mgmt }) ∧
    (-320 ≤ r → r ≤ 1200 → shutLevel i ≤ r → (s.site i).failed = false → (s.site i).level ≠ 3 → s.boot.shut = false →
      ∃ t, exec (.sensorConversion i (some r)) s = .next t ∧ (t.site i).level = 3 ∧ t.boot.shut = true ∧
        t.boot.shutCause = (if i.val < 4 then 1 else 2) ∧ (3 ≤ s.boot.stage.val → t.boot.stage = 2 ∧ t.mem = Memory.zero)) ∧
    (-320 ≤ r → r ≤ 1200 → (s.site i).failed = true → (s.site i).goodRun < 9 →
      ∃ t, exec (.sensorConversion i (some r)) s = .next t ∧ (t.site i).failed = true ∧ (t.site i).temp = BitVec.ofInt 16 r ∧
        (t.site i).goodRun = (s.site i).goodRun + 1 ∧ (t.site i).badRun = 0 ∧ (t.site i).level = (s.site i).level ∧
        (t.site i).asks = (s.site i).asks ∧ (∀ j, j ≠ i.val → t.site j = s.site j) ∧
        t = { s with therm := t.therm, quads := t.quads }) ∧
    (-320 ≤ r → r < shutLevel i → (s.site i).failed = true → 9 ≤ (s.site i).goodRun → (s.site i).level ≠ 3 →
      ∃ t, exec (.sensorConversion i (some r)) s = .next t ∧ (t.site i).failed = false ∧ (t.site i).temp = BitVec.ofInt 16 r ∧
        t = { s with therm := t.therm, quads := t.quads, stk := t.stk, mgmt := t.mgmt })) ∧
  (∀ (i : Fin 24) (reading : Option Int) (s : State),
    (s.boot.auxGood = false → exec (.sensorConversion i reading) s = .next s) ∧
    (s.boot.auxGood = true → ∃ t, exec (.sensorConversion i reading) s = .next t ∧ (t.quad (quadOfSite i)).thermalRate =
      (quadSites (quadOfSite i)).foldl (fun (n : Nat) j => min n (t.site j).asks) 256) ∧
    (s.boot.auxGood = true →
      ((s.site i).badRun < 2 → ∃ t, exec (.sensorConversion i none) s = .next t ∧
        (∀ j, t.site j = if j = i.val then { s.site j with badRun := (s.site j).badRun + 1, goodRun := 0 } else s.site j) ∧
        t = { s with therm := t.therm, quads := t.quads }) ∧
      (2 ≤ (s.site i).badRun → ∃ t, exec (.sensorConversion i none) s = .next t ∧ (t.site i).failed = true ∧
        ((s.site i).failed = false → (t.site i).fails = bump (s.site i).fails 1) ∧
        t = { s with therm := t.therm, quads := t.quads, stk := t.stk, mgmt := t.mgmt }))) ∧
  (∀ (i : Fin 8) (answer : Option PmbusAnswer) (mw : Nat) (w f : Bool) (s : State),
    (s.boot.auxGood = false → exec (.pmbusPoll i answer mw w f) s = .next s) ∧
    (s.boot.auxGood = true →
      (i ≠ 0 → exec (.pmbusPoll i none mw w f) s = .next s) ∧
      (s.pow.unanswered < 2 → exec (.pmbusPoll 0 none mw w f) s =
        .next { s with pow := { s.pow with unanswered := s.pow.unanswered + 1 } }) ∧
      (2 ≤ s.pow.unanswered → ∃ t, exec (.pmbusPoll 0 none mw w f) s = .next t ∧ t.pow = { s.pow with
        unanswered := s.pow.unanswered + 1, telemetryLost := true, pAvg := 780000 } ∧ t = { s with pow := t.pow, mgmt := t.mgmt }) ∧
      (∀ d : PmbusAnswer, i ≠ 0 → s.pow.regWarning.getLsbD i = false → w = true → f = false →
        ∃ t, exec (.pmbusPoll i (some d) mw w f) s = .next t ∧ t.pow.warnings = s.pow.warnings + 1 ∧
          t.pow.regWarning = s.pow.regWarning ||| (1#8 <<< i.val) ∧ tget 0 t.pow.rails i = d.telemetry ∧
          t.mgmt = s.mgmt.emcy s.ring.timebase 0x3200 i d.status.toNat 0xFF 0 ∧
          (i = 1 → t.pow.vauxPoll = mw ∧ t.pow.energy = s.pow.energy + 100 * mw) ∧
          (i ≠ 1 → t.pow.pAvg = s.pow.pAvg ∧ t.pow.energy = s.pow.energy) ∧
          t = { s with pow := t.pow, mgmt := t.mgmt }))) ∧
  (∀ (w : PmbusAnswer) (mw : Nat) (s : State), s.boot.auxGood = true →
    (∃ t, exec (.pmbusPoll 0 (some w) mw false false) s = .next t ∧ t.pow.vinPolls = (mw :: s.pow.vinPolls).take 10 ∧
      t.pow.pAvg = t.pow.vinPolls.foldl (· + ·) 0 / t.pow.vinPolls.length + s.pow.vauxPoll ∧
      t.pow.energy = s.pow.energy + mw ∧ tget 0 t.pow.rails 0 = w.telemetry ∧ t.pow.telemetryLost = false ∧
      t = { s with pow := t.pow, mgmt := t.mgmt }) ∧
    (∀ i : Fin 8, s.boot.shut = false → ∃ t, exec (.pmbusPoll i (some w) mw false true) s = .next t ∧ t.boot.shut = true ∧
      t.boot.shutCause = 3 ∧ (3 ≤ s.boot.stage.val → t.boot.stage = 2 ∧ t.mem = Memory.zero))) ∧
  (∀ s : State, s.boot.fwRunning = true → ∃ t, exec .budgetTick s = .next t ∧ 32 ≤ t.pow.budgetRate ∧ t.pow.budgetRate ≤ 256 ∧
    t.pow.pAvg = s.pow.pAvg ∧ (s.pow.ramp = none → t.pow.g = min (1000 * s.budgetInForce) (s.pow.g + 2000)) ∧
    (t.pow.g < t.pow.pAvg → t.pow.g ≤ t.pow.pBase → t.pow.budgetRate = 32) ∧
    (32 ≤ s.pow.budgetRate → s.pow.budgetRate ≤ 256 → t.pow.pAvg = t.pow.g ∨ t.pow.pAvg < t.pow.g ∧ t.pow.pAvg ≤ t.pow.pBase →
      t.pow.budgetRate = s.pow.budgetRate) ∧
    (let scaled := s.pow.budgetRate * (t.pow.g - t.pow.pBase) / (t.pow.pAvg - t.pow.pBase)
     (t.pow.pBase < t.pow.g → t.pow.g < t.pow.pAvg → t.pow.budgetRate = max 32 (min 256 scaled)) ∧
     (t.pow.pBase < t.pow.pAvg → t.pow.pAvg < t.pow.g →
        t.pow.budgetRate = max 32 (min 256 (max s.pow.budgetRate scaled)))) ∧
    (∀ r, s.pow.ramp = some r → r.length ≤ r.elapsed + 100 → t.pow.g = r.target ∧ t.pow.ramp = none) ∧
    (∀ r, s.pow.ramp = some r → r.elapsed + 100 < r.length →
      t.pow.g = r.start - (r.start - r.target) * (r.elapsed + 100) / r.length) ∧
    t = { s with pow := t.pow, mgmt := t.mgmt }) ∧
  (∀ s : State, s.boot.fwRunning = false → exec .budgetTick s = .next s) ∧
  (∀ s : State, ∃ t, exec .inputCeilingAlert s = .next t ∧
    t.pow = { s.pow with budgetRate := 32, g := s.pow.pAvg, ramp := none, ceilings := bump s.pow.ceilings 1 } ∧
    t.mgmt.logCount = bump s.mgmt.logCount 1 ∧ t = { s with pow := t.pow, mgmt := t.mgmt }) ∧
  (∀ s : State, 100 ≤ s.pow.floorTicks → s.pow.budgetUnmet = false → ∃ t, exec .budgetUnmet s = .next t ∧
    t.pow = { s.pow with budgetUnmet := true } ∧ t = { s with pow := t.pow, mgmt := t.mgmt }) ∧
  (∀ s : State, s.pow.floorTicks < 100 ∨ s.pow.budgetUnmet = true → exec .budgetUnmet s = .next s) ∧
  (∀ (asserted : Bool) (s : State), s.boot.pwrBrakeN = !asserted → exec (.pwrBrakeN asserted) s = .next s) ∧
  (∀ (asserted : Bool) (s : State), s.boot.pwrBrakeN = asserted → ∃ t, exec (.pwrBrakeN asserted) s = .next t ∧
    (t.budgetInForce = s.budgetInForce → t.pow = s.pow) ∧
    (t.budgetInForce < s.budgetInForce → 1000 * t.budgetInForce < s.pow.pAvg → t.pow.g = s.pow.pAvg ∧
      t.pow.ramp = some ⟨s.pow.pAvg, 1000 * t.budgetInForce, if asserted then 500 else 4000, 0⟩) ∧
    (t.budgetInForce < s.budgetInForce → s.pow.pAvg ≤ 1000 * t.budgetInForce →
      t.pow.g = min s.pow.g (1000 * t.budgetInForce) ∧ t.pow.ramp = none) ∧
    (s.budgetInForce < t.budgetInForce → t.pow.g = s.pow.g ∧ t.pow.ramp = s.pow.ramp.bind (fun r =>
      if 1000 * t.budgetInForce < s.pow.g then some ⟨s.pow.g, 1000 * t.budgetInForce, r.length - r.elapsed, 0⟩ else none)) ∧
    t.boot = { s.boot with pwrBrakeN := !asserted } ∧
    t.budgetInForce = (if asserted then min s.pow.budget.toNat s.pow.brakeBudget.toNat else s.pow.budget.toNat) ∧
    t.pow = { s.pow with g := t.pow.g, ramp := t.pow.ramp } ∧ t = { s with boot := t.boot, pow := t.pow })

/-- An attempt enables the crystal; the eighth good measurement in a row begins B1 with the crystal as source, a bad one
starts the count anew; at its end a failed attempt disables it, the fourth sets CLK_FAULT. From B3 a second bad measurement
in a row puts the crystal on judgement, a missing edge loses it. A judgement with REFCLK and the link keeps both oscillators
within their limits, else loses the crystal, or marks the ITO. B2 captures the calibration status and starts the first valid
slot. B3 turns rails and PLLs on, B4 releases the port, B5 zeroes memory, tries failed stacks again, writes the calibration
record's TIMING images into the shadow registers sets the points and begins the scrub passes, B6 joins if enabled, B7 is
ready with normal ordering. Before B3 a trip or a missing edge is a failed attempt back in B0. At any other stage, or
without what they need, these commands change nothing. (13_clocks_power_thermal.md R452; 13_clocks_power_thermal.md R453;
13_clocks_power_thermal.md R455; 13_clocks_power_thermal.md R456; 13_clocks_power_thermal.md R457;
13_clocks_power_thermal.md R458; 15_security_and_startup.md R528; 15_security_and_startup.md R537;
15_security_and_startup.md R538; 15_security_and_startup.md R540; 16_modes_errors_recovery.md R559;
17_electrical_mechanical.md R567) -/
def Obligations.StartUpRunsThroughItsStages : Prop :=
  ∀ s : State,
    (s.boot.auxGood = true → s.boot.heldB0 = false → s.boot.stage = 0 → s.clk.xtalEnabled = false →
      s.clk.seriesFailed = false → exec .xtalStartAttempt s = .next { s with clk := { s.clk with
        xtalEnabled := true, inWindow := 0, attempts := s.clk.attempts + 1 } }) ∧
    (s.boot.auxGood = false ∨ s.boot.heldB0 = true ∨ s.boot.stage ≠ 0 ∨ s.clk.xtalEnabled = true ∨ s.clk.seriesFailed = true →
      exec .xtalStartAttempt s = .next s) ∧
    (s.boot.stage ≠ 0 ∨ s.clk.xtalEnabled = false → exec .xtalAttemptTimeout s = .next s) ∧
    (s.boot.stage = 0 → s.clk.xtalEnabled = false → ∀ count, exec (.stabilityMeasurement count) s = .next s) ∧
    (s.boot.stage ≠ 0 → s.clk.monitor = false → exec .xtalNoEdge s = .next s ∧
      ∀ count, exec (.stabilityMeasurement count) s = .next s) ∧
    (s.clk.judging = none → ∀ xtal ito refclk, exec (.tripJudgement xtal ito refclk) s = .next s) ∧
    (s.boot.stage ≠ 1 → exec .stageB2 s = .next s) ∧
    (s.boot.stage ≠ 2 ∨ s.boot.fwRunning = false ∨ s.boot.mainPresent = false ∨ s.boot.shut = true ∨
      (s.boot.cool = true ∧ s.coolEnough = false) → exec .stageB3 s = .next s) ∧
    (s.boot.stage ≠ 3 → exec .stageB4 s = .next s) ∧ (s.boot.stage ≠ 4 → exec .stageB5 s = .next s) ∧
    (s.boot.stage ≠ 5 → exec .stageB6 s = .next s) ∧
    (s.boot.stage ≠ 6 ∨ s.ring.state = 1 → exec .stageB7 s = .next s) ∧
    (s.boot.stage = 0 → s.clk.xtalEnabled = true → ∃ t, exec .xtalAttemptTimeout s = .next t ∧ t.clk.xtalEnabled = false ∧
      (s.clk.attempts.toNat < 4 → t.clk.clkFault = s.clk.clkFault ∧ t.clk.seriesFailed = s.clk.seriesFailed ∧ t.mgmt = s.mgmt) ∧
      (4 ≤ s.clk.attempts.toNat → t.clk.clkFault = true ∧ t.clk.seriesFailed = true) ∧
      t = { s with clk := t.clk, mgmt := t.mgmt }) ∧
    (s.boot.stage = 0 → s.clk.xtalEnabled = true → ∀ count,
      (count < 3775 ∨ 4089 < count → exec (.stabilityMeasurement count) s =
        .next { s with clk := { s.clk with inWindow := 0 } }) ∧
      (3775 ≤ count → count ≤ 4089 → s.clk.inWindow < 7 → exec (.stabilityMeasurement count) s =
        .next { s with clk := { s.clk with inWindow := s.clk.inWindow + 1, lastGood := count } }) ∧
      (3775 ≤ count → count ≤ 4089 → s.clk.inWindow = 7 → s.mgmt.stored.valid = false →
        ∃ t, exec (.stabilityMeasurement count) s = .next t ∧ t.boot.stage = 1 ∧ t.boot.loaded = true ∧ t.clk.source = 1 ∧
          t.clk.monitor = !s.clk.itoFault ∧ t.mgmt.nodeId = s.boot.straps ∧ t.mgmt.nmt = .preOperational ∧ t.mem = s.mem)) ∧
    (s.boot.stage ≠ 0 → s.clk.monitor = true → ∀ count,
      (3775 ≤ count → count ≤ 4089 → exec (.stabilityMeasurement count) s =
        .next { s with clk := { s.clk with outWindow := 0, lastGood := count } }) ∧
      (count < 3775 ∨ 4089 < count → s.clk.outWindow = 0 → exec (.stabilityMeasurement count) s =
        .next { s with clk := { s.clk with outWindow := 1 } })) ∧
    (s.boot.stage ≠ 0 → s.boot.stage.val < 3 → s.clk.monitor = true →
      let back (t : State) : Prop := t.boot = { s.boot with stage := 0, fwRunning := false } ∧
        t.clk.trips = bump s.clk.trips 1 ∧ t.clk.xtalEnabled = false ∧ t.clk.source = 0 ∧ t.clk.monitor = false ∧
        (4 ≤ s.clk.attempts.toNat → t.clk.clkFault = true ∧ t.clk.seriesFailed = true) ∧ t.mgmt.nmt = .initialisation ∧
        t = { s with boot := t.boot, clk := t.clk, mgmt := t.mgmt }
      (∃ t, exec .xtalNoEdge s = .next t ∧ back t) ∧
      (∀ count, count < 3775 ∨ 4089 < count → 1 ≤ s.clk.outWindow →
        ∃ t, exec (.stabilityMeasurement count) s = .next t ∧ back t)) ∧
    (3 ≤ s.boot.stage.val → s.clk.monitor = true → s.clk.judging ≠ none → ∀ count, 1 ≤ s.clk.outWindow →
      count < 3775 ∨ 4089 < count → exec (.stabilityMeasurement count) s =
        .next { s with clk := { s.clk with outWindow := 0, trips := bump s.clk.trips 1 } }) ∧
    (3 ≤ s.boot.stage.val → s.clk.monitor = true → (∀ count, s.clk.judging = none → 1 ≤ s.clk.outWindow →
        count < 3775 ∨ 4089 < count → exec (.stabilityMeasurement count) s = .next { s with clk := { s.clk with
          outWindow := 0, trips := bump s.clk.trips 1, judging := some count } }) ∧
      (∃ t, exec .xtalNoEdge s = .next t ∧ t.clk.source = 0 ∧ t.clk.xtalLost = true ∧ t.clk.monitor = false ∧
        t.clk.trips = bump s.clk.trips 1 ∧ t.ring.ownFault = true ∧ t.boot = s.boot ∧
        t = { s with clk := t.clk, ring := t.ring, mgmt := t.mgmt })) ∧
    (∀ (xtal ito : Nat) (refclk : Bool) (count : Nat), s.clk.judging = some count →
      let linked := refclk = true ∧ (s.boot.cxlReleased = false ∨ s.host.linkState ≠ 0)
      (linked → offNominal xtal 384 2 = false → offNominal ito 400 15 = false → exec (.tripJudgement xtal ito refclk) s =
        .next { s with clk := { s.clk with judging := none, refclk := refclk } }) ∧
      (¬ linked ∨ offNominal xtal 384 2 = true → ∃ t, exec (.tripJudgement xtal ito refclk) s = .next t ∧
        t.clk.xtalLost = true ∧ t.clk.source = 0 ∧ t.clk.itoFault = s.clk.itoFault ∧ t.ring.ownFault = true ∧
        t = { s with clk := t.clk, ring := t.ring, mgmt := t.mgmt }) ∧
      (linked → offNominal xtal 384 2 = false → offNominal ito 400 15 = true →
        ∃ t, exec (.tripJudgement xtal ito refclk) s = .next t ∧ t.clk.itoFault = true ∧ t.clk.monitor = false ∧
          t.clk.xtalLost = s.clk.xtalLost ∧ t.clk.source = s.clk.source ∧ t = { s with clk := t.clk, mgmt := t.mgmt })) ∧
    (s.boot.stage = 1 → ∃ t, exec .stageB2 s = .next t ∧ t.boot.stage = 2 ∧ t.sec.calStatus = calCheck Config.calRecord ∧
      t.sec.identityGood = Config.identityMatches ∧
      (calCheck Config.calRecord ≠ 0 ∨ (∀ i ∈ s.slotOrder, fwValid (s.fwImage i) = false) →
        t.boot.fwRunning = s.boot.fwRunning ∧ t.sec.activeSlot = s.sec.activeSlot ∧ t.sec.nextSlot = s.sec.nextSlot) ∧
      (calCheck Config.calRecord = 0 → ∀ i, s.slotOrder.find? (fun i => fwValid (s.fwImage i)) = some i →
        t.boot.fwRunning = true ∧ t.sec.activeSlot = BitVec.ofNat 8 i ∧ t.sec.nextSlot = 255) ∧
      t = { s with boot := t.boot, clk := t.clk, sec := t.sec }) ∧
    (s.boot.stage = 2 → s.boot.fwRunning = true → s.boot.mainPresent = true → s.boot.shut = false →
      (s.boot.cool = false ∨ s.coolEnough = true) → exec .stageB3 s =
        .next { s with boot := { s.boot with stage := 3, rails := 0x3F, plls := true, cool := false } }) ∧
    (s.boot.stage = 3 → ∃ t, exec .stageB4 s = .next t ∧ t.boot = { s.boot with stage := 4, cxlReleased := true } ∧
      t.host = (if s.boot.perstN then { s.host with linkState := 1, linkWidth := 0, linkSpeed := 0 } else s.host) ∧
      t = { s with boot := t.boot, host := t.host }) ∧
    (s.boot.stage = 4 → ∃ t, exec .stageB5 s = .next t ∧ t.boot = { s.boot with stage := 5, stacksUp := true } ∧
      t.mem = Memory.zero ∧
      (∀ u, t.bank u = { s.bank u with act := [], open0 := none, open1 := none, debt := 0, nbq := [] }) ∧
      (∀ k, t.stack k =
        { s.stack k with
          failed := false, ueLogged := false, band := (s.stack k).bandWanted, timing := (t.stack k).timing
          scrubFrom := (t.stack k).scrubFrom, scrubDone := (t.stack k).scrubDone }) ∧
      (∀ k, k < 20 → (t.stack k).scrubFrom = s.ring.timebase ∧ (t.stack k).scrubDone = 0) ∧
      (∀ k p, k < 20 → p < 4 → tget [] (t.stack k).timing p = timingImage p ∧ tget [] (t.stack k).timing (4 + p) = timingImage p) ∧
      (∀ q, q < 4 → t.quad q = { s.quad q with
        point := if s.clk.xtalLost then 3 else s.pow.fastLimit.toNat
        chosen := none, changing := false, issuedHere := 0, lateAt := [], forced := false, sinceRecess := 0 }) ∧
      (s.health.retired.length + s.health.queued.length ≤ 65536 → ∀ p ∈ s.health.queued, p ∈ t.health.retired) ∧
      t = { s with boot := t.boot, mem := t.mem, banks := t.banks, stk := t.stk, quads := t.quads, health := t.health,
                   mgmt := t.mgmt }) ∧
    (s.boot.stage = 5 → (s.ring.enable ≠ 1 → exec .stageB6 s = .next { s with boot := { s.boot with stage := 6 } }) ∧
      (s.ring.enable = 1 → s.outOfRing = false → exec .stageB6 s = .next { s with boot := { s.boot with stage := 6 } }) ∧
      (s.ring.enable = 1 → s.outOfRing = true → ∃ t, exec .stageB6 s = .next t ∧ t.boot = { s.boot with stage := 6 } ∧
        t.ring = { s.ring with state := 1, ports := t.ring.ports } ∧
        (∀ p, p < 4 → t.port p = { s.port p with st := 1 }) ∧
        t = { s with boot := t.boot, ring := t.ring, clk := { s.clk with gates := t.clk.gates } })) ∧
    (s.boot.stage = 6 → s.ring.state ≠ 1 → exec .stageB7 s =
      .next { s with boot := { s.boot with stage := 7 }, sync := { s.sync with ordering := 0 } })

/-- Without the port nothing is answered and nothing changes; what follows is with it released. Identify and Get Health Info
answer at any stage, the others Busy before B7. At B7: Get Event Records answers the records of its log, Clear Event Records
removes them; Get Timestamp answers the time set plus what has passed; the log commands and Get FW Info answer; Transfer FW
with the operator's session writes only the inactive slot (full, or begun, continued and ended) and Activate FW names a
valid slot for the next start; without such a session, or online, they are unsupported, another slot is invalid, a second
transfer waits its turn, and a continuation of none is answered with a code the spec does not name (free). SPDM: GET_VERSION
begins anew, capabilities, algorithms, digests, certificate, challenge and measurements follow in that order, each out of
turn, or for what the module does not have, refused with no change; measurements are counted. Nothing else changes.
(11_host_coupling.md R364; 11_host_coupling.md R376; 11_host_coupling.md R405; 15_security_and_startup.md R525;
15_security_and_startup.md R527; 15_security_and_startup.md R529; 15_security_and_startup.md R533;
15_security_and_startup.md R534) -/
def Obligations.CxlAndSpdmCommandsAnswer : Prop :=
  (∀ s : State, s.boot.cxlReleased = false → ∀ (log : BitVec 8) (v : Word64) (a : FwAction) (slot : BitVec 8) (off len : Nat)
      (data : List Byte) (on ml sha sig : Bool) (nonce : BitVec 256),
    ∀ i ∈ ([.identifyMemoryDevice, .getHealthInfo, .getEventRecords log, .clearEventRecords log, .getTimestamp, .setTimestamp v,
        .getSupportedLogs, .getLog, .getFwInfo, .transferFw a slot off data, .activateFw on slot, .getVersion, .getCapabilities,
        .negotiateAlgorithms ml sha, .getDigests, .getCertificate slot off len, .challenge slot nonce,
        .getMeasurements sig slot nonce] : List Instr), exec i s = .next s) ∧
  ∀ s : State, s.boot.cxlReleased = true →
    let cxl (i : Instr) (t : State) (rc : Rc) (bs : List Byte) : Prop := exec i s = .next (t.cxlAnswer rc bs)
    let doe (i : Instr) (t : State) (ok : Bool) (bs : List Byte) : Prop := exec i s = .next (t.spdmAnswer ok bs)
    (cxl .identifyMemoryDevice s .success (toLe 8 1374657970176 ++ Config.answerBytes 0x4000) ∧
      cxl .getHealthInfo s .success (Config.answerBytes 0x4200)) ∧
    (s.boot.stage ≠ 7 → ∀ (log : BitVec 8) (t : Word64), cxl (.getEventRecords log) s .busy [] ∧
      cxl (.clearEventRecords log) s .busy [] ∧ cxl .getTimestamp s .busy [] ∧ cxl (.setTimestamp t) s .busy [] ∧
      cxl .getFwInfo s .busy [] ∧ cxl .getSupportedLogs s .busy [] ∧ cxl .getLog s .busy [] ∧
      ∀ (a : FwAction) (slot : BitVec 8) (off : Nat) (data : List Byte) (online : Bool),
        cxl (.transferFw a slot off data) s .busy [] ∧ cxl (.activateFw online slot) s .busy []) ∧
    (s.boot.stage = 7 →
      (∀ log : BitVec 8,
        (∃ bs, cxl (.getEventRecords log) s .success bs ∧ bs.length = 9 * (s.eventsOf log.toNat).length) ∧
        (∃ t, cxl (.clearEventRecords log) t .success [] ∧ t.eventsOf log.toNat = [] ∧
          (∀ k, k ≠ log.toNat → t.eventsOf k = s.eventsOf k) ∧ t = { s with host := { s.host with events := t.host.events } })) ∧
      (∀ v : Word64, cxl (.setTimestamp v)
        { s with host := { s.host with timestamp := some (v - BitVec.ofNat 64 s.ring.timebase) } } .success []) ∧
      (∀ d, s.host.timestamp = some d → cxl .getTimestamp s .success (bytesOf 8 (d + BitVec.ofNat 64 s.ring.timebase))) ∧
      (s.host.timestamp = none → cxl .getTimestamp s .success (List.replicate 8 0)) ∧
      cxl .getSupportedLogs s .success (Config.answerBytes 0x0400) ∧ cxl .getLog s .success (Config.answerBytes 0x0401) ∧
      (∃ bs, cxl .getFwInfo s .success bs ∧ bs.take 2 = [2, s.sec.activeSlot + 1]) ∧
      (∀ (a : FwAction) (slot : BitVec 8) (off : Nat) (data : List Byte) (online : Bool),
        (s.operatorOpen = false ∨ online = true → cxl (.activateFw online slot) s .unsupported []) ∧
        (s.operatorOpen = false → cxl (.transferFw a slot off data) s .unsupported []) ∧
        (s.operatorOpen = true → fwSlotOf slot = none → cxl (.activateFw false slot) s .invalidSlot []) ∧
        (s.operatorOpen = true → s.host.fwTransfer = none →
          (a = .full ∨ a = .initiate → fwSlotOf slot = none ∨ fwSlotOf slot = some s.sec.activeSlot.toNat →
            cxl (.transferFw a slot off data) s .invalidSlot []) ∧
          (a ≠ .full → a ≠ .initiate → ∃ t r, cxl (.transferFw a slot off data) t (.unnamed r) [] ∧ t = { s with free := t.free })) ∧
        (s.operatorOpen = true → s.host.fwTransfer ≠ none → a = .full ∨ a = .initiate →
          cxl (.transferFw a slot off data) s .transferInProgress [])) ∧
      (s.operatorOpen = true → ∀ (slot : BitVec 8) (i : Nat) (off : Nat) (data : List Byte),
        let slots (t : State) (image : List Byte) (x : Option (Nat × List Byte)) : Prop :=
          (∀ k, tget none t.sec.slots k = if k = i then some image else tget none s.sec.slots k) ∧
          t = { s with sec := { s.sec with slots := t.sec.slots }, host := { s.host with fwTransfer := x } }
        (fwSlotOf slot = some i → i ≠ s.sec.activeSlot.toNat → s.host.fwTransfer = none →
          (∃ t, cxl (.transferFw .full slot off data) t (if fwValid data then .success else .authFailed) [] ∧ slots t data none) ∧
          (∃ t, cxl (.transferFw .initiate slot off data) t .success [] ∧ slots t [] (some (i, placeAt [] off data)))) ∧
        (∀ m, s.host.fwTransfer = some (i, m) →
          cxl (.transferFw .continue slot off data)
            { s with host := { s.host with fwTransfer := some (i, placeAt m off data) } } .success [] ∧
          (∃ t, cxl (.transferFw .endAction slot off data) t
            (if fwValid (placeAt m off data) then .success else .authFailed) [] ∧ slots t (placeAt m off data) none) ∧
          cxl (.transferFw .abort slot off data) { s with host := { s.host with fwTransfer := none } } .success []) ∧
        (fwSlotOf slot = some i → fwValid (s.fwImage i) = true →
          cxl (.activateFw false slot) { s with sec := { s.sec with nextSlot := BitVec.ofNat 8 i } } .success []) ∧
        (fwSlotOf slot = some i → fwValid (s.fwImage i) = false → cxl (.activateFw false slot) s .invalidSlot []))) ∧
    doe .getVersion { s with sec := { s.sec with
      spdmVersion := true, spdmCaps := false, spdmAlgs := false, spdmSigns := false } } true [0x13] ∧
    (s.sec.spdmVersion = false → doe .getCapabilities s false []) ∧
    (∀ ml sha, s.sec.spdmCaps = false ∨ sha = false → doe (.negotiateAlgorithms ml sha) s false []) ∧
    (∀ (slot index : BitVec 8) (off len : Nat) (nonce : BitVec 256) (sig : Bool),
      (slot ≠ 0 ∨ s.sec.identityGood = false → doe (.getCertificate slot off len) s false []) ∧
      (slot ≠ 0 ∨ s.sec.identityGood = false ∨ s.sec.spdmSigns = false → doe (.challenge slot nonce) s false []) ∧
      (s.measured index.toNat = none ∨ sig = true ∧ s.sec.spdmSigns = false → doe (.getMeasurements sig index nonce) s false [])) ∧
    (s.sec.spdmVersion = true → doe .getCapabilities { s with sec := { s.sec with spdmCaps := true } } true
      (Config.answerBytes 0xE1)) ∧
    (s.sec.spdmCaps = true → ∀ ml, doe (.negotiateAlgorithms ml true)
      { s with sec := { s.sec with spdmAlgs := true, spdmSigns := ml } } true [if ml then 1 else 0]) ∧
    (s.sec.spdmAlgs = true → doe .getDigests s true (sha3 Config.certChain) ∧
      (∀ off len, s.sec.identityGood = true →
        doe (.getCertificate 0 off len) s true ((Config.certChain.drop off).take len)) ∧
      (∀ nonce, s.sec.spdmSigns = true → s.sec.identityGood = true →
        doe (.challenge 0 nonce) s true (sha3 Config.certChain ++
          Config.mlDsaSign (bytesOf 32 nonce ++ sha3 Config.certChain))) ∧
      (∀ (sig : Bool) (index : BitVec 8) (nonce : BitVec 256) (b : List Byte), (sig = true → s.sec.spdmSigns = true) →
        s.measured index.toNat = some b → doe (.getMeasurements sig index nonce)
          { s with sec := { s.sec with spdmRequests := bump s.sec.spdmRequests 1 } } true
          (if sig then b ++ Config.mlDsaSign (bytesOf 32 nonce ++ b) else b))) ∧
    (s.sec.spdmAlgs = false → ∀ (off len : Nat) (slot index : BitVec 8) (nonce : BitVec 256) (sig : Bool),
      doe .getDigests s false [] ∧ doe (.getCertificate slot off len) s false [] ∧ doe (.challenge slot nonce) s false [] ∧
      doe (.getMeasurements sig index nonce) s false [])

/-- With the port up and past initialisation: START, STOP and ENTER_PRE_OPERATIONAL set the NMT state; RESET_COMMUNICATION
reads the straps again and returns to pre-operational, RESET_NODE also clears the error register and history (no values
stored). HEARTBEAT sends the state byte; a TPDO of a running node sends its content. USDO: an upload of a value answers it,
a download, expedited or in segments, writes and answers or aborts; a new request meanwhile, and a segment of another entry,
is refused and the transfer goes on; a segment of none does nothing (log 60); a timeout drops the transfer, with an abort
where the server runs. A DOMAIN is uploaded in segments of 56 bytes. The oldest waiting emergency is sent, or 0x8110 with
the count of those lost. Error counters lead into and out of error passive, or to bus-off, counted; BUS_OFF_RECOVERY makes
the node active. Silent, off the bus, in initialisation or where the state forbids it, a command changes nothing. Nothing
else changes. (14_object_dictionary.md R493; 14_object_dictionary.md R502; 14_object_dictionary.md R503;
14_object_dictionary.md R505; 14_object_dictionary.md R507; 14_object_dictionary.md R508; 14_object_dictionary.md R509;
14_object_dictionary.md R511) -/
def Obligations.CanFdNodeActs : Prop :=
  (∀ s : State, s.canUp = false ∨ s.mgmt.nmt = .initialisation → ∀ (t : Fin 4) (idx : BitVec 16) (sub : BitVec 8)
      (value : List Byte) (part : UsdoPart) (ask : UsdoAsk),
    ∀ i ∈ ([.startRemoteNode, .stopRemoteNode, .enterPreOperational, .resetCommunication, .resetNode, .heartbeat, .emcySend, .tpdo t,
        .usdoDownload idx sub value part, .usdoUpload idx ask] : List Instr), exec i s = .next s) ∧
  (∀ s : State, (s.mgmt.heartbeat = 0 → exec .heartbeat s = .next s) ∧
    (∀ t : Fin 4, s.canUp = false ∨ s.mgmt.nmt ≠ .operational ∨ s.mgmt.period t = 0 → exec (.tpdo t) s = .next s) ∧
    (s.mgmt.nmt = .stopped ∨ s.mgmt.emcyLost = false ∧ s.mgmt.emcyQ = [] → exec .emcySend s = .next s) ∧
    (s.mgmt.nmt = .stopped → ∀ (idx : BitVec 16) (sub : BitVec 8) (value : List Byte) (part : UsdoPart) (ask : UsdoAsk),
      exec (.usdoDownload idx sub value part) s = .next s ∧ exec (.usdoUpload idx ask) s = .next s) ∧
    (s.mgmt.usdo = none → exec .usdoSegmentTimeout s = .next s) ∧
    (s.mgmt.canState ≠ .busOff → exec .busOffRecovery s = .next s) ∧
    (∀ (st : CanState) (tec : BitVec 16), s.canSilent = true ∨ s.mgmt.canState = .busOff →
      exec (.canBusError st tec) s = .next s) ∧
    (∀ tec : BitVec 16, s.canSilent = false → s.mgmt.canState ≠ .busOff →
      (∃ t, exec (.canBusError .active tec) s = .next t ∧ t.mgmt.canState = .active ∧ t.mgmt.tec = tec ∧
        t.mgmt.conditions = s.mgmt.conditions.erase (0x8120, 0) ∧ t = { s with mgmt := t.mgmt }) ∧
      (∃ t, exec (.canBusError .passive tec) s = .next t ∧ t.mgmt.canState = .passive ∧ t.mgmt.tec = tec ∧
        (0x8120, 0) ∈ t.mgmt.conditions ∧ t = { s with mgmt := t.mgmt }))) ∧
  (∀ s : State, s.canUp = true → s.mgmt.nmt ≠ .initialisation →
    exec .startRemoteNode s = .next { s with mgmt := { s.mgmt with nmt := .operational } } ∧
    exec .stopRemoteNode s = .next { s with mgmt := { s.mgmt with nmt := .stopped } } ∧
    exec .enterPreOperational s = .next { s with mgmt := { s.mgmt with nmt := .preOperational } } ∧
    (s.mgmt.stored.valid = false →
      (∃ t, exec .resetCommunication s = .next t ∧
        t.mgmt = { s.mgmt with nmt := .preOperational, nodeId := s.boot.straps, usdo := none } ∧
        t = { s with mgmt := t.mgmt, out := t.out }) ∧
      (∃ t, exec .resetNode s = .next t ∧ t.mgmt = { s.mgmt with
          nmt := .preOperational, nodeId := s.boot.straps, usdo := none, conditions := [], history := [] } ∧
        t = { s with mgmt := t.mgmt, out := t.out })) ∧
    (s.mgmt.heartbeat ≠ 0 → exec .heartbeat s = .next (s.emit (.can (0x700 + s.mgmt.nodeId.toNat) [match s.mgmt.nmt with
      | .operational => 5
      | .stopped => 4
      | _ => 0x7F]))) ∧
    (∀ t : Fin 4, s.mgmt.nmt = .operational → s.mgmt.period t ≠ 0 →
      exec (.tpdo t) s = .next (s.emit (.can (0x180 + 0x100 * t.val + s.mgmt.nodeId.toNat) (s.tpdoContent t)))) ∧
    (∀ e es, s.mgmt.nmt ≠ .stopped → s.mgmt.emcyLost = false → s.mgmt.emcyQ = e :: es → exec .emcySend s =
      .next (State.emit { s with mgmt := { s.mgmt with emcyQ := es } } (.can (0x80 + s.mgmt.nodeId.toNat)
        (bytesOf 2 e.code ++ [e.register, e.inst] ++ bytesOf 4 e.value ++ toLe 8 e.time)))) ∧
    (s.mgmt.nmt ≠ .stopped → s.mgmt.emcyLost = true → ∃ t e, exec .emcySend s = .next t ∧
      t.out = .can (0x80 + s.mgmt.nodeId.toNat) e :: s.out ∧ e.take 2 = bytesOf 2 (0x8110#16) ∧
      (e.drop 4).take 4 = bytesOf 4 (BitVec.ofNat 32 s.mgmt.emcyDropped.toNat) ∧
      t.mgmt.emcyQ = s.mgmt.emcyQ ∧ t.mgmt.emcyLost = false ∧ t = { s with mgmt := t.mgmt, out := t.out }) ∧
    (∀ (idx : BitVec 16) (sub : BitVec 8) (value : List Byte), s.mgmt.nmt ≠ .stopped →
      let abort (a : Word32) : Output := .abort (0x580 + s.mgmt.nodeId.toNat) a
      let answer (bs : List Byte) : Output := .can (0x580 + s.mgmt.nodeId.toNat) (bytesOf 2 idx ++ [sub] ++ bs)
      let a := s.odWriteAbort none idx.toNat sub.toNat value
      let domain := (odEntry idx.toNat sub.toNat).map (·.ty) = some .domain
      let u : State := { s with mgmt := { s.mgmt with usdo := none } }
      let piece (bs : List Byte) : State :=
        { s with mgmt := { s.mgmt with usdo := if (bs.drop 56).isEmpty then none else some (idx, sub, bs.drop 56, true) },
                 out := answer (bs.take 56) :: s.out }
      (s.mgmt.usdo = none →
        (a ≠ Abort.none → exec (.usdoDownload idx sub value .expedited) s = .next (s.emit (abort a))) ∧
        (a = Abort.none → idx ≠ 0x2903 → ∃ t n, exec (.usdoDownload idx sub value .expedited) s = .next t ∧
          t.out.head? = some (.can n (bytesOf 2 idx ++ [sub])) ∧
          t = { s.odSet none idx.toNat sub.toNat (leNat value) with out := t.out }) ∧
        exec (.usdoDownload idx sub value .first) s =
          .next { s with mgmt := { s.mgmt with usdo := some (idx, sub, value, false) } } ∧
        exec (.usdoDownload idx sub value .middle) s = .next s ∧ exec (.usdoDownload idx sub value .last) s = .next s ∧
        exec (.usdoUpload idx ⟨sub, true⟩) s = .next s ∧
        (s.odReadAbort idx.toNat sub.toNat ≠ Abort.none →
          exec (.usdoUpload idx ⟨sub, false⟩) s = .next (s.emit (abort (s.odReadAbort idx.toNat sub.toNat)))) ∧
        (s.odReadAbort idx.toNat sub.toNat = Abort.none →
          (¬ domain → exec (.usdoUpload idx ⟨sub, false⟩) s = .next (s.emit (answer (s.odValue idx.toNat sub.toNat)))) ∧
          (domain → exec (.usdoUpload idx ⟨sub, false⟩) s = .next (piece (s.odValue idx.toNat sub.toNat))))) ∧
      (s.mgmt.usdo ≠ none →
        exec (.usdoDownload idx sub value .expedited) s = .next (s.emit (abort Abort.busy)) ∧
        exec (.usdoDownload idx sub value .first) s = .next (s.emit (abort Abort.busy)) ∧
        exec (.usdoUpload idx ⟨sub, false⟩) s = .next (s.emit (abort Abort.busy))) ∧
      (∀ bs, s.mgmt.usdo = some (idx, sub, bs, true) → exec (.usdoUpload idx ⟨sub, true⟩) s = .next (piece bs)) ∧
      (∀ bs, s.mgmt.usdo = some (idx, sub, bs, false) →
        exec (.usdoDownload idx sub value .middle) s =
          .next { s with mgmt := { s.mgmt with usdo := some (idx, sub, bs ++ value, false) } } ∧
        exec (.usdoDownload idx sub value .last) s = exec (.usdoDownload idx sub (bs ++ value) .expedited) u) ∧
      (∀ i j bs up part, s.mgmt.usdo = some (i, j, bs, up) → i ≠ idx ∨ j ≠ sub →
        exec (.usdoDownload idx sub value part) s = .next (s.emit (abort Abort.busy)) ∧
        exec (.usdoUpload idx ⟨sub, true⟩) s = .next (s.emit (abort Abort.busy))))) ∧
  (∀ s : State, s.mgmt.usdo ≠ none → let u : State := { s with mgmt := { s.mgmt with usdo := none } }
    (s.usdoUp = true → exec .usdoSegmentTimeout s =
      .next (u.emit (.abort (0x580 + s.mgmt.nodeId.toNat) Abort.segmentTimeout))) ∧
    (s.usdoUp = false → exec .usdoSegmentTimeout s = .next u)) ∧
  (∀ (tec : BitVec 16) (s : State), s.canSilent = false → s.mgmt.canState ≠ .busOff →
    ∃ t, exec (.canBusError .busOff tec) s = .next t ∧ t.mgmt = { s.mgmt with
        canState := .busOff, tec := tec, busOffs := bump s.mgmt.busOffs 1 } ∧ t.canUp = false ∧ t = { s with mgmt := t.mgmt }) ∧
  (∀ s : State, s.mgmt.canState = .busOff → ∃ t, exec .busOffRecovery s = .next t ∧ t.mgmt.canState = .active ∧
    t.mgmt.tec = 0 ∧ t = { s with mgmt := t.mgmt })
end

