-- ==== Sys2Proof/Laws/Tables.lean ====
section
/-! SUPPORT. The laws of the sparse tables: a read after a write, and the canonical form that every operation keeps. -/

set_option Elab.async false

namespace Sys2Proof.Machine

variable {V : Type}

theorem tget_tdel_same (d : V) (t : Table V) (i : Nat) : tget d (tdel t i) i = d := by
  induction t with
  | nil => rfl
  | cons p t ih =>
    obtain ⟨k, v⟩ := p
    by_cases h : k = i
    · subst h; simpa [tdel] using ih
    · have : i ≠ k := fun e => h e.symm
      simp [tdel, h, tget, this] at ih ⊢; exact ih

theorem tget_tdel_ne (d : V) (t : Table V) {i j : Nat} (h : j ≠ i) : tget d (tdel t i) j = tget d t j := by
  induction t with
  | nil => rfl
  | cons p t ih =>
    obtain ⟨k, v⟩ := p
    by_cases hk : k = i
    · subst hk; simpa [tdel, tget, h] using ih
    · simp [tdel, hk, tget] at ih ⊢; rw [ih]

theorem tget_tins_same (d : V) (t : Table V) (i : Nat) (x : V) (h : ∀ p ∈ t, p.1 ≠ i) : tget d (tins t i x) i = x := by
  induction t with
  | nil => simp [tins, tget]
  | cons p t ih =>
    obtain ⟨k, v⟩ := p
    have hk : i ≠ k := fun e => h (k, v) (by simp) e.symm
    simp only [tins]
    split
    · simp [tget]
    · simp only [tget, hk, if_false]
      exact ih (fun p hp => h p (by simp [hp]))

theorem tget_tins_ne (d : V) (t : Table V) {i j : Nat} (x : V) (h : j ≠ i) : tget d (tins t i x) j = tget d t j := by
  induction t with
  | nil => simp [tins, tget, h]
  | cons p t ih =>
    obtain ⟨k, v⟩ := p
    simp only [tins]
    split
    · simp [tget, h]
    · simp only [tget]; rw [ih]

@[simp] theorem tget_nil (d : V) (i : Nat) : tget d ([] : Table V) i = d := rfl

theorem mem_tdel_ne (t : Table V) (i : Nat) : ∀ p ∈ tdel t i, p.1 ≠ i := by
  intro p hp
  simpa [tdel] using (List.mem_filter.mp hp).2

variable [DecidableEq V]

/-- A read of the key just written gives the value written. -/
@[simp] theorem tget_tset_same (d : V) (t : Table V) (i : Nat) (x : V) : tget d (tset d t i x) i = x := by
  unfold tset
  split
  · next h => rw [h]; exact tget_tdel_same d t i
  · exact tget_tins_same d _ i x (mem_tdel_ne t i)

/-- A write leaves every other key alone. -/
theorem tget_tset_ne (d : V) (t : Table V) {i j : Nat} (x : V) (h : j ≠ i) : tget d (tset d t i x) j = tget d t j := by
  unfold tset
  split
  · exact tget_tdel_ne d t h
  · rw [tget_tins_ne d _ x h, tget_tdel_ne d t h]

/-- The read of any key after a write. -/
theorem tget_tset (d : V) (t : Table V) (i j : Nat) (x : V) :
    tget d (tset d t i x) j = if j = i then x else tget d t j := by
  split
  · next h => rw [h]; exact tget_tset_same d t i x
  · next h => exact tget_tset_ne d t x h

/-! ## The canonical form -/

/-- The canonical form in words: keys strictly rising, no entry equal to the default. -/
theorem twf_iff (d : V) (t : Table V) :
    twf d t = true ↔ (t.Pairwise (fun a b => a.1 < b.1)) ∧ ∀ p ∈ t, p.2 ≠ d := by
  induction t with
  | nil => simp [twf]
  | cons p t ih =>
    obtain ⟨k, v⟩ := p
    cases t with
    | nil => simp [twf]
    | cons q t =>
      obtain ⟨k', v'⟩ := q
      simp only [twf, Bool.and_eq_true, decide_eq_true_eq, ih, List.pairwise_cons]
      constructor
      · rintro ⟨⟨hv, hk⟩, ⟨h1, h2⟩, h3⟩
        refine ⟨⟨?_, h1, h2⟩, ?_⟩
        · intro a ha
          rcases List.mem_cons.mp ha with h | h
          · subst h; exact hk
          · exact lt_trans hk (h1 a h)
        · intro a ha
          rcases List.mem_cons.mp ha with h | h
          · subst h; exact hv
          · exact h3 a h
      · rintro ⟨⟨h1, h2⟩, h3⟩
        exact ⟨⟨h3 (k, v) (by simp), h1 (k', v') (by simp)⟩, h2, fun a ha => h3 a (by simp [ha])⟩

theorem twf_filter (d : V) (t : Table V) (p : Nat × V → Bool) (h : twf d t = true) : twf d (t.filter p) = true := by
  rw [twf_iff] at h ⊢
  exact ⟨h.1.filter p, fun a ha => h.2 a (List.mem_filter.mp ha).1⟩

theorem twf_tdel (d : V) (t : Table V) (i : Nat) (h : twf d t = true) : twf d (tdel t i) = true := twf_filter d t _ h

theorem mem_tins (t : Table V) (i : Nat) (x : V) (p : Nat × V) : p ∈ tins t i x ↔ p = (i, x) ∨ p ∈ t := by
  induction t with
  | nil => simp [tins]
  | cons q t ih =>
    obtain ⟨k, v⟩ := q
    simp only [tins]
    split
    · simp
    · simp [ih]; tauto

theorem twf_tins (d : V) (t : Table V) (i : Nat) (x : V) (h : twf d t = true) (hi : ∀ p ∈ t, p.1 ≠ i) (hx : x ≠ d) :
    twf d (tins t i x) = true := by
  rw [twf_iff] at h ⊢
  refine ⟨?_, ?_⟩
  · induction t with
    | nil => simp [tins]
    | cons q t ih =>
      obtain ⟨k, v⟩ := q
      have hp := List.pairwise_cons.mp h.1
      simp only [tins]
      split
      · next hlt =>
        refine List.pairwise_cons.mpr ⟨?_, h.1⟩
        intro a ha
        rcases List.mem_cons.mp ha with e | e
        · subst e; exact hlt
        · exact lt_trans hlt (hp.1 a e)
      · next hlt =>
        have hk : k ≠ i := hi (k, v) (by simp)
        refine List.pairwise_cons.mpr ⟨?_, ih ⟨hp.2, fun a ha => h.2 a (by simp [ha])⟩ (fun a ha => hi a (by simp [ha]))⟩
        intro a ha
        rcases (mem_tins t i x a).mp ha with e | e
        · subst e; simp only; omega
        · exact hp.1 a e
  · intro a ha
    rcases (mem_tins t i x a).mp ha with e | e
    · subst e; exact hx
    · exact h.2 a e

/-- A write keeps the canonical form. -/
theorem twf_tset (d : V) (t : Table V) (i : Nat) (x : V) (h : twf d t = true) : twf d (tset d t i x) = true := by
  unfold tset
  split
  · exact twf_tdel d t i h
  · next hx => exact twf_tins d _ i x (twf_tdel d t i h) (mem_tdel_ne t i) hx

theorem twf_tmod (d : V) (t : Table V) (i : Nat) (f : V → V) (h : twf d t = true) : twf d (tmod d t i f) = true :=
  twf_tset d t i _ h

/-- A change of several entries keeps the canonical form. -/
theorem twf_tmodAll (d : V) (t : Table V) (is : List Nat) (f : Nat → V → V) (h : twf d t = true) :
    twf d (tmodAll d t is f) = true := by
  unfold tmodAll
  induction is generalizing t with
  | nil => exact h
  | cons i is ih => exact ih _ (twf_tmod d t i (f i) h)

/-- A change of the listed entries that satisfy a test keeps the canonical form. -/
theorem twf_tmap (d : V) (t : Table V) (p : Nat → Bool) (f : V → V) (h : twf d t = true) : twf d (tmap d t p f) = true := by
  have step : ∀ (l acc : Table V), twf d acc = true →
      twf d (l.foldl (fun acc x => if p x.1 then tset d acc x.1 (f (tget d t x.1)) else acc) acc) = true := by
    intro l
    induction l with
    | nil => intro acc h; exact h
    | cons x l ih =>
      intro acc h
      apply ih
      beta_reduce
      split
      · exact twf_tset d acc x.1 _ h
      · exact h
  exact step t t h

omit [DecidableEq V] in
theorem tget_of_not_mem (d : V) (t : Table V) (i : Nat) (h : i ∉ t.map (·.1)) : tget d t i = d := by
  induction t with
  | nil => rfl
  | cons x t ih =>
    simp only [List.map_cons, List.mem_cons, not_or] at h
    simp only [tget, if_neg h.1]
    exact ih h.2

/-- What a table reads after a change of the listed entries that satisfy a test and that leaves the default. -/
theorem tget_tmap (d : V) (t : Table V) (p : Nat → Bool) (f : V → V) (hf : f d = d) (j : Nat) :
    tget d (tmap d t p f) j = if p j then f (tget d t j) else tget d t j := by
  have step : ∀ (l acc : Table V), tget d (l.foldl (fun acc x => if p x.1 then tset d acc x.1 (f (tget d t x.1)) else acc) acc) j =
      if p j = true ∧ j ∈ l.map (·.1) then f (tget d t j) else tget d acc j := by
    intro l
    induction l with
    | nil => intro acc; simp
    | cons x l ih =>
      intro acc
      rw [List.foldl_cons, ih]
      by_cases hm : j ∈ l.map (·.1)
      · by_cases hp : p j = true <;> simp [hm, hp]
        split
        · rw [tget_tset_ne]; intro hx; simp_all
        · rfl
      · by_cases hx : j = x.1
        · subst hx; by_cases hp : p x.1 = true <;> simp [hm, hp]
        · have : ¬ (p j = true ∧ j ∈ (x :: l).map (·.1)) := by simp_all
          rw [if_neg this, if_neg (by simp [hm])]
          split
          · rw [tget_tset_ne _ _ _ hx]
          · rfl
  unfold tmap
  rw [step]
  by_cases hm : j ∈ t.map (·.1)
  · simp [hm]
  · rw [if_neg (by simp [hm]), tget_of_not_mem d t j hm]
    simp [hf]

/-! ## Bytes -/

theorem twf_writeBytes (t : Table Byte) (a : Nat) (bs : List Byte) (h : twf 0 t = true) :
    twf 0 (writeBytes t a bs) = true := by
  induction bs generalizing t a with
  | nil => exact h
  | cons b bs ih => exact ih _ _ (twf_tset 0 t a b h)

/-- Bytes outside the ones written keep their value. -/
theorem tget_writeBytes_out (t : Table Byte) (a : Nat) (bs : List Byte) (i : Nat) (h : i < a ∨ a + bs.length ≤ i) :
    tget 0 (writeBytes t a bs) i = tget 0 t i := by
  induction bs generalizing t a with
  | nil => rfl
  | cons b bs ih =>
    simp only [writeBytes, List.length_cons] at h ⊢
    rw [ih _ _ (by omega), tget_tset_ne 0 t b (by omega)]

/-- Byte i of the ones written reads back. -/
theorem tget_writeBytes_in (t : Table Byte) (a : Nat) (bs : List Byte) (i : Nat) (h : i < bs.length) :
    tget 0 (writeBytes t a bs) (a + i) = bs[i] := by
  induction bs generalizing t a i with
  | nil => simp at h
  | cons b bs ih =>
    cases i with
    | zero => simp only [writeBytes, Nat.add_zero]; rw [tget_writeBytes_out _ _ _ _ (by omega)]; simp
    | succ i =>
      have := ih (tset 0 t a b) (a + 1) i (by simpa using h)
      simp only [writeBytes, List.getElem_cons_succ]
      rw [← this]; congr 1; omega

theorem readBytes_length (t : Table Byte) (a n : Nat) : (readBytes t a n).length = n := by
  induction n generalizing a with
  | zero => rfl
  | succ n ih => simp [readBytes, ih]

theorem readBytes_congr (t u : Table Byte) (a n : Nat) (h : ∀ i, a ≤ i → i < a + n → tget 0 t i = tget 0 u i) :
    readBytes t a n = readBytes u a n := by
  induction n generalizing a with
  | zero => rfl
  | succ n ih =>
    simp only [readBytes]
    rw [h a (by omega) (by omega), ih (a + 1) (fun i h1 h2 => h i (by omega) (by omega))]

theorem readBytes_writeBytes_out (t : Table Byte) (a b n : Nat) (bs : List Byte) (h : a + n ≤ b ∨ b + bs.length ≤ a) :
    readBytes (writeBytes t b bs) a n = readBytes t a n :=
  readBytes_congr _ _ _ _ (fun i h1 h2 => tget_writeBytes_out t b bs i (by omega))

/-- A read of the bytes just written gives them back. -/
theorem readBytes_writeBytes_same (t : Table Byte) (a : Nat) (bs : List Byte) :
    readBytes (writeBytes t a bs) a bs.length = bs := by
  induction bs generalizing t a with
  | nil => rfl
  | cons b bs ih =>
    simp only [List.length_cons, readBytes, writeBytes]
    rw [ih, tget_writeBytes_out _ _ _ _ (by omega)]
    simp

end Sys2Proof.Machine
end

