-- ==== Sys2Proof/Laws/State.lean ====
section
/-! SUPPORT. The laws of the state's accessors: one lemma per field per update, and what a read gives after a write. -/

set_option Elab.async false

namespace Sys2Proof.Machine

/-! ## Fields an update leaves alone -/

@[simp] theorem State.setQuad_pending (s : State) (q : Nat) (x : Quad) : (s.setQuad q x).pending = s.pending := (rfl)
@[simp] theorem State.setQuad_free (s : State) (q : Nat) (x : Quad) : (s.setQuad q x).free = s.free := (rfl)
@[simp] theorem State.setQuad_out (s : State) (q : Nat) (x : Quad) : (s.setQuad q x).out = s.out := (rfl)
@[simp] theorem State.setQuad_boot (s : State) (q : Nat) (x : Quad) : (s.setQuad q x).boot = s.boot := (rfl)
@[simp] theorem State.setQuad_clk (s : State) (q : Nat) (x : Quad) : (s.setQuad q x).clk = s.clk := (rfl)
@[simp] theorem State.setQuad_pow (s : State) (q : Nat) (x : Quad) : (s.setQuad q x).pow = s.pow := (rfl)
@[simp] theorem State.setQuad_therm (s : State) (q : Nat) (x : Quad) : (s.setQuad q x).therm = s.therm := (rfl)
@[simp] theorem State.setQuad_mem (s : State) (q : Nat) (x : Quad) : (s.setQuad q x).mem = s.mem := (rfl)
@[simp] theorem State.setQuad_health (s : State) (q : Nat) (x : Quad) : (s.setQuad q x).health = s.health := (rfl)
@[simp] theorem State.setQuad_stk (s : State) (q : Nat) (x : Quad) : (s.setQuad q x).stk = s.stk := (rfl)
@[simp] theorem State.setQuad_banks (s : State) (q : Nat) (x : Quad) : (s.setQuad q x).banks = s.banks := (rfl)
@[simp] theorem State.setQuad_units (s : State) (q : Nat) (x : Quad) : (s.setQuad q x).units = s.units := (rfl)
@[simp] theorem State.setQuad_ctxs (s : State) (q : Nat) (x : Quad) : (s.setQuad q x).ctxs = s.ctxs := (rfl)
@[simp] theorem State.setQuad_cfgs (s : State) (q : Nat) (x : Quad) : (s.setQuad q x).cfgs = s.cfgs := (rfl)
@[simp] theorem State.setQuad_sync (s : State) (q : Nat) (x : Quad) : (s.setQuad q x).sync = s.sync := (rfl)
@[simp] theorem State.setQuad_host (s : State) (q : Nat) (x : Quad) : (s.setQuad q x).host = s.host := (rfl)
@[simp] theorem State.setQuad_ring (s : State) (q : Nat) (x : Quad) : (s.setQuad q x).ring = s.ring := (rfl)
@[simp] theorem State.setQuad_mgmt (s : State) (q : Nat) (x : Quad) : (s.setQuad q x).mgmt = s.mgmt := (rfl)
@[simp] theorem State.setQuad_sec (s : State) (q : Nat) (x : Quad) : (s.setQuad q x).sec = s.sec := (rfl)

@[simp] theorem State.modQuad_pending (s : State) (q : Nat) (f : Quad → Quad) : (s.modQuad q f).pending = s.pending := (rfl)
@[simp] theorem State.modQuad_free (s : State) (q : Nat) (f : Quad → Quad) : (s.modQuad q f).free = s.free := (rfl)
@[simp] theorem State.modQuad_out (s : State) (q : Nat) (f : Quad → Quad) : (s.modQuad q f).out = s.out := (rfl)
@[simp] theorem State.modQuad_boot (s : State) (q : Nat) (f : Quad → Quad) : (s.modQuad q f).boot = s.boot := (rfl)
@[simp] theorem State.modQuad_clk (s : State) (q : Nat) (f : Quad → Quad) : (s.modQuad q f).clk = s.clk := (rfl)
@[simp] theorem State.modQuad_pow (s : State) (q : Nat) (f : Quad → Quad) : (s.modQuad q f).pow = s.pow := (rfl)
@[simp] theorem State.modQuad_therm (s : State) (q : Nat) (f : Quad → Quad) : (s.modQuad q f).therm = s.therm := (rfl)
@[simp] theorem State.modQuad_mem (s : State) (q : Nat) (f : Quad → Quad) : (s.modQuad q f).mem = s.mem := (rfl)
@[simp] theorem State.modQuad_health (s : State) (q : Nat) (f : Quad → Quad) : (s.modQuad q f).health = s.health := (rfl)
@[simp] theorem State.modQuad_stk (s : State) (q : Nat) (f : Quad → Quad) : (s.modQuad q f).stk = s.stk := (rfl)
@[simp] theorem State.modQuad_banks (s : State) (q : Nat) (f : Quad → Quad) : (s.modQuad q f).banks = s.banks := (rfl)
@[simp] theorem State.modQuad_units (s : State) (q : Nat) (f : Quad → Quad) : (s.modQuad q f).units = s.units := (rfl)
@[simp] theorem State.modQuad_ctxs (s : State) (q : Nat) (f : Quad → Quad) : (s.modQuad q f).ctxs = s.ctxs := (rfl)
@[simp] theorem State.modQuad_cfgs (s : State) (q : Nat) (f : Quad → Quad) : (s.modQuad q f).cfgs = s.cfgs := (rfl)
@[simp] theorem State.modQuad_sync (s : State) (q : Nat) (f : Quad → Quad) : (s.modQuad q f).sync = s.sync := (rfl)
@[simp] theorem State.modQuad_host (s : State) (q : Nat) (f : Quad → Quad) : (s.modQuad q f).host = s.host := (rfl)
@[simp] theorem State.modQuad_ring (s : State) (q : Nat) (f : Quad → Quad) : (s.modQuad q f).ring = s.ring := (rfl)
@[simp] theorem State.modQuad_mgmt (s : State) (q : Nat) (f : Quad → Quad) : (s.modQuad q f).mgmt = s.mgmt := (rfl)
@[simp] theorem State.modQuad_sec (s : State) (q : Nat) (f : Quad → Quad) : (s.modQuad q f).sec = s.sec := (rfl)

@[simp] theorem State.modSlot_pending (s : State) (q i : Nat) (f : Slot → Slot) : (s.modSlot q i f).pending = s.pending := (rfl)
@[simp] theorem State.modSlot_free (s : State) (q i : Nat) (f : Slot → Slot) : (s.modSlot q i f).free = s.free := (rfl)
@[simp] theorem State.modSlot_out (s : State) (q i : Nat) (f : Slot → Slot) : (s.modSlot q i f).out = s.out := (rfl)
@[simp] theorem State.modSlot_boot (s : State) (q i : Nat) (f : Slot → Slot) : (s.modSlot q i f).boot = s.boot := (rfl)
@[simp] theorem State.modSlot_clk (s : State) (q i : Nat) (f : Slot → Slot) : (s.modSlot q i f).clk = s.clk := (rfl)
@[simp] theorem State.modSlot_pow (s : State) (q i : Nat) (f : Slot → Slot) : (s.modSlot q i f).pow = s.pow := (rfl)
@[simp] theorem State.modSlot_therm (s : State) (q i : Nat) (f : Slot → Slot) : (s.modSlot q i f).therm = s.therm := (rfl)
@[simp] theorem State.modSlot_mem (s : State) (q i : Nat) (f : Slot → Slot) : (s.modSlot q i f).mem = s.mem := (rfl)
@[simp] theorem State.modSlot_health (s : State) (q i : Nat) (f : Slot → Slot) : (s.modSlot q i f).health = s.health := (rfl)
@[simp] theorem State.modSlot_stk (s : State) (q i : Nat) (f : Slot → Slot) : (s.modSlot q i f).stk = s.stk := (rfl)
@[simp] theorem State.modSlot_banks (s : State) (q i : Nat) (f : Slot → Slot) : (s.modSlot q i f).banks = s.banks := (rfl)
@[simp] theorem State.modSlot_units (s : State) (q i : Nat) (f : Slot → Slot) : (s.modSlot q i f).units = s.units := (rfl)
@[simp] theorem State.modSlot_ctxs (s : State) (q i : Nat) (f : Slot → Slot) : (s.modSlot q i f).ctxs = s.ctxs := (rfl)
@[simp] theorem State.modSlot_cfgs (s : State) (q i : Nat) (f : Slot → Slot) : (s.modSlot q i f).cfgs = s.cfgs := (rfl)
@[simp] theorem State.modSlot_sync (s : State) (q i : Nat) (f : Slot → Slot) : (s.modSlot q i f).sync = s.sync := (rfl)
@[simp] theorem State.modSlot_host (s : State) (q i : Nat) (f : Slot → Slot) : (s.modSlot q i f).host = s.host := (rfl)
@[simp] theorem State.modSlot_ring (s : State) (q i : Nat) (f : Slot → Slot) : (s.modSlot q i f).ring = s.ring := (rfl)
@[simp] theorem State.modSlot_mgmt (s : State) (q i : Nat) (f : Slot → Slot) : (s.modSlot q i f).mgmt = s.mgmt := (rfl)
@[simp] theorem State.modSlot_sec (s : State) (q i : Nat) (f : Slot → Slot) : (s.modSlot q i f).sec = s.sec := (rfl)

@[simp] theorem State.setCtx_pending (s : State) (c : Nat) (x : Ctx) : (s.setCtx c x).pending = s.pending := (rfl)
@[simp] theorem State.setCtx_free (s : State) (c : Nat) (x : Ctx) : (s.setCtx c x).free = s.free := (rfl)
@[simp] theorem State.setCtx_out (s : State) (c : Nat) (x : Ctx) : (s.setCtx c x).out = s.out := (rfl)
@[simp] theorem State.setCtx_boot (s : State) (c : Nat) (x : Ctx) : (s.setCtx c x).boot = s.boot := (rfl)
@[simp] theorem State.setCtx_clk (s : State) (c : Nat) (x : Ctx) : (s.setCtx c x).clk = s.clk := (rfl)
@[simp] theorem State.setCtx_pow (s : State) (c : Nat) (x : Ctx) : (s.setCtx c x).pow = s.pow := (rfl)
@[simp] theorem State.setCtx_therm (s : State) (c : Nat) (x : Ctx) : (s.setCtx c x).therm = s.therm := (rfl)
@[simp] theorem State.setCtx_mem (s : State) (c : Nat) (x : Ctx) : (s.setCtx c x).mem = s.mem := (rfl)
@[simp] theorem State.setCtx_health (s : State) (c : Nat) (x : Ctx) : (s.setCtx c x).health = s.health := (rfl)
@[simp] theorem State.setCtx_stk (s : State) (c : Nat) (x : Ctx) : (s.setCtx c x).stk = s.stk := (rfl)
@[simp] theorem State.setCtx_banks (s : State) (c : Nat) (x : Ctx) : (s.setCtx c x).banks = s.banks := (rfl)
@[simp] theorem State.setCtx_units (s : State) (c : Nat) (x : Ctx) : (s.setCtx c x).units = s.units := (rfl)
@[simp] theorem State.setCtx_quads (s : State) (c : Nat) (x : Ctx) : (s.setCtx c x).quads = s.quads := (rfl)
@[simp] theorem State.setCtx_cfgs (s : State) (c : Nat) (x : Ctx) : (s.setCtx c x).cfgs = s.cfgs := (rfl)
@[simp] theorem State.setCtx_sync (s : State) (c : Nat) (x : Ctx) : (s.setCtx c x).sync = s.sync := (rfl)
@[simp] theorem State.setCtx_host (s : State) (c : Nat) (x : Ctx) : (s.setCtx c x).host = s.host := (rfl)
@[simp] theorem State.setCtx_ring (s : State) (c : Nat) (x : Ctx) : (s.setCtx c x).ring = s.ring := (rfl)
@[simp] theorem State.setCtx_mgmt (s : State) (c : Nat) (x : Ctx) : (s.setCtx c x).mgmt = s.mgmt := (rfl)
@[simp] theorem State.setCtx_sec (s : State) (c : Nat) (x : Ctx) : (s.setCtx c x).sec = s.sec := (rfl)

@[simp] theorem State.modCtx_pending (s : State) (c : Nat) (f : Ctx → Ctx) : (s.modCtx c f).pending = s.pending := (rfl)
@[simp] theorem State.modCtx_free (s : State) (c : Nat) (f : Ctx → Ctx) : (s.modCtx c f).free = s.free := (rfl)
@[simp] theorem State.modCtx_out (s : State) (c : Nat) (f : Ctx → Ctx) : (s.modCtx c f).out = s.out := (rfl)
@[simp] theorem State.modCtx_boot (s : State) (c : Nat) (f : Ctx → Ctx) : (s.modCtx c f).boot = s.boot := (rfl)
@[simp] theorem State.modCtx_clk (s : State) (c : Nat) (f : Ctx → Ctx) : (s.modCtx c f).clk = s.clk := (rfl)
@[simp] theorem State.modCtx_pow (s : State) (c : Nat) (f : Ctx → Ctx) : (s.modCtx c f).pow = s.pow := (rfl)
@[simp] theorem State.modCtx_therm (s : State) (c : Nat) (f : Ctx → Ctx) : (s.modCtx c f).therm = s.therm := (rfl)
@[simp] theorem State.modCtx_mem (s : State) (c : Nat) (f : Ctx → Ctx) : (s.modCtx c f).mem = s.mem := (rfl)
@[simp] theorem State.modCtx_health (s : State) (c : Nat) (f : Ctx → Ctx) : (s.modCtx c f).health = s.health := (rfl)
@[simp] theorem State.modCtx_stk (s : State) (c : Nat) (f : Ctx → Ctx) : (s.modCtx c f).stk = s.stk := (rfl)
@[simp] theorem State.modCtx_banks (s : State) (c : Nat) (f : Ctx → Ctx) : (s.modCtx c f).banks = s.banks := (rfl)
@[simp] theorem State.modCtx_units (s : State) (c : Nat) (f : Ctx → Ctx) : (s.modCtx c f).units = s.units := (rfl)
@[simp] theorem State.modCtx_quads (s : State) (c : Nat) (f : Ctx → Ctx) : (s.modCtx c f).quads = s.quads := (rfl)
@[simp] theorem State.modCtx_cfgs (s : State) (c : Nat) (f : Ctx → Ctx) : (s.modCtx c f).cfgs = s.cfgs := (rfl)
@[simp] theorem State.modCtx_sync (s : State) (c : Nat) (f : Ctx → Ctx) : (s.modCtx c f).sync = s.sync := (rfl)
@[simp] theorem State.modCtx_host (s : State) (c : Nat) (f : Ctx → Ctx) : (s.modCtx c f).host = s.host := (rfl)
@[simp] theorem State.modCtx_ring (s : State) (c : Nat) (f : Ctx → Ctx) : (s.modCtx c f).ring = s.ring := (rfl)
@[simp] theorem State.modCtx_mgmt (s : State) (c : Nat) (f : Ctx → Ctx) : (s.modCtx c f).mgmt = s.mgmt := (rfl)
@[simp] theorem State.modCtx_sec (s : State) (c : Nat) (f : Ctx → Ctx) : (s.modCtx c f).sec = s.sec := (rfl)

@[simp] theorem State.modCfg_pending (s : State) (c : Nat) (f : CtxCfg → CtxCfg) : (s.modCfg c f).pending = s.pending := (rfl)
@[simp] theorem State.modCfg_free (s : State) (c : Nat) (f : CtxCfg → CtxCfg) : (s.modCfg c f).free = s.free := (rfl)
@[simp] theorem State.modCfg_out (s : State) (c : Nat) (f : CtxCfg → CtxCfg) : (s.modCfg c f).out = s.out := (rfl)
@[simp] theorem State.modCfg_boot (s : State) (c : Nat) (f : CtxCfg → CtxCfg) : (s.modCfg c f).boot = s.boot := (rfl)
@[simp] theorem State.modCfg_clk (s : State) (c : Nat) (f : CtxCfg → CtxCfg) : (s.modCfg c f).clk = s.clk := (rfl)
@[simp] theorem State.modCfg_pow (s : State) (c : Nat) (f : CtxCfg → CtxCfg) : (s.modCfg c f).pow = s.pow := (rfl)
@[simp] theorem State.modCfg_therm (s : State) (c : Nat) (f : CtxCfg → CtxCfg) : (s.modCfg c f).therm = s.therm := (rfl)
@[simp] theorem State.modCfg_mem (s : State) (c : Nat) (f : CtxCfg → CtxCfg) : (s.modCfg c f).mem = s.mem := (rfl)
@[simp] theorem State.modCfg_health (s : State) (c : Nat) (f : CtxCfg → CtxCfg) : (s.modCfg c f).health = s.health := (rfl)
@[simp] theorem State.modCfg_stk (s : State) (c : Nat) (f : CtxCfg → CtxCfg) : (s.modCfg c f).stk = s.stk := (rfl)
@[simp] theorem State.modCfg_banks (s : State) (c : Nat) (f : CtxCfg → CtxCfg) : (s.modCfg c f).banks = s.banks := (rfl)
@[simp] theorem State.modCfg_units (s : State) (c : Nat) (f : CtxCfg → CtxCfg) : (s.modCfg c f).units = s.units := (rfl)
@[simp] theorem State.modCfg_quads (s : State) (c : Nat) (f : CtxCfg → CtxCfg) : (s.modCfg c f).quads = s.quads := (rfl)
@[simp] theorem State.modCfg_ctxs (s : State) (c : Nat) (f : CtxCfg → CtxCfg) : (s.modCfg c f).ctxs = s.ctxs := (rfl)
@[simp] theorem State.modCfg_sync (s : State) (c : Nat) (f : CtxCfg → CtxCfg) : (s.modCfg c f).sync = s.sync := (rfl)
@[simp] theorem State.modCfg_host (s : State) (c : Nat) (f : CtxCfg → CtxCfg) : (s.modCfg c f).host = s.host := (rfl)
@[simp] theorem State.modCfg_ring (s : State) (c : Nat) (f : CtxCfg → CtxCfg) : (s.modCfg c f).ring = s.ring := (rfl)
@[simp] theorem State.modCfg_mgmt (s : State) (c : Nat) (f : CtxCfg → CtxCfg) : (s.modCfg c f).mgmt = s.mgmt := (rfl)
@[simp] theorem State.modCfg_sec (s : State) (c : Nat) (f : CtxCfg → CtxCfg) : (s.modCfg c f).sec = s.sec := (rfl)

@[simp] theorem State.modStack_pending (s : State) (i : Nat) (f : Stack → Stack) : (s.modStack i f).pending = s.pending := (rfl)
@[simp] theorem State.modStack_free (s : State) (i : Nat) (f : Stack → Stack) : (s.modStack i f).free = s.free := (rfl)
@[simp] theorem State.modStack_out (s : State) (i : Nat) (f : Stack → Stack) : (s.modStack i f).out = s.out := (rfl)
@[simp] theorem State.modStack_boot (s : State) (i : Nat) (f : Stack → Stack) : (s.modStack i f).boot = s.boot := (rfl)
@[simp] theorem State.modStack_clk (s : State) (i : Nat) (f : Stack → Stack) : (s.modStack i f).clk = s.clk := (rfl)
@[simp] theorem State.modStack_pow (s : State) (i : Nat) (f : Stack → Stack) : (s.modStack i f).pow = s.pow := (rfl)
@[simp] theorem State.modStack_therm (s : State) (i : Nat) (f : Stack → Stack) : (s.modStack i f).therm = s.therm := (rfl)
@[simp] theorem State.modStack_mem (s : State) (i : Nat) (f : Stack → Stack) : (s.modStack i f).mem = s.mem := (rfl)
@[simp] theorem State.modStack_health (s : State) (i : Nat) (f : Stack → Stack) : (s.modStack i f).health = s.health := (rfl)
@[simp] theorem State.modStack_banks (s : State) (i : Nat) (f : Stack → Stack) : (s.modStack i f).banks = s.banks := (rfl)
@[simp] theorem State.modStack_units (s : State) (i : Nat) (f : Stack → Stack) : (s.modStack i f).units = s.units := (rfl)
@[simp] theorem State.modStack_quads (s : State) (i : Nat) (f : Stack → Stack) : (s.modStack i f).quads = s.quads := (rfl)
@[simp] theorem State.modStack_ctxs (s : State) (i : Nat) (f : Stack → Stack) : (s.modStack i f).ctxs = s.ctxs := (rfl)
@[simp] theorem State.modStack_cfgs (s : State) (i : Nat) (f : Stack → Stack) : (s.modStack i f).cfgs = s.cfgs := (rfl)
@[simp] theorem State.modStack_sync (s : State) (i : Nat) (f : Stack → Stack) : (s.modStack i f).sync = s.sync := (rfl)
@[simp] theorem State.modStack_host (s : State) (i : Nat) (f : Stack → Stack) : (s.modStack i f).host = s.host := (rfl)
@[simp] theorem State.modStack_ring (s : State) (i : Nat) (f : Stack → Stack) : (s.modStack i f).ring = s.ring := (rfl)
@[simp] theorem State.modStack_mgmt (s : State) (i : Nat) (f : Stack → Stack) : (s.modStack i f).mgmt = s.mgmt := (rfl)
@[simp] theorem State.modStack_sec (s : State) (i : Nat) (f : Stack → Stack) : (s.modStack i f).sec = s.sec := (rfl)

@[simp] theorem State.modBank_pending (s : State) (u : Nat) (f : Bank → Bank) : (s.modBank u f).pending = s.pending := (rfl)
@[simp] theorem State.modBank_free (s : State) (u : Nat) (f : Bank → Bank) : (s.modBank u f).free = s.free := (rfl)
@[simp] theorem State.modBank_out (s : State) (u : Nat) (f : Bank → Bank) : (s.modBank u f).out = s.out := (rfl)
@[simp] theorem State.modBank_boot (s : State) (u : Nat) (f : Bank → Bank) : (s.modBank u f).boot = s.boot := (rfl)
@[simp] theorem State.modBank_clk (s : State) (u : Nat) (f : Bank → Bank) : (s.modBank u f).clk = s.clk := (rfl)
@[simp] theorem State.modBank_pow (s : State) (u : Nat) (f : Bank → Bank) : (s.modBank u f).pow = s.pow := (rfl)
@[simp] theorem State.modBank_therm (s : State) (u : Nat) (f : Bank → Bank) : (s.modBank u f).therm = s.therm := (rfl)
@[simp] theorem State.modBank_mem (s : State) (u : Nat) (f : Bank → Bank) : (s.modBank u f).mem = s.mem := (rfl)
@[simp] theorem State.modBank_health (s : State) (u : Nat) (f : Bank → Bank) : (s.modBank u f).health = s.health := (rfl)
@[simp] theorem State.modBank_stk (s : State) (u : Nat) (f : Bank → Bank) : (s.modBank u f).stk = s.stk := (rfl)
@[simp] theorem State.modBank_units (s : State) (u : Nat) (f : Bank → Bank) : (s.modBank u f).units = s.units := (rfl)
@[simp] theorem State.modBank_quads (s : State) (u : Nat) (f : Bank → Bank) : (s.modBank u f).quads = s.quads := (rfl)
@[simp] theorem State.modBank_ctxs (s : State) (u : Nat) (f : Bank → Bank) : (s.modBank u f).ctxs = s.ctxs := (rfl)
@[simp] theorem State.modBank_cfgs (s : State) (u : Nat) (f : Bank → Bank) : (s.modBank u f).cfgs = s.cfgs := (rfl)
@[simp] theorem State.modBank_sync (s : State) (u : Nat) (f : Bank → Bank) : (s.modBank u f).sync = s.sync := (rfl)
@[simp] theorem State.modBank_host (s : State) (u : Nat) (f : Bank → Bank) : (s.modBank u f).host = s.host := (rfl)
@[simp] theorem State.modBank_ring (s : State) (u : Nat) (f : Bank → Bank) : (s.modBank u f).ring = s.ring := (rfl)
@[simp] theorem State.modBank_mgmt (s : State) (u : Nat) (f : Bank → Bank) : (s.modBank u f).mgmt = s.mgmt := (rfl)
@[simp] theorem State.modBank_sec (s : State) (u : Nat) (f : Bank → Bank) : (s.modBank u f).sec = s.sec := (rfl)

@[simp] theorem State.modUnit_pending (s : State) (u : Nat) (f : BankUnit → BankUnit) : (s.modUnit u f).pending = s.pending := (rfl)
@[simp] theorem State.modUnit_free (s : State) (u : Nat) (f : BankUnit → BankUnit) : (s.modUnit u f).free = s.free := (rfl)
@[simp] theorem State.modUnit_out (s : State) (u : Nat) (f : BankUnit → BankUnit) : (s.modUnit u f).out = s.out := (rfl)
@[simp] theorem State.modUnit_boot (s : State) (u : Nat) (f : BankUnit → BankUnit) : (s.modUnit u f).boot = s.boot := (rfl)
@[simp] theorem State.modUnit_clk (s : State) (u : Nat) (f : BankUnit → BankUnit) : (s.modUnit u f).clk = s.clk := (rfl)
@[simp] theorem State.modUnit_pow (s : State) (u : Nat) (f : BankUnit → BankUnit) : (s.modUnit u f).pow = s.pow := (rfl)
@[simp] theorem State.modUnit_therm (s : State) (u : Nat) (f : BankUnit → BankUnit) : (s.modUnit u f).therm = s.therm := (rfl)
@[simp] theorem State.modUnit_mem (s : State) (u : Nat) (f : BankUnit → BankUnit) : (s.modUnit u f).mem = s.mem := (rfl)
@[simp] theorem State.modUnit_health (s : State) (u : Nat) (f : BankUnit → BankUnit) : (s.modUnit u f).health = s.health := (rfl)
@[simp] theorem State.modUnit_stk (s : State) (u : Nat) (f : BankUnit → BankUnit) : (s.modUnit u f).stk = s.stk := (rfl)
@[simp] theorem State.modUnit_banks (s : State) (u : Nat) (f : BankUnit → BankUnit) : (s.modUnit u f).banks = s.banks := (rfl)
@[simp] theorem State.modUnit_quads (s : State) (u : Nat) (f : BankUnit → BankUnit) : (s.modUnit u f).quads = s.quads := (rfl)
@[simp] theorem State.modUnit_ctxs (s : State) (u : Nat) (f : BankUnit → BankUnit) : (s.modUnit u f).ctxs = s.ctxs := (rfl)
@[simp] theorem State.modUnit_cfgs (s : State) (u : Nat) (f : BankUnit → BankUnit) : (s.modUnit u f).cfgs = s.cfgs := (rfl)
@[simp] theorem State.modUnit_sync (s : State) (u : Nat) (f : BankUnit → BankUnit) : (s.modUnit u f).sync = s.sync := (rfl)
@[simp] theorem State.modUnit_host (s : State) (u : Nat) (f : BankUnit → BankUnit) : (s.modUnit u f).host = s.host := (rfl)
@[simp] theorem State.modUnit_ring (s : State) (u : Nat) (f : BankUnit → BankUnit) : (s.modUnit u f).ring = s.ring := (rfl)
@[simp] theorem State.modUnit_mgmt (s : State) (u : Nat) (f : BankUnit → BankUnit) : (s.modUnit u f).mgmt = s.mgmt := (rfl)
@[simp] theorem State.modUnit_sec (s : State) (u : Nat) (f : BankUnit → BankUnit) : (s.modUnit u f).sec = s.sec := (rfl)

@[simp] theorem State.setPen_pending (s : State) (p : Nat) (x : Pennant) : (s.setPen p x).pending = s.pending := (rfl)
@[simp] theorem State.setPen_free (s : State) (p : Nat) (x : Pennant) : (s.setPen p x).free = s.free := (rfl)
@[simp] theorem State.setPen_out (s : State) (p : Nat) (x : Pennant) : (s.setPen p x).out = s.out := (rfl)
@[simp] theorem State.setPen_boot (s : State) (p : Nat) (x : Pennant) : (s.setPen p x).boot = s.boot := (rfl)
@[simp] theorem State.setPen_clk (s : State) (p : Nat) (x : Pennant) : (s.setPen p x).clk = s.clk := (rfl)
@[simp] theorem State.setPen_pow (s : State) (p : Nat) (x : Pennant) : (s.setPen p x).pow = s.pow := (rfl)
@[simp] theorem State.setPen_therm (s : State) (p : Nat) (x : Pennant) : (s.setPen p x).therm = s.therm := (rfl)
@[simp] theorem State.setPen_mem (s : State) (p : Nat) (x : Pennant) : (s.setPen p x).mem = s.mem := (rfl)
@[simp] theorem State.setPen_health (s : State) (p : Nat) (x : Pennant) : (s.setPen p x).health = s.health := (rfl)
@[simp] theorem State.setPen_stk (s : State) (p : Nat) (x : Pennant) : (s.setPen p x).stk = s.stk := (rfl)
@[simp] theorem State.setPen_banks (s : State) (p : Nat) (x : Pennant) : (s.setPen p x).banks = s.banks := (rfl)
@[simp] theorem State.setPen_units (s : State) (p : Nat) (x : Pennant) : (s.setPen p x).units = s.units := (rfl)
@[simp] theorem State.setPen_quads (s : State) (p : Nat) (x : Pennant) : (s.setPen p x).quads = s.quads := (rfl)
@[simp] theorem State.setPen_ctxs (s : State) (p : Nat) (x : Pennant) : (s.setPen p x).ctxs = s.ctxs := (rfl)
@[simp] theorem State.setPen_cfgs (s : State) (p : Nat) (x : Pennant) : (s.setPen p x).cfgs = s.cfgs := (rfl)
@[simp] theorem State.setPen_host (s : State) (p : Nat) (x : Pennant) : (s.setPen p x).host = s.host := (rfl)
@[simp] theorem State.setPen_ring (s : State) (p : Nat) (x : Pennant) : (s.setPen p x).ring = s.ring := (rfl)
@[simp] theorem State.setPen_mgmt (s : State) (p : Nat) (x : Pennant) : (s.setPen p x).mgmt = s.mgmt := (rfl)
@[simp] theorem State.setPen_sec (s : State) (p : Nat) (x : Pennant) : (s.setPen p x).sec = s.sec := (rfl)

@[simp] theorem State.setRoll_pending (s : State) (r : Nat) (x : RollCall) : (s.setRoll r x).pending = s.pending := (rfl)
@[simp] theorem State.setRoll_free (s : State) (r : Nat) (x : RollCall) : (s.setRoll r x).free = s.free := (rfl)
@[simp] theorem State.setRoll_out (s : State) (r : Nat) (x : RollCall) : (s.setRoll r x).out = s.out := (rfl)
@[simp] theorem State.setRoll_boot (s : State) (r : Nat) (x : RollCall) : (s.setRoll r x).boot = s.boot := (rfl)
@[simp] theorem State.setRoll_clk (s : State) (r : Nat) (x : RollCall) : (s.setRoll r x).clk = s.clk := (rfl)
@[simp] theorem State.setRoll_pow (s : State) (r : Nat) (x : RollCall) : (s.setRoll r x).pow = s.pow := (rfl)
@[simp] theorem State.setRoll_therm (s : State) (r : Nat) (x : RollCall) : (s.setRoll r x).therm = s.therm := (rfl)
@[simp] theorem State.setRoll_mem (s : State) (r : Nat) (x : RollCall) : (s.setRoll r x).mem = s.mem := (rfl)
@[simp] theorem State.setRoll_health (s : State) (r : Nat) (x : RollCall) : (s.setRoll r x).health = s.health := (rfl)
@[simp] theorem State.setRoll_stk (s : State) (r : Nat) (x : RollCall) : (s.setRoll r x).stk = s.stk := (rfl)
@[simp] theorem State.setRoll_banks (s : State) (r : Nat) (x : RollCall) : (s.setRoll r x).banks = s.banks := (rfl)
@[simp] theorem State.setRoll_units (s : State) (r : Nat) (x : RollCall) : (s.setRoll r x).units = s.units := (rfl)
@[simp] theorem State.setRoll_quads (s : State) (r : Nat) (x : RollCall) : (s.setRoll r x).quads = s.quads := (rfl)
@[simp] theorem State.setRoll_ctxs (s : State) (r : Nat) (x : RollCall) : (s.setRoll r x).ctxs = s.ctxs := (rfl)
@[simp] theorem State.setRoll_cfgs (s : State) (r : Nat) (x : RollCall) : (s.setRoll r x).cfgs = s.cfgs := (rfl)
@[simp] theorem State.setRoll_host (s : State) (r : Nat) (x : RollCall) : (s.setRoll r x).host = s.host := (rfl)
@[simp] theorem State.setRoll_ring (s : State) (r : Nat) (x : RollCall) : (s.setRoll r x).ring = s.ring := (rfl)
@[simp] theorem State.setRoll_mgmt (s : State) (r : Nat) (x : RollCall) : (s.setRoll r x).mgmt = s.mgmt := (rfl)
@[simp] theorem State.setRoll_sec (s : State) (r : Nat) (x : RollCall) : (s.setRoll r x).sec = s.sec := (rfl)

@[simp] theorem State.modPort_pending (s : State) (p : Nat) (f : Port → Port) : (s.modPort p f).pending = s.pending := (rfl)
@[simp] theorem State.modPort_free (s : State) (p : Nat) (f : Port → Port) : (s.modPort p f).free = s.free := (rfl)
@[simp] theorem State.modPort_out (s : State) (p : Nat) (f : Port → Port) : (s.modPort p f).out = s.out := (rfl)
@[simp] theorem State.modPort_boot (s : State) (p : Nat) (f : Port → Port) : (s.modPort p f).boot = s.boot := (rfl)
@[simp] theorem State.modPort_clk (s : State) (p : Nat) (f : Port → Port) : (s.modPort p f).clk = s.clk := (rfl)
@[simp] theorem State.modPort_pow (s : State) (p : Nat) (f : Port → Port) : (s.modPort p f).pow = s.pow := (rfl)
@[simp] theorem State.modPort_therm (s : State) (p : Nat) (f : Port → Port) : (s.modPort p f).therm = s.therm := (rfl)
@[simp] theorem State.modPort_mem (s : State) (p : Nat) (f : Port → Port) : (s.modPort p f).mem = s.mem := (rfl)
@[simp] theorem State.modPort_health (s : State) (p : Nat) (f : Port → Port) : (s.modPort p f).health = s.health := (rfl)
@[simp] theorem State.modPort_stk (s : State) (p : Nat) (f : Port → Port) : (s.modPort p f).stk = s.stk := (rfl)
@[simp] theorem State.modPort_banks (s : State) (p : Nat) (f : Port → Port) : (s.modPort p f).banks = s.banks := (rfl)
@[simp] theorem State.modPort_units (s : State) (p : Nat) (f : Port → Port) : (s.modPort p f).units = s.units := (rfl)
@[simp] theorem State.modPort_quads (s : State) (p : Nat) (f : Port → Port) : (s.modPort p f).quads = s.quads := (rfl)
@[simp] theorem State.modPort_ctxs (s : State) (p : Nat) (f : Port → Port) : (s.modPort p f).ctxs = s.ctxs := (rfl)
@[simp] theorem State.modPort_cfgs (s : State) (p : Nat) (f : Port → Port) : (s.modPort p f).cfgs = s.cfgs := (rfl)
@[simp] theorem State.modPort_sync (s : State) (p : Nat) (f : Port → Port) : (s.modPort p f).sync = s.sync := (rfl)
@[simp] theorem State.modPort_host (s : State) (p : Nat) (f : Port → Port) : (s.modPort p f).host = s.host := (rfl)
@[simp] theorem State.modPort_mgmt (s : State) (p : Nat) (f : Port → Port) : (s.modPort p f).mgmt = s.mgmt := (rfl)
@[simp] theorem State.modPort_sec (s : State) (p : Nat) (f : Port → Port) : (s.modPort p f).sec = s.sec := (rfl)

@[simp] theorem State.modGate_pending (s : State) (g : Nat) (f : Gate → Gate) : (s.modGate g f).pending = s.pending := (rfl)
@[simp] theorem State.modGate_free (s : State) (g : Nat) (f : Gate → Gate) : (s.modGate g f).free = s.free := (rfl)
@[simp] theorem State.modGate_out (s : State) (g : Nat) (f : Gate → Gate) : (s.modGate g f).out = s.out := (rfl)
@[simp] theorem State.modGate_boot (s : State) (g : Nat) (f : Gate → Gate) : (s.modGate g f).boot = s.boot := (rfl)
@[simp] theorem State.modGate_pow (s : State) (g : Nat) (f : Gate → Gate) : (s.modGate g f).pow = s.pow := (rfl)
@[simp] theorem State.modGate_therm (s : State) (g : Nat) (f : Gate → Gate) : (s.modGate g f).therm = s.therm := (rfl)
@[simp] theorem State.modGate_mem (s : State) (g : Nat) (f : Gate → Gate) : (s.modGate g f).mem = s.mem := (rfl)
@[simp] theorem State.modGate_health (s : State) (g : Nat) (f : Gate → Gate) : (s.modGate g f).health = s.health := (rfl)
@[simp] theorem State.modGate_stk (s : State) (g : Nat) (f : Gate → Gate) : (s.modGate g f).stk = s.stk := (rfl)
@[simp] theorem State.modGate_banks (s : State) (g : Nat) (f : Gate → Gate) : (s.modGate g f).banks = s.banks := (rfl)
@[simp] theorem State.modGate_units (s : State) (g : Nat) (f : Gate → Gate) : (s.modGate g f).units = s.units := (rfl)
@[simp] theorem State.modGate_quads (s : State) (g : Nat) (f : Gate → Gate) : (s.modGate g f).quads = s.quads := (rfl)
@[simp] theorem State.modGate_ctxs (s : State) (g : Nat) (f : Gate → Gate) : (s.modGate g f).ctxs = s.ctxs := (rfl)
@[simp] theorem State.modGate_cfgs (s : State) (g : Nat) (f : Gate → Gate) : (s.modGate g f).cfgs = s.cfgs := (rfl)
@[simp] theorem State.modGate_sync (s : State) (g : Nat) (f : Gate → Gate) : (s.modGate g f).sync = s.sync := (rfl)
@[simp] theorem State.modGate_host (s : State) (g : Nat) (f : Gate → Gate) : (s.modGate g f).host = s.host := (rfl)
@[simp] theorem State.modGate_ring (s : State) (g : Nat) (f : Gate → Gate) : (s.modGate g f).ring = s.ring := (rfl)
@[simp] theorem State.modGate_mgmt (s : State) (g : Nat) (f : Gate → Gate) : (s.modGate g f).mgmt = s.mgmt := (rfl)
@[simp] theorem State.modGate_sec (s : State) (g : Nat) (f : Gate → Gate) : (s.modGate g f).sec = s.sec := (rfl)

@[simp] theorem State.emit_pending (s : State) (o : Output) : (s.emit o).pending = s.pending := (rfl)
@[simp] theorem State.emit_free (s : State) (o : Output) : (s.emit o).free = s.free := (rfl)
@[simp] theorem State.emit_boot (s : State) (o : Output) : (s.emit o).boot = s.boot := (rfl)
@[simp] theorem State.emit_clk (s : State) (o : Output) : (s.emit o).clk = s.clk := (rfl)
@[simp] theorem State.emit_pow (s : State) (o : Output) : (s.emit o).pow = s.pow := (rfl)
@[simp] theorem State.emit_therm (s : State) (o : Output) : (s.emit o).therm = s.therm := (rfl)
@[simp] theorem State.emit_mem (s : State) (o : Output) : (s.emit o).mem = s.mem := (rfl)
@[simp] theorem State.emit_health (s : State) (o : Output) : (s.emit o).health = s.health := (rfl)
@[simp] theorem State.emit_stk (s : State) (o : Output) : (s.emit o).stk = s.stk := (rfl)
@[simp] theorem State.emit_banks (s : State) (o : Output) : (s.emit o).banks = s.banks := (rfl)
@[simp] theorem State.emit_units (s : State) (o : Output) : (s.emit o).units = s.units := (rfl)
@[simp] theorem State.emit_quads (s : State) (o : Output) : (s.emit o).quads = s.quads := (rfl)
@[simp] theorem State.emit_ctxs (s : State) (o : Output) : (s.emit o).ctxs = s.ctxs := (rfl)
@[simp] theorem State.emit_cfgs (s : State) (o : Output) : (s.emit o).cfgs = s.cfgs := (rfl)
@[simp] theorem State.emit_sync (s : State) (o : Output) : (s.emit o).sync = s.sync := (rfl)
@[simp] theorem State.emit_host (s : State) (o : Output) : (s.emit o).host = s.host := (rfl)
@[simp] theorem State.emit_ring (s : State) (o : Output) : (s.emit o).ring = s.ring := (rfl)
@[simp] theorem State.emit_mgmt (s : State) (o : Output) : (s.emit o).mgmt = s.mgmt := (rfl)
@[simp] theorem State.emit_sec (s : State) (o : Output) : (s.emit o).sec = s.sec := (rfl)

/-! ## What an accessor reads after an update -/

@[simp] theorem State.quad_setQuad_same (s : State) (i : Nat) (x : Quad) : (s.setQuad i x).quad i = x := tget_tset_same _ _ _ _
theorem State.quad_setQuad_ne (s : State) {i j : Nat} (x : Quad) (h : j ≠ i) : (s.setQuad i x).quad j = s.quad j :=
  tget_tset_ne _ _ _ h
@[simp] theorem State.quad_modQuad_same (s : State) (i : Nat) (f : Quad → Quad) : (s.modQuad i f).quad i = f (s.quad i) := tget_tset_same _ _ _ _
theorem State.quad_modQuad_ne (s : State) {i j : Nat} (f : Quad → Quad) (h : j ≠ i) : (s.modQuad i f).quad j = s.quad j :=
  tget_tset_ne _ _ _ h
@[simp] theorem State.ctx_setCtx_same (s : State) (i : Nat) (x : Ctx) : (s.setCtx i x).ctx i = x := tget_tset_same _ _ _ _
theorem State.ctx_setCtx_ne (s : State) {i j : Nat} (x : Ctx) (h : j ≠ i) : (s.setCtx i x).ctx j = s.ctx j :=
  tget_tset_ne _ _ _ h
@[simp] theorem State.ctx_modCtx_same (s : State) (i : Nat) (f : Ctx → Ctx) : (s.modCtx i f).ctx i = f (s.ctx i) := tget_tset_same _ _ _ _
theorem State.ctx_modCtx_ne (s : State) {i j : Nat} (f : Ctx → Ctx) (h : j ≠ i) : (s.modCtx i f).ctx j = s.ctx j :=
  tget_tset_ne _ _ _ h
@[simp] theorem State.cfg_modCfg_same (s : State) (i : Nat) (f : CtxCfg → CtxCfg) : (s.modCfg i f).cfg i = f (s.cfg i) := tget_tset_same _ _ _ _
theorem State.cfg_modCfg_ne (s : State) {i j : Nat} (f : CtxCfg → CtxCfg) (h : j ≠ i) : (s.modCfg i f).cfg j = s.cfg j :=
  tget_tset_ne _ _ _ h
@[simp] theorem State.stack_modStack_same (s : State) (i : Nat) (f : Stack → Stack) : (s.modStack i f).stack i = f (s.stack i) := tget_tset_same _ _ _ _
theorem State.stack_modStack_ne (s : State) {i j : Nat} (f : Stack → Stack) (h : j ≠ i) : (s.modStack i f).stack j = s.stack j :=
  tget_tset_ne _ _ _ h
@[simp] theorem State.bank_modBank_same (s : State) (i : Nat) (f : Bank → Bank) : (s.modBank i f).bank i = f (s.bank i) := tget_tset_same _ _ _ _
theorem State.bank_modBank_ne (s : State) {i j : Nat} (f : Bank → Bank) (h : j ≠ i) : (s.modBank i f).bank j = s.bank j :=
  tget_tset_ne _ _ _ h
@[simp] theorem State.unit_modUnit_same (s : State) (i : Nat) (f : BankUnit → BankUnit) : (s.modUnit i f).unit i = f (s.unit i) := tget_tset_same _ _ _ _
theorem State.unit_modUnit_ne (s : State) {i j : Nat} (f : BankUnit → BankUnit) (h : j ≠ i) : (s.modUnit i f).unit j = s.unit j :=
  tget_tset_ne _ _ _ h
@[simp] theorem State.pen_setPen_same (s : State) (i : Nat) (x : Pennant) : (s.setPen i x).pen i = x := tget_tset_same _ _ _ _
theorem State.pen_setPen_ne (s : State) {i j : Nat} (x : Pennant) (h : j ≠ i) : (s.setPen i x).pen j = s.pen j :=
  tget_tset_ne _ _ _ h
@[simp] theorem State.rollCall_setRoll_same (s : State) (i : Nat) (x : RollCall) : (s.setRoll i x).rollCall i = x := tget_tset_same _ _ _ _
theorem State.rollCall_setRoll_ne (s : State) {i j : Nat} (x : RollCall) (h : j ≠ i) : (s.setRoll i x).rollCall j = s.rollCall j :=
  tget_tset_ne _ _ _ h
@[simp] theorem State.port_modPort_same (s : State) (i : Nat) (f : Port → Port) : (s.modPort i f).port i = f (s.port i) := tget_tset_same _ _ _ _
theorem State.port_modPort_ne (s : State) {i j : Nat} (f : Port → Port) (h : j ≠ i) : (s.modPort i f).port j = s.port j :=
  tget_tset_ne _ _ _ h
@[simp] theorem State.gate_modGate_same (s : State) (i : Nat) (f : Gate → Gate) : (s.modGate i f).gate i = f (s.gate i) := tget_tset_same _ _ _ _
theorem State.gate_modGate_ne (s : State) {i j : Nat} (f : Gate → Gate) (h : j ≠ i) : (s.modGate i f).gate j = s.gate j :=
  tget_tset_ne _ _ _ h

/-! ## What an accessor reads after an update of another table -/

@[simp] theorem State.ctx_setQuad (s : State) (q : Nat) (x : Quad) (j : Nat) : (s.setQuad q x).ctx j = s.ctx j := (rfl)
@[simp] theorem State.cfg_setQuad (s : State) (q : Nat) (x : Quad) (j : Nat) : (s.setQuad q x).cfg j = s.cfg j := (rfl)
@[simp] theorem State.stack_setQuad (s : State) (q : Nat) (x : Quad) (j : Nat) : (s.setQuad q x).stack j = s.stack j := (rfl)
@[simp] theorem State.bank_setQuad (s : State) (q : Nat) (x : Quad) (j : Nat) : (s.setQuad q x).bank j = s.bank j := (rfl)
@[simp] theorem State.unit_setQuad (s : State) (q : Nat) (x : Quad) (j : Nat) : (s.setQuad q x).unit j = s.unit j := (rfl)
@[simp] theorem State.pen_setQuad (s : State) (q : Nat) (x : Quad) (j : Nat) : (s.setQuad q x).pen j = s.pen j := (rfl)
@[simp] theorem State.rollCall_setQuad (s : State) (q : Nat) (x : Quad) (j : Nat) : (s.setQuad q x).rollCall j = s.rollCall j := (rfl)
@[simp] theorem State.port_setQuad (s : State) (q : Nat) (x : Quad) (j : Nat) : (s.setQuad q x).port j = s.port j := (rfl)
@[simp] theorem State.gate_setQuad (s : State) (q : Nat) (x : Quad) (j : Nat) : (s.setQuad q x).gate j = s.gate j := (rfl)
@[simp] theorem State.site_setQuad (s : State) (q : Nat) (x : Quad) (j : Nat) : (s.setQuad q x).site j = s.site j := (rfl)

@[simp] theorem State.ctx_modQuad (s : State) (q : Nat) (f : Quad → Quad) (j : Nat) : (s.modQuad q f).ctx j = s.ctx j := (rfl)
@[simp] theorem State.cfg_modQuad (s : State) (q : Nat) (f : Quad → Quad) (j : Nat) : (s.modQuad q f).cfg j = s.cfg j := (rfl)
@[simp] theorem State.stack_modQuad (s : State) (q : Nat) (f : Quad → Quad) (j : Nat) : (s.modQuad q f).stack j = s.stack j := (rfl)
@[simp] theorem State.bank_modQuad (s : State) (q : Nat) (f : Quad → Quad) (j : Nat) : (s.modQuad q f).bank j = s.bank j := (rfl)
@[simp] theorem State.unit_modQuad (s : State) (q : Nat) (f : Quad → Quad) (j : Nat) : (s.modQuad q f).unit j = s.unit j := (rfl)
@[simp] theorem State.pen_modQuad (s : State) (q : Nat) (f : Quad → Quad) (j : Nat) : (s.modQuad q f).pen j = s.pen j := (rfl)
@[simp] theorem State.rollCall_modQuad (s : State) (q : Nat) (f : Quad → Quad) (j : Nat) : (s.modQuad q f).rollCall j = s.rollCall j := (rfl)
@[simp] theorem State.port_modQuad (s : State) (q : Nat) (f : Quad → Quad) (j : Nat) : (s.modQuad q f).port j = s.port j := (rfl)
@[simp] theorem State.gate_modQuad (s : State) (q : Nat) (f : Quad → Quad) (j : Nat) : (s.modQuad q f).gate j = s.gate j := (rfl)
@[simp] theorem State.site_modQuad (s : State) (q : Nat) (f : Quad → Quad) (j : Nat) : (s.modQuad q f).site j = s.site j := (rfl)

@[simp] theorem State.ctx_modSlot (s : State) (q i : Nat) (f : Slot → Slot) (j : Nat) : (s.modSlot q i f).ctx j = s.ctx j := (rfl)
@[simp] theorem State.cfg_modSlot (s : State) (q i : Nat) (f : Slot → Slot) (j : Nat) : (s.modSlot q i f).cfg j = s.cfg j := (rfl)
@[simp] theorem State.stack_modSlot (s : State) (q i : Nat) (f : Slot → Slot) (j : Nat) : (s.modSlot q i f).stack j = s.stack j := (rfl)
@[simp] theorem State.bank_modSlot (s : State) (q i : Nat) (f : Slot → Slot) (j : Nat) : (s.modSlot q i f).bank j = s.bank j := (rfl)
@[simp] theorem State.unit_modSlot (s : State) (q i : Nat) (f : Slot → Slot) (j : Nat) : (s.modSlot q i f).unit j = s.unit j := (rfl)
@[simp] theorem State.pen_modSlot (s : State) (q i : Nat) (f : Slot → Slot) (j : Nat) : (s.modSlot q i f).pen j = s.pen j := (rfl)
@[simp] theorem State.rollCall_modSlot (s : State) (q i : Nat) (f : Slot → Slot) (j : Nat) : (s.modSlot q i f).rollCall j = s.rollCall j := (rfl)
@[simp] theorem State.port_modSlot (s : State) (q i : Nat) (f : Slot → Slot) (j : Nat) : (s.modSlot q i f).port j = s.port j := (rfl)
@[simp] theorem State.gate_modSlot (s : State) (q i : Nat) (f : Slot → Slot) (j : Nat) : (s.modSlot q i f).gate j = s.gate j := (rfl)
@[simp] theorem State.site_modSlot (s : State) (q i : Nat) (f : Slot → Slot) (j : Nat) : (s.modSlot q i f).site j = s.site j := (rfl)

@[simp] theorem State.quad_setCtx (s : State) (c : Nat) (x : Ctx) (j : Nat) : (s.setCtx c x).quad j = s.quad j := (rfl)
@[simp] theorem State.cfg_setCtx (s : State) (c : Nat) (x : Ctx) (j : Nat) : (s.setCtx c x).cfg j = s.cfg j := (rfl)
@[simp] theorem State.stack_setCtx (s : State) (c : Nat) (x : Ctx) (j : Nat) : (s.setCtx c x).stack j = s.stack j := (rfl)
@[simp] theorem State.bank_setCtx (s : State) (c : Nat) (x : Ctx) (j : Nat) : (s.setCtx c x).bank j = s.bank j := (rfl)
@[simp] theorem State.unit_setCtx (s : State) (c : Nat) (x : Ctx) (j : Nat) : (s.setCtx c x).unit j = s.unit j := (rfl)
@[simp] theorem State.pen_setCtx (s : State) (c : Nat) (x : Ctx) (j : Nat) : (s.setCtx c x).pen j = s.pen j := (rfl)
@[simp] theorem State.rollCall_setCtx (s : State) (c : Nat) (x : Ctx) (j : Nat) : (s.setCtx c x).rollCall j = s.rollCall j := (rfl)
@[simp] theorem State.port_setCtx (s : State) (c : Nat) (x : Ctx) (j : Nat) : (s.setCtx c x).port j = s.port j := (rfl)
@[simp] theorem State.gate_setCtx (s : State) (c : Nat) (x : Ctx) (j : Nat) : (s.setCtx c x).gate j = s.gate j := (rfl)
@[simp] theorem State.site_setCtx (s : State) (c : Nat) (x : Ctx) (j : Nat) : (s.setCtx c x).site j = s.site j := (rfl)

@[simp] theorem State.quad_modCtx (s : State) (c : Nat) (f : Ctx → Ctx) (j : Nat) : (s.modCtx c f).quad j = s.quad j := (rfl)
@[simp] theorem State.cfg_modCtx (s : State) (c : Nat) (f : Ctx → Ctx) (j : Nat) : (s.modCtx c f).cfg j = s.cfg j := (rfl)
@[simp] theorem State.stack_modCtx (s : State) (c : Nat) (f : Ctx → Ctx) (j : Nat) : (s.modCtx c f).stack j = s.stack j := (rfl)
@[simp] theorem State.bank_modCtx (s : State) (c : Nat) (f : Ctx → Ctx) (j : Nat) : (s.modCtx c f).bank j = s.bank j := (rfl)
@[simp] theorem State.unit_modCtx (s : State) (c : Nat) (f : Ctx → Ctx) (j : Nat) : (s.modCtx c f).unit j = s.unit j := (rfl)
@[simp] theorem State.pen_modCtx (s : State) (c : Nat) (f : Ctx → Ctx) (j : Nat) : (s.modCtx c f).pen j = s.pen j := (rfl)
@[simp] theorem State.rollCall_modCtx (s : State) (c : Nat) (f : Ctx → Ctx) (j : Nat) : (s.modCtx c f).rollCall j = s.rollCall j := (rfl)
@[simp] theorem State.port_modCtx (s : State) (c : Nat) (f : Ctx → Ctx) (j : Nat) : (s.modCtx c f).port j = s.port j := (rfl)
@[simp] theorem State.gate_modCtx (s : State) (c : Nat) (f : Ctx → Ctx) (j : Nat) : (s.modCtx c f).gate j = s.gate j := (rfl)
@[simp] theorem State.site_modCtx (s : State) (c : Nat) (f : Ctx → Ctx) (j : Nat) : (s.modCtx c f).site j = s.site j := (rfl)

@[simp] theorem State.quad_modCfg (s : State) (c : Nat) (f : CtxCfg → CtxCfg) (j : Nat) : (s.modCfg c f).quad j = s.quad j := (rfl)
@[simp] theorem State.ctx_modCfg (s : State) (c : Nat) (f : CtxCfg → CtxCfg) (j : Nat) : (s.modCfg c f).ctx j = s.ctx j := (rfl)
@[simp] theorem State.stack_modCfg (s : State) (c : Nat) (f : CtxCfg → CtxCfg) (j : Nat) : (s.modCfg c f).stack j = s.stack j := (rfl)
@[simp] theorem State.bank_modCfg (s : State) (c : Nat) (f : CtxCfg → CtxCfg) (j : Nat) : (s.modCfg c f).bank j = s.bank j := (rfl)
@[simp] theorem State.unit_modCfg (s : State) (c : Nat) (f : CtxCfg → CtxCfg) (j : Nat) : (s.modCfg c f).unit j = s.unit j := (rfl)
@[simp] theorem State.pen_modCfg (s : State) (c : Nat) (f : CtxCfg → CtxCfg) (j : Nat) : (s.modCfg c f).pen j = s.pen j := (rfl)
@[simp] theorem State.rollCall_modCfg (s : State) (c : Nat) (f : CtxCfg → CtxCfg) (j : Nat) : (s.modCfg c f).rollCall j = s.rollCall j := (rfl)
@[simp] theorem State.port_modCfg (s : State) (c : Nat) (f : CtxCfg → CtxCfg) (j : Nat) : (s.modCfg c f).port j = s.port j := (rfl)
@[simp] theorem State.gate_modCfg (s : State) (c : Nat) (f : CtxCfg → CtxCfg) (j : Nat) : (s.modCfg c f).gate j = s.gate j := (rfl)
@[simp] theorem State.site_modCfg (s : State) (c : Nat) (f : CtxCfg → CtxCfg) (j : Nat) : (s.modCfg c f).site j = s.site j := (rfl)

@[simp] theorem State.quad_modStack (s : State) (i : Nat) (f : Stack → Stack) (j : Nat) : (s.modStack i f).quad j = s.quad j := (rfl)
@[simp] theorem State.ctx_modStack (s : State) (i : Nat) (f : Stack → Stack) (j : Nat) : (s.modStack i f).ctx j = s.ctx j := (rfl)
@[simp] theorem State.cfg_modStack (s : State) (i : Nat) (f : Stack → Stack) (j : Nat) : (s.modStack i f).cfg j = s.cfg j := (rfl)
@[simp] theorem State.bank_modStack (s : State) (i : Nat) (f : Stack → Stack) (j : Nat) : (s.modStack i f).bank j = s.bank j := (rfl)
@[simp] theorem State.unit_modStack (s : State) (i : Nat) (f : Stack → Stack) (j : Nat) : (s.modStack i f).unit j = s.unit j := (rfl)
@[simp] theorem State.pen_modStack (s : State) (i : Nat) (f : Stack → Stack) (j : Nat) : (s.modStack i f).pen j = s.pen j := (rfl)
@[simp] theorem State.rollCall_modStack (s : State) (i : Nat) (f : Stack → Stack) (j : Nat) : (s.modStack i f).rollCall j = s.rollCall j := (rfl)
@[simp] theorem State.port_modStack (s : State) (i : Nat) (f : Stack → Stack) (j : Nat) : (s.modStack i f).port j = s.port j := (rfl)
@[simp] theorem State.gate_modStack (s : State) (i : Nat) (f : Stack → Stack) (j : Nat) : (s.modStack i f).gate j = s.gate j := (rfl)
@[simp] theorem State.site_modStack (s : State) (i : Nat) (f : Stack → Stack) (j : Nat) : (s.modStack i f).site j = s.site j := (rfl)

@[simp] theorem State.quad_modBank (s : State) (u : Nat) (f : Bank → Bank) (j : Nat) : (s.modBank u f).quad j = s.quad j := (rfl)
@[simp] theorem State.ctx_modBank (s : State) (u : Nat) (f : Bank → Bank) (j : Nat) : (s.modBank u f).ctx j = s.ctx j := (rfl)
@[simp] theorem State.cfg_modBank (s : State) (u : Nat) (f : Bank → Bank) (j : Nat) : (s.modBank u f).cfg j = s.cfg j := (rfl)
@[simp] theorem State.stack_modBank (s : State) (u : Nat) (f : Bank → Bank) (j : Nat) : (s.modBank u f).stack j = s.stack j := (rfl)
@[simp] theorem State.unit_modBank (s : State) (u : Nat) (f : Bank → Bank) (j : Nat) : (s.modBank u f).unit j = s.unit j := (rfl)
@[simp] theorem State.pen_modBank (s : State) (u : Nat) (f : Bank → Bank) (j : Nat) : (s.modBank u f).pen j = s.pen j := (rfl)
@[simp] theorem State.rollCall_modBank (s : State) (u : Nat) (f : Bank → Bank) (j : Nat) : (s.modBank u f).rollCall j = s.rollCall j := (rfl)
@[simp] theorem State.port_modBank (s : State) (u : Nat) (f : Bank → Bank) (j : Nat) : (s.modBank u f).port j = s.port j := (rfl)
@[simp] theorem State.gate_modBank (s : State) (u : Nat) (f : Bank → Bank) (j : Nat) : (s.modBank u f).gate j = s.gate j := (rfl)
@[simp] theorem State.site_modBank (s : State) (u : Nat) (f : Bank → Bank) (j : Nat) : (s.modBank u f).site j = s.site j := (rfl)

@[simp] theorem State.quad_modUnit (s : State) (u : Nat) (f : BankUnit → BankUnit) (j : Nat) : (s.modUnit u f).quad j = s.quad j := (rfl)
@[simp] theorem State.ctx_modUnit (s : State) (u : Nat) (f : BankUnit → BankUnit) (j : Nat) : (s.modUnit u f).ctx j = s.ctx j := (rfl)
@[simp] theorem State.cfg_modUnit (s : State) (u : Nat) (f : BankUnit → BankUnit) (j : Nat) : (s.modUnit u f).cfg j = s.cfg j := (rfl)
@[simp] theorem State.stack_modUnit (s : State) (u : Nat) (f : BankUnit → BankUnit) (j : Nat) : (s.modUnit u f).stack j = s.stack j := (rfl)
@[simp] theorem State.bank_modUnit (s : State) (u : Nat) (f : BankUnit → BankUnit) (j : Nat) : (s.modUnit u f).bank j = s.bank j := (rfl)
@[simp] theorem State.pen_modUnit (s : State) (u : Nat) (f : BankUnit → BankUnit) (j : Nat) : (s.modUnit u f).pen j = s.pen j := (rfl)
@[simp] theorem State.rollCall_modUnit (s : State) (u : Nat) (f : BankUnit → BankUnit) (j : Nat) : (s.modUnit u f).rollCall j = s.rollCall j := (rfl)
@[simp] theorem State.port_modUnit (s : State) (u : Nat) (f : BankUnit → BankUnit) (j : Nat) : (s.modUnit u f).port j = s.port j := (rfl)
@[simp] theorem State.gate_modUnit (s : State) (u : Nat) (f : BankUnit → BankUnit) (j : Nat) : (s.modUnit u f).gate j = s.gate j := (rfl)
@[simp] theorem State.site_modUnit (s : State) (u : Nat) (f : BankUnit → BankUnit) (j : Nat) : (s.modUnit u f).site j = s.site j := (rfl)

@[simp] theorem State.quad_setPen (s : State) (p : Nat) (x : Pennant) (j : Nat) : (s.setPen p x).quad j = s.quad j := (rfl)
@[simp] theorem State.ctx_setPen (s : State) (p : Nat) (x : Pennant) (j : Nat) : (s.setPen p x).ctx j = s.ctx j := (rfl)
@[simp] theorem State.cfg_setPen (s : State) (p : Nat) (x : Pennant) (j : Nat) : (s.setPen p x).cfg j = s.cfg j := (rfl)
@[simp] theorem State.stack_setPen (s : State) (p : Nat) (x : Pennant) (j : Nat) : (s.setPen p x).stack j = s.stack j := (rfl)
@[simp] theorem State.bank_setPen (s : State) (p : Nat) (x : Pennant) (j : Nat) : (s.setPen p x).bank j = s.bank j := (rfl)
@[simp] theorem State.unit_setPen (s : State) (p : Nat) (x : Pennant) (j : Nat) : (s.setPen p x).unit j = s.unit j := (rfl)
@[simp] theorem State.rollCall_setPen (s : State) (p : Nat) (x : Pennant) (j : Nat) : (s.setPen p x).rollCall j = s.rollCall j := (rfl)
@[simp] theorem State.port_setPen (s : State) (p : Nat) (x : Pennant) (j : Nat) : (s.setPen p x).port j = s.port j := (rfl)
@[simp] theorem State.gate_setPen (s : State) (p : Nat) (x : Pennant) (j : Nat) : (s.setPen p x).gate j = s.gate j := (rfl)
@[simp] theorem State.site_setPen (s : State) (p : Nat) (x : Pennant) (j : Nat) : (s.setPen p x).site j = s.site j := (rfl)

@[simp] theorem State.quad_setRoll (s : State) (r : Nat) (x : RollCall) (j : Nat) : (s.setRoll r x).quad j = s.quad j := (rfl)
@[simp] theorem State.ctx_setRoll (s : State) (r : Nat) (x : RollCall) (j : Nat) : (s.setRoll r x).ctx j = s.ctx j := (rfl)
@[simp] theorem State.cfg_setRoll (s : State) (r : Nat) (x : RollCall) (j : Nat) : (s.setRoll r x).cfg j = s.cfg j := (rfl)
@[simp] theorem State.stack_setRoll (s : State) (r : Nat) (x : RollCall) (j : Nat) : (s.setRoll r x).stack j = s.stack j := (rfl)
@[simp] theorem State.bank_setRoll (s : State) (r : Nat) (x : RollCall) (j : Nat) : (s.setRoll r x).bank j = s.bank j := (rfl)
@[simp] theorem State.unit_setRoll (s : State) (r : Nat) (x : RollCall) (j : Nat) : (s.setRoll r x).unit j = s.unit j := (rfl)
@[simp] theorem State.pen_setRoll (s : State) (r : Nat) (x : RollCall) (j : Nat) : (s.setRoll r x).pen j = s.pen j := (rfl)
@[simp] theorem State.port_setRoll (s : State) (r : Nat) (x : RollCall) (j : Nat) : (s.setRoll r x).port j = s.port j := (rfl)
@[simp] theorem State.gate_setRoll (s : State) (r : Nat) (x : RollCall) (j : Nat) : (s.setRoll r x).gate j = s.gate j := (rfl)
@[simp] theorem State.site_setRoll (s : State) (r : Nat) (x : RollCall) (j : Nat) : (s.setRoll r x).site j = s.site j := (rfl)

@[simp] theorem State.quad_modPort (s : State) (p : Nat) (f : Port → Port) (j : Nat) : (s.modPort p f).quad j = s.quad j := (rfl)
@[simp] theorem State.ctx_modPort (s : State) (p : Nat) (f : Port → Port) (j : Nat) : (s.modPort p f).ctx j = s.ctx j := (rfl)
@[simp] theorem State.cfg_modPort (s : State) (p : Nat) (f : Port → Port) (j : Nat) : (s.modPort p f).cfg j = s.cfg j := (rfl)
@[simp] theorem State.stack_modPort (s : State) (p : Nat) (f : Port → Port) (j : Nat) : (s.modPort p f).stack j = s.stack j := (rfl)
@[simp] theorem State.bank_modPort (s : State) (p : Nat) (f : Port → Port) (j : Nat) : (s.modPort p f).bank j = s.bank j := (rfl)
@[simp] theorem State.unit_modPort (s : State) (p : Nat) (f : Port → Port) (j : Nat) : (s.modPort p f).unit j = s.unit j := (rfl)
@[simp] theorem State.pen_modPort (s : State) (p : Nat) (f : Port → Port) (j : Nat) : (s.modPort p f).pen j = s.pen j := (rfl)
@[simp] theorem State.rollCall_modPort (s : State) (p : Nat) (f : Port → Port) (j : Nat) : (s.modPort p f).rollCall j = s.rollCall j := (rfl)
@[simp] theorem State.gate_modPort (s : State) (p : Nat) (f : Port → Port) (j : Nat) : (s.modPort p f).gate j = s.gate j := (rfl)
@[simp] theorem State.site_modPort (s : State) (p : Nat) (f : Port → Port) (j : Nat) : (s.modPort p f).site j = s.site j := (rfl)

@[simp] theorem State.quad_modGate (s : State) (g : Nat) (f : Gate → Gate) (j : Nat) : (s.modGate g f).quad j = s.quad j := (rfl)
@[simp] theorem State.ctx_modGate (s : State) (g : Nat) (f : Gate → Gate) (j : Nat) : (s.modGate g f).ctx j = s.ctx j := (rfl)
@[simp] theorem State.cfg_modGate (s : State) (g : Nat) (f : Gate → Gate) (j : Nat) : (s.modGate g f).cfg j = s.cfg j := (rfl)
@[simp] theorem State.stack_modGate (s : State) (g : Nat) (f : Gate → Gate) (j : Nat) : (s.modGate g f).stack j = s.stack j := (rfl)
@[simp] theorem State.bank_modGate (s : State) (g : Nat) (f : Gate → Gate) (j : Nat) : (s.modGate g f).bank j = s.bank j := (rfl)
@[simp] theorem State.unit_modGate (s : State) (g : Nat) (f : Gate → Gate) (j : Nat) : (s.modGate g f).unit j = s.unit j := (rfl)
@[simp] theorem State.pen_modGate (s : State) (g : Nat) (f : Gate → Gate) (j : Nat) : (s.modGate g f).pen j = s.pen j := (rfl)
@[simp] theorem State.rollCall_modGate (s : State) (g : Nat) (f : Gate → Gate) (j : Nat) : (s.modGate g f).rollCall j = s.rollCall j := (rfl)
@[simp] theorem State.port_modGate (s : State) (g : Nat) (f : Gate → Gate) (j : Nat) : (s.modGate g f).port j = s.port j := (rfl)
@[simp] theorem State.site_modGate (s : State) (g : Nat) (f : Gate → Gate) (j : Nat) : (s.modGate g f).site j = s.site j := (rfl)

@[simp] theorem State.quad_emit (s : State) (o : Output) (j : Nat) : (s.emit o).quad j = s.quad j := (rfl)
@[simp] theorem State.ctx_emit (s : State) (o : Output) (j : Nat) : (s.emit o).ctx j = s.ctx j := (rfl)
@[simp] theorem State.cfg_emit (s : State) (o : Output) (j : Nat) : (s.emit o).cfg j = s.cfg j := (rfl)
@[simp] theorem State.stack_emit (s : State) (o : Output) (j : Nat) : (s.emit o).stack j = s.stack j := (rfl)
@[simp] theorem State.bank_emit (s : State) (o : Output) (j : Nat) : (s.emit o).bank j = s.bank j := (rfl)
@[simp] theorem State.unit_emit (s : State) (o : Output) (j : Nat) : (s.emit o).unit j = s.unit j := (rfl)
@[simp] theorem State.pen_emit (s : State) (o : Output) (j : Nat) : (s.emit o).pen j = s.pen j := (rfl)
@[simp] theorem State.rollCall_emit (s : State) (o : Output) (j : Nat) : (s.emit o).rollCall j = s.rollCall j := (rfl)
@[simp] theorem State.port_emit (s : State) (o : Output) (j : Nat) : (s.emit o).port j = s.port j := (rfl)
@[simp] theorem State.gate_emit (s : State) (o : Output) (j : Nat) : (s.emit o).gate j = s.gate j := (rfl)
@[simp] theorem State.site_emit (s : State) (o : Output) (j : Nat) : (s.emit o).site j = s.site j := (rfl)

@[simp] theorem Quad.slot_setSlot_same (x : Quad) (i : Nat) (y : Slot) : (x.setSlot i y).slot i = y := tget_tset_same _ _ _ _
theorem Quad.slot_setSlot_ne (x : Quad) {i j : Nat} (y : Slot) (h : j ≠ i) : (x.setSlot i y).slot j = x.slot j :=
  tget_tset_ne _ _ _ h
@[simp] theorem State.slot_modSlot_same (s : State) (q i : Nat) (f : Slot → Slot) :
    (s.modSlot q i f).slot q i = f (s.slot q i) := by
  simp [State.modSlot, State.slot, Quad.modSlot]

/-! ## Folds and choices: what every step of a fold leaves alone, the fold leaves alone -/

theorem State.foldl_keeps {α β : Type} (p : State → β) (f : State → α → State) (h : ∀ s a, p (f s a) = p s)
    (l : List α) (s : State) : p (l.foldl f s) = p s := by
  induction l generalizing s with
  | nil => rfl
  | cons a l ih => rw [List.foldl_cons, ih, h]

theorem State.foldl_keeps_fst {α β γ : Type} (p : State → β) (f : State × γ → α → State × γ)
    (h : ∀ x a, p (f x a).1 = p x.1) (l : List α) (x : State × γ) : p (l.foldl f x).1 = p x.1 := by
  induction l generalizing x with
  | nil => rfl
  | cons a l ih => rw [List.foldl_cons, ih, h]

theorem State.foldl_keeps_snd {α β γ : Type} (p : State → β) (f : γ × State → α → γ × State)
    (h : ∀ x a, p (f x a).2 = p x.2) (l : List α) (x : γ × State) : p (l.foldl f x).2 = p x.2 := by
  induction l generalizing x with
  | nil => rfl
  | cons a l ih => rw [List.foldl_cons, ih, h]

/-- A property that every step of a fold keeps, the fold keeps. -/
theorem State.foldl_holds {α : Type} (p : State → Prop) (f : State → α → State) (h : ∀ s a, p s → p (f s a))
    (l : List α) (s : State) (hs : p s) : p (l.foldl f s) := by
  induction l generalizing s with
  | nil => exact hs
  | cons a l ih => exact ih _ (h _ _ hs)

@[simp] theorem State.foldl_pending {α : Type} (f : State → α → State) (h : ∀ s a, (f s a).pending = s.pending) (l : List α)
    (s : State) : (l.foldl f s).pending = s.pending := State.foldl_keeps State.pending f h l s
@[simp] theorem State.foldl_fst_pending {α γ : Type} (f : State × γ → α → State × γ) (h : ∀ x a, (f x a).1.pending = x.1.pending)
    (l : List α) (x : State × γ) : (l.foldl f x).1.pending = x.1.pending := State.foldl_keeps_fst State.pending f h l x
@[simp] theorem State.foldl_snd_pending {α γ : Type} (f : γ × State → α → γ × State) (h : ∀ x a, (f x a).2.pending = x.2.pending)
    (l : List α) (x : γ × State) : (l.foldl f x).2.pending = x.2.pending := State.foldl_keeps_snd State.pending f h l x
theorem State.ite_pending (c : Prop) [Decidable c] (s t : State) :
    (if c then s else t).pending = if c then s.pending else t.pending := by split <;> rfl

@[simp] theorem State.foldl_mem {α : Type} (f : State → α → State) (h : ∀ s a, (f s a).mem = s.mem) (l : List α)
    (s : State) : (l.foldl f s).mem = s.mem := State.foldl_keeps State.mem f h l s
@[simp] theorem State.foldl_fst_mem {α γ : Type} (f : State × γ → α → State × γ) (h : ∀ x a, (f x a).1.mem = x.1.mem)
    (l : List α) (x : State × γ) : (l.foldl f x).1.mem = x.1.mem := State.foldl_keeps_fst State.mem f h l x
@[simp] theorem State.foldl_snd_mem {α γ : Type} (f : γ × State → α → γ × State) (h : ∀ x a, (f x a).2.mem = x.2.mem)
    (l : List α) (x : γ × State) : (l.foldl f x).2.mem = x.2.mem := State.foldl_keeps_snd State.mem f h l x
theorem State.ite_mem (c : Prop) [Decidable c] (s t : State) :
    (if c then s else t).mem = if c then s.mem else t.mem := by split <;> rfl

@[simp] theorem State.foldl_retired {α : Type} (f : State → α → State) (h : ∀ s a, (f s a).health.retired = s.health.retired)
    (l : List α) (s : State) : (l.foldl f s).health.retired = s.health.retired :=
  State.foldl_keeps (fun s => s.health.retired) f h l s
@[simp] theorem State.foldl_fst_retired {α γ : Type} (f : State × γ → α → State × γ)
    (h : ∀ x a, (f x a).1.health.retired = x.1.health.retired) (l : List α) (x : State × γ) :
    (l.foldl f x).1.health.retired = x.1.health.retired := State.foldl_keeps_fst (fun s => s.health.retired) f h l x
@[simp] theorem State.foldl_snd_retired {α γ : Type} (f : γ × State → α → γ × State)
    (h : ∀ x a, (f x a).2.health.retired = x.2.health.retired) (l : List α) (x : γ × State) :
    (l.foldl f x).2.health.retired = x.2.health.retired := State.foldl_keeps_snd (fun s => s.health.retired) f h l x
theorem State.ite_retired (c : Prop) [Decidable c] (s t : State) :
    (if c then s else t).health.retired = if c then s.health.retired else t.health.retired := by split <;> rfl

end Sys2Proof.Machine
end

