-- ==== Sys2Proof/Laws/Memory.lean ====
section
/-! SUPPORT. The laws of memory: every operation on it keeps the canonical form, a column's bytes read back, and the bytes of
every other column stay. -/

set_option Elab.async false

namespace Sys2Proof.Machine

theorem Memory.wf_iff (m : Memory) : m.wf = true ↔ twf 0 m.data = true ∧ twf 0 m.chk = true := by
  simp [Memory.wf]

@[simp] theorem Memory.zero_wf : Memory.zero.wf = true := by decide

/-- A store of a column keeps the canonical form. -/
@[simp] theorem Memory.store_wf (m : Memory) (col : Nat) (data : List Byte) (poison : Bool) (h : m.wf = true) :
    (m.store col data poison).wf = true := by
  rw [Memory.wf_iff] at h ⊢
  exact ⟨twf_writeBytes _ _ _ h.1, twf_writeBytes _ _ _ h.2⟩

theorem twf_dropRange {V : Type} [DecidableEq V] (d : V) (t : Table V) (lo hi : Nat) (h : twf d t = true) :
    twf d (dropRange t lo hi) = true := twf_filter d t _ h

/-- The clearing of a plot keeps the canonical form. -/
@[simp] theorem Memory.clearPlot_wf (m : Memory) (p : Nat) (h : m.wf = true) : (m.clearPlot p).wf = true := by
  rw [Memory.wf_iff] at h ⊢
  exact ⟨twf_dropRange _ _ _ _ h.1, twf_dropRange _ _ _ _ h.2⟩

theorem rsStep_length (r : List Byte) (d : Byte) (h : r.length = 4) : (rsStep r d).length = 4 := by
  have hg : rsGen.length = 4 := by decide
  simp [rsStep, h, hg]

/-- A column has four check bytes. -/
theorem rsCheck_length (data : List Byte) : (rsCheck data).length = 4 := by
  have step : ∀ (l : List Byte) (r : List Byte), r.length = 4 → (l.foldl rsStep r).length = 4 := by
    intro l
    induction l with
    | nil => intro r h; exact h
    | cons d l ih => intro r h; exact ih _ (rsStep_length r d h)
  exact step data _ rfl

/-- The check bytes a store writes: XORed with the poison pattern when poisoned (R36). -/
def checkBytes (data : List Byte) (poison : Bool) : List Byte :=
  if poison then List.zipWith (· ^^^ ·) (rsCheck data) poisonPattern else rsCheck data

theorem checkBytes_length (data : List Byte) (poison : Bool) : (checkBytes data poison).length = 4 := by
  unfold checkBytes
  split <;> simp [rsCheck_length, poisonPattern]

/-- The 36 bytes of the column just stored. -/
theorem Memory.raw_store_same (m : Memory) (col : Nat) (data : List Byte) (poison : Bool) (h : data.length = 32) :
    (m.store col data poison).raw col = data ++ checkBytes data poison := by
  have h1 : readBytes (m.store col data poison).data (32 * col) 32 = data := by
    have := readBytes_writeBytes_same m.data (32 * col) data
    rwa [h] at this
  have h2 : readBytes (m.store col data poison).chk (4 * col) 4 = checkBytes data poison := by
    have := readBytes_writeBytes_same m.chk (4 * col) (checkBytes data poison)
    rwa [checkBytes_length] at this
  unfold Memory.raw
  rw [h1, h2]

/-- The 36 bytes of every other column stay. -/
theorem Memory.raw_store_ne (m : Memory) {col other : Nat} (data : List Byte) (poison : Bool) (h : data.length = 32)
    (hne : other ≠ col) : (m.store col data poison).raw other = m.raw other := by
  have h1 : readBytes (m.store col data poison).data (32 * other) 32 = readBytes m.data (32 * other) 32 :=
    readBytes_writeBytes_out _ _ _ _ _ (by omega)
  have h2 : readBytes (m.store col data poison).chk (4 * other) 4 = readBytes m.chk (4 * other) 4 :=
    readBytes_writeBytes_out m.chk (4 * other) (4 * col) 4 (checkBytes data poison) (by rw [checkBytes_length]; omega)
  unfold Memory.raw
  rw [h1, h2]

/-- A store changes the decoding of no other column. -/
theorem Memory.decode_store_ne (m : Memory) {col other : Nat} (data : List Byte) (poison : Bool) (h : data.length = 32)
    (hne : other ≠ col) : (m.store col data poison).decode other = m.decode other := by
  unfold Memory.decode
  rw [Memory.raw_store_ne m data poison h hne]

theorem tget_dropRange_out {V : Type} (d : V) (t : Table V) (lo hi i : Nat) (h : i < lo ∨ hi ≤ i) :
    tget d (dropRange t lo hi) i = tget d t i := by
  induction t with
  | nil => rfl
  | cons p t ih =>
    obtain ⟨k, v⟩ := p
    by_cases hk : k < lo ∨ hi ≤ k
    · simp [dropRange, hk, tget] at ih ⊢; rw [ih]
    · have : i ≠ k := fun e => hk (e ▸ h)
      simp [dropRange, hk, tget, this] at ih ⊢; exact ih

/-- Clearing a plot leaves the columns of every other plot alone (R543). -/
theorem Memory.raw_clearPlot_ne (m : Memory) (p col : Nat) (h : col / 2048 ≠ p) : (m.clearPlot p).raw col = m.raw col := by
  unfold Memory.raw Memory.clearPlot
  congr 1
  · exact readBytes_congr _ _ _ _ (fun i h1 h2 => tget_dropRange_out _ _ _ _ _ (by omega))
  · exact readBytes_congr _ _ _ _ (fun i h1 h2 => tget_dropRange_out _ _ _ _ _ (by omega))

end Sys2Proof.Machine
end

