-- ==== Sys2Proof/Laws/Flags.lean ====
section
/-! SUPPORT. What the operations of Machine/Flags.lean leave alone, and what they keep. -/

set_option Elab.async false
set_option linter.unusedSimpArgs false
set_option linter.unusedTactic false
set_option linter.unreachableTactic false
set_option linter.unnecessarySeqFocus false
set_option linter.unnecessarySimpa false

namespace Sys2Proof.Machine

/-! ## The queue of commands is left alone -/

@[simp] theorem State.logOnly_pending (s : State) (code : BitVec 16) (inst : Nat) (ctx : BitVec 8) (value address : Nat) :
    (s.logOnly code inst ctx value address).pending = s.pending := by
  simp [State.logOnly]

@[simp] theorem State.emcyCtx_pending (s : State) (code : BitVec 16) (inst value : Nat) (ctx : BitVec 8) (address : Nat) :
    (s.emcyCtx code inst value ctx address).pending = s.pending := by
  simp [State.emcyCtx]

@[simp] theorem State.emcyEvent_pending (s : State) (code : BitVec 16) (inst value : Nat) :
    (s.emcyEvent code inst value).pending = s.pending := by
  simp [State.emcyEvent]

@[simp] theorem State.raiseCondition_pending (s : State) (code : BitVec 16) (inst value : Nat) :
    (s.raiseCondition code inst value).pending = s.pending := by
  unfold State.raiseCondition
  split <;> simp

@[simp] theorem State.clearCondition_pending (s : State) (code : BitVec 16) (inst : Nat) :
    (s.clearCondition code inst).pending = s.pending := by
  unfold State.clearCondition
  split <;> simp

/-! ## Memory is left alone -/

@[simp] theorem State.logOnly_mem (s : State) (code : BitVec 16) (inst : Nat) (ctx : BitVec 8) (value address : Nat) :
    (s.logOnly code inst ctx value address).mem = s.mem := by
  simp [State.logOnly]

@[simp] theorem State.emcyCtx_mem (s : State) (code : BitVec 16) (inst value : Nat) (ctx : BitVec 8) (address : Nat) :
    (s.emcyCtx code inst value ctx address).mem = s.mem := by
  simp [State.emcyCtx]

@[simp] theorem State.emcyEvent_mem (s : State) (code : BitVec 16) (inst value : Nat) :
    (s.emcyEvent code inst value).mem = s.mem := by
  simp [State.emcyEvent]

@[simp] theorem State.raiseCondition_mem (s : State) (code : BitVec 16) (inst value : Nat) :
    (s.raiseCondition code inst value).mem = s.mem := by
  unfold State.raiseCondition
  split <;> simp

@[simp] theorem State.clearCondition_mem (s : State) (code : BitVec 16) (inst : Nat) :
    (s.clearCondition code inst).mem = s.mem := by
  unfold State.clearCondition
  split <;> simp

/-! ## The retirement list is left alone (R362) -/

@[simp] theorem State.logOnly_retired (s : State) (code : BitVec 16) (inst : Nat) (ctx : BitVec 8) (value address : Nat) :
    (s.logOnly code inst ctx value address).health.retired = s.health.retired := by
  simp [State.logOnly]

@[simp] theorem State.emcyCtx_retired (s : State) (code : BitVec 16) (inst value : Nat) (ctx : BitVec 8) (address : Nat) :
    (s.emcyCtx code inst value ctx address).health.retired = s.health.retired := by
  simp [State.emcyCtx]

@[simp] theorem State.emcyEvent_retired (s : State) (code : BitVec 16) (inst value : Nat) :
    (s.emcyEvent code inst value).health.retired = s.health.retired := by
  simp [State.emcyEvent]

@[simp] theorem State.raiseCondition_retired (s : State) (code : BitVec 16) (inst value : Nat) :
    (s.raiseCondition code inst value).health.retired = s.health.retired := by
  unfold State.raiseCondition
  split <;> simp

@[simp] theorem State.clearCondition_retired (s : State) (code : BitVec 16) (inst : Nat) :
    (s.clearCondition code inst).health.retired = s.health.retired := by
  unfold State.clearCondition
  split <;> simp

end Sys2Proof.Machine
end

