-- ==== Sys2Proof/Laws/Ops.lean ====
section
/-! SUPPORT. What the operations of Machine/Ops.lean leave alone, and what they keep. -/

set_option Elab.async false
set_option linter.unusedSimpArgs false
set_option linter.unusedTactic false
set_option linter.unreachableTactic false
set_option linter.unnecessarySeqFocus false
set_option linter.unnecessarySimpa false

namespace Sys2Proof.Machine

/-! ## The queue of commands is left alone -/

@[simp] theorem State.answer_pending (s : State) (code : BitVec 16) (payload : List Byte) :
    (s.answer code payload).pending = s.pending := by
  simp [State.answer]

@[simp] theorem State.cxlAnswer_pending (s : State) (rc : Rc) (payload : List Byte) :
    (s.cxlAnswer rc payload).pending = s.pending := by
  simp [State.cxlAnswer]

@[simp] theorem State.addEvent_pending (s : State) (kind addr : Nat) :
    (s.addEvent kind addr).pending = s.pending := by
  simp [State.addEvent]

@[simp] theorem State.account_pending (s : State) (q code n : Nat) :
    (s.account q code n).pending = s.pending := by
  simp [State.account]

@[simp] theorem State.endHold_pending (s : State) (q : Nat) :
    (s.endHold q).pending = s.pending := by
  unfold State.endHold
  simp [State.ite_pending]

@[simp] theorem State.accountHold_pending (s : State) (q code unit bound : Nat) :
    (s.accountHold q code unit bound).pending = s.pending := by
  unfold State.accountHold
  split <;> simp

@[simp] theorem State.accountOpen_pending (s : State) (q code : Nat) :
    (s.accountOpen q code).pending = s.pending := by
  unfold State.accountOpen
  split <;> simp

@[simp] theorem State.passRate_pending (s : State) (q n : Nat) (assigned : Bool) :
    (s.passRate q n assigned).pending = s.pending := by
  unfold State.passRate
  dsimp only
  (repeat' split) <;> simp [State.ite_pending]

@[simp] theorem State.accountWait_pending (s : State) (q ns : Nat) :
    (s.accountWait q ns).pending = s.pending := by
  unfold State.accountWait
  simp only []
  split
  · rfl
  · split <;> rfl

@[simp] theorem State.passTime_pending (s : State) (t : Nat) :
    (s.passTime t).pending = s.pending := by
  unfold State.passTime
  split <;> simp

@[simp] theorem State.demandGate_pending (s : State) (g : Nat) :
    (s.demandGate g).pending = s.pending := by
  unfold State.demandGate
  simp [State.ite_pending]

@[simp] theorem State.linkSend_pending (s : State) (st : Nat) (kind : LinkKind) (banks : List Nat) (arg : Nat) :
    (s.linkSend st kind banks arg).pending = s.pending := by
  unfold State.linkSend
  dsimp only
  (repeat' split) <;> simp [State.ite_pending]

@[simp] theorem State.linkBank_pending (s : State) (bank : Nat) (kind : LinkKind) (arg : Nat) :
    (s.linkBank bank kind arg).pending = s.pending := by
  simp [State.linkBank]

@[simp] theorem State.linkUnits_pending (s : State) (q : Nat) (us : List Nat) (kind : LinkKind) (arg : Nat) :
    (s.linkUnits q us kind arg).pending = s.pending := by
  unfold State.linkUnits
  apply State.foldl_pending
  intros
  simp [State.ite_pending]

@[simp] theorem State.draw_pending (w : Nat) (s : State) :
    (State.draw w s).2.pending = s.pending := by
  simp [State.draw]

@[simp] theorem State.storeCol_pending (s : State) (col : Nat) (data : List Byte) (poison : Bool) :
    (s.storeCol col data poison).pending = s.pending := by
  unfold State.storeCol
  split <;> simp

@[simp] theorem State.retirePlot_pending (s : State) (p : Nat) :
    (s.retirePlot p).pending = s.pending := by
  unfold State.retirePlot
  simp [State.ite_pending]

@[simp] theorem State.queuePlot_pending (s : State) (p : Nat) :
    (s.queuePlot p).pending = s.pending := by
  unfold State.queuePlot
  simp [State.ite_pending]

@[simp] theorem State.noteUe_pending (s : State) (col : Nat) :
    (s.noteUe col).pending = s.pending := by
  unfold State.noteUe
  simp [State.ite_pending]

@[simp] theorem State.markUnsettled_pending (s : State) (c q origin : Nat) :
    (s.markUnsettled c q origin).pending = s.pending := by
  simp [State.markUnsettled]

@[simp] theorem State.unsettleSlot_pending (s : State) (q sl origin : Nat) :
    (s.unsettleSlot q sl origin).pending = s.pending := by
  unfold State.unsettleSlot
  split <;> simp

@[simp] theorem State.enterBuffer_pending (s : State) (c : Nat) (x0 : Nat) :
    (s.enterBuffer c x0).pending = s.pending := by
  induction x0 generalizing s with
  | zero => rfl
  | succ n ih =>
    unfold State.enterBuffer
    dsimp only
    (repeat' split) <;> simp [ih, State.ite_pending] <;> (repeat' split) <;> simp [State.ite_pending]

@[simp] theorem State.fillBuffer_pending (s : State) :
    (s.fillBuffer).pending = s.pending := by
  unfold State.fillBuffer
  simp [State.ite_pending]

@[simp] theorem State.postFrom_pending (s : State) (c : Nat) (r : Report) (after : List (Nat × Nat)) (early : Bool) (src : Option (Nat × Nat)) :
    (s.postFrom c r after early src).pending = s.pending := by
  unfold State.postFrom
  (repeat' split) <;> simp [State.ite_pending] <;> (repeat' split) <;> simp

@[simp] theorem State.post_pending (s : State) (c : Nat) (r : Report) :
    (s.post c r).pending = s.pending := by
  simp [State.post]

@[simp] theorem State.freeVia_pending (s : State) (f : PeerFrame) :
    (s.freeVia f).pending = s.pending := by
  unfold State.freeVia
  (repeat' split) <;> simp

@[simp] theorem State.sendOn_pending (s : State) (p : Nat) (f : PeerFrame) :
    (s.sendOn p f).pending = s.pending := by
  simp [State.sendOn]

@[simp] theorem State.pump_pending (s : State) (p : Nat) (x0 : Nat) :
    (s.pump p x0).pending = s.pending := by
  induction x0 generalizing s with
  | zero => simp [State.pump]
  | succ n ih =>
    unfold State.pump
    (repeat' split) <;> simp [ih, State.ite_pending]

@[simp] theorem State.enqueue_pending (s : State) (p : Nat) (f : PeerFrame) :
    (s.enqueue p f).pending = s.pending := by
  simp [State.enqueue]

@[simp] theorem State.route_pending (s : State) (f : PeerFrame) :
    (s.route f).pending = s.pending := by
  simp [State.route]

@[simp] theorem State.sendTo_pending (s : State) (dst : Nat) (b : FrameBody) :
    (s.sendTo dst b).pending = s.pending := by
  simp [State.sendTo]

@[simp] theorem State.broadcast_pending (s : State) (b : FrameBody) :
    (s.broadcast b).pending = s.pending := by
  unfold State.broadcast
  dsimp only [List.foldl]
  (repeat' split) <;> simp

@[simp] theorem State.setRemote_pending (s : State) (module phys : Nat) (r : RemotePen) :
    (s.setRemote module phys r).pending = s.pending := by
  simp [State.setRemote]

@[simp] theorem State.subscribe_pending (s : State) (c ident : Nat) :
    (s.subscribe c ident).pending = s.pending := by
  unfold State.subscribe
  simp [State.ite_pending]

@[simp] theorem State.evalSlot_pending (s : State) (q sl : Nat) :
    (s.evalSlot q sl).pending = s.pending := by
  unfold State.evalSlot
  (repeat' split) <;> simp [State.ite_pending] <;> (repeat' split) <;> simp

@[simp] theorem State.evalWatch_pending (s : State) (c i : Nat) :
    (s.evalWatch c i).pending = s.pending := by
  unfold State.evalWatch
  (repeat' split) <;> simp [State.ite_pending] <;> (repeat' split) <;> simp

@[simp] theorem State.evalWaiters_pending (s : State) :
    (s.evalWaiters).pending = s.pending := by
  simp [State.evalWaiters]

@[simp] theorem State.trimSubs_pending (s : State) :
    (s.trimSubs).pending = s.pending := by
  unfold State.trimSubs
  simp [State.ite_pending]

@[simp] theorem State.tellSub_pending (s : State) (dst p : Nat) :
    (s.tellSub dst p).pending = s.pending := by
  unfold State.tellSub
  dsimp only
  split <;> simp

@[simp] theorem State.tellNews_pending (s : State) :
    (s.tellNews).pending = s.pending := by
  simp [State.tellNews]

@[simp] theorem State.notifySubs_pending (s : State) (p : Nat) :
    (s.notifySubs p).pending = s.pending := by
  simp [State.notifySubs]

@[simp] theorem State.hoistPhys_pending (s : State) (p amt : Nat) :
    (s.hoistPhys p amt).pending = s.pending := by
  unfold State.hoistPhys
  simp [State.ite_pending]

@[simp] theorem State.hoistBinding_pending (s : State) (b : PenBinding) (amt : Nat) :
    (s.hoistBinding b amt).pending = s.pending := by
  unfold State.hoistBinding
  (repeat' split) <;> simp

@[simp] theorem State.hoistIdent_pending (s : State) (c ident amt : Nat) :
    (s.hoistIdent c ident amt).pending = s.pending := by
  simp [State.hoistIdent]

@[simp] theorem State.lowerPen_pending (s : State) (phys : Nat) :
    (s.lowerPen phys).pending = s.pending := by
  unfold State.lowerPen
  simp [State.ite_pending]

@[simp] theorem State.giveBack_pending (s : State) (module phys : BitVec 14) :
    (s.giveBack module phys).pending = s.pending := by
  unfold State.giveBack
  split <;> simp

@[simp] theorem State.dropBinding_pending (s : State) (b : PenBinding) :
    (s.dropBinding b).pending = s.pending := by
  unfold State.dropBinding
  simp [State.ite_pending]

@[simp] theorem State.bindIdent_pending (s : State) (c ident : Nat) (b : PenBinding) :
    (s.bindIdent c ident b).pending = s.pending := by
  unfold State.bindIdent
  dsimp only
  (repeat' split) <;> simp

@[simp] theorem State.halfMastPen_pending (s : State) (p : Nat) :
    (s.halfMastPen p).pending = s.pending := by
  unfold State.halfMastPen
  simp [State.ite_pending]

@[simp] theorem State.runHoist_pending (s : State) :
    (s.runHoist).pending = s.pending := by
  unfold State.runHoist
  split <;> simp

@[simp] theorem State.runHoists_pending (s : State) :
    (s.runHoists).pending = s.pending := by
  simp [State.runHoists]

@[simp] theorem State.queueHoist_pending (s : State) (q c : Nat) (b : PenBinding) (amt before : Nat) :
    (s.queueHoist q c b amt before).pending = s.pending := by
  simp [State.queueHoist]

@[simp] theorem State.evalFence_pending (s : State) (q sl : Nat) :
    (s.evalFence q sl).pending = s.pending := by
  unfold State.evalFence
  (repeat' split) <;> simp [State.ite_pending] <;> (repeat' split) <;> simp

@[simp] theorem State.afterDrain_pending (s : State) (q : Nat) :
    (s.afterDrain q).pending = s.pending := by
  simp [State.afterDrain]

@[simp] theorem State.drainOne_pending (s : State) (st : Nat) :
    (s.drainOne st).pending = s.pending := by
  simp [State.drainOne]

@[simp] theorem State.drainMany_pending (s : State) (st : Nat) (x0 : Nat) :
    (s.drainMany st x0).pending = s.pending := by
  induction x0 generalizing s with
  | zero => simp [State.drainMany]
  | succ n ih => simp [State.drainMany, ih, State.ite_pending]

@[simp] theorem State.queueWrite_pending (s : State) (col : Nat) (ctx : Option Nat) (seq : Nat) (goes : Option Nat) :
    (s.queueWrite col ctx seq goes).pending = s.pending := by
  unfold State.queueWrite
  simp [State.ite_pending]

@[simp] theorem State.drainColumn_pending (s : State) (col : Nat) :
    (s.drainColumn col).pending = s.pending := by
  unfold State.drainColumn
  simp [State.ite_pending]

@[simp] theorem State.releaseSlot_pending (s : State) (num round : Nat) (poisoned : Bool) (q sl : Nat) :
    (s.releaseSlot num round poisoned q sl).pending = s.pending := by
  unfold State.releaseSlot
  (repeat' split) <;> simp [State.ite_pending] <;> (repeat' split) <;> simp

@[simp] theorem State.releaseReports_pending (s : State) (num round : Nat) (poisoned : Bool) (c : Nat) :
    (s.releaseReports num round poisoned c).pending = s.pending := by
  simp [State.releaseReports]

@[simp] theorem State.releaseRound_pending (s : State) (num : Nat) (poisoned : Bool) :
    (s.releaseRound num poisoned).pending = s.pending := by
  simp [State.releaseRound]

@[simp] theorem State.sendNotices_pending (s : State) (num bell : Nat) :
    (s.sendNotices num bell).pending = s.pending := by
  unfold State.sendNotices
  apply State.foldl_pending
  intros
  simp [State.ite_pending]

@[simp] theorem State.homeCheck_pending (s : State) (num : Nat) :
    (s.homeCheck num).pending = s.pending := by
  unfold State.homeCheck
  dsimp only
  (repeat' split) <;> simp

@[simp] theorem State.homeArrival_pending (s : State) (num pos : Nat) :
    (s.homeArrival num pos).pending = s.pending := by
  simp [State.homeArrival]

@[simp] theorem State.reportArrival_pending (s : State) (num : Nat) :
    (s.reportArrival num).pending = s.pending := by
  unfold State.reportArrival
  (repeat' split) <;> simp [State.ite_pending] <;> (repeat' split) <;> simp

@[simp] theorem State.killHandles_pending (s : State) (num : Nat) :
    (s.killHandles num).pending = s.pending := by
  unfold State.killHandles
  apply State.foldl_pending
  intros
  simp

@[simp] theorem State.ringRollAlone_pending (s : State) (num : Nat) :
    (s.ringRollAlone num).pending = s.pending := by
  simp only [State.ringRollAlone]
  (repeat' split) <;> simp [State.ite_pending] <;> intros <;> (repeat' split) <;> simp [State.ite_pending]

@[simp] theorem State.arriveAt_pending (s : State) (num b : Nat) :
    (s.arriveAt num b).1.pending = s.pending := by
  unfold State.arriveAt
  (repeat' split) <;> simp [State.ite_pending] <;> (repeat' split) <;> simp

@[simp] theorem State.arriveEngine_pending (s : State) (num b : Nat) :
    (s.arriveEngine num b).1.pending = s.pending := by
  unfold State.arriveEngine
  (repeat' split) <;> simp [State.ite_pending] <;> (repeat' split) <;> simp

/-! ## Memory is left alone -/

@[simp] theorem State.answer_mem (s : State) (code : BitVec 16) (payload : List Byte) :
    (s.answer code payload).mem = s.mem := by
  simp [State.answer]

@[simp] theorem State.cxlAnswer_mem (s : State) (rc : Rc) (payload : List Byte) :
    (s.cxlAnswer rc payload).mem = s.mem := by
  simp [State.cxlAnswer]

@[simp] theorem State.addEvent_mem (s : State) (kind addr : Nat) :
    (s.addEvent kind addr).mem = s.mem := by
  simp [State.addEvent]

@[simp] theorem State.account_mem (s : State) (q code n : Nat) :
    (s.account q code n).mem = s.mem := by
  simp [State.account]

@[simp] theorem State.endHold_mem (s : State) (q : Nat) :
    (s.endHold q).mem = s.mem := by
  unfold State.endHold
  simp [State.ite_mem]

@[simp] theorem State.accountHold_mem (s : State) (q code unit bound : Nat) :
    (s.accountHold q code unit bound).mem = s.mem := by
  unfold State.accountHold
  split <;> simp

@[simp] theorem State.accountOpen_mem (s : State) (q code : Nat) :
    (s.accountOpen q code).mem = s.mem := by
  unfold State.accountOpen
  split <;> simp

@[simp] theorem State.passRate_mem (s : State) (q n : Nat) (assigned : Bool) :
    (s.passRate q n assigned).mem = s.mem := by
  unfold State.passRate
  dsimp only
  (repeat' split) <;> simp [State.ite_mem]

@[simp] theorem State.accountWait_mem (s : State) (q ns : Nat) :
    (s.accountWait q ns).mem = s.mem := by
  unfold State.accountWait
  simp only []
  split
  · rfl
  · split <;> rfl

@[simp] theorem State.passTime_mem (s : State) (t : Nat) :
    (s.passTime t).mem = s.mem := by
  unfold State.passTime
  split <;> simp

@[simp] theorem State.demandGate_mem (s : State) (g : Nat) :
    (s.demandGate g).mem = s.mem := by
  unfold State.demandGate
  simp [State.ite_mem]

@[simp] theorem State.linkSend_mem (s : State) (st : Nat) (kind : LinkKind) (banks : List Nat) (arg : Nat) :
    (s.linkSend st kind banks arg).mem = s.mem := by
  unfold State.linkSend
  dsimp only
  (repeat' split) <;> simp [State.ite_mem]

@[simp] theorem State.linkBank_mem (s : State) (bank : Nat) (kind : LinkKind) (arg : Nat) :
    (s.linkBank bank kind arg).mem = s.mem := by
  simp [State.linkBank]

@[simp] theorem State.linkUnits_mem (s : State) (q : Nat) (us : List Nat) (kind : LinkKind) (arg : Nat) :
    (s.linkUnits q us kind arg).mem = s.mem := by
  unfold State.linkUnits
  apply State.foldl_mem
  intros
  simp [State.ite_mem]

@[simp] theorem State.draw_mem (w : Nat) (s : State) :
    (State.draw w s).2.mem = s.mem := by
  simp [State.draw]

@[simp] theorem State.retirePlot_mem (s : State) (p : Nat) :
    (s.retirePlot p).mem = s.mem := by
  unfold State.retirePlot
  simp [State.ite_mem]

@[simp] theorem State.queuePlot_mem (s : State) (p : Nat) :
    (s.queuePlot p).mem = s.mem := by
  unfold State.queuePlot
  simp [State.ite_mem]

@[simp] theorem State.noteUe_mem (s : State) (col : Nat) :
    (s.noteUe col).mem = s.mem := by
  unfold State.noteUe
  simp [State.ite_mem]

@[simp] theorem State.markUnsettled_mem (s : State) (c q origin : Nat) :
    (s.markUnsettled c q origin).mem = s.mem := by
  simp [State.markUnsettled]

@[simp] theorem State.unsettleSlot_mem (s : State) (q sl origin : Nat) :
    (s.unsettleSlot q sl origin).mem = s.mem := by
  unfold State.unsettleSlot
  split <;> simp

@[simp] theorem State.enterBuffer_mem (s : State) (c : Nat) (x0 : Nat) :
    (s.enterBuffer c x0).mem = s.mem := by
  induction x0 generalizing s with
  | zero => rfl
  | succ n ih =>
    unfold State.enterBuffer
    dsimp only
    (repeat' split) <;> simp [ih, State.ite_mem] <;> (repeat' split) <;> simp [State.ite_mem]

@[simp] theorem State.fillBuffer_mem (s : State) :
    (s.fillBuffer).mem = s.mem := by
  unfold State.fillBuffer
  simp [State.ite_mem]

@[simp] theorem State.postFrom_mem (s : State) (c : Nat) (r : Report) (after : List (Nat × Nat)) (early : Bool) (src : Option (Nat × Nat)) :
    (s.postFrom c r after early src).mem = s.mem := by
  unfold State.postFrom
  (repeat' split) <;> simp [State.ite_mem] <;> (repeat' split) <;> simp

@[simp] theorem State.post_mem (s : State) (c : Nat) (r : Report) :
    (s.post c r).mem = s.mem := by
  simp [State.post]

@[simp] theorem State.freeVia_mem (s : State) (f : PeerFrame) :
    (s.freeVia f).mem = s.mem := by
  unfold State.freeVia
  (repeat' split) <;> simp

@[simp] theorem State.sendOn_mem (s : State) (p : Nat) (f : PeerFrame) :
    (s.sendOn p f).mem = s.mem := by
  simp [State.sendOn]

@[simp] theorem State.pump_mem (s : State) (p : Nat) (x0 : Nat) :
    (s.pump p x0).mem = s.mem := by
  induction x0 generalizing s with
  | zero => simp [State.pump]
  | succ n ih =>
    unfold State.pump
    (repeat' split) <;> simp [ih, State.ite_mem]

@[simp] theorem State.enqueue_mem (s : State) (p : Nat) (f : PeerFrame) :
    (s.enqueue p f).mem = s.mem := by
  simp [State.enqueue]

@[simp] theorem State.route_mem (s : State) (f : PeerFrame) :
    (s.route f).mem = s.mem := by
  simp [State.route]

@[simp] theorem State.sendTo_mem (s : State) (dst : Nat) (b : FrameBody) :
    (s.sendTo dst b).mem = s.mem := by
  simp [State.sendTo]

@[simp] theorem State.broadcast_mem (s : State) (b : FrameBody) :
    (s.broadcast b).mem = s.mem := by
  unfold State.broadcast
  dsimp only [List.foldl]
  (repeat' split) <;> simp

@[simp] theorem State.setRemote_mem (s : State) (module phys : Nat) (r : RemotePen) :
    (s.setRemote module phys r).mem = s.mem := by
  simp [State.setRemote]

@[simp] theorem State.subscribe_mem (s : State) (c ident : Nat) :
    (s.subscribe c ident).mem = s.mem := by
  unfold State.subscribe
  simp [State.ite_mem]

@[simp] theorem State.evalSlot_mem (s : State) (q sl : Nat) :
    (s.evalSlot q sl).mem = s.mem := by
  unfold State.evalSlot
  (repeat' split) <;> simp [State.ite_mem] <;> (repeat' split) <;> simp

@[simp] theorem State.evalWatch_mem (s : State) (c i : Nat) :
    (s.evalWatch c i).mem = s.mem := by
  unfold State.evalWatch
  (repeat' split) <;> simp [State.ite_mem] <;> (repeat' split) <;> simp

@[simp] theorem State.evalWaiters_mem (s : State) :
    (s.evalWaiters).mem = s.mem := by
  simp [State.evalWaiters]

@[simp] theorem State.trimSubs_mem (s : State) :
    (s.trimSubs).mem = s.mem := by
  unfold State.trimSubs
  simp [State.ite_mem]

@[simp] theorem State.tellSub_mem (s : State) (dst p : Nat) :
    (s.tellSub dst p).mem = s.mem := by
  unfold State.tellSub
  dsimp only
  split <;> simp

@[simp] theorem State.tellNews_mem (s : State) :
    (s.tellNews).mem = s.mem := by
  simp [State.tellNews]

@[simp] theorem State.notifySubs_mem (s : State) (p : Nat) :
    (s.notifySubs p).mem = s.mem := by
  simp [State.notifySubs]

@[simp] theorem State.hoistPhys_mem (s : State) (p amt : Nat) :
    (s.hoistPhys p amt).mem = s.mem := by
  unfold State.hoistPhys
  simp [State.ite_mem]

@[simp] theorem State.hoistBinding_mem (s : State) (b : PenBinding) (amt : Nat) :
    (s.hoistBinding b amt).mem = s.mem := by
  unfold State.hoistBinding
  (repeat' split) <;> simp

@[simp] theorem State.hoistIdent_mem (s : State) (c ident amt : Nat) :
    (s.hoistIdent c ident amt).mem = s.mem := by
  simp [State.hoistIdent]

@[simp] theorem State.lowerPen_mem (s : State) (phys : Nat) :
    (s.lowerPen phys).mem = s.mem := by
  unfold State.lowerPen
  simp [State.ite_mem]

@[simp] theorem State.giveBack_mem (s : State) (module phys : BitVec 14) :
    (s.giveBack module phys).mem = s.mem := by
  unfold State.giveBack
  split <;> simp

@[simp] theorem State.dropBinding_mem (s : State) (b : PenBinding) :
    (s.dropBinding b).mem = s.mem := by
  unfold State.dropBinding
  simp [State.ite_mem]

@[simp] theorem State.bindIdent_mem (s : State) (c ident : Nat) (b : PenBinding) :
    (s.bindIdent c ident b).mem = s.mem := by
  unfold State.bindIdent
  dsimp only
  (repeat' split) <;> simp

@[simp] theorem State.halfMastPen_mem (s : State) (p : Nat) :
    (s.halfMastPen p).mem = s.mem := by
  unfold State.halfMastPen
  simp [State.ite_mem]

@[simp] theorem State.runHoist_mem (s : State) :
    (s.runHoist).mem = s.mem := by
  unfold State.runHoist
  split <;> simp

@[simp] theorem State.runHoists_mem (s : State) :
    (s.runHoists).mem = s.mem := by
  simp [State.runHoists]

@[simp] theorem State.queueHoist_mem (s : State) (q c : Nat) (b : PenBinding) (amt before : Nat) :
    (s.queueHoist q c b amt before).mem = s.mem := by
  simp [State.queueHoist]

@[simp] theorem State.evalFence_mem (s : State) (q sl : Nat) :
    (s.evalFence q sl).mem = s.mem := by
  unfold State.evalFence
  (repeat' split) <;> simp [State.ite_mem] <;> (repeat' split) <;> simp

@[simp] theorem State.afterDrain_mem (s : State) (q : Nat) :
    (s.afterDrain q).mem = s.mem := by
  simp [State.afterDrain]

@[simp] theorem State.drainOne_mem (s : State) (st : Nat) :
    (s.drainOne st).mem = s.mem := by
  simp [State.drainOne]

@[simp] theorem State.drainMany_mem (s : State) (st : Nat) (x0 : Nat) :
    (s.drainMany st x0).mem = s.mem := by
  induction x0 generalizing s with
  | zero => simp [State.drainMany]
  | succ n ih => simp [State.drainMany, ih, State.ite_mem]

@[simp] theorem State.queueWrite_mem (s : State) (col : Nat) (ctx : Option Nat) (seq : Nat) (goes : Option Nat) :
    (s.queueWrite col ctx seq goes).mem = s.mem := by
  unfold State.queueWrite
  simp [State.ite_mem]

@[simp] theorem State.drainColumn_mem (s : State) (col : Nat) :
    (s.drainColumn col).mem = s.mem := by
  unfold State.drainColumn
  simp [State.ite_mem]

@[simp] theorem State.releaseSlot_mem (s : State) (num round : Nat) (poisoned : Bool) (q sl : Nat) :
    (s.releaseSlot num round poisoned q sl).mem = s.mem := by
  unfold State.releaseSlot
  (repeat' split) <;> simp [State.ite_mem] <;> (repeat' split) <;> simp

@[simp] theorem State.releaseReports_mem (s : State) (num round : Nat) (poisoned : Bool) (c : Nat) :
    (s.releaseReports num round poisoned c).mem = s.mem := by
  simp [State.releaseReports]

@[simp] theorem State.releaseRound_mem (s : State) (num : Nat) (poisoned : Bool) :
    (s.releaseRound num poisoned).mem = s.mem := by
  simp [State.releaseRound]

@[simp] theorem State.sendNotices_mem (s : State) (num bell : Nat) :
    (s.sendNotices num bell).mem = s.mem := by
  unfold State.sendNotices
  apply State.foldl_mem
  intros
  simp [State.ite_mem]

@[simp] theorem State.homeCheck_mem (s : State) (num : Nat) :
    (s.homeCheck num).mem = s.mem := by
  unfold State.homeCheck
  dsimp only
  (repeat' split) <;> simp

@[simp] theorem State.homeArrival_mem (s : State) (num pos : Nat) :
    (s.homeArrival num pos).mem = s.mem := by
  simp [State.homeArrival]

@[simp] theorem State.reportArrival_mem (s : State) (num : Nat) :
    (s.reportArrival num).mem = s.mem := by
  unfold State.reportArrival
  (repeat' split) <;> simp [State.ite_mem] <;> (repeat' split) <;> simp

@[simp] theorem State.killHandles_mem (s : State) (num : Nat) :
    (s.killHandles num).mem = s.mem := by
  unfold State.killHandles
  apply State.foldl_mem
  intros
  simp

@[simp] theorem State.ringRollAlone_mem (s : State) (num : Nat) :
    (s.ringRollAlone num).mem = s.mem := by
  simp only [State.ringRollAlone]
  (repeat' split) <;> simp [State.ite_mem] <;> intros <;> (repeat' split) <;> simp [State.ite_mem]

@[simp] theorem State.arriveAt_mem (s : State) (num b : Nat) :
    (s.arriveAt num b).1.mem = s.mem := by
  unfold State.arriveAt
  (repeat' split) <;> simp [State.ite_mem] <;> (repeat' split) <;> simp

@[simp] theorem State.arriveEngine_mem (s : State) (num b : Nat) :
    (s.arriveEngine num b).1.mem = s.mem := by
  unfold State.arriveEngine
  (repeat' split) <;> simp [State.ite_mem] <;> (repeat' split) <;> simp

/-! ## Memory keeps its canonical form -/

@[simp] theorem State.storeCol_wf (s : State) (col : Nat) (data : List Byte) (poison : Bool) (hw : s.mem.wf = true) :
    (s.storeCol col data poison).mem.wf = true := by
  unfold State.storeCol
  (repeat' split) <;> simp [hw]

/-! ## The retirement list is left alone (R362) -/

@[simp] theorem State.answer_retired (s : State) (code : BitVec 16) (payload : List Byte) :
    (s.answer code payload).health.retired = s.health.retired := by
  simp [State.answer]

@[simp] theorem State.cxlAnswer_retired (s : State) (rc : Rc) (payload : List Byte) :
    (s.cxlAnswer rc payload).health.retired = s.health.retired := by
  simp [State.cxlAnswer]

@[simp] theorem State.addEvent_retired (s : State) (kind addr : Nat) :
    (s.addEvent kind addr).health.retired = s.health.retired := by
  simp [State.addEvent]

@[simp] theorem State.account_retired (s : State) (q code n : Nat) :
    (s.account q code n).health.retired = s.health.retired := by
  simp [State.account]

@[simp] theorem State.endHold_retired (s : State) (q : Nat) :
    (s.endHold q).health.retired = s.health.retired := by
  unfold State.endHold
  simp [State.ite_retired]

@[simp] theorem State.accountHold_retired (s : State) (q code unit bound : Nat) :
    (s.accountHold q code unit bound).health.retired = s.health.retired := by
  unfold State.accountHold
  split <;> simp

@[simp] theorem State.accountOpen_retired (s : State) (q code : Nat) :
    (s.accountOpen q code).health.retired = s.health.retired := by
  unfold State.accountOpen
  split <;> simp

@[simp] theorem State.passRate_retired (s : State) (q n : Nat) (assigned : Bool) :
    (s.passRate q n assigned).health.retired = s.health.retired := by
  unfold State.passRate
  dsimp only
  (repeat' split) <;> simp [State.ite_retired]

@[simp] theorem State.accountWait_retired (s : State) (q ns : Nat) :
    (s.accountWait q ns).health.retired = s.health.retired := by
  unfold State.accountWait
  simp only []
  split
  · rfl
  · split <;> rfl

@[simp] theorem State.passTime_retired (s : State) (t : Nat) :
    (s.passTime t).health.retired = s.health.retired := by
  unfold State.passTime
  split <;> simp

@[simp] theorem State.demandGate_retired (s : State) (g : Nat) :
    (s.demandGate g).health.retired = s.health.retired := by
  unfold State.demandGate
  simp [State.ite_retired]

@[simp] theorem State.linkSend_retired (s : State) (st : Nat) (kind : LinkKind) (banks : List Nat) (arg : Nat) :
    (s.linkSend st kind banks arg).health.retired = s.health.retired := by
  unfold State.linkSend
  dsimp only
  (repeat' split) <;> simp [State.ite_retired]

@[simp] theorem State.linkBank_retired (s : State) (bank : Nat) (kind : LinkKind) (arg : Nat) :
    (s.linkBank bank kind arg).health.retired = s.health.retired := by
  simp [State.linkBank]

@[simp] theorem State.linkUnits_retired (s : State) (q : Nat) (us : List Nat) (kind : LinkKind) (arg : Nat) :
    (s.linkUnits q us kind arg).health.retired = s.health.retired := by
  unfold State.linkUnits
  apply State.foldl_retired
  intros
  simp [State.ite_retired]

@[simp] theorem State.draw_retired (w : Nat) (s : State) :
    (State.draw w s).2.health.retired = s.health.retired := by
  simp [State.draw]

@[simp] theorem State.storeCol_retired (s : State) (col : Nat) (data : List Byte) (poison : Bool) :
    (s.storeCol col data poison).health.retired = s.health.retired := by
  unfold State.storeCol
  split <;> simp

@[simp] theorem State.markUnsettled_retired (s : State) (c q origin : Nat) :
    (s.markUnsettled c q origin).health.retired = s.health.retired := by
  simp [State.markUnsettled]

@[simp] theorem State.unsettleSlot_retired (s : State) (q sl origin : Nat) :
    (s.unsettleSlot q sl origin).health.retired = s.health.retired := by
  unfold State.unsettleSlot
  split <;> simp

@[simp] theorem State.enterBuffer_retired (s : State) (c : Nat) (x0 : Nat) :
    (s.enterBuffer c x0).health.retired = s.health.retired := by
  induction x0 generalizing s with
  | zero => rfl
  | succ n ih =>
    unfold State.enterBuffer
    dsimp only
    (repeat' split) <;> simp [ih, State.ite_retired] <;> (repeat' split) <;> simp [State.ite_retired]

@[simp] theorem State.fillBuffer_retired (s : State) :
    (s.fillBuffer).health.retired = s.health.retired := by
  unfold State.fillBuffer
  simp [State.ite_retired]

@[simp] theorem State.postFrom_retired (s : State) (c : Nat) (r : Report) (after : List (Nat × Nat)) (early : Bool) (src : Option (Nat × Nat)) :
    (s.postFrom c r after early src).health.retired = s.health.retired := by
  unfold State.postFrom
  (repeat' split) <;> simp [State.ite_retired] <;> (repeat' split) <;> simp

@[simp] theorem State.post_retired (s : State) (c : Nat) (r : Report) :
    (s.post c r).health.retired = s.health.retired := by
  simp [State.post]

@[simp] theorem State.freeVia_retired (s : State) (f : PeerFrame) :
    (s.freeVia f).health.retired = s.health.retired := by
  unfold State.freeVia
  (repeat' split) <;> simp

@[simp] theorem State.sendOn_retired (s : State) (p : Nat) (f : PeerFrame) :
    (s.sendOn p f).health.retired = s.health.retired := by
  simp [State.sendOn]

@[simp] theorem State.pump_retired (s : State) (p : Nat) (x0 : Nat) :
    (s.pump p x0).health.retired = s.health.retired := by
  induction x0 generalizing s with
  | zero => simp [State.pump]
  | succ n ih =>
    unfold State.pump
    (repeat' split) <;> simp [ih, State.ite_retired]

@[simp] theorem State.enqueue_retired (s : State) (p : Nat) (f : PeerFrame) :
    (s.enqueue p f).health.retired = s.health.retired := by
  simp [State.enqueue]

@[simp] theorem State.route_retired (s : State) (f : PeerFrame) :
    (s.route f).health.retired = s.health.retired := by
  simp [State.route]

@[simp] theorem State.sendTo_retired (s : State) (dst : Nat) (b : FrameBody) :
    (s.sendTo dst b).health.retired = s.health.retired := by
  simp [State.sendTo]

@[simp] theorem State.broadcast_retired (s : State) (b : FrameBody) :
    (s.broadcast b).health.retired = s.health.retired := by
  unfold State.broadcast
  dsimp only [List.foldl]
  (repeat' split) <;> simp

@[simp] theorem State.setRemote_retired (s : State) (module phys : Nat) (r : RemotePen) :
    (s.setRemote module phys r).health.retired = s.health.retired := by
  simp [State.setRemote]

@[simp] theorem State.subscribe_retired (s : State) (c ident : Nat) :
    (s.subscribe c ident).health.retired = s.health.retired := by
  unfold State.subscribe
  simp [State.ite_retired]

@[simp] theorem State.evalSlot_retired (s : State) (q sl : Nat) :
    (s.evalSlot q sl).health.retired = s.health.retired := by
  unfold State.evalSlot
  (repeat' split) <;> simp [State.ite_retired] <;> (repeat' split) <;> simp

@[simp] theorem State.evalWatch_retired (s : State) (c i : Nat) :
    (s.evalWatch c i).health.retired = s.health.retired := by
  unfold State.evalWatch
  (repeat' split) <;> simp [State.ite_retired] <;> (repeat' split) <;> simp

@[simp] theorem State.evalWaiters_retired (s : State) :
    (s.evalWaiters).health.retired = s.health.retired := by
  simp [State.evalWaiters]

@[simp] theorem State.trimSubs_retired (s : State) :
    (s.trimSubs).health.retired = s.health.retired := by
  unfold State.trimSubs
  simp [State.ite_retired]

@[simp] theorem State.tellSub_retired (s : State) (dst p : Nat) :
    (s.tellSub dst p).health.retired = s.health.retired := by
  unfold State.tellSub
  dsimp only
  split <;> simp

@[simp] theorem State.tellNews_retired (s : State) :
    (s.tellNews).health.retired = s.health.retired := by
  simp [State.tellNews]

@[simp] theorem State.notifySubs_retired (s : State) (p : Nat) :
    (s.notifySubs p).health.retired = s.health.retired := by
  simp [State.notifySubs]

@[simp] theorem State.hoistPhys_retired (s : State) (p amt : Nat) :
    (s.hoistPhys p amt).health.retired = s.health.retired := by
  unfold State.hoistPhys
  simp [State.ite_retired]

@[simp] theorem State.hoistBinding_retired (s : State) (b : PenBinding) (amt : Nat) :
    (s.hoistBinding b amt).health.retired = s.health.retired := by
  unfold State.hoistBinding
  (repeat' split) <;> simp

@[simp] theorem State.hoistIdent_retired (s : State) (c ident amt : Nat) :
    (s.hoistIdent c ident amt).health.retired = s.health.retired := by
  simp [State.hoistIdent]

@[simp] theorem State.lowerPen_retired (s : State) (phys : Nat) :
    (s.lowerPen phys).health.retired = s.health.retired := by
  unfold State.lowerPen
  simp [State.ite_retired]

@[simp] theorem State.giveBack_retired (s : State) (module phys : BitVec 14) :
    (s.giveBack module phys).health.retired = s.health.retired := by
  unfold State.giveBack
  split <;> simp

@[simp] theorem State.dropBinding_retired (s : State) (b : PenBinding) :
    (s.dropBinding b).health.retired = s.health.retired := by
  unfold State.dropBinding
  simp [State.ite_retired]

@[simp] theorem State.bindIdent_retired (s : State) (c ident : Nat) (b : PenBinding) :
    (s.bindIdent c ident b).health.retired = s.health.retired := by
  unfold State.bindIdent
  dsimp only
  (repeat' split) <;> simp

@[simp] theorem State.halfMastPen_retired (s : State) (p : Nat) :
    (s.halfMastPen p).health.retired = s.health.retired := by
  unfold State.halfMastPen
  simp [State.ite_retired]

@[simp] theorem State.runHoist_retired (s : State) :
    (s.runHoist).health.retired = s.health.retired := by
  unfold State.runHoist
  split <;> simp

@[simp] theorem State.runHoists_retired (s : State) :
    (s.runHoists).health.retired = s.health.retired := by
  simp [State.runHoists]

@[simp] theorem State.queueHoist_retired (s : State) (q c : Nat) (b : PenBinding) (amt before : Nat) :
    (s.queueHoist q c b amt before).health.retired = s.health.retired := by
  simp [State.queueHoist]

@[simp] theorem State.evalFence_retired (s : State) (q sl : Nat) :
    (s.evalFence q sl).health.retired = s.health.retired := by
  unfold State.evalFence
  (repeat' split) <;> simp [State.ite_retired] <;> (repeat' split) <;> simp

@[simp] theorem State.afterDrain_retired (s : State) (q : Nat) :
    (s.afterDrain q).health.retired = s.health.retired := by
  simp [State.afterDrain]

@[simp] theorem State.drainOne_retired (s : State) (st : Nat) :
    (s.drainOne st).health.retired = s.health.retired := by
  simp [State.drainOne]

@[simp] theorem State.drainMany_retired (s : State) (st : Nat) (x0 : Nat) :
    (s.drainMany st x0).health.retired = s.health.retired := by
  induction x0 generalizing s with
  | zero => simp [State.drainMany]
  | succ n ih => simp [State.drainMany, ih, State.ite_retired]

@[simp] theorem State.queueWrite_retired (s : State) (col : Nat) (ctx : Option Nat) (seq : Nat) (goes : Option Nat) :
    (s.queueWrite col ctx seq goes).health.retired = s.health.retired := by
  unfold State.queueWrite
  simp [State.ite_retired]

@[simp] theorem State.drainColumn_retired (s : State) (col : Nat) :
    (s.drainColumn col).health.retired = s.health.retired := by
  unfold State.drainColumn
  simp [State.ite_retired]

@[simp] theorem State.releaseSlot_retired (s : State) (num round : Nat) (poisoned : Bool) (q sl : Nat) :
    (s.releaseSlot num round poisoned q sl).health.retired = s.health.retired := by
  unfold State.releaseSlot
  (repeat' split) <;> simp [State.ite_retired] <;> (repeat' split) <;> simp

@[simp] theorem State.releaseReports_retired (s : State) (num round : Nat) (poisoned : Bool) (c : Nat) :
    (s.releaseReports num round poisoned c).health.retired = s.health.retired := by
  simp [State.releaseReports]

@[simp] theorem State.releaseRound_retired (s : State) (num : Nat) (poisoned : Bool) :
    (s.releaseRound num poisoned).health.retired = s.health.retired := by
  simp [State.releaseRound]

@[simp] theorem State.sendNotices_retired (s : State) (num bell : Nat) :
    (s.sendNotices num bell).health.retired = s.health.retired := by
  unfold State.sendNotices
  apply State.foldl_retired
  intros
  simp [State.ite_retired]

@[simp] theorem State.homeCheck_retired (s : State) (num : Nat) :
    (s.homeCheck num).health.retired = s.health.retired := by
  unfold State.homeCheck
  dsimp only
  (repeat' split) <;> simp

@[simp] theorem State.homeArrival_retired (s : State) (num pos : Nat) :
    (s.homeArrival num pos).health.retired = s.health.retired := by
  simp [State.homeArrival]

@[simp] theorem State.reportArrival_retired (s : State) (num : Nat) :
    (s.reportArrival num).health.retired = s.health.retired := by
  unfold State.reportArrival
  (repeat' split) <;> simp [State.ite_retired] <;> (repeat' split) <;> simp

@[simp] theorem State.killHandles_retired (s : State) (num : Nat) :
    (s.killHandles num).health.retired = s.health.retired := by
  unfold State.killHandles
  apply State.foldl_retired
  intros
  simp

@[simp] theorem State.ringRollAlone_retired (s : State) (num : Nat) :
    (s.ringRollAlone num).health.retired = s.health.retired := by
  simp only [State.ringRollAlone]
  (repeat' split) <;> simp [State.ite_retired] <;> intros <;> (repeat' split) <;> simp [State.ite_retired]

@[simp] theorem State.arriveAt_retired (s : State) (num b : Nat) :
    (s.arriveAt num b).1.health.retired = s.health.retired := by
  unfold State.arriveAt
  (repeat' split) <;> simp [State.ite_retired] <;> (repeat' split) <;> simp

@[simp] theorem State.arriveEngine_retired (s : State) (num b : Nat) :
    (s.arriveEngine num b).1.health.retired = s.health.retired := by
  unfold State.arriveEngine
  (repeat' split) <;> simp [State.ite_retired] <;> (repeat' split) <;> simp

/-! ## The retirement list keeps its entries (R362) -/

@[simp] theorem State.retirePlot_kept (s : State) (p : Nat) {r₀ : List Nat} (hw : RetiredKept r₀ s.health.retired) :
    RetiredKept r₀ (s.retirePlot p).health.retired := by
  unfold State.retirePlot
  dsimp only
  split
  · exact hw
  · next hp =>
    split
    · next hl =>
      obtain ⟨h1, h2, h3⟩ := hw
      refine ⟨h1.trans (List.prefix_append _ _), by simp; omega, ?_⟩
      have hn : p ∉ s.health.retired := by simpa using hp
      simp [List.nodup_append, h3]
      intro a ha e
      exact hn (e ▸ ha)
    · split <;> simp [hw]

@[simp] theorem State.queuePlot_kept (s : State) (p : Nat) {r₀ : List Nat} (hw : RetiredKept r₀ s.health.retired) :
    RetiredKept r₀ (s.queuePlot p).health.retired := by
  unfold State.queuePlot
  dsimp only
  (repeat' split) <;> simp [hw]

@[simp] theorem State.noteUe_kept (s : State) (col : Nat) {r₀ : List Nat} (hw : RetiredKept r₀ s.health.retired) :
    RetiredKept r₀ (s.noteUe col).health.retired := by
  unfold State.noteUe
  dsimp only
  (repeat' split) <;> simp [hw]

end Sys2Proof.Machine
end

