-- ==== Sys2Proof/Laws/Tensor.lean ====
section
/-! SUPPORT. What the operations of Machine/Tensor.lean leave alone, and what they keep. -/

set_option Elab.async false
set_option linter.unusedSimpArgs false
set_option linter.unusedTactic false
set_option linter.unreachableTactic false
set_option linter.unnecessarySeqFocus false
set_option linter.unnecessarySimpa false

namespace Sys2Proof.Machine

/-! ## The queue of commands is left alone -/

@[simp] theorem State.setStage_pending (s : State) (q a : Nat) (bs : List Byte) :
    (s.setStage q a bs).pending = s.pending := by
  simp [State.setStage]

@[simp] theorem State.setMark_pending (s : State) (q line : Nat) (m : Bool) :
    (s.setMark q line m).pending = s.pending := by
  simp [State.setMark]

@[simp] theorem State.notePlace_pending (s : State) (q sl g : Nat) (p : Place) :
    (s.notePlace q sl g p).pending = s.pending := by
  unfold State.notePlace
  (repeat' split) <;> simp [State.ite_pending] <;> (repeat' split) <;> simp

/-! ## Memory is left alone -/

@[simp] theorem State.setStage_mem (s : State) (q a : Nat) (bs : List Byte) :
    (s.setStage q a bs).mem = s.mem := by
  simp [State.setStage]

@[simp] theorem State.setMark_mem (s : State) (q line : Nat) (m : Bool) :
    (s.setMark q line m).mem = s.mem := by
  simp [State.setMark]

@[simp] theorem State.notePlace_mem (s : State) (q sl g : Nat) (p : Place) :
    (s.notePlace q sl g p).mem = s.mem := by
  unfold State.notePlace
  (repeat' split) <;> simp [State.ite_mem] <;> (repeat' split) <;> simp

/-! ## The retirement list is left alone (R362) -/

@[simp] theorem State.setStage_retired (s : State) (q a : Nat) (bs : List Byte) :
    (s.setStage q a bs).health.retired = s.health.retired := by
  simp [State.setStage]

@[simp] theorem State.setMark_retired (s : State) (q line : Nat) (m : Bool) :
    (s.setMark q line m).health.retired = s.health.retired := by
  simp [State.setMark]

@[simp] theorem State.notePlace_retired (s : State) (q sl g : Nat) (p : Place) :
    (s.notePlace q sl g p).health.retired = s.health.retired := by
  unfold State.notePlace
  (repeat' split) <;> simp [State.ite_retired] <;> (repeat' split) <;> simp

end Sys2Proof.Machine
end

