-- ==== Sys2Proof/Laws/Operands.lean ====
section
/-! SUPPORT. What the operations of Machine/Operands.lean leave alone, and what they keep. -/

set_option Elab.async false
set_option linter.unusedSimpArgs false
set_option linter.unusedTactic false
set_option linter.unreachableTactic false
set_option linter.unnecessarySeqFocus false
set_option linter.unnecessarySimpa false

namespace Sys2Proof.Machine

/-! ## The queue of commands is left alone -/

@[simp] theorem State.due_pending (s : State) (q sl lat writer : Nat) (ws : List DueWrite) :
    (s.due q sl lat writer ws).pending = s.pending := by
  simp [State.due]

@[simp] theorem State.reserve_pending (s : State) (n : Nat) :
    (s.reserve n).2.pending = s.pending := by
  simp [State.reserve]

/-! ## Memory is left alone -/

@[simp] theorem State.due_mem (s : State) (q sl lat writer : Nat) (ws : List DueWrite) :
    (s.due q sl lat writer ws).mem = s.mem := by
  simp [State.due]

@[simp] theorem State.reserve_mem (s : State) (n : Nat) :
    (s.reserve n).2.mem = s.mem := by
  simp [State.reserve]

/-! ## The retirement list is left alone (R362) -/

@[simp] theorem State.due_retired (s : State) (q sl lat writer : Nat) (ws : List DueWrite) :
    (s.due q sl lat writer ws).health.retired = s.health.retired := by
  simp [State.due]

@[simp] theorem State.reserve_retired (s : State) (n : Nat) :
    (s.reserve n).2.health.retired = s.health.retired := by
  simp [State.reserve]

end Sys2Proof.Machine
end

