-- ==== Sys2Proof/Laws/Column.lean ====
section
/-! SUPPORT. What the operations of Machine/Column.lean leave alone, and what they keep. -/

set_option Elab.async false
set_option linter.unusedSimpArgs false
set_option linter.unusedTactic false
set_option linter.unreachableTactic false
set_option linter.unnecessarySeqFocus false
set_option linter.unnecessarySimpa false

namespace Sys2Proof.Machine

/-! ## The queue of commands is left alone -/

@[simp] theorem State.applyBand_pending (s : State) (st : Nat) :
    (s.applyBand st).pending = s.pending := by
  simp [State.applyBand]

@[simp] theorem State.markStolen_pending (s : State) (q : Nat) :
    (s.markStolen q).pending = s.pending := by
  unfold State.markStolen
  try dsimp only
  refine (State.foldl_pending _ (fun s a => ?_) _ _).trans ?_ <;> (try dsimp only) <;> (repeat' split) <;>
    simp [State.ite_pending] <;> (repeat' split) <;> simp [State.ite_pending]

@[simp] theorem State.stealOps_pending (s : State) (st : Nat) :
    (s.stealOps st).pending = s.pending := by
  simp [State.stealOps]

@[simp] theorem State.activateWith_pending (steal : State → State) (s : State) (bank : Nat) (row : BitVec 16) (hsteal : ∀ s, (steal s).pending = s.pending) :
    (State.activateWith steal s bank row).pending = s.pending := by
  unfold State.activateWith
  try dsimp only
  (repeat' split) <;> simp [*, State.ite_pending] <;> (repeat' split) <;> simp [*, State.ite_pending]

@[simp] theorem State.stealN_pending (x0 : Nat) (x1 : State) (x2 : Nat) :
    (State.stealN x0 x1 x2).pending = x1.pending := by
  induction x0 generalizing x1 with
  | zero => simp [State.stealN]
  | succ n ih =>
    unfold State.stealN
    refine (State.foldl_pending _ (fun s a => ?_) _ _).trans ?_
    · rw [State.linkBank_pending]
      exact State.activateWith_pending _ _ _ _ (fun s => ih s)
    · simp

@[simp] theorem State.steal_pending (s : State) (st : Nat) :
    (s.steal st).pending = s.pending := by
  unfold State.steal
  split <;> simp

@[simp] theorem State.idleOp_pending (s : State) (bank : Nat) :
    (s.idleOp bank).pending = s.pending := by
  unfold State.idleOp
  dsimp only
  simp [State.ite_pending]

@[simp] theorem State.relieve_pending (s : State) (bank : Nat) :
    (s.relieve bank).pending = s.pending := by
  unfold State.relieve
  (repeat' split) <;> simp

@[simp] theorem State.activateRow_pending (s : State) (bank : Nat) (row : BitVec 16) :
    (s.activateRow bank row).pending = s.pending := by
  unfold State.activateRow
  split <;> simp

@[simp] theorem State.openRow_pending (s : State) (bank row : Nat) :
    (s.openRow bank row).pending = s.pending := by
  induction row generalizing s with
  | zero => simp [State.openRow]
  | succ n ih => simp [State.openRow, ih, State.ite_pending]

@[simp] theorem State.closeRow_pending (s : State) (bank half : Nat) :
    (s.closeRow bank half).pending = s.pending := by
  simp [State.closeRow]

@[simp] theorem State.openForeign_pending (s : State) (bank row : Nat) :
    (s.openForeign bank row).pending = s.pending := by
  simp [State.openForeign]

@[simp] theorem State.touchRow_pending (s : State) (bank row : Nat) :
    (s.touchRow bank row).pending = s.pending := by
  unfold State.touchRow
  (repeat' split) <;> simp

@[simp] theorem State.noteGen_pending (s : State) (q sl : Nat) (ags : Bool) (g : Nat) :
    (s.noteGen q sl ags g).pending = s.pending := by
  unfold State.noteGen
  split <;> simp

@[simp] theorem State.streamRow_pending (s : State) (q bank : Nat) :
    (s.streamRow q bank).pending = s.pending := by
  unfold State.streamRow
  (repeat' split) <;> simp

@[simp] theorem State.streamHold_pending (s : State) (q : Nat) (us : List Nat) :
    (s.streamHold q us).pending = s.pending := by
  unfold State.streamHold
  split <;> simp

@[simp] theorem State.stepCol_pending (s : State) (q sl : Nat) (w : Word32) :
    (s.stepCol q sl w).pending = s.pending := by
  unfold State.stepCol
  split <;> simp

@[simp] theorem State.noteRead_pending (s : State) (col : Nat) (d : Decoded) :
    (s.noteRead col d).pending = s.pending := by
  unfold State.noteRead
  simp [State.ite_pending]

@[simp] theorem State.noteCorrected_pending (s : State) (col : Nat) :
    (s.noteCorrected col).pending = s.pending := by
  unfold State.noteCorrected
  simp [State.ite_pending]

@[simp] theorem State.paneFault_pending (s : State) (tag : Nat) (wr : Option WriteData) :
    (s.paneFault tag wr).pending = s.pending := by
  unfold State.paneFault
  split <;> simp

@[simp] theorem State.writeNow_pending (s : State) (col : Nat) (data : List Byte) (poison : Bool) :
    (s.writeNow col data poison).pending = s.pending := by
  simp [State.writeNow]

@[simp] theorem State.readNow_pending (s : State) (col : Nat) :
    (s.readNow col).2.pending = s.pending := by
  unfold State.readNow
  dsimp only
  split <;> simp

@[simp] theorem State.carryRead_pending (s : State) (a : Access) :
    (s.carryRead a).pending = s.pending := by
  unfold State.carryRead
  dsimp only
  rw [State.emit_pending]
  refine State.foldl_snd_pending _ (fun s a => ?_) _ _
  dsimp only
  split <;> simp

@[simp] theorem State.carryColumn_pending (s : State) (col : Nat) (data : Line) (en : Word32) (poison : Bool) :
    (s.carryColumn col data en poison).pending = s.pending := by
  unfold State.carryColumn
  (repeat' split) <;> simp

@[simp] theorem State.carryWrite_pending (s : State) (a : Access) (w : WriteData) :
    (s.carryWrite a w).pending = s.pending := by
  unfold State.carryWrite
  dsimp only
  rw [State.emit_pending]
  apply State.foldl_pending
  intros
  simp

@[simp] theorem State.carry_pending (s : State) (a : Access) :
    (s.carry a).pending = s.pending := by
  unfold State.carry
  (repeat' split) <;> simp

@[simp] theorem State.mergeMasked_pending (s : State) (q : Nat) (m : Masked) :
    (s.mergeMasked q m).pending = s.pending := by
  unfold State.mergeMasked
  dsimp only
  (repeat' split) <;> simp

@[simp] theorem State.settleOwn_pending (s : State) (col : Nat) :
    (s.settleOwn col).pending = s.pending := by
  unfold State.settleOwn
  dsimp only
  rw [State.drainColumn_pending]
  apply State.foldl_pending
  intros
  simp

@[simp] theorem State.settleColumn_pending (s : State) (col : Nat) :
    (s.settleColumn col).pending = s.pending := by
  unfold State.settleColumn
  dsimp only
  refine (State.foldl_pending _ (fun s a => ?_) _ _).trans (by simp)
  rw [State.carry_pending]
  apply State.foldl_pending
  intros
  simp

@[simp] theorem State.readColumn_pending (s : State) (col : Nat) :
    (s.readColumn col).2.pending = s.pending := by
  unfold State.readColumn
  split <;> simp

@[simp] theorem State.readUnits_pending (s : State) (q half col : Nat) (us : List Nat) :
    (s.readUnits q half col us).2.pending = s.pending := by
  unfold State.readUnits
  try dsimp only
  refine (State.foldl_snd_pending _ (fun s a => ?_) _ _).trans ?_ <;> (try dsimp only) <;> (repeat' split) <;>
    simp [State.ite_pending] <;> (repeat' split) <;> simp [State.ite_pending]

@[simp] theorem State.colReads_pending (s : State) (q sl : Nat) (sel : BitVec 4) (w : Word32) :
    (s.colReads q sl sel w).2.pending = s.pending := by
  unfold State.colReads
  split <;> simp

@[simp] theorem State.writeUnit_pending (s : State) (q sl half col line u : Nat) :
    (s.writeUnit q sl half col line u).pending = s.pending := by
  unfold State.writeUnit
  (repeat' split) <;> simp [State.ite_pending] <;> (repeat' split) <;> simp

@[simp] theorem State.writeMaskedUnit_pending (s : State) (q sl half col line u : Nat) :
    (s.writeMaskedUnit q sl half col line u).pending = s.pending := by
  unfold State.writeMaskedUnit
  (repeat' split) <;> simp [State.ite_pending] <;> (repeat' split) <;> simp

@[simp] theorem State.linkCommand_pending (s : State) (q sl : Nat) (sel : BitVec 4) (kind : LinkKind) (row : Nat) :
    (s.linkCommand q sl sel kind row).pending = s.pending := by
  simp [State.linkCommand]

@[simp] theorem State.entryCommand_pending (s : State) (q : Nat) (us : List Nat) (e : Word32) :
    (s.entryCommand q us e).pending = s.pending := by
  unfold State.entryCommand
  dsimp only
  split <;> simp

@[simp] theorem State.colCommand_pending (s : State) (q sl : Nat) (sel : BitVec 4) (w : Word32) :
    (s.colCommand q sl sel w).pending = s.pending := by
  unfold State.colCommand
  dsimp only
  split <;> simp

@[simp] theorem State.writeDue_pending (s : State) (q sl lat : Nat) :
    (s.writeDue q sl lat).pending = s.pending := by
  simp [State.writeDue]

/-! ## Memory is left alone -/

@[simp] theorem State.applyBand_mem (s : State) (st : Nat) :
    (s.applyBand st).mem = s.mem := by
  simp [State.applyBand]

@[simp] theorem State.markStolen_mem (s : State) (q : Nat) :
    (s.markStolen q).mem = s.mem := by
  unfold State.markStolen
  try dsimp only
  refine (State.foldl_mem _ (fun s a => ?_) _ _).trans ?_ <;> (try dsimp only) <;> (repeat' split) <;>
    simp [State.ite_mem] <;> (repeat' split) <;> simp [State.ite_mem]

@[simp] theorem State.stealOps_mem (s : State) (st : Nat) :
    (s.stealOps st).mem = s.mem := by
  simp [State.stealOps]

@[simp] theorem State.activateWith_mem (steal : State → State) (s : State) (bank : Nat) (row : BitVec 16) (hsteal : ∀ s, (steal s).mem = s.mem) :
    (State.activateWith steal s bank row).mem = s.mem := by
  unfold State.activateWith
  try dsimp only
  (repeat' split) <;> simp [*, State.ite_mem] <;> (repeat' split) <;> simp [*, State.ite_mem]

@[simp] theorem State.stealN_mem (x0 : Nat) (x1 : State) (x2 : Nat) :
    (State.stealN x0 x1 x2).mem = x1.mem := by
  induction x0 generalizing x1 with
  | zero => simp [State.stealN]
  | succ n ih =>
    unfold State.stealN
    refine (State.foldl_mem _ (fun s a => ?_) _ _).trans ?_
    · rw [State.linkBank_mem]
      exact State.activateWith_mem _ _ _ _ (fun s => ih s)
    · simp

@[simp] theorem State.steal_mem (s : State) (st : Nat) :
    (s.steal st).mem = s.mem := by
  unfold State.steal
  split <;> simp

@[simp] theorem State.idleOp_mem (s : State) (bank : Nat) :
    (s.idleOp bank).mem = s.mem := by
  unfold State.idleOp
  dsimp only
  simp [State.ite_mem]

@[simp] theorem State.relieve_mem (s : State) (bank : Nat) :
    (s.relieve bank).mem = s.mem := by
  unfold State.relieve
  (repeat' split) <;> simp

@[simp] theorem State.activateRow_mem (s : State) (bank : Nat) (row : BitVec 16) :
    (s.activateRow bank row).mem = s.mem := by
  unfold State.activateRow
  split <;> simp

@[simp] theorem State.openRow_mem (s : State) (bank row : Nat) :
    (s.openRow bank row).mem = s.mem := by
  induction row generalizing s with
  | zero => simp [State.openRow]
  | succ n ih => simp [State.openRow, ih, State.ite_mem]

@[simp] theorem State.closeRow_mem (s : State) (bank half : Nat) :
    (s.closeRow bank half).mem = s.mem := by
  simp [State.closeRow]

@[simp] theorem State.openForeign_mem (s : State) (bank row : Nat) :
    (s.openForeign bank row).mem = s.mem := by
  simp [State.openForeign]

@[simp] theorem State.touchRow_mem (s : State) (bank row : Nat) :
    (s.touchRow bank row).mem = s.mem := by
  unfold State.touchRow
  (repeat' split) <;> simp

@[simp] theorem State.noteGen_mem (s : State) (q sl : Nat) (ags : Bool) (g : Nat) :
    (s.noteGen q sl ags g).mem = s.mem := by
  unfold State.noteGen
  split <;> simp

@[simp] theorem State.streamRow_mem (s : State) (q bank : Nat) :
    (s.streamRow q bank).mem = s.mem := by
  unfold State.streamRow
  (repeat' split) <;> simp

@[simp] theorem State.streamHold_mem (s : State) (q : Nat) (us : List Nat) :
    (s.streamHold q us).mem = s.mem := by
  unfold State.streamHold
  split <;> simp

@[simp] theorem State.stepCol_mem (s : State) (q sl : Nat) (w : Word32) :
    (s.stepCol q sl w).mem = s.mem := by
  unfold State.stepCol
  split <;> simp

@[simp] theorem State.noteRead_mem (s : State) (col : Nat) (d : Decoded) :
    (s.noteRead col d).mem = s.mem := by
  unfold State.noteRead
  simp [State.ite_mem]

@[simp] theorem State.noteCorrected_mem (s : State) (col : Nat) :
    (s.noteCorrected col).mem = s.mem := by
  unfold State.noteCorrected
  simp [State.ite_mem]

@[simp] theorem State.paneFault_mem (s : State) (tag : Nat) (wr : Option WriteData) :
    (s.paneFault tag wr).mem = s.mem := by
  unfold State.paneFault
  split <;> simp

@[simp] theorem State.readNow_mem (s : State) (col : Nat) :
    (s.readNow col).2.mem = s.mem := by
  unfold State.readNow
  dsimp only
  split <;> simp

@[simp] theorem State.carryRead_mem (s : State) (a : Access) :
    (s.carryRead a).mem = s.mem := by
  unfold State.carryRead
  dsimp only
  rw [State.emit_mem]
  refine State.foldl_snd_mem _ (fun s a => ?_) _ _
  dsimp only
  split <;> simp

@[simp] theorem State.linkCommand_mem (s : State) (q sl : Nat) (sel : BitVec 4) (kind : LinkKind) (row : Nat) :
    (s.linkCommand q sl sel kind row).mem = s.mem := by
  simp [State.linkCommand]

@[simp] theorem State.entryCommand_mem (s : State) (q : Nat) (us : List Nat) (e : Word32) :
    (s.entryCommand q us e).mem = s.mem := by
  unfold State.entryCommand
  dsimp only
  split <;> simp

@[simp] theorem State.colCommand_mem (s : State) (q sl : Nat) (sel : BitVec 4) (w : Word32) :
    (s.colCommand q sl sel w).mem = s.mem := by
  unfold State.colCommand
  dsimp only
  split <;> simp

@[simp] theorem State.writeDue_mem (s : State) (q sl lat : Nat) :
    (s.writeDue q sl lat).mem = s.mem := by
  simp [State.writeDue]

/-! ## Memory keeps its canonical form -/

@[simp] theorem State.writeNow_wf (s : State) (col : Nat) (data : List Byte) (poison : Bool) (hw : s.mem.wf = true) :
    (s.writeNow col data poison).mem.wf = true := by
  simp [State.writeNow, hw]

@[simp] theorem State.carryColumn_wf (s : State) (col : Nat) (data : Line) (en : Word32) (poison : Bool) (hw : s.mem.wf = true) :
    (s.carryColumn col data en poison).mem.wf = true := by
  unfold State.carryColumn
  (repeat' split) <;> simp [hw]

@[simp] theorem State.carryWrite_wf (s : State) (a : Access) (w : WriteData) (hw : s.mem.wf = true) :
    (s.carryWrite a w).mem.wf = true := by
  unfold State.carryWrite
  dsimp only
  rw [State.emit_mem]
  exact State.foldl_holds (fun s : State => s.mem.wf = true) _ (fun s a h => by simp [h]) _ _ hw

@[simp] theorem State.carry_wf (s : State) (a : Access) (hw : s.mem.wf = true) :
    (s.carry a).mem.wf = true := by
  unfold State.carry
  (repeat' split) <;> simp [hw]

@[simp] theorem State.mergeMasked_wf (s : State) (q : Nat) (m : Masked) (hw : s.mem.wf = true) :
    (s.mergeMasked q m).mem.wf = true := by
  unfold State.mergeMasked
  dsimp only
  (repeat' split) <;> simp [hw]

@[simp] theorem State.settleOwn_wf (s : State) (col : Nat) (hw : s.mem.wf = true) :
    (s.settleOwn col).mem.wf = true := by
  unfold State.settleOwn
  dsimp only
  rw [State.drainColumn_mem]
  exact State.foldl_holds (fun s : State => s.mem.wf = true) _ (fun s a h => by simp [h]) _ _ hw

@[simp] theorem State.settleColumn_wf (s : State) (col : Nat) (hw : s.mem.wf = true) :
    (s.settleColumn col).mem.wf = true := by
  unfold State.settleColumn
  dsimp only
  refine State.foldl_holds (fun s : State => s.mem.wf = true) _ (fun s a h => ?_) _ _ (by simp [hw])
  exact State.carry_wf _ _ (State.foldl_holds (fun s : State => s.mem.wf = true) _ (fun s a h => by simp [h]) _ _ h)

@[simp] theorem State.readColumn_wf (s : State) (col : Nat) (hw : s.mem.wf = true) :
    (s.readColumn col).2.mem.wf = true := by
  unfold State.readColumn
  (repeat' split) <;> simp [hw]

@[simp] theorem State.readUnits_wf (s : State) (q half col : Nat) (us : List Nat) (hw : s.mem.wf = true) :
    (s.readUnits q half col us).2.mem.wf = true := by
  unfold State.readUnits
  refine List.foldlRecOn _ _ (motive := fun x : List (Nat × Column) × State => x.2.mem.wf = true) hw (fun x hx u _ => ?_)
  cases ht : (x.2.streamRow q u).target u half col <;> simp [ht, hx]

@[simp] theorem State.colReads_wf (s : State) (q sl : Nat) (sel : BitVec 4) (w : Word32) (hw : s.mem.wf = true) :
    (s.colReads q sl sel w).2.mem.wf = true := by
  unfold State.colReads
  dsimp only
  split <;> simp [hw]

@[simp] theorem State.writeUnit_wf (s : State) (q sl half col line u : Nat) (hw : s.mem.wf = true) :
    (s.writeUnit q sl half col line u).mem.wf = true := by
  unfold State.writeUnit
  try dsimp only
  (repeat' split) <;> simp [*] <;> (repeat' split) <;> simp [*]

@[simp] theorem State.writeMaskedUnit_wf (s : State) (q sl half col line u : Nat) (hw : s.mem.wf = true) :
    (s.writeMaskedUnit q sl half col line u).mem.wf = true := by
  unfold State.writeMaskedUnit
  try dsimp only
  (repeat' split) <;> simp [*] <;> (repeat' split) <;> simp [*]

/-! ## The retirement list is left alone (R362) -/

@[simp] theorem State.applyBand_retired (s : State) (st : Nat) :
    (s.applyBand st).health.retired = s.health.retired := by
  simp [State.applyBand]

@[simp] theorem State.markStolen_retired (s : State) (q : Nat) :
    (s.markStolen q).health.retired = s.health.retired := by
  unfold State.markStolen
  try dsimp only
  refine (State.foldl_retired _ (fun s a => ?_) _ _).trans ?_ <;> (try dsimp only) <;> (repeat' split) <;>
    simp [State.ite_retired] <;> (repeat' split) <;> simp [State.ite_retired]

@[simp] theorem State.stealOps_retired (s : State) (st : Nat) :
    (s.stealOps st).health.retired = s.health.retired := by
  simp [State.stealOps]

@[simp] theorem State.activateWith_retired (steal : State → State) (s : State) (bank : Nat) (row : BitVec 16) (hsteal : ∀ s, (steal s).health.retired = s.health.retired) :
    (State.activateWith steal s bank row).health.retired = s.health.retired := by
  unfold State.activateWith
  try dsimp only
  (repeat' split) <;> simp [*, State.ite_retired] <;> (repeat' split) <;> simp [*, State.ite_retired]

@[simp] theorem State.stealN_retired (x0 : Nat) (x1 : State) (x2 : Nat) :
    (State.stealN x0 x1 x2).health.retired = x1.health.retired := by
  induction x0 generalizing x1 with
  | zero => simp [State.stealN]
  | succ n ih =>
    unfold State.stealN
    refine (State.foldl_retired _ (fun s a => ?_) _ _).trans ?_
    · rw [State.linkBank_retired]
      exact State.activateWith_retired _ _ _ _ (fun s => ih s)
    · simp

@[simp] theorem State.steal_retired (s : State) (st : Nat) :
    (s.steal st).health.retired = s.health.retired := by
  unfold State.steal
  split <;> simp

@[simp] theorem State.idleOp_retired (s : State) (bank : Nat) :
    (s.idleOp bank).health.retired = s.health.retired := by
  unfold State.idleOp
  dsimp only
  simp [State.ite_retired]

@[simp] theorem State.relieve_retired (s : State) (bank : Nat) :
    (s.relieve bank).health.retired = s.health.retired := by
  unfold State.relieve
  (repeat' split) <;> simp

@[simp] theorem State.activateRow_retired (s : State) (bank : Nat) (row : BitVec 16) :
    (s.activateRow bank row).health.retired = s.health.retired := by
  unfold State.activateRow
  split <;> simp

@[simp] theorem State.openRow_retired (s : State) (bank row : Nat) :
    (s.openRow bank row).health.retired = s.health.retired := by
  induction row generalizing s with
  | zero => simp [State.openRow]
  | succ n ih => simp [State.openRow, ih, State.ite_retired]

@[simp] theorem State.closeRow_retired (s : State) (bank half : Nat) :
    (s.closeRow bank half).health.retired = s.health.retired := by
  simp [State.closeRow]

@[simp] theorem State.openForeign_retired (s : State) (bank row : Nat) :
    (s.openForeign bank row).health.retired = s.health.retired := by
  simp [State.openForeign]

@[simp] theorem State.touchRow_retired (s : State) (bank row : Nat) :
    (s.touchRow bank row).health.retired = s.health.retired := by
  unfold State.touchRow
  (repeat' split) <;> simp

@[simp] theorem State.noteGen_retired (s : State) (q sl : Nat) (ags : Bool) (g : Nat) :
    (s.noteGen q sl ags g).health.retired = s.health.retired := by
  unfold State.noteGen
  split <;> simp

@[simp] theorem State.streamRow_retired (s : State) (q bank : Nat) :
    (s.streamRow q bank).health.retired = s.health.retired := by
  unfold State.streamRow
  (repeat' split) <;> simp

@[simp] theorem State.streamHold_retired (s : State) (q : Nat) (us : List Nat) :
    (s.streamHold q us).health.retired = s.health.retired := by
  unfold State.streamHold
  split <;> simp

@[simp] theorem State.stepCol_retired (s : State) (q sl : Nat) (w : Word32) :
    (s.stepCol q sl w).health.retired = s.health.retired := by
  unfold State.stepCol
  split <;> simp

@[simp] theorem State.noteCorrected_retired (s : State) (col : Nat) :
    (s.noteCorrected col).health.retired = s.health.retired := by
  unfold State.noteCorrected
  simp [State.ite_retired]

@[simp] theorem State.paneFault_retired (s : State) (tag : Nat) (wr : Option WriteData) :
    (s.paneFault tag wr).health.retired = s.health.retired := by
  unfold State.paneFault
  split <;> simp

@[simp] theorem State.writeNow_retired (s : State) (col : Nat) (data : List Byte) (poison : Bool) :
    (s.writeNow col data poison).health.retired = s.health.retired := by
  simp [State.writeNow]

@[simp] theorem State.writeUnit_retired (s : State) (q sl half col line u : Nat) :
    (s.writeUnit q sl half col line u).health.retired = s.health.retired := by
  unfold State.writeUnit
  (repeat' split) <;> simp [State.ite_retired] <;> (repeat' split) <;> simp

@[simp] theorem State.linkCommand_retired (s : State) (q sl : Nat) (sel : BitVec 4) (kind : LinkKind) (row : Nat) :
    (s.linkCommand q sl sel kind row).health.retired = s.health.retired := by
  simp [State.linkCommand]

@[simp] theorem State.entryCommand_retired (s : State) (q : Nat) (us : List Nat) (e : Word32) :
    (s.entryCommand q us e).health.retired = s.health.retired := by
  unfold State.entryCommand
  dsimp only
  split <;> simp

@[simp] theorem State.colCommand_retired (s : State) (q sl : Nat) (sel : BitVec 4) (w : Word32) :
    (s.colCommand q sl sel w).health.retired = s.health.retired := by
  unfold State.colCommand
  dsimp only
  split <;> simp

@[simp] theorem State.writeDue_retired (s : State) (q sl lat : Nat) :
    (s.writeDue q sl lat).health.retired = s.health.retired := by
  simp [State.writeDue]

/-! ## The retirement list keeps its entries (R362) -/

@[simp] theorem State.noteRead_kept (s : State) (col : Nat) (d : Decoded) {r₀ : List Nat} (hw : RetiredKept r₀ s.health.retired) :
    RetiredKept r₀ (s.noteRead col d).health.retired := by
  unfold State.noteRead
  try dsimp only
  (repeat' split) <;> simp [*] <;> (repeat' split) <;> simp [*]

@[simp] theorem State.readNow_kept (s : State) (col : Nat) {r₀ : List Nat} (hw : RetiredKept r₀ s.health.retired) :
    RetiredKept r₀ (s.readNow col).2.health.retired := by
  unfold State.readNow
  dsimp only
  split <;> simp [hw]

@[simp] theorem State.carryRead_kept (s : State) (a : Access) {r₀ : List Nat} (hw : RetiredKept r₀ s.health.retired) :
    RetiredKept r₀ (s.carryRead a).health.retired := by
  unfold State.carryRead
  rw [State.emit_health]
  refine List.foldlRecOn _ _ (motive := fun x : List Column × State => RetiredKept r₀ x.2.health.retired) hw (fun x hx u _ => ?_)
  dsimp only
  split <;> simp [hx]

@[simp] theorem State.carryColumn_kept (s : State) (col : Nat) (data : Line) (en : Word32) (poison : Bool) {r₀ : List Nat} (hw : RetiredKept r₀ s.health.retired) :
    RetiredKept r₀ (s.carryColumn col data en poison).health.retired := by
  unfold State.carryColumn
  (repeat' split) <;> simp [hw]

@[simp] theorem State.carryWrite_kept (s : State) (a : Access) (w : WriteData) {r₀ : List Nat} (hw : RetiredKept r₀ s.health.retired) :
    RetiredKept r₀ (s.carryWrite a w).health.retired := by
  unfold State.carryWrite
  dsimp only
  rw [State.emit_health]
  exact State.foldl_holds (fun s : State => RetiredKept r₀ s.health.retired) _ (fun s a h => by simp [h]) _ _ hw

@[simp] theorem State.carry_kept (s : State) (a : Access) {r₀ : List Nat} (hw : RetiredKept r₀ s.health.retired) :
    RetiredKept r₀ (s.carry a).health.retired := by
  unfold State.carry
  (repeat' split) <;> simp [hw]

@[simp] theorem State.mergeMasked_kept (s : State) (q : Nat) (m : Masked) {r₀ : List Nat} (hw : RetiredKept r₀ s.health.retired) :
    RetiredKept r₀ (s.mergeMasked q m).health.retired := by
  unfold State.mergeMasked
  dsimp only
  (repeat' split) <;> simp [hw]

@[simp] theorem State.settleOwn_kept (s : State) (col : Nat) {r₀ : List Nat} (hw : RetiredKept r₀ s.health.retired) :
    RetiredKept r₀ (s.settleOwn col).health.retired := by
  unfold State.settleOwn
  dsimp only
  rw [State.drainColumn_retired]
  exact State.foldl_holds (fun s : State => RetiredKept r₀ s.health.retired) _ (fun s a h => by simp [h]) _ _ hw

@[simp] theorem State.settleColumn_kept (s : State) (col : Nat) {r₀ : List Nat} (hw : RetiredKept r₀ s.health.retired) :
    RetiredKept r₀ (s.settleColumn col).health.retired := by
  unfold State.settleColumn
  dsimp only
  refine State.foldl_holds (fun s : State => RetiredKept r₀ s.health.retired) _ (fun s a h => ?_) _ _ (by simp [hw])
  exact State.carry_kept _ _ (State.foldl_holds (fun s : State => RetiredKept r₀ s.health.retired) _ (fun s a h => by simp [h]) _ _ h)

@[simp] theorem State.readColumn_kept (s : State) (col : Nat) {r₀ : List Nat} (hw : RetiredKept r₀ s.health.retired) :
    RetiredKept r₀ (s.readColumn col).2.health.retired := by
  unfold State.readColumn
  (repeat' split) <;> simp [hw]

@[simp] theorem State.readUnits_kept (s : State) (q half col : Nat) (us : List Nat) {r₀ : List Nat} (hw : RetiredKept r₀ s.health.retired) :
    RetiredKept r₀ (s.readUnits q half col us).2.health.retired := by
  unfold State.readUnits
  refine List.foldlRecOn _ _ (motive := fun x : List (Nat × Column) × State => RetiredKept r₀ x.2.health.retired) hw (fun x hx u _ => ?_)
  cases ht : (x.2.streamRow q u).target u half col <;> simp [ht, hx]

@[simp] theorem State.colReads_kept (s : State) (q sl : Nat) (sel : BitVec 4) (w : Word32) {r₀ : List Nat} (hw : RetiredKept r₀ s.health.retired) :
    RetiredKept r₀ (s.colReads q sl sel w).2.health.retired := by
  unfold State.colReads
  dsimp only
  split <;> simp [hw]

@[simp] theorem State.writeMaskedUnit_kept (s : State) (q sl half col line u : Nat) {r₀ : List Nat} (hw : RetiredKept r₀ s.health.retired) :
    RetiredKept r₀ (s.writeMaskedUnit q sl half col line u).health.retired := by
  unfold State.writeMaskedUnit
  try dsimp only
  (repeat' split) <;> simp [*] <;> (repeat' split) <;> simp [*]

end Sys2Proof.Machine
end

