-- ==== Sys2Proof/Laws/Vec.lean ====
section
/-! SUPPORT. What the operations of Machine/Vec.lean leave alone, and what they keep. -/

set_option Elab.async false
set_option linter.unusedSimpArgs false
set_option linter.unusedTactic false
set_option linter.unreachableTactic false
set_option linter.unnecessarySeqFocus false
set_option linter.unnecessarySimpa false

namespace Sys2Proof.Machine

/-! ## The queue of commands is left alone -/

@[simp] theorem State.vec_pending (s : State) (q sl : Nat) (sel : BitVec 4) (lat : Nat) (f : View → List DueWrite) :
    (s.vec q sl sel lat f).pending = s.pending := by
  simp [State.vec]

@[simp] theorem State.giveRandom_pending (s : State) (q sl : Nat) (sel : BitVec 4) (sr : Bool) (n : Nat) :
    (s.giveRandom q sl sel sr n).pending = s.pending := by
  unfold State.giveRandom
  split <;> simp

/-! ## Memory is left alone -/

@[simp] theorem State.vec_mem (s : State) (q sl : Nat) (sel : BitVec 4) (lat : Nat) (f : View → List DueWrite) :
    (s.vec q sl sel lat f).mem = s.mem := by
  simp [State.vec]

@[simp] theorem State.giveRandom_mem (s : State) (q sl : Nat) (sel : BitVec 4) (sr : Bool) (n : Nat) :
    (s.giveRandom q sl sel sr n).mem = s.mem := by
  unfold State.giveRandom
  split <;> simp

/-! ## The retirement list is left alone (R362) -/

@[simp] theorem State.vec_retired (s : State) (q sl : Nat) (sel : BitVec 4) (lat : Nat) (f : View → List DueWrite) :
    (s.vec q sl sel lat f).health.retired = s.health.retired := by
  simp [State.vec]

@[simp] theorem State.giveRandom_retired (s : State) (q sl : Nat) (sel : BitVec 4) (sr : Bool) (n : Nat) :
    (s.giveRandom q sl sel sr n).health.retired = s.health.retired := by
  unfold State.giveRandom
  split <;> simp

end Sys2Proof.Machine
end

