-- ==== Sys2Proof/Laws/Scoreboard.lean ====
section
/-! SUPPORT. What the operations of Machine/Scoreboard.lean leave alone, and what they keep. -/

set_option Elab.async false
set_option linter.unusedSimpArgs false
set_option linter.unusedTactic false
set_option linter.unreachableTactic false
set_option linter.unnecessarySeqFocus false
set_option linter.unnecessarySimpa false

namespace Sys2Proof.Machine

/-! ## The queue of commands is left alone -/

@[simp] theorem State.ask_pending (s : State) (q : Nat) (r : SbRequest) :
    (s.ask q r).1.pending = s.pending := by
  unfold State.ask
  (repeat' split) <;> simp [State.ite_pending] <;> (repeat' split) <;> simp

@[simp] theorem State.modShare_pending (s : State) (engine q id : Nat) (f : Share → Share) :
    (s.modShare engine q id f).pending = s.pending := by
  simp [State.modShare]

@[simp] theorem State.noteGranted_pending (s : State) (engine q id : Nat) (write : Bool) :
    (s.noteGranted engine q id write).pending = s.pending := by
  unfold State.noteGranted
  split <;> simp

@[simp] theorem State.advance_pending (s : State) (engine q id slot key : Nat) (x0 : List (Nat × Nat × Bool)) :
    (s.advance engine q id slot key x0).pending = s.pending := by
  induction x0 generalizing s with
  | nil => simp [State.advance]
  | cons n ns ih =>
    unfold State.advance
    (try dsimp only)
    (repeat' split) <;> simp [ih, State.ite_pending]

@[simp] theorem State.advanceShare_pending (s : State) (engine q : Nat) (h : Share) :
    (s.advanceShare engine q h).pending = s.pending := by
  simp [State.advanceShare]

@[simp] theorem State.startShares_pending (s : State) (engine q : Nat) (x0 : Nat) :
    (s.startShares engine q x0).pending = s.pending := by
  induction x0 generalizing s with
  | zero => rfl
  | succ n ih =>
    unfold State.startShares
    dsimp only
    (repeat' split) <;> simp [ih, State.ite_pending] <;> (repeat' split) <;> simp [State.ite_pending]

@[simp] theorem State.releaseShare_pending (s : State) (key : Nat) :
    (s.releaseShare key).pending = s.pending := by
  unfold State.releaseShare
  apply State.foldl_pending
  intros
  simp

/-! ## Memory is left alone -/

@[simp] theorem State.ask_mem (s : State) (q : Nat) (r : SbRequest) :
    (s.ask q r).1.mem = s.mem := by
  unfold State.ask
  (repeat' split) <;> simp [State.ite_mem] <;> (repeat' split) <;> simp

@[simp] theorem State.modShare_mem (s : State) (engine q id : Nat) (f : Share → Share) :
    (s.modShare engine q id f).mem = s.mem := by
  simp [State.modShare]

@[simp] theorem State.noteGranted_mem (s : State) (engine q id : Nat) (write : Bool) :
    (s.noteGranted engine q id write).mem = s.mem := by
  unfold State.noteGranted
  split <;> simp

@[simp] theorem State.advance_mem (s : State) (engine q id slot key : Nat) (x0 : List (Nat × Nat × Bool)) :
    (s.advance engine q id slot key x0).mem = s.mem := by
  induction x0 generalizing s with
  | nil => simp [State.advance]
  | cons n ns ih =>
    unfold State.advance
    (try dsimp only)
    (repeat' split) <;> simp [ih, State.ite_mem]

@[simp] theorem State.advanceShare_mem (s : State) (engine q : Nat) (h : Share) :
    (s.advanceShare engine q h).mem = s.mem := by
  simp [State.advanceShare]

@[simp] theorem State.startShares_mem (s : State) (engine q : Nat) (x0 : Nat) :
    (s.startShares engine q x0).mem = s.mem := by
  induction x0 generalizing s with
  | zero => rfl
  | succ n ih =>
    unfold State.startShares
    dsimp only
    (repeat' split) <;> simp [ih, State.ite_mem] <;> (repeat' split) <;> simp [State.ite_mem]

@[simp] theorem State.releaseShare_mem (s : State) (key : Nat) :
    (s.releaseShare key).mem = s.mem := by
  unfold State.releaseShare
  apply State.foldl_mem
  intros
  simp

/-! ## The retirement list is left alone (R362) -/

@[simp] theorem State.ask_retired (s : State) (q : Nat) (r : SbRequest) :
    (s.ask q r).1.health.retired = s.health.retired := by
  unfold State.ask
  (repeat' split) <;> simp [State.ite_retired] <;> (repeat' split) <;> simp

@[simp] theorem State.modShare_retired (s : State) (engine q id : Nat) (f : Share → Share) :
    (s.modShare engine q id f).health.retired = s.health.retired := by
  simp [State.modShare]

@[simp] theorem State.noteGranted_retired (s : State) (engine q id : Nat) (write : Bool) :
    (s.noteGranted engine q id write).health.retired = s.health.retired := by
  unfold State.noteGranted
  split <;> simp

@[simp] theorem State.advance_retired (s : State) (engine q id slot key : Nat) (x0 : List (Nat × Nat × Bool)) :
    (s.advance engine q id slot key x0).health.retired = s.health.retired := by
  induction x0 generalizing s with
  | nil => simp [State.advance]
  | cons n ns ih =>
    unfold State.advance
    (try dsimp only)
    (repeat' split) <;> simp [ih, State.ite_retired]

@[simp] theorem State.advanceShare_retired (s : State) (engine q : Nat) (h : Share) :
    (s.advanceShare engine q h).health.retired = s.health.retired := by
  simp [State.advanceShare]

@[simp] theorem State.startShares_retired (s : State) (engine q : Nat) (x0 : Nat) :
    (s.startShares engine q x0).health.retired = s.health.retired := by
  induction x0 generalizing s with
  | zero => rfl
  | succ n ih =>
    unfold State.startShares
    dsimp only
    (repeat' split) <;> simp [ih, State.ite_retired] <;> (repeat' split) <;> simp [State.ite_retired]

@[simp] theorem State.releaseShare_retired (s : State) (key : Nat) :
    (s.releaseShare key).health.retired = s.health.retired := by
  unfold State.releaseShare
  apply State.foldl_retired
  intros
  simp

end Sys2Proof.Machine
end

