-- ==== Sys2Proof/Laws/Sync.lean ====
section
/-! SUPPORT. What the operations of Machine/Sync.lean leave alone, and what they keep. -/

set_option Elab.async false
set_option linter.unusedSimpArgs false
set_option linter.unusedTactic false
set_option linter.unreachableTactic false
set_option linter.unnecessarySeqFocus false
set_option linter.unnecessarySimpa false

namespace Sys2Proof.Machine

/-! ## The queue of commands is left alone -/

@[simp] theorem State.block_pending (s : State) (q sl : Nat) (b : Blocked) :
    (s.block q sl b).pending = s.pending := by
  simp [State.block]

@[simp] theorem State.pass_pending (s : State) (q sl : Nat) (poisoned : Bool) :
    (s.pass q sl poisoned).pending = s.pending := by
  simp [State.pass]

@[simp] theorem State.presentWait_pending (s : State) (q sl : Nat) (w : Word32) :
    (s.presentWait q sl w).pending = s.pending := by
  unfold State.presentWait
  (repeat' split) <;> simp [State.ite_pending] <;> (repeat' split) <;> simp

@[simp] theorem State.presentBell_pending (s : State) (q sl : Nat) (w : Word32) :
    (s.presentBell q sl w).pending = s.pending := by
  unfold State.presentBell
  simp [State.ite_pending]

@[simp] theorem State.presentFence_pending (s : State) (q sl : Nat) :
    (s.presentFence q sl).pending = s.pending := by
  unfold State.presentFence
  (repeat' split) <;> simp

@[simp] theorem State.presentRget_pending (s : State) (q sl : Nat) (w : Word32) :
    (s.presentRget q sl w).pending = s.pending := by
  unfold State.presentRget
  simp [State.ite_pending]

@[simp] theorem State.presentReport_pending (s : State) (q sl : Nat) (w : Word32) :
    (s.presentReport q sl w).pending = s.pending := by
  unfold State.presentReport
  (repeat' split) <;> simp [State.ite_pending] <;> (repeat' split) <;> simp

@[simp] theorem State.reportIssued_pending (s : State) (q sl : Nat) :
    (s.reportIssued q sl).pending = s.pending := by
  unfold State.reportIssued
  split <;> simp

@[simp] theorem State.launch_pending (s : State) (engine q sl : Nat) (w : Word32) :
    (s.launch engine q sl w).pending = s.pending := by
  unfold State.launch
  (repeat' split) <;> simp [State.ite_pending] <;> (repeat' split) <;> simp

/-! ## Memory is left alone -/

@[simp] theorem State.block_mem (s : State) (q sl : Nat) (b : Blocked) :
    (s.block q sl b).mem = s.mem := by
  simp [State.block]

@[simp] theorem State.pass_mem (s : State) (q sl : Nat) (poisoned : Bool) :
    (s.pass q sl poisoned).mem = s.mem := by
  simp [State.pass]

@[simp] theorem State.presentWait_mem (s : State) (q sl : Nat) (w : Word32) :
    (s.presentWait q sl w).mem = s.mem := by
  unfold State.presentWait
  (repeat' split) <;> simp [State.ite_mem] <;> (repeat' split) <;> simp

@[simp] theorem State.presentBell_mem (s : State) (q sl : Nat) (w : Word32) :
    (s.presentBell q sl w).mem = s.mem := by
  unfold State.presentBell
  simp [State.ite_mem]

@[simp] theorem State.presentFence_mem (s : State) (q sl : Nat) :
    (s.presentFence q sl).mem = s.mem := by
  unfold State.presentFence
  (repeat' split) <;> simp

@[simp] theorem State.presentRget_mem (s : State) (q sl : Nat) (w : Word32) :
    (s.presentRget q sl w).mem = s.mem := by
  unfold State.presentRget
  simp [State.ite_mem]

@[simp] theorem State.presentReport_mem (s : State) (q sl : Nat) (w : Word32) :
    (s.presentReport q sl w).mem = s.mem := by
  unfold State.presentReport
  (repeat' split) <;> simp [State.ite_mem] <;> (repeat' split) <;> simp

@[simp] theorem State.reportIssued_mem (s : State) (q sl : Nat) :
    (s.reportIssued q sl).mem = s.mem := by
  unfold State.reportIssued
  split <;> simp

@[simp] theorem State.launch_mem (s : State) (engine q sl : Nat) (w : Word32) :
    (s.launch engine q sl w).mem = s.mem := by
  unfold State.launch
  (repeat' split) <;> simp [State.ite_mem] <;> (repeat' split) <;> simp

/-! ## The retirement list is left alone (R362) -/

@[simp] theorem State.block_retired (s : State) (q sl : Nat) (b : Blocked) :
    (s.block q sl b).health.retired = s.health.retired := by
  simp [State.block]

@[simp] theorem State.pass_retired (s : State) (q sl : Nat) (poisoned : Bool) :
    (s.pass q sl poisoned).health.retired = s.health.retired := by
  simp [State.pass]

@[simp] theorem State.presentWait_retired (s : State) (q sl : Nat) (w : Word32) :
    (s.presentWait q sl w).health.retired = s.health.retired := by
  unfold State.presentWait
  (repeat' split) <;> simp [State.ite_retired] <;> (repeat' split) <;> simp

@[simp] theorem State.presentBell_retired (s : State) (q sl : Nat) (w : Word32) :
    (s.presentBell q sl w).health.retired = s.health.retired := by
  unfold State.presentBell
  simp [State.ite_retired]

@[simp] theorem State.presentFence_retired (s : State) (q sl : Nat) :
    (s.presentFence q sl).health.retired = s.health.retired := by
  unfold State.presentFence
  (repeat' split) <;> simp

@[simp] theorem State.presentRget_retired (s : State) (q sl : Nat) (w : Word32) :
    (s.presentRget q sl w).health.retired = s.health.retired := by
  unfold State.presentRget
  simp [State.ite_retired]

@[simp] theorem State.presentReport_retired (s : State) (q sl : Nat) (w : Word32) :
    (s.presentReport q sl w).health.retired = s.health.retired := by
  unfold State.presentReport
  (repeat' split) <;> simp [State.ite_retired] <;> (repeat' split) <;> simp

@[simp] theorem State.reportIssued_retired (s : State) (q sl : Nat) :
    (s.reportIssued q sl).health.retired = s.health.retired := by
  unfold State.reportIssued
  split <;> simp

@[simp] theorem State.launch_retired (s : State) (engine q sl : Nat) (w : Word32) :
    (s.launch engine q sl w).health.retired = s.health.retired := by
  unfold State.launch
  (repeat' split) <;> simp [State.ite_retired] <;> (repeat' split) <;> simp

end Sys2Proof.Machine
end

