-- ==== Sys2Proof/Laws/Issue.lean ====
section
/-! SUPPORT. What the operations of Machine/Issue.lean leave alone, and what they keep. -/

set_option Elab.async false
set_option linter.unusedSimpArgs false
set_option linter.unusedTactic false
set_option linter.unreachableTactic false
set_option linter.unnecessarySeqFocus false
set_option linter.unnecessarySimpa false

namespace Sys2Proof.Machine

/-! ## The queue of commands is left alone -/

@[simp] theorem State.applyWrite_pending (pre s : State) (q sl : Nat) (w : DueWrite) :
    (State.applyWrite pre s q sl w).pending = s.pending := by
  unfold State.applyWrite
  split <;> simp

@[simp] theorem State.applyBeat_pending (s : State) (q : Nat) (ds : List Due) :
    (s.applyBeat q ds).pending = s.pending := by
  simp [State.applyBeat]

@[simp] theorem State.accountLate_pending (s : State) (q : Nat) :
    (s.accountLate q).pending = s.pending := by
  simp [State.accountLate]

@[simp] theorem State.visible_pending (s : State) (q beat : Nat) (x0 : Nat) :
    (s.visible q beat x0).pending = s.pending := by
  induction x0 generalizing s with
  | zero => rfl
  | succ n ih =>
    unfold State.visible
    dsimp only
    (repeat' split) <;> simp [ih, State.ite_pending] <;> (repeat' split) <;> simp [State.ite_pending]

@[simp] theorem State.mergeDue_pending (s : State) (q beat : Nat) :
    (s.mergeDue q beat).pending = s.pending := by
  simp [State.mergeDue]

@[simp] theorem State.startBeat_pending (s : State) (q beat : Nat) :
    (s.startBeat q beat).pending = s.pending := by
  simp [State.startBeat]

@[simp] theorem State.idleBeats_pending (s : State) (q n : Nat) :
    (s.idleBeats q n).pending = s.pending := by
  unfold State.idleBeats
  (repeat' split) <;> simp [State.ite_pending] <;> (repeat' split) <;> simp

@[simp] theorem State.raiseLate_pending (s : State) (q : Nat) (us : List Nat) :
    (s.raiseLate q us).pending = s.pending := by
  unfold State.raiseLate
  apply State.foldl_pending
  intros
  simp

@[simp] theorem State.stuckUnit_pending (s : State) (q u : Nat) :
    (s.stuckUnit q u).pending = s.pending := by
  simp [State.stuckUnit]

@[simp] theorem State.forceWrites_pending (s : State) (b : Nat) (us : List Nat) :
    (s.forceWrites b us).pending = s.pending := by
  simp [State.forceWrites]

@[simp] theorem State.logHazard_pending (s : State) (q sl : Nat) (sel : BitVec 4) (origin : Nat) (slots : List (Option Word32)) :
    (s.logHazard q sl sel origin slots).pending = s.pending := by
  unfold State.logHazard
  (repeat' split) <;> simp [State.ite_pending] <;> (repeat' split) <;> simp

@[simp] theorem State.takeEntry_pending (s : State) (q sl : Nat) :
    (s.takeEntry q sl).2.pending = s.pending := by
  unfold State.takeEntry
  split <;> simp

@[simp] theorem State.accountBeat_pending (s : State) (q : Nat) (w : Word) :
    (s.accountBeat q w).pending = s.pending := by
  unfold State.accountBeat
  split <;> simp

@[simp] theorem State.beginRecess_pending (s : State) (q : Nat) :
    (s.beginRecess q).pending = s.pending := by
  simp [State.beginRecess]

@[simp] theorem State.passRecess_pending (s : State) (q n : Nat) :
    (s.passRecess q n).pending = s.pending := by
  simp [State.passRecess]

@[simp] theorem State.runRecess_pending (s : State) (q : Nat) (late : List Nat) :
    (s.runRecess q late).pending = s.pending := by
  unfold State.runRecess
  (repeat' split) <;> simp [State.ite_pending] <;> (repeat' split) <;> simp

@[simp] theorem State.recess_pending (s : State) (q : Nat) (late : List Nat) :
    (s.recess q late).pending = s.pending := by
  simp [State.recess]

@[simp] theorem State.recessWord_pending (s : State) (q sl : Nat) (rclass : BitVec 2) (late : List Nat) :
    (s.recessWord q sl rclass late).pending = s.pending := by
  unfold State.recessWord
  split <;> simp

/-! ## Memory is left alone -/

@[simp] theorem State.applyWrite_mem (pre s : State) (q sl : Nat) (w : DueWrite) :
    (State.applyWrite pre s q sl w).mem = s.mem := by
  unfold State.applyWrite
  split <;> simp

@[simp] theorem State.applyBeat_mem (s : State) (q : Nat) (ds : List Due) :
    (s.applyBeat q ds).mem = s.mem := by
  simp [State.applyBeat]

@[simp] theorem State.accountLate_mem (s : State) (q : Nat) :
    (s.accountLate q).mem = s.mem := by
  simp [State.accountLate]

@[simp] theorem State.visible_mem (s : State) (q beat : Nat) (x0 : Nat) :
    (s.visible q beat x0).mem = s.mem := by
  induction x0 generalizing s with
  | zero => rfl
  | succ n ih =>
    unfold State.visible
    dsimp only
    (repeat' split) <;> simp [ih, State.ite_mem] <;> (repeat' split) <;> simp [State.ite_mem]

@[simp] theorem State.raiseLate_mem (s : State) (q : Nat) (us : List Nat) :
    (s.raiseLate q us).mem = s.mem := by
  unfold State.raiseLate
  apply State.foldl_mem
  intros
  simp

@[simp] theorem State.stuckUnit_mem (s : State) (q u : Nat) :
    (s.stuckUnit q u).mem = s.mem := by
  simp [State.stuckUnit]

@[simp] theorem State.logHazard_mem (s : State) (q sl : Nat) (sel : BitVec 4) (origin : Nat) (slots : List (Option Word32)) :
    (s.logHazard q sl sel origin slots).mem = s.mem := by
  unfold State.logHazard
  (repeat' split) <;> simp [State.ite_mem] <;> (repeat' split) <;> simp

@[simp] theorem State.takeEntry_mem (s : State) (q sl : Nat) :
    (s.takeEntry q sl).2.mem = s.mem := by
  unfold State.takeEntry
  split <;> simp

@[simp] theorem State.accountBeat_mem (s : State) (q : Nat) (w : Word) :
    (s.accountBeat q w).mem = s.mem := by
  unfold State.accountBeat
  split <;> simp

@[simp] theorem State.beginRecess_mem (s : State) (q : Nat) :
    (s.beginRecess q).mem = s.mem := by
  simp [State.beginRecess]

/-! ## Memory keeps its canonical form -/

@[simp] theorem State.mergeDue_wf (s : State) (q beat : Nat) (hw : s.mem.wf = true) :
    (s.mergeDue q beat).mem.wf = true := by
  unfold State.mergeDue
  try dsimp only
  (repeat' split) <;> first
    | (simp [*]; done)
    | (refine State.foldl_holds (fun s : State => s.mem.wf = true) _ (fun s a h => ?_) _ _ ?_ <;> (repeat' split) <;> simp [*])

@[simp] theorem State.startBeat_wf (s : State) (q beat : Nat) (hw : s.mem.wf = true) :
    (s.startBeat q beat).mem.wf = true := by
  simp [State.startBeat, hw]

@[simp] theorem State.idleBeats_wf (s : State) (q n : Nat) (hw : s.mem.wf = true) :
    (s.idleBeats q n).mem.wf = true := by
  unfold State.idleBeats
  try dsimp only
  (repeat' split) <;> simp [*] <;> (repeat' split) <;> simp [*]

@[simp] theorem State.forceWrites_wf (s : State) (b : Nat) (us : List Nat) (hw : s.mem.wf = true) :
    (s.forceWrites b us).mem.wf = true := by
  unfold State.forceWrites
  refine State.foldl_holds (fun s : State => s.mem.wf = true) _ (fun s a h => ?_) _ _ hw
  exact State.foldl_holds (fun s : State => s.mem.wf = true) _ (fun s a h => by simp [h]) _ _ h

@[simp] theorem State.passRecess_wf (s : State) (q n : Nat) (hw : s.mem.wf = true) :
    (s.passRecess q n).mem.wf = true := by
  simp [State.passRecess, hw]

@[simp] theorem State.runRecess_wf (s : State) (q : Nat) (late : List Nat) (hw : s.mem.wf = true) :
    (s.runRecess q late).mem.wf = true := by
  unfold State.runRecess
  try dsimp only
  (repeat' split) <;> simp [*] <;> (repeat' split) <;> simp [*]

@[simp] theorem State.recess_wf (s : State) (q : Nat) (late : List Nat) (hw : s.mem.wf = true) :
    (s.recess q late).mem.wf = true := by
  simp [State.recess, hw]

@[simp] theorem State.recessWord_wf (s : State) (q sl : Nat) (rclass : BitVec 2) (late : List Nat) (hw : s.mem.wf = true) :
    (s.recessWord q sl rclass late).mem.wf = true := by
  unfold State.recessWord
  (repeat' split) <;> simp [hw]

/-! ## The retirement list is left alone (R362) -/

@[simp] theorem State.applyWrite_retired (pre s : State) (q sl : Nat) (w : DueWrite) :
    (State.applyWrite pre s q sl w).health.retired = s.health.retired := by
  unfold State.applyWrite
  split <;> simp

@[simp] theorem State.applyBeat_retired (s : State) (q : Nat) (ds : List Due) :
    (s.applyBeat q ds).health.retired = s.health.retired := by
  simp [State.applyBeat]

@[simp] theorem State.accountLate_retired (s : State) (q : Nat) :
    (s.accountLate q).health.retired = s.health.retired := by
  simp [State.accountLate]

@[simp] theorem State.visible_retired (s : State) (q beat : Nat) (x0 : Nat) :
    (s.visible q beat x0).health.retired = s.health.retired := by
  induction x0 generalizing s with
  | zero => rfl
  | succ n ih =>
    unfold State.visible
    dsimp only
    (repeat' split) <;> simp [ih, State.ite_retired] <;> (repeat' split) <;> simp [State.ite_retired]

@[simp] theorem State.raiseLate_retired (s : State) (q : Nat) (us : List Nat) :
    (s.raiseLate q us).health.retired = s.health.retired := by
  unfold State.raiseLate
  apply State.foldl_retired
  intros
  simp

@[simp] theorem State.stuckUnit_retired (s : State) (q u : Nat) :
    (s.stuckUnit q u).health.retired = s.health.retired := by
  simp [State.stuckUnit]

@[simp] theorem State.forceWrites_retired (s : State) (b : Nat) (us : List Nat) :
    (s.forceWrites b us).health.retired = s.health.retired := by
  simp [State.forceWrites]

@[simp] theorem State.logHazard_retired (s : State) (q sl : Nat) (sel : BitVec 4) (origin : Nat) (slots : List (Option Word32)) :
    (s.logHazard q sl sel origin slots).health.retired = s.health.retired := by
  unfold State.logHazard
  (repeat' split) <;> simp [State.ite_retired] <;> (repeat' split) <;> simp

@[simp] theorem State.takeEntry_retired (s : State) (q sl : Nat) :
    (s.takeEntry q sl).2.health.retired = s.health.retired := by
  unfold State.takeEntry
  split <;> simp

@[simp] theorem State.accountBeat_retired (s : State) (q : Nat) (w : Word) :
    (s.accountBeat q w).health.retired = s.health.retired := by
  unfold State.accountBeat
  split <;> simp

@[simp] theorem State.beginRecess_retired (s : State) (q : Nat) :
    (s.beginRecess q).health.retired = s.health.retired := by
  simp [State.beginRecess]

/-! ## The retirement list keeps its entries (R362) -/

@[simp] theorem State.mergeDue_kept (s : State) (q beat : Nat) {r₀ : List Nat} (hw : RetiredKept r₀ s.health.retired) :
    RetiredKept r₀ (s.mergeDue q beat).health.retired := by
  unfold State.mergeDue
  try dsimp only
  (repeat' split) <;> first
    | (simp [*]; done)
    | (refine State.foldl_holds (fun s : State => RetiredKept r₀ s.health.retired) _ (fun s a h => ?_) _ _ ?_ <;> (repeat' split) <;> simp [*])

@[simp] theorem State.startBeat_kept (s : State) (q beat : Nat) {r₀ : List Nat} (hw : RetiredKept r₀ s.health.retired) :
    RetiredKept r₀ (s.startBeat q beat).health.retired := by
  simp [State.startBeat, hw]

@[simp] theorem State.idleBeats_kept (s : State) (q n : Nat) {r₀ : List Nat} (hw : RetiredKept r₀ s.health.retired) :
    RetiredKept r₀ (s.idleBeats q n).health.retired := by
  unfold State.idleBeats
  try dsimp only
  (repeat' split) <;> simp [*] <;> (repeat' split) <;> simp [*]

@[simp] theorem State.passRecess_kept (s : State) (q n : Nat) {r₀ : List Nat} (hw : RetiredKept r₀ s.health.retired) :
    RetiredKept r₀ (s.passRecess q n).health.retired := by
  simp [State.passRecess, hw]

@[simp] theorem State.runRecess_kept (s : State) (q : Nat) (late : List Nat) {r₀ : List Nat} (hw : RetiredKept r₀ s.health.retired) :
    RetiredKept r₀ (s.runRecess q late).health.retired := by
  unfold State.runRecess
  try dsimp only
  (repeat' split) <;> simp [*] <;> (repeat' split) <;> simp [*]

@[simp] theorem State.recess_kept (s : State) (q : Nat) (late : List Nat) {r₀ : List Nat} (hw : RetiredKept r₀ s.health.retired) :
    RetiredKept r₀ (s.recess q late).health.retired := by
  simp [State.recess, hw]

@[simp] theorem State.recessWord_kept (s : State) (q sl : Nat) (rclass : BitVec 2) (late : List Nat) {r₀ : List Nat} (hw : RetiredKept r₀ s.health.retired) :
    RetiredKept r₀ (s.recessWord q sl rclass late).health.retired := by
  unfold State.recessWord
  (repeat' split) <;> simp [hw]

end Sys2Proof.Machine
end

