-- ==== Sys2Proof/Laws/Reach.lean ====
section
/-! SUPPORT. What the operations of Machine/Reach.lean leave alone, and what they keep. -/

set_option Elab.async false
set_option linter.unusedSimpArgs false
set_option linter.unusedTactic false
set_option linter.unreachableTactic false
set_option linter.unnecessarySeqFocus false
set_option linter.unnecessarySimpa false

namespace Sys2Proof.Machine

/-! ## The queue of commands is left alone -/

@[simp] theorem State.lookPast_pending (s : State) (q sl : Nat) (w : Word) :
    (s.lookPast q sl w).pending = s.pending := by
  unfold State.lookPast
  (repeat' split) <;> simp [State.ite_pending] <;> (repeat' split) <;> simp

@[simp] theorem State.yieldRows_pending (s : State) (q : Nat) :
    (s.yieldRows q).pending = s.pending := by
  simp [State.yieldRows]

/-! ## Memory is left alone -/

@[simp] theorem State.lookPast_mem (s : State) (q sl : Nat) (w : Word) :
    (s.lookPast q sl w).mem = s.mem := by
  unfold State.lookPast
  (repeat' split) <;> simp [State.ite_mem] <;> (repeat' split) <;> simp

@[simp] theorem State.yieldRows_mem (s : State) (q : Nat) :
    (s.yieldRows q).mem = s.mem := by
  simp [State.yieldRows]

/-! ## The retirement list is left alone (R362) -/

@[simp] theorem State.lookPast_retired (s : State) (q sl : Nat) (w : Word) :
    (s.lookPast q sl w).health.retired = s.health.retired := by
  unfold State.lookPast
  (repeat' split) <;> simp [State.ite_retired] <;> (repeat' split) <;> simp

@[simp] theorem State.yieldRows_retired (s : State) (q : Nat) :
    (s.yieldRows q).health.retired = s.health.retired := by
  simp [State.yieldRows]

end Sys2Proof.Machine
end

