-- ==== Sys2Proof/Laws/Health.lean ====
section
/-! SUPPORT. What the operations of Machine/Health.lean leave alone, and what they keep. -/

set_option Elab.async false
set_option linter.unusedSimpArgs false
set_option linter.unusedTactic false
set_option linter.unreachableTactic false
set_option linter.unnecessarySeqFocus false
set_option linter.unnecessarySimpa false

namespace Sys2Proof.Machine

/-! ## The queue of commands is left alone -/

@[simp] theorem State.ctrlRead_pending (s : State) (col : Nat) :
    (s.ctrlRead col).2.pending = s.pending := by
  unfold State.ctrlRead
  (repeat' split) <;> simp [State.ite_pending] <;> (repeat' split) <;> simp

@[simp] theorem State.ctrlWrite_pending (s : State) (col : Nat) (data : List Byte) (poison : Bool) :
    (s.ctrlWrite col data poison).pending = s.pending := by
  simp [State.ctrlWrite]

@[simp] theorem State.endPass_pending (s : State) (st : Nat) :
    (s.endPass st).pending = s.pending := by
  simp [State.endPass]

@[simp] theorem State.restartScrubs_pending (s : State) :
    (s.restartScrubs).pending = s.pending := by
  unfold State.restartScrubs
  apply State.foldl_pending
  intros
  simp

@[simp] theorem State.writeBack_pending (s : State) (col : Nat) (fixed : List Byte) (hard : Nat) :
    (s.writeBack col fixed hard).pending = s.pending := by
  rfl

@[simp] theorem State.scrubNext_pending (s : State) (st : Nat) :
    (s.scrubNext st).2.pending = s.pending := by
  unfold State.scrubNext
  (repeat' split) <;> simp [State.ite_pending] <;> (repeat' split) <;> simp

@[simp] theorem State.noteHard_pending (s : State) (col n : Nat) :
    (s.noteHard col n).pending = s.pending := by
  unfold State.noteHard
  simp [State.ite_pending]

@[simp] theorem State.scrub_pending (s : State) (st col hard : Nat) :
    (s.scrub st col hard).pending = s.pending := by
  unfold State.scrub
  dsimp only
  (repeat' split) <;> simp

@[simp] theorem State.startRecovery_pending (s : State) (r : Nat) :
    (s.startRecovery r).pending = s.pending := by
  unfold State.startRecovery
  split <;> simp

@[simp] theorem State.endRecovery_pending (s : State) (r : Nat) :
    (s.endRecovery r).pending = s.pending := by
  simp [State.endRecovery]

@[simp] theorem State.linkRecovery_pending (s : State) (st : Nat) :
    (s.linkRecovery st).pending = s.pending := by
  simp [State.linkRecovery]

@[simp] theorem State.linkHold_pending (s : State) (st bound : Nat) :
    (s.linkHold st bound).pending = s.pending := by
  simp [State.linkHold]

@[simp] theorem State.failStack_pending (s : State) (st : Nat) :
    (s.failStack st).pending = s.pending := by
  simp [State.failStack]

/-! ## Memory is left alone -/

@[simp] theorem State.endPass_mem (s : State) (st : Nat) :
    (s.endPass st).mem = s.mem := by
  simp [State.endPass]

@[simp] theorem State.restartScrubs_mem (s : State) :
    (s.restartScrubs).mem = s.mem := by
  unfold State.restartScrubs
  apply State.foldl_mem
  intros
  simp

@[simp] theorem State.scrubNext_mem (s : State) (st : Nat) :
    (s.scrubNext st).2.mem = s.mem := by
  unfold State.scrubNext
  (repeat' split) <;> simp [State.ite_mem] <;> (repeat' split) <;> simp

@[simp] theorem State.noteHard_mem (s : State) (col n : Nat) :
    (s.noteHard col n).mem = s.mem := by
  unfold State.noteHard
  simp [State.ite_mem]

@[simp] theorem State.startRecovery_mem (s : State) (r : Nat) :
    (s.startRecovery r).mem = s.mem := by
  unfold State.startRecovery
  split <;> simp

@[simp] theorem State.endRecovery_mem (s : State) (r : Nat) :
    (s.endRecovery r).mem = s.mem := by
  simp [State.endRecovery]

@[simp] theorem State.linkRecovery_mem (s : State) (st : Nat) :
    (s.linkRecovery st).mem = s.mem := by
  simp [State.linkRecovery]

@[simp] theorem State.linkHold_mem (s : State) (st bound : Nat) :
    (s.linkHold st bound).mem = s.mem := by
  simp [State.linkHold]

@[simp] theorem State.failStack_mem (s : State) (st : Nat) :
    (s.failStack st).mem = s.mem := by
  simp [State.failStack]

/-! ## Memory keeps its canonical form -/

@[simp] theorem State.ctrlRead_wf (s : State) (col : Nat) (hw : s.mem.wf = true) :
    (s.ctrlRead col).2.mem.wf = true := by
  unfold State.ctrlRead
  try dsimp only
  (repeat' split) <;> simp [*] <;> (repeat' split) <;> simp [*]

@[simp] theorem State.ctrlWrite_wf (s : State) (col : Nat) (data : List Byte) (poison : Bool) (hw : s.mem.wf = true) :
    (s.ctrlWrite col data poison).mem.wf = true := by
  simp [State.ctrlWrite, hw]

@[simp] theorem State.writeBack_wf (s : State) (col : Nat) (fixed : List Byte) (hard : Nat) (hw : s.mem.wf = true) :
    (s.writeBack col fixed hard).mem.wf = true := by
  simp only [Memory.wf, Bool.and_eq_true] at hw ⊢
  exact ⟨twf_writeBytes _ _ _ hw.1, twf_writeBytes _ _ _ hw.2⟩

@[simp] theorem State.scrub_wf (s : State) (st col hard : Nat) (hw : s.mem.wf = true) :
    (s.scrub st col hard).mem.wf = true := by
  unfold State.scrub
  dsimp only
  (repeat' split) <;> simp [hw]

/-! ## The retirement list is left alone (R362) -/

@[simp] theorem State.endPass_retired (s : State) (st : Nat) :
    (s.endPass st).health.retired = s.health.retired := by
  simp [State.endPass]

@[simp] theorem State.restartScrubs_retired (s : State) :
    (s.restartScrubs).health.retired = s.health.retired := by
  unfold State.restartScrubs
  apply State.foldl_retired
  intros
  simp

@[simp] theorem State.writeBack_retired (s : State) (col : Nat) (fixed : List Byte) (hard : Nat) :
    (s.writeBack col fixed hard).health.retired = s.health.retired := by
  rfl

@[simp] theorem State.scrubNext_retired (s : State) (st : Nat) :
    (s.scrubNext st).2.health.retired = s.health.retired := by
  unfold State.scrubNext
  (repeat' split) <;> simp [State.ite_retired] <;> (repeat' split) <;> simp

@[simp] theorem State.startRecovery_retired (s : State) (r : Nat) :
    (s.startRecovery r).health.retired = s.health.retired := by
  unfold State.startRecovery
  split <;> simp

@[simp] theorem State.endRecovery_retired (s : State) (r : Nat) :
    (s.endRecovery r).health.retired = s.health.retired := by
  simp [State.endRecovery]

@[simp] theorem State.linkRecovery_retired (s : State) (st : Nat) :
    (s.linkRecovery st).health.retired = s.health.retired := by
  simp [State.linkRecovery]

@[simp] theorem State.linkHold_retired (s : State) (st bound : Nat) :
    (s.linkHold st bound).health.retired = s.health.retired := by
  simp [State.linkHold]

@[simp] theorem State.failStack_retired (s : State) (st : Nat) :
    (s.failStack st).health.retired = s.health.retired := by
  simp [State.failStack]

/-! ## The retirement list keeps its entries (R362) -/

@[simp] theorem State.ctrlRead_kept (s : State) (col : Nat) {r₀ : List Nat} (hw : RetiredKept r₀ s.health.retired) :
    RetiredKept r₀ (s.ctrlRead col).2.health.retired := by
  unfold State.ctrlRead
  try dsimp only
  (repeat' split) <;> simp [*] <;> (repeat' split) <;> simp [*]

@[simp] theorem State.ctrlWrite_kept (s : State) (col : Nat) (data : List Byte) (poison : Bool) {r₀ : List Nat} (hw : RetiredKept r₀ s.health.retired) :
    RetiredKept r₀ (s.ctrlWrite col data poison).health.retired := by
  simp [State.ctrlWrite, hw]

@[simp] theorem State.noteHard_kept (s : State) (col n : Nat) {r₀ : List Nat} (hw : RetiredKept r₀ s.health.retired) :
    RetiredKept r₀ (s.noteHard col n).health.retired := by
  unfold State.noteHard
  try dsimp only
  (repeat' split) <;> simp [*] <;> (repeat' split) <;> simp [*]

@[simp] theorem State.scrub_kept (s : State) (st col hard : Nat) {r₀ : List Nat} (hw : RetiredKept r₀ s.health.retired) :
    RetiredKept r₀ (s.scrub st col hard).health.retired := by
  unfold State.scrub
  dsimp only
  (repeat' split) <;> simp [hw]

end Sys2Proof.Machine
end

