-- ==== Sys2Proof/Laws/Exchange.lean ====
section
/-! SUPPORT. What the operations of Machine/Exchange.lean leave alone, and what they keep. -/

set_option Elab.async false
set_option linter.unusedSimpArgs false
set_option linter.unusedTactic false
set_option linter.unreachableTactic false
set_option linter.unnecessarySeqFocus false
set_option linter.unnecessarySimpa false

namespace Sys2Proof.Machine

/-! ## The queue of commands is left alone -/

@[simp] theorem State.fetchSource_pending (h : Share) (q : Nat) (acc : Cache × State) (l : Loc) :
    (State.fetchSource h q acc l).2.pending = acc.2.pending := by
  unfold State.fetchSource
  (repeat' split) <;> simp [State.ite_pending] <;> (repeat' split) <;> simp

@[simp] theorem State.byteOf_pending (cache : Cache) (s : State) (l : Loc) :
    (State.byteOf cache s l).2.pending = s.pending := by
  unfold State.byteOf
  (repeat' split) <;> simp

@[simp] theorem State.putColumn_pending (s : State) (q c origin col : Nat) (bs : List (Nat × Byte)) (poison : Bool) :
    (s.putColumn q c origin col bs poison).pending = s.pending := by
  unfold State.putColumn
  simp [State.ite_pending]

@[simp] theorem State.putLine_pending (s : State) (q line : Nat) (bs : List (Nat × Byte)) (poison : Bool) :
    (s.putLine q line bs poison).pending = s.pending := by
  unfold State.putLine
  (repeat' split) <;> simp

@[simp] theorem State.localBytes_pending (cache : Cache) (s : State) (bs : List (Nat × Loc)) :
    (State.localBytes cache s bs).2.2.pending = s.pending := by
  unfold State.localBytes
  refine List.foldlRecOn bs _ (motive := fun (x : List (Nat × Byte) × Bool × State) => x.2.2.pending = s.pending) rfl ?_
  intro x hx a _
  simp [hx]

@[simp] theorem State.sendWrite_pending (s : State) (r : RemoteReq) :
    (s.sendWrite r).pending = s.pending := by
  simp [State.sendWrite]

@[simp] theorem State.putGroup_pending (h : Share) (q : Nat) (tid : Nat) (cache : Cache) (s : State) (g : Nat × List (Nat × Loc)) :
    (State.putGroup h q tid cache s g).pending = s.pending := by
  unfold State.putGroup
  dsimp only
  (repeat' split) <;> simp

@[simp] theorem State.sendReads_pending (s : State) (q : Nat) (h : Share) (src : Desc) (gs : Table (List (Nat × Loc))) :
    (s.sendReads q h src gs).pending = s.pending := by
  simp [State.sendReads]

@[simp] theorem State.runShare_pending (s : State) (q op id : Nat) :
    (s.runShare q op id).pending = s.pending := by
  unfold State.runShare
  (repeat' split) <;> simp [State.ite_pending] <;> (repeat' split) <;> simp

@[simp] theorem State.endShare_pending (s : State) (engine q : Nat) (h : Share) (hoists : Bool) :
    (s.endShare engine q h hoists).pending = s.pending := by
  unfold State.endShare
  split <;> simp

/-! ## Memory is left alone -/

@[simp] theorem State.byteOf_mem (cache : Cache) (s : State) (l : Loc) :
    (State.byteOf cache s l).2.mem = s.mem := by
  unfold State.byteOf
  (repeat' split) <;> simp

@[simp] theorem State.putLine_mem (s : State) (q line : Nat) (bs : List (Nat × Byte)) (poison : Bool) :
    (s.putLine q line bs poison).mem = s.mem := by
  unfold State.putLine
  (repeat' split) <;> simp

@[simp] theorem State.localBytes_mem (cache : Cache) (s : State) (bs : List (Nat × Loc)) :
    (State.localBytes cache s bs).2.2.mem = s.mem := by
  unfold State.localBytes
  refine List.foldlRecOn bs _ (motive := fun (x : List (Nat × Byte) × Bool × State) => x.2.2.mem = s.mem) rfl ?_
  intro x hx a _
  simp [hx]

@[simp] theorem State.sendWrite_mem (s : State) (r : RemoteReq) :
    (s.sendWrite r).mem = s.mem := by
  simp [State.sendWrite]

@[simp] theorem State.sendReads_mem (s : State) (q : Nat) (h : Share) (src : Desc) (gs : Table (List (Nat × Loc))) :
    (s.sendReads q h src gs).mem = s.mem := by
  simp [State.sendReads]

@[simp] theorem State.endShare_mem (s : State) (engine q : Nat) (h : Share) (hoists : Bool) :
    (s.endShare engine q h hoists).mem = s.mem := by
  unfold State.endShare
  split <;> simp

/-! ## Memory keeps its canonical form -/

@[simp] theorem State.fetchSource_wf (h : Share) (q : Nat) (acc : Cache × State) (l : Loc) (hw : acc.2.mem.wf = true) :
    (State.fetchSource h q acc l).2.mem.wf = true := by
  unfold State.fetchSource
  dsimp only
  (repeat' split) <;> simp [hw]

@[simp] theorem State.putColumn_wf (s : State) (q c origin col : Nat) (bs : List (Nat × Byte)) (poison : Bool) (hw : s.mem.wf = true) :
    (s.putColumn q c origin col bs poison).mem.wf = true := by
  unfold State.putColumn
  try dsimp only
  (repeat' split) <;> simp [*] <;> (repeat' split) <;> simp [*]

@[simp] theorem State.putGroup_wf (h : Share) (q : Nat) (tid : Nat) (cache : Cache) (s : State) (g : Nat × List (Nat × Loc)) (hw : s.mem.wf = true) :
    (State.putGroup h q tid cache s g).mem.wf = true := by
  unfold State.putGroup
  try dsimp only
  (repeat' split) <;> simp [*] <;> (repeat' split) <;> simp [*]

@[simp] theorem State.runShare_wf (s : State) (q op id : Nat) (hw : s.mem.wf = true) :
    (s.runShare q op id).mem.wf = true := by
  unfold State.runShare
  split
  · exact hw
  · dsimp only
    split
    · exact hw
    · simp
      refine State.foldl_holds (fun s : State => s.mem.wf = true) _ (fun s a h => by simp [h]) _ _ ?_
      refine List.foldlRecOn _ _ (motive := fun x : Cache × State => x.2.mem.wf = true) ?_ (fun x hx u _ => by simp [hx])
      simp [hw]

/-! ## The retirement list is left alone (R362) -/

@[simp] theorem State.byteOf_retired (cache : Cache) (s : State) (l : Loc) :
    (State.byteOf cache s l).2.health.retired = s.health.retired := by
  unfold State.byteOf
  (repeat' split) <;> simp

@[simp] theorem State.putLine_retired (s : State) (q line : Nat) (bs : List (Nat × Byte)) (poison : Bool) :
    (s.putLine q line bs poison).health.retired = s.health.retired := by
  unfold State.putLine
  (repeat' split) <;> simp

@[simp] theorem State.localBytes_retired (cache : Cache) (s : State) (bs : List (Nat × Loc)) :
    (State.localBytes cache s bs).2.2.health.retired = s.health.retired := by
  unfold State.localBytes
  refine List.foldlRecOn bs _ (motive := fun (x : List (Nat × Byte) × Bool × State) => x.2.2.health.retired = s.health.retired) rfl ?_
  intro x hx a _
  simp [hx]

@[simp] theorem State.sendWrite_retired (s : State) (r : RemoteReq) :
    (s.sendWrite r).health.retired = s.health.retired := by
  simp [State.sendWrite]

@[simp] theorem State.sendReads_retired (s : State) (q : Nat) (h : Share) (src : Desc) (gs : Table (List (Nat × Loc))) :
    (s.sendReads q h src gs).health.retired = s.health.retired := by
  simp [State.sendReads]

@[simp] theorem State.endShare_retired (s : State) (engine q : Nat) (h : Share) (hoists : Bool) :
    (s.endShare engine q h hoists).health.retired = s.health.retired := by
  unfold State.endShare
  split <;> simp

/-! ## The retirement list keeps its entries (R362) -/

@[simp] theorem State.fetchSource_kept (h : Share) (q : Nat) (acc : Cache × State) (l : Loc) {r₀ : List Nat} (hw : RetiredKept r₀ acc.2.health.retired) :
    RetiredKept r₀ (State.fetchSource h q acc l).2.health.retired := by
  unfold State.fetchSource
  dsimp only
  (repeat' split) <;> simp [hw]

@[simp] theorem State.putColumn_kept (s : State) (q c origin col : Nat) (bs : List (Nat × Byte)) (poison : Bool) {r₀ : List Nat} (hw : RetiredKept r₀ s.health.retired) :
    RetiredKept r₀ (s.putColumn q c origin col bs poison).health.retired := by
  unfold State.putColumn
  try dsimp only
  (repeat' split) <;> simp [*] <;> (repeat' split) <;> simp [*]

@[simp] theorem State.putGroup_kept (h : Share) (q : Nat) (tid : Nat) (cache : Cache) (s : State) (g : Nat × List (Nat × Loc)) {r₀ : List Nat} (hw : RetiredKept r₀ s.health.retired) :
    RetiredKept r₀ (State.putGroup h q tid cache s g).health.retired := by
  unfold State.putGroup
  try dsimp only
  (repeat' split) <;> simp [*] <;> (repeat' split) <;> simp [*]

@[simp] theorem State.runShare_kept (s : State) (q op id : Nat) {r₀ : List Nat} (hw : RetiredKept r₀ s.health.retired) :
    RetiredKept r₀ (s.runShare q op id).health.retired := by
  unfold State.runShare
  split
  · exact hw
  · dsimp only
    split
    · exact hw
    · simp
      refine State.foldl_holds (fun s : State => RetiredKept r₀ s.health.retired) _ (fun s a h => by simp [h]) _ _ ?_
      refine List.foldlRecOn _ _ (motive := fun x : Cache × State => RetiredKept r₀ x.2.health.retired) ?_ (fun x hx u _ => by simp [hx])
      simp [hw]

end Sys2Proof.Machine
end

