-- ==== Sys2Proof/Laws/Merge.lean ====
section
/-! SUPPORT. What the operations of Machine/Merge.lean leave alone, and what they keep. -/

set_option Elab.async false
set_option linter.unusedSimpArgs false
set_option linter.unusedTactic false
set_option linter.unreachableTactic false
set_option linter.unnecessarySeqFocus false
set_option linter.unnecessarySimpa false

namespace Sys2Proof.Machine

/-! ## The queue of commands is left alone -/

@[simp] theorem State.writePositions_pending (s : State) (q : Nat) (d : Desc) (ps : List (Nat × Word32 × Bool)) :
    (s.writePositions q d ps).pending = s.pending := by
  simp [State.writePositions]

@[simp] theorem State.poisonTensor_pending (s : State) (q : Nat) (d : Desc) :
    (s.poisonTensor q d).pending = s.pending := by
  simp [State.poisonTensor]

@[simp] theorem State.giveResult_pending (s : State) (g : List (Nat × Share)) (rows : List MergeRow) (ringing : Bool) :
    (s.giveResult g rows ringing).pending = s.pending := by
  simp [State.giveResult]

@[simp] theorem State.dropMerge_pending (s : State) (m : RingMerge) :
    (s.dropMerge m).pending = s.pending := by
  simp [State.dropMerge]

@[simp] theorem State.keepMerge_pending (s : State) (m : RingMerge) :
    (s.keepMerge m).pending = s.pending := by
  simp [State.keepMerge]

@[simp] theorem State.finishMerge_pending (s : State) (m : RingMerge) (rows : List MergeRow) :
    (s.finishMerge m rows).pending = s.pending := by
  simp [State.finishMerge]

@[simp] theorem State.leaveMerge_pending (s : State) (m : RingMerge) :
    (s.leaveMerge m).pending = s.pending := by
  unfold State.leaveMerge
  split <;> simp

@[simp] theorem State.passFold_pending (s : State) (m : RingMerge) (part : Option (List MergeRow)) :
    (s.passFold m part).pending = s.pending := by
  unfold State.passFold
  (repeat' split) <;> simp

@[simp] theorem State.abandonMerges_pending (s : State) (c : Nat) :
    (s.abandonMerges c).pending = s.pending := by
  simp [State.abandonMerges]

@[simp] theorem State.releaseMerge_pending (s : State) (m : RingMerge) (poisoned : Bool) :
    (s.releaseMerge m poisoned).pending = s.pending := by
  unfold State.releaseMerge
  dsimp only
  (repeat' split) <;> simp

@[simp] theorem State.releaseFold_pending (s : State) (num : Nat) (poisoned : Bool) :
    (s.releaseFold num poisoned).pending = s.pending := by
  simp [State.releaseFold]

@[simp] theorem State.bellRoll_pending (s : State) (num t : Nat) :
    (s.bellRoll num t).pending = s.pending := by
  unfold State.bellRoll
  dsimp only
  split
  · simp
  · generalize hd : (if (s.rollCall num).ring = true then _ else _ : Bool) = due
    cases due <;> simp [State.ite_pending]

@[simp] theorem State.meetBell_pending (s : State) :
    (s.meetBell).pending = s.pending := by
  unfold State.meetBell
  split <;> simp

@[simp] theorem State.refold_pending (s : State) (p : RollCall → Bool) :
    (s.refold p).pending = s.pending := by
  simp [State.refold]

@[simp] theorem State.poisonMerges_pending (s : State) (p : RollCall → Bool) :
    (s.poisonMerges p).pending = s.pending := by
  simp [State.poisonMerges]

@[simp] theorem State.aloneMerges_pending (s : State) :
    (s.aloneMerges).pending = s.pending := by
  simp [State.aloneMerges]

@[simp] theorem State.arriveDead_pending (s : State) (c handle : Nat) :
    (s.arriveDead c handle).pending = s.pending := by
  unfold State.arriveDead
  dsimp only
  (repeat' split) <;> simp

@[simp] theorem State.arriveMerge_pending (s : State) (h : Share) (g : List (Nat × Share)) (handle : Nat) (rows : List MergeRow) :
    (s.arriveMerge h g handle rows).pending = s.pending := by
  unfold State.arriveMerge
  (repeat' split) <;> simp [State.ite_pending] <;> (repeat' split) <;> simp

@[simp] theorem State.poisonNote_pending (s : State) (q : Nat) (h : Share) (bad : Bool) :
    (s.poisonNote q h bad).pending = s.pending := by
  unfold State.poisonNote
  split <;> simp

@[simp] theorem State.written_pending (s : State) (q id : Nat) :
    (s.written q id).pending = s.pending := by
  simp [State.written]

@[simp] theorem State.putRows_pending (s : State) (q : Nat) (h : Share) (rows : List MergeRow) :
    (s.putRows q h rows).pending = s.pending := by
  simp [State.putRows]

@[simp] theorem State.writeMerge_pending (s : State) (q : Nat) (h : Share) (rows : List MergeRow) :
    (s.writeMerge q h rows).pending = s.pending := by
  simp [State.writeMerge]

@[simp] theorem State.writeTopk_pending (s : State) (q : Nat) (h : Share) (rows : List MergeRow) :
    (s.writeTopk q h rows).pending = s.pending := by
  unfold State.writeTopk
  simp [State.ite_pending]

@[simp] theorem State.takeIssues_pending (s : State) (q : Nat) (h : Share) :
    (s.takeIssues q h).pending = s.pending := by
  unfold State.takeIssues
  split <;> simp

@[simp] theorem State.addRows_pending (s : State) (g : List (Nat × Share)) (rows : List MergeRow) (n : Nat) :
    (s.addRows g rows n).pending = s.pending := by
  simp [State.addRows]

@[simp] theorem State.combineReady_pending (s : State) (q : Nat) (h : Share) :
    (s.combineReady q h).pending = s.pending := by
  unfold State.combineReady
  (repeat' split) <;> simp [State.ite_pending] <;> (repeat' split) <;> simp

@[simp] theorem State.writeReady_pending (s : State) (q id : Nat) :
    (s.writeReady q id).pending = s.pending := by
  unfold State.writeReady
  (repeat' split) <;> simp

@[simp] theorem State.runMerge_pending (s : State) (q : Nat) (h : Share) :
    (s.runMerge q h).pending = s.pending := by
  unfold State.runMerge
  (repeat' split) <;> simp

/-! ## Memory is left alone -/

@[simp] theorem State.writePositions_mem (s : State) (q : Nat) (d : Desc) (ps : List (Nat × Word32 × Bool)) :
    (s.writePositions q d ps).mem = s.mem := by
  simp [State.writePositions]

@[simp] theorem State.poisonTensor_mem (s : State) (q : Nat) (d : Desc) :
    (s.poisonTensor q d).mem = s.mem := by
  simp [State.poisonTensor]

@[simp] theorem State.giveResult_mem (s : State) (g : List (Nat × Share)) (rows : List MergeRow) (ringing : Bool) :
    (s.giveResult g rows ringing).mem = s.mem := by
  simp [State.giveResult]

@[simp] theorem State.dropMerge_mem (s : State) (m : RingMerge) :
    (s.dropMerge m).mem = s.mem := by
  simp [State.dropMerge]

@[simp] theorem State.keepMerge_mem (s : State) (m : RingMerge) :
    (s.keepMerge m).mem = s.mem := by
  simp [State.keepMerge]

@[simp] theorem State.finishMerge_mem (s : State) (m : RingMerge) (rows : List MergeRow) :
    (s.finishMerge m rows).mem = s.mem := by
  simp [State.finishMerge]

@[simp] theorem State.leaveMerge_mem (s : State) (m : RingMerge) :
    (s.leaveMerge m).mem = s.mem := by
  unfold State.leaveMerge
  split <;> simp

@[simp] theorem State.passFold_mem (s : State) (m : RingMerge) (part : Option (List MergeRow)) :
    (s.passFold m part).mem = s.mem := by
  unfold State.passFold
  (repeat' split) <;> simp

@[simp] theorem State.abandonMerges_mem (s : State) (c : Nat) :
    (s.abandonMerges c).mem = s.mem := by
  simp [State.abandonMerges]

@[simp] theorem State.releaseMerge_mem (s : State) (m : RingMerge) (poisoned : Bool) :
    (s.releaseMerge m poisoned).mem = s.mem := by
  unfold State.releaseMerge
  dsimp only
  (repeat' split) <;> simp

@[simp] theorem State.releaseFold_mem (s : State) (num : Nat) (poisoned : Bool) :
    (s.releaseFold num poisoned).mem = s.mem := by
  simp [State.releaseFold]

@[simp] theorem State.bellRoll_mem (s : State) (num t : Nat) :
    (s.bellRoll num t).mem = s.mem := by
  unfold State.bellRoll
  dsimp only
  split
  · simp
  · generalize hd : (if (s.rollCall num).ring = true then _ else _ : Bool) = due
    cases due <;> simp [State.ite_mem]

@[simp] theorem State.meetBell_mem (s : State) :
    (s.meetBell).mem = s.mem := by
  unfold State.meetBell
  split <;> simp

@[simp] theorem State.refold_mem (s : State) (p : RollCall → Bool) :
    (s.refold p).mem = s.mem := by
  simp [State.refold]

@[simp] theorem State.poisonMerges_mem (s : State) (p : RollCall → Bool) :
    (s.poisonMerges p).mem = s.mem := by
  simp [State.poisonMerges]

@[simp] theorem State.aloneMerges_mem (s : State) :
    (s.aloneMerges).mem = s.mem := by
  simp [State.aloneMerges]

@[simp] theorem State.arriveDead_mem (s : State) (c handle : Nat) :
    (s.arriveDead c handle).mem = s.mem := by
  unfold State.arriveDead
  dsimp only
  (repeat' split) <;> simp

@[simp] theorem State.arriveMerge_mem (s : State) (h : Share) (g : List (Nat × Share)) (handle : Nat) (rows : List MergeRow) :
    (s.arriveMerge h g handle rows).mem = s.mem := by
  unfold State.arriveMerge
  (repeat' split) <;> simp [State.ite_mem] <;> (repeat' split) <;> simp

@[simp] theorem State.poisonNote_mem (s : State) (q : Nat) (h : Share) (bad : Bool) :
    (s.poisonNote q h bad).mem = s.mem := by
  unfold State.poisonNote
  split <;> simp

@[simp] theorem State.written_mem (s : State) (q id : Nat) :
    (s.written q id).mem = s.mem := by
  simp [State.written]

@[simp] theorem State.putRows_mem (s : State) (q : Nat) (h : Share) (rows : List MergeRow) :
    (s.putRows q h rows).mem = s.mem := by
  simp [State.putRows]

@[simp] theorem State.writeMerge_mem (s : State) (q : Nat) (h : Share) (rows : List MergeRow) :
    (s.writeMerge q h rows).mem = s.mem := by
  simp [State.writeMerge]

@[simp] theorem State.writeTopk_mem (s : State) (q : Nat) (h : Share) (rows : List MergeRow) :
    (s.writeTopk q h rows).mem = s.mem := by
  unfold State.writeTopk
  simp [State.ite_mem]

@[simp] theorem State.takeIssues_mem (s : State) (q : Nat) (h : Share) :
    (s.takeIssues q h).mem = s.mem := by
  unfold State.takeIssues
  split <;> simp

@[simp] theorem State.addRows_mem (s : State) (g : List (Nat × Share)) (rows : List MergeRow) (n : Nat) :
    (s.addRows g rows n).mem = s.mem := by
  simp [State.addRows]

@[simp] theorem State.combineReady_mem (s : State) (q : Nat) (h : Share) :
    (s.combineReady q h).mem = s.mem := by
  unfold State.combineReady
  (repeat' split) <;> simp [State.ite_mem] <;> (repeat' split) <;> simp

@[simp] theorem State.writeReady_mem (s : State) (q id : Nat) :
    (s.writeReady q id).mem = s.mem := by
  unfold State.writeReady
  (repeat' split) <;> simp

@[simp] theorem State.runMerge_mem (s : State) (q : Nat) (h : Share) :
    (s.runMerge q h).mem = s.mem := by
  unfold State.runMerge
  (repeat' split) <;> simp

/-! ## Memory keeps its canonical form -/

@[simp] theorem State.arriveMerge_wf (s : State) (h : Share) (g : List (Nat × Share)) (handle : Nat) (rows : List MergeRow) (hw : s.mem.wf = true) :
    (s.arriveMerge h g handle rows).mem.wf = true := by
  unfold State.arriveMerge
  try dsimp only
  (repeat' split) <;> simp [*] <;> (repeat' split) <;> simp [*]

@[simp] theorem State.runMerge_wf (s : State) (q : Nat) (h : Share) (hw : s.mem.wf = true) :
    (s.runMerge q h).mem.wf = true := by
  unfold State.runMerge
  (repeat' split) <;> simp [hw]

/-! ## The retirement list is left alone (R362) -/

@[simp] theorem State.writePositions_retired (s : State) (q : Nat) (d : Desc) (ps : List (Nat × Word32 × Bool)) :
    (s.writePositions q d ps).health.retired = s.health.retired := by
  simp [State.writePositions]

@[simp] theorem State.poisonTensor_retired (s : State) (q : Nat) (d : Desc) :
    (s.poisonTensor q d).health.retired = s.health.retired := by
  simp [State.poisonTensor]

@[simp] theorem State.giveResult_retired (s : State) (g : List (Nat × Share)) (rows : List MergeRow) (ringing : Bool) :
    (s.giveResult g rows ringing).health.retired = s.health.retired := by
  simp [State.giveResult]

@[simp] theorem State.dropMerge_retired (s : State) (m : RingMerge) :
    (s.dropMerge m).health.retired = s.health.retired := by
  simp [State.dropMerge]

@[simp] theorem State.keepMerge_retired (s : State) (m : RingMerge) :
    (s.keepMerge m).health.retired = s.health.retired := by
  simp [State.keepMerge]

@[simp] theorem State.finishMerge_retired (s : State) (m : RingMerge) (rows : List MergeRow) :
    (s.finishMerge m rows).health.retired = s.health.retired := by
  simp [State.finishMerge]

@[simp] theorem State.leaveMerge_retired (s : State) (m : RingMerge) :
    (s.leaveMerge m).health.retired = s.health.retired := by
  unfold State.leaveMerge
  split <;> simp

@[simp] theorem State.passFold_retired (s : State) (m : RingMerge) (part : Option (List MergeRow)) :
    (s.passFold m part).health.retired = s.health.retired := by
  unfold State.passFold
  (repeat' split) <;> simp

@[simp] theorem State.abandonMerges_retired (s : State) (c : Nat) :
    (s.abandonMerges c).health.retired = s.health.retired := by
  simp [State.abandonMerges]

@[simp] theorem State.releaseMerge_retired (s : State) (m : RingMerge) (poisoned : Bool) :
    (s.releaseMerge m poisoned).health.retired = s.health.retired := by
  unfold State.releaseMerge
  dsimp only
  (repeat' split) <;> simp

@[simp] theorem State.releaseFold_retired (s : State) (num : Nat) (poisoned : Bool) :
    (s.releaseFold num poisoned).health.retired = s.health.retired := by
  simp [State.releaseFold]

@[simp] theorem State.bellRoll_retired (s : State) (num t : Nat) :
    (s.bellRoll num t).health.retired = s.health.retired := by
  unfold State.bellRoll
  dsimp only
  split
  · simp
  · generalize hd : (if (s.rollCall num).ring = true then _ else _ : Bool) = due
    cases due <;> simp [State.ite_retired]

@[simp] theorem State.meetBell_retired (s : State) :
    (s.meetBell).health.retired = s.health.retired := by
  unfold State.meetBell
  split <;> simp

@[simp] theorem State.refold_retired (s : State) (p : RollCall → Bool) :
    (s.refold p).health.retired = s.health.retired := by
  simp [State.refold]

@[simp] theorem State.poisonMerges_retired (s : State) (p : RollCall → Bool) :
    (s.poisonMerges p).health.retired = s.health.retired := by
  simp [State.poisonMerges]

@[simp] theorem State.aloneMerges_retired (s : State) :
    (s.aloneMerges).health.retired = s.health.retired := by
  simp [State.aloneMerges]

@[simp] theorem State.arriveDead_retired (s : State) (c handle : Nat) :
    (s.arriveDead c handle).health.retired = s.health.retired := by
  unfold State.arriveDead
  dsimp only
  (repeat' split) <;> simp

@[simp] theorem State.arriveMerge_retired (s : State) (h : Share) (g : List (Nat × Share)) (handle : Nat) (rows : List MergeRow) :
    (s.arriveMerge h g handle rows).health.retired = s.health.retired := by
  unfold State.arriveMerge
  (repeat' split) <;> simp [State.ite_retired] <;> (repeat' split) <;> simp

@[simp] theorem State.poisonNote_retired (s : State) (q : Nat) (h : Share) (bad : Bool) :
    (s.poisonNote q h bad).health.retired = s.health.retired := by
  unfold State.poisonNote
  split <;> simp

@[simp] theorem State.written_retired (s : State) (q id : Nat) :
    (s.written q id).health.retired = s.health.retired := by
  simp [State.written]

@[simp] theorem State.putRows_retired (s : State) (q : Nat) (h : Share) (rows : List MergeRow) :
    (s.putRows q h rows).health.retired = s.health.retired := by
  simp [State.putRows]

@[simp] theorem State.writeMerge_retired (s : State) (q : Nat) (h : Share) (rows : List MergeRow) :
    (s.writeMerge q h rows).health.retired = s.health.retired := by
  simp [State.writeMerge]

@[simp] theorem State.writeTopk_retired (s : State) (q : Nat) (h : Share) (rows : List MergeRow) :
    (s.writeTopk q h rows).health.retired = s.health.retired := by
  unfold State.writeTopk
  simp [State.ite_retired]

@[simp] theorem State.takeIssues_retired (s : State) (q : Nat) (h : Share) :
    (s.takeIssues q h).health.retired = s.health.retired := by
  unfold State.takeIssues
  split <;> simp

@[simp] theorem State.addRows_retired (s : State) (g : List (Nat × Share)) (rows : List MergeRow) (n : Nat) :
    (s.addRows g rows n).health.retired = s.health.retired := by
  simp [State.addRows]

@[simp] theorem State.combineReady_retired (s : State) (q : Nat) (h : Share) :
    (s.combineReady q h).health.retired = s.health.retired := by
  unfold State.combineReady
  (repeat' split) <;> simp [State.ite_retired] <;> (repeat' split) <;> simp

@[simp] theorem State.writeReady_retired (s : State) (q id : Nat) :
    (s.writeReady q id).health.retired = s.health.retired := by
  unfold State.writeReady
  (repeat' split) <;> simp

@[simp] theorem State.runMerge_retired (s : State) (q : Nat) (h : Share) :
    (s.runMerge q h).health.retired = s.health.retired := by
  unfold State.runMerge
  (repeat' split) <;> simp

/-! ## The retirement list keeps its entries (R362) -/

@[simp] theorem State.arriveMerge_kept (s : State) (h : Share) (g : List (Nat × Share)) (handle : Nat) (rows : List MergeRow) {r₀ : List Nat} (hw : RetiredKept r₀ s.health.retired) :
    RetiredKept r₀ (s.arriveMerge h g handle rows).health.retired := by
  unfold State.arriveMerge
  try dsimp only
  (repeat' split) <;> simp [*] <;> (repeat' split) <;> simp [*]

@[simp] theorem State.runMerge_kept (s : State) (q : Nat) (h : Share) {r₀ : List Nat} (hw : RetiredKept r₀ s.health.retired) :
    RetiredKept r₀ (s.runMerge q h).health.retired := by
  unfold State.runMerge
  (repeat' split) <;> simp [hw]

end Sys2Proof.Machine
end

