-- ==== Sys2Proof/Laws/Slate.lean ====
section
/-! SUPPORT. What the operations of Machine/Slate.lean leave alone, and what they keep. -/

set_option Elab.async false
set_option linter.unusedSimpArgs false
set_option linter.unusedTactic false
set_option linter.unreachableTactic false
set_option linter.unnecessarySeqFocus false
set_option linter.unnecessarySimpa false

namespace Sys2Proof.Machine

/-! ## The queue of commands is left alone -/

@[simp] theorem State.serve_pending (s : State) (a : Access) :
    (s.serve a).pending = s.pending := by
  unfold State.serve
  rw [State.carry_pending]
  apply State.foldl_pending
  intros
  simp

@[simp] theorem State.serveHeld_pending (s : State) (a : Access) :
    (s.serveHeld a).pending = s.pending := by
  unfold State.serveHeld
  rw [State.carry_pending]
  apply State.foldl_pending
  intros
  simp

@[simp] theorem State.defer_pending (s : State) (a : Access) :
    (s.defer a).pending = s.pending := by
  unfold State.defer
  split <;> rfl

@[simp] theorem State.enterStack_pending (s : State) (a : Access) :
    (s.enterStack a).pending = s.pending := by
  unfold State.enterStack
  simp [State.ite_pending]

@[simp] theorem State.pumpReads_pending (s : State) :
    (s.pumpReads).pending = s.pending := by
  simp [State.pumpReads]

@[simp] theorem State.receive_pending (s : State) (a : Access) :
    (s.receive a).pending = s.pending := by
  unfold State.receive
  split <;> simp

@[simp] theorem State.take_pending (s : State) (r : MemReq) :
    (s.take r).pending = s.pending := by
  simp [State.take]

@[simp] theorem State.unstall_pending (s : State) (x0 : Nat) :
    (s.unstall x0).pending = s.pending := by
  induction x0 generalizing s with
  | zero => simp [State.unstall]
  | succ n ih =>
    unfold State.unstall
    (repeat' split) <;> simp [ih, State.ite_pending]

@[simp] theorem State.forgetBy_pending (s : State) (c : Nat) :
    (s.forgetBy c).pending = s.pending := by
  simp [State.forgetBy]

@[simp] theorem State.serveDeferred_pending (s : State) :
    (s.serveDeferred).pending = s.pending := by
  simp [State.serveDeferred]

@[simp] theorem State.pumpQuad_pending (s : State) (q : Nat) :
    (s.pumpQuad q).pending = s.pending := by
  simp [State.pumpQuad]

@[simp] theorem State.access_pending (s : State) (tag dpa : Nat) (wr : Option WriteData) :
    (s.access tag dpa wr).pending = s.pending := by
  unfold State.access
  split <;> simp

@[simp] theorem State.slateAccess_pending (s : State) (tag : Nat) (off : BitVec 28) (wr : Option WriteData) :
    (s.slateAccess tag off wr).pending = s.pending := by
  simp [State.slateAccess]

@[simp] theorem State.holdServe_pending (s : State) (as : List Access) :
    (s.holdServe as).pending = s.pending := by
  unfold State.holdServe
  simp

/-! ## Memory is left alone -/

@[simp] theorem State.defer_mem (s : State) (a : Access) :
    (s.defer a).mem = s.mem := by
  unfold State.defer
  split <;> rfl

@[simp] theorem State.forgetBy_mem (s : State) (c : Nat) :
    (s.forgetBy c).mem = s.mem := by
  simp [State.forgetBy]

/-! ## Memory keeps its canonical form -/

@[simp] theorem State.serve_wf (s : State) (a : Access) (hw : s.mem.wf = true) :
    (s.serve a).mem.wf = true := by
  unfold State.serve
  exact State.carry_wf _ _ (State.foldl_holds (fun s : State => s.mem.wf = true) _ (fun s a h => by simp [h]) _ _ hw)

@[simp] theorem State.serveHeld_wf (s : State) (a : Access) (hw : s.mem.wf = true) :
    (s.serveHeld a).mem.wf = true := by
  unfold State.serveHeld
  exact State.carry_wf _ _ (State.foldl_holds (fun s : State => s.mem.wf = true) _ (fun s a h => by simp [h]) _ _ hw)

@[simp] theorem State.enterStack_wf (s : State) (a : Access) (hw : s.mem.wf = true) :
    (s.enterStack a).mem.wf = true := by
  unfold State.enterStack
  try dsimp only
  (repeat' split) <;> simp [*] <;> (repeat' split) <;> simp [*]

@[simp] theorem State.pumpReads_wf (s : State) (hw : s.mem.wf = true) :
    (s.pumpReads).mem.wf = true := by
  unfold State.pumpReads
  exact State.foldl_holds (fun s : State => s.mem.wf = true) _ (fun s a h => by simp [h]) _ _ hw

@[simp] theorem State.receive_wf (s : State) (a : Access) (hw : s.mem.wf = true) :
    (s.receive a).mem.wf = true := by
  unfold State.receive
  split <;> simp [hw]

@[simp] theorem State.take_wf (s : State) (r : MemReq) (hw : s.mem.wf = true) :
    (s.take r).mem.wf = true := by
  simp [State.take, hw]

@[simp] theorem State.unstall_wf (s : State) (x0 : Nat) (hw : s.mem.wf = true) :
    (s.unstall x0).mem.wf = true := by
  induction x0 generalizing s with
  | zero => exact hw
  | succ n ih =>
    unfold State.unstall
    split
    · exact hw
    · split
      · exact hw
      · exact ih _ (State.take_wf _ _ hw)

@[simp] theorem State.serveDeferred_wf (s : State) (hw : s.mem.wf = true) :
    (s.serveDeferred).mem.wf = true := by
  unfold State.serveDeferred
  refine State.unstall_wf _ _ (State.pumpReads_wf _ ?_)
  exact State.foldl_holds (fun s : State => s.mem.wf = true) _ (fun s a h => by simp [h]) _ _ hw

@[simp] theorem State.pumpQuad_wf (s : State) (q : Nat) (hw : s.mem.wf = true) :
    (s.pumpQuad q).mem.wf = true := by
  unfold State.pumpQuad
  refine State.pumpReads_wf _ ?_
  refine State.foldl_holds (fun s : State => s.mem.wf = true) _ (fun s i h => ?_) _ _ hw
  exact State.foldl_holds (fun s : State => s.mem.wf = true) _ (fun s a h => by simp [h]) _ _ (by simp [h])

@[simp] theorem State.access_wf (s : State) (tag dpa : Nat) (wr : Option WriteData) (hw : s.mem.wf = true) :
    (s.access tag dpa wr).mem.wf = true := by
  unfold State.access
  split <;> simp [hw]

@[simp] theorem State.slateAccess_wf (s : State) (tag : Nat) (off : BitVec 28) (wr : Option WriteData) (hw : s.mem.wf = true) :
    (s.slateAccess tag off wr).mem.wf = true := by
  simp [State.slateAccess, hw]

@[simp] theorem State.holdServe_wf (s : State) (as : List Access) (hw : s.mem.wf = true) :
    (s.holdServe as).mem.wf = true := by
  unfold State.holdServe
  exact State.foldl_holds (fun s : State => s.mem.wf = true) _ (fun s a h => by simp [h]) _ _
    (State.foldl_holds (fun s : State => s.mem.wf = true) _ (fun s a h => by simp [h]) _ _ (State.foldl_holds (fun s : State => s.mem.wf = true) _ (fun s a h => by simp [h]) _ _ hw))

/-! ## The retirement list is left alone (R362) -/

@[simp] theorem State.defer_retired (s : State) (a : Access) :
    (s.defer a).health.retired = s.health.retired := by
  unfold State.defer
  split <;> rfl

@[simp] theorem State.forgetBy_retired (s : State) (c : Nat) :
    (s.forgetBy c).health.retired = s.health.retired := by
  simp [State.forgetBy]

/-! ## The retirement list keeps its entries (R362) -/

@[simp] theorem State.serve_kept (s : State) (a : Access) {r₀ : List Nat} (hw : RetiredKept r₀ s.health.retired) :
    RetiredKept r₀ (s.serve a).health.retired := by
  unfold State.serve
  exact State.carry_kept _ _ (State.foldl_holds (fun s : State => RetiredKept r₀ s.health.retired) _ (fun s a h => by simp [h]) _ _ hw)

@[simp] theorem State.serveHeld_kept (s : State) (a : Access) {r₀ : List Nat} (hw : RetiredKept r₀ s.health.retired) :
    RetiredKept r₀ (s.serveHeld a).health.retired := by
  unfold State.serveHeld
  exact State.carry_kept _ _ (State.foldl_holds (fun s : State => RetiredKept r₀ s.health.retired) _ (fun s a h => by simp [h]) _ _ hw)

@[simp] theorem State.enterStack_kept (s : State) (a : Access) {r₀ : List Nat} (hw : RetiredKept r₀ s.health.retired) :
    RetiredKept r₀ (s.enterStack a).health.retired := by
  unfold State.enterStack
  try dsimp only
  (repeat' split) <;> simp [*] <;> (repeat' split) <;> simp [*]

@[simp] theorem State.pumpReads_kept (s : State) {r₀ : List Nat} (hw : RetiredKept r₀ s.health.retired) :
    RetiredKept r₀ (s.pumpReads).health.retired := by
  unfold State.pumpReads
  exact State.foldl_holds (fun s : State => RetiredKept r₀ s.health.retired) _ (fun s a h => by simp [h]) _ _ hw

@[simp] theorem State.receive_kept (s : State) (a : Access) {r₀ : List Nat} (hw : RetiredKept r₀ s.health.retired) :
    RetiredKept r₀ (s.receive a).health.retired := by
  unfold State.receive
  split <;> simp [hw]

@[simp] theorem State.take_kept (s : State) (r : MemReq) {r₀ : List Nat} (hw : RetiredKept r₀ s.health.retired) :
    RetiredKept r₀ (s.take r).health.retired := by
  simp [State.take, hw]

@[simp] theorem State.unstall_kept (s : State) (x0 : Nat) {r₀ : List Nat} (hw : RetiredKept r₀ s.health.retired) :
    RetiredKept r₀ (s.unstall x0).health.retired := by
  induction x0 generalizing s with
  | zero => exact hw
  | succ n ih =>
    unfold State.unstall
    split
    · exact hw
    · split
      · exact hw
      · exact ih _ (State.take_kept _ _ hw)

@[simp] theorem State.serveDeferred_kept (s : State) {r₀ : List Nat} (hw : RetiredKept r₀ s.health.retired) :
    RetiredKept r₀ (s.serveDeferred).health.retired := by
  unfold State.serveDeferred
  refine State.unstall_kept _ _ (State.pumpReads_kept _ ?_)
  exact State.foldl_holds (fun s : State => RetiredKept r₀ s.health.retired) _ (fun s a h => by simp [h]) _ _ hw

@[simp] theorem State.pumpQuad_kept (s : State) (q : Nat) {r₀ : List Nat} (hw : RetiredKept r₀ s.health.retired) :
    RetiredKept r₀ (s.pumpQuad q).health.retired := by
  unfold State.pumpQuad
  refine State.pumpReads_kept _ ?_
  refine State.foldl_holds (fun s : State => RetiredKept r₀ s.health.retired) _ (fun s i h => ?_) _ _ hw
  exact State.foldl_holds (fun s : State => RetiredKept r₀ s.health.retired) _ (fun s a h => by simp [h]) _ _ (by simp [h])

@[simp] theorem State.access_kept (s : State) (tag dpa : Nat) (wr : Option WriteData) {r₀ : List Nat} (hw : RetiredKept r₀ s.health.retired) :
    RetiredKept r₀ (s.access tag dpa wr).health.retired := by
  unfold State.access
  split <;> simp [hw]

@[simp] theorem State.slateAccess_kept (s : State) (tag : Nat) (off : BitVec 28) (wr : Option WriteData) {r₀ : List Nat} (hw : RetiredKept r₀ s.health.retired) :
    RetiredKept r₀ (s.slateAccess tag off wr).health.retired := by
  simp [State.slateAccess, hw]

@[simp] theorem State.holdServe_kept (s : State) (as : List Access) {r₀ : List Nat} (hw : RetiredKept r₀ s.health.retired) :
    RetiredKept r₀ (s.holdServe as).health.retired := by
  unfold State.holdServe
  exact State.foldl_holds (fun s : State => RetiredKept r₀ s.health.retired) _ (fun s a h => by simp [h]) _ _
    (State.foldl_holds (fun s : State => RetiredKept r₀ s.health.retired) _ (fun s a h => by simp [h]) _ _ (State.foldl_holds (fun s : State => RetiredKept r₀ s.health.retired) _ (fun s a h => by simp [h]) _ _ hw))

end Sys2Proof.Machine
end

