-- ==== Sys2Proof/Laws/Present.lean ====
section
/-! SUPPORT. What the operations of Machine/Present.lean leave alone, and what they keep. -/

set_option Elab.async false
set_option linter.unusedSimpArgs false
set_option linter.unusedTactic false
set_option linter.unreachableTactic false
set_option linter.unnecessarySeqFocus false
set_option linter.unnecessarySimpa false

namespace Sys2Proof.Machine

/-! ## The queue of commands is left alone -/

@[simp] theorem State.presentRoll_pending (s : State) (q sl : Nat) (w : Word32) :
    (s.presentRoll q sl w).pending = s.pending := by
  unfold State.presentRoll
  (repeat' split) <;> simp [State.ite_pending] <;> (repeat' split) <;> simp

@[simp] theorem State.present_pending (s : State) (q sl : Nat) (w : Word32) :
    (s.present q sl w).pending = s.pending := by
  unfold State.present
  (repeat' split) <;> simp [State.ite_pending] <;> (repeat' split) <;> simp

/-! ## Memory is left alone -/

@[simp] theorem State.presentRoll_mem (s : State) (q sl : Nat) (w : Word32) :
    (s.presentRoll q sl w).mem = s.mem := by
  unfold State.presentRoll
  (repeat' split) <;> simp [State.ite_mem] <;> (repeat' split) <;> simp

@[simp] theorem State.present_mem (s : State) (q sl : Nat) (w : Word32) :
    (s.present q sl w).mem = s.mem := by
  unfold State.present
  (repeat' split) <;> simp [State.ite_mem] <;> (repeat' split) <;> simp

/-! ## Memory keeps its canonical form -/

@[simp] theorem State.presentRoll_wf (s : State) (q sl : Nat) (w : Word32) (hw : s.mem.wf = true) :
    (s.presentRoll q sl w).mem.wf = true := by
  unfold State.presentRoll
  try dsimp only
  (repeat' split) <;> simp [*] <;> (repeat' split) <;> simp [*]

@[simp] theorem State.present_wf (s : State) (q sl : Nat) (w : Word32) (hw : s.mem.wf = true) :
    (s.present q sl w).mem.wf = true := by
  unfold State.present
  try dsimp only
  (repeat' split) <;> simp [*] <;> (repeat' split) <;> simp [*]

/-! ## The retirement list is left alone (R362) -/

@[simp] theorem State.presentRoll_retired (s : State) (q sl : Nat) (w : Word32) :
    (s.presentRoll q sl w).health.retired = s.health.retired := by
  unfold State.presentRoll
  (repeat' split) <;> simp [State.ite_retired] <;> (repeat' split) <;> simp

@[simp] theorem State.present_retired (s : State) (q sl : Nat) (w : Word32) :
    (s.present q sl w).health.retired = s.health.retired := by
  unfold State.present
  (repeat' split) <;> simp [State.ite_retired] <;> (repeat' split) <;> simp

/-! ## The retirement list keeps its entries (R362) -/

@[simp] theorem State.presentRoll_kept (s : State) (q sl : Nat) (w : Word32) {r₀ : List Nat} (hw : RetiredKept r₀ s.health.retired) :
    RetiredKept r₀ (s.presentRoll q sl w).health.retired := by
  unfold State.presentRoll
  try dsimp only
  (repeat' split) <;> simp [*] <;> (repeat' split) <;> simp [*]

@[simp] theorem State.present_kept (s : State) (q sl : Nat) (w : Word32) {r₀ : List Nat} (hw : RetiredKept r₀ s.health.retired) :
    RetiredKept r₀ (s.present q sl w).health.retired := by
  unfold State.present
  try dsimp only
  (repeat' split) <;> simp [*] <;> (repeat' split) <;> simp [*]

end Sys2Proof.Machine
end

