-- ==== Sys2Proof/Laws/Command.lean ====
section
/-! SUPPORT. What the operations of Machine/Command.lean leave alone, and what they keep. -/

set_option Elab.async false
set_option linter.unusedSimpArgs false
set_option linter.unusedTactic false
set_option linter.unreachableTactic false
set_option linter.unnecessarySeqFocus false
set_option linter.unnecessarySimpa false

namespace Sys2Proof.Machine

/-! ## The queue of commands is left alone -/

@[simp] theorem State.startSlot_pending (s : State) (c : Nat) (k : List Word64) (q : Nat) :
    (s.startSlot c k q).pending = s.pending := by
  simp [State.startSlot]

@[simp] theorem State.startLesson_pending (s : State) (c : Nat) :
    (s.startLesson c).pending = s.pending := by
  unfold State.startLesson
  (repeat' split) <;> simp [State.ite_pending] <;> (repeat' split) <;> simp

@[simp] theorem State.examine_pending (s : State) (c : Nat) (x0 : Nat) :
    (s.examine c x0).pending = s.pending := by
  induction x0 generalizing s with
  | zero => rfl
  | succ n ih =>
    unfold State.examine
    dsimp only
    (repeat' split) <;> simp [ih, State.ite_pending] <;> (repeat' split) <;> simp [State.ite_pending]

@[simp] theorem State.evalDoorbell_pending (s : State) (c : Nat) :
    (s.evalDoorbell c).pending = s.pending := by
  unfold State.evalDoorbell
  split <;> simp

@[simp] theorem State.writeReport_pending (s : State) (c : Nat) (w : Waiting) :
    (s.writeReport c w).pending = s.pending := by
  unfold State.writeReport
  simp [State.ite_pending]

@[simp] theorem State.wantRelease_pending (s : State) (c handle round : Nat) :
    (s.wantRelease c handle round).pending = s.pending := by
  simp [State.wantRelease]

@[simp] theorem State.writeWatch_pending (s : State) (c i : Nat) (f : Watch → Watch) :
    (s.writeWatch c i f).pending = s.pending := by
  unfold State.writeWatch
  simp [State.ite_pending]

/-! ## Memory is left alone -/

@[simp] theorem State.startSlot_mem (s : State) (c : Nat) (k : List Word64) (q : Nat) :
    (s.startSlot c k q).mem = s.mem := by
  simp [State.startSlot]

@[simp] theorem State.startLesson_mem (s : State) (c : Nat) :
    (s.startLesson c).mem = s.mem := by
  unfold State.startLesson
  (repeat' split) <;> simp [State.ite_mem] <;> (repeat' split) <;> simp

@[simp] theorem State.examine_mem (s : State) (c : Nat) (x0 : Nat) :
    (s.examine c x0).mem = s.mem := by
  induction x0 generalizing s with
  | zero => rfl
  | succ n ih =>
    unfold State.examine
    dsimp only
    (repeat' split) <;> simp [ih, State.ite_mem] <;> (repeat' split) <;> simp [State.ite_mem]

@[simp] theorem State.evalDoorbell_mem (s : State) (c : Nat) :
    (s.evalDoorbell c).mem = s.mem := by
  unfold State.evalDoorbell
  split <;> simp

@[simp] theorem State.writeReport_mem (s : State) (c : Nat) (w : Waiting) :
    (s.writeReport c w).mem = s.mem := by
  unfold State.writeReport
  simp [State.ite_mem]

@[simp] theorem State.wantRelease_mem (s : State) (c handle round : Nat) :
    (s.wantRelease c handle round).mem = s.mem := by
  simp [State.wantRelease]

@[simp] theorem State.writeWatch_mem (s : State) (c i : Nat) (f : Watch → Watch) :
    (s.writeWatch c i f).mem = s.mem := by
  unfold State.writeWatch
  simp [State.ite_mem]

/-! ## The retirement list is left alone (R362) -/

@[simp] theorem State.startSlot_retired (s : State) (c : Nat) (k : List Word64) (q : Nat) :
    (s.startSlot c k q).health.retired = s.health.retired := by
  simp [State.startSlot]

@[simp] theorem State.startLesson_retired (s : State) (c : Nat) :
    (s.startLesson c).health.retired = s.health.retired := by
  unfold State.startLesson
  (repeat' split) <;> simp [State.ite_retired] <;> (repeat' split) <;> simp

@[simp] theorem State.examine_retired (s : State) (c : Nat) (x0 : Nat) :
    (s.examine c x0).health.retired = s.health.retired := by
  induction x0 generalizing s with
  | zero => rfl
  | succ n ih =>
    unfold State.examine
    dsimp only
    (repeat' split) <;> simp [ih, State.ite_retired] <;> (repeat' split) <;> simp [State.ite_retired]

@[simp] theorem State.evalDoorbell_retired (s : State) (c : Nat) :
    (s.evalDoorbell c).health.retired = s.health.retired := by
  unfold State.evalDoorbell
  split <;> simp

@[simp] theorem State.writeReport_retired (s : State) (c : Nat) (w : Waiting) :
    (s.writeReport c w).health.retired = s.health.retired := by
  unfold State.writeReport
  simp [State.ite_retired]

@[simp] theorem State.wantRelease_retired (s : State) (c handle round : Nat) :
    (s.wantRelease c handle round).health.retired = s.health.retired := by
  simp [State.wantRelease]

@[simp] theorem State.writeWatch_retired (s : State) (c i : Nat) (f : Watch → Watch) :
    (s.writeWatch c i f).health.retired = s.health.retired := by
  unfold State.writeWatch
  simp [State.ite_retired]

end Sys2Proof.Machine
end

