-- ==== Sys2Proof/Laws/Loader.lean ====
section
/-! SUPPORT. What the operations of Machine/Loader.lean leave alone, and what they keep. -/

set_option Elab.async false
set_option linter.unusedSimpArgs false
set_option linter.unusedTactic false
set_option linter.unreachableTactic false
set_option linter.unnecessarySeqFocus false
set_option linter.unnecessarySimpa false

namespace Sys2Proof.Machine

/-! ## The queue of commands is left alone -/

@[simp] theorem State.readColumns_pending (s : State) (cs : List (Nat × Nat)) :
    (s.readColumns cs).2.pending = s.pending := by
  simp [State.readColumns]

@[simp] theorem State.readImage_pending (s : State) (d : Desc) :
    (s.readImage d).2.pending = s.pending := by
  simp [State.readImage]

/-! ## Memory keeps its canonical form -/

@[simp] theorem State.readColumns_wf (s : State) (cs : List (Nat × Nat)) (hw : s.mem.wf = true) :
    (s.readColumns cs).2.mem.wf = true := by
  unfold State.readColumns
  refine List.foldlRecOn _ _ (motive := fun x : List Byte × State => x.2.mem.wf = true) hw (fun x hx u _ => ?_)
  simp [hx]

@[simp] theorem State.readImage_wf (s : State) (d : Desc) (hw : s.mem.wf = true) :
    (s.readImage d).2.mem.wf = true := by
  unfold State.readImage
  simp [hw]

/-! ## The retirement list keeps its entries (R362) -/

@[simp] theorem State.readColumns_kept (s : State) (cs : List (Nat × Nat)) {r₀ : List Nat} (hw : RetiredKept r₀ s.health.retired) :
    RetiredKept r₀ (s.readColumns cs).2.health.retired := by
  unfold State.readColumns
  refine List.foldlRecOn _ _ (motive := fun x : List Byte × State => RetiredKept r₀ x.2.health.retired) hw (fun x hx u _ => ?_)
  simp [hx]

@[simp] theorem State.readImage_kept (s : State) (d : Desc) {r₀ : List Nat} (hw : RetiredKept r₀ s.health.retired) :
    RetiredKept r₀ (s.readImage d).2.health.retired := by
  unfold State.readImage
  simp [hw]

end Sys2Proof.Machine
end

