-- ==== Sys2Proof/Laws/Kv.lean ====
section
/-! SUPPORT. What the operations of Machine/Kv.lean leave alone, and what they keep. -/

set_option Elab.async false
set_option linter.unusedSimpArgs false
set_option linter.unusedTactic false
set_option linter.unreachableTactic false
set_option linter.unnecessarySeqFocus false
set_option linter.unnecessarySimpa false

namespace Sys2Proof.Machine

/-! ## The queue of commands is left alone -/

@[simp] theorem State.kvPut_pending (s : State) (c : Nat) (d : Desc) (pad : Bool) (x : Nat × Loc) (data : Line) (poison : Bool) :
    (s.kvPut c d pad x data poison).pending = s.pending := by
  unfold State.kvPut
  dsimp only
  (repeat' split) <;> simp

@[simp] theorem State.kvGet_pending (s : State) (ls : List (Nat × Loc)) :
    (s.kvGet ls).2.pending = s.pending := by
  unfold State.kvGet
  (repeat' split) <;> simp

@[simp] theorem State.kvServe_pending (s : State) (w : KvWait) :
    (s.kvServe w).pending = s.pending := by
  unfold State.kvServe
  dsimp only
  split
  · simp
  · simp
  · rw [State.sendTo_pending]
    refine State.foldl_pending _ (fun s x => ?_) _ _
    exact State.foldl_pending _ (fun s p => by simp) _ _
  · split
    · simp
    · rw [State.sendTo_pending]
      exact State.foldl_snd_pending _ (fun x p => by simp) _ _

@[simp] theorem State.kvArrive_pending (s : State) (w : KvWait) :
    (s.kvArrive w).pending = s.pending := by
  have h : ∀ (t : State) (w : KvWait), t.pending = s.pending → (if t.kvReady w then t.kvServe w
      else { t with ring := { t.ring with kvWait := t.ring.kvWait ++ [w] } }).pending = s.pending := by
    intro t w ht
    split <;> simp [ht]
  unfold State.kvArrive
  refine h _ _ ?_
  exact State.foldl_pending _ (fun s p => by split <;> simp) _ _

@[simp] theorem State.kvWriteFrame_pending (s : State) (src tid index column : Nat) (cols : List Line) (poison : Bool) :
    (s.kvWriteFrame src tid index column cols poison).pending = s.pending := by
  unfold State.kvWriteFrame
  split <;> simp

@[simp] theorem State.kvReadFrame_pending (s : State) (src tid index column count : Nat) :
    (s.kvReadFrame src tid index column count).pending = s.pending := by
  unfold State.kvReadFrame
  split <;> simp

@[simp] theorem State.dropRequest_pending (s : State) (r : RemoteReq) :
    (s.dropRequest r).pending = s.pending := by
  simp [State.dropRequest]

@[simp] theorem State.remoteDone_pending (s : State) (r : RemoteReq) :
    (s.remoteDone r).pending = s.pending := by
  simp [State.remoteDone]

@[simp] theorem State.fillOutgoing_pending (s : State) (num byte : Nat) (b : Byte) (poison : Bool) :
    (s.fillOutgoing num byte b poison).pending = s.pending := by
  unfold State.fillOutgoing
  (repeat' split) <;> simp [State.ite_pending] <;> (repeat' split) <;> simp

@[simp] theorem State.putAnswer_pending (s : State) (r : RemoteReq) (data : Line) (poison : Bool) (g : Nat × List (Nat × Nat)) :
    (s.putAnswer r data poison g).pending = s.pending := by
  unfold State.putAnswer
  (repeat' split) <;> simp

@[simp] theorem State.giveAnswer_pending (s : State) (r : RemoteReq) (a : Line × Bool) :
    (s.giveAnswer r a).pending = s.pending := by
  unfold State.giveAnswer
  rw [State.remoteDone_pending]
  exact State.foldl_pending _ (fun s g => by simp) _ _

@[simp] theorem State.answerGrant_pending (s : State) :
    (s.answerGrant).pending = s.pending := by
  unfold State.answerGrant
  (repeat' split) <;> simp

@[simp] theorem State.kvDataFrame_pending (s : State) (src tid index column : Nat) (cols : Option (List Line)) (poison : Bool) :
    (s.kvDataFrame src tid index column cols poison).pending = s.pending := by
  unfold State.kvDataFrame
  dsimp only
  (repeat' split) <;> simp

@[simp] theorem State.kvGrant_pending (s : State) :
    (s.kvGrant).pending = s.pending := by
  unfold State.kvGrant
  split <;> simp

@[simp] theorem State.kvPump_pending (s : State) :
    (s.kvPump).pending = s.pending := by
  simp [State.kvPump]

@[simp] theorem State.linkBack_pending (s : State) (st : Nat) :
    (s.linkBack st).pending = s.pending := by
  unfold State.linkBack
  dsimp only
  rw [State.kvPump_pending, State.pumpQuad_pending]
  exact State.foldl_pending _ (fun s p => by simp) _ _

@[simp] theorem State.kvAckFrame_pending (s : State) (src tid index column : Nat) :
    (s.kvAckFrame src tid index column).pending = s.pending := by
  unfold State.kvAckFrame
  split <;> simp

@[simp] theorem State.loseRequests_pending (s : State) (p : RemoteReq → Bool) :
    (s.loseRequests p).pending = s.pending := by
  unfold State.loseRequests
  try dsimp only
  (repeat' split) <;> (try apply State.foldl_pending) <;> intros <;> simp [State.ite_pending] <;> (repeat' split) <;> simp [State.ite_pending]

/-! ## Memory is left alone -/

@[simp] theorem State.dropRequest_mem (s : State) (r : RemoteReq) :
    (s.dropRequest r).mem = s.mem := by
  simp [State.dropRequest]

@[simp] theorem State.remoteDone_mem (s : State) (r : RemoteReq) :
    (s.remoteDone r).mem = s.mem := by
  simp [State.remoteDone]

@[simp] theorem State.fillOutgoing_mem (s : State) (num byte : Nat) (b : Byte) (poison : Bool) :
    (s.fillOutgoing num byte b poison).mem = s.mem := by
  unfold State.fillOutgoing
  (repeat' split) <;> simp [State.ite_mem] <;> (repeat' split) <;> simp

@[simp] theorem State.kvAckFrame_mem (s : State) (src tid index column : Nat) :
    (s.kvAckFrame src tid index column).mem = s.mem := by
  unfold State.kvAckFrame
  split <;> simp

@[simp] theorem State.loseRequests_mem (s : State) (p : RemoteReq → Bool) :
    (s.loseRequests p).mem = s.mem := by
  unfold State.loseRequests
  try dsimp only
  (repeat' split) <;> (try apply State.foldl_mem) <;> intros <;> simp [State.ite_mem] <;> (repeat' split) <;> simp [State.ite_mem]

/-! ## Memory keeps its canonical form -/

@[simp] theorem State.kvPut_wf (s : State) (c : Nat) (d : Desc) (pad : Bool) (x : Nat × Loc) (data : Line) (poison : Bool) (hw : s.mem.wf = true) :
    (s.kvPut c d pad x data poison).mem.wf = true := by
  unfold State.kvPut
  dsimp only
  (repeat' split) <;> simp [hw]

@[simp] theorem State.kvGet_wf (s : State) (ls : List (Nat × Loc)) (hw : s.mem.wf = true) :
    (s.kvGet ls).2.mem.wf = true := by
  unfold State.kvGet
  (repeat' split) <;> simp [hw]

@[simp] theorem State.kvServe_wf (s : State) (w : KvWait) (hw : s.mem.wf = true) :
    (s.kvServe w).mem.wf = true := by
  unfold State.kvServe
  dsimp only
  split
  · simp [hw]
  · simp [hw]
  · rw [State.sendTo_mem]
    refine State.foldl_holds (fun s : State => s.mem.wf = true) _ (fun s x h => ?_) _ _ hw
    exact State.foldl_holds (fun s : State => s.mem.wf = true) _ (fun s p h => by simp [h]) _ _ h
  · split
    · simp [hw]
    · rw [State.sendTo_mem]
      exact List.foldlRecOn _ _ (motive := fun x : List Column × State => x.2.mem.wf = true) hw
        (fun x hx p _ => by simp [hx])

@[simp] theorem State.kvArrive_wf (s : State) (w : KvWait) (hw : s.mem.wf = true) :
    (s.kvArrive w).mem.wf = true := by
  have h : ∀ (t : State) (w : KvWait), t.mem.wf = true → (if t.kvReady w then t.kvServe w
      else { t with ring := { t.ring with kvWait := t.ring.kvWait ++ [w] } }).mem.wf = true := by
    intro t w ht
    split <;> simp [ht]
  unfold State.kvArrive
  refine h _ _ ?_
  exact State.foldl_holds (fun s : State => s.mem.wf = true) _ (fun s p h => by split <;> simp [h]) _ _ hw

@[simp] theorem State.kvWriteFrame_wf (s : State) (src tid index column : Nat) (cols : List Line) (poison : Bool) (hw : s.mem.wf = true) :
    (s.kvWriteFrame src tid index column cols poison).mem.wf = true := by
  unfold State.kvWriteFrame
  (repeat' split) <;> simp [hw]

@[simp] theorem State.kvReadFrame_wf (s : State) (src tid index column count : Nat) (hw : s.mem.wf = true) :
    (s.kvReadFrame src tid index column count).mem.wf = true := by
  unfold State.kvReadFrame
  (repeat' split) <;> simp [hw]

@[simp] theorem State.putAnswer_wf (s : State) (r : RemoteReq) (data : Line) (poison : Bool) (g : Nat × List (Nat × Nat)) (hw : s.mem.wf = true) :
    (s.putAnswer r data poison g).mem.wf = true := by
  unfold State.putAnswer
  (repeat' split) <;> simp [hw]

@[simp] theorem State.giveAnswer_wf (s : State) (r : RemoteReq) (a : Line × Bool) (hw : s.mem.wf = true) :
    (s.giveAnswer r a).mem.wf = true := by
  unfold State.giveAnswer
  rw [State.remoteDone_mem]
  exact State.foldl_holds (fun s : State => s.mem.wf = true) _ (fun s g h => by simp [h]) _ _ hw

@[simp] theorem State.answerGrant_wf (s : State) (hw : s.mem.wf = true) :
    (s.answerGrant).mem.wf = true := by
  unfold State.answerGrant
  (repeat' split) <;> simp [hw]

@[simp] theorem State.kvDataFrame_wf (s : State) (src tid index column : Nat) (cols : Option (List Line)) (poison : Bool) (hw : s.mem.wf = true) :
    (s.kvDataFrame src tid index column cols poison).mem.wf = true := by
  unfold State.kvDataFrame
  dsimp only
  (repeat' split) <;> simp [hw]

@[simp] theorem State.kvGrant_wf (s : State) (hw : s.mem.wf = true) :
    (s.kvGrant).mem.wf = true := by
  unfold State.kvGrant
  split <;> simp [hw]

@[simp] theorem State.kvPump_wf (s : State) (hw : s.mem.wf = true) :
    (s.kvPump).mem.wf = true := by
  unfold State.kvPump
  exact State.foldl_holds (fun s : State => s.mem.wf = true) _ (fun s p h => by simp [h]) _ _ hw

@[simp] theorem State.linkBack_wf (s : State) (st : Nat) (hw : s.mem.wf = true) :
    (s.linkBack st).mem.wf = true := by
  unfold State.linkBack
  exact State.kvPump_wf _ (State.pumpQuad_wf _ _ (State.foldl_holds (fun s : State => s.mem.wf = true) _ (fun s p h => by simp [h]) _ _ hw))

/-! ## The retirement list is left alone (R362) -/

@[simp] theorem State.dropRequest_retired (s : State) (r : RemoteReq) :
    (s.dropRequest r).health.retired = s.health.retired := by
  simp [State.dropRequest]

@[simp] theorem State.remoteDone_retired (s : State) (r : RemoteReq) :
    (s.remoteDone r).health.retired = s.health.retired := by
  simp [State.remoteDone]

@[simp] theorem State.fillOutgoing_retired (s : State) (num byte : Nat) (b : Byte) (poison : Bool) :
    (s.fillOutgoing num byte b poison).health.retired = s.health.retired := by
  unfold State.fillOutgoing
  (repeat' split) <;> simp [State.ite_retired] <;> (repeat' split) <;> simp

@[simp] theorem State.kvAckFrame_retired (s : State) (src tid index column : Nat) :
    (s.kvAckFrame src tid index column).health.retired = s.health.retired := by
  unfold State.kvAckFrame
  split <;> simp

@[simp] theorem State.loseRequests_retired (s : State) (p : RemoteReq → Bool) :
    (s.loseRequests p).health.retired = s.health.retired := by
  unfold State.loseRequests
  try dsimp only
  (repeat' split) <;> (try apply State.foldl_retired) <;> intros <;> simp [State.ite_retired] <;> (repeat' split) <;> simp [State.ite_retired]

/-! ## The retirement list keeps its entries (R362) -/

@[simp] theorem State.kvPut_kept (s : State) (c : Nat) (d : Desc) (pad : Bool) (x : Nat × Loc) (data : Line) (poison : Bool) {r₀ : List Nat} (hw : RetiredKept r₀ s.health.retired) :
    RetiredKept r₀ (s.kvPut c d pad x data poison).health.retired := by
  unfold State.kvPut
  dsimp only
  (repeat' split) <;> simp [hw]

@[simp] theorem State.kvGet_kept (s : State) (ls : List (Nat × Loc)) {r₀ : List Nat} (hw : RetiredKept r₀ s.health.retired) :
    RetiredKept r₀ (s.kvGet ls).2.health.retired := by
  unfold State.kvGet
  (repeat' split) <;> simp [hw]

@[simp] theorem State.kvServe_kept (s : State) (w : KvWait) {r₀ : List Nat} (hw : RetiredKept r₀ s.health.retired) :
    RetiredKept r₀ (s.kvServe w).health.retired := by
  unfold State.kvServe
  dsimp only
  split
  · simp [hw]
  · simp [hw]
  · rw [State.sendTo_retired]
    refine State.foldl_holds (fun s : State => RetiredKept r₀ s.health.retired) _ (fun s x h => ?_) _ _ hw
    exact State.foldl_holds (fun s : State => RetiredKept r₀ s.health.retired) _ (fun s p h => by simp [h]) _ _ h
  · split
    · simp [hw]
    · rw [State.sendTo_retired]
      exact List.foldlRecOn _ _ (motive := fun x : List Column × State => RetiredKept r₀ x.2.health.retired) hw
        (fun x hx p _ => by simp [hx])

@[simp] theorem State.kvArrive_kept (s : State) (w : KvWait) {r₀ : List Nat} (hw : RetiredKept r₀ s.health.retired) :
    RetiredKept r₀ (s.kvArrive w).health.retired := by
  have h : ∀ (t : State) (w : KvWait), RetiredKept r₀ t.health.retired → RetiredKept r₀ (if t.kvReady w then t.kvServe w
      else { t with ring := { t.ring with kvWait := t.ring.kvWait ++ [w] } }).health.retired := by
    intro t w ht
    split <;> simp [ht]
  unfold State.kvArrive
  refine h _ _ ?_
  exact State.foldl_holds (fun s : State => RetiredKept r₀ s.health.retired) _ (fun s p h => by split <;> simp [h]) _ _ hw

@[simp] theorem State.kvWriteFrame_kept (s : State) (src tid index column : Nat) (cols : List Line) (poison : Bool) {r₀ : List Nat} (hw : RetiredKept r₀ s.health.retired) :
    RetiredKept r₀ (s.kvWriteFrame src tid index column cols poison).health.retired := by
  unfold State.kvWriteFrame
  (repeat' split) <;> simp [hw]

@[simp] theorem State.kvReadFrame_kept (s : State) (src tid index column count : Nat) {r₀ : List Nat} (hw : RetiredKept r₀ s.health.retired) :
    RetiredKept r₀ (s.kvReadFrame src tid index column count).health.retired := by
  unfold State.kvReadFrame
  (repeat' split) <;> simp [hw]

@[simp] theorem State.putAnswer_kept (s : State) (r : RemoteReq) (data : Line) (poison : Bool) (g : Nat × List (Nat × Nat)) {r₀ : List Nat} (hw : RetiredKept r₀ s.health.retired) :
    RetiredKept r₀ (s.putAnswer r data poison g).health.retired := by
  unfold State.putAnswer
  (repeat' split) <;> simp [hw]

@[simp] theorem State.giveAnswer_kept (s : State) (r : RemoteReq) (a : Line × Bool) {r₀ : List Nat} (hw : RetiredKept r₀ s.health.retired) :
    RetiredKept r₀ (s.giveAnswer r a).health.retired := by
  unfold State.giveAnswer
  rw [State.remoteDone_retired]
  exact State.foldl_holds (fun s : State => RetiredKept r₀ s.health.retired) _ (fun s g h => by simp [h]) _ _ hw

@[simp] theorem State.answerGrant_kept (s : State) {r₀ : List Nat} (hw : RetiredKept r₀ s.health.retired) :
    RetiredKept r₀ (s.answerGrant).health.retired := by
  unfold State.answerGrant
  (repeat' split) <;> simp [hw]

@[simp] theorem State.kvDataFrame_kept (s : State) (src tid index column : Nat) (cols : Option (List Line)) (poison : Bool) {r₀ : List Nat} (hw : RetiredKept r₀ s.health.retired) :
    RetiredKept r₀ (s.kvDataFrame src tid index column cols poison).health.retired := by
  unfold State.kvDataFrame
  dsimp only
  (repeat' split) <;> simp [hw]

@[simp] theorem State.kvGrant_kept (s : State) {r₀ : List Nat} (hw : RetiredKept r₀ s.health.retired) :
    RetiredKept r₀ (s.kvGrant).health.retired := by
  unfold State.kvGrant
  split <;> simp [hw]

@[simp] theorem State.kvPump_kept (s : State) {r₀ : List Nat} (hw : RetiredKept r₀ s.health.retired) :
    RetiredKept r₀ (s.kvPump).health.retired := by
  unfold State.kvPump
  exact State.foldl_holds (fun s : State => RetiredKept r₀ s.health.retired) _ (fun s p h => by simp [h]) _ _ hw

@[simp] theorem State.linkBack_kept (s : State) (st : Nat) {r₀ : List Nat} (hw : RetiredKept r₀ s.health.retired) :
    RetiredKept r₀ (s.linkBack st).health.retired := by
  unfold State.linkBack
  dsimp only
  refine State.kvPump_kept _ (State.pumpQuad_kept _ _ ?_)
  rw [State.foldl_retired _ (fun s p => by simp) _ _]
  exact hw

end Sys2Proof.Machine
end

