-- ==== Sys2Proof/Laws/Lesson.lean ====
section
/-! SUPPORT. What the operations of Machine/Lesson.lean leave alone, and what they keep. -/

set_option Elab.async false
set_option linter.unusedSimpArgs false
set_option linter.unusedTactic false
set_option linter.unreachableTactic false
set_option linter.unnecessarySeqFocus false
set_option linter.unnecessarySimpa false

namespace Sys2Proof.Machine

/-! ## The queue of commands is left alone -/

@[simp] theorem State.choosePoint_pending (s : State) (q : Nat) :
    (s.choosePoint q).pending = s.pending := by
  unfold State.choosePoint
  simp [State.ite_pending]

@[simp] theorem State.startChange_pending (s : State) (q : Nat) :
    (s.startChange q).pending = s.pending := by
  unfold State.startChange
  (repeat' split) <;> simp [State.ite_pending] <;> (repeat' split) <;> simp

@[simp] theorem State.loadBounds_pending (s : State) (c q : Nat) :
    (s.loadBounds c q).pending = s.pending := by
  simp [State.loadBounds]

@[simp] theorem State.swapHalves_pending (s : State) (c : Nat) :
    (s.swapHalves c).pending = s.pending := by
  unfold State.swapHalves
  (repeat' split) <;> simp [State.ite_pending] <;> (repeat' split) <;> simp

@[simp] theorem State.bellAt_pending (s : State) (t : Nat) :
    (s.bellAt t).pending = s.pending := by
  simp [State.bellAt]

@[simp] theorem State.applyPeriod_pending (s : State) :
    (s.applyPeriod).pending = s.pending := by
  unfold State.applyPeriod
  split <;> simp

@[simp] theorem State.swapArmed_pending (s : State) :
    (s.swapArmed).pending = s.pending := by
  unfold State.swapArmed
  simp [State.ite_pending]

@[simp] theorem State.moveTime_pending (s : State) (t : Nat) :
    (s.moveTime t).pending = s.pending := by
  unfold State.moveTime
  split <;> simp

@[simp] theorem State.ringDue_pending (s : State) :
    (s.ringDue).pending = s.pending := by
  unfold State.ringDue
  simp [State.ite_pending]

@[simp] theorem State.ringUntil_pending (s : State) (t : Nat) (x0 : Nat) :
    (s.ringUntil t x0).pending = s.pending := by
  induction x0 generalizing s with
  | zero => simp [State.ringUntil]
  | succ n ih => simp [State.ringUntil, ih, State.ite_pending]

@[simp] theorem State.tick_pending (s : State) :
    (s.tick).pending = s.pending := by
  unfold State.tick
  split <;> simp

@[simp] theorem State.closeRows_pending (s : State) (q : Nat) :
    (s.closeRows q).pending = s.pending := by
  simp [State.closeRows]

@[simp] theorem State.settleBlocked_pending (s : State) (q sl : Nat) :
    (s.settleBlocked q sl).pending = s.pending := by
  unfold State.settleBlocked
  simp [State.ite_pending]

@[simp] theorem State.select_pending (s : State) (q sl : Nat) (late : List Nat) :
    (s.select q sl late).pending = s.pending := by
  unfold State.select
  try dsimp only
  (repeat' split) <;> simp [State.ite_pending] <;> (repeat' split) <;> simp [State.ite_pending]

@[simp] theorem State.poisonDesc_pending (s : State) (c h : Nat) :
    (s.poisonDesc c h).pending = s.pending := by
  simp [State.poisonDesc]

@[simp] theorem State.markWritten_pending (s : State) (c q : Nat) :
    (s.markWritten c q).pending = s.pending := by
  simp [State.markWritten]

@[simp] theorem State.releaseEntries_pending (s : State) (c : Nat) (mark : Bool) (q : Nat) :
    (s.releaseEntries c mark q).pending = s.pending := by
  unfold State.releaseEntries
  split <;> simp

@[simp] theorem State.forgetWritten_pending (s : State) (c : Nat) (mark : Bool) (q : Nat) :
    (s.forgetWritten c mark q).pending = s.pending := by
  unfold State.forgetWritten
  split <;> simp

@[simp] theorem State.collectEvents_pending (s : State) (q : Nat) :
    (s.collectEvents q).pending = s.pending := by
  simp [State.collectEvents]

@[simp] theorem State.closeQuad_pending (s : State) (c : Nat) (mark : Bool) (q : Nat) :
    (s.closeQuad c mark q).pending = s.pending := by
  simp [State.closeQuad]

@[simp] theorem State.closeQuads_pending (s : State) (c : Nat) :
    (s.closeQuads c).pending = s.pending := by
  unfold State.closeQuads
  simp [State.ite_pending]

@[simp] theorem State.closeLesson_pending (s : State) (c : Nat) (l : Lesson) :
    (s.closeLesson c l).pending = s.pending := by
  simp [State.closeLesson]

@[simp] theorem State.finishLesson_pending (s : State) (c : Nat) :
    (s.finishLesson c).pending = s.pending := by
  simp [State.finishLesson]

@[simp] theorem State.releaseDead_pending (s : State) (n : Nat) :
    (s.releaseDead n).pending = s.pending := by
  unfold State.releaseDead
  apply State.foldl_pending
  intros
  simp

@[simp] theorem State.freeRolls_pending (s : State) :
    (s.freeRolls).pending = s.pending := by
  unfold State.freeRolls
  simp [State.ite_pending]

@[simp] theorem State.releaseAllAt_pending (s : State) (num : Nat) :
    (s.releaseAllAt num).pending = s.pending := by
  unfold State.releaseAllAt
  dsimp only
  refine (State.foldl_pending _ (fun s m => by simp) _ _).trans ?_
  refine (State.foldl_pending _ (fun s c => by simp) _ _).trans ?_
  exact State.foldl_pending _ (fun s p => by (repeat' split) <;> simp) _ _

@[simp] theorem State.endAtRoll_pending (s : State) (c num : Nat) :
    (s.endAtRoll c num).pending = s.pending := by
  unfold State.endAtRoll
  simp [State.ite_pending]

@[simp] theorem State.endPens_pending (s : State) (c : Nat) :
    (s.endPens c).pending = s.pending := by
  simp [State.endPens]

@[simp] theorem State.cancelShares_pending (s : State) (c : Nat) :
    (s.cancelShares c).pending = s.pending := by
  simp [State.cancelShares]

@[simp] theorem State.stopIssue_pending (s : State) (c : Nat) :
    (s.stopIssue c).pending = s.pending := by
  simp [State.stopIssue]

@[simp] theorem State.voidBinds_pending (s : State) (c : Nat) :
    (s.voidBinds c).pending = s.pending := by
  simp [State.voidBinds]

@[simp] theorem State.beginReset_pending (s : State) (c : Nat) :
    (s.beginReset c).pending = s.pending := by
  induction c generalizing s with
  | zero => simp [State.beginReset]
  | succ n ih =>
    unfold State.beginReset
    (repeat' split) <;> simp [ih, State.ite_pending]

@[simp] theorem State.freeSlot_pending (s : State) (c q : Nat) :
    (s.freeSlot c q).pending = s.pending := by
  simp [State.freeSlot]

@[simp] theorem State.freeAllocation_pending (s : State) (c a : Nat) :
    (s.freeAllocation c a).pending = s.pending := by
  unfold State.freeAllocation
  simp [State.ite_pending]

@[simp] theorem State.endContext_pending (s : State) (c inst : Nat) :
    (s.endContext c inst).pending = s.pending := by
  simp [State.endContext]

/-! ## Memory is left alone -/

@[simp] theorem State.choosePoint_mem (s : State) (q : Nat) :
    (s.choosePoint q).mem = s.mem := by
  unfold State.choosePoint
  simp [State.ite_mem]

@[simp] theorem State.startChange_mem (s : State) (q : Nat) :
    (s.startChange q).mem = s.mem := by
  unfold State.startChange
  (repeat' split) <;> simp [State.ite_mem] <;> (repeat' split) <;> simp

@[simp] theorem State.loadBounds_mem (s : State) (c q : Nat) :
    (s.loadBounds c q).mem = s.mem := by
  simp [State.loadBounds]

@[simp] theorem State.swapHalves_mem (s : State) (c : Nat) :
    (s.swapHalves c).mem = s.mem := by
  unfold State.swapHalves
  (repeat' split) <;> simp [State.ite_mem] <;> (repeat' split) <;> simp

@[simp] theorem State.bellAt_mem (s : State) (t : Nat) :
    (s.bellAt t).mem = s.mem := by
  simp [State.bellAt]

@[simp] theorem State.applyPeriod_mem (s : State) :
    (s.applyPeriod).mem = s.mem := by
  unfold State.applyPeriod
  split <;> simp

@[simp] theorem State.swapArmed_mem (s : State) :
    (s.swapArmed).mem = s.mem := by
  unfold State.swapArmed
  simp [State.ite_mem]

@[simp] theorem State.moveTime_mem (s : State) (t : Nat) :
    (s.moveTime t).mem = s.mem := by
  unfold State.moveTime
  split <;> simp

@[simp] theorem State.ringDue_mem (s : State) :
    (s.ringDue).mem = s.mem := by
  unfold State.ringDue
  simp [State.ite_mem]

@[simp] theorem State.ringUntil_mem (s : State) (t : Nat) (x0 : Nat) :
    (s.ringUntil t x0).mem = s.mem := by
  induction x0 generalizing s with
  | zero => simp [State.ringUntil]
  | succ n ih => simp [State.ringUntil, ih, State.ite_mem]

@[simp] theorem State.tick_mem (s : State) :
    (s.tick).mem = s.mem := by
  unfold State.tick
  split <;> simp

@[simp] theorem State.closeRows_mem (s : State) (q : Nat) :
    (s.closeRows q).mem = s.mem := by
  simp [State.closeRows]

@[simp] theorem State.settleBlocked_mem (s : State) (q sl : Nat) :
    (s.settleBlocked q sl).mem = s.mem := by
  unfold State.settleBlocked
  simp [State.ite_mem]

@[simp] theorem State.poisonDesc_mem (s : State) (c h : Nat) :
    (s.poisonDesc c h).mem = s.mem := by
  simp [State.poisonDesc]

@[simp] theorem State.markWritten_mem (s : State) (c q : Nat) :
    (s.markWritten c q).mem = s.mem := by
  simp [State.markWritten]

@[simp] theorem State.releaseEntries_mem (s : State) (c : Nat) (mark : Bool) (q : Nat) :
    (s.releaseEntries c mark q).mem = s.mem := by
  unfold State.releaseEntries
  split <;> simp

@[simp] theorem State.forgetWritten_mem (s : State) (c : Nat) (mark : Bool) (q : Nat) :
    (s.forgetWritten c mark q).mem = s.mem := by
  unfold State.forgetWritten
  split <;> simp

@[simp] theorem State.collectEvents_mem (s : State) (q : Nat) :
    (s.collectEvents q).mem = s.mem := by
  simp [State.collectEvents]

@[simp] theorem State.closeLesson_mem (s : State) (c : Nat) (l : Lesson) :
    (s.closeLesson c l).mem = s.mem := by
  simp [State.closeLesson]

@[simp] theorem State.finishLesson_mem (s : State) (c : Nat) :
    (s.finishLesson c).mem = s.mem := by
  simp [State.finishLesson]

@[simp] theorem State.releaseDead_mem (s : State) (n : Nat) :
    (s.releaseDead n).mem = s.mem := by
  unfold State.releaseDead
  apply State.foldl_mem
  intros
  simp

@[simp] theorem State.freeRolls_mem (s : State) :
    (s.freeRolls).mem = s.mem := by
  unfold State.freeRolls
  simp [State.ite_mem]

@[simp] theorem State.releaseAllAt_mem (s : State) (num : Nat) :
    (s.releaseAllAt num).mem = s.mem := by
  unfold State.releaseAllAt
  dsimp only
  refine (State.foldl_mem _ (fun s m => by simp) _ _).trans ?_
  refine (State.foldl_mem _ (fun s c => by simp) _ _).trans ?_
  exact State.foldl_mem _ (fun s p => by (repeat' split) <;> simp) _ _

@[simp] theorem State.endAtRoll_mem (s : State) (c num : Nat) :
    (s.endAtRoll c num).mem = s.mem := by
  unfold State.endAtRoll
  simp [State.ite_mem]

@[simp] theorem State.endPens_mem (s : State) (c : Nat) :
    (s.endPens c).mem = s.mem := by
  simp [State.endPens]

@[simp] theorem State.cancelShares_mem (s : State) (c : Nat) :
    (s.cancelShares c).mem = s.mem := by
  simp [State.cancelShares]

@[simp] theorem State.stopIssue_mem (s : State) (c : Nat) :
    (s.stopIssue c).mem = s.mem := by
  simp [State.stopIssue]

@[simp] theorem State.voidBinds_mem (s : State) (c : Nat) :
    (s.voidBinds c).mem = s.mem := by
  simp [State.voidBinds]

@[simp] theorem State.beginReset_mem (s : State) (c : Nat) :
    (s.beginReset c).mem = s.mem := by
  induction c generalizing s with
  | zero => simp [State.beginReset]
  | succ n ih =>
    unfold State.beginReset
    (repeat' split) <;> simp [ih, State.ite_mem]

@[simp] theorem State.freeAllocation_mem (s : State) (c a : Nat) :
    (s.freeAllocation c a).mem = s.mem := by
  unfold State.freeAllocation
  simp [State.ite_mem]

/-! ## Memory keeps its canonical form -/

@[simp] theorem State.select_wf (s : State) (q sl : Nat) (late : List Nat) (hw : s.mem.wf = true) :
    (s.select q sl late).mem.wf = true := by
  unfold State.select
  try dsimp only
  (repeat' split) <;> simp [*] <;> (repeat' split) <;> simp [*]

@[simp] theorem State.closeQuad_wf (s : State) (c : Nat) (mark : Bool) (q : Nat) (hw : s.mem.wf = true) :
    (s.closeQuad c mark q).mem.wf = true := by
  simp [State.closeQuad, hw]

@[simp] theorem State.closeQuads_wf (s : State) (c : Nat) (hw : s.mem.wf = true) :
    (s.closeQuads c).mem.wf = true := by
  unfold State.closeQuads
  try dsimp only
  (repeat' split) <;> first
    | (simp [*]; done)
    | (refine State.foldl_holds (fun s : State => s.mem.wf = true) _ (fun s a h => ?_) _ _ ?_ <;> (repeat' split) <;> simp [*])

@[simp] theorem State.freeSlot_wf (s : State) (c q : Nat) (hw : s.mem.wf = true) :
    (s.freeSlot c q).mem.wf = true := by
  unfold State.freeSlot
  try dsimp only
  (repeat' split) <;> first
    | (simp [*]; done)
    | (refine State.foldl_holds (fun s : State => s.mem.wf = true) _ (fun s a h => ?_) _ _ ?_ <;> (repeat' split) <;> simp [*])

@[simp] theorem State.endContext_wf (s : State) (c inst : Nat) (hw : s.mem.wf = true) :
    (s.endContext c inst).mem.wf = true := by
  unfold State.endContext
  simp
  refine State.serveDeferred_wf _ ?_
  simp
  exact State.foldl_holds (fun s : State => s.mem.wf = true) _ (fun s a h => by simp [h]) _ _ (by simp [hw])

/-! ## The retirement list is left alone (R362) -/

@[simp] theorem State.choosePoint_retired (s : State) (q : Nat) :
    (s.choosePoint q).health.retired = s.health.retired := by
  unfold State.choosePoint
  simp [State.ite_retired]

@[simp] theorem State.startChange_retired (s : State) (q : Nat) :
    (s.startChange q).health.retired = s.health.retired := by
  unfold State.startChange
  (repeat' split) <;> simp [State.ite_retired] <;> (repeat' split) <;> simp

@[simp] theorem State.loadBounds_retired (s : State) (c q : Nat) :
    (s.loadBounds c q).health.retired = s.health.retired := by
  simp [State.loadBounds]

@[simp] theorem State.swapHalves_retired (s : State) (c : Nat) :
    (s.swapHalves c).health.retired = s.health.retired := by
  unfold State.swapHalves
  (repeat' split) <;> simp [State.ite_retired] <;> (repeat' split) <;> simp

@[simp] theorem State.bellAt_retired (s : State) (t : Nat) :
    (s.bellAt t).health.retired = s.health.retired := by
  simp [State.bellAt]

@[simp] theorem State.applyPeriod_retired (s : State) :
    (s.applyPeriod).health.retired = s.health.retired := by
  unfold State.applyPeriod
  split <;> simp

@[simp] theorem State.swapArmed_retired (s : State) :
    (s.swapArmed).health.retired = s.health.retired := by
  unfold State.swapArmed
  simp [State.ite_retired]

@[simp] theorem State.moveTime_retired (s : State) (t : Nat) :
    (s.moveTime t).health.retired = s.health.retired := by
  unfold State.moveTime
  split <;> simp

@[simp] theorem State.ringDue_retired (s : State) :
    (s.ringDue).health.retired = s.health.retired := by
  unfold State.ringDue
  simp [State.ite_retired]

@[simp] theorem State.ringUntil_retired (s : State) (t : Nat) (x0 : Nat) :
    (s.ringUntil t x0).health.retired = s.health.retired := by
  induction x0 generalizing s with
  | zero => simp [State.ringUntil]
  | succ n ih => simp [State.ringUntil, ih, State.ite_retired]

@[simp] theorem State.tick_retired (s : State) :
    (s.tick).health.retired = s.health.retired := by
  unfold State.tick
  split <;> simp

@[simp] theorem State.closeRows_retired (s : State) (q : Nat) :
    (s.closeRows q).health.retired = s.health.retired := by
  simp [State.closeRows]

@[simp] theorem State.settleBlocked_retired (s : State) (q sl : Nat) :
    (s.settleBlocked q sl).health.retired = s.health.retired := by
  unfold State.settleBlocked
  simp [State.ite_retired]

@[simp] theorem State.poisonDesc_retired (s : State) (c h : Nat) :
    (s.poisonDesc c h).health.retired = s.health.retired := by
  simp [State.poisonDesc]

@[simp] theorem State.markWritten_retired (s : State) (c q : Nat) :
    (s.markWritten c q).health.retired = s.health.retired := by
  simp [State.markWritten]

@[simp] theorem State.releaseEntries_retired (s : State) (c : Nat) (mark : Bool) (q : Nat) :
    (s.releaseEntries c mark q).health.retired = s.health.retired := by
  unfold State.releaseEntries
  split <;> simp

@[simp] theorem State.forgetWritten_retired (s : State) (c : Nat) (mark : Bool) (q : Nat) :
    (s.forgetWritten c mark q).health.retired = s.health.retired := by
  unfold State.forgetWritten
  split <;> simp

@[simp] theorem State.collectEvents_retired (s : State) (q : Nat) :
    (s.collectEvents q).health.retired = s.health.retired := by
  simp [State.collectEvents]

@[simp] theorem State.closeLesson_retired (s : State) (c : Nat) (l : Lesson) :
    (s.closeLesson c l).health.retired = s.health.retired := by
  simp [State.closeLesson]

@[simp] theorem State.finishLesson_retired (s : State) (c : Nat) :
    (s.finishLesson c).health.retired = s.health.retired := by
  simp [State.finishLesson]

@[simp] theorem State.releaseDead_retired (s : State) (n : Nat) :
    (s.releaseDead n).health.retired = s.health.retired := by
  unfold State.releaseDead
  apply State.foldl_retired
  intros
  simp

@[simp] theorem State.freeRolls_retired (s : State) :
    (s.freeRolls).health.retired = s.health.retired := by
  unfold State.freeRolls
  simp [State.ite_retired]

@[simp] theorem State.releaseAllAt_retired (s : State) (num : Nat) :
    (s.releaseAllAt num).health.retired = s.health.retired := by
  unfold State.releaseAllAt
  dsimp only
  refine (State.foldl_retired _ (fun s m => by simp) _ _).trans ?_
  refine (State.foldl_retired _ (fun s c => by simp) _ _).trans ?_
  exact State.foldl_retired _ (fun s p => by (repeat' split) <;> simp) _ _

@[simp] theorem State.endAtRoll_retired (s : State) (c num : Nat) :
    (s.endAtRoll c num).health.retired = s.health.retired := by
  unfold State.endAtRoll
  simp [State.ite_retired]

@[simp] theorem State.endPens_retired (s : State) (c : Nat) :
    (s.endPens c).health.retired = s.health.retired := by
  simp [State.endPens]

@[simp] theorem State.cancelShares_retired (s : State) (c : Nat) :
    (s.cancelShares c).health.retired = s.health.retired := by
  simp [State.cancelShares]

@[simp] theorem State.stopIssue_retired (s : State) (c : Nat) :
    (s.stopIssue c).health.retired = s.health.retired := by
  simp [State.stopIssue]

@[simp] theorem State.voidBinds_retired (s : State) (c : Nat) :
    (s.voidBinds c).health.retired = s.health.retired := by
  simp [State.voidBinds]

@[simp] theorem State.beginReset_retired (s : State) (c : Nat) :
    (s.beginReset c).health.retired = s.health.retired := by
  induction c generalizing s with
  | zero => simp [State.beginReset]
  | succ n ih =>
    unfold State.beginReset
    (repeat' split) <;> simp [ih, State.ite_retired]

/-! ## The retirement list keeps its entries (R362) -/

@[simp] theorem State.select_kept (s : State) (q sl : Nat) (late : List Nat) {r₀ : List Nat} (hw : RetiredKept r₀ s.health.retired) :
    RetiredKept r₀ (s.select q sl late).health.retired := by
  unfold State.select
  try dsimp only
  (repeat' split) <;> simp [*] <;> (repeat' split) <;> simp [*]

@[simp] theorem State.closeQuad_kept (s : State) (c : Nat) (mark : Bool) (q : Nat) {r₀ : List Nat} (hw : RetiredKept r₀ s.health.retired) :
    RetiredKept r₀ (s.closeQuad c mark q).health.retired := by
  simp [State.closeQuad, hw]

@[simp] theorem State.closeQuads_kept (s : State) (c : Nat) {r₀ : List Nat} (hw : RetiredKept r₀ s.health.retired) :
    RetiredKept r₀ (s.closeQuads c).health.retired := by
  unfold State.closeQuads
  try dsimp only
  (repeat' split) <;> first
    | (simp [*]; done)
    | (refine State.foldl_holds (fun s : State => RetiredKept r₀ s.health.retired) _ (fun s a h => ?_) _ _ ?_ <;> (repeat' split) <;> simp [*])

@[simp] theorem State.freeSlot_kept (s : State) (c q : Nat) {r₀ : List Nat} (hw : RetiredKept r₀ s.health.retired) :
    RetiredKept r₀ (s.freeSlot c q).health.retired := by
  unfold State.freeSlot
  try dsimp only
  (repeat' split) <;> first
    | (simp [*]; done)
    | (refine State.foldl_holds (fun s : State => RetiredKept r₀ s.health.retired) _ (fun s a h => ?_) _ _ ?_ <;> (repeat' split) <;> simp [*])

@[simp] theorem State.freeAllocation_kept (s : State) (c a : Nat) {r₀ : List Nat} (hw : RetiredKept r₀ s.health.retired) :
    RetiredKept r₀ (s.freeAllocation c a).health.retired := by
  unfold State.freeAllocation
  try dsimp only
  (repeat' split) <;> first
    | (simp [*]; done)
    | (refine State.foldl_holds (fun s : State => RetiredKept r₀ s.health.retired) _ (fun s a h => ?_) _ _ ?_ <;> (repeat' split) <;> simp [*])

@[simp] theorem State.endContext_kept (s : State) (c inst : Nat) {r₀ : List Nat} (hw : RetiredKept r₀ s.health.retired) :
    RetiredKept r₀ (s.endContext c inst).health.retired := by
  unfold State.endContext
  simp only [State.foldl_retired, State.startChange_retired, State.fillBuffer_retired, State.freeRolls_retired,
    State.setCtx_health, implies_true]
  refine State.foldl_holds (fun s : State => RetiredKept r₀ s.health.retired) _ (fun s a h => by simp [h]) _ _ ?_
  refine State.serveDeferred_kept _ ?_
  simp
  refine State.foldl_holds (fun s : State => RetiredKept r₀ s.health.retired) _ (fun s a h => by simp [h]) _ _ ?_
  simp [hw]

end Sys2Proof.Machine
end

