-- ==== Sys2Proof/Laws/Ring.lean ====
section
/-! SUPPORT. What the operations of Machine/Ring.lean leave alone, and what they keep. -/

set_option Elab.async false
set_option linter.unusedSimpArgs false
set_option linter.unusedTactic false
set_option linter.unreachableTactic false
set_option linter.unnecessarySeqFocus false
set_option linter.unnecessarySimpa false

namespace Sys2Proof.Machine

/-! ## The queue of commands is left alone -/

@[simp] theorem State.closeSwitches_pending (s : State) :
    (s.closeSwitches).pending = s.pending := by
  simp [State.closeSwitches]

@[simp] theorem State.aloneActs_pending (s : State) :
    (s.aloneActs).pending = s.pending := by
  unfold State.aloneActs
  simp [State.ite_pending]

@[simp] theorem State.deadBindings_pending (s : State) (p : PenBinding → Bool) :
    (s.deadBindings p).pending = s.pending := by
  simp [State.deadBindings]

@[simp] theorem State.refuseBinds_pending (s : State) (p : BitVec 14 → Bool) :
    (s.refuseBinds p).pending = s.pending := by
  simp [State.refuseBinds]

@[simp] theorem State.ownPeriod_pending (s : State) :
    (s.ownPeriod).pending = s.pending := by
  simp [State.ownPeriod]

@[simp] theorem State.leaveFor_pending (s : State) (st : BitVec 8) :
    (s.leaveFor st).pending = s.pending := by
  simp [State.leaveFor]

@[simp] theorem State.fencedEvent_pending (s : State) (st version : Nat) :
    (s.fencedEvent st version).pending = s.pending := by
  simp [State.fencedEvent]

@[simp] theorem State.finishLeave_pending (s : State) :
    (s.finishLeave).pending = s.pending := by
  simp [State.finishLeave]

@[simp] theorem State.checkLeave_pending (s : State) :
    (s.checkLeave).pending = s.pending := by
  unfold State.checkLeave
  split <;> simp

@[simp] theorem State.leaveRing_pending (s : State) :
    (s.leaveRing).pending = s.pending := by
  unfold State.leaveRing
  split
  · rfl
  · exact (State.checkLeave_pending _).trans (by simp)

@[simp] theorem State.startElection_pending (s : State) :
    (s.startElection).pending = s.pending := by
  unfold State.startElection
  split <;> simp

@[simp] theorem State.schedulePeriod_pending (s : State) (p : Nat) :
    (s.schedulePeriod p).pending = s.pending := by
  unfold State.schedulePeriod
  split <;> simp

@[simp] theorem State.becomeMaster_pending (s : State) :
    (s.becomeMaster).pending = s.pending := by
  simp [State.becomeMaster]

@[simp] theorem State.beginJoin_pending (s : State) :
    (s.beginJoin).pending = s.pending := by
  unfold State.beginJoin
  simp [State.ite_pending]

@[simp] theorem State.stepForward_pending (s : State) (t : Nat) :
    (s.stepForward t).pending = s.pending := by
  simp [State.stepForward]

@[simp] theorem State.stepBack_pending (s : State) (t : Nat) :
    (s.stepBack t).pending = s.pending := by
  simp [State.stepBack]

@[simp] theorem State.slew_pending (s : State) (d : Nat) :
    (s.slew d).pending = s.pending := by
  unfold State.slew
  split <;> simp

theorem State.align_pending {s u : State} {t : Nat} (h : s.align t = some u) : u.pending = s.pending := by
  unfold State.align at h
  dsimp only at h
  (repeat' split at h) <;> cases h <;> simp

@[simp] theorem State.failJoin_pending (s : State) (code : BitVec 8) :
    (s.failJoin code).pending = s.pending := by
  simp [State.failJoin]

@[simp] theorem State.subscribeAll_pending (s : State) :
    (s.subscribeAll).pending = s.pending := by
  unfold State.subscribeAll
  dsimp only
  refine (State.foldl_pending _ (fun s p => by simp) _ _).trans ?_
  exact State.foldl_pending _ (fun s p => by (repeat' split) <;> simp) _ _

@[simp] theorem State.ringRollsJoined_pending (s : State) :
    (s.ringRollsJoined).pending = s.pending := by
  unfold State.ringRollsJoined
  simp [State.ite_pending]

@[simp] theorem State.hearPort_pending (s : State) (p : Nat) :
    (s.hearPort p).pending = s.pending := by
  rfl

@[simp] theorem State.trainPort_pending (s : State) (p : Nat) (partner : Option (Fin 4)) :
    (s.trainPort p partner).pending = s.pending := by
  exact (State.hearPort_pending _ _).trans (by simp)

@[simp] theorem State.trainPlane_pending (s : State) (plane : Nat) (partners : List (Option (Fin 4))) :
    (s.trainPlane plane partners).pending = s.pending := by
  simp [State.trainPlane]

@[simp] theorem State.adopt_pending (s : State) (t : TimeWord) :
    (s.adopt t).pending = s.pending := by
  unfold State.adopt
  split <;> simp

@[simp] theorem State.completeJoin_pending (s : State) (elected : Bool) :
    (s.completeJoin elected).pending = s.pending := by
  unfold State.completeJoin
  dsimp only
  simp [State.ite_pending]

@[simp] theorem State.finishJoin_pending (s : State) (elected : Bool) (partners : List (Option (Fin 4))) :
    (s.finishJoin elected partners).pending = s.pending := by
  unfold State.finishJoin
  simp [State.ite_pending]

@[simp] theorem State.joinStep_pending (s : State) (met : JoinMet) :
    (s.joinStep met).pending = s.pending := by
  unfold State.joinStep
  (repeat' split) <;> first | (simp; done) | simp [State.align_pending ‹_›]

@[simp] theorem State.joinFrame_pending (s : State) (src : BitVec 14) (name : Word32) (prio : BitVec 8) (candidate : Bool) (port hops : Nat) :
    (s.joinFrame src name prio candidate port hops).pending = s.pending := by
  unfold State.joinFrame
  dsimp only
  (repeat' split) <;> simp [State.ite_pending] <;> (repeat' split) <;> simp [State.ite_pending]

@[simp] theorem State.rosterFrame_pending (s : State) (version : Nat) (entries : List RosterEntry) :
    (s.rosterFrame version entries).pending = s.pending := by
  unfold State.rosterFrame
  split <;> simp

@[simp] theorem State.fenceRoll_pending (s : State) (num pos : Nat) (home : Option Nat) :
    (s.fenceRoll num pos home).pending = s.pending := by
  unfold State.fenceRoll
  dsimp only
  (repeat' split) <;> simp

@[simp] theorem State.loseOwned_pending (s : State) (q : Nat) (t : Desc) (ident : Nat) :
    (s.loseOwned q t ident).pending = s.pending := by
  unfold State.loseOwned
  simp [State.ite_pending]

@[simp] theorem State.fenceMember_pending (s : State) (ident : BitVec 14) (version : Nat) :
    (s.fenceMember ident version).pending = s.pending := by
  unfold State.fenceMember
  (repeat' split) <;> simp [State.ite_pending] <;> (repeat' split) <;> simp

@[simp] theorem State.fenceFrame_pending (s : State) (ident : BitVec 14) (version : Nat) :
    (s.fenceFrame ident version).pending = s.pending := by
  unfold State.fenceFrame
  (repeat' split) <;> simp

@[simp] theorem State.fenceOut_pending (s : State) (ident : BitVec 14) :
    (s.fenceOut ident).pending = s.pending := by
  simp [State.fenceOut]

@[simp] theorem State.farDown_pending (s : State) :
    (s.farDown).2.pending = s.pending := by
  unfold State.farDown
  split <;> simp

@[simp] theorem State.fenceNeighbour_pending (s : State) (p : Nat) (m : BitVec 14) :
    (s.fenceNeighbour p m).pending = s.pending := by
  unfold State.fenceNeighbour
  dsimp only
  (repeat' split) <;> simp

@[simp] theorem State.chooseDepth_pending (s : State) :
    (s.chooseDepth).pending = s.pending := by
  unfold State.chooseDepth
  (repeat' split) <;> rfl

@[simp] theorem State.follow_pending (s : State) (t : TimeWord) (arrival p : Nat) :
    (s.follow t arrival p).pending = s.pending := by
  unfold State.follow
  dsimp only
  (repeat' split) <;> simp

@[simp] theorem State.idleFrame_pending (s : State) (p : Nat) (src : BitVec 14) (t : TimeWord) (arrival : Nat) :
    (s.idleFrame p src t arrival).pending = s.pending := by
  unfold State.idleFrame
  dsimp only
  (repeat' split) <;> simp

@[simp] theorem State.turnCast_pending (s : State) (dir plane : Nat) (f : PeerFrame) :
    (s.turnCast dir plane f).pending = s.pending := by
  unfold State.turnCast
  (repeat' split) <;> simp

@[simp] theorem State.wayFrom_pending (s : State) (p : Nat) (f : PeerFrame) :
    (s.wayFrom p f).pending = s.pending := by
  unfold State.wayFrom
  (repeat' split) <;> simp

@[simp] theorem State.reroute_pending (s : State) :
    (s.reroute).pending = s.pending := by
  simp [State.reroute]

@[simp] theorem State.forgetVia_pending (s : State) (p : Nat) :
    (s.forgetVia p).pending = s.pending := by
  simp [State.forgetVia]

@[simp] theorem State.linkLost_pending (s : State) (p : Nat) (st : BitVec 8) :
    (s.linkLost p st).pending = s.pending := by
  unfold State.linkLost
  dsimp only
  rw [State.checkLeave_pending]
  split <;> simp

@[simp] theorem State.hoistFrame_pending (s : State) (phys : BitVec 14) (amt : BitVec 16) :
    (s.hoistFrame phys amt).pending = s.pending := by
  unfold State.hoistFrame
  split <;> simp

@[simp] theorem State.penSubFrame_pending (s : State) (src phys : BitVec 14) (subscribe : Bool) :
    (s.penSubFrame src phys subscribe).pending = s.pending := by
  unfold State.penSubFrame
  (repeat' split) <;> simp

@[simp] theorem State.penUpdateFrame_pending (s : State) (src phys : BitVec 14) (value : Word64) (st : BitVec 2) :
    (s.penUpdateFrame src phys value st).pending = s.pending := by
  unfold State.penUpdateFrame
  split <;> simp

@[simp] theorem State.penBindAnswer_pending (s : State) (src phys : BitVec 14) (ok : Bool) :
    (s.penBindAnswer src phys ok).pending = s.pending := by
  unfold State.penBindAnswer
  dsimp only
  (repeat' split) <;> simp

@[simp] theorem State.penBindFrame_pending (s : State) (src phys : BitVec 14) (tag : Word32) (word : BindWord) :
    (s.penBindFrame src phys tag word).pending = s.pending := by
  unfold State.penBindFrame
  dsimp only
  (repeat' split) <;> simp

@[simp] theorem State.rollArriveFrame_pending (s : State) (src : BitVec 14) (rid : BitVec 16) (round : Word32) :
    (s.rollArriveFrame src rid round).pending = s.pending := by
  unfold State.rollArriveFrame
  dsimp only
  (repeat' split) <;> simp [State.ite_pending] <;> (repeat' split) <;> simp [State.ite_pending]

@[simp] theorem State.rollReleaseFrame_pending (s : State) (rid : BitVec 16) (round : Word32) (bell : Nat) :
    (s.rollReleaseFrame rid round bell).pending = s.pending := by
  unfold State.rollReleaseFrame
  (repeat' split) <;> simp [State.ite_pending] <;> (repeat' split) <;> simp

@[simp] theorem State.noteMerge_pending (s : State) (m : RingMerge) :
    (s.noteMerge m).pending = s.pending := by
  unfold State.noteMerge
  split <;> simp

@[simp] theorem State.mergePartFrame_pending (s : State) (rid : BitVec 16) (round : Word32) (off : Nat) (words : List Word32) (last poison : Bool) :
    (s.mergePartFrame rid round off words last poison).pending = s.pending := by
  unfold State.mergePartFrame
  dsimp only
  (repeat' split) <;> simp

@[simp] theorem State.mergeResultFrame_pending (s : State) (rid : BitVec 16) (round : Word32) (off : Nat) (words : List Word32) (last poison : Bool) :
    (s.mergeResultFrame rid round off words last poison).pending = s.pending := by
  unfold State.mergeResultFrame
  dsimp only
  (repeat' split) <;> simp

/-! ## Memory is left alone -/

@[simp] theorem State.closeSwitches_mem (s : State) :
    (s.closeSwitches).mem = s.mem := by
  simp [State.closeSwitches]

@[simp] theorem State.aloneActs_mem (s : State) :
    (s.aloneActs).mem = s.mem := by
  unfold State.aloneActs
  simp [State.ite_mem]

@[simp] theorem State.deadBindings_mem (s : State) (p : PenBinding → Bool) :
    (s.deadBindings p).mem = s.mem := by
  simp [State.deadBindings]

@[simp] theorem State.refuseBinds_mem (s : State) (p : BitVec 14 → Bool) :
    (s.refuseBinds p).mem = s.mem := by
  simp [State.refuseBinds]

@[simp] theorem State.ownPeriod_mem (s : State) :
    (s.ownPeriod).mem = s.mem := by
  simp [State.ownPeriod]

@[simp] theorem State.leaveFor_mem (s : State) (st : BitVec 8) :
    (s.leaveFor st).mem = s.mem := by
  simp [State.leaveFor]

@[simp] theorem State.fencedEvent_mem (s : State) (st version : Nat) :
    (s.fencedEvent st version).mem = s.mem := by
  simp [State.fencedEvent]

@[simp] theorem State.finishLeave_mem (s : State) :
    (s.finishLeave).mem = s.mem := by
  simp [State.finishLeave]

@[simp] theorem State.checkLeave_mem (s : State) :
    (s.checkLeave).mem = s.mem := by
  unfold State.checkLeave
  split <;> simp

@[simp] theorem State.leaveRing_mem (s : State) :
    (s.leaveRing).mem = s.mem := by
  unfold State.leaveRing
  split
  · rfl
  · exact (State.checkLeave_mem _).trans (by simp)

@[simp] theorem State.startElection_mem (s : State) :
    (s.startElection).mem = s.mem := by
  unfold State.startElection
  split <;> simp

@[simp] theorem State.schedulePeriod_mem (s : State) (p : Nat) :
    (s.schedulePeriod p).mem = s.mem := by
  unfold State.schedulePeriod
  split <;> simp

@[simp] theorem State.becomeMaster_mem (s : State) :
    (s.becomeMaster).mem = s.mem := by
  simp [State.becomeMaster]

@[simp] theorem State.beginJoin_mem (s : State) :
    (s.beginJoin).mem = s.mem := by
  unfold State.beginJoin
  simp [State.ite_mem]

@[simp] theorem State.stepForward_mem (s : State) (t : Nat) :
    (s.stepForward t).mem = s.mem := by
  simp [State.stepForward]

@[simp] theorem State.stepBack_mem (s : State) (t : Nat) :
    (s.stepBack t).mem = s.mem := by
  simp [State.stepBack]

@[simp] theorem State.slew_mem (s : State) (d : Nat) :
    (s.slew d).mem = s.mem := by
  unfold State.slew
  split <;> simp

theorem State.align_mem {s u : State} {t : Nat} (h : s.align t = some u) : u.mem = s.mem := by
  unfold State.align at h
  dsimp only at h
  (repeat' split at h) <;> cases h <;> simp

@[simp] theorem State.failJoin_mem (s : State) (code : BitVec 8) :
    (s.failJoin code).mem = s.mem := by
  simp [State.failJoin]

@[simp] theorem State.subscribeAll_mem (s : State) :
    (s.subscribeAll).mem = s.mem := by
  unfold State.subscribeAll
  dsimp only
  refine (State.foldl_mem _ (fun s p => by simp) _ _).trans ?_
  exact State.foldl_mem _ (fun s p => by (repeat' split) <;> simp) _ _

@[simp] theorem State.ringRollsJoined_mem (s : State) :
    (s.ringRollsJoined).mem = s.mem := by
  unfold State.ringRollsJoined
  simp [State.ite_mem]

@[simp] theorem State.hearPort_mem (s : State) (p : Nat) :
    (s.hearPort p).mem = s.mem := by
  rfl

@[simp] theorem State.trainPort_mem (s : State) (p : Nat) (partner : Option (Fin 4)) :
    (s.trainPort p partner).mem = s.mem := by
  exact (State.hearPort_mem _ _).trans (by simp)

@[simp] theorem State.trainPlane_mem (s : State) (plane : Nat) (partners : List (Option (Fin 4))) :
    (s.trainPlane plane partners).mem = s.mem := by
  simp [State.trainPlane]

@[simp] theorem State.adopt_mem (s : State) (t : TimeWord) :
    (s.adopt t).mem = s.mem := by
  unfold State.adopt
  split <;> simp

@[simp] theorem State.completeJoin_mem (s : State) (elected : Bool) :
    (s.completeJoin elected).mem = s.mem := by
  unfold State.completeJoin
  dsimp only
  simp [State.ite_mem]

@[simp] theorem State.finishJoin_mem (s : State) (elected : Bool) (partners : List (Option (Fin 4))) :
    (s.finishJoin elected partners).mem = s.mem := by
  unfold State.finishJoin
  simp [State.ite_mem]

@[simp] theorem State.joinStep_mem (s : State) (met : JoinMet) :
    (s.joinStep met).mem = s.mem := by
  unfold State.joinStep
  (repeat' split) <;> first | (simp; done) | simp [State.align_mem ‹_›]

@[simp] theorem State.joinFrame_mem (s : State) (src : BitVec 14) (name : Word32) (prio : BitVec 8) (candidate : Bool) (port hops : Nat) :
    (s.joinFrame src name prio candidate port hops).mem = s.mem := by
  unfold State.joinFrame
  dsimp only
  (repeat' split) <;> simp [State.ite_mem] <;> (repeat' split) <;> simp [State.ite_mem]

@[simp] theorem State.rosterFrame_mem (s : State) (version : Nat) (entries : List RosterEntry) :
    (s.rosterFrame version entries).mem = s.mem := by
  unfold State.rosterFrame
  split <;> simp

@[simp] theorem State.fenceRoll_mem (s : State) (num pos : Nat) (home : Option Nat) :
    (s.fenceRoll num pos home).mem = s.mem := by
  unfold State.fenceRoll
  dsimp only
  (repeat' split) <;> simp

@[simp] theorem State.loseOwned_mem (s : State) (q : Nat) (t : Desc) (ident : Nat) :
    (s.loseOwned q t ident).mem = s.mem := by
  unfold State.loseOwned
  simp [State.ite_mem]

@[simp] theorem State.fenceMember_mem (s : State) (ident : BitVec 14) (version : Nat) :
    (s.fenceMember ident version).mem = s.mem := by
  unfold State.fenceMember
  (repeat' split) <;> simp [State.ite_mem] <;> (repeat' split) <;> simp

@[simp] theorem State.fenceFrame_mem (s : State) (ident : BitVec 14) (version : Nat) :
    (s.fenceFrame ident version).mem = s.mem := by
  unfold State.fenceFrame
  (repeat' split) <;> simp

@[simp] theorem State.fenceOut_mem (s : State) (ident : BitVec 14) :
    (s.fenceOut ident).mem = s.mem := by
  simp [State.fenceOut]

@[simp] theorem State.farDown_mem (s : State) :
    (s.farDown).2.mem = s.mem := by
  unfold State.farDown
  split <;> simp

@[simp] theorem State.fenceNeighbour_mem (s : State) (p : Nat) (m : BitVec 14) :
    (s.fenceNeighbour p m).mem = s.mem := by
  unfold State.fenceNeighbour
  dsimp only
  (repeat' split) <;> simp

@[simp] theorem State.chooseDepth_mem (s : State) :
    (s.chooseDepth).mem = s.mem := by
  unfold State.chooseDepth
  (repeat' split) <;> rfl

@[simp] theorem State.follow_mem (s : State) (t : TimeWord) (arrival p : Nat) :
    (s.follow t arrival p).mem = s.mem := by
  unfold State.follow
  dsimp only
  (repeat' split) <;> simp

@[simp] theorem State.idleFrame_mem (s : State) (p : Nat) (src : BitVec 14) (t : TimeWord) (arrival : Nat) :
    (s.idleFrame p src t arrival).mem = s.mem := by
  unfold State.idleFrame
  dsimp only
  (repeat' split) <;> simp

@[simp] theorem State.turnCast_mem (s : State) (dir plane : Nat) (f : PeerFrame) :
    (s.turnCast dir plane f).mem = s.mem := by
  unfold State.turnCast
  (repeat' split) <;> simp

@[simp] theorem State.wayFrom_mem (s : State) (p : Nat) (f : PeerFrame) :
    (s.wayFrom p f).mem = s.mem := by
  unfold State.wayFrom
  (repeat' split) <;> simp

@[simp] theorem State.reroute_mem (s : State) :
    (s.reroute).mem = s.mem := by
  simp [State.reroute]

@[simp] theorem State.forgetVia_mem (s : State) (p : Nat) :
    (s.forgetVia p).mem = s.mem := by
  simp [State.forgetVia]

@[simp] theorem State.linkLost_mem (s : State) (p : Nat) (st : BitVec 8) :
    (s.linkLost p st).mem = s.mem := by
  unfold State.linkLost
  dsimp only
  rw [State.checkLeave_mem]
  split <;> simp

@[simp] theorem State.hoistFrame_mem (s : State) (phys : BitVec 14) (amt : BitVec 16) :
    (s.hoistFrame phys amt).mem = s.mem := by
  unfold State.hoistFrame
  split <;> simp

@[simp] theorem State.penSubFrame_mem (s : State) (src phys : BitVec 14) (subscribe : Bool) :
    (s.penSubFrame src phys subscribe).mem = s.mem := by
  unfold State.penSubFrame
  (repeat' split) <;> simp

@[simp] theorem State.penUpdateFrame_mem (s : State) (src phys : BitVec 14) (value : Word64) (st : BitVec 2) :
    (s.penUpdateFrame src phys value st).mem = s.mem := by
  unfold State.penUpdateFrame
  split <;> simp

@[simp] theorem State.penBindAnswer_mem (s : State) (src phys : BitVec 14) (ok : Bool) :
    (s.penBindAnswer src phys ok).mem = s.mem := by
  unfold State.penBindAnswer
  dsimp only
  (repeat' split) <;> simp

@[simp] theorem State.penBindFrame_mem (s : State) (src phys : BitVec 14) (tag : Word32) (word : BindWord) :
    (s.penBindFrame src phys tag word).mem = s.mem := by
  unfold State.penBindFrame
  dsimp only
  (repeat' split) <;> simp

@[simp] theorem State.rollArriveFrame_mem (s : State) (src : BitVec 14) (rid : BitVec 16) (round : Word32) :
    (s.rollArriveFrame src rid round).mem = s.mem := by
  unfold State.rollArriveFrame
  dsimp only
  (repeat' split) <;> simp [State.ite_mem] <;> (repeat' split) <;> simp [State.ite_mem]

@[simp] theorem State.rollReleaseFrame_mem (s : State) (rid : BitVec 16) (round : Word32) (bell : Nat) :
    (s.rollReleaseFrame rid round bell).mem = s.mem := by
  unfold State.rollReleaseFrame
  (repeat' split) <;> simp [State.ite_mem] <;> (repeat' split) <;> simp

@[simp] theorem State.noteMerge_mem (s : State) (m : RingMerge) :
    (s.noteMerge m).mem = s.mem := by
  unfold State.noteMerge
  split <;> simp

@[simp] theorem State.mergePartFrame_mem (s : State) (rid : BitVec 16) (round : Word32) (off : Nat) (words : List Word32) (last poison : Bool) :
    (s.mergePartFrame rid round off words last poison).mem = s.mem := by
  unfold State.mergePartFrame
  dsimp only
  (repeat' split) <;> simp

@[simp] theorem State.mergeResultFrame_mem (s : State) (rid : BitVec 16) (round : Word32) (off : Nat) (words : List Word32) (last poison : Bool) :
    (s.mergeResultFrame rid round off words last poison).mem = s.mem := by
  unfold State.mergeResultFrame
  dsimp only
  (repeat' split) <;> simp

/-! ## The retirement list is left alone (R362) -/

@[simp] theorem State.closeSwitches_retired (s : State) :
    (s.closeSwitches).health.retired = s.health.retired := by
  simp [State.closeSwitches]

@[simp] theorem State.aloneActs_retired (s : State) :
    (s.aloneActs).health.retired = s.health.retired := by
  unfold State.aloneActs
  simp [State.ite_retired]

@[simp] theorem State.deadBindings_retired (s : State) (p : PenBinding → Bool) :
    (s.deadBindings p).health.retired = s.health.retired := by
  simp [State.deadBindings]

@[simp] theorem State.refuseBinds_retired (s : State) (p : BitVec 14 → Bool) :
    (s.refuseBinds p).health.retired = s.health.retired := by
  simp [State.refuseBinds]

@[simp] theorem State.ownPeriod_retired (s : State) :
    (s.ownPeriod).health.retired = s.health.retired := by
  simp [State.ownPeriod]

@[simp] theorem State.leaveFor_retired (s : State) (st : BitVec 8) :
    (s.leaveFor st).health.retired = s.health.retired := by
  simp [State.leaveFor]

@[simp] theorem State.fencedEvent_retired (s : State) (st version : Nat) :
    (s.fencedEvent st version).health.retired = s.health.retired := by
  simp [State.fencedEvent]

@[simp] theorem State.finishLeave_retired (s : State) :
    (s.finishLeave).health.retired = s.health.retired := by
  simp [State.finishLeave]

@[simp] theorem State.checkLeave_retired (s : State) :
    (s.checkLeave).health.retired = s.health.retired := by
  unfold State.checkLeave
  split <;> simp

@[simp] theorem State.leaveRing_retired (s : State) :
    (s.leaveRing).health.retired = s.health.retired := by
  unfold State.leaveRing
  split
  · rfl
  · exact (State.checkLeave_retired _).trans (by simp)

@[simp] theorem State.startElection_retired (s : State) :
    (s.startElection).health.retired = s.health.retired := by
  unfold State.startElection
  split <;> simp

@[simp] theorem State.schedulePeriod_retired (s : State) (p : Nat) :
    (s.schedulePeriod p).health.retired = s.health.retired := by
  unfold State.schedulePeriod
  split <;> simp

@[simp] theorem State.becomeMaster_retired (s : State) :
    (s.becomeMaster).health.retired = s.health.retired := by
  simp [State.becomeMaster]

@[simp] theorem State.beginJoin_retired (s : State) :
    (s.beginJoin).health.retired = s.health.retired := by
  unfold State.beginJoin
  simp [State.ite_retired]

@[simp] theorem State.stepForward_retired (s : State) (t : Nat) :
    (s.stepForward t).health.retired = s.health.retired := by
  simp [State.stepForward]

@[simp] theorem State.stepBack_retired (s : State) (t : Nat) :
    (s.stepBack t).health.retired = s.health.retired := by
  simp [State.stepBack]

@[simp] theorem State.slew_retired (s : State) (d : Nat) :
    (s.slew d).health.retired = s.health.retired := by
  unfold State.slew
  split <;> simp

theorem State.align_retired {s u : State} {t : Nat} (h : s.align t = some u) : u.health.retired = s.health.retired := by
  unfold State.align at h
  dsimp only at h
  (repeat' split at h) <;> cases h <;> simp

@[simp] theorem State.failJoin_retired (s : State) (code : BitVec 8) :
    (s.failJoin code).health.retired = s.health.retired := by
  simp [State.failJoin]

@[simp] theorem State.subscribeAll_retired (s : State) :
    (s.subscribeAll).health.retired = s.health.retired := by
  unfold State.subscribeAll
  dsimp only
  refine (State.foldl_retired _ (fun s p => by simp) _ _).trans ?_
  exact State.foldl_retired _ (fun s p => by (repeat' split) <;> simp) _ _

@[simp] theorem State.ringRollsJoined_retired (s : State) :
    (s.ringRollsJoined).health.retired = s.health.retired := by
  unfold State.ringRollsJoined
  simp [State.ite_retired]

@[simp] theorem State.hearPort_retired (s : State) (p : Nat) :
    (s.hearPort p).health.retired = s.health.retired := by
  rfl

@[simp] theorem State.trainPort_retired (s : State) (p : Nat) (partner : Option (Fin 4)) :
    (s.trainPort p partner).health.retired = s.health.retired := by
  exact (State.hearPort_retired _ _).trans (by simp)

@[simp] theorem State.trainPlane_retired (s : State) (plane : Nat) (partners : List (Option (Fin 4))) :
    (s.trainPlane plane partners).health.retired = s.health.retired := by
  simp [State.trainPlane]

@[simp] theorem State.adopt_retired (s : State) (t : TimeWord) :
    (s.adopt t).health.retired = s.health.retired := by
  unfold State.adopt
  split <;> simp

@[simp] theorem State.completeJoin_retired (s : State) (elected : Bool) :
    (s.completeJoin elected).health.retired = s.health.retired := by
  unfold State.completeJoin
  dsimp only
  simp [State.ite_retired]

@[simp] theorem State.finishJoin_retired (s : State) (elected : Bool) (partners : List (Option (Fin 4))) :
    (s.finishJoin elected partners).health.retired = s.health.retired := by
  unfold State.finishJoin
  simp [State.ite_retired]

@[simp] theorem State.joinStep_retired (s : State) (met : JoinMet) :
    (s.joinStep met).health.retired = s.health.retired := by
  unfold State.joinStep
  (repeat' split) <;> first | (simp; done) | simp [State.align_retired ‹_›]

@[simp] theorem State.joinFrame_retired (s : State) (src : BitVec 14) (name : Word32) (prio : BitVec 8) (candidate : Bool) (port hops : Nat) :
    (s.joinFrame src name prio candidate port hops).health.retired = s.health.retired := by
  unfold State.joinFrame
  dsimp only
  (repeat' split) <;> simp [State.ite_retired] <;> (repeat' split) <;> simp [State.ite_retired]

@[simp] theorem State.rosterFrame_retired (s : State) (version : Nat) (entries : List RosterEntry) :
    (s.rosterFrame version entries).health.retired = s.health.retired := by
  unfold State.rosterFrame
  split <;> simp

@[simp] theorem State.fenceRoll_retired (s : State) (num pos : Nat) (home : Option Nat) :
    (s.fenceRoll num pos home).health.retired = s.health.retired := by
  unfold State.fenceRoll
  dsimp only
  (repeat' split) <;> simp

@[simp] theorem State.loseOwned_retired (s : State) (q : Nat) (t : Desc) (ident : Nat) :
    (s.loseOwned q t ident).health.retired = s.health.retired := by
  unfold State.loseOwned
  simp [State.ite_retired]

@[simp] theorem State.fenceMember_retired (s : State) (ident : BitVec 14) (version : Nat) :
    (s.fenceMember ident version).health.retired = s.health.retired := by
  unfold State.fenceMember
  (repeat' split) <;> simp [State.ite_retired] <;> (repeat' split) <;> simp

@[simp] theorem State.fenceFrame_retired (s : State) (ident : BitVec 14) (version : Nat) :
    (s.fenceFrame ident version).health.retired = s.health.retired := by
  unfold State.fenceFrame
  (repeat' split) <;> simp

@[simp] theorem State.fenceOut_retired (s : State) (ident : BitVec 14) :
    (s.fenceOut ident).health.retired = s.health.retired := by
  simp [State.fenceOut]

@[simp] theorem State.farDown_retired (s : State) :
    (s.farDown).2.health.retired = s.health.retired := by
  unfold State.farDown
  split <;> simp

@[simp] theorem State.fenceNeighbour_retired (s : State) (p : Nat) (m : BitVec 14) :
    (s.fenceNeighbour p m).health.retired = s.health.retired := by
  unfold State.fenceNeighbour
  dsimp only
  (repeat' split) <;> simp

@[simp] theorem State.chooseDepth_retired (s : State) :
    (s.chooseDepth).health.retired = s.health.retired := by
  unfold State.chooseDepth
  (repeat' split) <;> rfl

@[simp] theorem State.follow_retired (s : State) (t : TimeWord) (arrival p : Nat) :
    (s.follow t arrival p).health.retired = s.health.retired := by
  unfold State.follow
  dsimp only
  (repeat' split) <;> simp

@[simp] theorem State.idleFrame_retired (s : State) (p : Nat) (src : BitVec 14) (t : TimeWord) (arrival : Nat) :
    (s.idleFrame p src t arrival).health.retired = s.health.retired := by
  unfold State.idleFrame
  dsimp only
  (repeat' split) <;> simp

@[simp] theorem State.turnCast_retired (s : State) (dir plane : Nat) (f : PeerFrame) :
    (s.turnCast dir plane f).health.retired = s.health.retired := by
  unfold State.turnCast
  (repeat' split) <;> simp

@[simp] theorem State.wayFrom_retired (s : State) (p : Nat) (f : PeerFrame) :
    (s.wayFrom p f).health.retired = s.health.retired := by
  unfold State.wayFrom
  (repeat' split) <;> simp

@[simp] theorem State.reroute_retired (s : State) :
    (s.reroute).health.retired = s.health.retired := by
  simp [State.reroute]

@[simp] theorem State.forgetVia_retired (s : State) (p : Nat) :
    (s.forgetVia p).health.retired = s.health.retired := by
  simp [State.forgetVia]

@[simp] theorem State.linkLost_retired (s : State) (p : Nat) (st : BitVec 8) :
    (s.linkLost p st).health.retired = s.health.retired := by
  unfold State.linkLost
  dsimp only
  rw [State.checkLeave_retired]
  split <;> simp

@[simp] theorem State.hoistFrame_retired (s : State) (phys : BitVec 14) (amt : BitVec 16) :
    (s.hoistFrame phys amt).health.retired = s.health.retired := by
  unfold State.hoistFrame
  split <;> simp

@[simp] theorem State.penSubFrame_retired (s : State) (src phys : BitVec 14) (subscribe : Bool) :
    (s.penSubFrame src phys subscribe).health.retired = s.health.retired := by
  unfold State.penSubFrame
  (repeat' split) <;> simp

@[simp] theorem State.penUpdateFrame_retired (s : State) (src phys : BitVec 14) (value : Word64) (st : BitVec 2) :
    (s.penUpdateFrame src phys value st).health.retired = s.health.retired := by
  unfold State.penUpdateFrame
  split <;> simp

@[simp] theorem State.penBindAnswer_retired (s : State) (src phys : BitVec 14) (ok : Bool) :
    (s.penBindAnswer src phys ok).health.retired = s.health.retired := by
  unfold State.penBindAnswer
  dsimp only
  (repeat' split) <;> simp

@[simp] theorem State.penBindFrame_retired (s : State) (src phys : BitVec 14) (tag : Word32) (word : BindWord) :
    (s.penBindFrame src phys tag word).health.retired = s.health.retired := by
  unfold State.penBindFrame
  dsimp only
  (repeat' split) <;> simp

@[simp] theorem State.rollArriveFrame_retired (s : State) (src : BitVec 14) (rid : BitVec 16) (round : Word32) :
    (s.rollArriveFrame src rid round).health.retired = s.health.retired := by
  unfold State.rollArriveFrame
  dsimp only
  (repeat' split) <;> simp [State.ite_retired] <;> (repeat' split) <;> simp [State.ite_retired]

@[simp] theorem State.rollReleaseFrame_retired (s : State) (rid : BitVec 16) (round : Word32) (bell : Nat) :
    (s.rollReleaseFrame rid round bell).health.retired = s.health.retired := by
  unfold State.rollReleaseFrame
  (repeat' split) <;> simp [State.ite_retired] <;> (repeat' split) <;> simp

@[simp] theorem State.noteMerge_retired (s : State) (m : RingMerge) :
    (s.noteMerge m).health.retired = s.health.retired := by
  unfold State.noteMerge
  split <;> simp

@[simp] theorem State.mergePartFrame_retired (s : State) (rid : BitVec 16) (round : Word32) (off : Nat) (words : List Word32) (last poison : Bool) :
    (s.mergePartFrame rid round off words last poison).health.retired = s.health.retired := by
  unfold State.mergePartFrame
  dsimp only
  (repeat' split) <;> simp

@[simp] theorem State.mergeResultFrame_retired (s : State) (rid : BitVec 16) (round : Word32) (off : Nat) (words : List Word32) (last poison : Bool) :
    (s.mergeResultFrame rid round off words last poison).health.retired = s.health.retired := by
  unfold State.mergeResultFrame
  dsimp only
  (repeat' split) <;> simp

end Sys2Proof.Machine
end

