-- ==== Sys2Proof/Laws/Link.lean ====
section
/-! SUPPORT. What the operations of Machine/Link.lean leave alone, and what they keep. -/

set_option Elab.async false
set_option linter.unusedSimpArgs false
set_option linter.unusedTactic false
set_option linter.unreachableTactic false
set_option linter.unnecessarySeqFocus false
set_option linter.unnecessarySimpa false

namespace Sys2Proof.Machine

/-! ## The queue of commands is left alone -/

@[simp] theorem State.closeSessions_pending (s : State) :
    (s.closeSessions).pending = s.pending := by
  simp [State.closeSessions]

@[simp] theorem State.hostLoss_pending (s : State) (cause : Nat) :
    (s.hostLoss cause).pending = s.pending := by
  simp [State.hostLoss]

@[simp] theorem State.discardMem_pending (s : State) (writes : Bool) :
    (s.discardMem writes).pending = s.pending := by
  simp [State.discardMem]

@[simp] theorem State.setLink_pending (s : State) (st width speed : BitVec 8) :
    (s.setLink st width speed).pending = s.pending := by
  simp [State.setLink]

@[simp] theorem State.hostReset_pending (s : State) (cause : Nat) (link : BitVec 8) :
    (s.hostReset cause link).pending = s.pending := by
  unfold State.hostReset
  simp [State.ite_pending]

/-! ## Memory is left alone -/

@[simp] theorem State.closeSessions_mem (s : State) :
    (s.closeSessions).mem = s.mem := by
  simp [State.closeSessions]

@[simp] theorem State.hostLoss_mem (s : State) (cause : Nat) :
    (s.hostLoss cause).mem = s.mem := by
  simp [State.hostLoss]

@[simp] theorem State.discardMem_mem (s : State) (writes : Bool) :
    (s.discardMem writes).mem = s.mem := by
  simp [State.discardMem]

@[simp] theorem State.setLink_mem (s : State) (st width speed : BitVec 8) :
    (s.setLink st width speed).mem = s.mem := by
  simp [State.setLink]

@[simp] theorem State.hostReset_mem (s : State) (cause : Nat) (link : BitVec 8) :
    (s.hostReset cause link).mem = s.mem := by
  unfold State.hostReset
  simp [State.ite_mem]

/-! ## The retirement list is left alone (R362) -/

@[simp] theorem State.closeSessions_retired (s : State) :
    (s.closeSessions).health.retired = s.health.retired := by
  simp [State.closeSessions]

@[simp] theorem State.hostLoss_retired (s : State) (cause : Nat) :
    (s.hostLoss cause).health.retired = s.health.retired := by
  simp [State.hostLoss]

@[simp] theorem State.discardMem_retired (s : State) (writes : Bool) :
    (s.discardMem writes).health.retired = s.health.retired := by
  simp [State.discardMem]

@[simp] theorem State.setLink_retired (s : State) (st width speed : BitVec 8) :
    (s.setLink st width speed).health.retired = s.health.retired := by
  simp [State.setLink]

@[simp] theorem State.hostReset_retired (s : State) (cause : Nat) (link : BitVec 8) :
    (s.hostReset cause link).health.retired = s.health.retired := by
  unfold State.hostReset
  simp [State.ite_retired]

end Sys2Proof.Machine
end

