-- ==== Sys2Proof/Laws/Mailbox.lean ====
section
/-! SUPPORT. What the operations of Machine/Mailbox.lean leave alone, and what they keep. -/

set_option Elab.async false
set_option linter.unusedSimpArgs false
set_option linter.unusedTactic false
set_option linter.unreachableTactic false
set_option linter.unnecessarySeqFocus false
set_option linter.unnecessarySimpa false

namespace Sys2Proof.Machine

/-! ## The queue of commands is left alone -/

@[simp] theorem State.request_pending (s : State) (h : Word64) (who : Option Nat) (f : State → State) (hf : ∀ s, (f s).pending = s.pending) :
    (s.request h who f).pending = s.pending := by
  unfold State.request
  try dsimp only
  (repeat' split) <;> simp [*, State.ite_pending] <;> (repeat' split) <;> simp [*, State.ite_pending]

@[simp] theorem State.onCtx_pending (s : State) (h : Word64) (c : Nat) (f : State → State) (hf : ∀ s, (f s).pending = s.pending) :
    (s.onCtx h c f).pending = s.pending := by
  unfold State.onCtx
  try dsimp only
  (repeat' split) <;> simp [*, State.ite_pending] <;> (repeat' split) <;> simp [*, State.ite_pending]

@[simp] theorem State.rebound_pending (s : State) (c ident : Nat) :
    (s.rebound c ident).pending = s.pending := by
  simp [State.rebound]

@[simp] theorem State.unbindRoll_pending (s : State) (c hd : Nat) :
    (s.unbindRoll c hd).pending = s.pending := by
  unfold State.unbindRoll
  dsimp only
  refine (State.foldl_pending _ (fun s p => by simp) _ _).trans ?_
  simp only [State.modCtx_pending]
  exact State.foldl_pending _ (fun s p => by (repeat' split) <;> simp) _ _

@[simp] theorem State.bindRoll_pending (s : State) (c hd num : Nat) :
    (s.bindRoll c hd num).pending = s.pending := by
  simp [State.bindRoll]

/-! ## Memory is left alone -/

@[simp] theorem State.request_mem (s : State) (h : Word64) (who : Option Nat) (f : State → State) (hf : ∀ s, (f s).mem = s.mem) :
    (s.request h who f).mem = s.mem := by
  unfold State.request
  try dsimp only
  (repeat' split) <;> simp [*, State.ite_mem] <;> (repeat' split) <;> simp [*, State.ite_mem]

@[simp] theorem State.onCtx_mem (s : State) (h : Word64) (c : Nat) (f : State → State) (hf : ∀ s, (f s).mem = s.mem) :
    (s.onCtx h c f).mem = s.mem := by
  unfold State.onCtx
  try dsimp only
  (repeat' split) <;> simp [*, State.ite_mem] <;> (repeat' split) <;> simp [*, State.ite_mem]

@[simp] theorem State.rebound_mem (s : State) (c ident : Nat) :
    (s.rebound c ident).mem = s.mem := by
  simp [State.rebound]

@[simp] theorem State.unbindRoll_mem (s : State) (c hd : Nat) :
    (s.unbindRoll c hd).mem = s.mem := by
  unfold State.unbindRoll
  dsimp only
  refine (State.foldl_mem _ (fun s p => by simp) _ _).trans ?_
  simp only [State.modCtx_mem]
  exact State.foldl_mem _ (fun s p => by (repeat' split) <;> simp) _ _

@[simp] theorem State.bindRoll_mem (s : State) (c hd num : Nat) :
    (s.bindRoll c hd num).mem = s.mem := by
  simp [State.bindRoll]

/-! ## The retirement list is left alone (R362) -/

@[simp] theorem State.request_retired (s : State) (h : Word64) (who : Option Nat) (f : State → State) (hf : ∀ s, (f s).health.retired = s.health.retired) :
    (s.request h who f).health.retired = s.health.retired := by
  unfold State.request
  try dsimp only
  (repeat' split) <;> simp [*, State.ite_retired] <;> (repeat' split) <;> simp [*, State.ite_retired]

@[simp] theorem State.onCtx_retired (s : State) (h : Word64) (c : Nat) (f : State → State) (hf : ∀ s, (f s).health.retired = s.health.retired) :
    (s.onCtx h c f).health.retired = s.health.retired := by
  unfold State.onCtx
  try dsimp only
  (repeat' split) <;> simp [*, State.ite_retired] <;> (repeat' split) <;> simp [*, State.ite_retired]

@[simp] theorem State.rebound_retired (s : State) (c ident : Nat) :
    (s.rebound c ident).health.retired = s.health.retired := by
  simp [State.rebound]

@[simp] theorem State.unbindRoll_retired (s : State) (c hd : Nat) :
    (s.unbindRoll c hd).health.retired = s.health.retired := by
  unfold State.unbindRoll
  dsimp only
  refine (State.foldl_retired _ (fun s p => by simp) _ _).trans ?_
  simp only [State.modCtx_health]
  exact State.foldl_retired _ (fun s p => by (repeat' split) <;> simp) _ _

@[simp] theorem State.bindRoll_retired (s : State) (c hd num : Nat) :
    (s.bindRoll c hd num).health.retired = s.health.retired := by
  simp [State.bindRoll]

end Sys2Proof.Machine
end

