-- ==== Sys2Proof/Laws/Reset.lean ====
section
/-! SUPPORT. What the operations of Machine/Reset.lean leave alone, and what they keep. -/

set_option Elab.async false
set_option linter.unusedSimpArgs false
set_option linter.unusedTactic false
set_option linter.unreachableTactic false
set_option linter.unnecessarySeqFocus false
set_option linter.unnecessarySimpa false

namespace Sys2Proof.Machine

/-- A change of every listed entry, by a function that keeps what an unlisted key reads as, changes what every key reads. -/
theorem tget_tmapAll {V : Type} [DecidableEq V] (d : V) (t : Table V) (f : V → V) (hf : f d = d) (j : Nat) :
    tget d (tmapAll d t f) j = f (tget d t j) := by
  have step : ∀ (l acc : Table V), tget d (l.foldl (fun acc x => tset d acc x.1 (f (tget d t x.1))) acc) j =
      if j ∈ l.map (·.1) then f (tget d t j) else tget d acc j := by
    intro l
    induction l with
    | nil => intro acc; simp
    | cons x l ih =>
      intro acc
      rw [List.foldl_cons, ih]
      by_cases hm : j ∈ l.map (·.1)
      · simp [hm]
      · by_cases hx : j = x.1
        · subst hx; simp [hm]
        · rw [tget_tset_ne]
          · simp [hm, hx]
          · simpa using hx
  unfold tmapAll
  rw [step]
  split
  · rfl
  · rename_i hm
    rw [tget_of_not_mem d t j hm, hf]; rfl

/-! ## The queue of commands is left alone -/

@[simp] theorem State.dropContexts_pending (s : State) :
    (s.dropContexts).pending = s.pending := by
  simp [State.dropContexts]

@[simp] theorem State.railsOff_pending (s : State) :
    (s.railsOff).pending = s.pending := by
  simp [State.railsOff]

@[simp] theorem State.mainPowerLoss_pending (s : State) :
    (s.mainPowerLoss).pending = s.pending := by
  unfold State.mainPowerLoss
  split <;> simp

@[simp] theorem State.moduleReset_pending (s : State) :
    (s.moduleReset).pending = s.pending := by
  simp [State.moduleReset]

@[simp] theorem State.cold_pending (s : State) :
    (s.cold).pending = s.pending := by
  simp [State.cold]

@[simp] theorem State.shutdown_pending (s : State) (cause : BitVec 8) :
    (s.shutdown cause).pending = s.pending := by
  unfold State.shutdown
  split <;> simp

/-! ## Memory is left alone -/

@[simp] theorem State.dropContexts_mem (s : State) :
    (s.dropContexts).mem = s.mem := by
  simp [State.dropContexts]

/-! ## Memory keeps its canonical form -/

@[simp] theorem State.railsOff_wf (s : State) :
    (s.railsOff).mem.wf = true := by
  simp [State.railsOff]

@[simp] theorem State.mainPowerLoss_wf (s : State) (hw : s.mem.wf = true) :
    (s.mainPowerLoss).mem.wf = true := by
  unfold State.mainPowerLoss
  (repeat' split) <;> simp [hw]

@[simp] theorem State.moduleReset_wf (s : State) :
    (s.moduleReset).mem.wf = true := by
  simp [State.moduleReset]

@[simp] theorem State.cold_wf (s : State) :
    (s.cold).mem.wf = true := by
  unfold State.cold
  exact Memory.zero_wf

@[simp] theorem State.shutdown_wf (s : State) (cause : BitVec 8) (hw : s.mem.wf = true) :
    (s.shutdown cause).mem.wf = true := by
  unfold State.shutdown
  (repeat' split) <;> simp [hw]

/-! ## The retirement list is left alone (R362) -/

@[simp] theorem State.dropContexts_retired (s : State) :
    (s.dropContexts).health.retired = s.health.retired := by
  simp [State.dropContexts]

@[simp] theorem State.railsOff_retired (s : State) :
    (s.railsOff).health.retired = s.health.retired := by
  simp [State.railsOff]

@[simp] theorem State.mainPowerLoss_retired (s : State) :
    (s.mainPowerLoss).health.retired = s.health.retired := by
  unfold State.mainPowerLoss
  split <;> simp

@[simp] theorem State.moduleReset_retired (s : State) :
    (s.moduleReset).health.retired = s.health.retired := by
  simp [State.moduleReset]

@[simp] theorem State.cold_retired (s : State) :
    (s.cold).health.retired = s.health.retired := by
  simp [State.cold]

@[simp] theorem State.shutdown_retired (s : State) (cause : BitVec 8) :
    (s.shutdown cause).health.retired = s.health.retired := by
  unfold State.shutdown
  split <;> simp

end Sys2Proof.Machine
end

