-- ==== Sys2Proof/Laws/Governor.lean ====
section
/-! SUPPORT. What the operations of Machine/Governor.lean leave alone, and what they keep. -/

set_option Elab.async false
set_option linter.unusedSimpArgs false
set_option linter.unusedTactic false
set_option linter.unreachableTactic false
set_option linter.unnecessarySeqFocus false
set_option linter.unnecessarySimpa false

namespace Sys2Proof.Machine

/-! ## The queue of commands is left alone -/

@[simp] theorem State.setThermalRate_pending (s : State) (q : Nat) :
    (s.setThermalRate q).pending = s.pending := by
  simp [State.setThermalRate]

@[simp] theorem State.setBand_pending (s : State) (i : Nat) (r : Option Int) :
    (s.setBand i r).pending = s.pending := by
  unfold State.setBand
  split <;> simp

@[simp] theorem State.setSite_pending (s : State) (i : Nat) (x : Site) :
    (s.setSite i x).pending = s.pending := by
  simp [State.setSite]

@[simp] theorem State.announceLevel_pending (s : State) (i : Nat) (old new : BitVec 8) (r : Int) :
    (s.announceLevel i old new r).pending = s.pending := by
  unfold State.announceLevel
  (repeat' split) <;> simp

@[simp] theorem State.failSite_pending (s : State) (i : Nat) :
    (s.failSite i).pending = s.pending := by
  unfold State.failSite
  simp [State.ite_pending]

@[simp] theorem State.actOn_pending (s : State) (i : Nat) (x : Site) (r : Int) :
    (s.actOn i x r).pending = s.pending := by
  simp [State.actOn]

@[simp] theorem State.readSite_pending (s : State) (i : Nat) (r : Int) :
    (s.readSite i r).pending = s.pending := by
  unfold State.readSite
  simp [State.ite_pending]

@[simp] theorem State.budgetChanged_pending (s : State) (old us : Nat) :
    (s.budgetChanged old us).pending = s.pending := by
  unfold State.budgetChanged
  simp [State.ite_pending]

/-! ## Memory is left alone -/

@[simp] theorem State.setThermalRate_mem (s : State) (q : Nat) :
    (s.setThermalRate q).mem = s.mem := by
  simp [State.setThermalRate]

@[simp] theorem State.setBand_mem (s : State) (i : Nat) (r : Option Int) :
    (s.setBand i r).mem = s.mem := by
  unfold State.setBand
  split <;> simp

@[simp] theorem State.setSite_mem (s : State) (i : Nat) (x : Site) :
    (s.setSite i x).mem = s.mem := by
  simp [State.setSite]

@[simp] theorem State.failSite_mem (s : State) (i : Nat) :
    (s.failSite i).mem = s.mem := by
  unfold State.failSite
  simp [State.ite_mem]

@[simp] theorem State.budgetChanged_mem (s : State) (old us : Nat) :
    (s.budgetChanged old us).mem = s.mem := by
  unfold State.budgetChanged
  simp [State.ite_mem]

/-! ## Memory keeps its canonical form -/

@[simp] theorem State.announceLevel_wf (s : State) (i : Nat) (old new : BitVec 8) (r : Int) (hw : s.mem.wf = true) :
    (s.announceLevel i old new r).mem.wf = true := by
  unfold State.announceLevel
  (repeat' split) <;> simp [hw]

@[simp] theorem State.actOn_wf (s : State) (i : Nat) (x : Site) (r : Int) (hw : s.mem.wf = true) :
    (s.actOn i x r).mem.wf = true := by
  simp [State.actOn, hw]

@[simp] theorem State.readSite_wf (s : State) (i : Nat) (r : Int) (hw : s.mem.wf = true) :
    (s.readSite i r).mem.wf = true := by
  unfold State.readSite
  try dsimp only
  (repeat' split) <;> simp [*] <;> (repeat' split) <;> simp [*]

/-! ## The retirement list is left alone (R362) -/

@[simp] theorem State.setThermalRate_retired (s : State) (q : Nat) :
    (s.setThermalRate q).health.retired = s.health.retired := by
  simp [State.setThermalRate]

@[simp] theorem State.setBand_retired (s : State) (i : Nat) (r : Option Int) :
    (s.setBand i r).health.retired = s.health.retired := by
  unfold State.setBand
  split <;> simp

@[simp] theorem State.setSite_retired (s : State) (i : Nat) (x : Site) :
    (s.setSite i x).health.retired = s.health.retired := by
  simp [State.setSite]

@[simp] theorem State.announceLevel_retired (s : State) (i : Nat) (old new : BitVec 8) (r : Int) :
    (s.announceLevel i old new r).health.retired = s.health.retired := by
  unfold State.announceLevel
  (repeat' split) <;> simp

@[simp] theorem State.failSite_retired (s : State) (i : Nat) :
    (s.failSite i).health.retired = s.health.retired := by
  unfold State.failSite
  simp [State.ite_retired]

@[simp] theorem State.actOn_retired (s : State) (i : Nat) (x : Site) (r : Int) :
    (s.actOn i x r).health.retired = s.health.retired := by
  simp [State.actOn]

@[simp] theorem State.readSite_retired (s : State) (i : Nat) (r : Int) :
    (s.readSite i r).health.retired = s.health.retired := by
  unfold State.readSite
  simp [State.ite_retired]

@[simp] theorem State.budgetChanged_retired (s : State) (old us : Nat) :
    (s.budgetChanged old us).health.retired = s.health.retired := by
  unfold State.budgetChanged
  simp [State.ite_retired]

end Sys2Proof.Machine
end

