-- ==== Sys2Proof/Laws/Gates.lean ====
section
/-! SUPPORT. What the operations of Machine/Gates.lean leave alone, and what they keep. -/

set_option Elab.async false
set_option linter.unusedSimpArgs false
set_option linter.unusedTactic false
set_option linter.unreachableTactic false
set_option linter.unnecessarySeqFocus false
set_option linter.unnecessarySimpa false

namespace Sys2Proof.Machine

/-! ## The queue of commands is left alone -/

@[simp] theorem State.requestClose_pending (s : State) (g : Nat) :
    (s.requestClose g).pending = s.pending := by
  unfold State.requestClose
  split <;> simp

/-! ## Memory is left alone -/

@[simp] theorem State.requestClose_mem (s : State) (g : Nat) :
    (s.requestClose g).mem = s.mem := by
  unfold State.requestClose
  split <;> simp

/-! ## The retirement list is left alone (R362) -/

@[simp] theorem State.requestClose_retired (s : State) (g : Nat) :
    (s.requestClose g).health.retired = s.health.retired := by
  unfold State.requestClose
  split <;> simp

end Sys2Proof.Machine
end

