-- ==== Sys2Proof/Laws/Write.lean ====
section
/-! SUPPORT. What the operations of Machine/Write.lean leave alone, and what they keep. -/

set_option Elab.async false
set_option linter.unusedSimpArgs false
set_option linter.unusedTactic false
set_option linter.unreachableTactic false
set_option linter.unnecessarySeqFocus false
set_option linter.unnecessarySimpa false

namespace Sys2Proof.Machine

/-! ## The queue of commands is left alone -/

@[simp] theorem State.modClk_pending (s : State) (f : Clocks → Clocks) :
    (s.modClk f).pending = s.pending := by
  simp [State.modClk]

@[simp] theorem State.modFmc_pending (s : State) (f : Fmc → Fmc) :
    (s.modFmc f).pending = s.pending := by
  simp [State.modFmc]

@[simp] theorem State.modPow_pending (s : State) (f : Power → Power) :
    (s.modPow f).pending = s.pending := by
  simp [State.modPow]

@[simp] theorem State.modMgmt_pending (s : State) (f : Mgmt → Mgmt) :
    (s.modMgmt f).pending = s.pending := by
  simp [State.modMgmt]

@[simp] theorem State.modHost_pending (s : State) (f : HostSide → HostSide) :
    (s.modHost f).pending = s.pending := by
  simp [State.modHost]

@[simp] theorem State.modSync_pending (s : State) (f : Sync → Sync) :
    (s.modSync f).pending = s.pending := by
  simp [State.modSync]

@[simp] theorem State.modRing_pending (s : State) (f : Ring → Ring) :
    (s.modRing f).pending = s.pending := by
  simp [State.modRing]

@[simp] theorem State.modTherm_pending (s : State) (f : Thermal → Thermal) :
    (s.modTherm f).pending = s.pending := by
  simp [State.modTherm]

@[simp] theorem State.modHealth_pending (s : State) (f : Health → Health) :
    (s.modHealth f).pending = s.pending := by
  simp [State.modHealth]

@[simp] theorem State.modSec_pending (s : State) (f : Sec → Sec) :
    (s.modSec f).pending = s.pending := by
  simp [State.modSec]

@[simp] theorem State.setThreshold_pending (s : State) (st v : Nat) :
    (s.setThreshold st v).pending = s.pending := by
  simp [State.setThreshold]

@[simp] theorem State.setBellPeriod_pending (s : State) (v : Nat) :
    (s.setBellPeriod v).pending = s.pending := by
  unfold State.setBellPeriod
  simp [State.ite_pending]

@[simp] theorem State.ringCmd_pending (s : State) (v : Nat) :
    (s.ringCmd v).pending = s.pending := by
  unfold State.ringCmd
  split <;> simp

@[simp] theorem State.writeDigest_pending (s : State) (role part v : Nat) :
    (s.writeDigest role part v).pending = s.pending := by
  unfold State.writeDigest
  split <;> simp

@[simp] theorem State.clearHazards_pending (s : State) (q c : Nat) :
    (s.clearHazards q c).pending = s.pending := by
  simp [State.clearHazards]

@[simp] theorem State.storeValues_pending (s : State) :
    (s.storeValues).pending = s.pending := by
  simp [State.storeValues]

@[simp] theorem State.odSet_pending (s : State) (tenant : Option Nat) (idx sub v : Nat) :
    (s.odSet tenant idx sub v).pending = s.pending := by
  unfold State.odSet
  (repeat' split) <;> simp [State.modHealth]

@[simp] theorem State.odWrite_pending (s : State) (tenant : Option Nat) (idx sub : Nat) (value : List Byte) :
    (s.odWrite tenant idx sub value).2.pending = s.pending := by
  unfold State.odWrite
  dsimp only
  split <;> simp

@[simp] theorem State.canSend_pending (s : State) (base : Nat) (bytes : List Byte) :
    (s.canSend base bytes).pending = s.pending := by
  simp [State.canSend]

@[simp] theorem State.usdoAbort_pending (s : State) (a : Word32) :
    (s.usdoAbort a).pending = s.pending := by
  simp [State.usdoAbort]

@[simp] theorem State.usdoAck_pending (s : State) (idx sub : Nat) :
    (s.usdoAck idx sub).pending = s.pending := by
  simp [State.usdoAck]

@[simp] theorem State.usdoWrite_pending (s : State) (idx sub : Nat) (value : List Byte) :
    (s.usdoWrite idx sub value).pending = s.pending := by
  unfold State.usdoWrite
  dsimp only
  (repeat' split) <;> simp

@[simp] theorem State.operatorWrite_pending (s : State) (idx sub : Nat) (value : List Byte) :
    (s.operatorWrite idx sub value).pending = s.pending := by
  unfold State.operatorWrite
  (repeat' split) <;> simp

@[simp] theorem State.odRequest_pending (s : State) (h : Word64) (f : Session → State) (hf : ∀ x, (f x).pending = s.pending) :
    (s.odRequest h f).pending = s.pending := by
  unfold State.odRequest
  try dsimp only
  (repeat' split) <;> simp [*, State.ite_pending] <;> (repeat' split) <;> simp [*, State.ite_pending]

@[simp] theorem State.setSnapshot_pending (s : State) (h : Word64) (x : Option (Nat × List Byte)) :
    (s.setSnapshot h x).pending = s.pending := by
  simp [State.setSnapshot]

@[simp] theorem State.touch_pending (s : State) (h : Word64) :
    (s.touch h).pending = s.pending := by
  simp [State.touch]

@[simp] theorem State.takeSnapshot_pending (s : State) (h : Word64) (key : Nat) (bs : List Byte) :
    (s.takeSnapshot h key bs).pending = s.pending := by
  unfold State.takeSnapshot
  (repeat' split) <;> simp [State.ite_pending] <;> (repeat' split) <;> simp

@[simp] theorem State.barComponent_pending (s : State) (off : Nat) (v : Word64) :
    (s.barComponent off v).pending = s.pending := by
  unfold State.barComponent
  simp [State.ite_pending]

@[simp] theorem State.barReportBase_pending (s : State) (c : Nat) (v : Word64) :
    (s.barReportBase c v).pending = s.pending := by
  unfold State.barReportBase
  split <;> simp

@[simp] theorem State.barWrite_pending (s : State) (off : Nat) (v : Word64) :
    (s.barWrite off v).pending = s.pending := by
  unfold State.barWrite
  simp [State.ite_pending]

/-! ## Memory is left alone -/

@[simp] theorem State.modClk_mem (s : State) (f : Clocks → Clocks) :
    (s.modClk f).mem = s.mem := by
  simp [State.modClk]

@[simp] theorem State.modFmc_mem (s : State) (f : Fmc → Fmc) :
    (s.modFmc f).mem = s.mem := by
  simp [State.modFmc]

@[simp] theorem State.modPow_mem (s : State) (f : Power → Power) :
    (s.modPow f).mem = s.mem := by
  simp [State.modPow]

@[simp] theorem State.modMgmt_mem (s : State) (f : Mgmt → Mgmt) :
    (s.modMgmt f).mem = s.mem := by
  simp [State.modMgmt]

@[simp] theorem State.modHost_mem (s : State) (f : HostSide → HostSide) :
    (s.modHost f).mem = s.mem := by
  simp [State.modHost]

@[simp] theorem State.modSync_mem (s : State) (f : Sync → Sync) :
    (s.modSync f).mem = s.mem := by
  simp [State.modSync]

@[simp] theorem State.modRing_mem (s : State) (f : Ring → Ring) :
    (s.modRing f).mem = s.mem := by
  simp [State.modRing]

@[simp] theorem State.modTherm_mem (s : State) (f : Thermal → Thermal) :
    (s.modTherm f).mem = s.mem := by
  simp [State.modTherm]

@[simp] theorem State.modHealth_mem (s : State) (f : Health → Health) :
    (s.modHealth f).mem = s.mem := by
  simp [State.modHealth]

@[simp] theorem State.modSec_mem (s : State) (f : Sec → Sec) :
    (s.modSec f).mem = s.mem := by
  simp [State.modSec]

@[simp] theorem State.setThreshold_mem (s : State) (st v : Nat) :
    (s.setThreshold st v).mem = s.mem := by
  simp [State.setThreshold]

@[simp] theorem State.setBellPeriod_mem (s : State) (v : Nat) :
    (s.setBellPeriod v).mem = s.mem := by
  unfold State.setBellPeriod
  simp [State.ite_mem]

@[simp] theorem State.ringCmd_mem (s : State) (v : Nat) :
    (s.ringCmd v).mem = s.mem := by
  unfold State.ringCmd
  split <;> simp

@[simp] theorem State.writeDigest_mem (s : State) (role part v : Nat) :
    (s.writeDigest role part v).mem = s.mem := by
  unfold State.writeDigest
  split <;> simp

@[simp] theorem State.clearHazards_mem (s : State) (q c : Nat) :
    (s.clearHazards q c).mem = s.mem := by
  simp [State.clearHazards]

@[simp] theorem State.storeValues_mem (s : State) :
    (s.storeValues).mem = s.mem := by
  simp [State.storeValues]

@[simp] theorem State.canSend_mem (s : State) (base : Nat) (bytes : List Byte) :
    (s.canSend base bytes).mem = s.mem := by
  simp [State.canSend]

@[simp] theorem State.usdoAbort_mem (s : State) (a : Word32) :
    (s.usdoAbort a).mem = s.mem := by
  simp [State.usdoAbort]

@[simp] theorem State.usdoAck_mem (s : State) (idx sub : Nat) :
    (s.usdoAck idx sub).mem = s.mem := by
  simp [State.usdoAck]

@[simp] theorem State.odRequest_mem (s : State) (h : Word64) (f : Session → State) (hf : ∀ x, (f x).mem = s.mem) :
    (s.odRequest h f).mem = s.mem := by
  unfold State.odRequest
  try dsimp only
  (repeat' split) <;> simp [*, State.ite_mem] <;> (repeat' split) <;> simp [*, State.ite_mem]

@[simp] theorem State.setSnapshot_mem (s : State) (h : Word64) (x : Option (Nat × List Byte)) :
    (s.setSnapshot h x).mem = s.mem := by
  simp [State.setSnapshot]

@[simp] theorem State.touch_mem (s : State) (h : Word64) :
    (s.touch h).mem = s.mem := by
  simp [State.touch]

@[simp] theorem State.takeSnapshot_mem (s : State) (h : Word64) (key : Nat) (bs : List Byte) :
    (s.takeSnapshot h key bs).mem = s.mem := by
  unfold State.takeSnapshot
  (repeat' split) <;> simp [State.ite_mem] <;> (repeat' split) <;> simp

@[simp] theorem State.barComponent_mem (s : State) (off : Nat) (v : Word64) :
    (s.barComponent off v).mem = s.mem := by
  unfold State.barComponent
  simp [State.ite_mem]

@[simp] theorem State.barReportBase_mem (s : State) (c : Nat) (v : Word64) :
    (s.barReportBase c v).mem = s.mem := by
  unfold State.barReportBase
  split <;> simp

@[simp] theorem State.barWrite_mem (s : State) (off : Nat) (v : Word64) :
    (s.barWrite off v).mem = s.mem := by
  unfold State.barWrite
  simp [State.ite_mem]

/-! ## Memory keeps its canonical form -/

@[simp] theorem State.odSet_wf (s : State) (tenant : Option Nat) (idx sub v : Nat) (hw : s.mem.wf = true) :
    (s.odSet tenant idx sub v).mem.wf = true := by
  unfold State.odSet
  (repeat' split) <;> simp [hw]

@[simp] theorem State.odWrite_wf (s : State) (tenant : Option Nat) (idx sub : Nat) (value : List Byte) (hw : s.mem.wf = true) :
    (s.odWrite tenant idx sub value).2.mem.wf = true := by
  unfold State.odWrite
  try dsimp only
  (repeat' split) <;> simp [*] <;> (repeat' split) <;> simp [*]

@[simp] theorem State.usdoWrite_wf (s : State) (idx sub : Nat) (value : List Byte) (hw : s.mem.wf = true) :
    (s.usdoWrite idx sub value).mem.wf = true := by
  unfold State.usdoWrite
  dsimp only
  (repeat' split) <;> simp [hw]

@[simp] theorem State.operatorWrite_wf (s : State) (idx sub : Nat) (value : List Byte) (hw : s.mem.wf = true) :
    (s.operatorWrite idx sub value).mem.wf = true := by
  unfold State.operatorWrite
  (repeat' split) <;> simp [hw]

/-! ## The retirement list is left alone (R362) -/

@[simp] theorem State.modClk_retired (s : State) (f : Clocks → Clocks) :
    (s.modClk f).health.retired = s.health.retired := by
  simp [State.modClk]

@[simp] theorem State.modFmc_retired (s : State) (f : Fmc → Fmc) :
    (s.modFmc f).health.retired = s.health.retired := by
  simp [State.modFmc]

@[simp] theorem State.modPow_retired (s : State) (f : Power → Power) :
    (s.modPow f).health.retired = s.health.retired := by
  simp [State.modPow]

@[simp] theorem State.modMgmt_retired (s : State) (f : Mgmt → Mgmt) :
    (s.modMgmt f).health.retired = s.health.retired := by
  simp [State.modMgmt]

@[simp] theorem State.modHost_retired (s : State) (f : HostSide → HostSide) :
    (s.modHost f).health.retired = s.health.retired := by
  simp [State.modHost]

@[simp] theorem State.modSync_retired (s : State) (f : Sync → Sync) :
    (s.modSync f).health.retired = s.health.retired := by
  simp [State.modSync]

@[simp] theorem State.modRing_retired (s : State) (f : Ring → Ring) :
    (s.modRing f).health.retired = s.health.retired := by
  simp [State.modRing]

@[simp] theorem State.modTherm_retired (s : State) (f : Thermal → Thermal) :
    (s.modTherm f).health.retired = s.health.retired := by
  simp [State.modTherm]

@[simp] theorem State.modSec_retired (s : State) (f : Sec → Sec) :
    (s.modSec f).health.retired = s.health.retired := by
  simp [State.modSec]

@[simp] theorem State.setThreshold_retired (s : State) (st v : Nat) :
    (s.setThreshold st v).health.retired = s.health.retired := by
  simp [State.setThreshold]

@[simp] theorem State.setBellPeriod_retired (s : State) (v : Nat) :
    (s.setBellPeriod v).health.retired = s.health.retired := by
  unfold State.setBellPeriod
  simp [State.ite_retired]

@[simp] theorem State.ringCmd_retired (s : State) (v : Nat) :
    (s.ringCmd v).health.retired = s.health.retired := by
  unfold State.ringCmd
  split <;> simp

@[simp] theorem State.writeDigest_retired (s : State) (role part v : Nat) :
    (s.writeDigest role part v).health.retired = s.health.retired := by
  unfold State.writeDigest
  split <;> simp

@[simp] theorem State.clearHazards_retired (s : State) (q c : Nat) :
    (s.clearHazards q c).health.retired = s.health.retired := by
  simp [State.clearHazards]

@[simp] theorem State.storeValues_retired (s : State) :
    (s.storeValues).health.retired = s.health.retired := by
  simp [State.storeValues]

@[simp] theorem State.odSet_retired (s : State) (tenant : Option Nat) (idx sub v : Nat) :
    (s.odSet tenant idx sub v).health.retired = s.health.retired := by
  unfold State.odSet
  (repeat' split) <;> simp [State.modHealth]

@[simp] theorem State.odWrite_retired (s : State) (tenant : Option Nat) (idx sub : Nat) (value : List Byte) :
    (s.odWrite tenant idx sub value).2.health.retired = s.health.retired := by
  unfold State.odWrite
  dsimp only
  split <;> simp

@[simp] theorem State.canSend_retired (s : State) (base : Nat) (bytes : List Byte) :
    (s.canSend base bytes).health.retired = s.health.retired := by
  simp [State.canSend]

@[simp] theorem State.usdoAbort_retired (s : State) (a : Word32) :
    (s.usdoAbort a).health.retired = s.health.retired := by
  simp [State.usdoAbort]

@[simp] theorem State.usdoAck_retired (s : State) (idx sub : Nat) :
    (s.usdoAck idx sub).health.retired = s.health.retired := by
  simp [State.usdoAck]

@[simp] theorem State.usdoWrite_retired (s : State) (idx sub : Nat) (value : List Byte) :
    (s.usdoWrite idx sub value).health.retired = s.health.retired := by
  unfold State.usdoWrite
  dsimp only
  (repeat' split) <;> simp

@[simp] theorem State.operatorWrite_retired (s : State) (idx sub : Nat) (value : List Byte) :
    (s.operatorWrite idx sub value).health.retired = s.health.retired := by
  unfold State.operatorWrite
  (repeat' split) <;> simp

@[simp] theorem State.odRequest_retired (s : State) (h : Word64) (f : Session → State) (hf : ∀ x, (f x).health.retired = s.health.retired) :
    (s.odRequest h f).health.retired = s.health.retired := by
  unfold State.odRequest
  try dsimp only
  (repeat' split) <;> simp [*, State.ite_retired] <;> (repeat' split) <;> simp [*, State.ite_retired]

@[simp] theorem State.setSnapshot_retired (s : State) (h : Word64) (x : Option (Nat × List Byte)) :
    (s.setSnapshot h x).health.retired = s.health.retired := by
  simp [State.setSnapshot]

@[simp] theorem State.touch_retired (s : State) (h : Word64) :
    (s.touch h).health.retired = s.health.retired := by
  simp [State.touch]

@[simp] theorem State.takeSnapshot_retired (s : State) (h : Word64) (key : Nat) (bs : List Byte) :
    (s.takeSnapshot h key bs).health.retired = s.health.retired := by
  unfold State.takeSnapshot
  (repeat' split) <;> simp [State.ite_retired] <;> (repeat' split) <;> simp

@[simp] theorem State.barComponent_retired (s : State) (off : Nat) (v : Word64) :
    (s.barComponent off v).health.retired = s.health.retired := by
  unfold State.barComponent
  simp [State.ite_retired]

@[simp] theorem State.barReportBase_retired (s : State) (c : Nat) (v : Word64) :
    (s.barReportBase c v).health.retired = s.health.retired := by
  unfold State.barReportBase
  split <;> simp

@[simp] theorem State.barWrite_retired (s : State) (off : Nat) (v : Word64) :
    (s.barWrite off v).health.retired = s.health.retired := by
  unfold State.barWrite
  simp [State.ite_retired]

end Sys2Proof.Machine
end

