-- ==== Sys2Proof/Laws/Can.lean ====
section
/-! SUPPORT. What the operations of Machine/Can.lean leave alone, and what they keep. -/

set_option Elab.async false
set_option linter.unusedSimpArgs false
set_option linter.unusedTactic false
set_option linter.unreachableTactic false
set_option linter.unnecessarySeqFocus false
set_option linter.unnecessarySimpa false

namespace Sys2Proof.Machine

/-! ## The queue of commands is left alone -/

@[simp] theorem State.loadStored_pending (s : State) (p : Nat → Bool) :
    (s.loadStored p).pending = s.pending := by
  unfold State.loadStored
  split <;> simp

@[simp] theorem State.nmtInit_pending (s : State) :
    (s.nmtInit).pending = s.pending := by
  unfold State.nmtInit
  simp [State.ite_pending]

@[simp] theorem State.nmtCommand_pending (s : State) (f : State → State) (hf : ∀ s, (f s).pending = s.pending) :
    (s.nmtCommand f).pending = s.pending := by
  unfold State.nmtCommand
  try dsimp only
  (repeat' split) <;> simp [*, State.ite_pending] <;> (repeat' split) <;> simp [*, State.ite_pending]

@[simp] theorem State.setUsdo_pending (s : State) (x : Option (BitVec 16 × BitVec 8 × List Byte × Bool)) :
    (s.setUsdo x).pending = s.pending := by
  simp [State.setUsdo]

@[simp] theorem State.usdoPiece_pending (s : State) (idx : BitVec 16) (sub : BitVec 8) (bs : List Byte) :
    (s.usdoPiece idx sub bs).pending = s.pending := by
  simp [State.usdoPiece]

@[simp] theorem State.emcyNow_pending (s : State) (code : BitVec 16) (value : Nat) :
    (s.emcyNow code value).pending = s.pending := by
  simp [State.emcyNow]

/-! ## Memory is left alone -/

@[simp] theorem State.nmtCommand_mem (s : State) (f : State → State) (hf : ∀ s, (f s).mem = s.mem) :
    (s.nmtCommand f).mem = s.mem := by
  unfold State.nmtCommand
  try dsimp only
  (repeat' split) <;> simp [*, State.ite_mem] <;> (repeat' split) <;> simp [*, State.ite_mem]

@[simp] theorem State.setUsdo_mem (s : State) (x : Option (BitVec 16 × BitVec 8 × List Byte × Bool)) :
    (s.setUsdo x).mem = s.mem := by
  simp [State.setUsdo]

@[simp] theorem State.usdoPiece_mem (s : State) (idx : BitVec 16) (sub : BitVec 8) (bs : List Byte) :
    (s.usdoPiece idx sub bs).mem = s.mem := by
  simp [State.usdoPiece]

@[simp] theorem State.emcyNow_mem (s : State) (code : BitVec 16) (value : Nat) :
    (s.emcyNow code value).mem = s.mem := by
  simp [State.emcyNow]

/-! ## Memory keeps its canonical form -/

@[simp] theorem State.loadStored_wf (s : State) (p : Nat → Bool) (hw : s.mem.wf = true) :
    (s.loadStored p).mem.wf = true := by
  unfold State.loadStored
  try dsimp only
  (repeat' split) <;> first
    | (simp [*]; done)
    | (refine State.foldl_holds (fun s : State => s.mem.wf = true) _ (fun s a h => ?_) _ _ ?_ <;> (repeat' split) <;> simp [*])

@[simp] theorem State.nmtInit_wf (s : State) (hw : s.mem.wf = true) :
    (s.nmtInit).mem.wf = true := by
  unfold State.nmtInit
  try dsimp only
  (repeat' split) <;> simp [*] <;> (repeat' split) <;> simp [*]

/-! ## The retirement list is left alone (R362) -/

@[simp] theorem State.loadStored_retired (s : State) (p : Nat → Bool) :
    (s.loadStored p).health.retired = s.health.retired := by
  unfold State.loadStored
  split <;> simp

@[simp] theorem State.nmtInit_retired (s : State) :
    (s.nmtInit).health.retired = s.health.retired := by
  unfold State.nmtInit
  simp [State.ite_retired]

@[simp] theorem State.nmtCommand_retired (s : State) (f : State → State) (hf : ∀ s, (f s).health.retired = s.health.retired) :
    (s.nmtCommand f).health.retired = s.health.retired := by
  unfold State.nmtCommand
  try dsimp only
  (repeat' split) <;> simp [*, State.ite_retired] <;> (repeat' split) <;> simp [*, State.ite_retired]

@[simp] theorem State.setUsdo_retired (s : State) (x : Option (BitVec 16 × BitVec 8 × List Byte × Bool)) :
    (s.setUsdo x).health.retired = s.health.retired := by
  simp [State.setUsdo]

@[simp] theorem State.usdoPiece_retired (s : State) (idx : BitVec 16) (sub : BitVec 8) (bs : List Byte) :
    (s.usdoPiece idx sub bs).health.retired = s.health.retired := by
  simp [State.usdoPiece]

@[simp] theorem State.emcyNow_retired (s : State) (code : BitVec 16) (value : Nat) :
    (s.emcyNow code value).health.retired = s.health.retired := by
  simp [State.emcyNow]

end Sys2Proof.Machine
end

