-- ==== Sys2Proof/Laws/Cxl.lean ====
section
/-! SUPPORT. What the operations of Machine/Cxl.lean leave alone, and what they keep. -/

set_option Elab.async false
set_option linter.unusedSimpArgs false
set_option linter.unusedTactic false
set_option linter.unreachableTactic false
set_option linter.unnecessarySeqFocus false
set_option linter.unnecessarySimpa false

namespace Sys2Proof.Machine

/-! ## The queue of commands is left alone -/

@[simp] theorem State.cxlCommand_pending (s : State) (always : Bool) (f : State → State) (hf : ∀ s, (f s).pending = s.pending) :
    (s.cxlCommand always f).pending = s.pending := by
  unfold State.cxlCommand
  try dsimp only
  (repeat' split) <;> simp [*, State.ite_pending] <;> (repeat' split) <;> simp [*, State.ite_pending]

@[simp] theorem State.setFw_pending (s : State) (i : Nat) (image : List Byte) (x : Option (Nat × List Byte)) :
    (s.setFw i image x).pending = s.pending := by
  simp [State.setFw]

@[simp] theorem State.endFw_pending (s : State) (i : Nat) (image : List Byte) :
    (s.endFw i image).pending = s.pending := by
  simp [State.endFw]

@[simp] theorem State.unnamedRc_pending (s : State) :
    (s.unnamedRc).pending = s.pending := by
  simp [State.unnamedRc]

@[simp] theorem State.spdmAnswer_pending (s : State) (ok : Bool) (payload : List Byte) :
    (s.spdmAnswer ok payload).pending = s.pending := by
  simp [State.spdmAnswer]

@[simp] theorem State.spdm_pending (s : State) (ready : Bool) (f : State → State) (hf : ∀ s, (f s).pending = s.pending) :
    (s.spdm ready f).pending = s.pending := by
  unfold State.spdm
  try dsimp only
  (repeat' split) <;> simp [*, State.ite_pending] <;> (repeat' split) <;> simp [*, State.ite_pending]

/-! ## Memory is left alone -/

@[simp] theorem State.cxlCommand_mem (s : State) (always : Bool) (f : State → State) (hf : ∀ s, (f s).mem = s.mem) :
    (s.cxlCommand always f).mem = s.mem := by
  unfold State.cxlCommand
  try dsimp only
  (repeat' split) <;> simp [*, State.ite_mem] <;> (repeat' split) <;> simp [*, State.ite_mem]

@[simp] theorem State.setFw_mem (s : State) (i : Nat) (image : List Byte) (x : Option (Nat × List Byte)) :
    (s.setFw i image x).mem = s.mem := by
  simp [State.setFw]

@[simp] theorem State.endFw_mem (s : State) (i : Nat) (image : List Byte) :
    (s.endFw i image).mem = s.mem := by
  simp [State.endFw]

@[simp] theorem State.unnamedRc_mem (s : State) :
    (s.unnamedRc).mem = s.mem := by
  simp [State.unnamedRc]

@[simp] theorem State.spdmAnswer_mem (s : State) (ok : Bool) (payload : List Byte) :
    (s.spdmAnswer ok payload).mem = s.mem := by
  simp [State.spdmAnswer]

@[simp] theorem State.spdm_mem (s : State) (ready : Bool) (f : State → State) (hf : ∀ s, (f s).mem = s.mem) :
    (s.spdm ready f).mem = s.mem := by
  unfold State.spdm
  try dsimp only
  (repeat' split) <;> simp [*, State.ite_mem] <;> (repeat' split) <;> simp [*, State.ite_mem]

/-! ## The retirement list is left alone (R362) -/

@[simp] theorem State.cxlCommand_retired (s : State) (always : Bool) (f : State → State) (hf : ∀ s, (f s).health.retired = s.health.retired) :
    (s.cxlCommand always f).health.retired = s.health.retired := by
  unfold State.cxlCommand
  try dsimp only
  (repeat' split) <;> simp [*, State.ite_retired] <;> (repeat' split) <;> simp [*, State.ite_retired]

@[simp] theorem State.setFw_retired (s : State) (i : Nat) (image : List Byte) (x : Option (Nat × List Byte)) :
    (s.setFw i image x).health.retired = s.health.retired := by
  simp [State.setFw]

@[simp] theorem State.endFw_retired (s : State) (i : Nat) (image : List Byte) :
    (s.endFw i image).health.retired = s.health.retired := by
  simp [State.endFw]

@[simp] theorem State.unnamedRc_retired (s : State) :
    (s.unnamedRc).health.retired = s.health.retired := by
  simp [State.unnamedRc]

@[simp] theorem State.spdmAnswer_retired (s : State) (ok : Bool) (payload : List Byte) :
    (s.spdmAnswer ok payload).health.retired = s.health.retired := by
  simp [State.spdmAnswer]

@[simp] theorem State.spdm_retired (s : State) (ready : Bool) (f : State → State) (hf : ∀ s, (f s).health.retired = s.health.retired) :
    (s.spdm ready f).health.retired = s.health.retired := by
  unfold State.spdm
  try dsimp only
  (repeat' split) <;> simp [*, State.ite_retired] <;> (repeat' split) <;> simp [*, State.ite_retired]

end Sys2Proof.Machine
end

