-- ==== Sys2Proof/Laws/Frames.lean ====
section
/-! SUPPORT. What the operations of Machine/Frames.lean leave alone, and what they keep. -/

set_option Elab.async false
set_option linter.unusedSimpArgs false
set_option linter.unusedTactic false
set_option linter.unreachableTactic false
set_option linter.unnecessarySeqFocus false
set_option linter.unnecessarySimpa false

namespace Sys2Proof.Machine

/-! ## The queue of commands is left alone -/

@[simp] theorem State.deliver_pending (s : State) (f : PeerFrame) :
    (s.deliver f).pending = s.pending := by
  unfold State.deliver
  split <;> simp

@[simp] theorem State.took_pending (s : State) (h : FrameHead) :
    (s.took h).pending = s.pending := by
  simp [State.took]

@[simp] theorem State.owe_pending (s : State) (p v : Nat) :
    (s.owe p v).pending = s.pending := by
  simp [State.owe]

@[simp] theorem State.deliverEarly_pending (s : State) (key : Nat) (x0 : Nat) :
    (s.deliverEarly key x0).pending = s.pending := by
  induction x0 generalizing s with
  | zero => rfl
  | succ n ih =>
    unfold State.deliverEarly
    dsimp only
    (repeat' split) <;> simp [ih, State.ite_pending] <;> (repeat' split) <;> simp [State.ite_pending]

@[simp] theorem State.inTurn_pending (s : State) (h : FrameHead) (b : FrameBody) :
    (s.inTurn h b).pending = s.pending := by
  unfold State.inTurn
  dsimp only
  (repeat' split) <;> simp

@[simp] theorem State.forward_pending (s : State) (h : FrameHead) (b : FrameBody) :
    (s.forward h b).pending = s.pending := by
  unfold State.forward
  split <;> simp

@[simp] theorem State.passOn_pending (s : State) (h : FrameHead) (b : FrameBody) : (s.passOn h b).pending = s.pending := by
  unfold State.passOn
  (repeat' split) <;> simp

@[simp] theorem State.castOn_pending (s : State) (h : FrameHead) (b : FrameBody) :
    (s.castOn h b).pending = s.pending := by
  unfold State.castOn
  dsimp only
  (repeat' split) <;> simp

@[simp] theorem State.receiveFrame_pending (s : State) (h : FrameHead) (b : FrameBody) :
    (s.receiveFrame h b).pending = s.pending := by
  unfold State.receiveFrame
  dsimp only
  split
  · rfl
  · split
    · simp
    · split <;> simp

/-! ## Memory is left alone -/

@[simp] theorem State.took_mem (s : State) (h : FrameHead) :
    (s.took h).mem = s.mem := by
  simp [State.took]

@[simp] theorem State.owe_mem (s : State) (p v : Nat) :
    (s.owe p v).mem = s.mem := by
  simp [State.owe]

@[simp] theorem State.forward_mem (s : State) (h : FrameHead) (b : FrameBody) :
    (s.forward h b).mem = s.mem := by
  unfold State.forward
  split <;> simp

/-! ## Memory keeps its canonical form -/

@[simp] theorem State.deliver_wf (s : State) (f : PeerFrame) (hw : s.mem.wf = true) :
    (s.deliver f).mem.wf = true := by
  unfold State.deliver
  (repeat' split) <;> simp [hw]

@[simp] theorem State.deliverEarly_wf (s : State) (key : Nat) (x0 : Nat) (hw : s.mem.wf = true) :
    (s.deliverEarly key x0).mem.wf = true := by
  induction x0 generalizing s with
  | zero => simp [State.deliverEarly, hw]
  | succ n ih =>
    unfold State.deliverEarly
    try dsimp only
    (repeat' split) <;> simp [*] <;> (repeat' split) <;> simp [*]

@[simp] theorem State.inTurn_wf (s : State) (h : FrameHead) (b : FrameBody) (hw : s.mem.wf = true) :
    (s.inTurn h b).mem.wf = true := by
  unfold State.inTurn
  try dsimp only
  (repeat' split) <;> simp [*] <;> (repeat' split) <;> simp [*]

@[simp] theorem State.passOn_mem (s : State) (h : FrameHead) (b : FrameBody) : (s.passOn h b).mem = s.mem := by
  unfold State.passOn
  (repeat' split) <;> simp

@[simp] theorem State.castOn_wf (s : State) (h : FrameHead) (b : FrameBody) (hw : s.mem.wf = true) :
    (s.castOn h b).mem.wf = true := by
  unfold State.castOn
  dsimp only
  (repeat' split) <;> simp [hw]

@[simp] theorem State.receiveFrame_wf (s : State) (h : FrameHead) (b : FrameBody) (hw : s.mem.wf = true) :
    (s.receiveFrame h b).mem.wf = true := by
  unfold State.receiveFrame
  dsimp only
  split
  · exact hw
  · split
    · simp [hw]
    · split <;> simp [hw]

/-! ## The retirement list is left alone (R362) -/

@[simp] theorem State.took_retired (s : State) (h : FrameHead) :
    (s.took h).health.retired = s.health.retired := by
  simp [State.took]

@[simp] theorem State.owe_retired (s : State) (p v : Nat) :
    (s.owe p v).health.retired = s.health.retired := by
  simp [State.owe]

@[simp] theorem State.forward_retired (s : State) (h : FrameHead) (b : FrameBody) :
    (s.forward h b).health.retired = s.health.retired := by
  unfold State.forward
  split <;> simp

/-! ## The retirement list keeps its entries (R362) -/

@[simp] theorem State.deliver_kept (s : State) (f : PeerFrame) {r₀ : List Nat} (hw : RetiredKept r₀ s.health.retired) :
    RetiredKept r₀ (s.deliver f).health.retired := by
  unfold State.deliver
  (repeat' split) <;> simp [hw]

@[simp] theorem State.deliverEarly_kept (s : State) (key : Nat) (x0 : Nat) {r₀ : List Nat} (hw : RetiredKept r₀ s.health.retired) :
    RetiredKept r₀ (s.deliverEarly key x0).health.retired := by
  induction x0 generalizing s with
  | zero => simp [State.deliverEarly, hw]
  | succ n ih =>
    unfold State.deliverEarly
    try dsimp only
    (repeat' split) <;> simp [*] <;> (repeat' split) <;> simp [*]

@[simp] theorem State.inTurn_kept (s : State) (h : FrameHead) (b : FrameBody) {r₀ : List Nat} (hw : RetiredKept r₀ s.health.retired) :
    RetiredKept r₀ (s.inTurn h b).health.retired := by
  unfold State.inTurn
  try dsimp only
  (repeat' split) <;> simp [*] <;> (repeat' split) <;> simp [*]

@[simp] theorem State.passOn_retired (s : State) (h : FrameHead) (b : FrameBody) :
    (s.passOn h b).health.retired = s.health.retired := by
  unfold State.passOn
  (repeat' split) <;> simp

@[simp] theorem State.castOn_kept (s : State) (h : FrameHead) (b : FrameBody) {r₀ : List Nat} (hw : RetiredKept r₀ s.health.retired) :
    RetiredKept r₀ (s.castOn h b).health.retired := by
  unfold State.castOn
  dsimp only
  (repeat' split) <;> simp [hw]

@[simp] theorem State.receiveFrame_kept (s : State) (h : FrameHead) (b : FrameBody) {r₀ : List Nat} (hw : RetiredKept r₀ s.health.retired) :
    RetiredKept r₀ (s.receiveFrame h b).health.retired := by
  unfold State.receiveFrame
  dsimp only
  split
  · exact hw
  · split
    · simp [hw]
    · split <;> simp [hw]

end Sys2Proof.Machine
end

