-- ==== Sys2Proof/WellFormed.lean ====
section
/-! DEFINITION. Which commands are well formed: the slot words hold the operation their command names and no reserved value
(R113 to R127), numbers and lists lie in the ranges of the spec. The meanings do not ask for it: a reserved value is ignored
(R129). -/

namespace Sys2Proof

open Sys2Proof.Machine

/-- ROW slot with operation op (R113). -/
def Row.wf (op : Nat) (w : Word32) : Bool := fld w 31 30 == op && fld w 25 16 == 0
/-- COL slot (R115). -/
def Col.wf (op : Nat) (w : Word32) : Bool := fld w 31 29 == op && fld w 7 1 == 0 && fld w 28 27 != 3
/-- MAC slot (R116). -/
def Mac.wf (w : Word32) : Bool := fld w 27 26 != 3 && fld w 25 23 != 7 && fld w 22 21 != 3
/-- VEC slot (R119, R120): CVTMX takes formats 2 to 7 only, and SCALE modifiers 0 and 1. -/
def Vec.wf (op : Nat) (w : Word32) : Bool :=
  fld w 31 27 == op && decide (fld w 3 0 ≤ 7) && (op != 8 || decide (2 ≤ fld w 3 0)) &&
    (decide (5 < op) || fld w 25 24 != 3) && (op != 4 || decide (fld w 25 24 < 2))
/-- XFER slot (R122). -/
def Xfer.wf (w : Word32) : Bool := fld w 31 30 != 3 && decide (fld w 29 25 ≤ 16)
/-- SYNC slot (R123): its operation, and 0 in the bits the operation does not use. -/
def Sync.wf (op : Nat) (w : Word32) : Bool :=
  fld w 31 28 == op &&
    (match op with
     | 1 => fld w 17 16 == 0 && fld w 15 0 != 0
     | 4 => fld w 18 0 == 0
     | 5 => fld w 19 0 == 0
     | 7 => fld w 20 0 == 0
     | 8 => fld w 27 0 == 0
     | 9 => fld w 27 16 == 0
     | _ => true)
/-- ADDR slot (R125). -/
def Addr.wf (op : Nat) (w : Word32) : Bool :=
  fld w 31 28 == op &&
    (match op with
     | 3 => true
     | 4 => fld w 27 26 == 0 || fld w 27 26 == 2
     | _ => fld w 12 0 == 0)
/-- CTRL slot of a COP (R127); engine of a LAUNCH. -/
def Ctrl.wf (cop engine : Nat) (w : Word32) : Bool :=
  match cop with
  | 1 => fld w 31 28 != 0 && fld w 25 16 == 0
  | 2 => fld w 29 24 == 0
  | 3 => fld w 29 22 == 0
  | 4 => fld w 29 22 == 0 && fld w 31 30 == engine
  | _ => true

/-- A box of banks lies in the module and is not reversed (R194). -/
def Box.wf (b : Box) : Bool :=
  decide (b.stackLo ≤ b.stackHi ∧ b.stackHi < 20 ∧ b.dieLo ≤ b.dieHi ∧ b.dieHi < 16 ∧ b.bankLo ≤ b.bankHi ∧ b.bankHi < 32)

/-- The fields of a time word lie within their widths (R20, R440). -/
def TimeWord.wf (t : TimeWord) : Bool :=
  decide (t.txTime < 2 ^ 64 ∧ t.depth < 256 ∧ t.echoTime < 2 ^ 64 ∧ t.turnaround < 2 ^ 32 ∧ t.bellPeriod < 2 ^ 32 ∧
    t.nextPeriod < 2 ^ 32 ∧ t.changeAt < 2 ^ 64 ∧ t.rosterVer < 2 ^ 32)

/-- The check on commands. -/
def Instr.wf (i : Instr) : Bool :=
  match i with
  | .issueWord _ late => late.all (fun u => decide (u < 10240))
  | .resultVisible b => b.late.all (fun u => decide (u < 10240))
  | .act _ _ _ w => Row.wf 1 w
  | .pre _ _ _ w => Row.wf 2 w
  | .prea _ _ _ w => Row.wf 3 w
  | .rd _ _ _ w => Col.wf 1 w
  | .rds _ _ _ w => Col.wf 2 w
  | .wr _ _ _ w => Col.wf 3 w
  | .wrm _ _ _ w => Col.wf 4 w
  | .mac _ _ _ w => Mac.wf w
  | .add _ _ _ w _ => Vec.wf 0 w
  | .mul _ _ _ w _ => Vec.wf 1 w
  | .max _ _ _ w _ => Vec.wf 2 w
  | .cmp _ _ _ w _ => Vec.wf 3 w
  | .scale _ _ _ w _ => Vec.wf 4 w
  | .exp2 _ _ _ w _ => Vec.wf 5 w
  | .cvt _ _ _ w _ => Vec.wf 6 w
  | .pack _ _ _ w _ => Vec.wf 7 w
  | .cvtmx _ _ _ w _ => Vec.wf 8 w
  | .out _ _ _ w _ => Vec.wf 9 w
  | .mask _ _ _ w _ => Vec.wf 10 w
  | .xfer _ _ _ w => Xfer.wf w
  | .hoist _ _ w => Sync.wf 1 w
  | .wait _ _ w => Sync.wf 2 w
  | .kadd _ _ w => Sync.wf 3 w
  | .rget _ _ w => Sync.wf 4 w
  | .rrel _ _ w => Sync.wf 5 w
  | .bell _ _ w => Sync.wf 6 w
  | .roll _ _ w => Sync.wf 7 w
  | .fence _ _ w => Sync.wf 8 w
  | .report _ _ w => Sync.wf 9 w
  | .agset _ _ w => Addr.wf 1 w
  | .agidx _ _ w => Addr.wf 2 w
  | .agskip _ _ w => Addr.wf 3 w
  | .xbase _ _ w => Addr.wf 4 w
  | .msk _ _ w => Ctrl.wf 1 0 w
  | .loop _ _ w => Ctrl.wf 2 0 w
  | .endl _ _ w => Ctrl.wf 3 0 w
  | .launchExchange _ _ w => Ctrl.wf 4 0 w
  | .launchMerge _ _ w => Ctrl.wf 4 1 w
  | .recessWord _ _ r => r.rclass != 3 && r.late.all (fun u => decide (u < 10240))
  | .plotCleared staging num => if staging then decide (num < 3072) else decide (num < 20 * 1048576)
  | .scrubColumn _ hard => decide (hard ≤ 8)
  | .commandRingWrite _ off bytes => decide (off.toNat + bytes.length ≤ 262144)
  | .cxlLinkUp width speed => [16, 8, 4].contains width.toNat && [64, 32, 16].contains speed.toNat
  | .alloc _ _ _ box _ => box.wf
  | .odRead _ _ _ off len => decide (off < 2 ^ 32 ∧ len < 2 ^ 32)
  | .ringJoin _ met => met.word.all TimeWord.wf
  | .idleFrame _ t _ _ => t.wf
  | .rosterFrame _ v entries => decide (v < 2 ^ 32) && entries.all (fun e => decide (e.pos < 64))
  | .fenceFrame _ _ v => decide (v < 2 ^ 32)
  | .hoistFrame _ _ amt => amt != 0
  | .kvWrite _ _ index column cols _ => decide (index < 2 ^ 32 ∧ column < 2 ^ 32 ∧ 1 ≤ cols.length ∧ cols.length ≤ 7)
  | .kvRead _ _ index column count => decide (index < 2 ^ 32 ∧ column < 2 ^ 32 ∧ 1 ≤ count ∧ count ≤ 7)
  | .kvData _ _ index column cols _ =>
    decide (index < 2 ^ 32 ∧ column < 2 ^ 32) && cols.all (fun c => decide (1 ≤ c.length ∧ c.length ≤ 7))
  | .mergePart _ _ _ off words _ => decide (off % 4 = 0 ∧ off < 2 ^ 32 ∧ words.length ≤ 56)
  | .mergeResult _ _ _ off words _ => decide (off % 4 = 0 ∧ off < 2 ^ 32 ∧ words.length ≤ 56)
  | _ => true

end Sys2Proof
end

