-- ==== Sys2Proof/Laws/PerInstr.lean ====
section
/-! SUPPORT. The per-command family SlotOperation: a well-formed slot word holds the operation its command names. -/

set_option Elab.async false

namespace Sys2Proof.Laws.SlotOperation

open Sys2Proof Sys2Proof.Machine

/-- The operation field of a slot command: its word, its highest and lowest bit, and the operation (R113, R115, R119, R123, R125,
R127); none for a command without one. -/
def field : Instr → Option (Word32 × Nat × Nat × Nat)
  | .act _ _ _ w => some (w, 31, 30, 1)
  | .pre _ _ _ w => some (w, 31, 30, 2)
  | .prea _ _ _ w => some (w, 31, 30, 3)
  | .rd _ _ _ w => some (w, 31, 29, 1)
  | .rds _ _ _ w => some (w, 31, 29, 2)
  | .wr _ _ _ w => some (w, 31, 29, 3)
  | .wrm _ _ _ w => some (w, 31, 29, 4)
  | .add _ _ _ w _ => some (w, 31, 27, 0)
  | .mul _ _ _ w _ => some (w, 31, 27, 1)
  | .max _ _ _ w _ => some (w, 31, 27, 2)
  | .cmp _ _ _ w _ => some (w, 31, 27, 3)
  | .scale _ _ _ w _ => some (w, 31, 27, 4)
  | .exp2 _ _ _ w _ => some (w, 31, 27, 5)
  | .cvt _ _ _ w _ => some (w, 31, 27, 6)
  | .pack _ _ _ w _ => some (w, 31, 27, 7)
  | .cvtmx _ _ _ w _ => some (w, 31, 27, 8)
  | .out _ _ _ w _ => some (w, 31, 27, 9)
  | .mask _ _ _ w _ => some (w, 31, 27, 10)
  | .hoist _ _ w => some (w, 31, 28, 1)
  | .wait _ _ w => some (w, 31, 28, 2)
  | .kadd _ _ w => some (w, 31, 28, 3)
  | .rget _ _ w => some (w, 31, 28, 4)
  | .rrel _ _ w => some (w, 31, 28, 5)
  | .bell _ _ w => some (w, 31, 28, 6)
  | .roll _ _ w => some (w, 31, 28, 7)
  | .fence _ _ w => some (w, 31, 28, 8)
  | .report _ _ w => some (w, 31, 28, 9)
  | .agset _ _ w => some (w, 31, 28, 1)
  | .agidx _ _ w => some (w, 31, 28, 2)
  | .agskip _ _ w => some (w, 31, 28, 3)
  | .xbase _ _ w => some (w, 31, 28, 4)
  | .launchExchange _ _ w => some (w, 31, 30, 0)
  | .launchMerge _ _ w => some (w, 31, 30, 1)
  | _ => none

/-- A well-formed command's operation field names its operation. -/
def Statement (i : Instr) : Prop :=
  i.wf = true → ∀ w hi lo op, field i = some (w, hi, lo, op) → fld w hi lo = op

theorem issueWord : ∀ x1 x2, Statement (.issueWord x1 x2) := by
  intros
  intro _ _ _ _ _ e
  cases e
theorem lateComplete : ∀ x1, Statement (.lateComplete x1) := by
  intros
  intro _ _ _ _ _ e
  cases e
theorem forcedCompletion : ∀ x1, Statement (.forcedCompletion x1) := by
  intros
  intro _ _ _ _ _ e
  cases e
theorem resultVisible : ∀ x1, Statement (.resultVisible x1) := by
  intros
  intro _ _ _ _ _ e
  cases e
theorem maskedWriteMerge : ∀ x1, Statement (.maskedWriteMerge x1) := by
  intros
  intro _ _ _ _ _ e
  cases e
theorem columnWriteDrain : ∀ x1, Statement (.columnWriteDrain x1) := by
  intros
  intro _ _ _ _ _ e
  cases e
theorem act : ∀ x1 x2 x3 x4, Statement (.act x1 x2 x3 x4) := by
  intros
  intro h w hi lo op e
  cases e
  simp_all [Instr.wf, Row.wf]
theorem pre : ∀ x1 x2 x3 x4, Statement (.pre x1 x2 x3 x4) := by
  intros
  intro h w hi lo op e
  cases e
  simp_all [Instr.wf, Row.wf]
theorem prea : ∀ x1 x2 x3 x4, Statement (.prea x1 x2 x3 x4) := by
  intros
  intro h w hi lo op e
  cases e
  simp_all [Instr.wf, Row.wf]
theorem rd : ∀ x1 x2 x3 x4, Statement (.rd x1 x2 x3 x4) := by
  intros
  intro h w hi lo op e
  cases e
  simp_all [Instr.wf, Col.wf]
theorem rds : ∀ x1 x2 x3 x4, Statement (.rds x1 x2 x3 x4) := by
  intros
  intro h w hi lo op e
  cases e
  simp_all [Instr.wf, Col.wf]
theorem wr : ∀ x1 x2 x3 x4, Statement (.wr x1 x2 x3 x4) := by
  intros
  intro h w hi lo op e
  cases e
  simp_all [Instr.wf, Col.wf]
theorem wrm : ∀ x1 x2 x3 x4, Statement (.wrm x1 x2 x3 x4) := by
  intros
  intro h w hi lo op e
  cases e
  simp_all [Instr.wf, Col.wf]
theorem mac : ∀ x1 x2 x3 x4, Statement (.mac x1 x2 x3 x4) := by
  intros
  intro _ _ _ _ _ e
  cases e
theorem add : ∀ x1 x2 x3 x4 x5, Statement (.add x1 x2 x3 x4 x5) := by
  intros
  intro h w hi lo op e
  cases e
  simp_all [Instr.wf, Vec.wf]
theorem mul : ∀ x1 x2 x3 x4 x5, Statement (.mul x1 x2 x3 x4 x5) := by
  intros
  intro h w hi lo op e
  cases e
  simp_all [Instr.wf, Vec.wf]
theorem max : ∀ x1 x2 x3 x4 x5, Statement (.max x1 x2 x3 x4 x5) := by
  intros
  intro h w hi lo op e
  cases e
  simp_all [Instr.wf, Vec.wf]
theorem cmp : ∀ x1 x2 x3 x4 x5, Statement (.cmp x1 x2 x3 x4 x5) := by
  intros
  intro h w hi lo op e
  cases e
  simp_all [Instr.wf, Vec.wf]
theorem scale : ∀ x1 x2 x3 x4 x5, Statement (.scale x1 x2 x3 x4 x5) := by
  intros
  intro h w hi lo op e
  cases e
  simp_all [Instr.wf, Vec.wf]
theorem exp2 : ∀ x1 x2 x3 x4 x5, Statement (.exp2 x1 x2 x3 x4 x5) := by
  intros
  intro h w hi lo op e
  cases e
  simp_all [Instr.wf, Vec.wf]
theorem cvt : ∀ x1 x2 x3 x4 x5, Statement (.cvt x1 x2 x3 x4 x5) := by
  intros
  intro h w hi lo op e
  cases e
  simp_all [Instr.wf, Vec.wf]
theorem pack : ∀ x1 x2 x3 x4 x5, Statement (.pack x1 x2 x3 x4 x5) := by
  intros
  intro h w hi lo op e
  cases e
  simp_all [Instr.wf, Vec.wf]
theorem cvtmx : ∀ x1 x2 x3 x4 x5, Statement (.cvtmx x1 x2 x3 x4 x5) := by
  intros
  intro h w hi lo op e
  cases e
  simp_all [Instr.wf, Vec.wf]
theorem out : ∀ x1 x2 x3 x4 x5, Statement (.out x1 x2 x3 x4 x5) := by
  intros
  intro h w hi lo op e
  cases e
  simp_all [Instr.wf, Vec.wf]
theorem mask : ∀ x1 x2 x3 x4 x5, Statement (.mask x1 x2 x3 x4 x5) := by
  intros
  intro h w hi lo op e
  cases e
  simp_all [Instr.wf, Vec.wf]
theorem xfer : ∀ x1 x2 x3 x4, Statement (.xfer x1 x2 x3 x4) := by
  intros
  intro _ _ _ _ _ e
  cases e
theorem hoist : ∀ x1 x2 x3, Statement (.hoist x1 x2 x3) := by
  intros
  intro h w hi lo op e
  cases e
  simp_all [Instr.wf, Sync.wf]
theorem wait : ∀ x1 x2 x3, Statement (.wait x1 x2 x3) := by
  intros
  intro h w hi lo op e
  cases e
  simp_all [Instr.wf, Sync.wf]
theorem kadd : ∀ x1 x2 x3, Statement (.kadd x1 x2 x3) := by
  intros
  intro h w hi lo op e
  cases e
  simp_all [Instr.wf, Sync.wf]
theorem rget : ∀ x1 x2 x3, Statement (.rget x1 x2 x3) := by
  intros
  intro h w hi lo op e
  cases e
  simp_all [Instr.wf, Sync.wf]
theorem rrel : ∀ x1 x2 x3, Statement (.rrel x1 x2 x3) := by
  intros
  intro h w hi lo op e
  cases e
  simp_all [Instr.wf, Sync.wf]
theorem bell : ∀ x1 x2 x3, Statement (.bell x1 x2 x3) := by
  intros
  intro h w hi lo op e
  cases e
  simp_all [Instr.wf, Sync.wf]
theorem roll : ∀ x1 x2 x3, Statement (.roll x1 x2 x3) := by
  intros
  intro h w hi lo op e
  cases e
  simp_all [Instr.wf, Sync.wf]
theorem fence : ∀ x1 x2 x3, Statement (.fence x1 x2 x3) := by
  intros
  intro h w hi lo op e
  cases e
  simp_all [Instr.wf, Sync.wf]
theorem report : ∀ x1 x2 x3, Statement (.report x1 x2 x3) := by
  intros
  intro h w hi lo op e
  cases e
  simp_all [Instr.wf, Sync.wf]
theorem agset : ∀ x1 x2 x3, Statement (.agset x1 x2 x3) := by
  intros
  intro h w hi lo op e
  cases e
  simp_all [Instr.wf, Addr.wf]
theorem agidx : ∀ x1 x2 x3, Statement (.agidx x1 x2 x3) := by
  intros
  intro h w hi lo op e
  cases e
  simp_all [Instr.wf, Addr.wf]
theorem agskip : ∀ x1 x2 x3, Statement (.agskip x1 x2 x3) := by
  intros
  intro h w hi lo op e
  cases e
  simp_all [Instr.wf, Addr.wf]
theorem xbase : ∀ x1 x2 x3, Statement (.xbase x1 x2 x3) := by
  intros
  intro h w hi lo op e
  cases e
  simp_all [Instr.wf, Addr.wf]
theorem msk : ∀ x1 x2 x3, Statement (.msk x1 x2 x3) := by
  intros
  intro _ _ _ _ _ e
  cases e
theorem loop : ∀ x1 x2 x3, Statement (.loop x1 x2 x3) := by
  intros
  intro _ _ _ _ _ e
  cases e
theorem endl : ∀ x1 x2 x3, Statement (.endl x1 x2 x3) := by
  intros
  intro _ _ _ _ _ e
  cases e
theorem launchExchange : ∀ x1 x2 x3, Statement (.launchExchange x1 x2 x3) := by
  intros
  intro h w hi lo op e
  cases e
  simp_all [Instr.wf, Ctrl.wf]
theorem launchMerge : ∀ x1 x2 x3, Statement (.launchMerge x1 x2 x3) := by
  intros
  intro h w hi lo op e
  cases e
  simp_all [Instr.wf, Ctrl.wf]
theorem recessWord : ∀ x1 x2 x3, Statement (.recessWord x1 x2 x3) := by
  intros
  intro _ _ _ _ _ e
  cases e
theorem endWord : ∀ x1 x2, Statement (.endWord x1 x2) := by
  intros
  intro _ _ _ _ _ e
  cases e
theorem dismissalComplete : ∀ x1, Statement (.dismissalComplete x1) := by
  intros
  intro _ _ _ _ _ e
  cases e
theorem freqChangeComplete : ∀ x1, Statement (.freqChangeComplete x1) := by
  intros
  intro _ _ _ _ _ e
  cases e
theorem bellRing : Statement .bellRing := by
  intro _ _ _ _ _ e
  cases e
theorem contextSwitch : ∀ x1, Statement (.contextSwitch x1) := by
  intros
  intro _ _ _ _ _ e
  cases e
theorem quantumExpiry : ∀ x1, Statement (.quantumExpiry x1) := by
  intros
  intro _ _ _ _ _ e
  cases e
theorem scoreboardGrant : ∀ x1, Statement (.scoreboardGrant x1) := by
  intros
  intro _ _ _ _ _ e
  cases e
theorem copy : ∀ x1 x2, Statement (.copy x1 x2) := by
  intros
  intro _ _ _ _ _ e
  cases e
theorem gather : ∀ x1 x2, Statement (.gather x1 x2) := by
  intros
  intro _ _ _ _ _ e
  cases e
theorem scatter : ∀ x1 x2, Statement (.scatter x1 x2) := by
  intros
  intro _ _ _ _ _ e
  cases e
theorem transposeBufferGrant : ∀ x1, Statement (.transposeBufferGrant x1) := by
  intros
  intro _ _ _ _ _ e
  cases e
theorem copyShareEnd : ∀ x1 x2, Statement (.copyShareEnd x1 x2) := by
  intros
  intro _ _ _ _ _ e
  cases e
theorem merge : ∀ x1 x2, Statement (.merge x1 x2) := by
  intros
  intro _ _ _ _ _ e
  cases e
theorem topk : ∀ x1 x2, Statement (.topk x1 x2) := by
  intros
  intro _ _ _ _ _ e
  cases e
theorem sample : ∀ x1 x2, Statement (.sample x1 x2) := by
  intros
  intro _ _ _ _ _ e
  cases e
theorem route : ∀ x1 x2, Statement (.route x1 x2) := by
  intros
  intro _ _ _ _ _ e
  cases e
theorem mergeShareEnd : ∀ x1 x2, Statement (.mergeShareEnd x1 x2) := by
  intros
  intro _ _ _ _ _ e
  cases e
theorem loadComplete : ∀ x1, Statement (.loadComplete x1) := by
  intros
  intro _ _ _ _ _ e
  cases e
theorem loadBegin : ∀ x1, Statement (.loadBegin x1) := by
  intros
  intro _ _ _ _ _ e
  cases e
theorem ctxResetComplete : ∀ x1, Statement (.ctxResetComplete x1) := by
  intros
  intro _ _ _ _ _ e
  cases e
theorem plotCleared : ∀ x1 x2, Statement (.plotCleared x1 x2) := by
  intros
  intro _ _ _ _ _ e
  cases e
theorem refreshDue : ∀ x1, Statement (.refreshDue x1) := by
  intros
  intro _ _ _ _ _ e
  cases e
theorem neighbourDeadline : ∀ x1, Statement (.neighbourDeadline x1) := by
  intros
  intro _ _ _ _ _ e
  cases e
theorem idleRefresh : ∀ x1, Statement (.idleRefresh x1) := by
  intros
  intro _ _ _ _ _ e
  cases e
theorem scrubColumn : ∀ x1 x2, Statement (.scrubColumn x1 x2) := by
  intros
  intro _ _ _ _ _ e
  cases e
theorem delaySetTimeout : ∀ x1, Statement (.delaySetTimeout x1) := by
  intros
  intro _ _ _ _ _ e
  cases e
theorem linkAlert : ∀ x1 x2, Statement (.linkAlert x1 x2) := by
  intros
  intro _ _ _ _ _ e
  cases e
theorem stackLinkRecoveryDone : ∀ x1 x2, Statement (.stackLinkRecoveryDone x1 x2) := by
  intros
  intro _ _ _ _ _ e
  cases e
theorem slateRead : ∀ x1 x2, Statement (.slateRead x1 x2) := by
  intros
  intro _ _ _ _ _ e
  cases e
theorem slateWrite : ∀ x1 x2 x3, Statement (.slateWrite x1 x2 x3) := by
  intros
  intro _ _ _ _ _ e
  cases e
theorem fullMapAccess : ∀ x1 x2 x3, Statement (.fullMapAccess x1 x2 x3) := by
  intros
  intro _ _ _ _ _ e
  cases e
theorem slateHold : ∀ x1, Statement (.slateHold x1) := by
  intros
  intro _ _ _ _ _ e
  cases e
theorem paneWrite : ∀ x1 x2, Statement (.paneWrite x1 x2) := by
  intros
  intro _ _ _ _ _ e
  cases e
theorem doorbell : ∀ x1 x2, Statement (.doorbell x1 x2) := by
  intros
  intro _ _ _ _ _ e
  cases e
theorem commandRingWrite : ∀ x1 x2 x3, Statement (.commandRingWrite x1 x2 x3) := by
  intros
  intro _ _ _ _ _ e
  cases e
theorem doorbellHoldExpiry : ∀ x1, Statement (.doorbellHoldExpiry x1) := by
  intros
  intro _ _ _ _ _ e
  cases e
theorem ringReinit : ∀ x1 x2, Statement (.ringReinit x1 x2) := by
  intros
  intro _ _ _ _ _ e
  cases e
theorem ackHostLost : ∀ x1, Statement (.ackHostLost x1) := by
  intros
  intro _ _ _ _ _ e
  cases e
theorem reportCfgWrite : ∀ x1 x2, Statement (.reportCfgWrite x1 x2) := by
  intros
  intro _ _ _ _ _ e
  cases e
theorem reportHeadWrite : ∀ x1 x2, Statement (.reportHeadWrite x1 x2) := by
  intros
  intro _ _ _ _ _ e
  cases e
theorem reportWrite : ∀ x1, Statement (.reportWrite x1) := by
  intros
  intro _ _ _ _ _ e
  cases e
theorem msixDelayExpiry : ∀ x1, Statement (.msixDelayExpiry x1) := by
  intros
  intro _ _ _ _ _ e
  cases e
theorem penHoist : ∀ x1 x2, Statement (.penHoist x1 x2) := by
  intros
  intro _ _ _ _ _ e
  cases e
theorem rollArrive : ∀ x1 x2, Statement (.rollArrive x1 x2) := by
  intros
  intro _ _ _ _ _ e
  cases e
theorem watchArm : ∀ x1 x2 x3 x4 x5 x6, Statement (.watchArm x1 x2 x3 x4 x5 x6) := by
  intros
  intro _ _ _ _ _ e
  cases e
theorem watchLimitExpiry : ∀ x1 x2, Statement (.watchLimitExpiry x1 x2) := by
  intros
  intro _ _ _ _ _ e
  cases e
theorem waitTimeout : ∀ x1 x2, Statement (.waitTimeout x1 x2) := by
  intros
  intro _ _ _ _ _ e
  cases e
theorem saturationInterval : ∀ x1 x2, Statement (.saturationInterval x1 x2) := by
  intros
  intro _ _ _ _ _ e
  cases e
theorem cxlLinkRecovery : Statement .cxlLinkRecovery := by
  intro _ _ _ _ _ e
  cases e
theorem cxlLinkDown : Statement .cxlLinkDown := by
  intro _ _ _ _ _ e
  cases e
theorem cxlLinkUp : ∀ x1 x2, Statement (.cxlLinkUp x1 x2) := by
  intros
  intro _ _ _ _ _ e
  cases e
theorem hostLossTimeout : Statement .hostLossTimeout := by
  intro _ _ _ _ _ e
  cases e
theorem perstN : Statement .perstN := by
  intro _ _ _ _ _ e
  cases e
theorem cxlHotReset : Statement .cxlHotReset := by
  intro _ _ _ _ _ e
  cases e
theorem functionLevelReset : Statement .functionLevelReset := by
  intro _ _ _ _ _ e
  cases e
theorem sessionOpen : ∀ x1 x2 x3, Statement (.sessionOpen x1 x2 x3) := by
  intros
  intro _ _ _ _ _ e
  cases e
theorem sessionLockoutExpiry : Statement .sessionLockoutExpiry := by
  intro _ _ _ _ _ e
  cases e
theorem sessionClose : ∀ x1, Statement (.sessionClose x1) := by
  intros
  intro _ _ _ _ _ e
  cases e
theorem ctxCreate : ∀ x1 x2 x3, Statement (.ctxCreate x1 x2 x3) := by
  intros
  intro _ _ _ _ _ e
  cases e
theorem ctxDestroy : ∀ x1 x2, Statement (.ctxDestroy x1 x2) := by
  intros
  intro _ _ _ _ _ e
  cases e
theorem ctxReset : ∀ x1 x2, Statement (.ctxReset x1 x2) := by
  intros
  intro _ _ _ _ _ e
  cases e
theorem quadMode : ∀ x1 x2 x3, Statement (.quadMode x1 x2 x3) := by
  intros
  intro _ _ _ _ _ e
  cases e
theorem alloc : ∀ x1 x2 x3 x4 x5, Statement (.alloc x1 x2 x3 x4 x5) := by
  intros
  intro _ _ _ _ _ e
  cases e
theorem free : ∀ x1 x2 x3, Statement (.free x1 x2 x3) := by
  intros
  intro _ _ _ _ _ e
  cases e
theorem descCreate : ∀ x1 x2 x3 x4, Statement (.descCreate x1 x2 x3 x4) := by
  intros
  intro _ _ _ _ _ e
  cases e
theorem descDestroy : ∀ x1 x2 x3, Statement (.descDestroy x1 x2 x3) := by
  intros
  intro _ _ _ _ _ e
  cases e
theorem descRead : ∀ x1 x2 x3, Statement (.descRead x1 x2 x3) := by
  intros
  intro _ _ _ _ _ e
  cases e
theorem descClearPoison : ∀ x1 x2 x3, Statement (.descClearPoison x1 x2 x3) := by
  intros
  intro _ _ _ _ _ e
  cases e
theorem load : ∀ x1 x2 x3, Statement (.load x1 x2 x3) := by
  intros
  intro _ _ _ _ _ e
  cases e
theorem halfRead : ∀ x1 x2 x3 x4 x5 x6, Statement (.halfRead x1 x2 x3 x4 x5 x6) := by
  intros
  intro _ _ _ _ _ e
  cases e
theorem penCreate : ∀ x1 x2 x3 x4, Statement (.penCreate x1 x2 x3 x4) := by
  intros
  intro _ _ _ _ _ e
  cases e
theorem penBind : ∀ x1 x2 x3 x4 x5 x6, Statement (.penBind x1 x2 x3 x4 x5 x6) := by
  intros
  intro _ _ _ _ _ e
  cases e
theorem penUnbind : ∀ x1 x2 x3, Statement (.penUnbind x1 x2 x3) := by
  intros
  intro _ _ _ _ _ e
  cases e
theorem penShare : ∀ x1 x2 x3 x4 x5, Statement (.penShare x1 x2 x3 x4 x5) := by
  intros
  intro _ _ _ _ _ e
  cases e
theorem rollCreate : ∀ x1 x2 x3 x4 x5 x6, Statement (.rollCreate x1 x2 x3 x4 x5 x6) := by
  intros
  intro _ _ _ _ _ e
  cases e
theorem rollBind : ∀ x1 x2 x3 x4, Statement (.rollBind x1 x2 x3 x4) := by
  intros
  intro _ _ _ _ _ e
  cases e
theorem rollUnbind : ∀ x1 x2 x3, Statement (.rollUnbind x1 x2 x3) := by
  intros
  intro _ _ _ _ _ e
  cases e
theorem odRead : ∀ x1 x2 x3 x4 x5, Statement (.odRead x1 x2 x3 x4 x5) := by
  intros
  intro _ _ _ _ _ e
  cases e
theorem odWrite : ∀ x1 x2 x3 x4, Statement (.odWrite x1 x2 x3 x4) := by
  intros
  intro _ _ _ _ _ e
  cases e
theorem registerWrite : ∀ x1, Statement (.registerWrite x1) := by
  intros
  intro _ _ _ _ _ e
  cases e
theorem snapshotExpiry : ∀ x1, Statement (.snapshotExpiry x1) := by
  intros
  intro _ _ _ _ _ e
  cases e
theorem identifyMemoryDevice : Statement .identifyMemoryDevice := by
  intro _ _ _ _ _ e
  cases e
theorem getHealthInfo : Statement .getHealthInfo := by
  intro _ _ _ _ _ e
  cases e
theorem getEventRecords : ∀ x1, Statement (.getEventRecords x1) := by
  intros
  intro _ _ _ _ _ e
  cases e
theorem clearEventRecords : ∀ x1, Statement (.clearEventRecords x1) := by
  intros
  intro _ _ _ _ _ e
  cases e
theorem getTimestamp : Statement .getTimestamp := by
  intro _ _ _ _ _ e
  cases e
theorem setTimestamp : ∀ x1, Statement (.setTimestamp x1) := by
  intros
  intro _ _ _ _ _ e
  cases e
theorem getSupportedLogs : Statement .getSupportedLogs := by
  intro _ _ _ _ _ e
  cases e
theorem getLog : Statement .getLog := by
  intro _ _ _ _ _ e
  cases e
theorem getFwInfo : Statement .getFwInfo := by
  intro _ _ _ _ _ e
  cases e
theorem transferFw : ∀ x1 x2 x3 x4, Statement (.transferFw x1 x2 x3 x4) := by
  intros
  intro _ _ _ _ _ e
  cases e
theorem activateFw : ∀ x1 x2, Statement (.activateFw x1 x2) := by
  intros
  intro _ _ _ _ _ e
  cases e
theorem getVersion : Statement .getVersion := by
  intro _ _ _ _ _ e
  cases e
theorem getCapabilities : Statement .getCapabilities := by
  intro _ _ _ _ _ e
  cases e
theorem negotiateAlgorithms : ∀ x1 x2, Statement (.negotiateAlgorithms x1 x2) := by
  intros
  intro _ _ _ _ _ e
  cases e
theorem getDigests : Statement .getDigests := by
  intro _ _ _ _ _ e
  cases e
theorem getCertificate : ∀ x1 x2 x3, Statement (.getCertificate x1 x2 x3) := by
  intros
  intro _ _ _ _ _ e
  cases e
theorem challenge : ∀ x1 x2, Statement (.challenge x1 x2) := by
  intros
  intro _ _ _ _ _ e
  cases e
theorem getMeasurements : ∀ x1 x2 x3, Statement (.getMeasurements x1 x2 x3) := by
  intros
  intro _ _ _ _ _ e
  cases e
theorem startRemoteNode : Statement .startRemoteNode := by
  intro _ _ _ _ _ e
  cases e
theorem stopRemoteNode : Statement .stopRemoteNode := by
  intro _ _ _ _ _ e
  cases e
theorem enterPreOperational : Statement .enterPreOperational := by
  intro _ _ _ _ _ e
  cases e
theorem resetCommunication : Statement .resetCommunication := by
  intro _ _ _ _ _ e
  cases e
theorem resetNode : Statement .resetNode := by
  intro _ _ _ _ _ e
  cases e
theorem usdoDownload : ∀ x1 x2 x3 x4, Statement (.usdoDownload x1 x2 x3 x4) := by
  intros
  intro _ _ _ _ _ e
  cases e
theorem usdoUpload : ∀ x1 x2, Statement (.usdoUpload x1 x2) := by
  intros
  intro _ _ _ _ _ e
  cases e
theorem usdoSegmentTimeout : Statement .usdoSegmentTimeout := by
  intro _ _ _ _ _ e
  cases e
theorem heartbeat : Statement .heartbeat := by
  intro _ _ _ _ _ e
  cases e
theorem tpdo : ∀ x1, Statement (.tpdo x1) := by
  intros
  intro _ _ _ _ _ e
  cases e
theorem emcySend : Statement .emcySend := by
  intro _ _ _ _ _ e
  cases e
theorem busOffRecovery : Statement .busOffRecovery := by
  intro _ _ _ _ _ e
  cases e
theorem store : ∀ x1, Statement (.store x1) := by
  intros
  intro _ _ _ _ _ e
  cases e
theorem restore : ∀ x1, Statement (.restore x1) := by
  intros
  intro _ _ _ _ _ e
  cases e
theorem nextSlotWrite : ∀ x1, Statement (.nextSlotWrite x1) := by
  intros
  intro _ _ _ _ _ e
  cases e
theorem errorCountClear : ∀ x1, Statement (.errorCountClear x1) := by
  intros
  intro _ _ _ _ _ e
  cases e
theorem errLogClear : ∀ x1, Statement (.errLogClear x1) := by
  intros
  intro _ _ _ _ _ e
  cases e
theorem modReset : ∀ x1, Statement (.modReset x1) := by
  intros
  intro _ _ _ _ _ e
  cases e
theorem credentialDigestWrite : ∀ x1 x2 x3, Statement (.credentialDigestWrite x1 x2 x3) := by
  intros
  intro _ _ _ _ _ e
  cases e
theorem hazardLogClear : ∀ x1 x2 x3, Statement (.hazardLogClear x1 x2 x3) := by
  intros
  intro _ _ _ _ _ e
  cases e
theorem rdThresholdWrite : ∀ x1 x2, Statement (.rdThresholdWrite x1 x2) := by
  intros
  intro _ _ _ _ _ e
  cases e
theorem pwrBudgetWrite : ∀ x1 x2, Statement (.pwrBudgetWrite x1 x2) := by
  intros
  intro _ _ _ _ _ e
  cases e
theorem orderingWrite : ∀ x1, Statement (.orderingWrite x1) := by
  intros
  intro _ _ _ _ _ e
  cases e
theorem fullMapWrite : ∀ x1 x2, Statement (.fullMapWrite x1 x2) := by
  intros
  intro _ _ _ _ _ e
  cases e
theorem bellPeriodWrite : ∀ x1, Statement (.bellPeriodWrite x1) := by
  intros
  intro _ _ _ _ _ e
  cases e
theorem bellPeriodChange : Statement .bellPeriodChange := by
  intro _ _ _ _ _ e
  cases e
theorem clkAck : ∀ x1, Statement (.clkAck x1) := by
  intros
  intro _ _ _ _ _ e
  cases e
theorem fmcStart : ∀ x1, Statement (.fmcStart x1) := by
  intros
  intro _ _ _ _ _ e
  cases e
theorem fmcDone : ∀ x1, Statement (.fmcDone x1) := by
  intros
  intro _ _ _ _ _ e
  cases e
theorem fmcReferenceStall : Statement .fmcReferenceStall := by
  intro _ _ _ _ _ e
  cases e
theorem gateClose : ∀ x1, Statement (.gateClose x1) := by
  intros
  intro _ _ _ _ _ e
  cases e
theorem gateClosed : ∀ x1, Statement (.gateClosed x1) := by
  intros
  intro _ _ _ _ _ e
  cases e
theorem gateTimeout : ∀ x1, Statement (.gateTimeout x1) := by
  intros
  intro _ _ _ _ _ e
  cases e
theorem gateOpen : ∀ x1, Statement (.gateOpen x1) := by
  intros
  intro _ _ _ _ _ e
  cases e
theorem gateOpened : ∀ x1, Statement (.gateOpened x1) := by
  intros
  intro _ _ _ _ _ e
  cases e
theorem quadIdleGateExpiry : ∀ x1, Statement (.quadIdleGateExpiry x1) := by
  intros
  intro _ _ _ _ _ e
  cases e
theorem auxPowerGood : Statement .auxPowerGood := by
  intro _ _ _ _ _ e
  cases e
theorem auxPowerLoss : Statement .auxPowerLoss := by
  intro _ _ _ _ _ e
  cases e
theorem modResetN : Statement .modResetN := by
  intro _ _ _ _ _ e
  cases e
theorem mainInputPresent : Statement .mainInputPresent := by
  intro _ _ _ _ _ e
  cases e
theorem mainInputLost : Statement .mainInputLost := by
  intro _ _ _ _ _ e
  cases e
theorem pwrBrakeN : ∀ x1, Statement (.pwrBrakeN x1) := by
  intros
  intro _ _ _ _ _ e
  cases e
theorem xtalStartAttempt : Statement .xtalStartAttempt := by
  intro _ _ _ _ _ e
  cases e
theorem xtalAttemptTimeout : Statement .xtalAttemptTimeout := by
  intro _ _ _ _ _ e
  cases e
theorem stabilityMeasurement : ∀ x1, Statement (.stabilityMeasurement x1) := by
  intros
  intro _ _ _ _ _ e
  cases e
theorem xtalNoEdge : Statement .xtalNoEdge := by
  intro _ _ _ _ _ e
  cases e
theorem tripJudgement : ∀ x1 x2 x3, Statement (.tripJudgement x1 x2 x3) := by
  intros
  intro _ _ _ _ _ e
  cases e
theorem stageB2 : Statement .stageB2 := by
  intro _ _ _ _ _ e
  cases e
theorem stageB3 : Statement .stageB3 := by
  intro _ _ _ _ _ e
  cases e
theorem stageB4 : Statement .stageB4 := by
  intro _ _ _ _ _ e
  cases e
theorem stageB5 : Statement .stageB5 := by
  intro _ _ _ _ _ e
  cases e
theorem stageB6 : Statement .stageB6 := by
  intro _ _ _ _ _ e
  cases e
theorem stageB7 : Statement .stageB7 := by
  intro _ _ _ _ _ e
  cases e
theorem sensorConversion : ∀ x1 x2, Statement (.sensorConversion x1 x2) := by
  intros
  intro _ _ _ _ _ e
  cases e
theorem pmbusPoll : ∀ x1 x2 x3 x4 x5, Statement (.pmbusPoll x1 x2 x3 x4 x5) := by
  intros
  intro _ _ _ _ _ e
  cases e
theorem budgetTick : Statement .budgetTick := by
  intro _ _ _ _ _ e
  cases e
theorem inputCeilingAlert : Statement .inputCeilingAlert := by
  intro _ _ _ _ _ e
  cases e
theorem budgetUnmet : Statement .budgetUnmet := by
  intro _ _ _ _ _ e
  cases e
theorem bypassTimerExpiry : Statement .bypassTimerExpiry := by
  intro _ _ _ _ _ e
  cases e
theorem ringJoin : ∀ x1 x2, Statement (.ringJoin x1 x2) := by
  intros
  intro _ _ _ _ _ e
  cases e
theorem ringLeave : Statement .ringLeave := by
  intro _ _ _ _ _ e
  cases e
theorem idleSend : ∀ x1, Statement (.idleSend x1) := by
  intros
  intro _ _ _ _ _ e
  cases e
theorem idleFrame : ∀ x1 x2 x3 x4, Statement (.idleFrame x1 x2 x3 x4) := by
  intros
  intro _ _ _ _ _ e
  cases e
theorem joinFrame : ∀ x1 x2 x3 x4, Statement (.joinFrame x1 x2 x3 x4) := by
  intros
  intro _ _ _ _ _ e
  cases e
theorem rosterFrame : ∀ x1 x2 x3, Statement (.rosterFrame x1 x2 x3) := by
  intros
  intro _ _ _ _ _ e
  cases e
theorem fenceFrame : ∀ x1 x2 x3, Statement (.fenceFrame x1 x2 x3) := by
  intros
  intro _ _ _ _ _ e
  cases e
theorem hoistFrame : ∀ x1 x2 x3, Statement (.hoistFrame x1 x2 x3) := by
  intros
  intro _ _ _ _ _ e
  cases e
theorem penSub : ∀ x1 x2 x3, Statement (.penSub x1 x2 x3) := by
  intros
  intro _ _ _ _ _ e
  cases e
theorem penUpdate : ∀ x1 x2 x3 x4, Statement (.penUpdate x1 x2 x3 x4) := by
  intros
  intro _ _ _ _ _ e
  cases e
theorem penBindFrame : ∀ x1 x2 x3 x4, Statement (.penBindFrame x1 x2 x3 x4) := by
  intros
  intro _ _ _ _ _ e
  cases e
theorem rollArriveFrame : ∀ x1 x2 x3, Statement (.rollArriveFrame x1 x2 x3) := by
  intros
  intro _ _ _ _ _ e
  cases e
theorem rollReleaseFrame : ∀ x1 x2 x3 x4, Statement (.rollReleaseFrame x1 x2 x3 x4) := by
  intros
  intro _ _ _ _ _ e
  cases e
theorem kvWrite : ∀ x1 x2 x3 x4 x5 x6, Statement (.kvWrite x1 x2 x3 x4 x5 x6) := by
  intros
  intro _ _ _ _ _ e
  cases e
theorem kvRead : ∀ x1 x2 x3 x4 x5, Statement (.kvRead x1 x2 x3 x4 x5) := by
  intros
  intro _ _ _ _ _ e
  cases e
theorem kvData : ∀ x1 x2 x3 x4 x5 x6, Statement (.kvData x1 x2 x3 x4 x5 x6) := by
  intros
  intro _ _ _ _ _ e
  cases e
theorem kvAck : ∀ x1 x2 x3 x4, Statement (.kvAck x1 x2 x3 x4) := by
  intros
  intro _ _ _ _ _ e
  cases e
theorem mergePart : ∀ x1 x2 x3 x4 x5 x6, Statement (.mergePart x1 x2 x3 x4 x5 x6) := by
  intros
  intro _ _ _ _ _ e
  cases e
theorem mergeResult : ∀ x1 x2 x3 x4 x5 x6, Statement (.mergeResult x1 x2 x3 x4 x5 x6) := by
  intros
  intro _ _ _ _ _ e
  cases e
theorem frameCrcError : ∀ x1 x2, Statement (.frameCrcError x1 x2) := by
  intros
  intro _ _ _ _ _ e
  cases e
theorem neighbourSilence : ∀ x1, Statement (.neighbourSilence x1) := by
  intros
  intro _ _ _ _ _ e
  cases e
theorem masterLost : Statement .masterLost := by
  intro _ _ _ _ _ e
  cases e
theorem electionTimeout : Statement .electionTimeout := by
  intro _ _ _ _ _ e
  cases e
theorem holdoverExpiry : Statement .holdoverExpiry := by
  intro _ _ _ _ _ e
  cases e
theorem portTrainTimeout : ∀ x1, Statement (.portTrainTimeout x1) := by
  intros
  intro _ _ _ _ _ e
  cases e
theorem portCodewordLimit : ∀ x1, Statement (.portCodewordLimit x1) := by
  intros
  intro _ _ _ _ _ e
  cases e
theorem portRetrain : ∀ x1, Statement (.portRetrain x1) := by
  intros
  intro _ _ _ _ _ e
  cases e
theorem laneFailure : ∀ x1 x2, Statement (.laneFailure x1 x2) := by
  intros
  intro _ _ _ _ _ e
  cases e
theorem perstNDeassert : Statement .perstNDeassert := by
  intro _ _ _ _ _ e
  cases e
theorem modResetNDeassert : Statement .modResetNDeassert := by
  intro _ _ _ _ _ e
  cases e
theorem portLinkDown : ∀ x1, Statement (.portLinkDown x1) := by
  intros
  intro _ _ _ _ _ e
  cases e
theorem portLinkUp : ∀ x1, Statement (.portLinkUp x1) := by
  intros
  intro _ _ _ _ _ e
  cases e
theorem masterSilence : Statement .masterSilence := by
  intro _ _ _ _ _ e
  cases e
theorem canBusError : ∀ x1 x2, Statement (.canBusError x1 x2) := by
  intros
  intro _ _ _ _ _ e
  cases e

end Sys2Proof.Laws.SlotOperation
end

