-- ==== Sys2Proof/Laws/Run.lean ====
section
/-! SUPPORT. What the operations of Machine/Run.lean leave alone, and what they keep. -/

set_option Elab.async false
set_option linter.unusedSimpArgs false
set_option linter.unusedTactic false
set_option linter.unreachableTactic false
set_option linter.unnecessarySeqFocus false
set_option linter.unnecessarySimpa false

namespace Sys2Proof.Machine

/-! ## The queue of commands is left alone -/

@[simp] theorem State.runSlot_pending (s : State) (c : Instr) :
    (s.runSlot c).pending = s.pending := by
  cases c <;> simp only [State.runSlot, execAct, execPre, execPrea, execRd, execRds, execWr, execWrm, execMac, execAdd, execMul,
    execMax, execCmp, execScale, execExp2, execCvt, execPack, execCvtmx, execOut, execMask, execXfer, execHoist, execKadd, execRrel,
    execAgset, execAgidx, execAgskip, execXbase, execMsk, execLoop, execEndl, execLaunchExchange, execLaunchMerge, after] <;> (repeat' split) <;>
    (try simp) <;> (repeat' split) <;> try simp

@[simp] theorem State.takeBeat_pending (s : State) (q sl : Nat) (w : Word) (p : Bool) :
    (s.takeBeat q sl w p).pending = s.pending := by
  unfold State.takeBeat
  (repeat' split) <;> simp

@[simp] theorem State.runWord_pending (s : State) (q sl : Fin 4) :
    (s.runWord q sl).pending = s.pending := by
  unfold State.runWord
  split <;> simp

@[simp] theorem State.issue_pending (s : State) (q sl : Fin 4) (w : Word) (p : Bool) :
    (s.issue q sl w p).pending = s.pending := by
  simp only [State.issue, execEndWord, after]
  (repeat' split) <;> simp

@[simp] theorem State.issueRecess_pending (s : State) (q sl : Fin 4) (w : Word) (late : List Nat) :
    (s.issueRecess q sl w late).pending = s.pending := by
  simp only [State.issueRecess, execEndWord, after]
  (repeat' split) <;> simp

@[simp] theorem State.wordBeat_pending (s : State) (q sl : Fin 4) (late : List Nat) :
    (s.wordBeat q sl late).pending = s.pending := by
  unfold State.wordBeat
  (repeat' split) <;> simp [State.ite_pending] <;> (repeat' split) <;> simp

/-! ## Memory keeps its canonical form -/

@[simp] theorem State.runSlot_wf (s : State) (c : Instr) (hw : s.mem.wf = true) :
    (s.runSlot c).mem.wf = true := by
  cases c <;> simp only [State.runSlot, execAct, execPre, execPrea, execRd, execRds, execWr, execWrm, execMac, execAdd, execMul,
    execMax, execCmp, execScale, execExp2, execCvt, execPack, execCvtmx, execOut, execMask, execXfer, execHoist, execKadd, execRrel,
    execAgset, execAgidx, execAgskip, execXbase, execMsk, execLoop, execEndl, execLaunchExchange, execLaunchMerge, after] <;> (repeat' split) <;>
    (try simp [hw]) <;> first
    | done
    | (refine State.foldl_holds (fun s : State => s.mem.wf = true) _ (fun s a h => ?_) _ _ ?_ <;> (repeat' split) <;> simp [*])
    | skip

@[simp] theorem State.takeBeat_wf (s : State) (q sl : Nat) (w : Word) (p : Bool) (hw : s.mem.wf = true) :
    (s.takeBeat q sl w p).mem.wf = true := by
  unfold State.takeBeat
  (repeat' split) <;> simp [hw]

@[simp] theorem State.runWord_wf (s : State) (q sl : Fin 4) (hw : s.mem.wf = true) :
    (s.runWord q sl).mem.wf = true := by
  unfold State.runWord
  split
  · exact hw
  · exact State.foldl_holds (fun s : State => s.mem.wf = true) _ (fun s a h => by simp [h]) _ _ hw

@[simp] theorem State.issue_wf (s : State) (q sl : Fin 4) (w : Word) (p : Bool) (hw : s.mem.wf = true) :
    (s.issue q sl w p).mem.wf = true := by
  simp only [State.issue, execEndWord, after]
  (repeat' split) <;> simp [hw]

@[simp] theorem State.issueRecess_wf (s : State) (q sl : Fin 4) (w : Word) (late : List Nat) (hw : s.mem.wf = true) :
    (s.issueRecess q sl w late).mem.wf = true := by
  simp only [State.issueRecess, execEndWord, after]
  (repeat' split) <;> simp [hw]

@[simp] theorem State.wordBeat_wf (s : State) (q sl : Fin 4) (late : List Nat) (hw : s.mem.wf = true) :
    (s.wordBeat q sl late).mem.wf = true := by
  unfold State.wordBeat
  try dsimp only
  (repeat' split) <;> simp [*] <;> (repeat' split) <;> simp [*]

/-! ## The retirement list keeps its entries (R362) -/

@[simp] theorem State.runSlot_kept (s : State) (c : Instr) {r₀ : List Nat} (hw : RetiredKept r₀ s.health.retired) :
    RetiredKept r₀ (s.runSlot c).health.retired := by
  cases c <;> simp only [State.runSlot, execAct, execPre, execPrea, execRd, execRds, execWr, execWrm, execMac, execAdd, execMul,
    execMax, execCmp, execScale, execExp2, execCvt, execPack, execCvtmx, execOut, execMask, execXfer, execHoist, execKadd, execRrel,
    execAgset, execAgidx, execAgskip, execXbase, execMsk, execLoop, execEndl, execLaunchExchange, execLaunchMerge, after] <;> (repeat' split) <;>
    (try simp [hw]) <;> first
    | done
    | (refine State.foldl_holds (fun s : State => RetiredKept r₀ s.health.retired) _ (fun s a h => ?_) _ _ ?_ <;> (repeat' split) <;> simp [*])
    | skip

@[simp] theorem State.takeBeat_kept (s : State) (q sl : Nat) (w : Word) (p : Bool) {r₀ : List Nat} (hw : RetiredKept r₀ s.health.retired) :
    RetiredKept r₀ (s.takeBeat q sl w p).health.retired := by
  unfold State.takeBeat
  (repeat' split) <;> simp [hw]

@[simp] theorem State.runWord_kept (s : State) (q sl : Fin 4) {r₀ : List Nat} (hw : RetiredKept r₀ s.health.retired) :
    RetiredKept r₀ (s.runWord q sl).health.retired := by
  unfold State.runWord
  split
  · exact hw
  · exact State.foldl_holds (fun s : State => RetiredKept r₀ s.health.retired) _ (fun s a h => by simp [h]) _ _ hw

@[simp] theorem State.issue_kept (s : State) (q sl : Fin 4) (w : Word) (p : Bool) {r₀ : List Nat} (hw : RetiredKept r₀ s.health.retired) :
    RetiredKept r₀ (s.issue q sl w p).health.retired := by
  simp only [State.issue, execEndWord, after]
  (repeat' split) <;> simp [hw]

@[simp] theorem State.issueRecess_kept (s : State) (q sl : Fin 4) (w : Word) (late : List Nat) {r₀ : List Nat} (hw : RetiredKept r₀ s.health.retired) :
    RetiredKept r₀ (s.issueRecess q sl w late).health.retired := by
  simp only [State.issueRecess, execEndWord, after]
  (repeat' split) <;> simp [hw]

@[simp] theorem State.wordBeat_kept (s : State) (q sl : Fin 4) (late : List Nat) {r₀ : List Nat} (hw : RetiredKept r₀ s.health.retired) :
    RetiredKept r₀ (s.wordBeat q sl late).health.retired := by
  unfold State.wordBeat
  try dsimp only
  (repeat' split) <;> simp [*] <;> (repeat' split) <;> simp [*]

end Sys2Proof.Machine
end

