-- ==== Sys2Proof/Laws/Start.lean ====
section
/-! SUPPORT. What the operations of Machine/Start.lean leave alone, and what they keep. -/

set_option Elab.async false
set_option linter.unusedSimpArgs false
set_option linter.unusedTactic false
set_option linter.unreachableTactic false
set_option linter.unnecessarySeqFocus false
set_option linter.unnecessarySimpa false

namespace Sys2Proof.Machine

/-! ## The queue of commands is left alone -/

@[simp] theorem State.loadAtPower_pending (s : State) :
    (s.loadAtPower).pending = s.pending := by
  unfold State.loadAtPower
  simp [State.ite_pending]

@[simp] theorem State.stageB1_pending (s : State) :
    (s.stageB1).pending = s.pending := by
  simp [State.stageB1]

@[simp] theorem State.failAttempt_pending (s : State) :
    (s.failAttempt).pending = s.pending := by
  unfold State.failAttempt
  simp [State.ite_pending]

@[simp] theorem State.loseXtal_pending (s : State) :
    (s.loseXtal).pending = s.pending := by
  simp [State.loseXtal]

@[simp] theorem State.loseIto_pending (s : State) (count : Nat) :
    (s.loseIto count).pending = s.pending := by
  simp [State.loseIto]

@[simp] theorem State.trip_pending (s : State) (edgeMissing : Bool) (count : Nat) :
    (s.trip edgeMissing count).pending = s.pending := by
  unfold State.trip
  simp [State.ite_pending]

@[simp] theorem State.startFw_pending (s : State) (i : Nat) :
    (s.startFw i).pending = s.pending := by
  simp [State.startFw]

/-! ## Memory is left alone -/

@[simp] theorem State.failAttempt_mem (s : State) :
    (s.failAttempt).mem = s.mem := by
  unfold State.failAttempt
  simp [State.ite_mem]

@[simp] theorem State.loseXtal_mem (s : State) :
    (s.loseXtal).mem = s.mem := by
  simp [State.loseXtal]

@[simp] theorem State.loseIto_mem (s : State) (count : Nat) :
    (s.loseIto count).mem = s.mem := by
  simp [State.loseIto]

@[simp] theorem State.trip_mem (s : State) (edgeMissing : Bool) (count : Nat) :
    (s.trip edgeMissing count).mem = s.mem := by
  unfold State.trip
  simp [State.ite_mem]

@[simp] theorem State.startFw_mem (s : State) (i : Nat) :
    (s.startFw i).mem = s.mem := by
  simp [State.startFw]

/-! ## Memory keeps its canonical form -/

@[simp] theorem State.loadAtPower_wf (s : State) (hw : s.mem.wf = true) :
    (s.loadAtPower).mem.wf = true := by
  unfold State.loadAtPower
  try dsimp only
  (repeat' split) <;> simp [*] <;> (repeat' split) <;> simp [*]

@[simp] theorem State.stageB1_wf (s : State) (hw : s.mem.wf = true) :
    (s.stageB1).mem.wf = true := by
  simp [State.stageB1, hw]

/-! ## The retirement list is left alone (R362) -/

@[simp] theorem State.loadAtPower_retired (s : State) :
    (s.loadAtPower).health.retired = s.health.retired := by
  unfold State.loadAtPower
  simp [State.ite_retired]

@[simp] theorem State.stageB1_retired (s : State) :
    (s.stageB1).health.retired = s.health.retired := by
  simp [State.stageB1]

@[simp] theorem State.failAttempt_retired (s : State) :
    (s.failAttempt).health.retired = s.health.retired := by
  unfold State.failAttempt
  simp [State.ite_retired]

@[simp] theorem State.loseXtal_retired (s : State) :
    (s.loseXtal).health.retired = s.health.retired := by
  simp [State.loseXtal]

@[simp] theorem State.loseIto_retired (s : State) (count : Nat) :
    (s.loseIto count).health.retired = s.health.retired := by
  simp [State.loseIto]

@[simp] theorem State.trip_retired (s : State) (edgeMissing : Bool) (count : Nat) :
    (s.trip edgeMissing count).health.retired = s.health.retired := by
  unfold State.trip
  simp [State.ite_retired]

@[simp] theorem State.startFw_retired (s : State) (i : Nat) :
    (s.startFw i).health.retired = s.health.retired := by
  simp [State.startFw]

end Sys2Proof.Machine
end

