-- ==== Sys2Proof/Tests/Slice0.lean ====
section
/-! SUPPORT. Tests: ill-formed commands are refused by the check on commands; worked examples of the spec; and for every statement
that has hypotheses a concrete state and operands that meet them together (test_meets_<name of the statement>, one or more
conjuncts for each of its clauses). -/

set_option Elab.async false

namespace Sys2Proof.Tests

open Sys2Proof Sys2Proof.Machine

/-! ## Small states -/

/-- A module at B7 with its link up, an operator's session 1 and a session 2 of the tenant of context 0. -/
def ready : State := { State.reset with
  boot := { Boot.init with
    auxGood := true, mainPresent := true, perstN := true, straps := 5, rails := 63, plls := true, stage := 7, fwRunning := true
    stacksUp := true, cxlReleased := true, loaded := true }
  host := { HostSide.init with linkState := 2, sessions := [⟨1, none, none⟩, ⟨2, some 0, none⟩] }
  mgmt := { Mgmt.init with nodeId := 5, nmt := .operational } }

/-- A lesson. -/
def lesson0 : Lesson :=
  { roll := 7, k := [], payload := [], result := 0, loadSeq := 1, startBell := 0, fenced := false, unsettled := none
    unsettledMark := false, stolen := false, recompute := [], closing := false }

/-- Context 0 runs a lesson in quadrant 0, slot 0, whose mask register 1 selects bank unit 0 alone. -/
def slot0 : Slot := { Slot.init with ctx := some 0, st := .issuing, masks := [(1, 0x200021)] }
def quad0 : Quad := { Quad.init with sel := some 0, slots := [(0, slot0)] }
def ctx0 : Ctx := { Ctx.init with live := true, span := 1, slotIn := [(0, 0)], lesson := some lesson0 }
def running : State := { ready with quads := [(0, quad0)], ctxs := [(0, ctx0)] }

/-- The same context between lessons. -/
def idle : State := { ready with
  quads := [(0, { Quad.init with slots := [(0, { Slot.init with ctx := some 0 })] })]
  ctxs := [(0, { ctx0 with lesson := none })] }

/-- Quadrant 0 and context 0 of `running`, changed. -/
def onQuad (f : Quad → Quad) : State := running.modQuad 0 f
def onSlot (f : Slot → Slot) : State := running.modSlot 0 0 f
def onCtx (f : Ctx → Ctx) : State := running.modCtx 0 f

/-! ## Ill-formed commands -/

/-- The head of a frame from module 258 to module 257 that comes in on port W0, first on its hop; and a time word. -/
def head0 : FrameHead := ⟨2, 258, 257, false, true, 4, 1, 0, 0, 0⟩
def word0 : TimeWord := ⟨0, 0, some 258, 0, false, false, 2, 0, 0, 1024, 0, 0, 1⟩
/-- A unit number of no bank unit; a slot word with another slot's operation, or with a reserved value (R113 to R127). -/
theorem test_wf_issueWord : (Instr.issueWord 0 [10240]).wf = false := by decide
theorem test_wf_act : (Instr.act 0 0 0 0x80000000).wf = false ∧ (Instr.act 0 0 0 0x40010000).wf = false := by decide
theorem test_wf_pre : (Instr.pre 0 0 0 0x40000000).wf = false := by decide
theorem test_wf_prea : (Instr.prea 0 0 0 0x40000000).wf = false := by decide
theorem test_wf_rd : (Instr.rd 0 0 0 0x40000000).wf = false ∧ (Instr.rd 0 0 0 0x38000000).wf = false := by decide
theorem test_wf_rds : (Instr.rds 0 0 0 0x20000000).wf = false := by decide
theorem test_wf_wr : (Instr.wr 0 0 0 0x60000002).wf = false := by decide
theorem test_wf_wrm : (Instr.wrm 0 0 0 0x60000000).wf = false := by decide
theorem test_wf_mac : (Instr.mac 0 0 0 0x0C000000).wf = false ∧ (Instr.mac 0 0 0 0x03800000).wf = false ∧
    (Instr.mac 0 0 0 0x00600000).wf = false := by decide
theorem test_wf_add : (Instr.add 0 0 0 0x08000000 0).wf = false ∧ (Instr.add 0 0 0 0x00000008 0).wf = false := by decide
theorem test_wf_mul : (Instr.mul 0 0 0 0x00000000 0).wf = false := by decide
theorem test_wf_max : (Instr.max 0 0 0 0x00000000 0).wf = false := by decide
theorem test_wf_cmp : (Instr.cmp 0 0 0 0x00000000 0).wf = false ∧ (Instr.cmp 0 0 0 0x1B000000 0).wf = false := by decide
theorem test_wf_scale : (Instr.scale 0 0 0 0x00000000 0).wf = false ∧ (Instr.scale 0 0 0 0x22000000 0).wf = false := by decide
theorem test_wf_exp2 : (Instr.exp2 0 0 0 0x00000000 0).wf = false := by decide
theorem test_wf_cvt : (Instr.cvt 0 0 0 0x00000000 0).wf = false := by decide
theorem test_wf_pack : (Instr.pack 0 0 0 0x00000000 0).wf = false := by decide
theorem test_wf_cvtmx : (Instr.cvtmx 0 0 0 0x40000001 0).wf = false := by decide
theorem test_wf_out : (Instr.out 0 0 0 0x00000000 0).wf = false := by decide
theorem test_wf_mask : (Instr.mask 0 0 0 0x00000000 0).wf = false := by decide
theorem test_wf_xfer : (Instr.xfer 0 0 0 0xC0000000).wf = false ∧ (Instr.xfer 0 0 0 0x22000000).wf = false := by decide
theorem test_wf_hoist : (Instr.hoist 0 0 0x10000000).wf = false ∧ (Instr.hoist 0 0 0x10010001).wf = false := by decide
theorem test_wf_wait : (Instr.wait 0 0 0x10000001).wf = false := by decide
theorem test_wf_kadd : (Instr.kadd 0 0 0x10000001).wf = false := by decide
theorem test_wf_rget : (Instr.rget 0 0 0x40000001).wf = false := by decide
theorem test_wf_rrel : (Instr.rrel 0 0 0x50080000).wf = false := by decide
theorem test_wf_bell : (Instr.bell 0 0 0x10000001).wf = false := by decide
theorem test_wf_roll : (Instr.roll 0 0 0x70100000).wf = false := by decide
theorem test_wf_fence : (Instr.fence 0 0 0x80000001).wf = false := by decide
theorem test_wf_report : (Instr.report 0 0 0x90010000).wf = false := by decide
theorem test_wf_agset : (Instr.agset 0 0 0x10000001).wf = false := by decide
theorem test_wf_agidx : (Instr.agidx 0 0 0x20000001).wf = false := by decide
theorem test_wf_agskip : (Instr.agskip 0 0 0x10000000).wf = false := by decide
theorem test_wf_xbase : (Instr.xbase 0 0 0x44000000).wf = false := by decide
theorem test_wf_msk : (Instr.msk 0 0 0x00000000).wf = false ∧ (Instr.msk 0 0 0x10010000).wf = false := by decide
theorem test_wf_loop : (Instr.loop 0 0 0x01000000).wf = false := by decide
theorem test_wf_endl : (Instr.endl 0 0 0x00400000).wf = false := by decide
theorem test_wf_launchExchange : (Instr.launchExchange 0 0 0x40000000).wf = false := by decide
theorem test_wf_launchMerge : (Instr.launchMerge 0 0 0x00000000).wf = false := by decide
theorem test_wf_recessWord : (Instr.recessWord 0 0 ⟨3, []⟩).wf = false ∧ (Instr.recessWord 0 0 ⟨1, [10240]⟩).wf = false := by decide
/-- Numbers outside the ranges of the spec. -/
theorem test_wf_plotCleared : (Instr.plotCleared true 3072).wf = false ∧ (Instr.plotCleared false 20971520).wf = false := by decide
theorem test_wf_scrubColumn : (Instr.scrubColumn 0 9).wf = false := by decide
theorem test_wf_commandRingWrite : (Instr.commandRingWrite 0 262143 [1, 2]).wf = false := by decide
theorem test_wf_alloc : (Instr.alloc 1 0 false ⟨0, 20, 0, 0, 0, 0⟩ 1).wf = false ∧
    (Instr.alloc 1 0 false ⟨0, 0, 0, 0, 3, 2⟩ 1).wf = false := by decide
theorem test_wf_odRead : (Instr.odRead 1 0x1000 ⟨0, 0⟩ 4294967296 0).wf = false := by decide
theorem test_wf_resultVisible : (Instr.resultVisible ⟨0, [10240]⟩).wf = false := by decide
theorem test_wf_ringJoin : (Instr.ringJoin 0 ⟨some { word0 with txTime := 2 ^ 64 }, []⟩).wf = false := by decide
theorem test_wf_idleFrame : (Instr.idleFrame head0 { word0 with depth := 256 } 0 0).wf = false := by decide
theorem test_wf_rosterFrame : (Instr.rosterFrame head0 1 [⟨64, 0, false⟩]).wf = false ∧
    (Instr.rosterFrame head0 4294967296 []).wf = false := by decide
theorem test_wf_fenceFrame : (Instr.fenceFrame head0 0 4294967296).wf = false := by decide
theorem test_wf_hoistFrame : (Instr.hoistFrame head0 0 0).wf = false := by decide
theorem test_wf_kvWrite : (Instr.kvWrite head0 0 0 0 [] false).wf = false := by decide
theorem test_wf_kvRead : (Instr.kvRead head0 0 0 0 8).wf = false := by decide
/-- Well-formed ones pass. -/
theorem test_wf_passes : (Instr.act 0 0 1 0x40000005).wf = true ∧ (Instr.rd 0 0 1 0x20000000).wf = true ∧
    (Instr.hoist 0 0 0x10000001).wf = true ∧ (Instr.bellRing).wf = true := by decide

/-- spec/opcode_table.json gives no row bits, so no word spells a command. -/
theorem test_no_word_spells_a_command : decodeTableWord 16 0x1234 = none ∧ ready.withFetchWord 16 0x1234 = ready := ⟨rfl, rfl⟩

/-! ## Worked examples of the spec -/

/-- The chunk of rows 200 and 201 of S7, D3, B12 is at flat address 0xFB24F000 (18_worked_examples.md). -/
theorem test_example_flat_address : bankToFlat (7 * 2 ^ 36 + 3 * 2 ^ 32 + 12 * 2 ^ 27 + 200 * 2 ^ 11) = 0xFB24F000 ∧
    flatToBank 0xFB24F000 = 7 * 2 ^ 36 + 3 * 2 ^ 32 + 12 * 2 ^ 27 + 200 * 2 ^ 11 := by decide
/-- Pane 0 for window 31: VALID, CHECK, CTX 0, BASE 0xF8000000 (18_worked_examples.md). -/
theorem test_example_pane : Pane.valid 0xA0000000F8000000 = true ∧ Pane.check 0xA0000000F8000000 = true ∧
    Pane.ctx 0xA0000000F8000000 = 0 := by decide

/-! ## Single steps -/

/-- SHA3-256 of the empty string begins a7 ff c6 f8 and ends 43 4a (FIPS 202's published value). -/
theorem test_sha3_empty : (sha3 []).take 4 = [0xA7, 0xFF, 0xC6, 0xF8] ∧ (sha3 []).drop 30 = [0x43, 0x4A] := by decide +kernel
/-- Owner-table entry 0x410209C4: STATE 1, MODULE 258, SLOT 2,500 (18_worked_examples.md). -/
theorem test_example_owner_entry : fld (0x410209C4 : Word32) 31 30 = 1 ∧ fld (0x410209C4 : Word32) 29 16 = 258 ∧
    fld (0x410209C4 : Word32) 15 0 = 2500 := by decide
/-- A pennant at 2^64 - 3 raised by 5 saturates at all ones (R294). -/
theorem test_hoist_saturates : (({ Pennant.free with st := 1, value := 0xFFFFFFFFFFFFFFFD } : Pennant).hoisted 5).value =
    0xFFFFFFFFFFFFFFFF := by decide
/-- LINK_RECOVERY with the link up begins a recovery and counts a retrain, as the front command of a step. -/
theorem test_step_takes_front :
    step { ready with pending := [.cxlLinkRecovery] } = .next { ready with host := { ready.host with linkState := 3, retrains := 1 } } := rfl
/-- LOOP loads its counter; ENDL at 3 lowers it and steps back two units of four bytes. -/
theorem test_loop_counts : ∃ t, exec (.loop 0 0 0x40000003) running = .next t ∧ tget 0 (t.slot 0 0).loops 1 = 3 := ⟨_, rfl, by decide⟩
/-- KADD adds to K3 (R123). -/
theorem test_kadd : ∃ t, exec (.kadd 0 0 0x36000005) running = .next t ∧ tget 0 (t.slot 0 0).k 3 = 5 := ⟨_, rfl, by decide⟩
/-- A command ring write of a slot that is not taken lands in the ring (R385). -/
theorem test_ring_write : ∃ t, exec (.commandRingWrite 0 70 [9]) idle = .next t ∧ tget 0 t.host.rings 70 = 9 := ⟨_, rfl, by decide⟩
/-- A quadrant that holds a context keeps its mode (R52). -/
theorem test_quad_mode_busy : ∃ t, exec (.quadMode 1 0 true) idle = .next t ∧ (t.quad 0).shared = false := ⟨_, rfl, by decide⟩

/-! ## The hypotheses of the statements are met -/

/-- A memory with one byte written. -/
def mem1 : Memory := { data := [(5, 7)], chk := [] }

theorem test_meets_EmptyQueueCountsOneNanosecond :
    ready.pending = [] ∧ State.reset.pending = [] ∧ State.reset.boot.auxGood = false ∧ ready.boot.auxGood = true ∧
    ready.ring.nextPeriod = 0 ∧ ready.bellDue = true ∧
    ({ ready with ring := { Ring.init with timebase := 5 } } : State).bellDue = false ∧ (∀ c, (ready.ctx c).armed = none) ∧
    (let s : State := { ready with ring := { Ring.init with timebase := 9, state := 2, timeError := 40 } }
     s.pending = [] ∧ s.boot.auxGood = true ∧ s.ring.nextPeriod = 0 ∧ s.bellDue = false ∧ (s.ctx 3).armed = none ∧ s.ring.state = 2 ∧
     s.ring.holdover = false) :=
  ⟨rfl, rfl, rfl, rfl, rfl, by decide, by decide, fun _ => rfl, rfl, rfl, rfl, by decide, rfl, rfl, rfl⟩

theorem test_meets_MemoryStaysInCanonicalForm :
    let s := { ready with mem := mem1, pending := [.cxlLinkRecovery] }
    Memory.wf s.mem = true ∧ ∃ t, step s = .next t := ⟨by decide, _, rfl⟩

theorem test_meets_RetiredPlotsStayRetired :
    let s := { ready with health := { ready.health with retired := [3, 5] }, pending := [.cxlLinkRecovery] }
    RetiredKept s.health.retired s.health.retired ∧ ∃ t, step s = .next t :=
  ⟨⟨List.prefix_refl _, by decide, by decide⟩, _, rfl⟩

theorem test_meets_QueueLosesOnlyItsFront :
    let s := { ready with pending := [.cxlLinkRecovery, .bellRing] }
    s.pending = .cxlLinkRecovery :: [.bellRing] ∧ ∃ t, step s = .next t := ⟨rfl, _, rfl⟩

theorem test_meets_OnlyStoringCommandsChangeMemory :
    (Instr.cxlLinkRecovery).mayStore = false ∧ ∃ t, exec .cxlLinkRecovery ready = .next t := ⟨rfl, _, rfl⟩

theorem test_meets_FlatAndBankViewsAreInverse : 20 * 2 ^ 36 - 1 < 20 * 2 ^ 36 ∧ 0 < 20 * 2 ^ 36 := by decide

theorem test_meets_StoredColumnReadsBack : (List.replicate 32 (7 : Byte)).length = 32 ∧ 1 ≠ 0 := by decide

theorem test_meets_MailboxNeedsAnOpenSession :
    (Instr.quadMode 9 0 true).sessionHandle = some 9 ∧ (Instr.odRead 9 0x1000 ⟨0, 0⟩ 0 4).sessionHandle = some 9 ∧
    ready.session 9 = none ∧ ready.boot.cxlReleased = true ∧ ready.boot.stage = 7 := by and_intros <;> rfl

theorem test_meets_TenantReachesOnlyItsContext :
    (Instr.load 2 1 5).sessionHandle = some 2 ∧ (Instr.load 2 1 5).ofDictionary = false ∧ Instr.load 2 1 5 ≠ .sessionClose 2 ∧
    (Instr.load 2 1 5).namesContext ≠ some 0 ∧ (Instr.quadMode 2 0 true).namesContext ≠ some 0 ∧
    ready.session 2 = some ⟨2, some 0, none⟩ ∧ ready.boot.cxlReleased = true ∧ ready.boot.stage = 7 := by
  and_intros <;> first | rfl | decide

theorem test_meets_ActivationTablesStayBounded :
    let t : List (BitVec 16 × BitVec 16) := [(5, 1), (6, 0)]
    2 ≤ 2 ∧ 2 < 65536 ∧ t.length ≤ 64 ∧ (t.map (·.1)).Nodup ∧ (∀ e ∈ t, e.2.toNat < 2) ∧
      (∃ e ∈ t, e.1 = 5 ∧ e.2.toNat + 1 = 2) := by
  refine ⟨by decide, by norm_num, by decide, by decide, by simp, by decide⟩

/-- A present position (the immediate), and an absent one: a generator past the end of its walk. -/
theorem test_meets_RowCommandsOpenAndCloseRows :
    running.rowOf 0 0 0x40000005 = some 5 ∧ running.units_ 0 0 1 = [0] ∧
    (onSlot (fun x => { x with gens := [(0, ⟨true, false, 3, 1000⟩)] })).rowOf 0 0 0x60000000 = none ∧
    running.issuing 0 = true ∧ (∀ u ∈ running.units_ 0 0 1, (running.bank u).nbq.length < 4) := by decide +kernel

theorem test_meets_ColumnReadsArriveEightBeatsLater :
    running.entry 0 = none ∧ (running.quad 0).masked = [] ∧ (∀ st, (running.stack st).writes = [] ∧ (running.stack st).slateQ = []) ∧
    Col.le 0x20000000 ≠ 3 := ⟨rfl, rfl, fun _ => ⟨rfl, rfl⟩, by decide⟩

/-- The stream entry of a word that reads row 5, column 1. -/
def streamWord (e : Word32) : Issued := ⟨0, 1, 0, 0, 2, [0, 0x20000000], 0, 0x440, some e, [], []⟩
def streaming (e : Word32) : State := onQuad (fun x => { x with word := some (streamWord e) })

theorem test_meets_StreamReadsOpenTheirRow :
    (streaming 0x40000504).entry 0 = some 0x40000504 ∧ (entryOp 0x40000504 = 1 ∨ entryOp 0x40000504 = 2) ∧
    ((streaming 0x40000504).quad 0).masked = [] ∧ (∀ st, ((streaming 0x40000504).stack st).writes = [] ∧ ((streaming 0x40000504).stack st).slateQ = []) ∧
    Col.le 0x20000000 ≠ 3 := ⟨rfl, by decide, rfl, fun _ => ⟨rfl, rfl⟩, by decide⟩

/-- Row 5 of bank 0 open, by the timetable. -/
def rowOpen : State := { running with banks := [(0, { Bank.init with open1 := some ⟨5, true⟩ })] }

theorem test_meets_ColumnWritesStoreTheirLines :
    rowOpen.entry 0 = none ∧ rowOpen.colOf 0 0 0x60020001 = some (1, 1) ∧ rowOpen.target 0 1 1 = some (5 * 64 + 1) ∧
    (rowOpen.quad 0).masked = [] ∧ (rowOpen.stack 0).failed = false := by decide
theorem test_meets_ColumnWritesStoreTheirLines_nothingWaits : ∀ st, (rowOpen.stack st).slateQ = [] := fun _ => rfl

/-- A masked write due at beat 8 of column 321. -/
def merging : State := onQuad (fun x => { x with
  beat := 8
  masked := [⟨8, 0, 0, 321, 1, 5, false, Column.zero, false, 0, 0⟩, ⟨9, 0, 0, 322, 1, 5, false, Column.zero, false, 0, 1⟩] })

theorem test_meets_QueuedWritesComplete :
    (((merging.quad 0).masked.filter (fun m => decide (m.due ≤ (merging.quad 0).beat))).map (·.col)).Nodup ∧
    (({ running with stk := [(0, { Stack.init with writes := [⟨321, some 0, 0, none⟩] })] } : State).stack 0).writes =
      ⟨321, some 0, 0, none⟩ :: [] := by decide
/-- A write whose alert window has passed, or which no word follows; one within its window, and one whose link is in recovery. -/
theorem test_meets_QueuedWritesComplete_window :
    (let s (goes : Option Nat) (r : Bool) : State :=
       { onQuad (fun x => { x with beat := 5 }) with stk := [(0, { Stack.init with recovering := r, writes := [⟨321, some 0, 0, goes⟩] })] }
     let ready (s : State) (goes : Option Nat) : Prop :=
       (s.stack 0).recovering = false ∧ (s.issuing 0 = false ∨ ∀ b, goes = some b → b + 4 ≤ (s.quad 0).beat)
     ready (s (some 1) false) (some 1) ∧ ready (s none false) none ∧ ¬ ready (s (some 2) false) (some 2) ∧
     ¬ ready (s none true) none ∧ (running.stack 0).writes = [] ∧
     ready ({ Sys2Proof.Tests.ready with stk := [(0, { Stack.init with writes := [⟨321, some 0, 0, some 0⟩] })] } : State) (some 0)) := by
  refine ⟨⟨rfl, .inr fun b h => ?_⟩, ⟨rfl, .inr fun b h => ?_⟩, fun h => ?_, fun h => ?_, rfl, rfl, .inl rfl⟩
  · cases h; decide
  · cases h
  · rcases h.2 with h | h
    · exact absurd h (by decide)
    · exact absurd (h 2 rfl) (by decide)
  · exact absurd h.1 (by decide)

theorem test_meets_LateEventsHoldAndFall :
    let s := onQuad (fun x => { x with late := [0, 1], held := true })
    (s.quad 0).late ≠ [] ∧ s.mgmt.log.length ≤ 8192 ∧ (running.quad 0).late = [] := by decide

/-- A result that sets accumulator entry 3 of unit 0 at beat 5. -/
def due0 : Due := ⟨3, 5, 0, 0, 2, 0, [.accSet 0 3 0x3F800000 false]⟩

theorem test_meets_ResultsBecomeVisible :
    (let s := onQuad (fun x => { x with beat := 3, dues := [due0] })
     s.holding 0 = false ∧ (s.quad 0).recessLeft = 0 ∧ firstDue (s.quad 0).dues = some 5 ∧ (s.quad 0).beat ≤ 5 ∧
     (∀ m ∈ (s.quad 0).masked, 5 < m.due) ∧ s.lateBeat 0 (5 - (s.quad 0).beat) [] = none ∧
     s.lateBeat 0 (5 - (s.quad 0).beat) [0] = some 5 ∧ [0].Nodup) ∧
    (onQuad (fun x => { x with late := [0], held := true })).holding 0 = true ∧
    ((onQuad (fun x => { x with recessLeft := 9 })).quad 0).recessLeft ≠ 0 ∧
    (onQuad (fun x => { x with recessLeft := 9 })).holding 0 = false ∧ (running.quad 0).dues = [] := by decide

/-- Every format pair at the ends of its range. -/
theorem test_meets_MacAccumulatesAfterItsOccupancy :
    Mac.wfmt 0 ≤ 6 ∧ Mac.afmt 0 ≤ 2 ∧ Mac.le 0 ≤ 2 ∧ Mac.wfmt 0x83400000 = 6 ∧ Mac.afmt 0x83400000 = 2 ∧
    Mac.le 0x03400000 ≤ 2 ∧ 6 < Mac.wfmt 0x03800000 ∧ 2 < Mac.afmt 0x00600000 ∧ Mac.le 0x0C000000 = 3 := by decide

theorem test_meets_CompareAndMaskWriteTheirBits :
    ((running.view 0 0 0).lanes 1 2)[7]?.isSome = true ∧ ((running.view 0 0 0).lanes 0 2)[7]?.isSome = true := ⟨rfl, rfl⟩

/-- A payload of the lesson, or granule 0 of the quadrant's staging memory, for XFER. -/
theorem test_meets_OutAndXferMoveRows :
    Xfer.src 0x40000000 = 1 ∧ Xfer.src 0x80000000 = 2 ∧ Xfer.dsel 0x20000000 = 16 ∧ Xfer.dsel 0 ≤ 16 ∧ 16 < Xfer.dsel 0x22000000 ∧
    Xfer.src 0xC0000000 = 3 ∧ (running.slot 0 0).ctx.bind (fun c => (running.ctx c).lesson) = some lesson0 ∧
    (let s := onCtx (fun x => { x with allocs := [(0, ⟨true, true, 0, 0, 0, 0, 0, 0, 0, 3⟩)] })
     (s.slot 0 0).ctx = some 0 ∧ s.stageLine 0 5 = some 5) ∧
    (running.slot 0 0).ctx = some 0 ∧ (running.quad 0).outCount < 64 ∧
    (running.slot 0 1).ctx = none := by and_intros <;> decide +kernel

theorem test_meets_AddressAndLoopCommandsSetTheirRegister :
    Addr.src 0x40000005 = 0 ∧ Addr.src 0x48000005 = 2 ∧ Ctrl.reg 0x10000005 ≠ 0 ∧
    tget 0 (running.slot 0 0).loops (Ctrl.cnt 0x40000001) = 0 ∧
    (let s := onQuad (fun x => { x with word := some (streamWord 0), slots := [(0, { slot0 with loops := [(1, 3)] })] })
     (s.quad 0).word = some (streamWord 0) ∧ tget 0 (s.slot 0 0).loops (Ctrl.cnt 0x40000001) ≠ 0) := by decide

/-- A member, module 257, of a ring of two whose master is module 258. -/
def owned0 : Ring := { Ring.init with state := 2, moduleId := 257, masterId := 258, roster := [⟨0, 257, false⟩, ⟨1, 258, true⟩] }

/-- `running` with identifier 3 bound to pennant 9 of this module, which is as given. -/
def penAt (st : BitVec 2) (value : Word64) : State :=
  { onCtx (fun x => { x with pens := [(3, ⟨1, 0, 9, false⟩)] }) with
    sync := { Sync.init with pens := [(9, { Pennant.free with value := value, st := st, owner := 0, bindings := 1 })] } }
/-- `running`, a member of a ring, with identifier 3 bound to pennant 9 of module 258, of which the value given has come. -/
def remoteAt (dead : Bool) (st : BitVec 2) (value : Word64) : State :=
  { onCtx (fun x => { x with pens := [(3, ⟨2, 258, 9, dead⟩)] }) with
    ring := owned0
    sync := { Sync.init with remotes := [(258 * 16384 + 9, ⟨value, st, true⟩)] } }

/-- WAIT for pennant identifier 3 at K0 + 5. -/
def wait3 : Word32 := 0x200C0005

theorem test_meets_WaitsPassOrBlock :
    (running.slot 0 0).ctx = some 0 ∧ (running.slot 0 0).passed = none ∧ (running.slot 0 0).blocked = none ∧
    Sync.pen wait3 = 3 ∧ Sync.ofs wait3 = 5 ∧ (running.binding 0 3).kind ≠ 1 ∧ (running.binding 0 3).kind ≠ 2 ∧
    ((penAt 2 5).binding 0 3).kind = 1 ∧ ((penAt 2 5).pen 9).st ≠ 1 ∧ ((penAt 1 5).pen 9).st = 1 ∧
    5 ≤ ((penAt 1 5).pen 9).value.toNat ∧ ((penAt 1 4).pen 9).value.toNat < 5 ∧
    ((remoteAt false 1 5).binding 0 3).kind = 2 ∧
    ({ remoteAt false 1 5 with ring := Ring.init } : State).outOfRing = true ∧
    (remoteAt true 1 5).inRing = true ∧ ((remoteAt true 1 5).binding 0 3).dead = true ∧
    (remoteAt false 1 5).inRing = true ∧ ((remoteAt false 1 5).binding 0 3).dead = false ∧
    ((remoteAt false 1 5).remote 258 9).subscribed = true ∧ ((remoteAt false 2 5).remote 258 9).st = 2 ∧
    ((remoteAt false 1 5).remote 258 10).subscribed = false ∧
    ({ remoteAt false 1 5 with ring := { owned0 with state := 1 } } : State).ring.state = 1 ∧
    (onSlot (fun x => { x with passed := some false })).slot 0 0 ≠ slot0 ∧ (running.quiet 0 0) = true ∧
    (running.writesDone 0 0 (running.quad 0).seq) = true ∧ 0 + Sync.addend 0x30000005 < 2 ^ 64 := by and_intros <;> decide

/-- A scoreboard entry bound to a box, as given. -/
def sbEntry (st : BitVec 2) (hs : List (Option Nat × Bool)) : SbEntry := { SbEntry.init with st := st, holders := hs }
/-- `running` with entry 2 of slot 0 as given. -/
def sbAt (st : BitVec 2) (hs : List (Option Nat × Bool)) : State := onQuad (fun x => { x with sb := [(2, sbEntry st hs)] })

theorem test_meets_RegionAndRollWords :
    64 * 0 + Sync.entry 0x40200000 = 2 ∧ ((running.quad 0).entry 2).st = 0 ∧
    (∃ h ∈ (((sbAt 2 [(none, true)]).quad 0).entry 2).holders, h.1 = none) ∧
    (let s := sbAt 1 []
     ((s.quad 0).entry 2).st ≠ 0 ∧ (∀ h ∈ ((s.quad 0).entry 2).holders, h.1 ≠ none) ∧
     ((s.quad 0).conflicts (.timetable 0) 2 true || (s.quad 0).behind (s.quad 0).sbWait 2 true ||
       s.behindRemote 0 ⟨0, none, 2, true, 0⟩) = false) ∧
    (let s := sbAt 2 [(some 1, true)]
     ((s.quad 0).entry 2).st ≠ 0 ∧ (∀ h ∈ ((s.quad 0).entry 2).holders, h.1 ≠ none) ∧
     ((s.quad 0).conflicts (.timetable 0) 2 true || (s.quad 0).behind (s.quad 0).sbWait 2 true ||
       s.behindRemote 0 ⟨0, none, 2, true, 0⟩) = true) ∧
    (running.rollHandle 0 4).bound = false ∧
    (let s := { onCtx (fun x => { x with rolls := [(4, ⟨true, 6, false⟩)] }) with
       sync := { Sync.init with rolls := [(6, { RollCall.free with st := 1, localMask := 1 })] } }
     (s.rollHandle 0 4).bound = true ∧ (s.rollHandle 0 4).dead = false ∧ (s.rollCall 6).st = 1 ∧ (s.rollCall 6).ring = false ∧
     (s.rollCall 6).localMask.getLsbD 0 = true ∧ s.onBell = false) ∧
    (let s := { onCtx (fun x => { x with rolls := [(4, ⟨true, 6, false⟩)] }) with
       ring := { Ring.init with bells := 1 }
       sync := { Sync.init with rolls := [(6, { RollCall.free with st := 1, localMask := 1 })] } }
     let r := s.rollCall 6
     s.onBell = true ∧ r.ring = false ∧ r.arrived.getLsbD 0 = false ∧ (r.arrived ||| (1#18 <<< 0)) &&& r.localMask = r.localMask ∧
     r.releasedAt ≠ some s.ring.timebase) ∧
    (let s := { onCtx (fun x => { x with rolls := [(4, ⟨true, 6, false⟩)] }) with
       sync := { Sync.init with rolls := [(6, { RollCall.free with st := 1, ring := true, localMask := 1 })] } }
     (s.rollHandle 0 4).bound = true ∧ (s.rollCall 6).ring = true ∧ s.outOfRing = true) := by and_intros <;> decide

/-- HOIST of identifier 3 by 1. -/
def hoist3 : Word32 := 0x100C0001

theorem test_meets_HoistAndReportWords :
    (let s := penAt 1 5
     (s.slot 0 0).ctx = some 0 ∧ (s.quad 0).hoists = [] ∧ (s.binding 0 (Sync.pen hoist3)).kind = 1 ∧ s.writesDone 0 0 0 = true) ∧
    (let s := { penAt 1 5 with
       boot := ready.boot, stk := [(0, { Stack.init with writes := [⟨321, some 0, 0, none⟩] })]
       quads := [(0, { quad0 with seq := 1 })], sync := { (penAt 1 5).sync with ordering := 0 } }
     s.slotFenced 0 0 = false ∧ s.writesDone 0 0 (s.quad 0).seq = false ∧ (s.binding 0 (Sync.pen hoist3)).kind = 1) ∧
    (running.ctx 0).lesson = some lesson0 ∧ (running.ctx 0).hostLost = false ∧ (running.ctx 0).queue = [] ∧
    (running.ctx 0).buffer.length < 64 ∧ running.bufferUse < 256 ∧
    (let s := onCtx (fun x => { x with buffer := List.replicate 64 ⟨Report.blank 2, [], false, none⟩ })
     (s.ctx 0).buffer.length ≥ 64 ∧ (s.ctx 0).hostLost = false ∧ (s.slot 0 0).passed = none ∧ (s.slot 0 0).blocked = none) := by
  and_intros <;> decide

/-- Hoists that go to another member's pennant, through no binding, and one that waits while the module is JOINING. -/
theorem test_meets_HoistAndReportWords_remote :
    (let s := remoteAt false 1 5
     let b := s.binding 0 (Sync.pen hoist3)
     b.kind = 2 ∧ s.outOfRing = false ∧ b.dead = false ∧ (s.posOf b.module.toNat).isSome = true ∧ s.ring.state ≠ 1 ∧
     s.writesDone 0 0 (s.quad 0).seq = true) ∧
    (let s := remoteAt true 1 5
     (s.binding 0 (Sync.pen hoist3)).kind = 2 ∧ (s.binding 0 (Sync.pen hoist3)).dead = true ∧ s.ring.state ≠ 1) ∧
    (running.binding 0 (Sync.pen hoist3)).kind ≠ 1 ∧ (running.binding 0 (Sync.pen hoist3)).kind ≠ 2 ∧
    (let s : State := { remoteAt false 1 5 with ring := { owned0 with state := 1 } }
     (s.binding 0 (Sync.pen hoist3)).kind = 2 ∧ s.ring.state = 1) ∧
    (let s := onCtx (fun x => { x with hostLost := true })
     (s.slot 0 0).ctx = some 0 ∧ (s.ctx 0).lesson = some lesson0 ∧ (s.ctx 0).hostLost = true) := by and_intros <;> decide

theorem test_meets_LaunchQueuesAShare :
    (running.slot 0 0).ctx = some 0 ∧ ((running.quad 0).xq.filter (fun h => decide (h.slot = 0))).length < 16 ∧
    ((running.quad 0).mq.filter (fun h => decide (h.slot = 0))).length < 16 := by decide

/-- A timetable of zero bytes has words without slots, issued once; here its first bytes make a recess word, or one whose OUT finds
no place. -/
def inTable (bytes : Table Byte) : State := onQuad (fun x => { x with tt := bytes, slots := [(0, { slot0 with pc := 0x1000 })] })

theorem test_meets_WordsIssueAndRecessesRefresh :
    running.holding 0 = false ∧ (running.quad 0).recessLeft = 0 ∧ running.lateUnits 0 1 [] = [] ∧
    (running.quad 0).sel = some 0 ∧ (running.slot 0 0).st = .issuing ∧ running.firstHeld 0 0 = false ∧
    running.full 0 0 (running.fetchWord 0 0) = none ∧ (running.fetchWord 0 0).recess = false ∧
    (running.fetchWord 0 0).slot 5 = none ∧ ((running.pass 0 0 false).slot 0 0).passed ≠ none ∧
    (let s := onQuad (fun x => { x with beat := 4, dues := [due0] })
     s.lateUnits 0 5 [0, 3] = [0] ∧ [0].Nodup ∧ s.lateBeat 0 9 [0] = some 5) ∧
    ((onQuad (fun x => { x with sel := none })).quad 0).sel = none ∧
    (onQuad (fun x => { x with late := [0], held := true })).holding 0 = true ∧
    (onQuad (fun x => { x with recessLeft := 9 })).holding 0 = false ∧
    ((onQuad (fun x => { x with recessLeft := 9 })).quad 0).recessLeft ≠ 0 ∧
    running.rdiv 0 ≤ 2 ^ (2 : BitVec 2).toNat ∧ 2 ^ (0 : BitVec 2).toNat < running.rdiv 0 ∧ (2 : BitVec 2) ≠ 3 ∧
    running.lateBeat 0 (recessBeats (running.quad 0).point) [] = none := by
  and_intros <;> decide +kernel
theorem test_meets_WordsIssueAndRecessesRefresh_words :
    ((inTable [(0x1000, 0x40)]).fetchWord 0 0).recess = true ∧ (inTable [(0x1000, 0x40)]).holding 0 = false ∧
    (let s := (inTable [(0x1003, 16), (0x100B, 0x48)]).modQuad 0 (fun x => { x with outs := List.replicate 64 ⟨0, 0, 0, []⟩ })
     s.full 0 0 (s.fetchWord 0 0) = some Sat.merge ∧ (s.fetchWord 0 0).recess = false) := by and_intros <;> decide +kernel
/-- A word whose SYNC slot blocks: BELL for three bells. -/
theorem test_meets_WordsIssueAndRecessesRefresh_blocked :
    Sync.blocks 0x60000003 = true ∧ ((running.present 0 0 0x60000003).slot 0 0).passed = none := by decide +kernel

theorem test_meets_ContextsSwitchAndDrain :
    (let s := { running with quads := [(0, { Quad.init with slots := [(0, { slot0 with st := .ready })] })] }
     s.bestReady 0 = some 0 ∧ (s.quad 0).sel = none ∧ s.holding 0 = false ∧ (s.quad 0).recessLeft = 0) ∧
    (onQuad (fun x => { x with late := [0], held := true })).holding 0 = true ∧
    (onQuad (fun x => { x with recessLeft := 9 })).holding 0 = false ∧
    ((onQuad (fun x => { x with recessLeft := 9 })).quad 0).recessLeft ≠ 0 ∧ running.holding 0 = false ∧
    (let s := { running with
       quads := [(0, { quad0 with atSwitch := true, slots := [(0, slot0), (1, { slot0 with st := .ready, ctx := some 1 })] })]
       cfgs := [(1, { CtxCfg.init with priority := 2 })] }
     s.bestReady 0 = some 1 ∧ (s.quad 0).sel = some 0 ∧ (s.slot 0 0).st = .issuing ∧ (s.slot 0 0).blocked = none ∧
     (s.quad 0).atSwitch = true ∧ s.priority 0 0 < s.priority 0 1 ∧ s.holding 0 = false) ∧
    (let s := onQuad (fun x => { x with selBeats := 4096 })
     (s.quad 0).sel = some 0 ∧ (s.slot 0 0).st = .issuing ∧ s.mgmt.quantum.toNat ≤ (s.quad 0).selBeats) ∧
    running.bestReady 0 = none ∧ (running.slot 0 0).blocked = none ∧ (running.slot 0 1).st ≠ .issuing ∧
    (let s := { running with
       quads := [(0, { quad0 with slots := [(0, { slot0 with blocked := some .fence }), (1, { slot0 with st := .ready, ctx := some 1 })] })] }
     s.bestReady 0 = some 1 ∧ (s.slot 0 0).blocked ≠ none ∧ s.quiet 0 0 = true ∧ s.holding 0 = false) ∧
    (let s := { running with
       quads := [(0, { quad0 with slots := [(0, { slot0 with st := .draining }), (1, { slot0 with st := .ready, ctx := some 1 })] })] }
     s.bestReady 0 = some 1 ∧ (s.slot 0 0).st = .draining ∧ s.settled 0 0 = true ∧ s.holding 0 = false) ∧
    (let s := { running with quads := [(0, { quad0 with
       dues := [due0], slots := [(0, { slot0 with st := .draining }), (1, { slot0 with st := .ready, ctx := some 1 })] })] }
     s.bestReady 0 = some 1 ∧ (s.slot 0 0).st = .draining ∧ s.settled 0 0 = false ∧ s.holding 0 = false) := by
  and_intros <;> decide

theorem test_meets_BellsAndIntervals :
    ready.boot.auxGood = true ∧ ready.ring.nextPeriod = 0 ∧ ready.ring.period ≠ 0 ∧
    (let s : State := { ready with ring := { Ring.init with nextPeriod := 640, changeAt := 1280 } }
     s.ring.nextPeriod ≠ 0 ∧ s.ring.timebase ≤ s.ring.changeAt ∧ s.ring.changeAt < 2 ^ 64 ∧ 1024 < s.ring.changeAt ∧
     1024 % s.ring.period = 0 ∧ s.ring.bells = 0) ∧
    (let s : State := { ready with ring := { Ring.init with nextPeriod := 640, changeAt := 0 } }
     s.ring.changeAt ≤ s.bellFrom s.ring.period s.ring.timebase) ∧ State.reset.boot.auxGood = false ∧
    (let s := onCtx (fun x => { x with lesson := none, accepted := [⟨0, 2, 7, false⟩] })
     (s.ctx 0).live = true ∧ (s.ctx 0).resetting = false ∧ (s.ctx 0).lesson = none ∧
     ∃ a ∈ (s.ctx 0).accepted, a.skip = false) := by and_intros <;> decide

theorem test_meets_LessonsCloseAndLoadsSwap :
    (let s := onSlot (fun x => { x with st := .draining })
     (s.ctx 0).lesson = some lesson0 ∧ lesson0.closing = false ∧ s.drained 0 = true ∧ s.host.deferred = [] ∧ s.host.stalled = [] ∧
     s.host.inFlight = [] ∧ s.owesAccess 0 = false ∧ (s.ctx 0).hostLost = false ∧ (s.ctx 0).queue = [] ∧
     (s.ctx 0).buffer.length + lesson0.recompute.length < 64 ∧ s.bufferUse + lesson0.recompute.length < 256) ∧
    (let s := onCtx (fun x => { x with waitLoad := some (2, 5) })
     (s.ctx 0).waitLoad = some (2, 5) ∧ (s.ctx 0).loading = none ∧ (s.ctx 0).armed = none ∧ (s.desc 0 5).live = false ∧
     s.reachAll [] = true) ∧
    (let image : Desc := BitVec.ofNat 512 (2 ^ 490 + 9 * 2 ^ 486 + 63 * 2 ^ 263)
     let s := { onCtx (fun x => { x with waitLoad := some (2, 5), descs := [(5, image)] }) with
       clk := { running.clk with gates := [(0, { Gate.init with state := 2 })] } }
     let u := (s.imageReads image).foldl (fun (u : State) k =>
       if (u.gate (quadOf (bankOfCol k))).state = 3 then u else u.demandGate (quadOf (bankOfCol k))) s
     (s.ctx 0).waitLoad = some (2, 5) ∧ (s.desc 0 5).live = true ∧ u.reachAll (s.imageReads image) = false) ∧
    (let s := onCtx (fun x => { x with loading := some ⟨2, []⟩ })
     (s.ctx 0).loading = some ⟨2, []⟩ ∧ s.refusal 0 [] = some (0, 1)) ∧
    (let s := onCtx (fun x => { x with resetting := true })
     (s.ctx 0).resetting = true) ∧
    (idle.ctx 0).lesson = none ∧ (idle.ctx 0).waitLoad = none ∧ (idle.ctx 0).loading = none ∧ (idle.ctx 0).resetting = false ∧
    (idle.quad 0).changing = false ∧
    (let s := onQuad (fun x => { x with changing := true, chosen := some 2 })
     (s.quad 0).changing = true ∧ (s.quad 0).chosen = some 2) := by and_intros <;> decide +kernel

/-- An image of one instruction, END (R100). -/
def imageBody : List Byte := List.replicate 16 0
def image0 : List Byte := [0x45, 0x56, 0x49, 0x31, 0, 1, 0, 0, 1, 0, 0, 0] ++ List.replicate 20 0 ++ sha3 imageBody ++ imageBody

/-- The image loads: it is not refused, and it is stored in the shadow halves of an idle context. -/
theorem test_meets_LessonsCloseAndLoadsSwap_goodImage :
    let s := onCtx (fun x => { x with lesson := none, loading := some ⟨2, image0⟩ })
    (s.ctx 0).loading = some ⟨2, image0⟩ ∧
    (let s1 := s.setCtx 0 { s.ctx 0 with loading := none }
     s1.refusal 0 image0 = none ∧ (s1.storeHalves 0 2 (image0.take (imageLength image0))).isSome = true) ∧
    (s.ctx 0).lesson = none ∧ 0 % 1024 = s.ring.timebase % s.ring.period ∧
    (let s : State := { s with ring := { s.ring with timebase := 1 } }
     ¬ (s.ring.period ≠ 0 ∧ s.ring.timebase % s.ring.period = 0)) := by and_intros <;> decide +kernel

theorem test_meets_RefreshAndScrub :
    (running.stack 0).failed = false ∧ running.selfRefresh 0 = false ∧ (running.bank 0).debt < 8 ∧ (running.stack 0).recovering = false ∧
    (({ running with stk := [(0, { Stack.init with recovering := true })] } : State).stack 0).recovering = true ∧
    (let s : State := { running with banks := [(0, { Bank.init with debt := 8 })] }
     8 ≤ (s.bank 0).debt ∧ s.issuing 0 = true ∧ (s.modBank 0 (fun x => { x with debt := x.debt + 1 })).recessNext 0 = false) ∧
    (let s : State := { ready with banks := [(0, { Bank.init with debt := 8 })] }
     8 ≤ (s.bank 0).debt ∧ s.issuing 0 = false ∧ (s.modBank 0 (fun x => { x with debt := x.debt + 1 })).recessNext 0 = false) ∧
    (let s : State := { onQuad (fun x => { x with
       tt := [(0x1000, 0x60)], slots := [(0, { slot0 with pc := 0x1000 })] }) with banks := [(0, { Bank.init with debt := 8 })] }
     (s.modBank 0 (fun x => { x with debt := x.debt + 1 })).recessNext 0 = true) ∧
    (let s : State := { running with stk := [(0, { Stack.init with failed := true })] }
     (s.stack 0).failed = true ∧ (s.stack (stackOf 5)).failed = true) ∧
    ready.issuing 0 = false ∧ (ready.stack 0).slateQ = [] ∧ (ready.stack 0).writes = [] ∧ running.issuing 0 = true ∧ (running.bank 0).nbq = [] ∧
    (running.stack 0).band = (running.stack 0).bandWanted ∧
    (({ running with banks := [(0, { Bank.init with nbq := [⟨5, 1⟩] })] } : State).bank 0).nbq ≠ [] ∧
    (({ running with stk := [(0, { Stack.init with bandWanted := 1 })] } : State).stack 0).band ≠
      (({ running with stk := [(0, { Stack.init with bandWanted := 1 })] } : State).stack 0).bandWanted ∧
    (running.stack 0).scrubHead = [] ∧ (running.stack 0).scrubPos + 1 < 2 ^ 31 ∧ (running.stack 0).writes = [] ∧
    (running.quad 0).masked = [] ∧ running.reachAll [0 * 2 ^ 31 + (running.stack 0).scrubPos] = true ∧
    ({ rowOpen with stk := [(0, { Stack.init with scrubHead := [192] })] } : State).reachAll [192] = false ∧
    3 ∉ ready.health.clearing ∧ 770 ∉ ready.health.clearingG ∧
    3 ∈ ({ ready with health := { ready.health with clearing := [3] } } : State).health.clearing ∧
    770 ∈ ({ ready with health := { ready.health with clearingG := [770] } } : State).health.clearingG := by
  and_intros <;> decide
/-- No row of the stack is open. -/
theorem test_meets_RefreshAndScrub_closed :
    (∀ u, stackOf u = 0 → (running.bank u).open0 = none ∧ (running.bank u).open1 = none) ∧
    (let s : State := { running with banks := [(0, { Bank.init with nbq := [⟨5, 1⟩] })] }
     ∀ u, stackOf u = 0 → (s.bank u).open0 = none ∧ (s.bank u).open1 = none) := by
  refine ⟨fun u _ => ⟨rfl, rfl⟩, fun u _ => ?_⟩
  rcases u with _ | u <;> exact ⟨rfl, rfl⟩

theorem test_meets_StackLinksRecover :
    (running.stack 3).failed = false ∧ (running.stack 3).recovering = false ∧
    (if false then (running.stack 3).sameFails + 1 else 0) < 4 ∧
    ((running.stack 3).alerts.filter (fun x => decide (running.ring.timebase < x + 10000)) ++ [running.ring.timebase]).length < 16 ∧
    4 ≤ (if true then (({ running with stk := [(3, { Stack.init with sameFails := 3 })] } : State).stack 3).sameFails + 1 else 0) ∧
    (let s : State := { running with stk := [(3, { Stack.init with alerts := List.replicate 15 1 })] }
     16 ≤ ((s.stack 3).alerts.filter (fun x => decide (s.ring.timebase < x + 10000)) ++ [s.ring.timebase]).length) ∧
    (let k : Stack := { Stack.init with
       nextTag := 1, retry := [⟨62, 5, .act, [0], 9⟩, ⟨63, 6, .refresh, [0], 0⟩, ⟨0, 7, .rd, [0], 3⟩], behind := [(4, some 63)] }
     k.retry.map (fun r => r.tag) = (List.range 3).map (fun i => k.nextTag - BitVec.ofNat 6 (3 - i)) ∧
     tget none k.behind 4 = some (k.nextTag - BitVec.ofNat 6 2)) ∧
    (let s (n : Nat) : State := { running with stk := [(3, { Stack.init with recovering := true, recFails := n })] }
     ((s 0).stack 3).recovering = true ∧ ((s 1).stack 3).recFails < 2 ∧ 2 ≤ ((s 2).stack 3).recFails ∧
     (∀ i, i < 5 → ((s 2).stack (5 * quadOfStack 3 + i)).slateQ = []) ∧ (s 2).host.inFlight = [] ∧ (s 2).ring.kvWait = [] ∧
     (∀ r ∈ (s 2).ring.requests, r.answered = none) ∧
     ∀ p ∈ (s 2).banks, stackOf p.1 = 3 → p.2.debt ≤ 8 ∧ ∀ n ∈ p.2.nbq, (s 2).ring.timebase < n.deadline) := by
  and_intros <;> decide

/-- A rank-1 UINT32 tensor of n elements in staging memory. -/
def staged (base n : Nat) : Desc :=
  BitVec.ofNat 512 (2 ^ 495 + 2 ^ 494 + 2 ^ 490 + 8 * 2 ^ 486 + 7 * 2 ^ 481 + 7 * 2 ^ 478 + 7 * 2 ^ 475 + 0xFFF * 2 ^ 452 +
    0xFFF * 2 ^ 440 + 0xFFF * 2 ^ 428 + base * 2 ^ 305 + (n - 1) * 2 ^ 263)

/-- Share 7 of context 0 in slot 0: the record's operation and its other bits. -/
def shareOf (op rest : Nat) : Share :=
  { id := 7, slot := 0, ctx := 0, record := BitVec.ofNat 512 (op * 2 ^ 508 + rest), binding := PenBinding.unbound, nth := 0
    phase := 2, granted := 0, remote := 0, k7 := 0, firstIssue := 0, taken := [], combined := 0, wrote := 0, result := none, ringing := false }

/-- `running` with tensors 1 and 2 in staging memory and share 7 in engine 0 or engine 1. -/
def sharing (engine : Nat) (h : Share) : State :=
  { running with
    quads := [(0, { quad0 with xq := if engine = 0 then [h] else [], mq := if engine = 0 then [] else [h] })]
    ctxs := [(0, { ctx0 with descs := [(1, staged 0 8), (2, staged 256 8)] })] }
/-- Destination tensor 2, source tensor 1. -/
def operands : Nat := 2 * 2 ^ 492 + 2 ^ 480

theorem test_meets_CopiesMoveTheirBytes :
    (let h := shareOf 1 operands
     let s := sharing 0 h
     s.share 0 0 7 = some h ∧ s.ready 0 1 h = true ∧ s.reachAll (moveCols (s.moves 0 h).1) = true ∧ (s.moves 0 h).1.length = 32 ∧
     (∀ m ∈ (s.moves 0 h).1, m.dst.kind = 1 ∧ m.dst.byte < 32 ∧ (m.src.kind = 1 ∧ m.src.byte < 32 ∨ m.src.kind = 3)) ∧
     ((s.moves 0 h).1.map (·.dst)).Nodup) ∧
    (let h := shareOf 2 operands
     (sharing 0 h).share 0 0 7 = some h ∧ (sharing 0 h).ready 0 2 h = true ∧ (sharing 0 h).ready 0 1 h = false ∧
     (sharing 0 h).reachAll (moveCols ((sharing 0 h).moves 0 h).1) = true) ∧
    (let h := shareOf 3 operands
     (sharing 0 h).share 0 0 7 = some h ∧ (sharing 0 h).ready 0 3 h = true ∧
     (sharing 0 h).reachAll (moveCols ((sharing 0 h).moves 0 h).1) = true) := by and_intros <;> decide +kernel

theorem test_meets_SharesEndAndGrants :
    (let h := { shareOf 1 (2 ^ 505) with phase := 3, binding := ⟨1, 0, 9, false⟩ }
     (sharing 0 h).share 0 0 7 = some h ∧ h.phase = 3 ∧ h.remote = 0 ∧ h.penEn0 = true ∧ h.binding.kind = 1 ∧
     ((sharing 0 h).quad 0).hoists = []) ∧
    (let h := { shareOf 1 (2 ^ 507) with phase := 3, binding := ⟨1, 0, 9, false⟩ }
     (sharing 1 h).share 1 0 7 = some h ∧ h.phase = 3 ∧ h.penEn1 = true) ∧
    (let h := shareOf 1 (2 ^ 507)
     ((sharing 0 h).quad 0).tbuf = none ∧ ((sharing 0 h).quad 0).busy 0 < 8 ∧
     ((sharing 0 h).quad 0).xq.find? (fun h => h.phase = 2 ∧ h.transpose = true) = some h) ∧
    (let s := onQuad (fun x => { x with sb := [(2, sbEntry 1 [])], sbWait := [⟨0, none, 2, true, 0⟩] })
     s.grantable 0 [] (s.quad 0).sbWait = some ⟨0, none, 2, true, 0⟩) := by and_intros <;> decide +kernel
/-- With no request to grant: nothing waits, a remote access waits and may go on or may not, an answer waits. -/
def late77 : KvWait := ⟨258, 77, 0, 0, 1, none, false, [(0, (⟨0, 0, 0⟩ : Loc).box)], 0⟩
theorem test_meets_SharesEndAndGrants_remote :
    running.grantable 0 [] (running.quad 0).sbWait = none ∧ (∀ w ∈ running.ring.kvWait, running.kvReady w = false) ∧
    (∀ r ∈ running.ring.requests, running.answerReady r = false) ∧
    (let r : RemoteReq := ⟨0, 0, 7, false, 258, 77, 1, 0, 0, [(0, ⟨1, 8, 0⟩)], 0, false, 0, some (9, false)⟩
     let s : State := { running with ring := { Ring.init with requests := [r] } }
     s.ring.requests.find? s.answerReady = some r ∧ r.answered = some (9, false)) ∧
    (let s : State := { running with ring := { Ring.init with kvWait := [late77] } }
     s.ring.kvWait.find? s.kvReady = some late77) := by and_intros <;> decide +kernel

theorem test_meets_MergeEngineWritesItsResult :
    (let h := shareOf 1 operands
     let s := sharing 1 h
     s.share 1 0 7 = some h ∧ h.phase = 2 ∧ h.result = none ∧ h.op = 1 ∧ h.stream = false ∧ h.scope ≠ 2 ∧
     s.team 0 h = some [(0, h)]) ∧
    (let h := shareOf 1 (operands + 2 ^ 506 + 4 * 2 ^ 16 * 2 ^ 330)
     let s := sharing 1 h
     s.share 1 0 7 = some h ∧ h.phase = 2 ∧ h.result = none ∧ h.op = 1 ∧ h.stream = true ∧ h.scope = 0 ∧
     h.taken.length + (s.quad 0).outs.length < Marg.count h.arg) ∧
    (let h := shareOf 2 operands
     h.op = 2 ∧ h.scope ≠ 2 ∧ (sharing 1 h).team 0 h = some [(0, h)] ∧ (sharing 1 h).share 1 0 7 = some h) ∧
    (let h := shareOf 4 (operands + 0xFFF * 2 ^ 400)
     h.op = 4 ∧ h.aux = 0xFFF ∧ (sharing 1 h).share 1 0 7 = some h) ∧
    (let h := shareOf 3 operands
     h.op = 3 ∧ (sharing 1 h).share 1 0 7 = some h ∧ h.result = none) := by and_intros <;> decide +kernel

/-- A member of a ring that owns block 0 of a tensor with RING_TID 77 in bank 0. -/
def owned : State := { running with
  ring := { owned0 with ports := [(2, { Port.init with st := 3 })] }
  quads := [(0, { quad0 with staging := [(2, 1), (3, 0x41)] })]
  ctxs := [(0, { ctx0 with descs := [(1, staged 0 8), (2, BitVec.ofNat 512 (77 * 2 ^ 496 + 2 ^ 494 + 2 * 2 ^ 490 + 8 * 2 ^ 486 +
    7 * 2 ^ 481 + 7 * 2 ^ 478 + 2 ^ 475 + 0xFFF * 2 ^ 452 + 2 ^ 440 + 0xFFF * 2 ^ 428 + 7 * 2 ^ 263 + 32 * 2 ^ 116))] })] }
def tensor77 : Desc := (owned.desc 0 2)
/-- A remote read, or write, of share 7 that waits for module 258's answer. -/
def asking (write : Bool) : State :=
  { sharing 0 (shareOf 1 operands) with ring := { owned.ring with
      requests := [⟨0, 0, 7, write, 258, 77, 1, 0, 0, [(0, ⟨1, 8, 0⟩)], 0, false, 0, none⟩] } }
/-- The read again, whose answer goes to byte 5 of column 8 of bank 0. -/
def askingBank : State :=
  { sharing 0 (shareOf 1 operands) with ring := { owned.ring with
      requests := [⟨0, 0, 7, false, 258, 77, 1, 0, 0, [(0, ⟨0, 8, 5⟩)], 0, false, 0, none⟩] } }
/-- A frame of module 258 that is next on its hop and in its sequence acts, whatever it says. -/
theorem test_frame_acts (s : State) (b : FrameBody) (o : s.inOrder head0 = true) (d : head0.dst = (s.took head0).ownIdent)
    (e : (s.took head0).ring.early = []) (n : (s.took head0).ring.esin = []) : s.actsHere head0 b := by
  have m : s.hop head0 b = (s.took head0).owe head0.port b.channel := rfl
  unfold State.actsHere State.awaits
  rw [m]
  generalize s.took head0 = k at d e n ⊢
  refine ⟨o, d, .inr ⟨e, .inl ?_⟩⟩
  rw [show (k.owe head0.port b.channel).ring.esin = [] from n]
  rfl

theorem test_meets_RemoteColumnsAreServed :
    owned.actsHere head0 (.kvRead 77 0 0 1) ∧ owned.actsHere head0 (.kvWrite 77 0 0 [5] false) ∧
    (asking false).actsHere head0 (.kvData 77 1 0 none false) ∧ askingBank.actsHere head0 (.kvData 77 1 0 none false) ∧
    (asking true).actsHere head0 (.kvAck 77 1 0) :=
  ⟨test_frame_acts _ _ (by decide) (by decide) (by decide) (by decide), test_frame_acts _ _ (by decide) (by decide) (by decide) (by decide),
   test_frame_acts _ _ (by decide) (by decide) (by decide) (by decide), test_frame_acts _ _ (by decide) (by decide) (by decide) (by decide),
   test_frame_acts _ _ (by decide) (by decide) (by decide) (by decide)⟩
theorem test_meets_RemoteColumnsAreServed_access :
    (let u0 := owned.reached head0 (.kvRead 77 0 0 1)
     u0.outOfRing = false ∧ (1 : Nat) ≤ 7 ∧ u0.tidDesc (77 : BitVec 16).toNat = some (0, tensor77) ∧
     u0.kvPlaces 0 tensor77 0 0 false = some [(0, ⟨0, 0, 0⟩)] ∧ (u0.stack (stackOf (bankOfCol 0))).failed = false ∧
     (({ u0 with sync := { u0.sync with arrivals := u0.sync.arrivals + 1 } } : State).demandGate 0).kvReady late77 = true) ∧
    (let u0 := owned.reached head0 (.kvRead 76 0 0 1)
     u0.tidDesc (76 : BitVec 16).toNat = none ∧ 7 < (8 : Nat)) ∧
    (let s : State := { owned with quads := [(0, { quad0 with sb := [(2, sbEntry 2 [(none, true)])] })] }
     let u0 := s.reached head0 (.kvRead 77 0 0 1)
     u0.outOfRing = false ∧
     (({ u0 with sync := { u0.sync with arrivals := u0.sync.arrivals + 1 } } : State).demandGate 0).kvReady late77 = false) ∧
    (let s : State := { owned with ring := { owned.ring with state := 0 } }
     s.inOrder head0 = true ∧ (s.reached head0 (.kvRead 77 0 0 1)).outOfRing = true) := by and_intros <;> decide +kernel
/-- Answers that a request waits for, in reach and not, and without a request. -/
theorem test_meets_RemoteColumnsAreServed_answer :
    (let mine (w : Bool) (r : RemoteReq) : Bool := r.write == w && r.answered.isNone && r.module == (258 : BitVec 14).toNat &&
       r.tid == (77 : BitVec 16).toNat && r.index == 1 && r.column == 0
     let u := (asking false).reached head0 (.kvData 77 1 0 none false)
     (u.ring.requests.find? (mine false)).isSome = true ∧ (owned.reached head0 (.kvData 77 1 0 none false)).ring.requests.find? (mine false) = none ∧
     u.share 0 0 7 = some (shareOf 1 operands) ∧ (∀ r ∈ u.ring.requests, u.reachAll r.cols = true ∧ (r.moves.map (·.2)).Nodup ∧
       ∀ m ∈ r.moves, m.2.kind = 1 ∧ m.2.byte < 32) ∧
     (let v := askingBank.reached head0 (.kvData 77 1 0 none false)
      (v.ring.requests.find? (mine false)).isSome = true ∧ v.share 0 0 7 = some (shareOf 1 operands) ∧
      ∀ r ∈ v.ring.requests, v.reachAll r.cols = true ∧ (r.moves.map (·.2)).Nodup ∧
        ∀ m ∈ r.moves, m.2.kind = 0 ∧ m.2.byte < 32 ∧ (v.stack (stackOf (bankOfCol m.2.key))).failed = false) ∧
     (let s : State := { askingBank with clk := { askingBank.clk with gates := [(0, { Gate.init with state := 2 })] } }
      let v := s.reached head0 (.kvData 77 1 0 none false)
      ∀ r ∈ v.ring.requests, v.reachAll r.cols = false) ∧
     (let w := (asking true).reached head0 (.kvAck 77 1 0)
      (w.ring.requests.find? (fun r => mine true r && r.need == 0)).isSome = true ∧ w.share 0 0 7 = some (shareOf 1 operands)) ∧
     (owned.reached head0 (.kvAck 77 1 0)).ring.requests = []) := by and_intros <;> decide +kernel
theorem test_meets_RemoteColumnsAreServed_nothingWaits :
    (∀ q, (owned.quad q).masked = []) ∧ (∀ st, (owned.stack st).writes = []) :=
  ⟨fun q => by rcases q with _ | q <;> rfl, fun _ => rfl⟩

/-- Context 0 with plots 0 to 3 of bank 0; pane 0 shows bank 0 from its start in the bank view and is checked. -/
def paned : State := { ready with
  host := { ready.host with panes := [(0, 0xE000000000000000)], fullMap := true }
  ctxs := [(0, { ctx0 with allocs := [(0, ⟨true, false, 0, 0, 0, 0, 0, 0, 0, 3⟩)] })] }
def line64 : WriteData := ⟨5, BitVec.allOnes 64, false⟩

theorem test_meets_SlateAccessesAreServed :
    paned.boot.stage = 7 ∧ paned.host.deferred = [] ∧ paned.host.stalled = [] ∧ paned.host.inFlight = [] ∧
    paned.deferring 0 = false ∧ paned.deferring 1 = false ∧ paned.busyFor ⟨3, 0, none, 0, 0, [], false⟩ = false ∧
    paned.busyFor ⟨3, 0, some line64, 0, 0, [], false⟩ = false ∧ line64.enables = BitVec.allOnes 64 ∧
    (∀ c ∈ [0, 1], (paned.gate (quadOf (bankOfCol c))).state = 0 ∧ (paned.stack (stackOf (bankOfCol c))).failed = false) ∧
    0 = Pane.translate (paned.pane 0) 0 ∧ Pane.valid (paned.pane 0) = true ∧ (⟨3, 0, none, 0, 0, [], false⟩ : Access).exists_ = true ∧
    (∀ c ∈ [0, 1], paned.inAllocation (Pane.ctx (paned.pane 0)) (32 * c) = true) ∧
    (0 : BitVec 41).toNat / 64 * 64 < 0x14000000000 ∧ paned.host.fullMap = true ∧ 0 = flatToBank 0 ∧
    (({ paned with quads := [(0, { quad0 with sb := [(2, sbEntry 2 [(none, true)])] })] } : State).deferring 0 ||
      ({ paned with quads := [(0, { quad0 with sb := [(2, sbEntry 2 [(none, true)])] })] } : State).deferring 1) = true ∧
    paned.host.deferred.length < 512 ∧ paned.mustWait ⟨3, 0, none, 0, 0, [], false⟩ = false ∧
    ({ paned with stk := [(0, { Stack.init with slateQ := [⟨2, 0, some line64, 0, 0, [], false⟩] })] } : State).mustWait
      ⟨3, 0, none, 0, 1, [], false⟩ = true ∧
    ({ paned with banks := [(0, { Bank.init with open0 := some ⟨6, true⟩ })] } : State).busyFor ⟨3, 0, none, 0, 0, [], false⟩ = true ∧
    ({ paned with host := { paned.host with stalled := [⟨2, 0, none⟩] } } : State).host.stalled ≠ [] ∧
    (let s (r : Bool) : State := { ready with stk := [(0, { Stack.init with slateQ := [⟨3, 0, none, 0, 0, [], false⟩], recovering := r })] }
     ((s false).stack 0).slateQ.filter (fun a => !(a.cols.any (s false).deferring)) ≠ [] ∧ (s false).selfRefresh 0 = false ∧
     ((s false).stack 0).recovering = false ∧ (s false).host.inFlight = [] ∧ ((s true).stack 0).recovering = true ∧
     (s false).host.deferred.length + (((s false).stack 0).slateQ.filter (fun a => a.cols.any (s false).deferring)).length ≤ 512) ∧
    ready.selfRefresh 0 = false ∧ (ready.stack 0).slateQ.filter (fun a => !(a.cols.any ready.deferring)) = [] ∧
    512 ≤ ({ paned with host := { paned.host with
      deferred := List.replicate 512 ⟨2, 0, none, 0, 0, [], false⟩ } } : State).host.deferred.length ∧
    0x14000000000 + (0 : BitVec 28).toNat / 64 * 64 = (0x14000000000 : BitVec 41).toNat / 64 * 64 ∧
    Pane.allowed false 0xE000000000000000 = true ∧ Pane.allowed false 0xC000000000000000 = false := by
  and_intros <;> decide +kernel
theorem test_meets_SlateAccessesAreServed_nothingWaits :
    (∀ k, (paned.stack k).slateQ = [] ∧ (paned.stack k).writes = []) ∧ (∀ q, (paned.quad q).masked = []) :=
  ⟨fun _ => ⟨rfl, rfl⟩, fun _ => rfl⟩

theorem test_meets_PaneFaultsAnswerAndCount :
    Pane.valid (ready.pane 0) = false ∧ ready.host.deferred.length < 512 ∧ ready.host.stalled = [] ∧
    (∃ c ∈ (⟨3, Pane.translate 0xE000014000000000 0, none, 0, 0, [], false⟩ : Access).cols, 20 ≤ stackOf (bankOfCol c)) ∧
    Pane.check (paned.pane 0) = true ∧
    (∃ c ∈ (⟨3, Pane.translate (paned.pane 0) 0x40000, none, 0, 0, [], false⟩ : Access).cols, paned.inAllocation 0 (32 * c) = false) ∧
    ready.mustWait ⟨3, 0, none, 0, 0, [], true⟩ = false ∧
    ({ ready with stk := [(0, { Stack.init with slateQ := [⟨2, 0, some line64, 0, 0, [], false⟩] })] } : State).mustWait
      ⟨3, 0, none, 0, 1, [], true⟩ = true ∧ State.reset.boot.stage ≠ 7 ∧ ready.host.inFlight = [] := by and_intros <;> decide +kernel

/-- Context 0 with a command ring of the bytes given. -/
def ringing (bytes : Table Byte) : State := { ready with
  ctxs := [(0, { ctx0 with lesson := none })], host := { ready.host with rings := bytes } }
/-- A LESSON command of roll 1 in slots 0 and 1, without payload; and one with a bad opcode. -/
def lessonCmd : Table Byte := [(0, 1), (8, 1), (10, 2), (120, 1)]
def badCmd : Table Byte := [(0, 1), (8, 3), (10, 2), (120, 1)]

theorem test_meets_CommandsAreAcceptedFromTheRing :
    (let s := ringing lessonCmd
     let x := s.ctx 0
     x.live = true ∧ x.hostLost = false ∧ x.stopped = false ∧ x.lastRoll.toNat < 1 ∧ x.head ≠ 2 ∧ s.cmdArrived 0 0 = true ∧
     s.cmdValid 0 0 = true ∧ s.cmdFits 0 2 = true ∧ BitVec.ofNat 12 ((0 + s.cmdSlots 0 0) % 4096) = 2 ∧ x.lastRoll + 1 = 1) ∧
    (let s := ringing badCmd
     s.cmdArrived 0 0 = true ∧ (s.cmdValid 0 0 && s.cmdFits 0 2) = false ∧ (s.ctx 0).head = 0 ∧ (s.ctx 0).accepted = []) ∧
    (ringing badCmd).roomFor 0 ∧ (ringing []).cmdArrived 0 0 = false ∧
    ((ringing []).ctx 0).pendingDb = none ∧ [(1 : Byte)].length ≤ 262144 ∧ ((ringing []).ctx 0).slotTaken 0 = false ∧
    ((onCtx (fun x => { x with head := 2 })).ctx 0).slotTaken 0 = true ∧
    (let x := (onCtx (fun x => { x with pendingDb := some (2, 1), head := 2, accepted := [⟨0, 2, 7, false⟩] })).ctx 0
     x.pendingDb = some (2, 1) ∧ x.head = 2 ∧ x.accepted ≠ [] ∧ x.lastRoll ≠ 1 ∧ ¬ (x.head = 2 ∧ x.lastRoll = 1)) ∧
    (let s := onCtx (fun x => { x with pendingDb := some (2, 1) })
     (s.ctx 0).pendingDb = some (2, 1) ∧ (s.ctx 0).head ≠ 2 ∧ s.cmdArrived 0 (s.ctx 0).head.toNat = false ∧ s.roomFor 0) ∧
    ((onCtx (fun x => { x with stopped := true })).ctx 0).stopped = true ∧
    ((ringing []).ctx 0).head = ((ringing []).ctx 0).done ∧
    ((onCtx (fun x => { x with head := 2 })).ctx 0).head ≠ ((onCtx (fun x => { x with head := 2 })).ctx 0).done := by and_intros <;> decide

theorem test_meets_HostLostIgnoresDoorbells :
    ((onCtx (fun x => { x with hostLost := true })).ctx 0).live = true ∧
    ((onCtx (fun x => { x with hostLost := true })).ctx 0).hostLost = true ∧
    (idle.ctx 0).live = true ∧ (idle.ctx 0).lesson = none ∧ (running.ctx 0).lesson ≠ none := by decide

/-- A record waits in the buffer of context 0, whose report ring has four entries. -/
def waiting0 : Waiting := ⟨Report.blank 2, [], false, none⟩
def reporting : State := onCtx (fun x => { x with buffer := [waiting0], reportCfg := 0x102, unsignalled := 1 })

theorem test_meets_ReportsAreWrittenInOrder :
    (reporting.ctx 0).buffer = waiting0 :: [] ∧ (reporting.ctx 0).reportEnabled = true ∧ reporting.host.linkState = 2 ∧
    waiting0.early = false ∧ (∀ p ∈ waiting0.after, reporting.writesDone p.1 0 p.2 = true) ∧ ((reporting.ctx 0).reportTail.toNat + 1) % (reporting.ctx 0).reportEntries ≠
      (reporting.ctx 0).reportHead.toNat ∧ (reporting.ctx 0).unsignalled ≠ 0 ∧
    (running.ctx 0).live = true ∧ (running.ctx 0).reportEnabled = false ∧ (0x102 : Word64).getLsbD 8 = true ∧
    fld (reporting.ctx 0).reportCfg 4 0 ≠ fld (0x103 : Word64) 4 0 := by and_intros <;> decide
/-- Records that may not be written: none, of a word that has not issued, and of one whose writes are not done. -/
theorem test_meets_ReportsAreWrittenInOrder_waits :
    (running.ctx 0).buffer = [] ∧ ({ waiting0 with early := true } : Waiting).early = true ∧
    (let s := { reporting with stk := [(0, { Stack.init with writes := [⟨321, some 0, 0, none⟩] })], quads := [(0, { quad0 with seq := 1 })] }
     ∃ p ∈ ({ waiting0 with after := [(0, 1)] } : Waiting).after, s.writesDone p.1 0 p.2 = false) ∧
    (running.ctx 0).unsignalled = 0 := by and_intros <;> decide
theorem test_meets_ReportsAreWrittenInOrder_noneWaits : ∀ k, (reporting.ctx k).queue = [] :=
  fun k => by rcases k with _ | k <;> rfl

theorem test_meets_HostHoistsArrivesAndWatches :
    (let v : Word64 := 0x100000003
     ((penAt 1 5).ctx 0).live = true ∧ fld v 63 48 = 0 ∧ fld v 31 10 = 0 ∧ fld v 47 32 ≠ 0 ∧ ((penAt 1 5).quad 0).hoists = [] ∧
     ((penAt 1 5).binding 0 (fld v 9 0)).kind = 1) ∧
    (let v : Word64 := 0x104
     let s := { onCtx (fun x => { x with rolls := [(4, ⟨true, 6, false⟩)] }) with
       sync := { Sync.init with rolls := [(6, { RollCall.free with st := 1, localMask := 0x10001 })] } }
     let r := s.rollCall (s.rollHandle 0 (fld v 5 0)).num.toNat
     (s.ctx 0).live = true ∧ fld v 63 9 = 0 ∧ fld v 7 6 = 0 ∧ (s.rollHandle 0 (fld v 5 0)).bound = true ∧
     (s.rollHandle 0 (fld v 5 0)).dead = false ∧ r.st = 1 ∧ r.ring = false ∧ r.localMask.getLsbD 16 = true ∧
     r.arrived.getLsbD 16 = false) ∧
    (tget Watch.init ((penAt 1 5).ctx 0).watches 2).armed = false ∧ ((penAt 1 5).binding 0 ((3 : BitVec 16).toNat % 1024)).kind = 1 ∧
    ((penAt 1 5).pen 9).st = 1 ∧ ((penAt 1 5).pen 9).value.toNat < 6 ∧ 5 ≤ ((penAt 1 5).pen 9).value.toNat ∧
    (penAt 1 5).roomFor 0 ∧
    (let s := { penAt 1 5 with ctxs := [(0, { ctx0 with
       pens := [(3, ⟨1, 0, 9, false⟩)], watches := [(2, ⟨6, 100, 3, 1, true⟩)] })] }
     let w := tget Watch.init (s.ctx 0).watches 2
     w.armed = true ∧ w.limit ≠ 0 ∧ (s.binding 0 (w.pen.toNat % 1024)).kind = 1 ∧ (s.pen 9).st = 1 ∧
     (s.pen 9).value.toNat < w.expected.toNat ∧ s.roomFor 0) ∧
    (let s := { penAt 1 5 with quads := [(0, { quad0 with slots := [(0, { slot0 with blocked := some (.pennant 3 6) })] })] }
     (s.slot 0 0).ctx = some 0 ∧ (s.ctx 0).lesson = some lesson0 ∧ (s.slot 0 0).blocked = some (.pennant 3 6) ∧
     (s.slot 0 0).timedOut = false ∧ (s.cfg 0).waitLimit ≠ 0 ∧ (s.binding 0 3).kind = 1 ∧ (s.pen 9).st = 1 ∧
     (s.pen 9).value.toNat < 6 ∧ s.roomFor 0) := by and_intros <;> decide

/-- A roll call in the binding 4 of context 0; participant 16 has arrived as given. -/
def called (r : RollCall) (bound dead : Bool) : State :=
  { onCtx (fun x => { x with rolls := [(4, ⟨bound, 6, dead⟩)] }) with sync := { Sync.init with rolls := [(6, r)] } }

theorem test_meets_HostHoistsArrivesAndWatches_rolls :
    (let r := { RollCall.free with st := 1, localMask := 0x10001 }
     (r.arrive 16 (called r true false).ring.timebase).2 = .recorded 0 ∧ (called r true false).onBell = false) ∧
    (let r := { RollCall.free with st := 1, localMask := 0x10001, arrived := 0x10000, ahead := 0x10000 }
     (r.arrive 16 (called r true false).ring.timebase).2 = .held) ∧
    (let r := { RollCall.free with st := 1, localMask := 1 }
     (r.arrive 16 (called r true false).ring.timebase).2 = .outsider) ∧
    ((called RollCall.free true true).rollHandle 0 4).dead = true ∧
    ((called RollCall.free false true).rollHandle 0 4).bound = false := by and_intros <;> decide
theorem test_meets_HostHoistsArrivesAndWatches_remote :
    (let s := remoteAt false 0 0
     let b := s.binding 0 3
     b.kind = 2 ∧ b.dead = false ∧ s.outOfRing = false ∧ (s.posOf b.module.toNat).isSome = true ∧ s.ring.state ≠ 1) ∧
    (let s := { remoteAt false 0 0 with sync := Sync.init }
     let b := s.binding 0 3
     b.kind = 2 ∧ b.dead = false ∧ (s.remote b.module.toNat b.phys.toNat).subscribed = false ∧ s.inRing = true) ∧
    (let s : State := { remoteAt false 0 0 with ring := { owned0 with state := 1 } }
     (s.binding 0 3).kind = 2 ∧ s.ring.state = 1 ∧ (s.quad 0).hoists = []) ∧
    (running.binding 0 3).kind ≠ 1 ∧ running.testWait 0 3 6 = some true ∧ (penAt 1 5).testWait 0 3 6 = none ∧
    (penAt 1 5).testWait 0 3 5 = some false ∧
    (let s := { penAt 1 5 with ctxs := [(0, { ctx0 with
       pens := [(3, ⟨1, 0, 9, false⟩)], watches := [(2, ⟨6, 0, 3, 1, true⟩)] })] }
     (tget Watch.init (s.ctx 0).watches 2).limit = 0 ∧ s.testWait 0 3 6 = none ∧ s.testWait 0 3 5 = some false) := by
  and_intros <;> decide

/-- `ready` with its boot or host part changed. -/
def booted (f : Boot → Boot) : State := { running with boot := f running.boot }
def hosted (f : HostSide → HostSide) : State := { running with host := f running.host }

theorem test_meets_LinkEventsAndHostLoss :
    running.host.linkState = 2 ∧ running.boot.cxlReleased = true ∧ running.boot.perstN = true ∧
    (hosted (fun h => { h with linkState := 0 })).host.linkState ≠ 2 ∧
    (hosted (fun h => { h with linkState := 3 })).host.linkState = 3 ∧ (16 : BitVec 8).toNat ∈ [16, 8, 4] ∧
    (32 : BitVec 8).toNat ∈ [64, 32, 16] ∧ (5 : BitVec 8).toNat ∉ [16, 8, 4] ∧
    (hosted (fun h => { h with linkState := 0 })).host.linkState = 0 ∧ running.boot.stage = 7 ∧ (running.ctx 0).live = true ∧
    (idle.ctx 0).lesson = none ∧ (booted (fun b => { b with stage := 5 })).boot.stage ≠ 7 ∧
    (booted (fun b => { b with perstN := false })).boot.perstN = false ∧
    (booted (fun b => { b with perstN := false, cxlReleased := false })).boot.cxlReleased = false := by and_intros <;> decide

theorem test_meets_PowerAndResetScopes :
    State.reset.boot.auxGood = false ∧ 3 ≤ ready.boot.stage.val ∧ State.reset.boot.stage.val < 3 ∧
    ready.boot.auxGood = true := by decide

/-- SCOPE 2 operations of one share: of a MERGE (roll handle 4 in ARG[45:40]) and a TOPK (in ARG[23:18]). -/
def merge2 : Share := shareOf 1 (operands + (2 * 2 ^ 4 + 4 * 2 ^ 40) * 2 ^ 330)
def topk2 : Share := shareOf 2 (operands + (2 * 2 ^ 16 + 4 * 2 ^ 18) * 2 ^ 330)
def calledShare (h : Share) (r : RollCall) (bound dead : Bool) : State :=
  { sharing 1 h with ctxs := [(0, { ctx0 with descs := [(1, staged 0 8), (2, staged 256 8)], rolls := [(4, ⟨bound, 6, dead⟩)] })]
                     sync := { Sync.init with rolls := [(6, r)] } }

theorem test_meets_MergeEngineWritesItsResult_ring :
    merge2.op = 1 ∧ merge2.scope = 2 ∧ topk2.op = 2 ∧ topk2.scope = 2 ∧ Marg.roll merge2.arg = 4 ∧ Targ.roll topk2.arg = 4 ∧
    (let r := { RollCall.free with st := 1, ring := false, localMask := 0x20000 }
     let s := calledShare merge2 r true false
     s.team 0 merge2 = some [(0, merge2)] ∧ (s.rollHandle 0 4).bound = true ∧ (s.rollHandle 0 4).dead = false ∧ (s.rollCall 6).st = 1 ∧
     (s.rollCall 6).ring = false ∧ s.onBell = false ∧ ((s.rollCall 6).arrive 17 s.ring.timebase).2 = .recorded 0 ∧
     (calledShare topk2 r true false).team 0 topk2 = some [(0, topk2)]) ∧
    ((calledShare merge2 RollCall.free false false).rollHandle 0 4).bound = false ∧
    ((calledShare merge2 RollCall.free true true).rollHandle 0 4).dead = true ∧
    (let h := { merge2 with result := some [], ringing := true }
     (sharing 1 h).share 1 0 7 = some h ∧ h.result = some [] ∧ h.ringing = true) ∧
    (let h := { topk2 with result := some [], ringing := false }
     (sharing 1 h).share 1 0 7 = some h ∧ h.result = some [] ∧ h.ringing = false) ∧
    (let h := shareOf 1 (operands + 2 ^ 506 + (2 * 2 ^ 4 + 4 * 2 ^ 16 + 4 * 2 ^ 40) * 2 ^ 330)
     h.stream = true ∧ h.scope = 2 ∧ h.result = none ∧ (sharing 1 h).team 0 h = none) ∧
    (let h := shareOf 1 (operands + 2 ^ 506 + (1 * 2 ^ 4 + 4 * 2 ^ 16) * 2 ^ 330)
     h.stream = true ∧ h.scope ≠ 2 ∧ (sharing 1 h).crew 0 h = some [(0, h)]) ∧
    (let h := shareOf 1 operands
     h.stream = false) := by and_intros <;> decide +kernel

/-- `ready` with the operator's digest of token 5. -/
def keyed : State := { ready with sec := { Sec.init with digests := [(0, tokenDigest 5)] } }

theorem test_meets_SessionsContextsAndModes :
    keyed.boot.cxlReleased = true ∧ keyed.host.locked = false ∧ keyed.host.sessions.length < 8 ∧
    keyed.roleDigest 0 0 ≠ 0 ∧ tokenDigest 5 = keyed.roleDigest 0 0 ∧ tokenDigest 6 ≠ keyed.roleDigest 0 0 ∧
    ready.roleDigest 0 0 = 0 ∧ ready.session 1 = some ⟨1, none, none⟩ ∧ (3 : BitVec 4) ≠ 0 ∧ (3 : BitVec 8).toNat ≤ 3 ∧
    (ready.ctx 0).live = false ∧ (∀ q ∈ bitsSet (3 : BitVec 4), (ready.freeSlotIn q).isSome = true) ∧
    (idle.ctx 0).live = true ∧ (idle.ctx 0).resetting = false := by and_intros <;> decide +kernel
theorem test_meets_SessionsContextsAndModes_granted : ready.grants 1 none ∧ idle.grants 2 (some 0) ∧ idle.grants 1 none ∧
    (∀ i, i < 0 → (ready.ctx i).live = true) ∧ (∀ sl, sl < 4 → (ready.slot 0 sl).ctx = none) :=
  ⟨⟨rfl, rfl, _, rfl, .inl rfl⟩, ⟨rfl, rfl, _, rfl, .inr ⟨by decide, rfl⟩⟩, ⟨rfl, rfl, _, rfl, .inl rfl⟩,
   fun _ h => absurd h (Nat.not_lt_zero _), fun _ _ => rfl⟩

theorem test_meets_SessionsContextsAndModes_refused :
    State.reset.boot.cxlReleased = false ∧ (Instr.ctxReset (some 1) 0).sessionHandle = some 1 ∧ idle.usdoUp = true ∧ idle.boot.stage = 7 ∧ (Instr.free 1 0 0).namesContext = some 0 ∧
    (Instr.free 1 0 0).ofDictionary = false ∧ ({ ready with boot := { ready.boot with stage := 4 } } : State).boot.stage ≠ 7 ∧
    ({ keyed with host := { keyed.host with locked := true } } : State).host.locked = true ∧
    8 ≤ ({ keyed with host := { keyed.host with sessions := List.replicate 8 ⟨1, none, none⟩ } } : State).host.sessions.length ∧
    (∀ c, c < 16 → (({ ready with ctxs := (List.range 16).map (fun k => (k, { Ctx.init with live := true })) } : State).ctx c).live = true) ∧
    idle.freeSlotIn 0 = none ∧ (onCtx (fun x => { x with resetting := true })).ctx 0 = { running.ctx 0 with resetting := true } ∧
    (idle.slot 0 0).ctx ≠ none ∧ 3 < (4 : BitVec 8).toNat := by and_intros <;> decide +kernel

/-- A table of one value at every key below n. -/
def everywhere {V : Type} (n : Nat) (v : V) : Table V := (List.range' 0 n).map (fun k => (k, v))
theorem tget_filled {V : Type} (d v : V) (n : Nat) : ∀ a i, a ≤ i → i < a + n → tget d ((List.range' a n).map (fun k => (k, v))) i = v := by
  induction n with
  | zero => intro a i h g; omega
  | succ n ih =>
    intro a i h g
    by_cases e : i = a
    · simp [List.range'_succ, tget, e]
    · simp only [List.range'_succ, List.map_cons, tget, e, if_false]
      exact ih (a + 1) i (by omega) (by omega)
theorem tget_everywhere {V : Type} (d v : V) (n i : Nat) (h : i < n) : tget d (everywhere n v) i = v :=
  tget_filled d v n 0 i (Nat.zero_le _) (by omega)

/-- `idle` with staging granules 0 to 3 in allocation entry 0 of context 0, tensor 1 in them, and an image tensor 4. -/
def stocked : State := { idle with ctxs := [(0, { idle.ctx 0 with
  allocs := [(0, ⟨true, true, 0, 0, 0, 0, 0, 0, 0, 3⟩)]
  descs := [(1, staged 0 8), (4, BitVec.ofNat 512 (2 ^ 490 + 9 * 2 ^ 486))] })] }

theorem test_meets_AllocationsDescriptorsAndLoads :
    (let a : Allocation := ⟨true, false, 0, 0, 0, 0, 0, 0, 0, 2⟩
     (∀ n ∈ List.range 3, ∀ b ∈ a.banks, idle.plotOpen (2048 * b + n) = true) ∧ boxInModule ⟨0, 0, 0, 0, 0, 0⟩ = true ∧
     (idle.ctx 0).span.getLsbD (quadOfStack 0) = true ∧ (idle.stack 0).failed = false ∧ (idle.allocation 0 0).live = false ∧
     (idle.modCtx 0 (fun x => { x with allocs := tset Allocation.none x.allocs 0 a })).plotUse 0 ≤
       (idle.cfg 0).plotQuota.toNat) ∧
    (let a : Allocation := ⟨true, true, 0, 0, 0, 0, 0, 0, 0, 2⟩
     (∀ n ∈ List.range 3, ∀ q ∈ bitsSet (idle.ctx 0).span, idle.granuleOpen q n = true) ∧
     (idle.modCtx 0 (fun x => { x with allocs := tset Allocation.none x.allocs 0 a })).stageUse 0 ≤
       (idle.cfg 0).stageQuota.toNat) ∧
    (let s := { stocked with ctxs := [(0, { stocked.ctx 0 with descs := [] })] }
     (s.allocation 0 0).live = true ∧ (∀ d ∈ (s.ctx 0).descs, Desc.live d.2 = true → Desc.alloc d.2 ≠ 0)) ∧
    stocked.checkDesc 0 2 (staged 256 8) = Code.ok ∧ (stocked.desc 0 2).live = false ∧ (stocked.desc 0 1).live = true ∧
    (stocked.ctx 0).namesHandle 1 = false ∧ (stocked.ctx 0).dismissed = true ∧ Desc.holdsImage (stocked.desc 0 4) = true ∧
    (stocked.ctx 0).waitLoad = none ∧ (stocked.ctx 0).loading = none ∧ (stocked.ctx 0).armed = none ∧
    (({ stocked with ctxs := [(0, { stocked.ctx 0 with loading := some ⟨1, []⟩ })] } : State).ctx 0).loading.isSome = true ∧
    0 + 16 ≤ halfSize (idle.quad 0).shared ∧ 16 ≤ 4092 := by and_intros <;> decide +kernel
theorem test_meets_AllocationsDescriptorsAndLoads_refused :
    boxInModule ⟨0, 0, 0, 0, 0, 0⟩ = true ∧ boxInModule ⟨1, 0, 0, 0, 0, 0⟩ = false ∧ boxInModule ⟨0, 20, 0, 0, 0, 0⟩ = true ∧
    (({ idle with stk := [(0, { Stack.init with failed := true })] } : State).stack 0).failed = true ∧
    ¬ (({ idle with cfgs := [(0, { CtxCfg.init with plotQuota := 2 })] } : State).modCtx 0 (fun x =>
        { x with allocs := tset Allocation.none x.allocs 0 ⟨true, false, 0, 0, 0, 0, 0, 0, 0, 2⟩ })).plotUse 0 ≤
      (({ idle with cfgs := [(0, { CtxCfg.init with plotQuota := 2 })] } : State).cfg 0).plotQuota.toNat ∧
    (idle.allocation 0 0).live = false ∧ (stocked.allocation 0 0).live = true ∧
    (∃ d ∈ (stocked.ctx 0).descs, Desc.live d.2 = true ∧ Desc.alloc d.2 = 0) ∧
    stocked.checkDesc 0 2 0 ≠ Code.ok ∧ (idle.ctx 0).dismissed = true ∧ (running.ctx 0).dismissed = false ∧
    Desc.holdsImage (stocked.desc 0 1) = false ∧
    (({ stocked with ctxs := [(0, { stocked.ctx 0 with waitLoad := some (1, 4) })] } : State).ctx 0).waitLoad ≠ none ∧
    (idle.quad 0).shared = false ∧ (1 : Fin 4) ≠ 0 := by and_intros <;> decide +kernel
/-- Allocation entries, pennants and roll calls may all be taken; a retired plot is open in no range of its granule. -/
theorem test_meets_AllocationsDescriptorsAndLoads_full :
    (∀ e, e < 256 → (({ idle with ctxs := [(0, { idle.ctx 0 with
      allocs := everywhere 256 { Allocation.none with live := true } })] } : State).allocation 0 e).live = true) ∧
    (∀ p, p < 16384 → (({ idle with sync := { Sync.init with
      pens := everywhere 16384 { Pennant.free with st := 1 } } } : State).pen p).st ≠ 0) ∧
    (∀ n, n < 64 → (({ idle with sync := { Sync.init with
      rolls := everywhere 64 { RollCall.free with st := 1 } } } : State).rollCall n).st ≠ 0) :=
  ⟨fun e h => by
      show (tget Allocation.none (everywhere 256 { Allocation.none with live := true }) e).live = true
      rw [tget_everywhere _ _ _ _ h],
   fun p h => by
      show (tget Pennant.free (everywhere 16384 { Pennant.free with st := 1 }) p).st ≠ 0
      rw [tget_everywhere _ _ _ _ h]; decide,
   fun n h => by
      show (tget RollCall.free (everywhere 64 { RollCall.free with st := 1 }) n).st ≠ 0
      rw [tget_everywhere _ _ _ _ h]; decide⟩
theorem test_meets_AllocationsDescriptorsAndLoads_granted : idle.grantsOn 2 0 ∧ stocked.grantsOn 2 0 ∧ stocked.grantsOn 1 0 :=
  ⟨⟨⟨rfl, rfl, _, rfl, .inr ⟨by decide, rfl⟩⟩, rfl, rfl⟩, ⟨⟨rfl, rfl, _, rfl, .inr ⟨by decide, rfl⟩⟩, rfl, rfl⟩,
   ⟨⟨rfl, rfl, _, rfl, .inl rfl⟩, rfl, rfl⟩⟩

/-- `idle` as a member of a ring, with pennant 9 of context 0 bound at identifier 3. -/
def member : State := { idle with
  ring := owned.ring, sync := (penAt 1 5).sync, ctxs := [(0, { idle.ctx 0 with pens := [(3, ⟨1, 0, 9, false⟩)] })] }

theorem test_meets_PennantsAndRollCallsAreBound :
    (member.binding 0 4).kind ≠ 1 ∧ member.penUse 0 < (member.cfg 0).penQuota.toNat ∧ (member.pen 10).st = 0 ∧
    (member.pen 9).st = 1 ∧ (member.pen 9).owner.toNat = 0 ∧ (258 : BitVec 14) ≠ member.ownIdent ∧ member.inRing = true ∧
    (member.posOf 258).isSome = true ∧ (member.binding 0 3).kind = 1 ∧ (member.rollCall 0).st = 0 ∧
    (let s : State := { member with sync := { Sync.init with rolls := [(6, { RollCall.free with st := 1, localMask := 1 })] } }
     (s.rollCall 6).st ≠ 0 ∧ (s.rollCall 6).owner.toNat = 0 ∧ (s.rollCall 6).localMask &&& s.slotBits 0 ≠ 0) := by
  and_intros <;> decide
theorem test_meets_PennantsAndRollCallsAreBound_refused :
    (({ member with cfgs := [(0, { CtxCfg.init with penQuota := 0 })] } : State).cfg 0).penQuota.toNat ≤
      ({ member with cfgs := [(0, { CtxCfg.init with penQuota := 0 })] } : State).penUse 0 ∧
    ((member.binding 0 3).kind = 1 ∧ (member.pen (member.binding 0 3).phys.toNat).st ≠ 0) ∧
    ¬ ((member.pen 10).st = 1) ∧ idle.inRing = false ∧ member.posOf 300 = none ∧
    (let s := remoteAt false 1 5
     (s.binding 0 3).kind = 2 ∧ (s.binding 0 3).dead = false) ∧
    (member.binding 0 4).kind ≠ 1 ∧ member.onBell = false ∧ (member.rollCall 6).st = 0 ∧
    (let own : BitVec 64 := if member.ring.position.toNat < 64 then 1#64 <<< member.ring.position.toNat else 0
     ((3 : BitVec 64) &&& ~~~own != 0) = true ∧
      member.homeOf { RollCall.free with st := 1, ring := true, ringMask := 3 } = some member.ring.moduleId.toNat ∧
      member.posOf member.ring.moduleId.toNat = some 0) := by and_intros <;> decide
theorem test_meets_PennantsAndRollCallsAreBound_granted : member.grantsOn 1 0 := ⟨⟨rfl, rfl, _, rfl, .inl rfl⟩, rfl, rfl⟩

/-- `ready` with a snapshot of 0x220A in session 1. -/
def snapped : State := { ready with
  host := { ready.host with sessions := [⟨1, none, some (256 * 0x220A, [1, 2, 3])⟩] }, mgmt := { ready.mgmt with snapOrder := [1] } }

theorem test_meets_DictionaryReadsAndWrites :
    ready.session 1 = some ⟨1, none, none⟩ ∧ ready.odReadAbort 0x1017 0 = Abort.none ∧
    (odEntry 0x1017 0).map (·.ty) ≠ some .domain ∧ ready.odReadAbort 0x220A 0 = Abort.none ∧
    (odEntry 0x220A 0).map (·.ty) = some .domain ∧ snapped.session 1 = some ⟨1, none, some (256 * 0x220A, [1, 2, 3])⟩ ∧
    odEntries 0x5000 = none ∧ (odEntries 0x1017).isSome = true ∧ odEntry 0x1017 9 = none ∧
    (odEntry 0x1001 0).map (·.acc) = some .ro ∧ (odEntry 0x1000 0).map (·.acc) = some .const ∧ (odEntry 0x1017 0).map (·.acc) = some .rw ∧
    (odEntry 0x1017 0).map (·.ty) ≠ some (.num 3) ∧ (odEntry 0x2106 0).map (·.ty) = some (.num 4) ∧
    ready.odRange 0x2204 0 20000 = false ∧ (odEntry 0x2204 0).map (·.ty) = some (.num 2) ∧ ready.odWriteAbort none 0x1017 0 [33, 1] = Abort.none ∧
    (idle.ctx 0).live = true ∧ (idle.ctx 0).reportEnabled = false ∧ snapped.snapshots[0]? = some 1 := by
  and_intros <;> decide +kernel

theorem test_meets_DictionaryReadsAndWrites_tenant :
    ready.session 2 = some ⟨2, some 0, none⟩ ∧ ready.tenantReads 0 0x2210 0 = false ∧ ready.tenantReads 0 0x1000 0 = true ∧
    tenantWrites 0 0x1017 0 = false ∧ ready.odReadAbort 0x5000 0 ≠ Abort.none ∧
    ready.snapshots[0]? = none ∧ (tget Watch.init (idle.ctx 0).watches 3).armed = false ∧ (ready.ctx 0).live = false ∧
    ((BitVec.ofNat 21 0x10020).toNat < 0x20000 ∧ 0x10000 ≤ (BitVec.ofNat 21 0x10020).toNat) ∧
    (0x10000 ≤ Config.hdmOffset + 0x20 ∨ Config.hdmOffset + 0x20 < 0x10000) := by
  and_intros <;> first | decide +kernel | omega

/-- The USDO server runs and is free, does not run, and has a transfer under way. -/
theorem test_meets_DictionaryReadsAndWrites_server :
    ready.usdoUp = true ∧ ready.mgmt.usdo = none ∧ ({ ready with mgmt := { ready.mgmt with nmt := .stopped } } : State).usdoUp = false ∧
    (let s : State := { ready with mgmt := { ready.mgmt with usdo := some (0x1017, 0, [33], false) } }
     s.usdoUp = true ∧ s.mgmt.usdo ≠ none) ∧
    (⟨0, 1⟩ : OdSub).reserved ≠ 0 ∧ (⟨0, 0⟩ : OdSub).reserved = 0 ∧ 4032 < 4033 := by and_intros <;> decide

theorem test_meets_DictionaryCommandsAct :
    (Instr.store 0).entryWritten = some (0x1010, 1) ∧ 1 < (2 : BitVec 8).toNat ∧ (1 : BitVec 8).toNat ≤ 1 ∧
    ready.boot.cxlReleased = true ∧ State.reset.boot.cxlReleased = false ∧
    5 ≤ ready.boot.stage.val ∧ 256 ≤ (256 : BitVec 16).toNat ∧ (4096 : BitVec 16).toNat ≤ 4096 ∧ ready.boot.pwrBrakeN = true ∧
    ready.pow.pAvg ≤ 1000 * 310 ∧
    1000 * 310 < ({ ready with pow := { ready.pow with pAvg := 500000 } } : State).pow.pAvg ∧
    ready.sync.recoveries = [] ∧ ready.boot.stage = 7 ∧
    (let s := onCtx (fun x => { x with span := 15 })
     (s.ctx 0).span = 15 ∧ ∀ q ∈ List.range 4, (s.quad q).shared = false) ∧
    256 ≤ (640 : Word32).toNat ∧ (640 : Word32).toNat % 64 = 0 ∧ (1000000 : Word32).toNat ≤ 1000000 ∧
    ready.outOfRing = true ∧ owned.ring.state = 2 ∧ ready.clk.clkFault = false ∧
    ({ ready with clk := { ready.clk with clkFault := true } } : State).clk.clkFault = true ∧ ready.clk.laterSuccess = false ∧
    ({ ready with boot := { ready.boot with stage := 4 } } : State).boot.stage.val < 5 ∧ (running.ctx 0).span ≠ 15 ∧
    ({ ready with ring := { Ring.init with state := 3 } } : State).ring.state = 3 ∧ ready.boot.stage = 7 ∧
    (640 : Word32).toNat ≠ ready.ring.period ∧ budgetOk 0 = false := by and_intros <;> decide
/-- A budget of 600 W that rises while G falls to it, and one that falls below the mean. -/
theorem test_meets_DictionaryCommandsAct_rise :
    (let s : State := { ready with pow := { Power.init with budget := 500, g := 650000, pAvg := 700000, ramp := some ⟨700000, 500000, 4000, 1000⟩ } }
     s.budgetInForce < 600 ∧ s.budgetInForce = 500 ∧ 1000 * 600 < s.pow.g ∧ s.pow.ramp ≠ none ∧ 1000 * 400 < s.pow.pAvg ∧
     400 < s.budgetInForce) := by and_intros <;> decide
theorem test_meets_DictionaryCommandsAct_budget : budgetOk 310 = true ∧ (310 : BitVec 16) ≠ ready.pow.budget ∧
    (310 : BitVec 16) < ready.pow.budget := by
  have h : ready.pow.budget = Power.budgetDefault := rfl
  rw [h]
  unfold budgetOk budgetTop Power.budgetDefault
  cases Config.partIsAE <;> decide

/-- `idle` with gate group 1 in a state, asked to close, closing, closed or opening. -/
def gated (st : BitVec 8) : State := { idle with clk := { idle.clk with gates := [(1, { Gate.init with state := st })] } }

theorem test_meets_GatesCounterAndGovernor :
    ((gated 0).gate 1).state = 0 ∧ ((gated 1).gate 1).state = 1 ∧ (gated 1).gateIdle 1 = true ∧ ((gated 2).gate 1).state = 2 ∧
    ((gated 3).gate 1).state = 3 ∧ (gated 3).host.inFlight = [] ∧ (gated 3).ring.kvWait = [] ∧ (∀ r ∈ (gated 3).ring.requests, r.answered = none) ∧
    idle.clk.quadIdle ≠ 0 ∧ idle.allDismissed 1 = true ∧ idle.noAccess 1 = true ∧ (idle.gate 1).state = 0 ∧
    ({ ready with clk := { ready.clk with fmc := { ready.clk.fmc with running := true } } } : State).clk.fmc.running = true ∧
    ready.boot.auxGood = true ∧ (-320 : Int) ≤ -320 ∧ (839 : Int) < shutLevel 4 ∧ (919 : Int) < shutLevel 3 ∧
    (ready.site 4).failed = false ∧ (ready.site 4).level ≠ 3 ∧ (1201 : Int) > 1200 ∧ (-321 : Int) < -320 ∧
    ready.boot.shut = false ∧ 3 ≤ ready.boot.stage.val ∧ ready.boot.fwRunning = true ∧ ready.pow.ramp = none ∧
    32 ≤ ready.pow.budgetRate ∧ ready.pow.budgetRate ≤ 256 ∧
    100 ≤ ({ ready with pow := { ready.pow with floorTicks := 100 } } : State).pow.floorTicks ∧
    ready.pow.budgetUnmet = false ∧ ready.boot.pwrBrakeN = true ∧
    (booted (fun b => { b with pwrBrakeN := false })).boot.pwrBrakeN = false := by and_intros <;> decide
/-- `ready` with the sensor site 4 given, with the power part given. -/
def sensed (x : Site) : State := { ready with therm := { ready.therm with sites := [(4, x)] } }
def powered (p : Power) : State := { ready with pow := p }

theorem test_meets_GatesCounterAndGovernor_sites :
    (let s := sensed { Site.init with failed := true, goodRun := 3 }
     (s.site 4).failed = true ∧ (s.site 4).goodRun < 9) ∧
    (let s := sensed { Site.init with failed := true, goodRun := 9 }
     (s.site 4).failed = true ∧ 9 ≤ (s.site 4).goodRun ∧ (s.site 4).level ≠ 3) ∧
    (ready.site 4).badRun < 2 ∧ 2 ≤ ((sensed { Site.init with badRun := 2 }).site 4).badRun ∧
    shutLevel 4 ≤ 1200 ∧ State.reset.boot.auxGood = false ∧ ready.pow.unanswered < 2 ∧
    2 ≤ (powered { Power.init with unanswered := 2 }).pow.unanswered ∧ ready.pow.regWarning.getLsbD 2 = false ∧
    State.reset.boot.fwRunning = false ∧ ready.clk.fmc.running = false ∧ ready.pow.floorTicks < 100 ∧
    (powered { Power.init with budgetUnmet := true }).pow.budgetUnmet = true ∧ (gated 2).allDismissed 1 = true ∧
    ({ gated 0 with clk := { (gated 0).clk with quadIdle := 0 } } : State).clk.quadIdle = 0 ∧ (gated 1).gateIdle 1 = true ∧
    ({ gated 1 with stk := [(5, { Stack.init with scrubHead := [5] })] } : State).gateIdle 1 = false := by
  and_intros <;> decide +kernel
theorem test_meets_GatesCounterAndGovernor_ramps :
    (let s := powered { Power.init with pAvg := 500000, pBase := 60000, g := 300000, ramp := none, budget := 600, brakeBudget := 500 }
     s.pow.pBase < min (1000 * s.budgetInForce) (s.pow.g + 2000) ∧ min (1000 * s.budgetInForce) (s.pow.g + 2000) < s.pow.pAvg) ∧
    (powered { Power.init with ramp := some ⟨500, 300, 4000, 3900⟩ }).pow.ramp = some ⟨500, 300, 4000, 3900⟩ ∧
    4000 ≤ 3900 + 100 ∧ 3800 + 100 < 4000 ∧
    (let s := powered { Power.init with pAvg := 700000, budget := 600, brakeBudget := 500 }
     let t : State := { s with boot := { s.boot with pwrBrakeN := false } }
     t.budgetInForce < s.budgetInForce ∧ 1000 * t.budgetInForce < s.pow.pAvg ∧ s.boot.pwrBrakeN = true) ∧
    (let s := powered { Power.init with pAvg := 400000, budget := 600, brakeBudget := 500 }
     let t : State := { s with boot := { s.boot with pwrBrakeN := false } }
     t.budgetInForce < s.budgetInForce ∧ s.pow.pAvg ≤ 1000 * t.budgetInForce ∧ t.boot.pwrBrakeN = false) := by and_intros <;> decide +kernel
theorem test_meets_GatesCounterAndGovernor_noAccess : ∀ st, ((gated 3).stack st).slateQ = [] := fun _ => rfl

/-- `ready` at another stage, with another clock part. -/
def clocked (n : Fin 8) (c : Clocks) : State := { ready with boot := { ready.boot with stage := n }, clk := c }

theorem test_meets_StartUpRunsThroughItsStages :
    (clocked 0 Clocks.init).boot.auxGood = true ∧ (clocked 0 Clocks.init).boot.heldB0 = false ∧
    (clocked 0 Clocks.init).boot.stage = 0 ∧ (clocked 0 Clocks.init).clk.xtalEnabled = false ∧
    (clocked 0 Clocks.init).clk.seriesFailed = false ∧
    (let s (n : Nat) (a : BitVec 8) := clocked 0 { Clocks.init with xtalEnabled := true, inWindow := n, attempts := a }
     (s 0 3).clk.xtalEnabled = true ∧ (s 0 3).clk.attempts.toNat < 4 ∧ 4 ≤ (s 0 4).clk.attempts.toNat ∧
     (s 6 1).clk.inWindow < 7 ∧ (s 7 1).clk.inWindow = 7 ∧ (s 7 1).mgmt.stored.valid = false) ∧
    3774 < 3775 ∧ 4089 < 4090 ∧ 3775 ≤ 3775 ∧ 4089 ≤ 4089 ∧
    (let s := clocked 3 { Clocks.init with monitor := true, outWindow := 1 }
     3 ≤ s.boot.stage.val ∧ s.clk.monitor = true ∧ s.clk.judging = none ∧ s.clk.outWindow = 1) ∧
    (clocked 7 { Clocks.init with judging := some 5 }).clk.judging = some 5 ∧ ready.host.linkState ≠ 0 ∧
    offNominal 2516 384 2 = false ∧ offNominal 2621 400 15 = false ∧ offNominal 2530 384 2 = true ∧
    offNominal 2700 400 15 = true ∧ (clocked 1 Clocks.init).boot.stage = 1 ∧ (clocked 2 Clocks.init).boot.stage = 2 ∧
    (clocked 2 Clocks.init).boot.fwRunning = true ∧ (clocked 2 Clocks.init).boot.mainPresent = true ∧
    (clocked 2 Clocks.init).boot.shut = false ∧ (clocked 2 Clocks.init).boot.cool = false ∧
    (clocked 2 Clocks.init).coolEnough = true ∧ (clocked 4 Clocks.init).boot.stage = 4 ∧
    (clocked 4 Clocks.init).health.retired.length + (clocked 4 Clocks.init).health.queued.length ≤ 65536 ∧
    3 ∈ ({ clocked 4 Clocks.init with health := { Health.init with queued := [3] } } : State).health.queued ∧
    (clocked 5 Clocks.init).ring.enable ≠ 1 ∧ (clocked 5 Clocks.init).outOfRing = true ∧
    ({ clocked 5 Clocks.init with ring := { Ring.init with enable := 1 } } : State).ring.enable = 1 ∧
    (clocked 6 Clocks.init).boot.stage = 6 ∧ (clocked 6 Clocks.init).ring.state ≠ 1 := by and_intros <;> decide +kernel
theorem test_meets_StartUpRunsThroughItsStages_other :
    (let s := clocked 2 { Clocks.init with monitor := true, outWindow := 1 }
     s.boot.stage ≠ 0 ∧ s.boot.stage.val < 3 ∧ s.clk.monitor = true ∧ 1 ≤ s.clk.outWindow) ∧
    (let s := clocked 4 { Clocks.init with monitor := true, outWindow := 1, judging := some 3 }
     3 ≤ s.boot.stage.val ∧ s.clk.judging ≠ none ∧ 1 ≤ s.clk.outWindow) ∧
    (clocked 7 Clocks.init).clk.monitor = false ∧ (clocked 7 Clocks.init).clk.judging = none ∧
    (clocked 3 Clocks.init).boot.stage = 3 ∧ (clocked 2 Clocks.init).boot.stage ≠ 3 ∧
    ({ clocked 2 Clocks.init with boot := { (clocked 2 Clocks.init).boot with shut := true } } : State).boot.shut = true ∧
    ({ clocked 6 Clocks.init with ring := { Ring.init with state := 1 } } : State).ring.state = 1 ∧
    (let s : State := { clocked 5 Clocks.init with ring := { owned0 with enable := 1 } }
     s.ring.enable = 1 ∧ s.outOfRing = false) := by and_intros <;> decide
/-- Whether the calibration record is good is the implementation's; a slot whose image passes the signature check is found. -/
theorem test_meets_StartUpRunsThroughItsStages_firmware (b : List Byte) (h : fwValid b = true) :
    let s : State := { clocked 1 Clocks.init with sec := { Sec.init with nextSlot := 1, slots := [(1, some b)] } }
    s.slotOrder.find? (fun i => fwValid (s.fwImage i)) = some 1 := by
  have e : ({ clocked 1 Clocks.init with sec := { Sec.init with nextSlot := 1, slots := [(1, some b)] } } : State).fwImage 1 = b := rfl
  have o : ({ clocked 1 Clocks.init with sec := { Sec.init with nextSlot := 1, slots := [(1, some b)] } } : State).slotOrder = [1, 0] := rfl
  simp only [o, List.find?_cons, e, h]

theorem test_meets_CxlAndSpdmCommandsAnswer :
    ready.boot.cxlReleased = true ∧ ready.boot.stage = 7 ∧ (booted (fun b => { b with stage := 6 })).boot.stage ≠ 7 ∧
    ready.host.timestamp = none ∧ (hosted (fun h => { h with timestamp := some 5 })).host.timestamp = some 5 ∧
    ready.operatorOpen = true ∧ fwSlotOf 2 = some 1 ∧ 1 ≠ ready.sec.activeSlot.toNat ∧ ready.host.fwTransfer = none ∧
    (hosted (fun h => { h with fwTransfer := some (1, [1, 2]) })).host.fwTransfer = some (1, [1, 2]) ∧
    fwValid (({ ready with sec := { Sec.init with slots := [(1, some [])] } } : State).fwImage 1) = false ∧
    (let c : Sec := { Sec.init with
       spdmVersion := true, spdmCaps := true, spdmAlgs := true, spdmSigns := true, identityGood := true }
     c.spdmVersion = true ∧ c.spdmCaps = true ∧ c.spdmAlgs = true ∧ c.spdmSigns = true ∧ c.identityGood = true) ∧
    ready.measured 0 = some [23] ∧ ready.sec.spdmAlgs = false := by and_intros <;> decide
theorem test_meets_CxlAndSpdmCommandsAnswer_refused :
    State.reset.boot.cxlReleased = false ∧ (hosted (fun h => { h with sessions := [] })).operatorOpen = false ∧ fwSlotOf 9 = none ∧
    fwSlotOf (BitVec.ofNat 8 (ready.sec.activeSlot.toNat + 1)) = some ready.sec.activeSlot.toNat ∧
    FwAction.continue ≠ .full ∧ FwAction.continue ≠ .initiate ∧
    (hosted (fun h => { h with fwTransfer := some (1, []) })).host.fwTransfer ≠ none ∧ ready.sec.spdmVersion = false ∧
    ready.sec.spdmCaps = false ∧ ready.sec.identityGood = false ∧ ready.sec.spdmSigns = false ∧ ready.measured 99 = none := by
  and_intros <;> decide
theorem test_meets_CxlAndSpdmCommandsAnswer_firmware (b : List Byte) (h : fwValid b = true) :
    fwValid (({ ready with sec := { Sec.init with slots := [(1, some b)] } } : State).fwImage 1) = true := h

theorem test_meets_CanFdNodeActs :
    ready.canUp = true ∧ ready.mgmt.nmt ≠ .initialisation ∧ ready.mgmt.nmt ≠ .stopped ∧ ready.mgmt.stored.valid = false ∧
    ready.mgmt.heartbeat ≠ 0 ∧ ready.mgmt.nmt = .operational ∧
    ({ ready.mgmt with eventTime := [(1, 100)] } : Mgmt).period 1 ≠ 0 ∧ ready.mgmt.emcyLost = false ∧
    ({ ready.mgmt with emcyQ := [⟨0xFF10, 1, 0, 0, 0⟩] } : Mgmt).emcyQ = ⟨0xFF10, 1, 0, 0, 0⟩ :: [] ∧
    ready.mgmt.usdo = none ∧ ready.odReadAbort 0x1017 0 = Abort.none ∧ (odEntry 0x1017 0).map (·.ty) ≠ some .domain ∧
    ready.odWriteAbort none 0x1017 0 [1] ≠ Abort.none ∧ ready.odWriteAbort none 0x1017 0 [33, 1] = Abort.none ∧
    (0x1017 : BitVec 16) ≠ 0x2903 ∧
    ({ ready.mgmt with usdo := some (0x1017, 0, [33], false) } : Mgmt).usdo = some (0x1017, 0, [33], false) ∧
    ({ ready.mgmt with usdo := some (0x220A, 0, [33], true) } : Mgmt).usdo = some (0x220A, 0, [33], true) ∧
    ready.odReadAbort 0x220A 0 = Abort.none ∧ (odEntry 0x220A 0).map (·.ty) = some .domain ∧ ready.usdoUp = true ∧
    (0x1017 : BitVec 16) ≠ 0x1015 ∧ ready.canSilent = false ∧ ready.mgmt.canState ≠ .busOff ∧
    ({ ready.mgmt with canState := .busOff } : Mgmt).canState = .busOff := by and_intros <;> decide +kernel

/-- `ready` with the CAN FD part given. -/
def managed (m : Mgmt) : State := { ready with mgmt := m }
theorem test_meets_CanFdNodeActs_other :
    (managed { ready.mgmt with canState := .busOff }).canUp = false ∧ State.reset.canSilent = true ∧
    (managed { ready.mgmt with heartbeat := 0 }).mgmt.heartbeat = 0 ∧ (managed { ready.mgmt with eventTime := [(1, 0)] }).mgmt.period 1 = 0 ∧ ready.mgmt.emcyQ = [] ∧
    (managed { ready.mgmt with nmt := .stopped }).mgmt.nmt = .stopped ∧
    (managed { ready.mgmt with nmt := .stopped, usdo := some (0x1017, 0, [33], false) }).usdoUp = false ∧
    (managed { ready.mgmt with emcyLost := true, emcyDropped := 3 }).mgmt.emcyLost = true ∧
    (managed { ready.mgmt with usdo := some (0x220A, 0, [1, 2], true) }).mgmt.usdo = some (0x220A, 0, [1, 2], true) ∧
    ready.odReadAbort 0x5000 0 ≠ Abort.none ∧ ready.mgmt.canState ≠ .busOff ∧
    (managed { ready.mgmt with usdo := some (0x1017, 0, [33], false) }).mgmt.usdo = some (0x1017, 0, [33], false) := by
  and_intros <;> decide +kernel

/-- `ready` with the ring part given. -/
def ringed (r : Ring) : State := { ready with ring := r }
/-- A master of a ring of two. -/
def master0 : Ring := { owned.ring with
  state := 3, masterId := 257, roster := [⟨0, 257, true⟩, ⟨1, 258, false⟩], rosterVer := 4 }

theorem test_meets_RingMembersJoinLeaveAndFence :
    ready.inRing = false ∧ 6 ≤ ready.boot.stage.val ∧ (1 : BitVec 8) ≠ 0 ∧ ready.ring.roster = [] ∧
    ready.ring.moduleId.toNat < 16384 ∧ 0 ≤ ready.ring.timebase ∧ ready.ring.timebase ≤ 0 + 1000000 ∧ ready.outOfRing = true ∧
    ready.ring.timebase + 9000000 < 2 ^ 64 ∧ word0.txTime < 2 ^ 64 ∧ (∀ c ∈ idle.ctxs, c.2.dismissed = true) ∧
    word0.master = some 258 ∧ (258 : BitVec 14).zeroExtend 16 ≠ ready.ring.moduleId ∧
    (let s : State := { running with ring := { Ring.init with timebase := 2000000 } }
     0 + 1000000 < s.ring.timebase ∧ (∃ c ∈ s.ctxs, c.2.dismissed = false)) ∧
    (ringed { Ring.init with masterId := 258 }).ring.masterId ≠ (ringed { Ring.init with masterId := 258 }).ring.moduleId ∧
    owned.inRing = true ∧ (258 : BitVec 14) ≠ owned.ownIdent ∧ (owned.posOf (258 : BitVec 14).toNat).isSome = true ∧
    owned.ring.masterId.toNat = (258 : BitVec 14).toNat ∧ owned.neighbour 0 = some 258 ∧
    owned.ring.state = 2 ∧ owned.ring.electing = false ∧
    (let s := ringed { owned.ring with holdover := true, ports := [(2, { Port.init with st := 3, partnerDepth := 1 })] }
     s.ring.holdover = true ∧ s.bestNeighbour = some (1, 2)) ∧ owned.bestNeighbour = none ∧
    (let s := ringed { owned.ring with electing := true, candidates := [(128, 257), (128, 256), (5, 1)] }
     s.ring.electing = true ∧ bestCandidate s.ring.candidates = some (128, 256) ∧ (256 : BitVec 14) ≠ s.ownIdent) ∧
    (let s := ringed { owned.ring with electing := true, candidates := [(128, 257)] }
     bestCandidate s.ring.candidates = some (128, 257) ∧ (257 : BitVec 14) = s.ownIdent ∧ s.ring.state = 2) ∧
    (ringed master0).ring.state = 3 ∧ (∀ e ∈ (ringed master0).ring.roster, e.ident ≠ 260) ∧
    freePos (ringed master0).ring.roster = some 2 ∧
    (let s := ringed { owned.ring with electing := true }
     s.ring.state ≠ 3 ∧ s.outOfRing = false ∧ s.ring.electing = true ∧ s.ring.rosterVer < 5) ∧
    (([⟨0, 257, true⟩] : List RosterEntry).find? (fun e => e.master)).isSome = true ∧
    (booted (fun b => { b with bypassArmed := true })).boot.bypassArmed = true := by and_intros <;> decide
/-- Partners that bear the names the ports must meet, on both planes, on plane 0 alone, and none. -/
theorem test_meets_RingMembersJoinLeaveAndFence_partners :
    (∃ n : Fin 4, ([some 2, some 3, some 0, some 1] : List (Option (Fin 4))).getD 0 none = some n ∧ n.val = partnerOf 0) ∧
    (∃ n : Fin 4, ([some 2, some 3, some 0, some 1] : List (Option (Fin 4))).getD 1 none = some n ∧ n.val = partnerOf 1) ∧
    ¬ (∃ n : Fin 4, ([some 2] : List (Option (Fin 4))).getD 1 none = some n ∧ n.val = partnerOf 1) ∧
    ¬ (∃ n : Fin 4, ([some 1] : List (Option (Fin 4))).getD 0 none = some n ∧ n.val = partnerOf 0) ∧
    (let s := ringed { owned.ring with state := 1 }
     s.inRing = false ∧ s.outOfRing = false ∧ s.planeUp 0 = true ∧ 6 ≤ s.boot.stage.val) := by and_intros <;> decide
theorem test_meets_RingMembersJoinLeaveAndFence_frames (b : FrameBody) :
    (ringed owned.ring).actsHere head0 b ∧ (ringed master0).actsHere head0 b ∧
    (ringed { owned.ring with electing := true }).actsHere head0 b ∧ (ringed { owned.ring with state := 0 }).actsHere head0 b ∧
    (ringed { owned.ring with state := 1 }).actsHere head0 b :=
  ⟨test_frame_acts _ b (by decide) (by decide) (by decide) (by decide), test_frame_acts _ b (by decide) (by decide) (by decide) (by decide),
   test_frame_acts _ b (by decide) (by decide) (by decide) (by decide), test_frame_acts _ b (by decide) (by decide) (by decide) (by decide),
   test_frame_acts _ b (by decide) (by decide) (by decide) (by decide)⟩
/-- A broadcast of a module outside the roster, and the first one heard of a member. -/
theorem test_meets_RingMembersJoinLeaveAndFence_broadcast :
    (let h : FrameHead := { head0 with bcast := true, src := 300, hops := 1 }
     (ringed master0).inOrder h = true ∧ h.src ≠ ((ringed master0).hop h (.join 0 1 true)).ownIdent ∧
     ((ringed master0).hop h (.join 0 1 true)).unlisted h = true) ∧
    (let h : FrameHead := { head0 with bcast := true, eseq := 7 }
     let v := (ringed owned.ring).hop h (.fence 257 0)
     v.unlisted h = false ∧ v.ring.early = [] ∧ v.awaits h (.fence 257 0) = 0) := by and_intros <;> decide +kernel
/-- A join that its ports' gates hold up, that waits for the election, the roster or a time word, and of the module elected. -/
theorem test_meets_RingMembersJoinLeaveAndFence_join :
    (({ ringed owned0 with clk := { ready.clk with gates := [(4, { Gate.init with state := 2 })] } } : State).shutGate (4 + 0) = true) ∧
    (∀ p, p < 4 → ready.shutGate (4 + p) = false) ∧
    (ringed { owned.ring with state := 1, electing := true }).ring.electing = true ∧
    (let s := ringed { owned.ring with state := 1, roster := [⟨0, 257, true⟩] }
     s.electedHere = true ∧ s.ring.electing = false ∧ s.inRing = false) ∧
    ready.rostered = false ∧ ready.electedHere = false ∧ ready.ring.electing = false ∧
    (let s := ringed { owned.ring with state := 1 }
     s.electedHere = false ∧ s.rostered = true ∧ s.planeUp 0 = true ∧ s.posOf s.ring.moduleId.toNat = some 0) := by
  and_intros <;> decide
/-- A leave whose FENCE frame has room and one whose FENCE frame has none; silence of one port, of a side, and in a longer ring. -/
theorem test_meets_RingMembersJoinLeaveAndFence_silence :
    (let u (s : State) : State := (s.startRecovery recLeave).broadcast (.fence s.ownIdent s.ring.rosterVer)
     (u owned).fencePending = false ∧ owned.ring.leaving = false ∧
     (u (ringed { owned.ring with ports := [(2, { Port.init with st := 3, used := [(0, 255)] })] })).fencePending = true) ∧
    (let side (r : Ring) (p : Nat) : Bool :=
       ({ ringed r with ring := { r with silent := p :: r.silent.filter (fun x => decide (x ≠ p)) } } : State).silentSide (p / 2)
     side owned.ring 2 = true ∧ side owned.ring 0 = true ∧
     side { owned.ring with ports := [(0, { Port.init with st := 3 }), (1, { Port.init with st := 3 })] } 0 = false) ∧
    owned.portOn 1 0 ≠ none ∧ owned.ring.roster.length ≤ 2 ∧ owned.neighbour 2 = some 258 ∧
    (let s := ringed { owned.ring with ports := [] }
     s.portOn 1 0 = none ∧ s.neighbour 0 = some 258) ∧
    2 < (ringed { owned.ring with roster := owned.ring.roster ++ [⟨2, 259, false⟩] }).ring.roster.length := by
  and_intros <;> decide +kernel
/-- Frames of fences, joins and rosters on the states their hops leave. -/
theorem test_meets_RingMembersJoinLeaveAndFence_reached :
    (let u := (ringed owned.ring).reached head0 (.fence 257 0)
     u.inRing = true ∧ (257 : BitVec 14) = u.ownIdent ∧ (258 : BitVec 14) ≠ u.ownIdent ∧ (u.posOf 258).isSome = true ∧ u.posOf 300 = none) ∧
    ((ringed { owned.ring with state := 0 }).reached head0 (.fence 257 0)).inRing = false ∧
    (let u := (ringed master0).reached head0 (.join 0 1 true)
     u.ring.state = 3 ∧ (0 : Word32) = u.ring.name ∧ (∃ e ∈ u.ring.roster, e.ident = head0.src) ∧
     (∀ e ∈ u.ring.roster, e.ident ≠ 260) ∧ freePos u.ring.roster = some 2) ∧
    (let u := (ringed { owned.ring with state := 1 }).reached head0 (.join 0 1 true)
     ¬ (u.ring.state = 3 ∨ u.ring.state = 1 ∧ u.electedHere = true) ∧ (0 : Word32) = u.ring.name ∧ u.outOfRing = false ∧
     u.ring.state = 1 ∧ u.ring.electing = false) ∧
    (let u := (ringed { owned.ring with electing := true }).reached head0 (.join 0 1 true)
     u.ring.state ≠ 1 ∧ u.outOfRing = false) ∧
    (let u := (ringed owned.ring).reached head0 (.roster 5 owned.ring.roster)
     u.outOfRing = false ∧ u.ring.state ≠ 3 ∧ u.ring.rosterVer < 5 ∧
     owned.ring.roster.find? (fun e => e.master) = some ⟨1, 258, true⟩ ∧
     owned.ring.roster.find? (fun e => decide (e.ident.toNat = u.ring.moduleId.toNat)) = some ⟨0, 257, false⟩) := by
  and_intros <;> decide +kernel
theorem test_meets_RingMembersJoinLeaveAndFence_other :
    (ringed { owned.ring with state := 0 }).inRing = false ∧ (ringed master0).ring.state ≠ 2 ∧ owned.ring.holdover = false ∧
    (ringed { owned.ring with electing := true, candidates := [] }).ring.candidates = [] ∧ ready.neighbour 0 = none ∧
    (∃ e ∈ (ringed master0).ring.roster, e.ident = 258) ∧ owned.posOf (300 : BitVec 14).toNat = none ∧
    freePos ((List.range 64).map (fun n => (⟨n, BitVec.ofNat 14 n, false⟩ : RosterEntry))) = none ∧
    (let s := ringed { owned.ring with electing := true, name := 7 }
     (7 : Word32) = s.ring.name ∧ s.outOfRing = false ∧ s.ring.electing = true) ∧
    (let s := ringed { owned.ring with state := 1, electing := false }
     s.outOfRing = false ∧ s.ring.state = 1 ∧ s.ring.electing = false) ∧
    (∀ e ∈ ([⟨0, 257, false⟩] : List RosterEntry), e.master = false) ∧ ready.boot.bypassArmed = false := by
  and_intros <;> decide +kernel

/-- A member whose ring-wide roll call 6 of both modules has one arrival missing, with an operation that waits at it and one that has
been released. -/
def calling : State := { ringed owned.ring with
  ring := { owned.ring with merges := [⟨6, 0, 50, 3, 0, 0, [], false, false, none, []⟩, ⟨6, 1, 50, 3, 0, 1, [], false, true, none, []⟩] }
  sync := { Sync.init with rolls := [(6, { RollCall.free with
    st := 1, ring := true, rid := 50, localMask := 1, ringMask := 3, ringArrived := 1 })] } }
/-- A member that has told module 258 of pennant 9 and waits for the acknowledgement. -/
def told : State := ringed { owned.ring with
  ports := [(2, { Port.init with st := 3, lseq := 1, replay := [⟨1, ⟨257, 258, false, 1, 0, .penUpdate 9 1 1, none⟩, []⟩] })] }

theorem test_meets_RingFramesAndPortsAct :
    (let x := (ringed { Ring.init with ports := [(0, { Port.init with st := 3 })] }).port 0
     x.up = true ∧ x.halfLanes = none ∧ 2 ≤ x.left 0 ∧ x.replay.length < 256) ∧
    ({ Port.init with st := 3, used := [(0, 255)] } : Port).left 0 < 2 ∧
    ({ Port.init with st := 4, halfLanes := some true } : Port).halfLanes = some (decide (4 ≤ (5 : Fin 8).val)) ∧
    ({ Port.init with st := 4, halfLanes := some true } : Port).halfLanes = some (decide ((2 : Fin 8).val < 4)) ∧
    ((ringed { Ring.init with ports := [(0, { Port.init with st := 2 })] }).port 0).st = 2 ∧ (2 : Fin 4).val = ((0 : Fin 4).val + 2) % 4 ∧
    ((ringed { Ring.init with ports := [(0, { Port.init with st := 5 })] }).port 0).st = 5 ∧ (ready.port 0).up = false ∧
    (let f (n : BitVec 16) : SentFrame := ⟨n, ⟨257, 0, false, 1, 0, .idle word0, none⟩, []⟩
     let x : Port := { Port.init with replay := [f 1, f 2, f 3] }
     x.replay = [f 1] ++ f 2 :: [f 3] ∧ (f 2).lseq = 2 ∧ (∀ r ∈ [f 1], r.lseq ≠ 2) ∧ ∀ r ∈ x.replay, r.lseq ≠ 9) ∧
    owned.ring.leaving = false ∧ owned.inOrder { head0 with lseq := 2 } = false ∧ owned.inOrder head0 = true ∧
    (300 : BitVec 14) ≠ (owned.took head0).ownIdent ∧ (1 : BitVec 8).toNat ≤ 1 ∧ 1 < (4 : BitVec 8).toNat := by and_intros <;> decide
/-- A broadcast of this module's own, frames before and after their turn, and a frame of no sequence. -/
theorem test_meets_RingFramesAndPortsAct_turns :
    (∀ b, (Instr.hoistFrame head0 9 1).frame = some (head0, b) → b = .hoist 9 1) ∧
    (let h : FrameHead := { head0 with bcast := true, src := 257 }
     h.src = (owned.hop h (.fence 258 0)).ownIdent ∧ owned.inOrder h = true) ∧
    (let h : FrameHead := { head0 with eseq := 5 }
     let v := owned.hop h (.hoist 9 1)
     let e := v.awaits h (.hoist 9 1)
     v.unlisted h = false ∧ h.eseq.toNat ≠ e ∧ ¬ (h.bcast = true ∧ e = 0) ∧ (h.eseq.toNat + 2 ^ 32 - e) % 2 ^ 32 < 2 ^ 31) ∧
    (let h : FrameHead := { head0 with eseq := 0xFFFFFFFF }
     let e := (owned.hop h (.hoist 9 1)).awaits h (.hoist 9 1)
     h.eseq.toNat ≠ e ∧ 2 ^ 31 ≤ (h.eseq.toNat + 2 ^ 32 - e) % 2 ^ 32) := by
  refine ⟨?_, ?_, ?_, ?_⟩
  · intro b h
    exact (Prod.mk.inj (Option.some.inj h)).2.symm
  all_goals decide +kernel
/-- Time words of a neighbour without and with a fault of its own, from either side. -/
theorem test_meets_RingFramesAndPortsAct_time :
    (let u := (owned.took head0).owe 2 0
     word0.ownFault = false ∧ u.outOfRing = false ∧ u.inRing = true ∧ ({ word0 with ownFault := true } : TimeWord).ownFault = true ∧
     (u.posOf head0.src.toNat).isSome = true ∧ 2 ≤ head0.port.val) ∧
    ((ringed { owned.ring with state := 0 }).took head0).outOfRing = true ∧
    (let east (more : List RosterEntry) (ports : Table Port) : State :=
       ringed { owned.ring with roster := owned.ring.roster ++ more, ports := (0, { Port.init with st := 3 }) :: ports }
     let h : FrameHead := { head0 with port := 0 }
     h.port.val < 2 ∧ (east [] []).inOrder h = true ∧ (east [] []).portOn 1 0 = none ∧
     (east [] [(2, { Port.init with st := 3 })]).portOn 1 0 ≠ none ∧ (east [] []).ring.roster.length ≤ 2 ∧
     2 < (east [⟨2, 259, false⟩] []).ring.roster.length) := by and_intros <;> decide +kernel
theorem test_meets_RingFramesAndPortsAct_frames (b : FrameBody) :
    calling.actsHere head0 b ∧ owned.actsHere head0 b ∧ told.actsHere { head0 with lack := 0 } b ∧
    (ringed { owned.ring with state := 0 }).actsHere head0 b ∧ (penAt 1 5).ring.ports = [] :=
  ⟨test_frame_acts _ b (by decide) (by decide) (by decide) (by decide), test_frame_acts _ b (by decide) (by decide) (by decide) (by decide),
   test_frame_acts _ b (by decide) (by decide) (by decide) (by decide), test_frame_acts _ b (by decide) (by decide) (by decide) (by decide), rfl⟩
/-- A member with pennant 9 as given. -/
def flying (x : Pennant) : State := { owned with sync := { Sync.init with pens := [(9, x)] } }
theorem test_meets_RingFramesAndPortsAct_pennants :
    (let u (x : Pennant) : State := (flying x).reached head0 (.hoist 9 1)
     let live : Pennant := { Pennant.free with st := 1, shared := true, tag := 5 }
     (u live).inRing = true ∧ ((u live).pen 9).st = 1 ∧ ((u live).pen 9).sat = false ∧ (1 : BitVec 16) ≠ 0 ∧
     ((u { live with sat := true }).pen 9).sat = true ∧ ((u Pennant.free).pen 9).st ≠ 1 ∧
     ((u live).pen 9).shared = true ∧ ((u live).pen 9).tag = 5 ∧ ((u Pennant.free).pen 9).shared = false) ∧
    ((ringed { owned.ring with state := 0 }).reached head0 (.hoist 9 1)).inRing = false ∧
    (let s := remoteAt false 1 4
     let s : State := { s with
       ring := owned.ring, quads := [(0, { quad0 with slots := [(0, { slot0 with blocked := some (.pennant 3 6) })] })] }
     let u := s.reached head0 (.penUpdate 9 6 1)
     u.inRing = true ∧ (u.slot 0 0).ctx = some 0 ∧ (u.slot 0 0).blocked = some (.pennant 3 6) ∧
     u.binding 0 3 = ⟨2, 258, 9, false⟩ ∧ 6 ≤ (6 : Word64).toNat) ∧
    (told.reached { head0 with lack := 0 } (.penSub 9 true)).telling 258 9 = true ∧
    (owned.reached head0 (.penSub 9 true)).telling 258 9 = false ∧
    (let u (c : Nat) := (ringed { owned.ring with binds := [(c, 3, 258, 9)] }).reached head0 (.penBind 9 5 .yes)
     let mine (b : Nat × Nat × BitVec 14 × BitVec 14) : Bool := b.2.2.1 == 258 && b.2.2.2 == 9
     (u 0).ring.binds.find? mine = some (0, 3, 258, 9) ∧ (u 16).ring.binds.find? mine = some (16, 3, 258, 9) ∧
     (owned.reached head0 (.penBind 9 5 .no)).ring.binds.find? mine = none) := by and_intros <;> decide +kernel
theorem test_meets_RingFramesAndPortsAct_rolls :
    (let u := calling.reached head0 (.rollArrive 50 0)
     u.inRing = true ∧ u.rollByRid 50 = some 6 ∧ u.posOf (258 : BitVec 14).toNat = some 1 ∧
     u.homeOf (u.rollCall 6) = some u.ring.moduleId.toNat ∧ (u.rollCall 6).release = none ∧ (u.rollCall 6).round = 0 ∧
     (∀ e ∈ u.membersOf 3, ((u.rollCall 6).ringArrived ||| (1#64 <<< 1)).getLsbD e.pos = true) ∧
     u.rollByRid 51 = none ∧ u.posOf (300 : BitVec 14).toNat = none ∧ u.ring.bells = 0 ∧ (u.rollCall 6).st = 1) ∧
    (let s : State := { calling with sync := { Sync.init with rolls := [(6, { RollCall.free with
       st := 1, ring := true, rid := 50, localMask := 1, ringMask := 3, round := 4, releasedAt := some 2048 })] } }
     let u := s.reached head0 (.rollArrive 50 3)
     (3 : Word32) ≠ (u.rollCall 6).round ∧ (3 : Word32) ≠ (u.rollCall 6).round + 1 ∧ (3 : Word32) + 1 = (u.rollCall 6).round ∧
     (u.rollCall 6).releasedAt = some 2048 ∧ (5 : Word32) = (u.rollCall 6).round + 1 ∧ (8 : Word32) + 1 ≠ (u.rollCall 6).round) ∧
    (let s : State := { calling with
       ring := { calling.ring with bells := 3, lastBell := 3072, moduleId := 258, masterId := 258 } }
     s.homeOf (s.rollCall 6) ≠ some s.ring.moduleId.toNat ∧ s.ring.bells ≠ 0 ∧ 3072 ≤ s.ring.lastBell ∧ s.ring.lastBell < 4096) ∧
    (let u := calling.reached head0 (.mergePart 50 0 0 [] true false)
     u.inRing = true ∧ (u.mergeOf 50 0).map (·.released) = some false ∧ (u.mergeOf 50 1).map (·.released) = some true ∧
     u.mergeOf 51 0 = none ∧ head0.last = true ∧ ({ head0 with last := false } : FrameHead).last = false) ∧
    (let s : State := { calling with sync := { Sync.init with rolls := [(6, { RollCall.free with
       st := 2, ring := true, rid := 50, ringMask := 3 })] } }
     (s.rollCall 6).st ≠ 1 ∧ s.rollByRid 50 = some 6) := by and_intros <;> decide +kernel

end Sys2Proof.Tests
end

section
/-! PROOF. O6: every step keeps module memory in canonical form (R13, R35). The commands are sorted into families by how they
reach memory; each family's lemma cites the laws of its operations. -/

namespace Sys2Proof.Machine

/-! ## Laws of operations that the memory layer lacks -/

@[simp] theorem State.writeRing_mem (s : State) (c off : Nat) (bytes : List Byte) : (s.writeRing c off bytes).mem = s.mem := by
  induction bytes generalizing s off with
  | nil => rfl
  | cons b bs ih =>
    rw [State.writeRing, ih]
    split <;> rfl

@[simp] theorem State.askReset_mem (s : State) (c : Nat) : (s.askReset c).mem = s.mem := by
  unfold State.askReset
  split <;> simp

theorem State.storeHalf_mem {s u : State} {c q : Nat} {half : Bool} {bs : List Byte} (h : s.storeHalf c q half bs = some u) :
    u.mem = s.mem := by
  simp only [State.storeHalf] at h
  split at h
  · cases h
  · cases h; simp

/-- The shadow halves of a context are timetable stores, not memory (R153). -/
theorem State.storeHalves_mem {s u : State} {c number : Nat} {m : List Byte} (h : s.storeHalves c number m = some u) :
    u.mem = s.mem := by
  have keeps : ∀ (l : List Nat) (t : Option State), (∀ v, t = some v → v.mem = s.mem) → ∀ v,
      l.foldl (fun t q => match t with
        | none => none
        | some (t : State) => t.storeHalf c q (s.shadow c) (s.halfBytes c q number m)) t = some v → v.mem = s.mem := by
    intro l
    induction l with
    | nil => exact fun t ht v hv => ht v hv
    | cons q l ih =>
      intro t ht v hv
      refine ih _ (fun w hw => ?_) v hv
      cases t with
      | none => cases hw
      | some t => exact (State.storeHalf_mem hw).trans (ht t rfl)
  exact keeps _ _ (fun v hv => by cases hv; rfl) u h

/-- What every step of a fold keeps in canonical form, the fold does. -/
theorem State.foldl_wf {α : Type} (f : State → α → State) (h : ∀ s a, s.mem.wf = true → (f s a).mem.wf = true) (l : List α)
    (s : State) (hw : s.mem.wf = true) : (l.foldl f s).mem.wf = true :=
  State.foldl_holds (fun s => s.mem.wf = true) f h l s hw

/-- The gates of the quadrants whose columns a load will read are asked to open, but for those that open already (R463). -/
def State.openGates (s : State) (cols : List Nat) : State :=
  cols.foldl (fun (u : State) k =>
    if (u.gate (quadOf (bankOfCol k))).state = 3 then u else u.demandGate (quadOf (bankOfCol k))) s

@[simp] theorem State.openGates_mem (s : State) (cols : List Nat) : (s.openGates cols).mem = s.mem :=
  State.foldl_mem _ (fun s k => by split <;> simp) cols s

/-- The columns of the image that a load reads: none of a descriptor that has died (log 41). -/
def State.loadCols (s : State) (d : Desc) : List Nat := if d.live then s.imageReads d else []

/-- BEGIN of a load that waits, with no load under way and no halves armed (R156). -/
theorem State.beginLoad_of_waits {s : State} {c n h : Nat} (hw : (s.ctx c).waitLoad = some (n, h)) (hl : (s.ctx c).loading = none)
    (ha : (s.ctx c).armed = none) :
    s.beginLoad c =
      let cols := s.loadCols (s.desc c h)
      let u := s.openGates cols
      if u.reachAll cols = false then u
      else
        let r := if (s.desc c h).live then u.readImage (s.desc c h) else ([], u)
        r.2.modCtx c (fun x => { x with waitLoad := none, loading := some ⟨n, r.1⟩ }) := by
  simp only [State.beginLoad, hw, hl, ha, Option.isSome_none, Bool.false_eq_true, or_self, if_false]
  rfl

theorem State.beginLoad_of_idle {s : State} {c : Nat}
    (h : (s.ctx c).waitLoad = none ∨ (s.ctx c).loading ≠ none ∨ (s.ctx c).armed ≠ none) : s.beginLoad c = s := by
  unfold State.beginLoad
  dsimp only
  split
  · rfl
  · next hw =>
    refine if_pos ?_
    rcases h with h | h | h
    · simp [hw] at h
    · exact .inl (Option.isSome_iff_ne_none.mpr h)
    · exact .inr (Option.isSome_iff_ne_none.mpr h)

@[simp] theorem State.beginLoad_wf (s : State) (c : Nat) (hm : s.mem.wf = true) : (s.beginLoad c).mem.wf = true := by
  by_cases h : (s.ctx c).waitLoad = none ∨ (s.ctx c).loading ≠ none ∨ (s.ctx c).armed ≠ none
  · rwa [State.beginLoad_of_idle h]
  · push Not at h
    obtain ⟨hw, hl, ha⟩ := h
    obtain ⟨⟨n, k⟩, hw⟩ := Option.ne_none_iff_exists'.mp hw
    rw [State.beginLoad_of_waits hw hl ha]
    dsimp only
    (repeat' split) <;> simp [hm]

theorem State.request_wf (s : State) (h : Word64) (who : Option Nat) (f : State → State) (hw : s.mem.wf = true)
    (hf : (f s).mem.wf = true) : (s.request h who f).mem.wf = true := by
  unfold State.request
  (repeat' split) <;> simp [hw, hf]

theorem State.onCtx_wf (s : State) (h : Word64) (c : Nat) (f : State → State) (hw : s.mem.wf = true)
    (hf : (f s).mem.wf = true) : (s.onCtx h c f).mem.wf = true := by
  refine State.request_wf _ _ _ _ hw ?_
  split <;> simp [hw, hf]

theorem State.odRequest_wf (s : State) (h : Word64) (f : Session → State) (hw : s.mem.wf = true)
    (hf : ∀ y, (f y).mem.wf = true) : (s.odRequest h f).mem.wf = true := by
  unfold State.odRequest
  (repeat' split) <;> simp [hw, hf]

theorem State.nmtCommand_wf (s : State) (f : State → State) (hw : s.mem.wf = true) (hf : (f s).mem.wf = true) :
    (s.nmtCommand f).mem.wf = true := by
  unfold State.nmtCommand
  split
  · exact hw
  · exact hf

end Sys2Proof.Machine

namespace Sys2Proof

/-! ## Families of commands, by how they reach memory -/

/-- The slot commands that write no column, and what ends in a quadrant without one (R113 to R127). -/
def Instr.slotsOnly (i : Instr) : Bool :=
  match i with
  | .mac .. | .add .. | .mul .. | .max .. | .cmp .. | .scale .. | .exp2 .. | .cvt .. | .pack .. | .cvtmx .. | .out .. |
    .mask .. | .xfer .. | .hoist .. | .wait .. | .kadd .. | .rget .. | .rrel .. | .bell .. | .fence .. | .report .. |
    .agset .. | .agidx .. | .agskip .. | .xbase .. | .msk .. | .loop .. | .endl .. | .launchExchange .. |
    .launchMerge .. | .roll .. | .act .. | .pre .. | .prea .. | .columnWriteDrain .. | .lateComplete .. |
    .endWord .. => true
  | _ => false

/-- The merge engine, refresh and the events of lessons, bells and intervals. -/
def Instr.enginesAndTime (i : Instr) : Bool :=
  match i with
  | .bellRing | .quantumExpiry .. | .loadComplete .. | .saturationInterval .. | .bellPeriodChange | .copyShareEnd .. |
    .transposeBufferGrant .. | .merge .. | .topk .. | .sample .. | .route .. | .mergeShareEnd .. | .refreshDue .. |
    .neighbourDeadline .. | .idleRefresh .. | .delaySetTimeout .. | .linkAlert .. => true
  | _ => false

/-- Panes, the command ring, reports, watches and the CXL link. -/
def Instr.hostSide (i : Instr) : Bool :=
  match i with
  | .paneWrite .. | .doorbell .. | .commandRingWrite .. | .doorbellHoldExpiry .. | .ringReinit .. | .ackHostLost .. |
    .reportCfgWrite .. | .reportHeadWrite .. | .reportWrite .. | .msixDelayExpiry .. | .penHoist .. | .rollArrive .. |
    .watchArm .. | .watchLimitExpiry .. | .waitTimeout .. | .cxlLinkRecovery | .cxlLinkDown | .cxlLinkUp .. |
    .hostLossTimeout | .perstN | .cxlHotReset | .functionLevelReset | .perstNDeassert => true
  | _ => false

/-- Sessions and the reading of the dictionary. -/
def Instr.sessions (i : Instr) : Bool :=
  match i with
  | .sessionOpen .. | .sessionLockoutExpiry | .sessionClose .. | .odRead .. | .snapshotExpiry .. => true
  | _ => false

/-- Context control that names no context or may find it ending (R406). -/
def Instr.contextControl (i : Instr) : Bool :=
  match i with
  | .ctxCreate .. | .ctxReset .. | .quadMode .. | .halfRead .. => true
  | _ => false

/-- Context control of a context that has to exist and not to be ending (R554). -/
def Instr.onContext (i : Instr) : Bool :=
  match i with
  | .alloc .. | .free .. | .descCreate .. | .descDestroy .. | .descRead .. | .descClearPoison .. | .penCreate .. |
    .penBind .. | .penUnbind .. | .penShare .. | .rollCreate .. | .rollBind .. | .rollUnbind .. => true
  | _ => false

/-- The mailbox commands of CXL 3.1 (R364, R529). -/
def Instr.cxlMailbox (i : Instr) : Bool :=
  match i with
  | .identifyMemoryDevice | .getHealthInfo | .getEventRecords .. | .clearEventRecords .. | .getTimestamp |
    .setTimestamp .. | .getSupportedLogs | .getLog | .getFwInfo | .transferFw .. | .activateFw .. => true
  | _ => false

/-- The requests of SPDM (R533). -/
def Instr.spdmRequest (i : Instr) : Bool :=
  match i with
  | .getVersion | .getCapabilities | .negotiateAlgorithms .. | .getDigests | .getCertificate .. | .challenge .. |
    .getMeasurements .. => true
  | _ => false

/-- The CAN FD node but for its writes and initialisations (R502 to R511). -/
def Instr.canNode (i : Instr) : Bool :=
  match i with
  | .startRemoteNode | .stopRemoteNode | .enterPreOperational | .usdoUpload .. | .usdoSegmentTimeout | .heartbeat |
    .tpdo .. | .emcySend | .busOffRecovery | .canBusError .. => true
  | _ => false

/-- Gates, the frequency counter, the governor and the stages that start no stack. -/
def Instr.powerAndClocks (i : Instr) : Bool :=
  match i with
  | .fmcDone .. | .fmcReferenceStall | .gateClose .. | .gateClosed .. | .gateTimeout .. | .gateOpen .. |
    .quadIdleGateExpiry .. | .mainInputPresent | .modResetNDeassert | .pwrBrakeN .. | .budgetTick | .inputCeilingAlert |
    .budgetUnmet | .xtalStartAttempt | .xtalAttemptTimeout | .xtalNoEdge | .tripJudgement .. | .stageB2 | .stageB3 |
    .stageB4 | .stageB6 | .stageB7 => true
  | _ => false

/-- The peer ring's ports, joins and elections, and time words, which act on their hop alone. -/
def Instr.ringPorts (i : Instr) : Bool :=
  match i with
  | .bypassTimerExpiry | .ringJoin .. | .ringLeave | .idleSend .. | .frameCrcError .. | .neighbourSilence .. |
    .masterLost | .electionTimeout | .holdoverExpiry | .portTrainTimeout .. | .portCodewordLimit .. | .portRetrain .. |
    .laneFailure .. | .portLinkDown .. | .portLinkUp .. | .masterSilence | .idleFrame .. => true
  | _ => false

/-- What moves columns in a quadrant: words, results, writes, lessons and copies. -/
def Instr.storesInQuadrant (i : Instr) : Bool :=
  match i with
  | .issueWord .. | .forcedCompletion .. | .resultVisible .. | .recessWord .. | .maskedWriteMerge .. | .rd .. | .rds ..
    | .wr .. | .wrm .. | .dismissalComplete .. | .freqChangeComplete .. | .contextSwitch .. | .scoreboardGrant .. |
    .copy .. | .gather .. | .scatter .. => true
  | _ => false

/-- What reaches memory from outside the words: loads, resets, scrubs, host accesses and frames. -/
def Instr.storesFromOutside (i : Instr) : Bool :=
  match i with
  | .loadBegin .. | .load .. | .ctxDestroy .. | .ctxResetComplete .. | .plotCleared .. | .scrubColumn .. | .slateRead ..
    | .slateWrite .. | .fullMapAccess .. | .slateHold .. | .stackLinkRecoveryDone .. | .gateOpened .. | .joinFrame .. |
    .rosterFrame .. | .fenceFrame .. | .hoistFrame .. | .penSub .. | .penUpdate .. | .penBindFrame .. |
    .rollArriveFrame .. | .rollReleaseFrame .. | .kvWrite .. | .kvRead .. | .kvData .. | .kvAck .. | .mergePart .. |
    .mergeResult .. => true
  | _ => false

/-- The writes of the dictionary, which may begin a module reset (R517). -/
def Instr.writesDictionary (i : Instr) : Bool :=
  match i with
  | .odWrite .. | .registerWrite .. | .resetCommunication | .resetNode | .usdoDownload .. | .store .. | .restore .. |
    .nextSlotWrite .. | .errorCountClear .. | .errLogClear .. | .modReset .. | .credentialDigestWrite .. |
    .hazardLogClear .. | .rdThresholdWrite .. | .pwrBudgetWrite .. | .orderingWrite .. | .fullMapWrite .. |
    .bellPeriodWrite .. | .clkAck .. | .fmcStart .. => true
  | _ => false

/-- Resets, power and what may shut the module down. -/
def Instr.movesPower (i : Instr) : Bool :=
  match i with
  | .modResetN | .mainInputLost | .auxPowerGood | .auxPowerLoss | .stabilityMeasurement .. | .stageB5 |
    .sensorConversion .. | .pmbusPoll .. => true
  | _ => false

theorem Instr.mayStore_or_family (i : Instr) :
    (i.mayStore || i.slotsOnly || i.enginesAndTime || i.hostSide || i.sessions || i.contextControl || i.onContext ||
      i.cxlMailbox || i.spdmRequest || i.canNode || i.powerAndClocks || i.ringPorts) = true := by
  cases i <;> rfl

theorem Instr.storing_family (i : Instr) :
    (!i.mayStore || i.storesInQuadrant || i.storesFromOutside || i.writesDictionary || i.movesPower) = true := by
  cases i <;> rfl

end Sys2Proof

namespace Sys2Proof.Machine

/-! ## What each family does to memory -/

theorem exec_mem_of_slotsOnly {i : Instr} {s t : State} (hi : i.slotsOnly = true) (h : exec i s = .next t) :
    t.mem = s.mem := by
  cases i <;> cases hi <;>
    simp only [exec, execMac, execAdd, execMul, execMax, execCmp, execScale, execExp2, execCvt, execPack, execCvtmx,
      execOut, execMask, execXfer, execHoist, execWait, execKadd, execRget, execRrel, execBell, execFence, execReport,
      execAgset, execAgidx, execAgskip, execXbase, execMsk, execLoop, execEndl, execLaunchExchange, execLaunchMerge,
      execRoll, execAct, execPre, execPrea, execColumnWriteDrain, execLateComplete, execEndWord] at h <;>
    cases h
  all_goals (repeat' split) <;> simp

theorem exec_mem_of_enginesAndTime {i : Instr} {s t : State} (hi : i.enginesAndTime = true) (h : exec i s = .next t) :
    t.mem = s.mem := by
  cases i <;> cases hi <;>
    simp only [exec, execBellRing, execQuantumExpiry, execLoadComplete, execSaturationInterval, execBellPeriodChange,
      execCopyShareEnd, execTransposeBufferGrant, execMerge, execTopk, execSample, execRoute, execMergeShareEnd,
      execRefreshDue, execNeighbourDeadline, execIdleRefresh, execDelaySetTimeout, execLinkAlert] at h <;>
    cases h
  case loadComplete c =>
    split
    · rfl
    · split
      · simp
      · split
        · simp
        · next e => split <;> simp [State.storeHalves_mem e]
  all_goals (repeat' split) <;> simp

theorem exec_mem_of_hostSide {i : Instr} {s t : State} (hi : i.hostSide = true) (h : exec i s = .next t) :
    t.mem = s.mem := by
  cases i <;> cases hi <;>
    simp only [exec, execPaneWrite, execDoorbell, execCommandRingWrite, execDoorbellHoldExpiry, execRingReinit,
      execAckHostLost, execReportCfgWrite, execReportHeadWrite, execReportWrite, execMsixDelayExpiry, execPenHoist,
      execRollArrive, execWatchArm, execWatchLimitExpiry, execWaitTimeout, execCxlLinkRecovery, execCxlLinkDown,
      execCxlLinkUp, execHostLossTimeout, execPerstN, execCxlHotReset, execFunctionLevelReset, execPerstNDeassert] at h <;>
    cases h
  all_goals (repeat' split) <;> simp

theorem exec_mem_of_sessions {i : Instr} {s t : State} (hi : i.sessions = true) (h : exec i s = .next t) :
    t.mem = s.mem := by
  cases i <;> cases hi <;>
    simp only [exec, execSessionOpen, execSessionLockoutExpiry, execSessionClose, execOdRead, execSnapshotExpiry] at h <;>
    cases h
  case odRead =>
    refine State.odRequest_mem _ _ _ fun y => ?_
    (repeat' split) <;> simp
  all_goals (repeat' split) <;> simp

theorem exec_mem_of_contextControl {i : Instr} {s t : State} (hi : i.contextControl = true) (h : exec i s = .next t) :
    t.mem = s.mem := by
  cases i <;> cases hi <;>
    simp only [exec, execCtxCreate, execCtxReset, execQuadMode, execHalfRead] at h <;>
    cases h
  case ctxReset h c =>
    cases h with
    | none => dsimp only; split <;> simp
    | some h =>
      refine State.request_mem _ _ _ _ fun s => ?_
      split <;> simp
  all_goals
    refine State.request_mem _ _ _ _ fun s => ?_
    (repeat' split) <;> simp

theorem exec_mem_of_onContext {i : Instr} {s t : State} (hi : i.onContext = true) (h : exec i s = .next t) :
    t.mem = s.mem := by
  cases i <;> cases hi <;>
    simp only [exec, execAlloc, execFree, execDescCreate, execDescDestroy, execDescRead, execDescClearPoison,
      execPenCreate, execPenBind, execPenUnbind, execPenShare, execRollCreate, execRollBind, execRollUnbind] at h <;>
    cases h
  all_goals
    refine State.onCtx_mem _ _ _ _ fun s => ?_
    (repeat' split) <;> simp

theorem exec_mem_of_cxlMailbox {i : Instr} {s t : State} (hi : i.cxlMailbox = true) (h : exec i s = .next t) :
    t.mem = s.mem := by
  cases i <;> cases hi <;>
    simp only [exec, execIdentifyMemoryDevice, execGetHealthInfo, execGetEventRecords, execClearEventRecords,
      execGetTimestamp, execSetTimestamp, execGetSupportedLogs, execGetLog, execGetFwInfo, execTransferFw,
      execActivateFw] at h <;>
    cases h
  all_goals
    refine State.cxlCommand_mem _ _ _ fun s => ?_
    (repeat' split) <;> simp

theorem exec_mem_of_spdmRequest {i : Instr} {s t : State} (hi : i.spdmRequest = true) (h : exec i s = .next t) :
    t.mem = s.mem := by
  cases i <;> cases hi <;>
    simp only [exec, execGetVersion, execGetCapabilities, execNegotiateAlgorithms, execGetDigests, execGetCertificate,
      execChallenge, execGetMeasurements] at h <;>
    cases h
  all_goals
    refine State.spdm_mem _ _ _ fun s => ?_
    (repeat' split) <;> simp

theorem exec_mem_of_canNode {i : Instr} {s t : State} (hi : i.canNode = true) (h : exec i s = .next t) :
    t.mem = s.mem := by
  cases i <;> cases hi <;>
    simp only [exec, execStartRemoteNode, execStopRemoteNode, execEnterPreOperational, execUsdoUpload,
      execUsdoSegmentTimeout, execHeartbeat, execTpdo, execEmcySend, execBusOffRecovery, execCanBusError] at h <;>
    cases h
  all_goals (repeat' split) <;> simp

theorem exec_mem_of_powerAndClocks {i : Instr} {s t : State} (hi : i.powerAndClocks = true) (h : exec i s = .next t) :
    t.mem = s.mem := by
  cases i <;> cases hi <;>
    simp only [exec, execFmcDone, execFmcReferenceStall, execGateClose, execGateClosed, execGateTimeout, execGateOpen,
      execQuadIdleGateExpiry, execMainInputPresent, execModResetNDeassert, execPwrBrakeN, execBudgetTick,
      execInputCeilingAlert, execBudgetUnmet, execXtalStartAttempt, execXtalAttemptTimeout, execXtalNoEdge,
      execTripJudgement, execStageB2, execStageB3, execStageB4, execStageB6, execStageB7] at h <;>
    cases h
  all_goals (repeat' split) <;> simp

theorem exec_mem_of_ringPorts {i : Instr} {s t : State} (hi : i.ringPorts = true) (h : exec i s = .next t) :
    t.mem = s.mem := by
  cases i <;> cases hi <;>
    simp only [exec, execBypassTimerExpiry, execRingJoin, execRingLeave, execIdleSend, execFrameCrcError,
      execNeighbourSilence, execMasterLost, execElectionTimeout, execHoldoverExpiry, execPortTrainTimeout,
      execPortCodewordLimit, execPortRetrain, execLaneFailure, execPortLinkDown, execPortLinkUp, execMasterSilence,
      execIdleFrame] at h <;>
    cases h
  all_goals (repeat' split) <;> simp

theorem exec_wf_of_storesInQuadrant {i : Instr} {s t : State} (hi : i.storesInQuadrant = true) (h : exec i s = .next t)
    (hw : s.mem.wf = true) : t.mem.wf = true := by
  cases i <;> cases hi <;>
    simp only [exec, execIssueWord, execForcedCompletion, execResultVisible, execRecessWord, execMaskedWriteMerge,
      execRd, execRds, execWr, execWrm, execDismissalComplete, execFreqChangeComplete, execContextSwitch,
      execScoreboardGrant, execCopy, execGather, execScatter] at h <;>
    cases h
  case maskedWriteMerge => exact State.foldl_wf _ (fun s m h => by simp [h]) _ _ hw
  case wr =>
    split
    · simp [State.foldl_wf _ (fun s u h => State.writeUnit_wf s _ _ _ _ _ u h), hw]
    · simp [hw]
  case wrm =>
    split
    · simp [State.foldl_wf _ (fun s u h => State.writeMaskedUnit_wf s _ _ _ _ _ u h), hw]
    · simp [hw]
  case freqChangeComplete =>
    split
    · refine State.kvPump_wf _ (State.pumpQuad_wf _ _ (State.foldl_wf _ (fun s i h => by simp [h]) _ _ ?_))
      simp [hw]
    · exact hw
  all_goals (repeat' split) <;> simp [*]

theorem exec_wf_of_storesFromOutside {i : Instr} {s t : State} (hi : i.storesFromOutside = true) (h : exec i s = .next t)
    (hw : s.mem.wf = true) : t.mem.wf = true := by
  cases i <;> cases hi <;>
    simp only [exec, execLoadBegin, execLoad, execCtxDestroy, execCtxResetComplete, execPlotCleared, execScrubColumn,
      execSlateRead, execSlateWrite, execFullMapAccess, execSlateHold, execStackLinkRecoveryDone, execGateOpened,
      execJoinFrame, execRosterFrame, execFenceFrame, execHoistFrame, execPenSub, execPenUpdate, execPenBindFrame,
      execRollArriveFrame, execRollReleaseFrame, execKvWrite, execKvRead, execKvData, execKvAck, execMergePart,
      execMergeResult] at h <;>
    cases h
  case slateHold =>
    split
    · simp [hw]
    · refine State.pumpReads_wf _ (State.holdServe_wf _ _ ?_)
      simp [hw]
  case load =>
    refine State.onCtx_wf _ _ _ _ hw ?_
    (repeat' split) <;> simp [hw]
  case ctxDestroy =>
    refine State.request_wf _ _ _ _ hw ?_
    split <;> simp [hw]
  all_goals (repeat' split) <;> simp [*]

theorem exec_wf_of_writesDictionary {i : Instr} {s t : State} (hi : i.writesDictionary = true) (h : exec i s = .next t)
    (hw : s.mem.wf = true) : t.mem.wf = true := by
  cases i <;> cases hi <;>
    simp only [exec, execOdWrite, execRegisterWrite, execResetCommunication, execResetNode, execUsdoDownload, execStore,
      execRestore, execNextSlotWrite, execErrorCountClear, execErrLogClear, execModReset, execCredentialDigestWrite,
      execHazardLogClear, execRdThresholdWrite, execPwrBudgetWrite, execOrderingWrite, execFullMapWrite,
      execBellPeriodWrite, execClkAck, execFmcStart] at h <;>
    cases h
  case odWrite =>
    refine State.odRequest_wf _ _ _ hw fun y => ?_
    (repeat' split) <;> simp [hw]
  case resetCommunication => exact State.nmtCommand_wf _ _ hw (by simp [hw])
  case resetNode => exact State.nmtCommand_wf _ _ hw (by simp [hw])
  all_goals (repeat' split) <;> simp [*]

theorem exec_wf_of_movesPower {i : Instr} {s t : State} (hi : i.movesPower = true) (h : exec i s = .next t)
    (hw : s.mem.wf = true) : t.mem.wf = true := by
  cases i <;> cases hi <;>
    simp only [exec, execModResetN, execMainInputLost, execAuxPowerGood, execAuxPowerLoss, execStabilityMeasurement,
      execStageB5, execSensorConversion, execPmbusPoll] at h <;>
    cases h
  all_goals (repeat' split) <;> simp [*]

/-- A command outside the storing families leaves memory alone. -/
theorem exec_mem_of_not_mayStore {i : Instr} {s t : State} (hi : i.mayStore = false) (h : exec i s = .next t) :
    t.mem = s.mem := by
  have family := i.mayStore_or_family
  simp only [hi, Bool.false_or, Bool.or_eq_true, or_assoc] at family
  rcases family with hi | hi | hi | hi | hi | hi | hi | hi | hi | hi | hi
  · exact exec_mem_of_slotsOnly hi h
  · exact exec_mem_of_enginesAndTime hi h
  · exact exec_mem_of_hostSide hi h
  · exact exec_mem_of_sessions hi h
  · exact exec_mem_of_contextControl hi h
  · exact exec_mem_of_onContext hi h
  · exact exec_mem_of_cxlMailbox hi h
  · exact exec_mem_of_spdmRequest hi h
  · exact exec_mem_of_canNode hi h
  · exact exec_mem_of_powerAndClocks hi h
  · exact exec_mem_of_ringPorts hi h

/-- A storing command keeps memory in canonical form. -/
theorem exec_wf_of_mayStore {i : Instr} {s t : State} (hi : i.mayStore = true) (h : exec i s = .next t)
    (hw : s.mem.wf = true) : t.mem.wf = true := by
  have family := i.storing_family
  simp only [hi, Bool.not_true, Bool.false_or, Bool.or_eq_true, or_assoc] at family
  rcases family with hi | hi | hi | hi
  · exact exec_wf_of_storesInQuadrant hi h hw
  · exact exec_wf_of_storesFromOutside hi h hw
  · exact exec_wf_of_writesDictionary hi h hw
  · exact exec_wf_of_movesPower hi h hw

theorem exec_wf {i : Instr} {s t : State} (h : exec i s = .next t) (hw : s.mem.wf = true) : t.mem.wf = true := by
  cases hi : i.mayStore with
  | true => exact exec_wf_of_mayStore hi h hw
  | false => rwa [exec_mem_of_not_mayStore hi h]

/-- Settles O6: a storing command keeps the form, any other leaves memory alone, and so does the nanosecond of an empty queue. -/
theorem memoryStaysInCanonicalForm : Obligations.MemoryStaysInCanonicalForm := by
  intro s t hw h
  unfold step at h
  split at h
  · cases h
    simpa using hw
  · exact exec_wf h hw

end Sys2Proof.Machine
end

section
/-! PROOF. O10: the flat view and the bank view are inverse to each other (R16, R193). Both views are sums of bounded fields; the
two XOR swizzles undo themselves. -/

namespace Sys2Proof.Machine

/-- The address whose fields are those of the bank view. -/
def bankAddress (stack die bank row o : Nat) : Nat :=
  stack * 2 ^ 36 + die * 2 ^ 32 + bank * 2 ^ 27 + row * 2 ^ 11 + o

/-- The fields of a bank-view address read back. -/
theorem bankAddress_fields {stack die bank row o : Nat} (hd : die < 16) (hb : bank < 32) (hr : row < 65536) (ho : o < 2048) :
    bankAddress stack die bank row o / 2 ^ 36 = stack ∧ bankAddress stack die bank row o / 2 ^ 32 % 16 = die ∧
      bankAddress stack die bank row o / 2 ^ 27 % 32 = bank ∧ bankAddress stack die bank row o / 2 ^ 11 % 65536 = row ∧
      bankAddress stack die bank row o % 2048 = o := by
  unfold bankAddress
  omega

theorem bankAddress_of_fields (b : Nat) :
    bankAddress (b / 2 ^ 36) (b / 2 ^ 32 % 16) (b / 2 ^ 27 % 32) (b / 2 ^ 11 % 65536) (b % 2048) = b := by
  unfold bankAddress
  omega

/-- The address whose fields are those of the flat view: the 1 MiB block p, the swizzled die and bank, the swizzled stack, half and
offset. -/
def flatAddress (p d k s0 half o : Nat) : Nat := (20 * (p * 512 + d * 32 + k) + s0) * 4096 + half * 2048 + o

theorem flatAddress_fields {p d k s0 half o : Nat} (hd : d < 16) (hk : k < 32) (hs : s0 < 20) (hh : half < 2) (ho : o < 2048) :
    flatAddress p d k s0 half o / 4096 / 20 / 512 = p ∧ flatAddress p d k s0 half o / 4096 / 20 / 32 % 16 = d ∧
      flatAddress p d k s0 half o / 4096 / 20 % 32 = k ∧ flatAddress p d k s0 half o / 4096 % 20 = s0 ∧
      flatAddress p d k s0 half o / 2048 % 2 = half ∧ flatAddress p d k s0 half o % 2048 = o := by
  unfold flatAddress
  omega

theorem flatAddress_of_fields (f : Nat) :
    flatAddress (f / 4096 / 20 / 512) (f / 4096 / 20 / 32 % 16) (f / 4096 / 20 % 32) (f / 4096 % 20) (f / 2048 % 2) (f % 2048) = f := by
  unfold flatAddress
  omega

theorem xor_xor_cancel (a b : Nat) : a ^^^ b ^^^ b = a := by rw [Nat.xor_assoc, Nat.xor_self, Nat.xor_zero]

theorem xor_mod_lt (n : Nat) {a : Nat} (b : Nat) (ha : a < 2 ^ n) : a ^^^ b % 2 ^ n < 2 ^ n :=
  Nat.xor_lt_two_pow ha (Nat.mod_lt _ (Nat.two_pow_pos n))

/-- The bank-view address of a flat address given by its fields. -/
theorem flatToBank_flatAddress {p d k s0 half o : Nat} (hd : d < 16) (hk : k < 32) (hs : s0 < 20) (hh : half < 2)
    (ho : o < 2048) :
    flatToBank (flatAddress p d k s0 half o) =
      bankAddress ((s0 + p / 512) % 20) (d ^^^ p % 16) (k ^^^ p / 16 % 32) (2 * p + half) o := by
  obtain ⟨ep, ed, ek, es, eh, eo⟩ := flatAddress_fields (p := p) hd hk hs hh ho
  simp only [flatToBank, ep, ed, ek, es, eh, eo]
  rfl

/-- The flat address of a bank-view address given by its fields. -/
theorem bankToFlat_bankAddress {stack die bank row o : Nat} (hd : die < 16) (hb : bank < 32) (hr : row < 65536) (ho : o < 2048) :
    bankToFlat (bankAddress stack die bank row o) =
      flatAddress (row / 2) (die ^^^ row / 2 % 16) (bank ^^^ row / 2 / 16 % 32) ((stack + 80 - row / 2 / 512) % 20) (row % 2) o := by
  obtain ⟨es, ed, eb, er, eo⟩ := bankAddress_fields (stack := stack) hd hb hr ho
  simp only [bankToFlat, es, ed, eb, er, eo]
  rfl

/-- Flat to bank and back: block, die, bank, half and offset return, and the stack's rotation by p / 512 < 64 is undone modulo 20. -/
theorem bankToFlat_flatToBank (f : Nat) (h : f < 20 * 2 ^ 36) : flatToBank f < 20 * 2 ^ 36 ∧ bankToFlat (flatToBank f) = f := by
  have hp : f / 4096 / 20 / 512 < 32768 := by omega
  have hd : f / 4096 / 20 / 32 % 16 < 16 := Nat.mod_lt _ (by decide)
  have hk : f / 4096 / 20 % 32 < 32 := Nat.mod_lt _ (by decide)
  have hs : f / 4096 % 20 < 20 := Nat.mod_lt _ (by decide)
  have hh : f / 2048 % 2 < 2 := Nat.mod_lt _ (by decide)
  have ho : f % 2048 < 2048 := Nat.mod_lt _ (by decide)
  have hf := flatAddress_of_fields f
  generalize f / 4096 / 20 / 512 = p, f / 4096 / 20 / 32 % 16 = d, f / 4096 / 20 % 32 = k, f / 4096 % 20 = s0,
    f / 2048 % 2 = half, f % 2048 = o at *
  rw [← hf, flatToBank_flatAddress hd hk hs hh ho]
  have hd' : d ^^^ p % 16 < 16 := xor_mod_lt 4 p hd
  have hk' : k ^^^ p / 16 % 32 < 32 := xor_mod_lt 5 (p / 16) hk
  refine ⟨?_, ?_⟩
  · unfold bankAddress
    omega
  · rw [bankToFlat_bankAddress hd' hk' (by omega) ho]
    have e1 : (2 * p + half) / 2 = p := by omega
    have e2 : (2 * p + half) % 2 = half := by omega
    have e3 : ((s0 + p / 512) % 20 + 80 - p / 512) % 20 = s0 := by omega
    rw [e1, e2, e3, xor_xor_cancel, xor_xor_cancel]

/-- Bank to flat and back. -/
theorem flatToBank_bankToFlat (b : Nat) (h : b < 20 * 2 ^ 36) : bankToFlat b < 20 * 2 ^ 36 ∧ flatToBank (bankToFlat b) = b := by
  have hs : b / 2 ^ 36 < 20 := by omega
  have hd : b / 2 ^ 32 % 16 < 16 := Nat.mod_lt _ (by decide)
  have hb : b / 2 ^ 27 % 32 < 32 := Nat.mod_lt _ (by decide)
  have hr : b / 2 ^ 11 % 65536 < 65536 := Nat.mod_lt _ (by decide)
  have ho : b % 2048 < 2048 := Nat.mod_lt _ (by decide)
  have hf := bankAddress_of_fields b
  generalize b / 2 ^ 36 = stack, b / 2 ^ 32 % 16 = die, b / 2 ^ 27 % 32 = bank, b / 2 ^ 11 % 65536 = row, b % 2048 = o at *
  rw [← hf, bankToFlat_bankAddress hd hb hr ho]
  have hd' : die ^^^ row / 2 % 16 < 16 := xor_mod_lt 4 (row / 2) hd
  have hb' : bank ^^^ row / 2 / 16 % 32 < 32 := xor_mod_lt 5 (row / 2 / 16) hb
  have hs' : (stack + 80 - row / 2 / 512) % 20 < 20 := Nat.mod_lt _ (by decide)
  refine ⟨?_, ?_⟩
  · unfold flatAddress
    omega
  · rw [flatToBank_flatAddress hd' hb' hs' (Nat.mod_lt _ (by decide)) ho]
    have e1 : 2 * (row / 2) + row % 2 = row := by omega
    have e2 : ((stack + 80 - row / 2 / 512) % 20 + row / 2 / 512) % 20 = stack := by omega
    rw [e1, e2, xor_xor_cancel, xor_xor_cancel]

/-- Settles O10: each view's fields determine the other's. -/
theorem flatAndBankViewsAreInverse : Obligations.FlatAndBankViewsAreInverse :=
  ⟨bankToFlat_flatToBank, flatToBank_bankToFlat⟩

end Sys2Proof.Machine
end

section
/-! PROOF. What synchronisation leaves alone. Posts, frames, releases and hoists change quadrants, contexts, pennants, ports and what is
sent, and nothing else; of a context they change records, watches and handles only. A state with those parts blanked is what such an
operation keeps: one equation for each operation, from which the frames of bells and resets follow. -/

namespace Sys2Proof.Machine

/-- A context without what synchronisation changes: records, watches, wanted releases, handles and bindings. -/
def Ctx.still (x : Ctx) : Ctx :=
  { x with pens := [], rolls := [], releases := [], watches := [], buffer := [], queue := [] }

/-- The ring without ports, sequences and what waits on frames. -/
def Ring.still (r : Ring) : Ring := { r with ports := [], eseq := [], merges := [], requests := [], binds := [] }

/-- The state without the parts that synchronisation changes. -/
def State.blank (s : State) : State :=
  { s with quads := [], ctxs := [], sync := Sync.init, host := HostSide.init, ring := s.ring.still, out := [] }

/-- What stays of a quadrant: its point, and the contexts in its slots. -/
def Quad.seat (x : Quad) : Nat × Bool × Option Nat × (Nat → Option Nat) := (x.point, x.changing, x.chosen, fun i => (x.slot i).ctx)

/-- The owner of a live pennant. -/
def Pennant.liveOwner (x : Pennant) : Option Nat := if x.st = 1 then some x.owner.toNat else none

/-- What synchronisation leaves alone: the blanked state, of each context what it is and does, of each quadrant its seats, and whose
the live pennants are. -/
structure Still where
  rest : State
  ctx : Nat → Ctx
  seat : Nat → Nat × Bool × Option Nat × (Nat → Option Nat)
  owner : Nat → Option Nat

def State.still (s : State) : Still :=
  ⟨s.blank, fun c => (s.ctx c).still, fun q => (s.quad q).seat, fun p => (s.pen p).liveOwner⟩

theorem State.ctx_of_still {s t : State} (h : t.still = s.still) (c : Nat) : (t.ctx c).still = (s.ctx c).still :=
  congrArg (fun x : Still => x.ctx c) h

theorem State.seat_of_still {s t : State} (h : t.still = s.still) (q : Nat) : (t.quad q).seat = (s.quad q).seat :=
  congrArg (fun x : Still => x.seat q) h

theorem State.eq_of_blank {s t : State} (h : t.blank = s.blank) :
    t = { s with quads := t.quads, ctxs := t.ctxs, sync := t.sync, host := t.host, ring := t.ring, out := t.out } := by
  calc t = { t.blank with quads := t.quads, ctxs := t.ctxs, sync := t.sync, host := t.host, ring := t.ring, out := t.out } := rfl
    _ = _ := by rw [h]; rfl

/-! ## The accessors -/

theorem State.setQuad_still (s : State) (q : Nat) {x : Quad} (h : x.seat = (s.quad q).seat) : (s.setQuad q x).still = s.still := by
  refine congrArg (fun f => (⟨s.blank, s.still.ctx, f, s.still.owner⟩ : Still)) (funext fun p => ?_)
  by_cases hp : p = q
  · subst hp; rw [State.quad_setQuad_same, h]
  · rw [State.quad_setQuad_ne s x hp]

@[simp] theorem State.modQuad_still (s : State) (q : Nat) {f : Quad → Quad} (h : ∀ x, (f x).seat = x.seat) :
    (s.modQuad q f).still = s.still := s.setQuad_still q (h _)

/-- A change of one slot that leaves its context in it. -/
theorem Quad.modSlot_seat (x : Quad) (i : Nat) {f : Slot → Slot} (h : ∀ y, (f y).ctx = y.ctx) : (x.modSlot i f).seat = x.seat := by
  refine congrArg (fun g => (x.point, x.changing, x.chosen, g)) (funext fun j => ?_)
  by_cases hj : j = i
  · subst hj
    exact (congrArg Slot.ctx (x.slot_setSlot_same j _)).trans (h _)
  · exact congrArg Slot.ctx (x.slot_setSlot_ne _ hj)

@[simp] theorem State.modSlot_still (s : State) (q i : Nat) {f : Slot → Slot} (h : ∀ y, (f y).ctx = y.ctx) :
    (s.modSlot q i f).still = s.still := s.modQuad_still q fun x => x.modSlot_seat i h

@[simp] theorem Slot.unblock_ctx (y : Slot) : y.unblock.ctx = y.ctx := by cases y; rfl
@[simp] theorem Slot.release_ctx (y : Slot) (p : Bool) : (y.release p).ctx = y.ctx := by cases y; rfl
@[simp] theorem Slot.hearBell_ctx (y : Slot) : y.hearBell.ctx = y.ctx := by
  unfold Slot.hearBell
  (repeat' split) <;> simp

theorem State.setPen_still (s : State) (p : Nat) {x : Pennant} (h : x.liveOwner = (s.pen p).liveOwner) :
    (s.setPen p x).still = s.still := by
  refine congrArg (fun f => (⟨s.blank, s.still.ctx, s.still.seat, f⟩ : Still)) (funext fun i => ?_)
  by_cases hi : i = p
  · subst hi; rw [State.pen_setPen_same, h]
  · exact congrArg Pennant.liveOwner (tget_tset_ne _ _ _ hi)

@[simp] theorem State.setRoll_still (s : State) (r : Nat) (x : RollCall) : (s.setRoll r x).still = s.still := rfl
@[simp] theorem State.setRemote_still (s : State) (m p : Nat) (r : RemotePen) : (s.setRemote m p r).still = s.still := rfl
@[simp] theorem State.modPort_still (s : State) (p : Nat) (f : Port → Port) : (s.modPort p f).still = s.still := rfl
@[simp] theorem State.emit_still (s : State) (o : Output) : (s.emit o).still = s.still := rfl
@[simp] theorem State.answer_still (s : State) (code : BitVec 16) (p : List Byte) : (s.answer code p).still = s.still := rfl

theorem State.withSync_still (s : State) {x : Sync} (h : x.pens = s.sync.pens) : ({ s with sync := x } : State).still = s.still :=
  congrArg (fun t : Table Pennant =>
    (⟨s.blank, s.still.ctx, s.still.seat, fun p => (tget Pennant.free t p).liveOwner⟩ : Still)) h

theorem State.withRing_still (s : State) {x : Ring} (h : x.still = s.ring.still) : ({ s with ring := x } : State).still = s.still :=
  congrArg (fun r => (⟨{ s.blank with ring := r }, s.still.ctx, s.still.seat, s.still.owner⟩ : Still)) h

theorem State.setCtx_still (s : State) (c : Nat) {x : Ctx} (h : x.still = (s.ctx c).still) : (s.setCtx c x).still = s.still := by
  refine congrArg (fun f => (⟨s.blank, f, s.still.seat, s.still.owner⟩ : Still)) (funext fun i => ?_)
  by_cases hi : i = c
  · subst hi; rw [State.ctx_setCtx_same, h]
  · rw [State.ctx_setCtx_ne s x hi]

theorem State.modCtx_still (s : State) (c : Nat) {f : Ctx → Ctx} (h : ∀ x, (f x).still = x.still) : (s.modCtx c f).still = s.still :=
  s.setCtx_still c (h _)

@[simp] theorem State.foldl_still {α : Type} (f : State → α → State) (h : ∀ s a, (f s a).still = s.still) (l : List α) (s : State) :
    (l.foldl f s).still = s.still := State.foldl_keeps State.still f h l s

theorem State.ite_still (c : Prop) [Decidable c] (s t : State) :
    (if c then s else t).still = if c then s.still else t.still := by split <;> rfl

/-! ## Records (R403, R410) -/

@[simp] theorem State.enterBuffer_still (s : State) (c n : Nat) : (s.enterBuffer c n).still = s.still := by
  induction n generalizing s with
  | zero => rfl
  | succ n ih =>
    unfold State.enterBuffer
    dsimp only
    split
    · rfl
    · split
      · rw [ih]
        have entered : ∀ l r, (s.setCtx c { s.ctx c with buffer := l, queue := r }).still = s.still := fun l r => s.setCtx_still c rfl
        split
        · exact (State.modSlot_still _ _ _ (fun y => by split <;> rfl)).trans (entered _ _)
        · exact entered _ _
      · rfl

@[simp] theorem State.postFrom_still (s : State) (c : Nat) (r : Report) (after : List (Nat × Nat)) (early : Bool)
    (src : Option (Nat × Nat)) : (s.postFrom c r after early src).still = s.still := by
  unfold State.postFrom
  split
  · rfl
  · rw [State.enterBuffer_still]
    exact s.modCtx_still c fun _ => rfl

@[simp] theorem State.post_still (s : State) (c : Nat) (r : Report) : (s.post c r).still = s.still := by
  simp [State.post]

/-! ## Frames (R418 to R423) -/

@[simp] theorem State.freeVia_still (s : State) (f : PeerFrame) : (s.freeVia f).still = s.still := by
  unfold State.freeVia
  (repeat' split) <;> rfl

@[simp] theorem State.sendOn_still (s : State) (p : Nat) (f : PeerFrame) : (s.sendOn p f).still = s.still := by
  simp [State.sendOn]

@[simp] theorem State.pump_still (s : State) (p n : Nat) : (s.pump p n).still = s.still := by
  induction n generalizing s with
  | zero => rfl
  | succ n ih =>
    unfold State.pump
    split
    · rfl
    · rw [ih, State.sendOn_still]

@[simp] theorem State.enqueue_still (s : State) (p : Nat) (f : PeerFrame) : (s.enqueue p f).still = s.still := by
  simp [State.enqueue]

@[simp] theorem State.route_still (s : State) (f : PeerFrame) : (s.route f).still = s.still := by
  simp [State.route]

@[simp] theorem State.sendTo_still (s : State) (dst : Nat) (b : FrameBody) : (s.sendTo dst b).still = s.still := by
  unfold State.sendTo
  exact (State.route_still _ _).trans (s.withRing_still rfl)

@[simp] theorem State.broadcast_still (s : State) (b : FrameBody) : (s.broadcast b).still = s.still := by
  unfold State.broadcast
  refine (State.foldl_still _ (fun s d => ?_) _ _).trans (s.withRing_still rfl)
  (repeat' split) <;> simp

/-! ## Pennants and hoists (R291 to R307) -/

@[simp] theorem State.evalSlot_still (s : State) (q sl : Nat) : (s.evalSlot q sl).still = s.still := by
  unfold State.evalSlot
  dsimp only
  (repeat' split) <;> simp

@[simp] theorem State.evalWatch_still (s : State) (c i : Nat) : (s.evalWatch c i).still = s.still := by
  unfold State.evalWatch
  dsimp only
  split
  · split
    · exact (State.post_still _ _ _).trans (s.modCtx_still c fun _ => rfl)
    · rfl
  · rfl

@[simp] theorem State.evalWaiters_still (s : State) : s.evalWaiters.still = s.still := by
  simp [State.evalWaiters]

@[simp] theorem State.trimSubs_still (s : State) : s.trimSubs.still = s.still := by
  unfold State.trimSubs
  refine State.foldl_still _ (fun s r => ?_) _ _
  dsimp only
  split
  · exact (State.sendTo_still _ _ _).trans rfl
  · rfl

@[simp] theorem State.tellSub_still (s : State) (dst p : Nat) : (s.tellSub dst p).still = s.still := by
  unfold State.tellSub
  dsimp only
  split
  · rfl
  · simp

@[simp] theorem State.notifySubs_still (s : State) (p : Nat) : (s.notifySubs p).still = s.still := by
  simp [State.notifySubs]

theorem Pennant.hoisted_liveOwner (x : Pennant) (amt : Nat) : (x.hoisted amt).liveOwner = x.liveOwner := by
  unfold Pennant.hoisted
  (repeat' split) <;> rfl

@[simp] theorem State.hoistPhys_still (s : State) (p amt : Nat) : (s.hoistPhys p amt).still = s.still := by
  unfold State.hoistPhys
  dsimp only
  split
  · rfl
  · split
    · exact s.evalWaiters_still
    · rw [State.evalWaiters_still, State.notifySubs_still, s.setPen_still p (Pennant.hoisted_liveOwner _ _)]

@[simp] theorem State.hoistBinding_still (s : State) (b : PenBinding) (amt : Nat) : (s.hoistBinding b amt).still = s.still := by
  unfold State.hoistBinding
  (repeat' split) <;> simp

@[simp] theorem State.lowerPen_still (s : State) (phys : Nat) : (s.lowerPen phys).still = s.still := by
  unfold State.lowerPen
  dsimp only
  generalize (if (s.pen phys).bindings = 0 then 0 else (s.pen phys).bindings - 1) = n
  split
  · next h => exact s.setPen_still phys (by simp [Pennant.liveOwner, h.1, Pennant.free])
  · exact s.setPen_still phys rfl

@[simp] theorem State.giveBack_still (s : State) (module phys : BitVec 14) : (s.giveBack module phys).still = s.still := by
  unfold State.giveBack
  split <;> simp

@[simp] theorem State.dropBinding_still (s : State) (b : PenBinding) : (s.dropBinding b).still = s.still := by
  unfold State.dropBinding
  (repeat' split) <;> simp

@[simp] theorem State.bindIdent_still (s : State) (c ident : Nat) (b : PenBinding) : (s.bindIdent c ident b).still = s.still := by
  have bound : ∀ u : State, (u.modCtx c (fun x => { x with pens := tset PenBinding.unbound x.pens ident b })).still = u.still :=
    fun u => u.modCtx_still c fun _ => rfl
  have counted : ∀ (u : State) (p : Nat) (n : BitVec 16), (u.setPen p { u.pen p with bindings := n }).still = u.still :=
    fun u p n => u.setPen_still p rfl
  unfold State.bindIdent
  dsimp only
  have base := (bound _).trans (s.dropBinding_still (s.binding c ident))
  generalize (s.dropBinding (s.binding c ident)).modCtx c _ = u at base ⊢
  (repeat' split)
  · exact (counted _ _ _).trans base
  · exact (u.setRemote_still _ _ _).trans base
  · exact base

@[simp] theorem State.runHoist_still (s : State) : s.runHoist.still = s.still := by
  unfold State.runHoist
  split
  · rfl
  · exact (State.hoistBinding_still _ _ _).trans (s.modQuad_still _ fun _ => rfl)

@[simp] theorem State.runHoists_still (s : State) : s.runHoists.still = s.still := by
  simp [State.runHoists]

@[simp] theorem State.queueHoist_still (s : State) (q c : Nat) (b : PenBinding) (amt before : Nat) :
    (s.queueHoist q c b amt before).still = s.still := by
  exact (State.runHoists_still _).trans (State.modQuad_still _ q fun _ => rfl)

/-! ## Roll calls and the folds that wait at them (R314 to R329, R448) -/

@[simp] theorem State.releaseSlot_still (s : State) (num round : Nat) (poisoned : Bool) (q sl : Nat) :
    (s.releaseSlot num round poisoned q sl).still = s.still := by
  unfold State.releaseSlot
  dsimp only
  (repeat' split) <;> simp

@[simp] theorem State.releaseReports_still (s : State) (num round : Nat) (poisoned : Bool) (c : Nat) :
    (s.releaseReports num round poisoned c).still = s.still := by
  unfold State.releaseReports
  exact (State.foldl_still _ (fun s p => s.post_still c _) _ _).trans (s.modCtx_still c fun _ => rfl)

@[simp] theorem State.releaseRound_still (s : State) (num : Nat) (poisoned : Bool) :
    (s.releaseRound num poisoned).still = s.still := by
  simp [State.releaseRound]

@[simp] theorem State.sendNotices_still (s : State) (num bell : Nat) : (s.sendNotices num bell).still = s.still := by
  simp [State.sendNotices]

@[simp] theorem State.homeCheck_still (s : State) (num : Nat) : (s.homeCheck num).still = s.still := by
  unfold State.homeCheck
  dsimp only
  split <;> simp

@[simp] theorem State.homeArrival_still (s : State) (num pos : Nat) : (s.homeArrival num pos).still = s.still := by
  simp [State.homeArrival]

@[simp] theorem State.reportArrival_still (s : State) (num : Nat) : (s.reportArrival num).still = s.still := by
  unfold State.reportArrival
  dsimp only
  (repeat' split) <;> simp

@[simp] theorem State.modShare_still (s : State) (engine q id : Nat) (f : Share → Share) : (s.modShare engine q id f).still = s.still := by
  refine s.modQuad_still q fun x => ?_
  unfold Quad.setShares
  split <;> rfl

@[simp] theorem State.keepMerge_still (s : State) (m : RingMerge) : (s.keepMerge m).still = s.still := s.withRing_still rfl

@[simp] theorem State.dropMerge_still (s : State) (m : RingMerge) : (s.dropMerge m).still = s.still := s.withRing_still rfl

@[simp] theorem State.giveResult_still (s : State) (g : List (Nat × Share)) (rows : List MergeRow) (ringing : Bool) :
    (s.giveResult g rows ringing).still = s.still := by
  unfold State.giveResult
  exact State.foldl_still _ (fun s x => s.modShare_still 1 x.1 x.2.id _) g s

@[simp] theorem State.finishMerge_still (s : State) (m : RingMerge) (rows : List MergeRow) : (s.finishMerge m rows).still = s.still := by
  simp [State.finishMerge]

@[simp] theorem State.leaveMerge_still (s : State) (m : RingMerge) : (s.leaveMerge m).still = s.still := by
  unfold State.leaveMerge
  split
  · rfl
  · exact s.withRing_still rfl

@[simp] theorem State.passFold_still (s : State) (m : RingMerge) (part : Option (List MergeRow)) :
    (s.passFold m part).still = s.still := by
  unfold State.passFold
  dsimp only
  (repeat' split) <;> simp

@[simp] theorem State.releaseMerge_still (s : State) (m : RingMerge) (poisoned : Bool) :
    (s.releaseMerge m poisoned).still = s.still := by
  unfold State.releaseMerge
  dsimp only
  (repeat' split) <;> simp

@[simp] theorem State.releaseFold_still (s : State) (num : Nat) (poisoned : Bool) : (s.releaseFold num poisoned).still = s.still := by
  simp [State.releaseFold]

@[simp] theorem State.bellRoll_still (s : State) (num t : Nat) : (s.bellRoll num t).still = s.still := by
  unfold State.bellRoll
  dsimp only
  split
  · rfl
  · generalize (if (s.rollCall num).ring = true then _ else _ : Bool) = due
    cases due
    · rfl
    · simp [State.ite_still]

@[simp] theorem State.meetBell_still (s : State) : s.meetBell.still = s.still := by
  unfold State.meetBell
  split <;> simp

/-! ## Shares and their entries (R187, R234 to R239) -/

theorem Quad.setShares_seat (x : Quad) (engine : Nat) (hs : List Share) : (x.setShares engine hs).seat = x.seat := by
  unfold Quad.setShares
  split <;> rfl

@[simp] theorem State.noteGranted_still (s : State) (engine q id : Nat) (write : Bool) :
    (s.noteGranted engine q id write).still = s.still := by
  unfold State.noteGranted
  split
  · exact (State.modShare_still _ engine q id _).trans (s.withSync_still rfl)
  · rfl

@[simp] theorem State.ask_still (s : State) (q : Nat) (r : SbRequest) : (s.ask q r).1.still = s.still := by
  unfold State.ask
  dsimp only
  have counted := s.withSync_still (x := { s.sync with arrivals := s.sync.arrivals + 1 }) rfl
  generalize ({ s with sync := { s.sync with arrivals := s.sync.arrivals + 1 } } : State) = u at counted ⊢
  split
  · refine Eq.trans (u.setQuad_still q ?_) counted
    rfl
  · refine Eq.trans (u.setQuad_still q ?_) counted
    rfl

@[simp] theorem State.advance_still (ns : List (Nat × Nat × Bool)) (s : State) (engine q id slot key : Nat) :
    (s.advance engine q id slot key ns).still = s.still := by
  induction ns generalizing s with
  | nil => exact s.modShare_still engine q id _
  | cons n ns ih =>
    unfold State.advance
    dsimp only
    (repeat' split) <;> simp [ih]

@[simp] theorem State.startShares_still (n : Nat) (s : State) (engine q : Nat) : (s.startShares engine q n).still = s.still := by
  induction n generalizing s with
  | zero => rfl
  | succ n ih =>
    unfold State.startShares
    dsimp only
    (repeat' split) <;> simp [ih, State.advanceShare]

@[simp] theorem State.releaseShare_still (s : State) (key : Nat) : (s.releaseShare key).still = s.still := by
  refine State.foldl_still _ (fun s q => ?_) _ s
  exact s.modQuad_still q fun _ => rfl

@[simp] theorem State.endShare_still (s : State) (engine q : Nat) (h : Share) (hoists : Bool) :
    (s.endShare engine q h hoists).still = s.still := by
  have shares : ∀ (u : State) (hs : Quad → List Share) (b : Quad → Option Nat),
      (u.modQuad q (fun x => { x.setShares engine (hs x) with tbuf := b x })).still = u.still := fun u hs b =>
    u.modQuad_still q fun x => x.setShares_seat engine (hs x)
  unfold State.endShare
  dsimp only
  rw [State.startShares_still]
  refine (shares _ _ _).trans ((State.releaseShare_still _ _).trans ?_)
  split <;> simp

/-! ## The end of a context at its pennants and roll calls (R275, R296, R316, R327, R329) -/

@[simp] theorem State.arriveAt_still (s : State) (num b : Nat) : (s.arriveAt num b).1.still = s.still := by
  unfold State.arriveAt
  dsimp only
  split
  · dsimp only
    split <;> simp
  · rfl

@[simp] theorem State.arriveEngine_still (s : State) (num b : Nat) : (s.arriveEngine num b).1.still = s.still := by
  unfold State.arriveEngine
  dsimp only
  split
  · exact (State.withSync_still _ rfl).trans (s.arriveAt_still num b)
  · exact s.arriveAt_still num b

@[simp] theorem State.arriveDead_still (s : State) (c handle : Nat) : (s.arriveDead c handle).still = s.still := by
  unfold State.arriveDead
  dsimp only
  split
  · rfl
  · split
    · split
      · exact (State.withRing_still _ rfl).trans (s.arriveEngine_still _ _)
      · exact s.arriveEngine_still _ _
    · exact s.arriveEngine_still _ _

@[simp] theorem State.abandonMerges_still (s : State) (c : Nat) : (s.abandonMerges c).still = s.still := s.withRing_still rfl

@[simp] theorem State.cancelShares_still (s : State) (c : Nat) : (s.cancelShares c).still = s.still := by
  unfold State.cancelShares
  dsimp only
  rw [State.foldl_still _ (fun s h => s.arriveDead_still c h), State.abandonMerges_still]
  refine Eq.trans (State.foldl_still _ (fun s q => ?_) _ _) (State.foldl_still _ (fun s i => ?_) _ s)
  · exact s.modQuad_still q fun _ => rfl
  · refine State.foldl_still _ (fun s h => ?_) _ s
    exact (State.endShare_still _ _ _ _ _).trans (s.withRing_still rfl)

@[simp] theorem State.releaseAllAt_still (s : State) (num : Nat) : (s.releaseAllAt num).still = s.still := by
  unfold State.releaseAllAt
  dsimp only
  refine Eq.trans (State.foldl_still _ (fun s m => ?_) _ _)
    (Eq.trans (State.foldl_still _ (fun s c => ?_) _ _) (State.foldl_still _ (fun s p => ?_) _ s))
  · rw [State.leaveMerge_still, State.finishMerge_still]
  · exact (State.foldl_still _ (fun s p => s.post_still c _) _ _).trans (s.modCtx_still c fun _ => rfl)
  · (repeat' split) <;> simp

@[simp] theorem State.endAtRoll_still (s : State) (c num : Nat) : (s.endAtRoll c num).still = s.still := by
  unfold State.endAtRoll
  dsimp only
  (repeat' split) <;> simp

@[simp] theorem State.voidBinds_still (s : State) (c : Nat) : (s.voidBinds c).still = s.still :=
  (State.foldl_still _ (fun s _ => s.answer_still _ _) _ _).trans (s.withRing_still rfl)

/-- The still part with no owner of the pennants named. -/
def Still.unown (x : Still) (ps : List Nat) : Still := { x with owner := fun i => if i ∈ ps then none else x.owner i }

theorem State.setPen_unown (s : State) (p : Nat) {x : Pennant} (h : x.st ≠ 1) : (s.setPen p x).still = s.still.unown [p] := by
  refine congrArg (fun f => (⟨s.blank, s.still.ctx, s.still.seat, f⟩ : Still)) (funext fun i => ?_)
  by_cases hi : i = p
  · subst hi
    rw [State.pen_setPen_same, Pennant.liveOwner, if_neg h]
    exact (if_pos (List.mem_singleton_self i)).symm
  · have : (s.setPen p x).pen i = s.pen i := tget_tset_ne _ _ _ hi
    simp [this, hi, State.still]

theorem Still.unown_unown (x : Still) (ps qs : List Nat) : (x.unown ps).unown qs = x.unown (ps ++ qs) := by
  refine congrArg (fun f => ({ x with owner := f } : Still)) (funext fun i => ?_)
  by_cases hp : i ∈ ps <;> by_cases hq : i ∈ qs <;> simp [Still.unown, hp, hq]

/-- A pennant at half-mast has no live owner. -/
theorem State.halfMastPen_still (s : State) (p : Nat) : (s.halfMastPen p).still = s.still.unown [p] := by
  have lowered : ((s.setPen p { s.pen p with st := 2 }).notifySubs p).still = s.still.unown [p] :=
    (State.notifySubs_still _ p).trans (s.setPen_unown p (show (2 : BitVec 2) ≠ 1 by decide))
  unfold State.halfMastPen
  dsimp only
  split
  · rw [State.setPen_unown _ p (show (0 : BitVec 2) ≠ 1 by decide), lowered, Still.unown_unown]
    simp [Still.unown]
  · exact lowered

theorem State.halfMastPens_still (ps : List Nat) (s : State) :
    (ps.foldl (fun (s : State) p => s.halfMastPen p) s).still = s.still.unown ps := by
  induction ps generalizing s with
  | nil => simp [Still.unown, State.still]
  | cons p ps ih => rw [List.foldl_cons, ih, s.halfMastPen_still, Still.unown_unown]; rfl

/-- The live pennants that a table lists as a context's. -/
def ownedBy (t : Table Pennant) (c : Nat) : List Nat := (t.filter (fun p => decide (p.2.st = 1) && p.2.owner.toNat == c)).map (·.1)

theorem mem_ownedBy {t : Table Pennant} {c p : Nat} (h : (tget Pennant.free t p).liveOwner = some c) : p ∈ ownedBy t c := by
  induction t with
  | nil => simp [Pennant.liveOwner, Pennant.free] at h
  | cons e t ih =>
    by_cases he : p = e.1
    · have own : e.2.liveOwner = some c := by simpa [tget, he] using h
      have live : e.2.st = 1 ∧ e.2.owner.toNat = c := by
        unfold Pennant.liveOwner at own
        split at own
        · next hs => exact ⟨hs, Option.some.inj own⟩
        · cases own
      simp [ownedBy, live.1, live.2, he]
    · have rest := ih (by simpa [tget, he] using h)
      unfold ownedBy at rest ⊢
      rw [List.filter_cons]
      split
      · exact List.mem_cons_of_mem _ rest
      · exact rest

/-- The pennants that a context owns go to half-mast, and nothing else of the still part changes (R327). -/
theorem State.endPens_still (s : State) (c : Nat) : (s.endPens c).still = s.still.unown (ownedBy s.sync.pens c) := by
  have lowered := State.halfMastPens_still (ownedBy s.sync.pens c) s
  have unbound : ∀ (l : Table PenBinding) (u : State),
      (l.foldl (fun (s : State) p => s.bindIdent c p.1 PenBinding.unbound) u).still = u.still :=
    fun l u => by
      refine State.foldl_still _ (fun s p => ?_) l u
      exact s.bindIdent_still c p.1 PenBinding.unbound
  unfold State.endPens
  dsimp only
  rw [State.trimSubs_still, State.evalWaiters_still, unbound, State.evalWaiters_still]
  unfold ownedBy at lowered ⊢
  exact lowered

theorem State.endPens_owner (s : State) (c p : Nat) : (s.endPens c).still.owner p ≠ some c := by
  rw [State.endPens_still]
  intro h
  simp only [Still.unown] at h
  split at h
  · cases h
  · next hp => exact hp (mem_ownedBy h)

@[simp] theorem State.stopIssue_still (s : State) (c : Nat) : (s.stopIssue c).still = s.still := by
  refine State.foldl_still _ (fun s q => ?_) _ s
  exact s.modSlot_still q _ fun _ => rfl

/-- A reset that begins ends what the context owns, and leaves the rest still (R176, R327, R329). -/
theorem State.beginReset_still (s : State) (c : Nat) :
    ∃ ps, (s.beginReset c).still = (s.modCtx c (fun x => { x with resetting := true })).still.unown ps ∧
      ∀ p, (s.beginReset c).still.owner p ≠ some c := by
  obtain ⟨v, hv⟩ : ∃ v, v = ((s.modCtx c (fun x => { x with resetting := true })).stopIssue c).cancelShares c := ⟨_, rfl⟩
  have same : v.still = (s.modCtx c (fun x => { x with resetting := true })).still := by
    rw [hv, State.cancelShares_still, State.stopIssue_still]
  have after : (s.beginReset c).still = (v.endPens c).still := by
    unfold State.beginReset
    dsimp only
    rw [State.meetBell_still, State.voidBinds_still, State.foldl_still _ (fun s n => s.endAtRoll_still c n), hv]
  refine ⟨ownedBy v.sync.pens c, ?_, fun p => ?_⟩
  · rw [after, State.endPens_still, same]
  · rw [after]
    exact v.endPens_owner c p

end Sys2Proof.Machine
end

section
/-! PROOF. O2 and O36: the timebase, bells and intervals (R20 to R26, R190, R191, R441, R445). -/

namespace Sys2Proof.Machine

/-! ## What a bell and the passing of time leave alone -/

/-- The state without what bells and time change besides the ring's clock: the blanked state without free values, gates and unit files. -/
def State.steady (s : State) : State := { s.blank with free := 0, clk := Clocks.init, units := [] }

theorem State.steady_of_still {s t : State} (h : t.still = s.still) : t.steady = s.steady :=
  congrArg (fun x : Still => ({ x.rest with free := 0, clk := Clocks.init, units := [] } : State)) h

/-- The steady state without its ring, which bells and time change. -/
def State.apart (s : State) : State := { s.steady with ring := Ring.init }

theorem State.apart_of_steady {s t : State} (h : t.steady = s.steady) : t.apart = s.apart :=
  congrArg (fun x : State => ({ x with ring := Ring.init } : State)) h

/-- The parts that bells and time keep. -/
theorem State.parts_of_apart {s t : State} (h : t.apart = s.apart) :
    t.pending = s.pending ∧ t.mem = s.mem ∧ t.banks = s.banks ∧ t.stk = s.stk ∧ t.boot = s.boot ∧ t.pow = s.pow ∧ t.therm = s.therm ∧
      t.cfgs = s.cfgs ∧ t.sec = s.sec :=
  ⟨congrArg (·.pending) h, congrArg (·.mem) h, congrArg (·.banks) h, congrArg (·.stk) h, congrArg (·.boot) h, congrArg (·.pow) h,
    congrArg (·.therm) h, congrArg (·.cfgs) h, congrArg (·.sec) h⟩

theorem State.ring_of_steady {s t : State} (h : t.steady = s.steady) : t.ring.still = s.ring.still := congrArg (·.ring) h

theorem State.foldl_steady {α : Type} (f : State → α → State) (h : ∀ s a, (f s a).steady = s.steady) (l : List α) (s : State) :
    (l.foldl f s).steady = s.steady := State.foldl_keeps State.steady f h l s

@[simp] theorem State.demandGate_steady (s : State) (g : Nat) : (s.demandGate g).steady = s.steady := by
  unfold State.demandGate
  dsimp only
  (repeat' split) <;> rfl

@[simp] theorem State.demandGate_ctx (s : State) (g i : Nat) : (s.demandGate g).ctx i = s.ctx i := by
  unfold State.demandGate
  dsimp only
  (repeat' split) <;> rfl

@[simp] theorem State.startSlot_steady (s : State) (c : Nat) (k : List Word64) (q : Nat) : (s.startSlot c k q).steady = s.steady :=
  (State.demandGate_steady _ _).trans rfl

@[simp] theorem State.startSlot_ctx (s : State) (c : Nat) (k : List Word64) (q i : Nat) : (s.startSlot c k q).ctx i = s.ctx i :=
  (State.demandGate_ctx _ _ _).trans rfl

/-! ## LESSON_START (R25, R26) -/

@[simp] theorem State.startLesson_steady (s : State) (c : Nat) : (s.startLesson c).steady = s.steady := by
  unfold State.startLesson
  dsimp only
  (repeat' split)
  · rfl
  · rfl
  · exact (State.foldl_steady _ (fun s q => s.startSlot_steady c _ q) _ _).trans rfl

theorem State.startLesson_ctx_ne (s : State) {c i : Nat} (h : i ≠ c) : (s.startLesson c).ctx i = s.ctx i := by
  unfold State.startLesson
  dsimp only
  (repeat' split)
  · rfl
  · rfl
  · rw [State.foldl_keeps (fun s : State => s.ctx i) _ (fun s q => s.startSlot_ctx c _ q i), State.ctx_setCtx_ne _ _ h]

/-- A context may start a lesson: it lives, has none, and has accepted a LESSON command. -/
def Ctx.mayStart (x : Ctx) : Prop :=
  x.live = true ∧ x.resetting = false ∧ x.lesson = none ∧ ∃ a ∈ x.accepted, a.skip = false

theorem State.startLesson_starts (s : State) (c : Nat) (h : (s.ctx c).mayStart) : ((s.startLesson c).ctx c).lesson.isSome = true := by
  obtain ⟨hl, hr, hn, a, ha, hs⟩ := h
  unfold State.startLesson
  dsimp only
  split
  · next hd =>
    have skipped := List.dropWhile_eq_nil_iff.mp hd a ha
    simp [hs] at skipped
  · rw [if_neg (by simp [hl, hr, hn]), State.foldl_keeps (fun s : State => s.ctx c) _ (fun s q => s.startSlot_ctx c _ q c)]
    simp

theorem State.startLesson_keeps_lesson (s : State) (c i : Nat) (h : (s.ctx i).lesson.isSome = true) :
    ((s.startLesson c).ctx i).lesson.isSome = true := by
  by_cases hi : i = c
  · subst hi
    unfold State.startLesson
    dsimp only
    split
    · exact h
    · rwa [if_pos (by simp [h])]
  · rwa [s.startLesson_ctx_ne hi]

/-- Of the contexts that a bell visits, each that may start a lesson has one. -/
theorem State.startLessons_start (l : List Nat) (s : State) (c : Nat) (hc : c ∈ l) (h : (s.ctx c).mayStart) :
    ((l.foldl (fun (s : State) c => s.startLesson c) s).ctx c).lesson.isSome = true := by
  have keeps : ∀ (l : List Nat) (s : State), (s.ctx c).lesson.isSome = true →
      ((l.foldl (fun (s : State) c => s.startLesson c) s).ctx c).lesson.isSome = true := fun l s hs =>
    State.foldl_holds (fun s => (s.ctx c).lesson.isSome = true) _ (fun s i => s.startLesson_keeps_lesson i c) l s hs
  induction l generalizing s with
  | nil => cases hc
  | cons i l ih =>
    by_cases hi : c = i
    · subst hi
      exact keeps l _ (s.startLesson_starts c h)
    · refine ih _ ((List.mem_cons.mp hc).resolve_left hi) ?_
      rwa [s.startLesson_ctx_ne hi]

/-! ## A bell -/

/-- The ring after a bell at timebase t. -/
def Ring.rung (r : Ring) (t : Nat) : Ring := { r with lastBell := t, bells := r.bells + 1 }

/-- What a bell does before lessons start: words hear it and rolls are released. -/
def State.bellHeard (s : State) (t : Nat) : State :=
  (List.range 64).foldl (fun (s : State) r => s.bellRoll r t)
    (allSlots.foldl (fun (s : State) p => s.modSlot p.1 p.2 Slot.hearBell) { s with ring := s.ring.rung t })

theorem State.bellAt_eq (s : State) (t : Nat) :
    s.bellAt t = (List.range 16).foldl (fun (s : State) c => s.startLesson c) (s.bellHeard t) := by
  simp only [State.bellAt, State.bellHeard, Ring.rung]

theorem State.bellHeard_still (s : State) (t : Nat) : (s.bellHeard t).still = ({ s with ring := s.ring.rung t } : State).still := by
  unfold State.bellHeard
  rw [State.foldl_still _ (fun s r => s.bellRoll_still r t)]
  apply State.foldl_still
  intro s p
  exact s.modSlot_still _ _ Slot.hearBell_ctx

theorem State.bellAt_steady (s : State) (t : Nat) : (s.bellAt t).steady = ({ s with ring := s.ring.rung t } : State).steady := by
  rw [s.bellAt_eq, State.foldl_steady _ (fun s c => s.startLesson_steady c)]
  exact State.steady_of_still (s.bellHeard_still t)

theorem Ctx.mayStart_of_still {x y : Ctx} (h : y.still = x.still) (hx : x.mayStart) : y.mayStart := by
  obtain ⟨hl, hr, hn, a, ha, hs⟩ := hx
  exact ⟨(congrArg (·.live) h).trans hl, (congrArg (·.resetting) h).trans hr, (congrArg (·.lesson) h).trans hn, a,
    (congrArg (·.accepted) h : y.accepted = x.accepted) ▸ ha, hs⟩

/-- On a bell a context starts its lesson (R26). -/
theorem State.bellAt_starts (s : State) (t c : Nat) (hc : c < 16) (h : (s.ctx c).mayStart) :
    ((s.bellAt t).ctx c).lesson.isSome = true := by
  rw [s.bellAt_eq]
  exact State.startLessons_start _ _ c (List.mem_range.mpr hc) (Ctx.mayStart_of_still (State.ctx_of_still (s.bellHeard_still t) c) h)

/-! ## The passing of time -/

/-- The state without its accounts of time and free values, and its quadrants without theirs. -/
def State.unaccounted (s : State) : State × (Nat → Quad) := ({ s with quads := [], free := 0 }, fun q => { s.quad q with sat := [] })

theorem State.eq_of_unaccounted {s t : State} (h : t.unaccounted = s.unaccounted) : t = { s with quads := t.quads, free := t.free } := by
  calc t = { t.unaccounted.1 with quads := t.quads, free := t.free } := rfl
    _ = _ := by rw [h]; rfl

theorem State.quad_of_unaccounted {s t : State} (h : t.unaccounted = s.unaccounted) (q : Nat) :
    t.quad q = { s.quad q with sat := (t.quad q).sat } := by
  have hq : ({ t.quad q with sat := [] } : Quad) = { s.quad q with sat := [] } := congrFun (congrArg Prod.snd h) q
  calc t.quad q = { ({ t.quad q with sat := [] } : Quad) with sat := (t.quad q).sat } := rfl
    _ = _ := by rw [hq]

theorem State.steady_of_unaccounted {s t : State} (h : t.unaccounted = s.unaccounted) : t.steady = s.steady :=
  congrArg (fun x : State × (Nat → Quad) => x.1.steady) h

theorem State.ctx_of_unaccounted {s t : State} (h : t.unaccounted = s.unaccounted) (c : Nat) : t.ctx c = s.ctx c :=
  congrArg (fun x : State × (Nat → Quad) => x.1.ctx c) h

theorem State.sync_of_unaccounted {s t : State} (h : t.unaccounted = s.unaccounted) : t.sync = s.sync :=
  congrArg (fun x : State × (Nat → Quad) => x.1.sync) h

theorem State.account_unaccounted (s : State) (q code n : Nat) : (s.account q code n).unaccounted = s.unaccounted := by
  refine Prod.ext rfl (funext fun p => ?_)
  by_cases hp : p = q
  · subst hp; simp [State.unaccounted, State.account]
  · simp [State.unaccounted, State.account, State.quad_modQuad_ne _ _ hp]

theorem State.accountWait_unaccounted (s : State) (q ns : Nat) : (s.accountWait q ns).unaccounted = s.unaccounted := by
  unfold State.accountWait
  dsimp only
  split
  · rfl
  · split
    · rfl
    · exact State.account_unaccounted _ _ _ _
    · exact (State.account_unaccounted _ _ _ _).trans rfl

/-- The ring after the timebase has gone on to t: a member outside holdover has come nearer to the master (R20, R441). -/
def Ring.passed (r : Ring) (t : Nat) : Ring :=
  let live := decide (r.state = 2 ∧ r.holdover = false)
  let e := if live then BitVec.ofInt 32 (disciplined r.timeError.toInt r.rate r.timebase t) else r.timeError
  { r with timebase := t % 2 ^ 64, timeError := e, rate := if live && e == 0 then 0 else r.rate }

theorem State.withRing_unaccounted {s t : State} (h : t.unaccounted = s.unaccounted) (r : Ring) :
    ({ t with ring := r } : State).unaccounted = ({ s with ring := r } : State).unaccounted :=
  congrArg (fun x : State × (Nat → Quad) => (({ x.1 with ring := r } : State), x.2)) h

/-- Each quadrant's waiting is accounted for. -/
def State.waited (s : State) (ns : Nat) : State := (List.range 4).foldl (fun (s : State) q => s.accountWait q ns) s

theorem State.waited_unaccounted (s : State) (ns : Nat) : (s.waited ns).unaccounted = s.unaccounted :=
  State.foldl_keeps State.unaccounted _ (fun s q => s.accountWait_unaccounted q ns) _ s

theorem State.passTime_eq (s : State) {t : Nat} (h : s.ring.timebase < t) :
    s.passTime t = { s.waited (t - s.ring.timebase) with ring := (s.waited (t - s.ring.timebase)).ring.passed t } := by
  unfold State.passTime
  rw [if_neg (by omega)]
  rfl

theorem State.passTime_unaccounted (s : State) {t : Nat} (h : s.ring.timebase < t) :
    (s.passTime t).unaccounted = ({ s with ring := s.ring.passed t } : State).unaccounted := by
  have waits := s.waited_unaccounted (t - s.ring.timebase)
  have ring : (s.waited (t - s.ring.timebase)).ring = s.ring := congrArg (fun x : State × (Nat → Quad) => x.1.ring) waits
  rw [s.passTime_eq h, ring]
  exact State.withRing_unaccounted waits _

/-! ## The timebase goes on without a bell -/

@[simp] theorem State.endRecovery_steady (s : State) (r : Nat) : (s.endRecovery r).steady = s.steady := rfl

theorem State.swapHalves_of_none (s : State) {c : Nat} (h : (s.ctx c).armed = none) : s.swapHalves c = s := by
  unfold State.swapHalves
  simp only [h]

@[simp] theorem State.loadBounds_steady (s : State) (c q : Nat) : (s.loadBounds c q).steady = s.steady := rfl

@[simp] theorem State.loadBounds_ctx (s : State) (c q i : Nat) : (s.loadBounds c q).ctx i = s.ctx i := rfl

@[simp] theorem State.swapHalves_steady (s : State) (c : Nat) : (s.swapHalves c).steady = s.steady := by
  unfold State.swapHalves
  dsimp only
  split
  · rfl
  · exact (State.foldl_steady _ (fun s q => s.loadBounds_steady c q) _ _).trans rfl

@[simp] theorem State.swapArmed_steady (s : State) : s.swapArmed.steady = s.steady :=
  State.foldl_steady _ (fun s c => by split <;> simp) _ s

theorem State.swapArmed_of_none (s : State) (h : ∀ c, (s.ctx c).armed = none) : s.swapArmed = s := by
  unfold State.swapArmed
  generalize List.range 16 = l
  induction l with
  | nil => rfl
  | cons c l ih => rw [List.foldl_cons, s.swapHalves_of_none (h c), ite_self, ih]

/-- A context that may start a lesson still may when armed halves have swapped. -/
theorem State.swapHalves_mayStart (s : State) (c i : Nat) (h : (s.ctx i).mayStart) : ((s.swapHalves c).ctx i).mayStart := by
  unfold State.swapHalves
  dsimp only
  split
  · exact h
  · rw [State.foldl_keeps (fun s : State => s.ctx i) _ (fun s q => s.loadBounds_ctx c q i)]
    by_cases hi : i = c
    · subst hi; simpa [Ctx.mayStart] using h
    · rwa [State.ctx_setCtx_ne _ _ hi]

theorem State.swapArmed_mayStart (s : State) (i : Nat) (h : (s.ctx i).mayStart) : (s.swapArmed.ctx i).mayStart :=
  State.foldl_holds (fun s => (s.ctx i).mayStart) _
    (fun s c hs => by split; exacts [s.swapHalves_mayStart c i hs, hs]) _ s h

/-- The recovery procedures of a fencing and a leaving are over when the timebase goes on (log 79). -/
def State.recovered (s : State) : State := (s.endRecovery recFence).endRecovery recLeave

/-- What happens before the timebase goes on: armed halves swap, recoveries end. -/
def State.onward (s : State) : State := s.swapArmed.recovered

theorem State.onward_steady (s : State) : s.onward.steady = s.steady := by
  rw [State.onward, State.recovered, State.endRecovery_steady, State.endRecovery_steady, State.swapArmed_steady]

theorem State.onward_ctx (s : State) (c : Nat) : s.onward.ctx c = s.swapArmed.ctx c := by
  unfold State.onward
  generalize s.swapArmed = u
  rfl

theorem State.moveTime_of_le (s : State) {t : Nat} (h : t ≤ s.ring.timebase) : s.moveTime t = s := if_pos h

theorem State.moveTime_of_lt (s : State) {t : Nat} (h : s.ring.timebase < t) : s.moveTime t = s.onward.passTime t :=
  if_neg (by omega)

theorem Ring.passed_still {r r' : Ring} (h : r'.still = r.still) (t : Nat) : (r'.passed t).still = (r.passed t).still :=
  congrArg (fun x : Ring => x.passed t) h

theorem State.withRing_steady {s t : State} (h : t.steady = s.steady) {r r' : Ring} (hr : r'.still = r.still) :
    ({ t with ring := r' } : State).steady = ({ s with ring := r } : State).steady := by
  have := congrArg (fun x : State => ({ x with ring := r'.still } : State)) h
  exact this.trans (by rw [hr]; rfl)

theorem Ring.clock_of_still {r r' : Ring} (h : r'.still = r.still) :
    r'.timebase = r.timebase ∧ r'.lastBell = r.lastBell ∧ r'.bells = r.bells ∧ r'.period = r.period ∧ r'.nextPeriod = r.nextPeriod ∧
      r'.changeAt = r.changeAt :=
  ⟨congrArg (·.timebase) h, congrArg (·.lastBell) h, congrArg (·.bells) h, congrArg (·.period) h, congrArg (·.nextPeriod) h,
    congrArg (·.changeAt) h⟩

/-- The ring's clock when the timebase has been moved to t, if t is later. -/
def Ring.movedTo (r : Ring) (t : Nat) : Ring := if t ≤ r.timebase then r else r.passed t

theorem State.moveTime_steady (s : State) (t : Nat) : (s.moveTime t).steady = ({ s with ring := s.ring.movedTo t } : State).steady := by
  by_cases h : t ≤ s.ring.timebase
  · rw [s.moveTime_of_le h, Ring.movedTo, if_pos h]
  · have ring := State.ring_of_steady s.onward_steady
    have base := (Ring.clock_of_still ring).1
    rw [s.moveTime_of_lt (by omega), Ring.movedTo, if_neg h,
      State.steady_of_unaccounted (s.onward.passTime_unaccounted (by omega))]
    exact State.withRing_steady s.onward_steady (Ring.passed_still ring t)

theorem State.ctx_withRing (s : State) (r : Ring) (c : Nat) : ({ s with ring := r } : State).ctx c = s.ctx c := rfl

theorem State.moveTime_mayStart (s : State) (t c : Nat) (h : (s.ctx c).mayStart) : ((s.moveTime t).ctx c).mayStart := by
  by_cases ht : t ≤ s.ring.timebase
  · rwa [s.moveTime_of_le ht]
  · have base := (Ring.clock_of_still (State.ring_of_steady s.onward_steady)).1
    rw [s.moveTime_of_lt (by omega), State.ctx_of_unaccounted (s.onward.passTime_unaccounted (by omega)), State.ctx_withRing, s.onward_ctx]
    exact s.swapArmed_mayStart c h

/-- With no halves armed the timebase goes on with no other effect than on accounts, free values and recovery procedures. -/
theorem State.moveTime_unarmed (s : State) {t : Nat} (ht : s.ring.timebase < t) (h : ∀ c, (s.ctx c).armed = none) :
    s.moveTime t = { s with
      ring := s.ring.passed t, quads := (s.moveTime t).quads, free := (s.moveTime t).free
      sync := { s.sync with recoveries := (s.moveTime t).sync.recoveries } } ∧
    ∀ q, (s.moveTime t).quad q = { s.quad q with sat := ((s.moveTime t).quad q).sat } := by
  have e : s.moveTime t = s.recovered.passTime t := by rw [s.moveTime_of_lt ht, State.onward, s.swapArmed_of_none h]
  obtain ⟨rs, hrs⟩ : ∃ rs, s.recovered = { s with sync := { s.sync with recoveries := rs } } := ⟨_, rfl⟩
  have passed := s.recovered.passTime_unaccounted (t := t) ht
  rw [← e, hrs] at passed
  generalize s.moveTime t = u at passed
  have sync := State.sync_of_unaccounted passed
  refine ⟨(State.eq_of_unaccounted passed).trans ?_, fun q => State.quad_of_unaccounted passed q⟩
  rw [sync]

/-! ## O2: an empty queue -/

theorem Ring.movedTo_of_lt (r : Ring) {t : Nat} (h : r.timebase < t) : r.movedTo t = r.passed t := if_neg (by omega)

theorem State.bellAt_apart (s : State) (t : Nat) : (s.bellAt t).apart = s.apart :=
  (State.apart_of_steady (s.bellAt_steady t)).trans rfl

theorem State.moveTime_apart (s : State) (t : Nat) : (s.moveTime t).apart = s.apart :=
  (State.apart_of_steady (s.moveTime_steady t)).trans rfl

theorem State.applyPeriod_apart (s : State) : s.applyPeriod.apart = s.apart := by
  unfold State.applyPeriod
  split <;> rfl

theorem State.bellAt_ring (s : State) (t : Nat) : (s.bellAt t).ring.still = (s.ring.rung t).still :=
  State.ring_of_steady (s.bellAt_steady t)

theorem State.moveTime_ring (s : State) (t : Nat) : (s.moveTime t).ring.still = (s.ring.movedTo t).still :=
  State.ring_of_steady (s.moveTime_steady t)

theorem State.bellAt_timebase (s : State) (t : Nat) : (s.bellAt t).ring.timebase = s.ring.timebase :=
  (Ring.clock_of_still (s.bellAt_ring t)).1

theorem State.applyPeriod_timebase (s : State) : s.applyPeriod.ring.timebase = s.ring.timebase := by
  unfold State.applyPeriod
  split <;> rfl

theorem State.ringDue_apart (s : State) : s.ringDue.apart = s.apart := by
  unfold State.ringDue
  dsimp only
  split <;> split <;> simp only [State.bellAt_apart, State.applyPeriod_apart]

theorem State.ringDue_timebase (s : State) : s.ringDue.ring.timebase = s.ring.timebase := by
  unfold State.ringDue
  dsimp only
  split <;> split <;> simp only [State.bellAt_timebase, State.applyPeriod_timebase]

/-- Without a change of period stored, the bell that is due rings, and no other (R21). -/
theorem State.ringDue_of_no_change (s : State) (h : s.ring.nextPeriod = 0) :
    s.ringDue = if s.bellDue = true then s.bellAt s.ring.timebase else s := by
  unfold State.ringDue
  simp [h]

theorem State.tick_of_aux (s : State) (h : s.boot.auxGood = true) : s.tick = s.ringDue.moveTime (s.ring.timebase + 1) := by
  unfold State.tick
  dsimp only
  rw [if_pos h, s.ringDue_timebase]

theorem State.tick_apart (s : State) : s.tick.apart = s.apart := by
  unfold State.tick
  split
  · exact (State.moveTime_apart _ _).trans s.ringDue_apart
  · rfl

theorem State.tick_ring (s : State) (h : s.boot.auxGood = true) :
    s.tick.ring.still = (s.ringDue.ring.passed (s.ring.timebase + 1)).still := by
  have base := s.ringDue_timebase
  rw [s.tick_of_aux h, State.moveTime_ring, Ring.movedTo_of_lt _ (by omega)]

/-- A nanosecond of discipline is 100 ppm of it in each tenth (R441). -/
theorem disciplined_succ (e rate : Int) (t : Nat) :
    disciplined e rate t (t + 1) =
      let w := if (t + 1) % 10 = 0 then rate / 100 else 0
      if e ≤ 0 then min 0 (e - w) else max 0 (e - w) := by
  have tenth : (((t + 1) / 10 - t / 10 : Nat) : Int) * rate / 100 = if (t + 1) % 10 = 0 then rate / 100 else 0 := by
    split
    · next h =>
      have : (t + 1) / 10 - t / 10 = 1 := by omega
      simp [this]
    · next h =>
      have : (t + 1) / 10 - t / 10 = 0 := by omega
      simp [this]
  simp only [disciplined, tenth]

theorem Ring.passed_timebase (r : Ring) (t : Nat) : (r.passed t).timebase = t % 2 ^ 64 := rfl

/-- The passing of time leaves bells and periods alone. -/
theorem Ring.passed_bells (r : Ring) (t : Nat) :
    (r.passed t).lastBell = r.lastBell ∧ (r.passed t).bells = r.bells ∧ (r.passed t).period = r.period ∧
      (r.passed t).nextPeriod = r.nextPeriod ∧ (r.passed t).changeAt = r.changeAt := ⟨rfl, rfl, rfl, rfl, rfl⟩

theorem Ring.passed_free (r : Ring) (t : Nat) (h : r.state ≠ 2 ∨ r.holdover = true) :
    (r.passed t).timeError = r.timeError ∧ (r.passed t).rate = r.rate := by
  have live : decide (r.state = 2 ∧ r.holdover = false) = false :=
    decide_eq_false fun ⟨h2, ho⟩ => h.elim (· h2) fun ht => by rw [ho] at ht; cases ht
  simp only [Ring.passed, live, Bool.false_eq_true, if_false, Bool.false_and, and_self]

theorem Ring.passed_disciplined (r : Ring) (h : r.state = 2) (ho : r.holdover = false) :
    (r.passed (r.timebase + 1)).timeError = BitVec.ofInt 32 (disciplined r.timeError.toInt r.rate r.timebase (r.timebase + 1)) ∧
      (r.passed (r.timebase + 1)).rate = if (r.passed (r.timebase + 1)).timeError = 0 then 0 else r.rate := by
  simp [Ring.passed, h, ho]

theorem step_of_empty {s : State} (h : s.pending = []) : step s = .next s.tick := by
  unfold step
  rw [h]

/-- Settles O2: the frames of a bell and of the passing of time, and the law of discipline. -/
theorem emptyQueueCountsOneNanosecond : Obligations.EmptyQueueCountsOneNanosecond := by
  intro s hp
  obtain ⟨pend, mem, banks, stk, boot, pow, therm, cfgs, sec⟩ := State.parts_of_apart s.tick_apart
  refine ⟨s.tick, step_of_empty hp, pend.trans hp, fun ha => ?aux, fun ha => ?base, ⟨mem, banks, stk, boot, pow, therm, cfgs, sec⟩,
    fun ha hn hd => ?due, fun ha hn hd => ?quiet⟩
  case aux => simp [State.tick, ha]
  case base => rw [(Ring.clock_of_still (s.tick_ring ha)).1, Ring.passed_timebase]
  case due =>
    obtain ⟨-, last, bells, -⟩ := Ring.clock_of_still (s.tick_ring ha)
    obtain ⟨-, last', bells', -⟩ := Ring.clock_of_still (s.bellAt_ring s.ring.timebase)
    rw [s.ringDue_of_no_change hn, if_pos hd] at last bells
    obtain ⟨passedLast, passedBells, -⟩ := (s.bellAt s.ring.timebase).ring.passed_bells (s.ring.timebase + 1)
    exact ⟨(last.trans passedLast).trans last', (bells.trans passedBells).trans bells'⟩
  case quiet =>
    have quiet : s.ringDue = s := by rw [s.ringDue_of_no_change hn, if_neg (by simp [hd])]
    have clock := Ring.clock_of_still (s.tick_ring ha)
    rw [quiet] at clock
    obtain ⟨-, last, bells, -⟩ := clock
    refine ⟨last, bells, fun unarmed => ?_⟩
    obtain ⟨frame, quads⟩ := s.moveTime_unarmed (Nat.lt_succ_self _) unarmed
    rw [s.tick_of_aux ha, quiet]
    have ring : (s.moveTime (s.ring.timebase + 1)).ring = s.ring.passed (s.ring.timebase + 1) := congrArg (·.ring) frame
    refine ⟨?_, fun hf => ?_, fun h2 ho => ?_, quads⟩
    · rw [ring]
      exact frame
    · rw [ring]
      exact s.ring.passed_free _ hf
    · have law := s.ring.passed_disciplined h2 ho
      rw [disciplined_succ] at law
      rw [ring]
      exact law

end Sys2Proof.Machine
end

section
/-! PROOF. O36: bells, changes of the period and saturation intervals (R20 to R26, R190, R191, R445). -/

namespace Sys2Proof.Machine

/-! ## The first bell at or after a time -/

theorem bellAtOrAfter_spec {p : Nat} (hp : p ≠ 0) (t : Nat) :
    bellAtOrAfter p t % p = 0 ∧ t ≤ bellAtOrAfter p t ∧ ∀ b, t ≤ b → b % p = 0 → bellAtOrAfter p t ≤ b := by
  have pos : 0 < p := Nat.pos_of_ne_zero hp
  have digits := Nat.div_add_mod (t + p - 1) p
  have rest := Nat.mod_lt (t + p - 1) pos
  rw [bellAtOrAfter, if_neg hp]
  refine ⟨Nat.mul_mod_left _ _, ?_, fun b hb hm => ?_⟩
  · rw [Nat.mul_comm] 
    omega
  · obtain ⟨k, rfl⟩ := Nat.dvd_of_mod_eq_zero hm
    have upto : (t + p - 1) / p ≤ k := by
      rw [← Nat.lt_succ_iff, Nat.div_lt_iff_lt_mul pos, Nat.succ_mul, Nat.mul_comm k p]
      omega
    rw [Nat.mul_comm p k]
    exact Nat.mul_le_mul_right p upto

/-- The bells that may ring next: from a time on, after the last one. -/
def State.bellAfter (s : State) (t b : Nat) : Prop := t ≤ b ∧ (s.ring.bells ≠ 0 → s.ring.lastBell < b)

theorem State.bellFrom_spec (s : State) {p : Nat} (hp : p ≠ 0) (t : Nat) :
    s.bellFrom p t % p = 0 ∧ s.bellAfter t (s.bellFrom p t) ∧ ∀ b, s.bellAfter t b → b % p = 0 → s.bellFrom p t ≤ b := by
  have from_ : ∀ b, (if s.ring.bells = 0 then t else max t (s.ring.lastBell + 1)) ≤ b ↔ s.bellAfter t b := by
    intro b
    unfold State.bellAfter
    split <;> omega
  obtain ⟨multiple, after, least⟩ := bellAtOrAfter_spec hp (if s.ring.bells = 0 then t else max t (s.ring.lastBell + 1))
  exact ⟨multiple, (from_ _).mp after, fun b hb => least b ((from_ b).mpr hb)⟩

/-! ## BELL_RING -/

theorem State.applyPeriod_eq (s : State) (h : s.ring.nextPeriod ≠ 0) :
    s.applyPeriod = { s with ring := { s.ring with period := s.ring.nextPeriod, nextPeriod := 0 } } := if_neg h

/-- The timebase at which a bell then rings is its own, unless it is past already. -/
theorem Ring.movedTo_timebase (r : Ring) {t : Nat} (ht : t < 2 ^ 64) (h : r.timebase ≤ t) : (r.movedTo t).timebase = t := by
  unfold Ring.movedTo
  split
  · omega
  · rw [Ring.passed_timebase, Nat.mod_eq_of_lt ht]

theorem Ring.movedTo_bells (r : Ring) (t : Nat) :
    (r.movedTo t).lastBell = r.lastBell ∧ (r.movedTo t).bells = r.bells ∧ (r.movedTo t).period = r.period ∧
      (r.movedTo t).nextPeriod = r.nextPeriod ∧ (r.movedTo t).changeAt = r.changeAt := by
  unfold Ring.movedTo
  split
  · exact ⟨rfl, rfl, rfl, rfl, rfl⟩
  · exact r.passed_bells t

/-- The timebase goes on to t, where a bell rings. -/
def State.ringAt (s : State) (t : Nat) : State := (s.moveTime t).bellAt t

theorem State.ringAt_ring (s : State) (t : Nat) : (s.ringAt t).ring.still = ((s.ring.movedTo t).rung t).still :=
  ((s.moveTime t).bellAt_ring t).trans (congrArg (fun r : Ring => r.rung t) (s.moveTime_ring t))

/-- The clock after the bell at t. -/
theorem State.ringAt_clock (s : State) (t : Nat) :
    (s.ringAt t).ring.lastBell = t ∧ (s.ringAt t).ring.bells = s.ring.bells + 1 ∧ (s.ringAt t).ring.period = s.ring.period ∧
      (s.ringAt t).ring.nextPeriod = s.ring.nextPeriod ∧ (s.ringAt t).ring.changeAt = s.ring.changeAt ∧
      (s.ring.timebase ≤ t → t < 2 ^ 64 → (s.ringAt t).ring.timebase = t) := by
  obtain ⟨base, last, bells, period, next, change⟩ := Ring.clock_of_still (s.ringAt_ring t)
  obtain ⟨-, bells', period', next', change'⟩ := s.ring.movedTo_bells t
  refine ⟨last, ?_, period.trans period', next.trans next', change.trans change', fun h ht => base.trans (s.ring.movedTo_timebase ht h)⟩
  rw [bells, ← bells']
  rfl

theorem State.ringAt_starts (s : State) (t c : Nat) (hc : c < 16) (h : (s.ctx c).mayStart) :
    ((s.ringAt t).ctx c).lesson.isSome = true := (s.moveTime t).bellAt_starts t c hc (s.moveTime_mayStart t c h)

theorem execBellRing_of_aux (s : State) (h : s.boot.auxGood = true) :
    execBellRing s = .next (
      let first := s.bellFrom s.ring.period s.ring.timebase
      if s.ring.nextPeriod ≠ 0 ∧ s.ring.changeAt ≤ first then
        s.applyPeriod.ringAt (s.applyPeriod.bellFrom s.applyPeriod.ring.period (max s.applyPeriod.ring.timebase s.applyPeriod.ring.changeAt))
      else s.ringAt first) := by
  unfold execBellRing State.ringAt
  simp only [h, Bool.true_eq_false, if_false]
  split <;> simp_all

/-- BELL_RING with a change of period that takes effect by the next bell (R445). -/
theorem State.ringAt_changed (s : State) (h : s.ring.nextPeriod ≠ 0) :
    let t := s.applyPeriod.ringAt
      (s.applyPeriod.bellFrom s.applyPeriod.ring.period (max s.applyPeriod.ring.timebase s.applyPeriod.ring.changeAt))
    t.ring.period = s.ring.nextPeriod ∧ t.ring.nextPeriod = 0 ∧ t.ring.lastBell % s.ring.nextPeriod = 0 ∧
      s.ring.changeAt ≤ t.ring.lastBell ∧ s.bellAfter s.ring.timebase t.ring.lastBell ∧ t.ring.bells = s.ring.bells + 1 ∧
      (t.ring.lastBell < 2 ^ 64 → t.ring.timebase = t.ring.lastBell) := by
  rw [s.applyPeriod_eq h]
  set u : State := { s with ring := { s.ring with period := s.ring.nextPeriod, nextPeriod := 0 } } with hu
  obtain ⟨multiple, ⟨after, later⟩, -⟩ := u.bellFrom_spec (p := u.ring.period) h (max u.ring.timebase u.ring.changeAt)
  obtain ⟨last, bells, period, next, -, base⟩ :=
    u.ringAt_clock (u.bellFrom u.ring.period (max u.ring.timebase u.ring.changeAt))
  dsimp only
  rw [last]
  exact ⟨period, next, multiple, (le_max_right _ _).trans after, ⟨(le_max_left _ _).trans after, later⟩, bells,
    base ((le_max_left _ _).trans after)⟩

theorem bellRing_rings (s : State) (ha : s.boot.auxGood = true) (hp : s.ring.period ≠ 0) : ∃ t, exec .bellRing s = .next t ∧
    (let first := s.bellFrom s.ring.period s.ring.timebase
     first % s.ring.period = 0 ∧ s.ring.timebase ≤ first ∧ (s.ring.bells ≠ 0 → s.ring.lastBell < first) ∧
     (∀ b, s.ring.timebase ≤ b → (s.ring.bells ≠ 0 → s.ring.lastBell < b) → b % s.ring.period = 0 → first ≤ b) ∧
     (if s.ring.nextPeriod ≠ 0 ∧ s.ring.changeAt ≤ first then
        t.ring.period = s.ring.nextPeriod ∧ t.ring.nextPeriod = 0 ∧ t.ring.lastBell % s.ring.nextPeriod = 0 ∧
        s.ring.changeAt ≤ t.ring.lastBell ∧ s.ring.timebase ≤ t.ring.lastBell ∧
        (s.ring.bells ≠ 0 → s.ring.lastBell < t.ring.lastBell)
      else t.ring.period = s.ring.period ∧ t.ring.nextPeriod = s.ring.nextPeriod ∧ t.ring.lastBell = first)) ∧
    (t.ring.lastBell < 2 ^ 64 → t.ring.timebase = t.ring.lastBell) ∧ t.ring.bells = s.ring.bells + 1 ∧
    (∀ c, c < 16 → (s.ctx c).mayStart → (t.ctx c).lesson.isSome = true) := by
  obtain ⟨multiple, ⟨after, later⟩, least⟩ := s.bellFrom_spec hp s.ring.timebase
  refine ⟨_, execBellRing_of_aux s ha, ?_⟩
  dsimp only
  split
  · next hc =>
    obtain ⟨period, next, mult', change, ⟨after', later'⟩, bells, base⟩ := s.ringAt_changed hc.1
    refine ⟨⟨multiple, after, later, fun b h1 h2 => least b ⟨h1, h2⟩, ?_⟩, base, bells, fun c h16 hs => ?_⟩
    · exact ⟨period, next, mult', change, after', later'⟩
    · refine s.applyPeriod.ringAt_starts _ c h16 ?_
      rwa [s.applyPeriod_eq hc.1]
  · obtain ⟨last, bells, period, next, -, base⟩ := s.ringAt_clock (s.bellFrom s.ring.period s.ring.timebase)
    refine ⟨⟨multiple, after, later, fun b h1 h2 => least b ⟨h1, h2⟩, ?_⟩, ?_, bells, fun c h16 hs => s.ringAt_starts _ c h16 hs⟩
    · exact ⟨period, next, last⟩
    · rw [last]
      exact base after

/-! ## BELL_PERIOD_CHANGE -/

theorem State.ringUntil_succ (s : State) (t n : Nat) :
    s.ringUntil t (n + 1) = if s.bellFrom s.ring.period s.ring.timebase < t ∧ s.ring.period ≠ 0 then
      (s.ringAt (s.bellFrom s.ring.period s.ring.timebase)).ringUntil t n else s := rfl

/-- Bells rung before a change keep period and change, never move the timebase past it, and only raise the last bell. -/
theorem State.ringUntil_keeps (n : Nat) (s : State) (t : Nat) :
    (s.ringUntil t n).ring.period = s.ring.period ∧ (s.ringUntil t n).ring.nextPeriod = s.ring.nextPeriod ∧
      (s.ringUntil t n).ring.changeAt = s.ring.changeAt ∧
      (t < 2 ^ 64 → s.ring.timebase ≤ t → (s.ringUntil t n).ring.timebase ≤ t) ∧
      (s.ring.bells ≠ 0 → s.ring.lastBell ≤ (s.ringUntil t n).ring.lastBell) := by
  induction n generalizing s with
  | zero => exact ⟨rfl, rfl, rfl, fun _ h => h, fun _ => le_rfl⟩
  | succ n ih =>
    rw [State.ringUntil_succ]
    split
    · next hb =>
      obtain ⟨hlt, hp⟩ := hb
      obtain ⟨-, ⟨after, later⟩, -⟩ := s.bellFrom_spec hp s.ring.timebase
      obtain ⟨last, bells, period, next, change, base⟩ := s.ringAt_clock (s.bellFrom s.ring.period s.ring.timebase)
      obtain ⟨period', next', change', base', last'⟩ := ih (s.ringAt (s.bellFrom s.ring.period s.ring.timebase))
      refine ⟨period'.trans period, next'.trans next, change'.trans change, fun ht _ => base' ht ?_, fun hs => ?_⟩
      · rw [base after (by omega)]
        omega
      · have := later hs
        have := last' (by omega)
        omega
    · exact ⟨rfl, rfl, rfl, fun _ h => h, fun _ => le_rfl⟩

/-- The bell after the one that has just rung is a whole period later at least. -/
theorem State.ringAt_next (s : State) (hp : s.ring.period ≠ 0) :
    let f := s.bellFrom s.ring.period s.ring.timebase
    f + s.ring.period ≤ (s.ringAt f).bellFrom (s.ringAt f).ring.period (s.ringAt f).ring.timebase := by
  intro f
  obtain ⟨multiple, ⟨after, -⟩, -⟩ := s.bellFrom_spec hp s.ring.timebase
  obtain ⟨last, bells, period, -, -, -⟩ := s.ringAt_clock f
  obtain ⟨multiple', ⟨-, later⟩, -⟩ := (s.ringAt f).bellFrom_spec (p := (s.ringAt f).ring.period) (by rwa [period])
    (s.ringAt f).ring.timebase
  have gap := later (by omega)
  rw [last] at gap
  rw [period] at multiple' gap ⊢
  obtain ⟨k, hk⟩ := Nat.dvd_of_mod_eq_zero multiple
  obtain ⟨l, hl⟩ := Nat.dvd_of_mod_eq_zero multiple'
  have hf : f = s.ring.period * k := hk
  rw [hl] at gap ⊢
  rw [hf] at gap ⊢
  have : k + 1 ≤ l := Nat.lt_of_mul_lt_mul_left gap
  calc s.ring.period * k + s.ring.period = s.ring.period * (k + 1) := rfl
    _ ≤ s.ring.period * l := Nat.mul_le_mul_left _ this

/-- With steps enough, every bell due before t rings: each step takes the first bell a period on. -/
theorem State.ringUntil_rings (n : Nat) (s : State) {t b : Nat} (ht : t < 2 ^ 64) (hp : s.ring.period ≠ 0) (hb : b < t)
    (hm : b % s.ring.period = 0) (ha : s.bellAfter s.ring.timebase b)
    (hn : b < s.bellFrom s.ring.period s.ring.timebase + n * s.ring.period) : b ≤ (s.ringUntil t n).ring.lastBell := by
  induction n generalizing s with
  | zero =>
    obtain ⟨-, -, least⟩ := s.bellFrom_spec hp s.ring.timebase
    have := least b ha hm
    omega
  | succ n ih =>
    obtain ⟨-, ⟨after, -⟩, least⟩ := s.bellFrom_spec hp s.ring.timebase
    have first := least b ha hm
    obtain ⟨last, bells, period, -, -, base⟩ := s.ringAt_clock (s.bellFrom s.ring.period s.ring.timebase)
    have next := s.ringAt_next hp
    rw [State.ringUntil_succ, if_pos ⟨first.trans_lt hb, hp⟩]
    obtain rfl | later := first.eq_or_lt
    · obtain ⟨-, -, -, -, keeps⟩ := State.ringUntil_keeps n (s.ringAt (s.bellFrom s.ring.period s.ring.timebase)) t
      rw [last] at keeps
      exact keeps (by omega)
    · have now := base after (first.trans_lt (hb.trans ht))
      have due : (s.ringAt (s.bellFrom s.ring.period s.ring.timebase)).bellAfter
          (s.ringAt (s.bellFrom s.ring.period s.ring.timebase)).ring.timebase b := by
        rw [State.bellAfter, now, last]
        exact ⟨first, fun _ => later⟩
      refine ih _ (period.trans_ne hp) ((congrArg (b % ·) period).trans hm) due ?_
      rw [Nat.succ_mul] at hn
      dsimp only at next
      rw [period] at next ⊢
      omega

/-- The state in which a stored period takes effect: at CHANGE_AT, after the old one's bells before it. -/
def State.atChange (s : State) : State :=
  (s.ringUntil s.ring.changeAt ((s.ring.changeAt - s.ring.timebase) / s.ring.period + 1)).moveTime s.ring.changeAt

theorem State.atChange_clock (s : State) :
    s.atChange.ring.nextPeriod = s.ring.nextPeriod ∧
      (s.ring.timebase ≤ s.ring.changeAt → s.ring.changeAt < 2 ^ 64 → s.atChange.ring.timebase = s.ring.changeAt) ∧
      s.atChange.ring.lastBell =
        (s.ringUntil s.ring.changeAt ((s.ring.changeAt - s.ring.timebase) / s.ring.period + 1)).ring.lastBell := by
  obtain ⟨-, next, -, base, -⟩ :=
    State.ringUntil_keeps ((s.ring.changeAt - s.ring.timebase) / s.ring.period + 1) s s.ring.changeAt
  unfold State.atChange
  set u := s.ringUntil s.ring.changeAt ((s.ring.changeAt - s.ring.timebase) / s.ring.period + 1)
  obtain ⟨base', last, -, -, next', -⟩ := Ring.clock_of_still (u.moveTime_ring s.ring.changeAt)
  obtain ⟨last'', -, -, next'', -⟩ := u.ring.movedTo_bells s.ring.changeAt
  exact ⟨next'.trans (next''.trans next),
    fun h ht => base'.trans (u.ring.movedTo_timebase ht (base ht h)), last.trans last''⟩

theorem execBellPeriodChange_of_stored (s : State) (h : s.ring.nextPeriod ≠ 0) :
    exec .bellPeriodChange s = .next s.atChange.applyPeriod := by
  unfold exec execBellPeriodChange
  rw [if_neg h]
  rfl

/-- Every bell of the old period before CHANGE_AT has rung by then. -/
theorem State.atChange_rung (s : State) (ht : s.ring.changeAt < 2 ^ 64) {b : Nat} (hb : b < s.ring.changeAt)
    (hp : s.ring.period ≠ 0) (hm : b % s.ring.period = 0) (ha : s.bellAfter s.ring.timebase b) : b ≤ s.atChange.ring.lastBell := by
  obtain ⟨-, -, last⟩ := s.atChange_clock
  obtain ⟨-, ⟨after, -⟩, -⟩ := s.bellFrom_spec hp s.ring.timebase
  rw [last]
  refine s.ringUntil_rings _ ht hp hb hm ha ?_
  have steps := Nat.lt_mul_div_succ (s.ring.changeAt - s.ring.timebase) (Nat.pos_of_ne_zero hp)
  rw [Nat.mul_comm] at steps
  omega

theorem State.ringUntil_of_no_bell (s : State) {t : Nat} (h : t ≤ s.bellFrom s.ring.period s.ring.timebase) (n : Nat) :
    s.ringUntil t n = s := by
  cases n with
  | zero => rfl
  | succ n => rw [State.ringUntil_succ, if_neg (by omega)]

/-- Without a bell and with no halves armed a change of period touches the clock, the accounts and the recoveries alone. -/
theorem State.atChange_of_no_bell (s : State) (h : s.ring.changeAt ≤ s.bellFrom s.ring.period s.ring.timebase)
    (ha : ∀ c, (s.ctx c).armed = none) :
    s.atChange = { s with
      ring := { s.ring with
        timebase := s.atChange.ring.timebase, timeError := s.atChange.ring.timeError, rate := s.atChange.ring.rate }
      quads := s.atChange.quads, free := s.atChange.free
      sync := { s.sync with recoveries := s.atChange.sync.recoveries } } ∧
    ∀ q, s.atChange.quad q = { s.quad q with sat := (s.atChange.quad q).sat } := by
  have e : s.atChange = s.moveTime s.ring.changeAt := by rw [State.atChange, s.ringUntil_of_no_bell h]
  by_cases ht : s.ring.changeAt ≤ s.ring.timebase
  · rw [e, s.moveTime_of_le ht]
    exact ⟨rfl, fun _ => rfl⟩
  · obtain ⟨whole, quads⟩ := s.moveTime_unarmed (by omega : s.ring.timebase < s.ring.changeAt) ha
    have ring : (s.moveTime s.ring.changeAt).ring = s.ring.passed s.ring.changeAt := by
      rw [whole]
    rw [e, ring]
    exact ⟨whole, quads⟩

theorem bellPeriodChange_changes (s : State) (h : s.ring.nextPeriod ≠ 0) : ∃ t, exec .bellPeriodChange s = .next t ∧
    t.ring.period = s.ring.nextPeriod ∧ t.ring.nextPeriod = 0 ∧
    (s.ring.timebase ≤ s.ring.changeAt → s.ring.changeAt < 2 ^ 64 → t.ring.timebase = s.ring.changeAt) ∧
    (s.ring.changeAt < 2 ^ 64 → ∀ b, s.ring.timebase ≤ b → b < s.ring.changeAt → s.ring.period ≠ 0 → b % s.ring.period = 0 →
      (s.ring.bells ≠ 0 → s.ring.lastBell < b) → b ≤ t.ring.lastBell) ∧
    (s.ring.changeAt ≤ s.bellFrom s.ring.period s.ring.timebase → (∀ c, (s.ctx c).armed = none) →
      t.ring = { s.ring with
        timebase := t.ring.timebase, timeError := t.ring.timeError, rate := t.ring.rate, period := s.ring.nextPeriod, nextPeriod := 0 } ∧
      t = { s with ring := t.ring, quads := t.quads, free := t.free, sync := { s.sync with recoveries := t.sync.recoveries } } ∧
      ∀ p, t.quad p = { s.quad p with sat := (t.quad p).sat }) := by
  obtain ⟨next, base, -⟩ := s.atChange_clock
  refine ⟨_, execBellPeriodChange_of_stored s h, ?_⟩
  rw [s.atChange.applyPeriod_eq (by rwa [next])]
  refine ⟨next, rfl, base, fun ht b hb hlt hp hm hl => s.atChange_rung ht hlt hp hm ⟨hb, hl⟩, fun hn ha => ?_⟩
  obtain ⟨whole, quads⟩ := s.atChange_of_no_bell hn ha
  rw [next]
  generalize s.atChange = u at whole quads
  refine ⟨?_, ?_, quads⟩
  · exact congrArg (fun x : State => ({ x.ring with period := s.ring.nextPeriod, nextPeriod := 0 } : Ring)) whole
  · exact congrArg (fun x : State => ({ x with ring := { u.ring with period := s.ring.nextPeriod, nextPeriod := 0 } } : State)) whole

/-! ## SATURATION_INTERVAL -/

/-- A quadrant whose interval has been published, and begins anew (R191). -/
def Quad.published (x : Quad) : Quad := { x with satCode := BitVec.ofNat 8 (satLargest x.sat), satFlags := satFlagsOf x.sat, sat := [] }

def State.publish (s : State) : State := (List.range 4).foldl (fun (s : State) q => s.modQuad q Quad.published) s

theorem State.publish_rest (s : State) : s.publish = { s with quads := s.publish.quads } := by
  refine State.foldl_holds (fun t => t = { s with quads := t.quads }) _ (fun t q h => ?_) (List.range 4) s rfl
  rw [h]
  rfl

theorem State.foldl_modQuad_quad (f : Quad → Quad) (l : List Nat) (hl : l.Nodup) (s : State) (q : Nat) :
    (l.foldl (fun (s : State) q => s.modQuad q f) s).quad q = if q ∈ l then f (s.quad q) else s.quad q := by
  induction l generalizing s with
  | nil => rfl
  | cons p l ih =>
    obtain ⟨hp, hl⟩ := List.nodup_cons.mp hl
    rw [List.foldl_cons, ih hl]
    by_cases h : q = p
    · subst h
      simp [hp]
    · simp [h, State.quad_modQuad_ne _ _ h]

theorem State.publish_quad (s : State) (q : Nat) : s.publish.quad q = if q < 4 then (s.quad q).published else s.quad q := by
  simpa only [State.publish, List.mem_range] using s.foldl_modQuad_quad Quad.published (List.range 4) List.nodup_range q

theorem saturationInterval_publishes (linkBusy peerBusy : Bool) (s : State) :
    exec (.saturationInterval linkBusy peerBusy) s = .next ({ s with mgmt := { s.mgmt with
      moduleSat := if linkBusy then 5 else if peerBusy then 6 else BitVec.ofNat 8 (satLargest s.satTotal) } } : State).publish := by
  cases linkBusy <;> cases peerBusy <;> rfl

/-- Settles O36: the bells between two times by induction on their number, each step a whole period on. -/
theorem bellsAndIntervals : Obligations.BellsAndIntervals := by
  refine ⟨fun s h => ?_, fun s ha hp => ?_, fun s h => ?_, fun s => bellPeriodChange_changes s, fun link peer s => ?_⟩
  · unfold exec execBellRing
    rw [if_pos h]
  · obtain ⟨t, ht, clock, base, bells, starts⟩ := bellRing_rings s ha hp
    exact ⟨t, ht, clock, base, bells, fun c hc live resetting lesson accepted => starts c hc ⟨live, resetting, lesson, accepted⟩⟩
  · unfold exec execBellPeriodChange
    rw [if_pos h]
  · refine ⟨_, saturationInterval_publishes link peer s, ?_⟩
    set u : State := { s with mgmt := { s.mgmt with
      moduleSat := if link then 5 else if peer then 6 else BitVec.ofNat 8 (satLargest s.satTotal) } } with hu
    have rest := u.publish_rest
    have quad := u.publish_quad
    generalize u.publish = t at rest quad
    refine ⟨?_, fun q hq => ?_, fun q hq => ?_, ?_⟩
    · rw [rest]
    · rw [quad, if_pos hq]
      rfl
    · rw [quad, if_neg (by omega)]
      rfl
    · rw [rest]

end Sys2Proof.Machine
end

section
/-! PROOF. O46: the command ring: doorbells, the commands they accept, and the records that answer them (R385 to R397, R400). -/

namespace Sys2Proof.Machine

/-! ## Room in the report buffer -/

/-- The total over a table of a measure that its default has none of. -/
def tsum {V : Type} (f : V → Nat) (t : Table V) : Nat := (t.map (fun p => f p.2)).sum

theorem tsum_tdel_le {V : Type} (f : V → Nat) (d : V) (hd : f d = 0) (t : Table V) (i : Nat) :
    tsum f (tdel t i) + f (tget d t i) ≤ tsum f t := by
  induction t with
  | nil => simp [tsum, tdel, hd]
  | cons p t ih =>
    obtain ⟨k, v⟩ := p
    by_cases h : k = i
    · subst h
      simp [tsum, tdel, tget] at ih ⊢
      omega
    · simp [tsum, tdel, tget, h, Ne.symm h] at ih ⊢
      omega

theorem tsum_tins {V : Type} (f : V → Nat) (t : Table V) (i : Nat) (x : V) : tsum f (tins t i x) = tsum f t + f x := by
  induction t with
  | nil => simp [tsum, tins]
  | cons p t ih =>
    simp only [tins]
    split
    · simp [tsum]; omega
    · simp [tsum] at ih ⊢; omega

/-- A write puts the new value's measure in place of the old one's. -/
theorem tsum_tset_le {V : Type} [DecidableEq V] (f : V → Nat) (d : V) (hd : f d = 0) (t : Table V) (i : Nat) (x : V) :
    tsum f (tset d t i x) + f (tget d t i) ≤ tsum f t + f x := by
  have rest := tsum_tdel_le f d hd t i
  unfold tset
  split
  · omega
  · rw [tsum_tins]; omega

theorem State.bufferUse_eq (s : State) : s.bufferUse = tsum (fun x : Ctx => x.buffer.length) s.ctxs := by
  have total : ∀ (t : Table Ctx) (n : Nat), t.foldl (fun n c => n + c.2.buffer.length) n = n + tsum (fun x : Ctx => x.buffer.length) t := by
    intro t
    induction t with
    | nil => exact fun n => rfl
    | cons p t ih => intro n; rw [List.foldl_cons, ih]; simp [tsum]; omega
  rw [State.bufferUse, total, Nat.zero_add]

theorem State.bufferUse_setCtx_le (s : State) (c : Nat) (x : Ctx) :
    (s.setCtx c x).bufferUse + (s.ctx c).buffer.length ≤ s.bufferUse + x.buffer.length := by
  rw [State.bufferUse_eq, State.bufferUse_eq]
  exact tsum_tset_le (fun x : Ctx => x.buffer.length) Ctx.init rfl s.ctxs c x

/-! ## A state that differs in one context -/

/-- The second state is the first but for one context, which is x. -/
def State.withCtx (s : State) (c : Nat) (x : Ctx) (t : State) : Prop :=
  t = { s with ctxs := t.ctxs } ∧ (∀ i, i ≠ c → t.ctx i = s.ctx i) ∧ t.ctx c = x

theorem State.withCtx_setCtx (s : State) (c : Nat) (x : Ctx) : s.withCtx c x (s.setCtx c x) :=
  ⟨rfl, fun _ h => s.ctx_setCtx_ne x h, s.ctx_setCtx_same c x⟩

theorem State.withCtx.trans {s t u : State} {c : Nat} {x y : Ctx} (h : s.withCtx c x t) (h' : t.withCtx c y u) : s.withCtx c y u := by
  obtain ⟨rest, others, -⟩ := h
  obtain ⟨rest', others', own⟩ := h'
  refine ⟨?_, fun i hi => (others' i hi).trans (others i hi), own⟩
  rw [rest] at rest'
  exact rest'

/-! ## Records enter the buffer -/

theorem State.roomFor_setCtx {s : State} {c : Nat} (h : s.roomFor c) {x : Ctx} (hl : x.hostLost = (s.ctx c).hostLost)
    (hq : x.queue = (s.ctx c).queue) (hb : x.buffer = (s.ctx c).buffer) : (s.setCtx c x).roomFor c := by
  obtain ⟨lost, queue, room, all⟩ := h
  have use := s.bufferUse_setCtx_le c x
  rw [hb] at use
  unfold State.roomFor
  rw [s.ctx_setCtx_same, hl, hq, hb]
  exact ⟨lost, queue, room, by omega⟩

/-- A context with one record that waits, and with that record in the buffer. -/
def Ctx.waiting (x : Ctx) (e : Waiting) : Ctx := { x with queue := [e] }
def Ctx.entered (x : Ctx) (e : Waiting) : Ctx := { x with buffer := x.buffer ++ [e], queue := [] }

theorem Ctx.entered_eq {x : Ctx} (h : x.queue = []) (e : Waiting) : x.entered e = { x with buffer := x.buffer ++ [e] } := by
  cases x
  cases h
  rfl

/-- With room a record that waits alone enters the buffer (R403). -/
theorem State.enterBuffer_alone {s : State} {c : Nat} {e : Waiting} (hq : (s.ctx c).queue = [e]) (hs : e.src = none)
    (hr : (s.ctx c).buffer.length < 64) (ha : s.bufferUse < 256) : s.enterBuffer c 1 = s.setCtx c ((s.ctx c).entered e) := by
  simp only [State.enterBuffer, hq, hs, if_pos (And.intro hr ha)]
  rfl

/-- A record posted with room waits and enters at once. -/
theorem State.postFrom_eq_of_room {s : State} {c : Nat} (h : s.roomFor c) (r : Report) (after : List (Nat × Nat)) (early : Bool) :
    s.postFrom c r after early none =
      (s.setCtx c ((s.ctx c).waiting ⟨r, after, early, none⟩)).setCtx c ((s.ctx c).entered ⟨r, after, early, none⟩) := by
  obtain ⟨lost, queue, room, all⟩ := h
  have use := s.bufferUse_setCtx_le c ((s.ctx c).waiting ⟨r, after, early, none⟩)
  have same := s.ctx_setCtx_same c ((s.ctx c).waiting ⟨r, after, early, none⟩)
  have posted : s.postFrom c r after early none = (s.setCtx c ((s.ctx c).waiting ⟨r, after, early, none⟩)).enterBuffer c
      ((s.setCtx c ((s.ctx c).waiting ⟨r, after, early, none⟩)).ctx c).queue.length := by
    unfold State.postFrom
    rw [if_neg (by rw [lost]; exact Bool.false_ne_true)]
    unfold State.modCtx
    simp only [queue, List.nil_append]
    rfl
  have buffer : ((s.ctx c).waiting ⟨r, after, early, none⟩).buffer = (s.ctx c).buffer := rfl
  rw [buffer] at use
  rw [posted, same]
  refine (State.enterBuffer_alone (e := ⟨r, after, early, none⟩) (by rw [same]; rfl) rfl (by rw [same]; exact room) (by omega)).trans ?_
  rw [same]
  rfl

theorem State.postFrom_of_room {s : State} {c : Nat} (h : s.roomFor c) (r : Report) (after : List (Nat × Nat)) (early : Bool) :
    s.withCtx c { s.ctx c with buffer := (s.ctx c).buffer ++ [⟨r, after, early, none⟩] } (s.postFrom c r after early none) := by
  rw [State.postFrom_eq_of_room h]
  obtain ⟨_, queue, _, _⟩ := h
  rw [Ctx.entered_eq queue]
  exact (s.withCtx_setCtx c _).trans (State.withCtx_setCtx _ c _)

/-- It takes one place of the buffer. -/
theorem State.postFrom_use {s : State} {c : Nat} (h : s.roomFor c) (r : Report) (after : List (Nat × Nat)) (early : Bool) :
    (s.postFrom c r after early none).bufferUse ≤ s.bufferUse + 1 := by
  have waits := s.bufferUse_setCtx_le c ((s.ctx c).waiting ⟨r, after, early, none⟩)
  have enters := (s.setCtx c ((s.ctx c).waiting ⟨r, after, early, none⟩)).bufferUse_setCtx_le c
    ((s.ctx c).entered ⟨r, after, early, none⟩)
  have before : ((s.ctx c).waiting ⟨r, after, early, none⟩).buffer.length = (s.ctx c).buffer.length := rfl
  have after' : ((s.ctx c).entered ⟨r, after, early, none⟩).buffer.length = (s.ctx c).buffer.length + 1 := List.length_append
  rw [State.postFrom_eq_of_room h]
  rw [State.ctx_setCtx_same, after'] at enters
  omega

theorem State.post_of_room {s : State} {c : Nat} (h : s.roomFor c) (r : Report) :
    s.withCtx c { s.ctx c with buffer := (s.ctx c).buffer ++ [⟨r, [], false, none⟩] } (s.post c r) :=
  State.postFrom_of_room h r [] false

/-! ## Doorbells are examined (R393 to R395) -/

theorem State.startLesson_of_all_skip {s : State} {c : Nat} (h : (s.ctx c).accepted.all (·.skip) = true) : s.startLesson c = s := by
  have none : (s.ctx c).accepted.dropWhile (·.skip) = [] := List.dropWhile_eq_nil_iff.mpr (List.all_eq_true.mp h)
  unfold State.startLesson
  simp only [none]

/-- An examination that accepts nothing starts no lesson. -/
theorem State.evalDoorbell_of_kept {s t : State} {c : Nat} (ht : s.examine c 4097 = t) (h : (t.ctx c).accepted = (s.ctx c).accepted) :
    s.evalDoorbell c = t := by
  unfold State.evalDoorbell
  dsimp only
  rw [ht]
  split
  · next hc => exact State.startLesson_of_all_skip (by rw [h]; exact (Bool.and_eq_true _ _ ▸ hc).2)
  · rfl

theorem State.examine_of_none {s : State} {c : Nat} (h : (s.ctx c).pendingDb = none) (n : Nat) : s.examine c n = s := by
  cases n with
  | zero => rfl
  | succ n => simp only [State.examine, h]

theorem State.evalDoorbell_of_none {s : State} {c : Nat} (h : (s.ctx c).pendingDb = none) : s.evalDoorbell c = s :=
  State.evalDoorbell_of_kept (State.examine_of_none h _) rfl

theorem Ctx.slotsTo_eq_zero (x : Ctx) (tail : BitVec 12) : x.slotsTo tail = 0 ↔ x.head = tail ∧ x.accepted ≠ [] := by
  have hh := x.head.isLt
  have ht := tail.isLt
  unfold Ctx.slotsTo
  split
  · next h => simp [h.2]
  · next h =>
    rw [← BitVec.toNat_inj]
    rw [← BitVec.toNat_inj, not_and] at h
    constructor
    · intro hz
      have : x.head.toNat = tail.toNat := by omega
      exact ⟨this, h this⟩
    · rintro ⟨he, -⟩
      omega

section
variable {s : State} {c : Nat} {tail : BitVec 12} {roll : BitVec 48}

theorem State.examine_succ (h : (s.ctx c).pendingDb = some (tail, roll)) (n : Nat) :
    s.examine c (n + 1) =
      if (s.ctx c).head = tail ∧ (s.ctx c).lastRoll = roll then s.setCtx c { s.ctx c with pendingDb := none }
      else if (s.ctx c).slotsTo tail = 0 ∨ (s.ctx c).stopped = true ∨ s.cmdArrived c (s.ctx c).head.toNat = false then s
      else if s.cmdValid c (s.ctx c).head.toNat && s.cmdFits c tail then
        (s.setCtx c { s.ctx c with
          head := BitVec.ofNat 12 (((s.ctx c).head.toNat + s.cmdSlots c (s.ctx c).head.toNat) % 4096)
          lastRoll := (s.ctx c).lastRoll + 1
          accepted := (s.ctx c).accepted ++ [⟨(s.ctx c).head.toNat, s.cmdSlots c (s.ctx c).head.toNat, (s.ctx c).lastRoll + 1,
            decide (s.cmdOpcode c (s.ctx c).head.toNat = 2)⟩] }).examine c n
      else (s.setCtx c { s.ctx c with stopped := true, pendingDb := none }).post c
        (doorbellReport (s.ctx c) Code.cmdInvalid tail roll) := by
  simp only [State.examine, h]

theorem State.evalDoorbell_of_waits (h : (s.ctx c).pendingDb = some (tail, roll))
    (hn : ¬ ((s.ctx c).head = tail ∧ (s.ctx c).lastRoll = roll))
    (hw : (s.ctx c).head = tail ∧ (s.ctx c).accepted ≠ [] ∨ (s.ctx c).stopped = true ∨ s.cmdArrived c (s.ctx c).head.toNat = false) :
    s.evalDoorbell c = s := by
  rw [← Ctx.slotsTo_eq_zero] at hw
  exact State.evalDoorbell_of_kept (by rw [State.examine_succ h, if_neg hn, if_pos hw]) rfl

theorem State.examine_of_valid (h : (s.ctx c).pendingDb = some (tail, roll)) (hn : (s.ctx c).lastRoll ≠ roll)
    (hw : (s.ctx c).head ≠ tail ∨ (s.ctx c).accepted = []) (hs : (s.ctx c).stopped = false)
    (ha : s.cmdArrived c (s.ctx c).head.toNat = true) (hv : s.cmdValid c (s.ctx c).head.toNat = true) (hf : s.cmdFits c tail = true)
    (ht : BitVec.ofNat 12 (((s.ctx c).head.toNat + s.cmdSlots c (s.ctx c).head.toNat) % 4096) = tail)
    (hr : (s.ctx c).lastRoll + 1 = roll) :
    s.withCtx c { s.ctx c with
      head := tail, lastRoll := roll, pendingDb := none
      accepted := (s.ctx c).accepted ++ [⟨(s.ctx c).head.toNat, s.cmdSlots c (s.ctx c).head.toNat, roll,
        decide (s.cmdOpcode c (s.ctx c).head.toNat = 2)⟩] } (s.examine c 4097) := by
  have hz : ¬ ((s.ctx c).slotsTo tail = 0 ∨ (s.ctx c).stopped = true ∨ s.cmdArrived c (s.ctx c).head.toNat = false) := by
    rw [Ctx.slotsTo_eq_zero, hs, ha]
    rintro (⟨he, hne⟩ | h | h)
    · exact hw.elim (· he) hne
    · cases h
    · cases h
  rw [State.examine_succ h, if_neg (fun e => hn e.2), if_neg hz, hv, hf, if_pos (Bool.and_self true), ht, hr]
  set u := s.setCtx c _ with hu
  have own : u.ctx c = _ := s.ctx_setCtx_same c _
  have done := State.examine_succ (s := u) (c := c) (tail := tail) (roll := roll) (by rw [own]; exact h) 4095
  rw [own, if_pos ⟨rfl, rfl⟩] at done
  rw [done]
  exact (s.withCtx_setCtx c _).trans (u.withCtx_setCtx c _)

theorem State.evalDoorbell_of_invalid (h : (s.ctx c).pendingDb = some (tail, roll)) (hn : (s.ctx c).lastRoll ≠ roll)
    (hw : (s.ctx c).head ≠ tail ∨ (s.ctx c).accepted = []) (hs : (s.ctx c).stopped = false)
    (ha : s.cmdArrived c (s.ctx c).head.toNat = true) (hv : (s.cmdValid c (s.ctx c).head.toNat && s.cmdFits c tail) = false)
    (room : s.roomFor c) :
    s.withCtx c { s.ctx c with
      stopped := true, pendingDb := none
      buffer := (s.ctx c).buffer ++ [⟨doorbellReport (s.ctx c) Code.cmdInvalid tail roll, [], false, none⟩] } (s.evalDoorbell c) := by
  have hz : ¬ ((s.ctx c).slotsTo tail = 0 ∨ (s.ctx c).stopped = true ∨ s.cmdArrived c (s.ctx c).head.toNat = false) := by
    rw [Ctx.slotsTo_eq_zero, hs, ha]
    rintro (⟨he, hne⟩ | h | h)
    · exact hw.elim (· he) hne
    · cases h
    · cases h
  have posted := State.post_of_room (State.roomFor_setCtx room (x := { s.ctx c with stopped := true, pendingDb := none }) rfl rfl rfl)
    (doorbellReport (s.ctx c) Code.cmdInvalid tail roll)
  rw [s.ctx_setCtx_same] at posted
  have whole := (s.withCtx_setCtx c _).trans posted
  have examined : s.examine c 4097 =
      (s.setCtx c { s.ctx c with stopped := true, pendingDb := none }).post c (doorbellReport (s.ctx c) Code.cmdInvalid tail roll) := by
    rw [State.examine_succ h, if_neg (fun e => hn e.2), if_neg hz, hv, if_neg Bool.false_ne_true]
  rw [State.evalDoorbell_of_kept examined (by rw [whole.2.2])]
  exact whole
end

/-! ## The host's writes to the ring (R385, R390) -/

/-- Where a byte of the ring lies in a write of it from an offset on. -/
def ringPlace (a p : Nat) : Nat := (p + 262144 - a % 262144) % 262144

theorem State.writeRing_rest (bytes : List Byte) (s : State) (c a : Nat) :
    s.writeRing c a bytes = { s with host := { s.host with rings := (s.writeRing c a bytes).host.rings } } := by
  induction bytes generalizing s a with
  | nil => rfl
  | cons b bytes ih =>
    unfold State.writeRing
    split
    · exact ih s (a + 1)
    · exact (ih _ (a + 1)).trans rfl

theorem State.writeRing_elsewhere (bytes : List Byte) (s : State) (c a : Nat) {p : Nat} (h : p / 0x40000 ≠ c) :
    tget 0 (s.writeRing c a bytes).host.rings p = tget 0 s.host.rings p := by
  induction bytes generalizing s a with
  | nil => rfl
  | cons b bytes ih =>
    unfold State.writeRing
    rw [ih]
    split
    · rfl
    · exact tget_tset_ne _ _ _ (by omega)

/-- No byte of the ring is written twice, and one of a taken slot not at all. -/
theorem State.writeRing_byte (bytes : List Byte) (s : State) (c a : Nat) (hl : bytes.length ≤ 262144) {p : Nat} (hp : p < 262144) :
    tget 0 (s.writeRing c a bytes).host.rings (0x40000 * c + p) =
      if ringPlace a p < bytes.length ∧ (s.ctx c).slotTaken (p / 64) = false then bytes.getD (ringPlace a p) 0
      else tget 0 s.host.rings (0x40000 * c + p) := by
  induction bytes generalizing s a with
  | nil => rfl
  | cons b bytes ih =>
    have hl' : bytes.length < 262144 := hl
    unfold State.writeRing
    rw [ih _ (a + 1) hl'.le]
    by_cases first : a % 262144 = p
    · have here : ringPlace a p = 0 := by unfold ringPlace; omega
      have past : ¬ ringPlace (a + 1) p < bytes.length := by unfold ringPlace; omega
      have slot : a / 64 % 4096 = p / 64 := by omega
      rw [if_neg (fun h => past h.1), slot, here]
      subst first
      split
      · next taken => simp [taken]
      · next free => simp [Bool.eq_false_iff.mpr free]
    · have next : ringPlace a p = ringPlace (a + 1) p + 1 := by unfold ringPlace; omega
      have kept : ∀ u : State, (u = s ∨ u = { s with host := { s.host with rings := tset 0 s.host.rings (0x40000 * c + a % 0x40000) b } }) →
          u.ctx c = s.ctx c ∧ tget 0 u.host.rings (0x40000 * c + p) = tget 0 s.host.rings (0x40000 * c + p) := by
        rintro u (rfl | rfl)
        · exact ⟨rfl, rfl⟩
        · exact ⟨rfl, tget_tset_ne _ _ _ (by omega)⟩
      obtain ⟨ctx, byte⟩ := kept _ (ite_eq_or_eq ((s.ctx c).slotTaken (a / 64 % 4096) = true) s
        { s with host := { s.host with rings := tset 0 s.host.rings (0x40000 * c + a % 0x40000) b } })
      rw [ctx, byte, next]
      simp only [List.length_cons, Nat.add_lt_add_iff_right, List.getD_cons_succ]

/-- Whether a write of the ring meets a taken slot (R390). -/
def Ctx.meetsTaken (x : Ctx) (a n : Nat) : Bool := (List.range n).any (fun i => x.slotTaken ((a + i) / 64 % 4096))

theorem Ctx.meetsTaken_iff (x : Ctx) (a n : Nat) (hn : n ≤ 262144) :
    x.meetsTaken a n = true ↔ ∃ p, p < 262144 ∧ ringPlace a p < n ∧ x.slotTaken (p / 64) = true := by
  simp only [Ctx.meetsTaken, List.any_eq_true, List.mem_range]
  constructor
  · rintro ⟨i, hi, taken⟩
    have slot : (a + i) % 262144 / 64 = (a + i) / 64 % 4096 := by omega
    exact ⟨(a + i) % 262144, by omega, by unfold ringPlace; omega, by rwa [slot]⟩
  · rintro ⟨p, hp, hi, taken⟩
    have slot : (a + ringPlace a p) / 64 % 4096 = p / 64 := by unfold ringPlace; omega
    exact ⟨_, hi, by rwa [slot]⟩

/-! ## O46 -/

theorem State.cmdArrived_setCtx (s : State) (c h : Nat) {x : Ctx} (hx : x.lastRoll = (s.ctx c).lastRoll) :
    (s.setCtx c x).cmdArrived c h = s.cmdArrived c h := by
  unfold State.cmdArrived
  rw [s.ctx_setCtx_same, hx]
  rfl

theorem State.cmdFits_setCtx (s : State) (c : Nat) (tail : BitVec 12) {x : Ctx} (hh : x.head = (s.ctx c).head)
    (ha : x.accepted = (s.ctx c).accepted) : (s.setCtx c x).cmdFits c tail = s.cmdFits c tail := by
  unfold State.cmdFits Ctx.slotsTo
  rw [s.ctx_setCtx_same, hh, ha]
  rfl

/-- A doorbell that is heard waits in its context, and is examined there. -/
def Ctx.rungBy (x : Ctx) (v : Word64) : Ctx := { x with pendingDb := some (v.extractLsb' 0 12, v.extractLsb' 16 48) }

theorem execDoorbell_of_unheard {c : Fin 16} {v : Word64} {s : State} (h : ¬ ((s.ctx c).live = true ∧ (s.ctx c).hostLost = false ∧
    (s.ctx c).lastRoll.toNat < (v.extractLsb' 16 48 : BitVec 48).toNat)) : exec (.doorbell c v) s = .next s := by
  refine congrArg Host.Outcome.next (if_pos ?_)
  by_contra hc
  simp only [not_or, Bool.not_eq_false, Bool.not_eq_true, BitVec.le_def, not_le] at hc
  exact h hc

theorem execDoorbell_of_heard {c : Fin 16} {v : Word64} {s : State} (hl : (s.ctx c).live = true) (hh : (s.ctx c).hostLost = false)
    (hr : (s.ctx c).lastRoll.toNat < (v.extractLsb' 16 48 : BitVec 48).toNat) :
    exec (.doorbell c v) s = .next ((s.setCtx c ((s.ctx c).rungBy v)).evalDoorbell c) := by
  refine congrArg Host.Outcome.next (if_neg ?_)
  rw [hl, hh, BitVec.le_def]
  simpa using hr

theorem commandRingWrite_writes (c : Fin 16) (off : BitVec 18) (bytes : List Byte) (s : State) (hdb : (s.ctx c).pendingDb = none) :
    exec (.commandRingWrite c off bytes) s = .next { s with host := { s.host with
      rings := (s.writeRing c off.toNat bytes).host.rings
      ringDrops := if (s.ctx c).meetsTaken off.toNat bytes.length then bump s.host.ringDrops 1 else s.host.ringDrops } } := by
  have idle : ∀ u : State, u.ctx c = s.ctx c → u.evalDoorbell c = u := fun u hu => State.evalDoorbell_of_none (by rw [hu, hdb])
  have rest := State.writeRing_rest bytes s c off.toNat
  change Host.Outcome.next ((if (s.ctx c).meetsTaken off.toNat bytes.length then
    ({ s.writeRing c off.toNat bytes with host := { (s.writeRing c off.toNat bytes).host with
        ringDrops := bump (s.writeRing c off.toNat bytes).host.ringDrops 1 } } : State)
    else s.writeRing c off.toNat bytes).evalDoorbell c) = _
  generalize s.writeRing c off.toNat bytes = w at rest
  rw [idle _ (by split <;> rw [rest] <;> rfl)]
  generalize w.host.rings = r at rest
  subst rest
  split <;> rfl

theorem doorbellHoldExpiry_drops {c : Fin 16} {s : State} {tail : BitVec 12} {roll : BitVec 48}
    (h : (s.ctx c).pendingDb = some (tail, roll)) (hn : ¬ ((s.ctx c).head = tail ∧ (s.ctx c).lastRoll = roll))
    (hw : (s.ctx c).head = tail ∧ (s.ctx c).accepted ≠ [] ∨ (s.ctx c).stopped = true ∨ s.cmdArrived c (s.ctx c).head.toNat = false) :
    exec (.doorbellHoldExpiry c) s = .next (((s.setCtx c { s.ctx c with pendingDb := none }).modCfg c
      (fun y => { y with staleDoorbells := bump y.staleDoorbells 1 })).post c
        (doorbellReport (s.ctx c) Code.staleDoorbell tail roll)) := by
  unfold exec execDoorbellHoldExpiry
  simp only [State.evalDoorbell_of_waits h hn hw, h]

/-- Settles O46: what a doorbell finds at RING_HEAD decides; the ring's bytes by induction on the write. -/
theorem commandsAreAcceptedFromTheRing : Obligations.CommandsAreAcceptedFromTheRing := by
  refine ⟨fun c v s => ?_, fun c off bytes s hdb hl => ?_, fun c s => ⟨fun h => ?_, fun tail roll h hn hw room => ?_⟩, fun c newHead s => ?_⟩
  · dsimp only
    refine ⟨execDoorbell_of_unheard, fun ⟨live, host, later⟩ => ?_, fun ⟨live, host, later⟩ hw hs ha => ?_⟩
    all_goals
      rw [execDoorbell_of_heard live host later]
      have older : (s.ctx c).lastRoll ≠ v.extractLsb' 16 48 := fun e => by rw [e] at later; exact lt_irrefl _ later
      have own : (s.setCtx c ((s.ctx c).rungBy v)).ctx c = (s.ctx c).rungBy v := s.ctx_setCtx_same c _
      have arrived := fun h => s.cmdArrived_setCtx c h (x := (s.ctx c).rungBy v) rfl
      have fits := fun tail => s.cmdFits_setCtx c tail (x := (s.ctx c).rungBy v) rfl rfl
    · intro hw
      refine congrArg Host.Outcome.next (State.evalDoorbell_of_waits (by rw [own]; rfl) ?_ ?_)
      · rw [own]
        exact fun e => older e.2
      · rw [own, arrived]
        exact hw
    · refine ⟨fun hv hf ht hr => ?_, fun hvf room => ?_⟩
      · obtain ⟨rest, others, ctx⟩ := State.examine_of_valid (s := s.setCtx c ((s.ctx c).rungBy v)) (c := c)
          (by rw [own]; rfl) (by rw [own]; exact older) (by rw [own]; exact hw) (by rw [own]; exact hs)
          (by rw [own, arrived]; exact ha) (by rw [own]; exact hv) (by rw [fits]; exact hf) (by rw [own]; exact ht)
          (by rw [own]; exact hr)
        refine ⟨_, rest, fun i hi => (others i hi).trans (s.ctx_setCtx_ne _ hi), ctx.trans (by rw [own]; rfl), ?_⟩
        unfold State.evalDoorbell
        rw [own]
        rfl
      · obtain ⟨rest, others, ctx⟩ := State.evalDoorbell_of_invalid (s := s.setCtx c ((s.ctx c).rungBy v)) (c := c)
          (by rw [own]; rfl) (by rw [own]; exact older) (by rw [own]; exact hw) (by rw [own]; exact hs)
          (by rw [own, arrived]; exact ha) (by rw [own, fits]; exact hvf) (State.roomFor_setCtx room rfl rfl rfl)
        exact ⟨_, rfl, rest, fun i hi => (others i hi).trans (s.ctx_setCtx_ne _ hi), ctx.trans (by rw [own]; rfl)⟩
  · dsimp only
    have mod : off.toNat % 262144 = off.toNat := Nat.mod_eq_of_lt off.isLt
    have place : ∀ p, ringPlace off.toNat p = (p + 262144 - off.toNat) % 262144 := fun p => by rw [ringPlace, mod]
    have meets := (s.ctx c).meetsTaken_iff off.toNat bytes.length hl
    simp only [place] at meets
    refine ⟨_, commandRingWrite_writes c off bytes s hdb, fun a ha => ?_, fun a ha => State.writeRing_elsewhere bytes s c off.toNat ha,
      fun h => if_pos (meets.mpr h), fun h => if_neg (fun hm => ?_), rfl⟩
    · have byte := State.writeRing_byte bytes s c off.toNat hl ha
      simp only [place] at byte
      exact byte
    · obtain ⟨a, ha, hp, taken⟩ := meets.mp hm
      rw [h a ha hp] at taken
      cases taken
  · unfold exec execDoorbellHoldExpiry
    simp only [State.evalDoorbell_of_none h, h]
  · refine ⟨_, doorbellHoldExpiry_drops h hn hw, ?_⟩
    have room' : ((s.setCtx c { s.ctx c with pendingDb := none }).modCfg c
        (fun y => { y with staleDoorbells := bump y.staleDoorbells 1 })).roomFor c := State.roomFor_setCtx room rfl rfl rfl
    obtain ⟨rest, others, ctx⟩ := State.post_of_room room' (doorbellReport (s.ctx c) Code.staleDoorbell tail roll)
    generalize State.post _ c.val (doorbellReport (s.ctx c) Code.staleDoorbell tail roll) = t at rest others ctx
    rw [State.ctx_modCfg, s.ctx_setCtx_same] at ctx
    have cfg : ∀ i, t.cfg i = (s.modCfg c (fun y => { y with staleDoorbells := bump y.staleDoorbells 1 })).cfg i := fun i => by
      rw [rest]; rfl
    refine ⟨?_, (cfg c).trans (s.cfg_modCfg_same c _),
      fun i hi => ⟨(others i hi).trans (s.ctx_setCtx_ne _ hi), (cfg i).trans (s.cfg_modCfg_ne _ hi)⟩, ctx⟩
    rw [rest]
    rfl
  · dsimp only
    refine ⟨fun ⟨live, head, db⟩ => ⟨_, congrArg Host.Outcome.next (if_neg ?_), s.withCtx_setCtx c _ |>.1, s.ctx_setCtx_same c _,
      fun i hi => s.ctx_setCtx_ne _ hi⟩, fun h => congrArg Host.Outcome.next (if_pos ?_)⟩
    · simp [live, head, db]
    · by_contra hc
      simp only [not_or, Bool.not_eq_false, not_not, Option.isSome_iff_ne_none] at hc
      exact h hc

end Sys2Proof.Machine
end

section
/-! PROOF. O56 refuted: PWR_BUDGET written while the brake is asserted changes the budget in force (R479). -/

namespace Sys2Proof.Machine

/-- A running module with PWR_BRAKE_n asserted: PWR_BUDGET 700 W, BRAKE_BUDGET 500 W, G at 500 W. -/
def brakedState : State := { State.reset with
  boot := { State.reset.boot with auxGood := true, stage := 7, pwrBrakeN := false }
  mgmt := { State.reset.mgmt with nmt := .operational }
  pow := { State.reset.pow with budget := 700, brakeBudget := 500, g := 500000 } }

/-- 300 W may be written on either part (R6). -/
theorem budgetOk_300 : budgetOk 300 = true := by
  unfold budgetOk budgetTop
  split <;> decide

theorem brakedState_takes_budget : brakedState.odWriteAbort none 0x2201 0 (bytesOf 2 (300 : BitVec 16)) = Abort.none := by
  have inRange : brakedState.odRange 0x2201 0 (leNat (bytesOf 2 (300 : BitVec 16))) = true := budgetOk_300
  have entries : ∃ es e, odEntries 0x2201 = some es ∧ odEntry 0x2201 0 = some e ∧ ¬ (e.acc = .const ∨ e.acc = .ro) ∧ e.ty = .num 2 :=
    ⟨_, _, rfl, rfl, by decide, rfl⟩
  obtain ⟨es, e, hes, he, writable, ty⟩ := entries
  have len : (bytesOf 2 (300 : BitVec 16)).length = 2 := rfl
  have allowed : brakedState.odAllowed none 0x2201 0 (leNat (bytesOf 2 (300 : BitVec 16))) = true := rfl
  have available : brakedState.odAvailable 0x2201 0 = true := rfl
  simp only [State.odWriteAbort, hes, he, if_neg writable, ty, len, inRange, allowed, available, ne_eq, not_true_eq_false, if_false,
    Bool.true_eq_false]

/-- The budget in force is the lower of the two (R479): it falls from 500 W to 300 W, and G with it (R481). -/
theorem brakedState_budgetWrite : ∃ t, exec (.pwrBudgetWrite false 300) brakedState = .next t ∧ t.pow.g = 300000 := by
  refine ⟨_, rfl, ?_⟩
  have up : brakedState.usdoUp = true := by decide
  have written : brakedState.odWrite none 0x2201 0 (bytesOf 2 (300 : BitVec 16)) =
      (Abort.none, brakedState.odSet none 0x2201 0 300) := by
    unfold State.odWrite
    rw [brakedState_takes_budget]
    rfl
  change (brakedState.operatorWrite 0x2201 0 (bytesOf 2 (300 : BitVec 16))).pow.g = 300000
  unfold State.operatorWrite State.usdoWrite
  rw [up, written]
  decide

/-- Refutes O56: its clause of PWR_BUDGET takes a write under the brake to leave the budget in force, the lower of PWR_BUDGET and
BRAKE_BUDGET (R479), as it is; a PWR_BUDGET of 300 W under a BRAKE_BUDGET of 500 W makes it 300 W. -/
theorem not_dictionaryCommandsAct : ¬ Obligations.DictionaryCommandsAct := by
  rintro ⟨-, -, writes⟩
  obtain ⟨-, -, -, -, -, -, -, -, -, -, -, -, -, -, -, -, budget, -⟩ := writes brakedState (by decide) (by decide)
  obtain ⟨t, ht, -, ⟨kept, -⟩, -⟩ := budget false 300 budgetOk_300
  obtain ⟨u, hu, falls⟩ := brakedState_budgetWrite
  obtain rfl : u = t := by
    rw [ht] at hu
    injection hu with hu
    exact hu.symm
  have : u.pow.g = brakedState.pow.g := (kept rfl).1
  rw [falls] at this
  exact absurd this (by decide)

end Sys2Proof.Machine
end

section
/-! PROOF. O23: results in flight become visible (R59 to R61), or a late line holds the boundary before them (R63, R64). -/

namespace Sys2Proof.Machine

/-! ## The earliest result -/

theorem firstDue_foldl (ds : List Due) (n : Nat) :
    ∃ b, ds.foldl (fun acc d => match acc with
      | none => some d.due
      | some n => some (min n d.due)) (some n) = some b ∧ b ≤ n ∧ (∀ d ∈ ds, b ≤ d.due) := by
  induction ds generalizing n with
  | nil => exact ⟨n, rfl, le_rfl, by simp⟩
  | cons d ds ih =>
    obtain ⟨b, hb, hn, hds⟩ := ih (min n d.due)
    refine ⟨b, hb, by omega, ?_⟩
    rintro e (_ | ⟨_, he⟩)
    · omega
    · exact hds e he

/-- No result is due before the earliest. -/
theorem firstDue_le {ds : List Due} {b : Nat} (h : firstDue ds = some b) : ∀ d ∈ ds, b ≤ d.due := by
  cases ds with
  | nil => simp
  | cons d ds =>
    obtain ⟨b', hb, hn, hds⟩ := firstDue_foldl ds d.due
    obtain rfl : b' = b := by
      have : some b' = some b := hb.symm.trans h
      injection this
    rintro e (_ | ⟨_, he⟩)
    · exact hn
    · exact hds e he

theorem firstDue_mem {ds : List Due} {b : Nat} (h : firstDue ds = some b) : ∃ d ∈ ds, d.due = b := by
  have attained : ∀ (ds : List Due) (n b : Nat), ds.foldl (fun acc d => match acc with
      | none => some d.due
      | some n => some (min n d.due)) (some n) = some b → b = n ∨ ∃ d ∈ ds, d.due = b := by
    intro ds
    induction ds with
    | nil => exact fun n b h => Or.inl (Option.some.inj h).symm
    | cons d ds ih =>
      intro n b h
      obtain rfl | ⟨e, he, hb⟩ := ih _ b h
      · rcases Nat.le_total n d.due with hle | hle
        · exact Or.inl (min_eq_left hle)
        · exact Or.inr ⟨d, by simp, (min_eq_right hle).symm⟩
      · exact Or.inr ⟨e, by simp [he], hb⟩
  cases ds with
  | nil => cases h
  | cons d ds =>
    obtain rfl | ⟨e, he, hb⟩ := attained ds d.due b h
    · exact ⟨d, by simp, rfl⟩
    · exact ⟨e, by simp [he], hb⟩

theorem State.visible_of_later {s : State} {q beat : Nat} (h : ∀ d ∈ (s.quad q).dues, beat < d.due) (n : Nat) : s.visible q beat n = s := by
  cases n with
  | zero => rfl
  | succ n =>
    simp only [State.visible]
    split
    · rfl
    · next b hb =>
      obtain ⟨d, hd, rfl⟩ := firstDue_mem hb
      rw [if_pos (h d hd)]

theorem State.mergeDue_of_later {s : State} {q beat : Nat} (h : ∀ m ∈ (s.quad q).masked, beat < m.due) : s.mergeDue q beat = s := by
  have none : (s.quad q).masked.filter (fun m => decide (m.due ≤ beat)) = [] :=
    List.filter_eq_nil_iff.mpr fun m hm => by simpa using h m hm
  unfold State.mergeDue
  rw [none]
  rfl

/-! ## The accounts of time in one quadrant -/

/-- A quadrant without its accounts of time, rate and recess. -/
def Quad.timeless (x : Quad) : Quad :=
  { x with sat := [], holdLen := 0, holdCode := 0, rateK := 0, rateSeen := 0, idle := 0, sinceRecess := 0 }

/-- The second state is the first but for the accounts of one quadrant. -/
def State.accounted (s : State) (q : Nat) (t : State) : Prop :=
  t = { s with quads := t.quads } ∧ (∀ p, p ≠ q → t.quad p = s.quad p) ∧ (t.quad q).timeless = (s.quad q).timeless

theorem State.accounted_refl (s : State) (q : Nat) : s.accounted q s := ⟨rfl, fun _ _ => rfl, rfl⟩

theorem State.accounted.trans {s t u : State} {q : Nat} (h : s.accounted q t) (h' : t.accounted q u) : s.accounted q u := by
  obtain ⟨rest, others, own⟩ := h
  obtain ⟨rest', others', own'⟩ := h'
  refine ⟨?_, fun p hp => (others' p hp).trans (others p hp), own'.trans own⟩
  rw [rest] at rest'
  exact rest'

theorem State.accounted_setQuad {s : State} {q : Nat} {x : Quad} (h : x.timeless = (s.quad q).timeless) : s.accounted q (s.setQuad q x) :=
  ⟨rfl, fun _ hp => s.quad_setQuad_ne x hp, by rw [s.quad_setQuad_same, h]⟩

theorem State.accounted_modQuad (s : State) (q : Nat) {f : Quad → Quad} (h : ∀ x, (f x).timeless = x.timeless) :
    s.accounted q (s.modQuad q f) := State.accounted_setQuad (h _)

theorem State.accounted_account (s : State) (q code n : Nat) : s.accounted q (s.account q code n) :=
  s.accounted_modQuad q (fun _ => rfl)

theorem Quad.hold_timeless (x : Quad) (code n : Nat) : (x.hold code n).timeless = x.timeless := by
  unfold Quad.hold
  split <;> rfl

theorem State.accounted_endHold (s : State) (q : Nat) : s.accounted q (s.endHold q) := by
  unfold State.endHold
  dsimp only
  split
  · exact s.accounted_refl q
  · exact (s.accounted_account q _ _).trans (State.accounted_modQuad _ q (fun _ => rfl))

theorem State.accounted_passRate (s : State) (q n : Nat) (assigned : Bool) : s.accounted q (s.passRate q n assigned) := by
  have set : ∀ k r, s.accounted q (s.setQuad q { s.quad q with rateK := k, rateSeen := r }) := fun k r => State.accounted_setQuad rfl
  unfold State.passRate
  dsimp only
  split
  · exact ((set _ _).trans (State.accounted_account _ q _ _)).trans (State.accounted_modQuad _ q (fun x => x.hold_timeless _ _))
  · exact set _ _

/-- What stays of a quadrant whose accounts alone have changed. -/
theorem Quad.of_timeless {x y : Quad} (h : y.timeless = x.timeless) :
    y.slots = x.slots ∧ y.outs = x.outs ∧ y.dues = x.dues ∧ y.masked = x.masked ∧ y.beat = x.beat :=
  ⟨congrArg (·.slots) h, congrArg (·.outs) h, congrArg (·.dues) h, congrArg (·.masked) h, congrArg (·.beat) h⟩

/-! ## The files that results write -/

/-- Two states agree in what results of a quadrant read and write. -/
def State.sameFiles (q : Nat) (s t : State) : Prop :=
  t.units = s.units ∧ (t.quad q).slots = (s.quad q).slots ∧ (t.quad q).outs = (s.quad q).outs

theorem State.sameFiles.slot {q : Nat} {s t : State} (h : s.sameFiles q t) (i : Nat) : t.slot q i = s.slot q i :=
  congrArg (fun x : Table Slot => tget Slot.init x i) h.2.1

theorem State.sameFiles.unit {q : Nat} {s t : State} (h : s.sameFiles q t) (u : Nat) : t.unit u = s.unit u :=
  congrArg (fun x : Table BankUnit => tget BankUnit.init x u) h.1

theorem State.sameFiles.modUnit {q : Nat} {s t : State} (h : s.sameFiles q t) (u : Nat) {f g : BankUnit → BankUnit} (hf : g = f) :
    (s.modUnit u f).sameFiles q (t.modUnit u g) := by
  have own := h.unit u
  obtain ⟨units, slots, outs⟩ := h
  refine ⟨?_, slots, outs⟩
  unfold State.modUnit
  rw [own, units, hf]

theorem State.sameFiles.modQuad {q : Nat} {s t : State} (h : s.sameFiles q t) {f g : Quad → Quad}
    (hf : (g (t.quad q)).slots = (f (s.quad q)).slots ∧ (g (t.quad q)).outs = (f (s.quad q)).outs) :
    (s.modQuad q f).sameFiles q (t.modQuad q g) := by
  refine ⟨h.1, ?_, ?_⟩
  · rw [State.quad_modQuad_same, State.quad_modQuad_same, hf.1]
  · rw [State.quad_modQuad_same, State.quad_modQuad_same, hf.2]

/-- The second state is the first but for units and the slots and OUT issues of one quadrant. -/
def State.visibly (s : State) (q : Nat) (t : State) : Prop :=
  t = { s with units := t.units, quads := t.quads } ∧ (∀ p, p ≠ q → t.quad p = s.quad p) ∧
    t.quad q = { s.quad q with slots := (t.quad q).slots, outs := (t.quad q).outs }

theorem State.visibly_refl (s : State) (q : Nat) : s.visibly q s := ⟨rfl, fun _ _ => rfl, rfl⟩

theorem State.visibly.trans {s t u : State} {q : Nat} (h : s.visibly q t) (h' : t.visibly q u) : s.visibly q u := by
  obtain ⟨rest, others, own⟩ := h
  obtain ⟨rest', others', own'⟩ := h'
  refine ⟨?_, fun p hp => (others' p hp).trans (others p hp), ?_⟩
  · rw [rest] at rest'
    exact rest'
  · rw [own] at own'
    exact own'

theorem State.visibly_modUnit (s : State) (q u : Nat) (f : BankUnit → BankUnit) : s.visibly q (s.modUnit u f) :=
  ⟨rfl, fun _ _ => rfl, rfl⟩

theorem State.visibly_modQuad {s : State} {q : Nat} {f : Quad → Quad}
    (h : f (s.quad q) = { s.quad q with slots := (f (s.quad q)).slots, outs := (f (s.quad q)).outs }) : s.visibly q (s.modQuad q f) := by
  refine ⟨rfl, fun _ hp => s.quad_modQuad_ne f hp, ?_⟩
  rw [s.quad_modQuad_same]
  exact h

/-- A write of a result depends on the files and changes nothing else. -/
theorem State.applyWrite_sameFiles {q : Nat} {pre pre' s t : State} (hp : pre.sameFiles q pre') (h : s.sameFiles q t) (sl : Nat)
    (w : DueWrite) : (pre.applyWrite s q sl w).sameFiles q (pre'.applyWrite t q sl w) := by
  cases w with
  | latch u e c => exact h.modUnit u rfl
  | scale u x l => exact h.modUnit u rfl
  | accAdd u e v p => exact h.modUnit u (by rw [hp.unit, hp.slot])
  | accSet u e v p => exact h.modUnit u rfl
  | line u l m d mark => exact h.modUnit u (by rw [h.unit, h.slot])
  | wmask u x m => exact h.modUnit u rfl
  | pointer x =>
    refine h.modQuad ⟨?_, h.2.2⟩
    change tset _ (t.quad q).slots x _ = tset _ (s.quad q).slots x _
    rw [show (t.quad q).slot x = (s.quad q).slot x from h.slot x, h.2.1]
  | out i us => exact h.modQuad ⟨h.2.1, congrArg (· ++ [i]) h.2.2⟩

theorem State.applyWrite_visibly (pre s : State) (q sl : Nat) (w : DueWrite) : s.visibly q (pre.applyWrite s q sl w) := by
  have slot : ∀ x f, s.visibly q (s.modSlot q x f) := fun x f => State.visibly_modQuad rfl
  have outs : ∀ i, s.visibly q (s.modQuad q (fun x => { x with outs := x.outs ++ [i] })) := fun i => State.visibly_modQuad rfl
  unfold State.applyWrite
  cases w with
  | pointer x => exact slot _ _
  | out i us => exact outs i
  | _ => exact s.visibly_modUnit q _ _

/-- The writes of the results of one beat, each reading what was there before the beat in pre. -/
def State.applyDues (pre s : State) (q : Nat) (ds : List Due) : State :=
  ds.foldl (fun s' d => d.writes.foldl (fun s'' w => pre.applyWrite s'' q d.slot w) s') s

theorem State.applyBeat_eq (s : State) (q : Nat) (ds : List Due) :
    s.applyBeat q ds = s.applyDues s q (sortDues (ds.filter (fun d => (s.slot q d.slot).st != .resetting))) := rfl

theorem State.applyDues_sameFiles {q : Nat} {pre pre' : State} (hp : pre.sameFiles q pre') (ds : List Due) {s t : State}
    (h : s.sameFiles q t) : (pre.applyDues s q ds).sameFiles q (pre'.applyDues t q ds) := by
  have writes : ∀ (sl : Nat) (ws : List DueWrite) (s t : State), s.sameFiles q t →
      (ws.foldl (fun s'' w => pre.applyWrite s'' q sl w) s).sameFiles q (ws.foldl (fun s'' w => pre'.applyWrite s'' q sl w) t) := by
    intro sl ws
    induction ws with
    | nil => exact fun s t h => h
    | cons w ws ih => exact fun s t h => ih _ _ (State.applyWrite_sameFiles hp h sl w)
  induction ds generalizing s t with
  | nil => exact h
  | cons d ds ih => exact ih (writes d.slot d.writes s t h)

theorem State.applyBeat_sameFiles {q : Nat} {s t : State} (h : s.sameFiles q t) (ds : List Due) :
    (s.applyBeat q ds).sameFiles q (t.applyBeat q ds) := by
  rw [State.applyBeat_eq, State.applyBeat_eq]
  simp only [h.slot]
  exact State.applyDues_sameFiles h _ h

theorem State.applyBeat_visibly (s : State) (q : Nat) (ds : List Due) : s.visibly q (s.applyBeat q ds) := by
  rw [State.applyBeat_eq]
  refine State.foldl_holds (fun t => s.visibly q t) _ (fun t d h => ?_) _ s (s.visibly_refl q)
  exact State.foldl_holds (fun t => s.visibly q t) _ (fun t w h => h.trans (s.applyWrite_visibly t q d.slot w)) _ t h

/-! ## Beats pass in which no word issues -/

/-- The results due from beat b on, and those due in it. -/
def Quad.duesBut (x : Quad) (b : Nat) : List Due := x.dues.filter (fun d => decide (d.due ≠ b))
def Quad.duesAt (x : Quad) (b : Nat) : List Due := x.dues.filter (fun d => decide (d.due = b))

theorem State.visible_of_due {s : State} {q b : Nat} (h : firstDue (s.quad q).dues = some b) :
    s.visible q b (s.quad q).dues.length =
      (s.modQuad q (fun x => { x with dues := (s.quad q).duesBut b })).applyBeat q ((s.quad q).duesAt b) := by
  obtain ⟨d, hd, -⟩ := firstDue_mem h
  obtain ⟨n, hn⟩ : ∃ n, (s.quad q).dues.length = n + 1 := Nat.exists_eq_succ_of_ne_zero (List.length_pos_of_mem hd).ne'
  rw [hn]
  simp only [State.visible, h, gt_iff_lt, lt_irrefl, if_false]
  refine State.visible_of_later ?_ n
  obtain ⟨-, -, own⟩ := State.applyBeat_visibly (s.modQuad q (fun x => { x with dues := (s.quad q).duesBut b })) q ((s.quad q).duesAt b)
  intro e he
  have listed : e ∈ (s.quad q).duesBut b := by
    rw [State.quad_modQuad_same] at own
    have dues : Quad.dues _ = (s.quad q).duesBut b := congrArg (·.dues) own
    exact dues ▸ he
  obtain ⟨mem, ne⟩ := List.mem_filter.mp listed
  have := firstDue_le h e mem
  simp only [ne_eq, decide_not, Bool.not_eq_eq_eq_not, Bool.not_true, decide_eq_false_iff_not] at ne
  omega

/-- A beat of the quadrant is taken, before what is due in it acts. -/
def State.toBeat (s : State) (q b : Nat) : State := (s.endHold q).modQuad q (fun x => { x with beat := max x.beat b })

theorem State.startBeat_eq (s : State) (q b : Nat) :
    s.startBeat q b = ((s.toBeat q b).visible q b ((s.toBeat q b).quad q).dues.length).mergeDue q b := rfl

theorem State.toBeat_keeps {s : State} {q b : Nat} (hb : (s.quad q).beat ≤ b) :
    s.toBeat q b = { s with quads := (s.toBeat q b).quads } ∧ (∀ p, p ≠ q → (s.toBeat q b).quad p = s.quad p) ∧
      ((s.toBeat q b).quad q).slots = (s.quad q).slots ∧ ((s.toBeat q b).quad q).outs = (s.quad q).outs ∧
      ((s.toBeat q b).quad q).dues = (s.quad q).dues ∧ ((s.toBeat q b).quad q).masked = (s.quad q).masked ∧
      ((s.toBeat q b).quad q).beat = b := by
  obtain ⟨rest, others, own⟩ := s.accounted_endHold q
  obtain ⟨slots, outs, dues, masked, beat⟩ := Quad.of_timeless own
  have same : (s.toBeat q b).quad q = { (s.endHold q).quad q with beat := max ((s.endHold q).quad q).beat b } :=
    State.quad_modQuad_same _ q _
  refine ⟨?_, fun p hp => ((s.endHold q).quad_modQuad_ne _ hp).trans (others p hp), ?_⟩
  · unfold State.toBeat
    rw [rest]
    rfl
  · rw [same]
    exact ⟨slots, outs, dues, masked, by rw [beat]; exact max_eq_right hb⟩

/-- A beat in which results are due, and no masked write. -/
theorem State.startBeat_of_due {s : State} {q b : Nat} (h : firstDue (s.quad q).dues = some b) (hb : (s.quad q).beat ≤ b)
    (hm : ∀ m ∈ (s.quad q).masked, b < m.due) :
    ((s.modQuad q (fun x => { x with dues := (s.quad q).duesBut b })).applyBeat q ((s.quad q).duesAt b)).sameFiles q (s.startBeat q b) ∧
    ((s.startBeat q b).quad q).dues = (s.quad q).duesBut b ∧ ((s.startBeat q b).quad q).beat = b ∧
    ((s.startBeat q b).quad q).masked = (s.quad q).masked ∧ (∀ p, p ≠ q → (s.startBeat q b).quad p = s.quad p) ∧
    s.startBeat q b = { s with units := (s.startBeat q b).units, quads := (s.startBeat q b).quads } := by
  obtain ⟨rest, others, slots, outs, dues, masked, beat⟩ := State.toBeat_keeps hb
  have files : s.sameFiles q (s.toBeat q b) := ⟨by rw [rest], slots, outs⟩
  rw [State.startBeat_eq]
  generalize s.toBeat q b = u at rest others slots outs dues masked beat files
  have butSame : (u.quad q).duesBut b = (s.quad q).duesBut b := by rw [Quad.duesBut, dues]; rfl
  have atSame : (u.quad q).duesAt b = (s.quad q).duesAt b := by rw [Quad.duesAt, dues]; rfl
  rw [State.visible_of_due (by rw [dues]; exact h), butSame, atSame]
  have applied := State.applyBeat_sameFiles (files.modQuad (f := fun x => { x with dues := (s.quad q).duesBut b })
    (g := fun x => { x with dues := (s.quad q).duesBut b }) ⟨slots, outs⟩) ((s.quad q).duesAt b)
  obtain ⟨rest', others', own'⟩ := State.applyBeat_visibly (u.modQuad q (fun x => { x with dues := (s.quad q).duesBut b })) q
    ((s.quad q).duesAt b)
  generalize (u.modQuad q (fun x => { x with dues := (s.quad q).duesBut b })).applyBeat q ((s.quad q).duesAt b) = v at applied rest' others' own'
  rw [State.quad_modQuad_same] at own'
  have kept : (v.quad q).masked = (s.quad q).masked := by rw [own']; exact masked
  rw [State.mergeDue_of_later (by rw [kept]; exact hm)]
  refine ⟨applied, by rw [own'], by rw [own']; exact beat, kept, fun p hp => ?_, ?_⟩
  · rw [others' p hp, State.quad_modQuad_ne _ _ hp, others p hp]
  · rw [rest] at rest'
    exact rest'

/-- A beat in which nothing is due. -/
theorem State.startBeat_of_none {s : State} {q b : Nat} (h : ∀ d ∈ (s.quad q).dues, b < d.due) (hm : ∀ m ∈ (s.quad q).masked, b < m.due)
    (hb : (s.quad q).beat ≤ b) : s.startBeat q b = s.toBeat q b := by
  obtain ⟨-, -, -, -, dues, masked, -⟩ := State.toBeat_keeps hb
  rw [State.startBeat_eq, State.visible_of_later (by rw [dues]; exact h), State.mergeDue_of_later (by rw [masked]; exact hm)]

/-- The second state is the first but for the accounts of one quadrant and of its slots. -/
def State.idled (s : State) (q : Nat) (t : State) : Prop :=
  t = { s with quads := t.quads } ∧ (∀ p, p ≠ q → t.quad p = s.quad p) ∧ (t.quad q).outs = (s.quad q).outs ∧
    (t.quad q).dues = (s.quad q).dues ∧ (t.quad q).masked = (s.quad q).masked ∧ (t.quad q).beat = (s.quad q).beat ∧
    ∀ i, t.slot q i = { s.slot q i with sinceRecess := (t.slot q i).sinceRecess }

theorem State.idled.trans {s t u : State} {q : Nat} (h : s.idled q t) (h' : t.idled q u) : s.idled q u := by
  obtain ⟨rest, others, outs, dues, masked, beat, slots⟩ := h
  obtain ⟨rest', others', outs', dues', masked', beat', slots'⟩ := h'
  refine ⟨?_, fun p hp => (others' p hp).trans (others p hp), outs'.trans outs, dues'.trans dues, masked'.trans masked,
    beat'.trans beat, fun i => ?_⟩
  · rw [rest] at rest'
    exact rest'
  · have := slots' i
    rw [slots i] at this
    exact this

theorem State.accounted.idled {s t : State} {q : Nat} (h : s.accounted q t) : s.idled q t := by
  obtain ⟨rest, others, own⟩ := h
  obtain ⟨slots, outs, dues, masked, beat⟩ := Quad.of_timeless own
  refine ⟨rest, others, outs, dues, masked, beat, fun i => ?_⟩
  have : t.slot q i = s.slot q i := congrArg (fun x : Table Slot => tget Slot.init x i) slots
  rw [this]

theorem State.idled_modSlot (s : State) (q sl : Nat) {f : Slot → Slot} (h : ∀ y, f y = { y with sinceRecess := (f y).sinceRecess }) :
    s.idled q (s.modSlot q sl f) := by
  have own : (s.modSlot q sl f).quad q = (s.quad q).modSlot sl f := State.quad_modQuad_same _ q _
  refine ⟨rfl, fun p hp => s.quad_modQuad_ne _ hp, ?_, ?_, ?_, ?_, fun i => ?_⟩
  any_goals rw [own]; rfl
  by_cases hi : i = sl
  · subst hi
    rw [State.slot_modSlot_same]
    exact h _
  · have : (s.modSlot q sl f).slot q i = s.slot q i := by
      unfold State.slot
      rw [own]
      exact Quad.slot_setSlot_ne _ _ hi
    rw [this]

theorem State.idled_idleBeats (s : State) (q n : Nat) : (s.startBeat q ((s.quad q).beat + n)).idled q (s.idleBeats q n) := by
  unfold State.idleBeats
  dsimp only
  generalize s.startBeat q ((s.quad q).beat + n) = v
  have passed := v.accounted_passRate q n ((v.quad q).stretching && (v.quad q).inPlace.isNone)
  generalize v.passRate q n ((v.quad q).stretching && (v.quad q).inPlace.isNone) = u at passed ⊢
  refine passed.idled.trans (State.idled.trans ?_ (State.accounted.idled (State.accounted_modQuad _ q ?_)))
  · split
    · exact u.idled_modSlot q _ (fun _ => rfl)
    · exact (u.accounted_refl q).idled
  · exact fun _ => rfl

/-! ## Late lines -/

/-- Late lines are counted by their units (R63). -/
def State.countLate (s : State) (us : List Nat) : State :=
  us.foldl (fun (s : State) u => s.modUnit u (fun b => { b with ev := { b.ev with late := satInc b.ev.late } })) s

theorem State.countLate_rest (s : State) (us : List Nat) : s.countLate us = { s with units := (s.countLate us).units } := by
  refine State.foldl_holds (fun t => t = { s with units := t.units }) _ (fun t u h => ?_) us s rfl
  rw [h]
  rfl

theorem State.countLate_unit (us : List Nat) (h : us.Nodup) (s : State) (u : Nat) :
    (s.countLate us).unit u =
      if u ∈ us then { s.unit u with ev := { (s.unit u).ev with late := satInc (s.unit u).ev.late } } else s.unit u := by
  induction us generalizing s with
  | nil => rfl
  | cons v us ih =>
    obtain ⟨hv, hus⟩ := List.nodup_cons.mp h
    refine (ih hus _).trans ?_
    by_cases hu : u = v
    · subst hu
      simp [hv]
    · simp [hu, State.unit_modUnit_ne _ _ hu]

theorem State.lateBeat_range {s : State} {q n l : Nat} {late : List Nat} (h : s.lateBeat q n late = some l) :
    (s.quad q).beat < l ∧ l ≤ (s.quad q).beat + n := by
  obtain ⟨i, hi, rfl⟩ := List.mem_map.mp (List.mem_of_find?_eq_some h)
  have := List.mem_range.mp hi
  omega

/-! ## O23 -/

section
variable {q : Fin 4} {late : List Nat} {s : State} {b : Nat}

theorem execResultVisible_in_time (hh : s.holding q = false) (hr : (s.quad q).recessLeft = 0) (hd : firstDue (s.quad q).dues = some b)
    (hl : s.lateBeat q (b - (s.quad q).beat) late = none) :
    exec (.resultVisible ⟨q, late⟩) s = .next (s.idleBeats q (b - (s.quad q).beat)) := by
  unfold exec execResultVisible
  simp only [hh, hr, hd, hl, Bool.false_eq_true, if_false, ne_eq, not_true_eq_false]

theorem execResultVisible_late {l : Nat} (hh : s.holding q = false) (hr : (s.quad q).recessLeft = 0)
    (hd : firstDue (s.quad q).dues = some b) (hl : s.lateBeat q (b - (s.quad q).beat) late = some l) :
    exec (.resultVisible ⟨q, late⟩) s = .next ((s.idleBeats q (l - 1 - (s.quad q).beat)).raiseLate q (s.lateUnits q l late)) := by
  unfold exec execResultVisible
  simp only [hh, hr, hd, hl, Bool.false_eq_true, if_false, ne_eq, not_true_eq_false]

theorem resultVisible_shows (hh : s.holding q = false) (hr : (s.quad q).recessLeft = 0) (hd : firstDue (s.quad q).dues = some b)
    (hb : (s.quad q).beat ≤ b) (hm : ∀ m ∈ (s.quad q).masked, b < m.due) (hl : s.lateBeat q (b - (s.quad q).beat) late = none) :
    ∃ t, exec (.resultVisible ⟨q, late⟩) s = .next t ∧
      (let r := (s.modQuad q (fun x => { x with dues := x.dues.filter (fun d => decide (d.due ≠ b)) })).applyBeat q
        ((s.quad q).dues.filter (fun d => decide (d.due = b)))
       (∀ u, t.unit u = r.unit u) ∧ (t.quad q).outs = (r.quad q).outs ∧
       ∀ i, t.slot q i = { r.slot q i with sinceRecess := (t.slot q i).sinceRecess }) ∧
      (t.quad q).dues = (s.quad q).dues.filter (fun d => decide (d.due ≠ b)) ∧ (t.quad q).beat = b ∧
      (t.quad q).masked = (s.quad q).masked ∧ (∀ p, p ≠ q.val → t.quad p = s.quad p) ∧
      t = { s with units := t.units, quads := t.quads } := by
  have shown := State.startBeat_of_due hd hb hm
  have idle := s.idled_idleBeats q (b - (s.quad q).beat)
  rw [Nat.add_sub_cancel' hb] at idle
  refine ⟨_, execResultVisible_in_time hh hr hd hl, ?_⟩
  generalize s.idleBeats q (b - (s.quad q).beat) = t at idle ⊢
  generalize s.startBeat q b = v at shown idle
  obtain ⟨files, dues, beat, masked, others, rest⟩ := shown
  obtain ⟨rest', others', outs', dues', masked', beat', slots'⟩ := idle
  refine ⟨⟨fun u => ?_, outs'.trans files.2.2, fun i => ?_⟩, dues'.trans dues, beat'.trans beat, masked'.trans masked,
    fun p hp => (others' p hp).trans (others p hp), ?_⟩
  · refine Eq.trans ?_ (files.unit u)
    rw [rest']
    rfl
  · have := slots' i
    rw [files.slot i] at this
    exact this
  · rw [rest] at rest'
    exact rest'.trans (by rw [rest'])

theorem resultVisible_late (hh : s.holding q = false) (hr : (s.quad q).recessLeft = 0) (hd : firstDue (s.quad q).dues = some b)
    (hm : ∀ m ∈ (s.quad q).masked, b < m.due) {l : Nat} (hl : s.lateBeat q (b - (s.quad q).beat) late = some l) :
    ∃ t, exec (.resultVisible ⟨q, late⟩) s = .next t ∧
      (t.quad q).late = s.lateUnits q l late ∧ (t.quad q).held = true ∧ (t.quad q).beat = l - 1 ∧
      (t.quad q).dues = (s.quad q).dues ∧ (t.quad q).masked = (s.quad q).masked ∧ (t.quad q).outs = (s.quad q).outs ∧
      (late.Nodup → ∀ u, t.unit u = if u ∈ s.lateUnits q l late
        then { s.unit u with ev := { (s.unit u).ev with late := satInc (s.unit u).ev.late } } else s.unit u) ∧
      (∀ p, p ≠ q.val → t.quad p = s.quad p) ∧ t = { s with units := t.units, quads := t.quads } := by
  obtain ⟨past, upto⟩ := State.lateBeat_range hl
  have now : (s.quad q).beat ≤ l - 1 := by omega
  have before := State.startBeat_of_none (s := s) (q := q) (b := l - 1) (fun d hd' => by have := firstDue_le hd d hd'; omega)
    (fun m hm' => by have := hm m hm'; omega) now
  have taken := State.toBeat_keeps (s := s) now
  have idle := s.idled_idleBeats q (l - 1 - (s.quad q).beat)
  rw [Nat.add_sub_cancel' now, before] at idle
  refine ⟨_, execResultVisible_late hh hr hd hl, ?_⟩
  generalize s.idleBeats q (l - 1 - (s.quad q).beat) = v at idle ⊢
  generalize s.toBeat q (l - 1) = u at taken idle
  obtain ⟨rest, others, slots, outs, dues, masked, beat⟩ := taken
  obtain ⟨rest', others', outs', dues', masked', beat', -⟩ := idle
  have whole : v = { s with quads := v.quads } := by
    rw [rest] at rest'
    exact rest'
  have units : ∀ i, v.unit i = s.unit i := fun i => by rw [whole]; rfl
  have raised : v.raiseLate q (s.lateUnits q l late) = (v.countLate (s.lateUnits q l late)).modQuad q (fun x =>
      { x with late := s.lateUnits q l late, held := true
               lateAt := if x.hazard || x.lateAt.contains x.issuedHere then x.lateAt else x.lateAt ++ [x.issuedHere] }) := rfl
  have counted := v.countLate_rest (s.lateUnits q l late)
  have lines := fun h i => v.countLate_unit (s.lateUnits q l late) h i
  rw [raised]
  generalize v.countLate (s.lateUnits q l late) = w at counted lines
  have quads : w.quads = v.quads := by rw [counted]
  have quad : ∀ p, w.quad p = v.quad p := fun p => congrArg (fun x : Table Quad => tget Quad.init x p) quads
  rw [State.quad_modQuad_same, quad]
  refine ⟨rfl, rfl, beat'.trans beat, dues'.trans dues, masked'.trans masked, outs'.trans outs, fun hn u => ?_, fun p hp => ?_, ?_⟩
  · rw [← units u]
    exact lines (hn.filter _) u
  · rw [State.quad_modQuad_ne _ _ hp, quad, others' p hp, others p hp]
  · rw [counted, whole]
    rfl
end

/-- Settles O23: what is due in the next due beat acts there once, unless a late unit stops the beats before it. -/
theorem resultsBecomeVisible : Obligations.ResultsBecomeVisible := by
  intro q late s
  refine ⟨fun hh => congrArg Host.Outcome.next (if_pos hh), fun hh hr => ?_, fun hh hr hd => ?_,
    fun hh hr b hd hb hm => ⟨resultVisible_shows hh hr hd hb hm, fun l hl => resultVisible_late hh hr hd hm hl⟩⟩
  · unfold exec execResultVisible
    simp only [hh, Bool.false_eq_true, if_false, if_pos hr]
  · unfold exec execResultVisible
    simp only [hh, hr, hd, Bool.false_eq_true, if_false, ne_eq, not_true_eq_false]
    rfl

end Sys2Proof.Machine
end

section
/-! PROOF. What carrying out memory accesses leaves alone. Reads, writes, drains, steals and answers touch banks, stacks, staging,
lessons' marks and the error side, but no slot's context, no chosen point, no context's slots and no count of point changes, and they
raise no debt. Each operation keeps these, so whatever is built of them does. -/

namespace Sys2Proof.Machine

/-- Between two states the timebase and the boot stand, every quadrant keeps its point and the contexts in its slots, every context
its slots, no debt rises, and no change of point is counted. -/
structure State.Calm (k s : State) : Prop where
  boot : s.boot = k.boot
  time : s.ring.timebase = k.ring.timebase
  changes : s.health.freqChanges = k.health.freqChanges
  seat : ∀ q, (s.quad q).seat = (k.quad q).seat
  slotIn : ∀ c, (s.ctx c).slotIn = (k.ctx c).slotIn
  debt : ∀ u, (s.bank u).debt ≤ (k.bank u).debt

theorem Quad.hold_seat (x : Quad) (code n : Nat) : (x.hold code n).seat = x.seat := by
  unfold Quad.hold
  split <;> rfl

/-- One operation raises no debt. -/
theorem Bank.doRefresh_debt (b : Bank) : b.doRefresh.debt ≤ b.debt := by
  unfold Bank.doRefresh
  split
  · exact le_rfl
  · exact Nat.sub_le _ _

theorem Bank.doNeighbour_debt (b : Bank) : b.doNeighbour.debt = b.debt := by
  unfold Bank.doNeighbour
  split <;> rfl

theorem Bank.doOp_debt (b : Bank) : b.doOp.debt ≤ b.debt := by
  unfold Bank.doOp
  split
  · exact b.doRefresh_debt
  · split
    · exact b.doNeighbour.doRefresh_debt.trans b.doNeighbour_debt.le
    · exact b.doNeighbour_debt.le

theorem Bank.doOne_debt (b : Bank) : b.doOne.debt ≤ b.debt := by
  unfold Bank.doOne
  split
  · exact b.doOp_debt
  · exact le_rfl

theorem Bank.setHalf_debt (b : Bank) (h : Nat) (r : Option OpenRow) : (b.setHalf h r).debt = b.debt := by
  unfold Bank.setHalf
  split <;> rfl

theorem Ctx.markUnsettled_slotIn (x : Ctx) (q origin : Nat) : (x.markUnsettled q origin).slotIn = x.slotIn := by
  unfold Ctx.markUnsettled
  split <;> rfl

namespace State.Calm

theorem refl (s : State) : s.Calm s := ⟨rfl, rfl, rfl, fun _ => rfl, fun _ => rfl, fun _ => le_rfl⟩

variable {k s t : State}

theorem trans (h : k.Calm s) (h' : s.Calm t) : k.Calm t :=
  ⟨h'.boot.trans h.boot, h'.time.trans h.time, h'.changes.trans h.changes, fun q => (h'.seat q).trans (h.seat q),
    fun c => (h'.slotIn c).trans (h.slotIn c), fun u => (h'.debt u).trans (h.debt u)⟩

/-- A state that differs in other parts only. -/
theorem of_eqs (h : k.Calm s) (hn : t.boot = s.boot) (ht : t.ring.timebase = s.ring.timebase)
    (hh : t.health.freqChanges = s.health.freqChanges) (hq : t.quads = s.quads) (hc : t.ctxs = s.ctxs) (hb : t.banks = s.banks) :
    k.Calm t := by
  refine h.trans ⟨hn, ht, hh, fun q => ?_, fun c => ?_, fun u => ?_⟩
  · unfold State.quad; rw [hq]
  · unfold State.ctx; rw [hc]
  · unfold State.bank; rw [hb]

/-- What keeps the still part is calm. -/
theorem of_still (h : k.Calm s) (hs : t.still = s.still) : k.Calm t :=
  h.trans ⟨congrArg (fun x : Still => x.rest.boot) hs, congrArg (fun x : Still => x.rest.ring.timebase) hs,
    congrArg (fun x : Still => x.rest.health.freqChanges) hs, State.seat_of_still hs,
    fun c => by simpa only [Ctx.still] using congrArg Ctx.slotIn (State.ctx_of_still hs c),
    fun u => le_of_eq (congrArg (fun x : Still => (x.rest.bank u).debt) hs)⟩

theorem foldl {α : Type} {f : State → α → State} (l : List α) (hf : ∀ s a, k.Calm s → k.Calm (f s a)) (h : k.Calm s) :
    k.Calm (l.foldl f s) := State.foldl_holds k.Calm f hf l s h

theorem foldl_snd {α β : Type} {f : β × State → α → β × State} (l : List α) {r : β × State}
    (hf : ∀ r a, k.Calm r.2 → k.Calm (f r a).2) (h : k.Calm r.2) : k.Calm (l.foldl f r).2 := by
  induction l generalizing r with
  | nil => exact h
  | cons a l ih => exact ih (hf r a h)

/-! ## The accessors -/

theorem setQuad (h : k.Calm s) (q : Nat) {x : Quad} (hx : x.seat = (s.quad q).seat) : k.Calm (s.setQuad q x) :=
  h.of_still (s.setQuad_still q hx)

theorem modQuad (h : k.Calm s) (q : Nat) {f : Quad → Quad} (hf : ∀ x, (f x).seat = x.seat) : k.Calm (s.modQuad q f) :=
  h.of_still (s.modQuad_still q hf)

theorem modSlot (h : k.Calm s) (q i : Nat) {f : Slot → Slot} (hf : ∀ y, (f y).ctx = y.ctx) : k.Calm (s.modSlot q i f) :=
  h.of_still (s.modSlot_still q i hf)

theorem modCtx (h : k.Calm s) (c : Nat) {f : Ctx → Ctx} (hf : ∀ x, (f x).slotIn = x.slotIn) : k.Calm (s.modCtx c f) := by
  refine h.trans ⟨rfl, rfl, rfl, fun _ => rfl, fun i => ?_, fun _ => le_rfl⟩
  by_cases hi : i = c
  · subst hi; rw [State.ctx_modCtx_same, hf]
  · unfold State.modCtx; rw [State.ctx_setCtx_ne s _ hi]

theorem modBank (h : k.Calm s) (u : Nat) {f : Bank → Bank} (hf : ∀ b, (f b).debt ≤ b.debt) : k.Calm (s.modBank u f) := by
  refine h.trans ⟨rfl, rfl, rfl, fun _ => rfl, fun _ => rfl, fun i => ?_⟩
  by_cases hi : i = u
  · subst hi; rw [State.bank_modBank_same]; exact hf _
  · rw [State.bank_modBank_ne s _ hi]

theorem modStack (h : k.Calm s) (i : Nat) (f : Stack → Stack) : k.Calm (s.modStack i f) := h.of_eqs rfl rfl rfl rfl rfl rfl
theorem modUnit (h : k.Calm s) (u : Nat) (f : BankUnit → BankUnit) : k.Calm (s.modUnit u f) := h.of_eqs rfl rfl rfl rfl rfl rfl
theorem modGate (h : k.Calm s) (g : Nat) (f : Gate → Gate) : k.Calm (s.modGate g f) := h.of_eqs rfl rfl rfl rfl rfl rfl
theorem emit (h : k.Calm s) (o : Output) : k.Calm (s.emit o) := h.of_eqs rfl rfl rfl rfl rfl rfl
theorem withHost (h : k.Calm s) (x : HostSide) : k.Calm { s with host := x } := h.of_eqs rfl rfl rfl rfl rfl rfl
theorem withRing (h : k.Calm s) {x : Ring} (hx : x.timebase = s.ring.timebase) : k.Calm { s with ring := x } := h.of_eqs rfl hx rfl rfl rfl rfl
theorem withFree (h : k.Calm s) (n : Nat) : k.Calm { s with free := n } := h.of_eqs rfl rfl rfl rfl rfl rfl
theorem logOnly (h : k.Calm s) (code : BitVec 16) (inst : Nat) (ctx : BitVec 8) (value address : Nat) :
    k.Calm (s.logOnly code inst ctx value address) := h.of_eqs rfl rfl rfl rfl rfl rfl
theorem emcyCtx (h : k.Calm s) (code : BitVec 16) (inst value : Nat) (ctx : BitVec 8) (address : Nat) :
    k.Calm (s.emcyCtx code inst value ctx address) := h.of_eqs rfl rfl rfl rfl rfl rfl
theorem addEvent (h : k.Calm s) (kind addr : Nat) : k.Calm (s.addEvent kind addr) := h.of_eqs rfl rfl rfl rfl rfl rfl

/-! ## Errors found in memory (R36, R349 to R352, R543, R558) -/

theorem retirePlot (h : k.Calm s) (p : Nat) : k.Calm (s.retirePlot p) := by
  unfold State.retirePlot State.emcyEvent
  dsimp only
  split
  · exact h.of_eqs rfl rfl rfl rfl rfl rfl
  · split
    · exact h.of_eqs rfl rfl rfl rfl rfl rfl
    · split
      · exact h
      · exact h.of_eqs rfl rfl rfl rfl rfl rfl

theorem queuePlot (h : k.Calm s) (p : Nat) : k.Calm (s.queuePlot p) := by
  have queued : k.Calm { s with health := { s.health with queued := s.health.queued ++ [p] } } := h.of_eqs rfl rfl rfl rfl rfl rfl
  unfold State.queuePlot
  dsimp only
  split
  · exact h
  · split
    · exact queued
    · exact queued.retirePlot p

theorem noteUe (h : k.Calm s) (col : Nat) : k.Calm (s.noteUe col) := by
  unfold State.noteUe
  dsimp only
  refine queuePlot ?_ _
  have seen : k.Calm ((s.modStack (stackOf (bankOfCol col)) (fun k => { k with ueCount := bump k.ueCount 1, ueLogged := k.failed })).modBank
      (bankOfCol col) (fun b => { b with ueSeen := true })) := (h.modStack _ _).modBank _ fun _ => le_rfl
  split
  · split
    · exact seen
    · exact seen.emcyCtx _ _ _ _ _
  · split
    · exact seen.addEvent _ _
    · exact (seen.emcyCtx _ _ _ _ _).addEvent _ _

theorem noteRead (h : k.Calm s) (col : Nat) (d : Decoded) : k.Calm (s.noteRead col d) := by
  unfold State.noteRead
  dsimp only
  have noted : k.Calm (if (s.stack (stackOf (bankOfCol col))).failed then s
      else s.modUnit (bankOfCol col) (fun b => { b with ev := b.ev.note d (rowOfCol col) (col % 64) })) := by
    split
    · exact h
    · exact h.modUnit _ _
  split
  · exact noted.noteUe col
  · exact noted

theorem noteCorrected (h : k.Calm s) (col : Nat) : k.Calm (s.noteCorrected col) := by
  unfold State.noteCorrected
  dsimp only
  have counted := ((h.modBank (bankOfCol col) (f := fun b => { b with ceNow := (s.bank (bankOfCol col)).ceNow + 1 }) fun _ => le_rfl).of_eqs
    (t := { s.modBank (bankOfCol col) (fun b => { b with ceNow := (s.bank (bankOfCol col)).ceNow + 1 }) with
      health := { s.health with ceTotal := bump s.health.ceTotal 1 } }) rfl rfl rfl rfl rfl rfl)
  split
  · exact (counted.modBank _ fun _ => by rfl).modStack _ _
  · exact counted

/-! ## Link commands, column reads and writes (R333 to R342, R379) -/

theorem linkSend (h : k.Calm s) (st : Nat) (kind : LinkKind) (banks : List Nat) (arg : Nat) : k.Calm (s.linkSend st kind banks arg) := by
  unfold State.linkSend
  dsimp only
  split
  · exact h
  · exact h.modStack _ _

theorem linkBank (h : k.Calm s) (bank : Nat) (kind : LinkKind) (arg : Nat) : k.Calm (s.linkBank bank kind arg) := h.linkSend _ _ _ _

theorem storeCol (h : k.Calm s) (col : Nat) (data : List Byte) (poison : Bool) : k.Calm (s.storeCol col data poison) := by
  unfold State.storeCol
  split
  · exact h
  · exact h.of_eqs rfl rfl rfl rfl rfl rfl

theorem writeNow (h : k.Calm s) (col : Nat) (data : List Byte) (poison : Bool) : k.Calm (s.writeNow col data poison) :=
  (h.linkBank _ _ _).storeCol col data poison

theorem readNow (h : k.Calm s) (col : Nat) : k.Calm (s.readNow col).2 := by
  have sent := h.linkBank (bankOfCol col) .rd (col % 64)
  unfold State.readNow
  dsimp only
  split
  · exact (sent.noteCorrected col).modStack _ _
  · exact sent.noteUe col
  · exact sent

theorem carryRead (h : k.Calm s) (a : Access) : k.Calm (s.carryRead a) := by
  unfold State.carryRead
  dsimp only
  refine emit (foldl_snd _ (fun r c hr => ?_) h) _
  dsimp only
  split
  · exact (hr.readNow c).addEvent _ _
  · exact hr.readNow c

theorem carryColumn (h : k.Calm s) (col : Nat) (data : Line) (en : Word32) (poison : Bool) : k.Calm (s.carryColumn col data en poison) := by
  unfold State.carryColumn
  split
  · exact h
  · split
    · exact h.writeNow _ _ _
    · exact (h.readNow col).writeNow _ _ _

theorem carryWrite (h : k.Calm s) (a : Access) (w : WriteData) : k.Calm (s.carryWrite a w) := by
  unfold State.carryWrite
  exact emit (foldl _ (fun s c hs => hs.carryColumn _ _ _ _) h) _

theorem paneFault (h : k.Calm s) (tag : Nat) (wr : Option WriteData) : k.Calm (s.paneFault tag wr) := by
  cases wr <;> exact (h.withHost _).emit _

theorem carry (h : k.Calm s) (a : Access) : k.Calm (s.carry a) := by
  unfold State.carry
  split
  · exact h.paneFault _ _
  · split
    · exact h.carryRead a
    · exact h.carryWrite a _

/-! ## Queued and masked writes (R66, R335 to R342) -/

theorem evalFence (h : k.Calm s) (q sl : Nat) : k.Calm (s.evalFence q sl) := by
  unfold State.evalFence
  dsimp only
  split
  · split
    · exact h.modSlot q sl fun y => y.release_ctx false
    · exact h
  · exact h

theorem runHoists (h : k.Calm s) : k.Calm s.runHoists := h.of_still s.runHoists_still

theorem afterDrain (h : k.Calm s) (q : Nat) : k.Calm (s.afterDrain q) := foldl _ (fun _ sl hs => hs.evalFence q sl) h.runHoists

theorem drainOne (h : k.Calm s) (st : Nat) : k.Calm (s.drainOne st) := (h.modStack _ _).afterDrain _

theorem drainMany (h : k.Calm s) (st n : Nat) : k.Calm (s.drainMany st n) := by
  induction n generalizing s with
  | zero => exact h
  | succ n ih => exact ih (h.drainOne st)

theorem drainColumn (h : k.Calm s) (col : Nat) : k.Calm (s.drainColumn col) := by
  unfold State.drainColumn
  dsimp only
  split
  · exact h
  · exact h.drainMany _ _

theorem accountOpen (h : k.Calm s) (q code : Nat) : k.Calm (s.accountOpen q code) := by
  unfold State.accountOpen
  split
  · exact (h.withFree _).modQuad q fun x => x.hold_seat _ _
  · exact h

theorem queueWrite (h : k.Calm s) (col : Nat) (ctx : Option Nat) (seq : Nat) (goes : Option Nat) :
    k.Calm (s.queueWrite col ctx seq goes) := by
  unfold State.queueWrite
  dsimp only
  refine modStack ?_ _ _
  split
  · exact h
  · split
    · exact (h.accountOpen _ _).drainOne _
    · exact h.drainOne _

theorem markUnsettled (h : k.Calm s) (c q origin : Nat) : k.Calm (s.markUnsettled c q origin) :=
  h.modCtx c fun x => x.markUnsettled_slotIn q origin

theorem mergeMasked (h : k.Calm s) (q : Nat) (m : Masked) : k.Calm (s.mergeMasked q m) := by
  have taken := h.modQuad q (f := fun x => { x with masked := x.masked.erase m }) fun _ => rfl
  have queued : ∀ u : State, k.Calm u → k.Calm (if (u.stack (stackOf (bankOfCol m.col))).failed then u.afterDrain q
      else u.queueWrite m.col (some m.ctx) m.seq (some m.due)) := fun u hu => by
    split
    · exact hu.afterDrain q
    · exact hu.queueWrite _ _ _ _
  unfold State.mergeMasked
  generalize s.modQuad q (fun x => { x with masked := x.masked.erase m }) = u at taken ⊢
  dsimp only
  refine queued _ (writeNow ?_ _ _ _)
  split
  · exact (taken.noteRead _ _).markUnsettled _ _ _
  · split
    · exact taken.noteRead _ _
    · exact taken

theorem settleOwn (h : k.Calm s) (col : Nat) : k.Calm (s.settleOwn col) :=
  drainColumn (foldl _ (fun _ m hs => hs.mergeMasked _ m) h) col

theorem settleColumn (h : k.Calm s) (col : Nat) : k.Calm (s.settleColumn col) := by
  unfold State.settleColumn
  dsimp only
  refine foldl _ (fun s a hs => carry (foldl _ (fun s c hc => hc.settleOwn c) hs) a) ?_
  exact (h.settleOwn col).modStack _ _

/-! ## Rows, refresh operations and steals (R343 to R348, R358) -/

theorem closeRow (h : k.Calm s) (bank half : Nat) : k.Calm (s.closeRow bank half) :=
  (h.linkBank _ _ _).modBank bank fun b => (b.setHalf_debt half none).le

theorem activateWith {steal : State → State} (hsteal : ∀ s, k.Calm s → k.Calm (steal s)) (h : k.Calm s) (bank : Nat)
    (row : BitVec 16) : k.Calm (s.activateWith steal bank row) := by
  have acted : k.Calm (s.modBank bank (fun b => { b with act := (activate (s.threshold bank) (s.bank bank).act row).1 })) :=
    h.modBank bank fun _ => le_rfl
  unfold State.activateWith
  dsimp only
  split
  · refine modBank (modStack ?_ _ _) bank fun _ => le_rfl
    split
    · exact acted
    · exact hsteal _ acted
  · exact acted

theorem applyBand (h : k.Calm s) (st : Nat) : k.Calm (s.applyBand st) := h.modStack _ _

theorem idleOp (h : k.Calm s) (bank : Nat) : k.Calm (s.idleOp bank) := by
  unfold State.idleOp
  dsimp only
  refine applyBand (modQuad (modBank ?_ bank Bank.doOne_debt) _ fun _ => by rfl) _
  split
  · exact h.linkBank _ _ _
  · exact h

theorem accountHold (h : k.Calm s) (q code unit bound : Nat) : k.Calm (s.accountHold q code unit bound) := by
  unfold State.accountHold
  split
  · exact (h.withFree _).modQuad q fun x => x.hold_seat _ _
  · exact h

theorem linkUnits (h : k.Calm s) (q : Nat) (us : List Nat) (kind : LinkKind) (arg : Nat) : k.Calm (s.linkUnits q us kind arg) := by
  refine foldl _ (fun s i hs => ?_) h
  dsimp only
  split
  · exact hs
  · exact hs.linkSend _ _ _ _

theorem markStolen (h : k.Calm s) (q : Nat) : k.Calm (s.markStolen q) := by
  refine foldl _ (fun s sl hs => ?_) h
  split
  · exact hs.modCtx _ fun _ => rfl
  · exact hs

/-- The operations of a steal on every bank of a stack. -/
theorem mapBanks (h : k.Calm s) (st : Nat) : k.Calm { s with banks := tmap Bank.init s.banks (inStack st) Bank.doOp } := by
  refine h.trans ⟨rfl, rfl, rfl, fun _ => rfl, fun _ => rfl, fun u => ?_⟩
  unfold State.bank
  rw [tget_tmap _ _ _ _ rfl]
  split
  · exact Bank.doOp_debt _
  · exact le_rfl

theorem stealOps (h : k.Calm s) (st : Nat) : k.Calm (s.stealOps st) :=
  ((((((h.modStack st _).accountHold _ _ _ _).linkUnits _ _ _ _).linkUnits _ _ _ _).mapBanks st).applyBand st).markStolen _

theorem stealN (n : Nat) (h : k.Calm s) (st : Nat) : k.Calm (State.stealN n s st) := by
  induction n generalizing s with
  | zero => exact h.stealOps st
  | succ n ih => exact foldl _ (fun s p hs => (activateWith (fun _ hs => ih hs) hs _ _).linkBank _ _ _) (h.stealOps st)

theorem steal (h : k.Calm s) (st : Nat) : k.Calm (s.steal st) := by
  unfold State.steal
  split
  · exact h
  · exact h.stealN 4 st

theorem relieve (h : k.Calm s) (bank : Nat) : k.Calm (s.relieve bank) := by
  unfold State.relieve
  split
  · exact h
  · split
    · exact h.idleOp bank
    · exact h.steal _

theorem activateRow (h : k.Calm s) (bank : Nat) (row : BitVec 16) : k.Calm (s.activateRow bank row) := by
  unfold State.activateRow
  split
  · exact h
  · exact activateWith (fun s hs => hs.relieve bank) h bank row

theorem openForeign (h : k.Calm s) (bank row : Nat) : k.Calm (s.openForeign bank row) :=
  ((h.activateRow _ _).linkBank _ _ _).modBank bank fun b => (b.setHalf_debt _ _).le

theorem touchRow (h : k.Calm s) (bank row : Nat) : k.Calm (s.touchRow bank row) := by
  unfold State.touchRow
  split
  · split
    · exact h
    · exact (h.closeRow _ _).openForeign _ _
  · exact h.openForeign _ _

/-! ## Accesses of the host (R367 to R379) -/

theorem defer (h : k.Calm s) (a : Access) : k.Calm (s.defer a) := by
  unfold State.defer
  split <;> exact h.withHost _

theorem demandGate (h : k.Calm s) (g : Nat) : k.Calm (s.demandGate g) := by
  unfold State.demandGate
  dsimp only
  split
  · exact h
  · split <;> exact h.modGate _ _

theorem serve (h : k.Calm s) (a : Access) : k.Calm (s.serve a) :=
  carry (foldl _ (fun _ c hs => (hs.settleColumn c).touchRow _ _) h) a

theorem enterStack (h : k.Calm s) (a : Access) : k.Calm (s.enterStack a) := by
  have demanded : k.Calm (a.cols.foldl (fun (s : State) c => s.demandGate (quadOf (bankOfCol c))) s) :=
    foldl _ (fun s c hs => hs.demandGate _) h
  unfold State.enterStack
  dsimp only
  split
  · exact h.defer a
  · split
    · exact h.withHost _
    · split
      · exact demanded.modStack _ _
      · exact demanded.serve a

theorem pumpReads (h : k.Calm s) : k.Calm s.pumpReads := foldl _ (fun _ a hs => hs.enterStack a) (h.withHost _)

theorem receive (h : k.Calm s) (a : Access) : k.Calm (s.receive a) := by
  unfold State.receive
  split
  · exact h.defer a
  · exact (h.enterStack a).pumpReads

theorem unstall (h : k.Calm s) (n : Nat) : k.Calm (s.unstall n) := by
  induction n generalizing s with
  | zero => exact h
  | succ n ih =>
    unfold State.unstall
    split
    · exact h
    · split
      · exact h
      · exact ih (((h.withHost _).withHost _).receive _)

theorem serveDeferred (h : k.Calm s) : k.Calm s.serveDeferred := by
  unfold State.serveDeferred
  dsimp only
  refine unstall (pumpReads (foldl _ (fun s a hs => hs.enterStack a) ?_)) _
  exact h.withHost _

theorem forgetBy (h : k.Calm s) (c : Nat) : k.Calm (s.forgetBy c) :=
  foldl _ (fun _ st hs => hs.modStack st _) (h.withHost _)

theorem pumpQuad (h : k.Calm s) (q : Nat) : k.Calm (s.pumpQuad q) :=
  pumpReads (foldl _ (fun _ _ hs => foldl _ (fun _ a ha => ha.enterStack a) (hs.modStack _ _)) h)

/-! ## Allocations that end (R203, R543) -/

theorem freeAllocation (h : k.Calm s) (c a : Nat) : k.Calm (s.freeAllocation c a) := by
  have freed := h.modCtx c (f := fun y => { y with allocs := tset Allocation.none y.allocs a Allocation.none }) fun _ => rfl
  unfold State.freeAllocation
  dsimp only
  split
  · exact freed
  · split
    · exact freed.of_eqs rfl rfl rfl rfl rfl rfl
    · refine foldl _ (fun s p hs => ?_) freed
      split
      · exact hs
      · split
        · exact hs.retirePlot p
        · exact hs.of_eqs rfl rfl rfl rfl rfl rfl

/-! ## Requests and answers of the ring (R422 to R436) -/

theorem sendTo (h : k.Calm s) (dst : Nat) (b : FrameBody) : k.Calm (s.sendTo dst b) := h.of_still (s.sendTo_still dst b)

theorem fillOutgoing (h : k.Calm s) (num byte : Nat) (b : Byte) (poison : Bool) : k.Calm (s.fillOutgoing num byte b poison) := by
  unfold State.fillOutgoing
  split
  · exact h
  · dsimp only
    split
    · exact (h.withRing (by rfl)).sendTo _ _
    · exact h.withRing rfl

theorem ctrlRead (h : k.Calm s) (col : Nat) : k.Calm (s.ctrlRead col).2 := ((h.settleColumn col).touchRow _ _).readNow col

theorem ctrlWrite (h : k.Calm s) (col : Nat) (data : List Byte) (poison : Bool) : k.Calm (s.ctrlWrite col data poison) :=
  ((h.settleColumn col).touchRow _ _).writeNow _ _ _

theorem putColumn (h : k.Calm s) (q c origin col : Nat) (bs : List (Nat × Byte)) (poison : Bool) :
    k.Calm (s.putColumn q c origin col bs poison) := by
  unfold State.putColumn
  dsimp only
  split
  · exact h.ctrlWrite _ _ _
  · refine ctrlWrite ?_ _ _ _
    split
    · exact (h.ctrlRead col).markUnsettled _ _ _
    · exact h.ctrlRead col

theorem putLine (h : k.Calm s) (q line : Nat) (bs : List (Nat × Byte)) (poison : Bool) : k.Calm (s.putLine q line bs poison) := by
  have staged : k.Calm (bs.foldl (fun (s : State) x => s.setStage q (32 * line + x.1) [x.2]) s) :=
    foldl _ (fun s x hs => hs.modQuad q fun _ => rfl) h
  have marked : ∀ m u, k.Calm u → k.Calm (u.setMark q line m) := fun m u hu => hu.modQuad q fun _ => rfl
  unfold State.putLine
  dsimp only
  split
  · exact marked _ _ staged
  · split
    · exact marked _ _ staged
    · exact staged

theorem putAnswer (h : k.Calm s) (r : RemoteReq) (data : Line) (poison : Bool) (g : Nat × List (Nat × Nat)) :
    k.Calm (s.putAnswer r data poison g) := by
  unfold State.putAnswer
  dsimp only
  split
  · exact h
  · split
    · exact foldl _ (fun s x hs => hs.fillOutgoing _ _ _ _) h
    · split
      · exact h.putLine _ _ _ _
      · exact h.putColumn _ _ _ _ _ _

theorem giveAnswer (h : k.Calm s) (r : RemoteReq) (a : Line × Bool) : k.Calm (s.giveAnswer r a) := by
  unfold State.giveAnswer State.remoteDone State.dropRequest
  exact of_still (withRing (foldl _ (fun s g hs => hs.putAnswer _ _ _ g) h) rfl) (State.modShare_still _ _ _ _ _)

theorem answerGrant (h : k.Calm s) : k.Calm s.answerGrant := by
  unfold State.answerGrant
  split
  · exact h
  · split
    · exact h
    · exact h.giveAnswer _ _

theorem kvGet (h : k.Calm s) (ls : List (Nat × Loc)) : k.Calm (s.kvGet ls).2 := by
  unfold State.kvGet
  split
  · exact h
  · split
    · exact h
    · exact h.ctrlRead _

theorem kvPut (h : k.Calm s) (c : Nat) (d : Desc) (pad : Bool) (x : Nat × Loc) (data : Line) (poison : Bool) :
    k.Calm (s.kvPut c d pad x data poison) := by
  unfold State.kvPut
  dsimp only
  split
  · exact h
  · split
    · exact h.putLine _ _ _ _
    · exact h.putColumn _ _ _ _ _ _

theorem kvServe (h : k.Calm s) (w : KvWait) : k.Calm (s.kvServe w) := by
  unfold State.kvServe
  dsimp only
  split
  · exact h.sendTo _ _
  · exact h.sendTo _ _
  · exact sendTo (foldl _ (fun s x hs => foldl _ (fun s p hp => hp.kvPut _ _ _ _ _ _) hs) h) _ _
  · split
    · exact h.sendTo _ _
    · exact sendTo (foldl_snd (r := ([], s)) _ (fun r p hr => hr.kvGet _) h) _ _

theorem kvGrant (h : k.Calm s) : k.Calm s.kvGrant := by
  unfold State.kvGrant
  split
  · exact h.answerGrant
  · exact (h.withRing (by rfl)).kvServe _

theorem kvPump (h : k.Calm s) : k.Calm s.kvPump := foldl _ (fun _ _ hs => hs.kvGrant) h

theorem readColumns (h : k.Calm s) (cs : List (Nat × Nat)) : k.Calm (s.readColumns cs).2 :=
  foldl_snd (r := ([], s)) _ (fun _ x hr => hr.ctrlRead x.1) h

theorem readImage (h : k.Calm s) (d : Desc) : k.Calm (s.readImage d).2 := (h.readColumns _).readColumns _

end State.Calm

end Sys2Proof.Machine
end

section
/-! PROOF. The end of a context (R176, R203, R327): its slots hold no context, it is as never created, its sessions are gone and its
credential is zero. CTX_DESTROY and the end of a reset both come to this. -/

namespace Sys2Proof.Machine

/-! ## Frames and releases leave the contexts alone -/

@[simp] theorem State.freeVia_ctxs (s : State) (f : PeerFrame) : (s.freeVia f).ctxs = s.ctxs := by
  unfold State.freeVia
  (repeat' split) <;> rfl

@[simp] theorem State.pump_ctxs (s : State) (p n : Nat) : (s.pump p n).ctxs = s.ctxs := by
  induction n generalizing s with
  | zero => rfl
  | succ n ih =>
    unfold State.pump
    split
    · rfl
    · simp [ih, State.sendOn]

@[simp] theorem State.route_ctxs (s : State) (f : PeerFrame) : (s.route f).ctxs = s.ctxs := by
  simp [State.route, State.enqueue]

@[simp] theorem State.sendTo_ctxs (s : State) (dst : Nat) (b : FrameBody) : (s.sendTo dst b).ctxs = s.ctxs := by
  simp [State.sendTo]

@[simp] theorem State.broadcast_ctxs (s : State) (b : FrameBody) : (s.broadcast b).ctxs = s.ctxs := by
  unfold State.broadcast
  refine (State.foldl_keeps State.ctxs _ (fun s d => ?_) _ _).trans rfl
  (repeat' split) <;> simp [State.enqueue]

@[simp] theorem State.finishMerge_ctxs (s : State) (m : RingMerge) (rows : List MergeRow) : (s.finishMerge m rows).ctxs = s.ctxs := by
  unfold State.finishMerge State.giveResult
  refine (State.foldl_keeps State.ctxs _ (fun s x => ?_) _ _).trans rfl
  rfl

@[simp] theorem State.passFold_ctxs (s : State) (m : RingMerge) (part : Option (List MergeRow)) : (s.passFold m part).ctxs = s.ctxs := by
  unfold State.passFold
  dsimp only
  (repeat' split) <;> simp [State.foldl_keeps State.ctxs]

@[simp] theorem State.releaseMerge_ctxs (s : State) (m : RingMerge) (poisoned : Bool) : (s.releaseMerge m poisoned).ctxs = s.ctxs := by
  unfold State.releaseMerge
  dsimp only
  (repeat' split) <;> simp [State.keepMerge]

theorem State.freeRolls_ctxs (s : State) : s.freeRolls.ctxs = s.ctxs := by
  refine State.foldl_keeps State.ctxs _ (fun s n => ?_) _ s
  split
  · simp [State.releaseDead, State.foldl_keeps State.ctxs _ (fun s m => s.releaseMerge_ctxs m true)]
  · rfl

@[simp] theorem State.freeRolls_still (s : State) : s.freeRolls.still = s.still := by
  refine State.foldl_still _ (fun s n => ?_) _ s
  split
  · rw [State.setRoll_still]
    exact State.foldl_still _ (fun s m => s.releaseMerge_still m true) _ s
  · rfl

theorem State.enterBuffer_ctx_ne (s : State) {c i : Nat} (n : Nat) (h : i ≠ c) : (s.enterBuffer c n).ctx i = s.ctx i := by
  induction n generalizing s with
  | zero => rfl
  | succ n ih =>
    unfold State.enterBuffer
    dsimp only
    split
    · rfl
    · split
      · rw [ih]
        split
        · exact s.ctx_setCtx_ne _ h
        · exact s.ctx_setCtx_ne _ h
      · rfl

/-- The report buffer fills from queues only, and a context that does not exist has none. -/
theorem State.fillBuffer_ctx_init (s : State) (c : Nat) (h : s.ctx c = Ctx.init) : s.fillBuffer.ctx c = Ctx.init := by
  refine State.foldl_holds (fun s => s.ctx c = Ctx.init) _ (fun s i hs => ?_) _ _ h
  by_cases hi : c = i
  · subst hi
    simp only [hs]
    exact hs
  · rw [s.enterBuffer_ctx_ne _ hi, hs]

theorem State.fillBuffer_seat (s : State) (q : Nat) : (s.fillBuffer.quad q).seat = (s.quad q).seat :=
  State.seat_of_still (State.foldl_still _ (fun s c => s.enterBuffer_still c _) _ _) q

/-! ## Slots that become free -/

theorem State.slot_modSlot (s : State) (q i : Nat) (f : Slot → Slot) (p j : Nat) :
    (s.modSlot q i f).slot p j = if p = q ∧ j = i then f (s.slot q i) else s.slot p j := by
  by_cases hp : p = q
  · subst hp
    by_cases hj : j = i
    · subst hj
      rw [State.slot_modSlot_same, if_pos ⟨rfl, rfl⟩]
    · rw [if_neg fun h => hj h.2]
      unfold State.slot State.modSlot
      rw [State.quad_modQuad_same]
      exact Quad.slot_setSlot_ne _ _ hj
  · rw [if_neg fun h => hp h.1]
    exact congrArg (fun x => Quad.slot x j) (State.quad_setQuad_ne s _ hp)

/-- The masked writes of a slot are merged before it is free (R341). -/
theorem State.mergeSlot_calm (s : State) (q sl : Nat) :
    s.Calm (((s.quad q).masked.filter (fun m => m.slot = sl)).foldl (fun (s : State) m => s.mergeMasked q m) s) :=
  State.Calm.foldl _ (fun _ m hs => hs.mergeMasked q m) (State.Calm.refl s)

theorem State.freeSlot_slotIn (s : State) (c q i : Nat) : ((s.freeSlot c q).ctx i).slotIn = (s.ctx i).slotIn :=
  (s.mergeSlot_calm q _).slotIn i

/-- The freed slot holds no context, and every other keeps what it holds. -/
theorem State.freeSlot_slot_ctx (s : State) (c q p i : Nat) :
    ((s.freeSlot c q).slot p i).ctx = if p = q ∧ i = tget 0 (s.ctx c).slotIn q then none else (s.slot p i).ctx := by
  have kept := congrArg (fun x => x.2.2.2 i) ((s.mergeSlot_calm q (tget 0 (s.ctx c).slotIn q)).seat p)
  unfold State.freeSlot
  dsimp only
  generalize (List.foldl (fun (s : State) m => s.mergeMasked q m) s _) = v at kept ⊢
  unfold State.slot Quad.slot
  by_cases hp : p = q
  · subst hp
    rw [State.quad_modQuad_same]
    change (tget Slot.init (tset Slot.init (v.quad p).slots (tget 0 (s.ctx c).slotIn p) Slot.init) i).ctx = _
    by_cases hi : i = tget 0 (s.ctx c).slotIn p
    · subst hi
      rw [tget_tset_same, if_pos ⟨rfl, rfl⟩]
      rfl
    · rw [tget_tset_ne _ _ _ hi, if_neg fun h => hi h.2]
      exact kept
  · unfold State.modQuad
    rw [State.quad_setQuad_ne _ _ hp, if_neg fun h => hp h.1]
    exact kept

theorem State.freeSlots_slot (c : Nat) (qs : List Nat) (s : State) {q : Nat} (hq : q ∈ qs) :
    ((qs.foldl (fun (s : State) q => s.freeSlot c q) s).slot q (tget 0 (s.ctx c).slotIn q)).ctx = none := by
  induction qs generalizing s with
  | nil => cases hq
  | cons p qs ih =>
    rw [List.foldl_cons]
    by_cases hp : q = p
    · subst hp
      exact State.foldl_holds (fun t : State => (t.slot q (tget 0 (s.ctx c).slotIn q)).ctx = none) _
        (fun t r ht => by rw [t.freeSlot_slot_ctx, ht, ite_self]) qs _ (by rw [s.freeSlot_slot_ctx, if_pos ⟨rfl, rfl⟩])
    · rw [← s.freeSlot_slotIn c p c]
      exact ih _ ((List.mem_cons.1 hq).resolve_left hp)

/-! ## A change of point begins (R356) -/

@[simp] theorem State.startChange_ctxs (s : State) (q : Nat) : (s.startChange q).ctxs = s.ctxs := by
  unfold State.startChange
  dsimp only
  split
  · rfl
  · split <;> rfl

@[simp] theorem State.startChange_host (s : State) (q : Nat) : (s.startChange q).host = s.host := by
  unfold State.startChange
  dsimp only
  split
  · rfl
  · split <;> rfl

@[simp] theorem State.startChange_sec (s : State) (q : Nat) : (s.startChange q).sec = s.sec := by
  unfold State.startChange
  dsimp only
  split
  · rfl
  · split <;> rfl

@[simp] theorem State.startChange_slots (s : State) (q p : Nat) : ((s.startChange q).quad p).slots = (s.quad p).slots := by
  unfold State.startChange
  dsimp only
  split
  · rfl
  · split
    · rfl
    · change ((s.setQuad q _).quad p).slots = _
      by_cases hp : p = q
      · subst hp
        rw [State.quad_setQuad_same]
      · rw [State.quad_setQuad_ne _ _ hp]

/-! ## The context is as never created -/

/-- The state once the slots of a context are free: its accesses, allocations and handles end, and what waited for them goes on. -/
def State.emptied (s : State) (c inst : Nat) : State :=
  (s.ctx c).allocs.foldl (fun (s : State) a => s.freeAllocation c a.1)
    (((bitsSet (s.ctx c).span).foldl (fun (s : State) q => s.freeSlot c q)
      (s.logOnly Code.ctxReset inst (BitVec.ofNat 8 c) (s.ctx c).lessons.toNat 0)).forgetBy c).serveDeferred

/-- The state without the credential, the sessions and the full map of a context. -/
def State.disown (s : State) (c : Nat) : State :=
  { s with
    sec := { s.sec with digests := tset 0 s.sec.digests (1 + c) 0, parts := tset 0 s.sec.parts (1 + c) 0 }
    host := { s.host with
      sessions := s.host.sessions.filter (fun y => decide (y.tenant ≠ some c))
      fullMap := s.host.fullMap && decide (s.host.fullMapBy ≠ some c)
      fullMapBy := if s.host.fullMapBy = some c then none else s.host.fullMapBy } }

theorem State.disown_ctxs (s : State) (c : Nat) : (s.disown c).ctxs = s.ctxs := rfl

theorem State.endContext_eq (s : State) (c inst : Nat) : s.endContext c inst =
    (bitsSet (s.ctx c).span).foldl (fun (s : State) q => s.startChange q)
      ((((s.emptied c inst).setCtx c Ctx.init).freeRolls.fillBuffer).disown c) := rfl

theorem State.endContext_ctx (s : State) (c inst : Nat) : (s.endContext c inst).ctx c = Ctx.init := by
  have init : ((s.emptied c inst).setCtx c Ctx.init).freeRolls.ctx c = Ctx.init := by
    unfold State.ctx
    rw [State.freeRolls_ctxs]
    exact State.ctx_setCtx_same _ c _
  unfold State.ctx
  rw [State.endContext_eq, State.foldl_keeps State.ctxs _ (fun s q => s.startChange_ctxs q), State.disown_ctxs]
  exact State.fillBuffer_ctx_init _ c init

/-- No tenant session of the context stays (R535). -/
theorem State.endContext_sessions (s : State) (c inst : Nat) : ∀ y ∈ (s.endContext c inst).host.sessions, y.tenant ≠ some c := by
  rw [State.endContext_eq, State.foldl_keeps State.host _ (fun s q => s.startChange_host q)]
  intro y hy
  exact of_decide_eq_true (List.mem_filter.1 hy).2

theorem State.endContext_digest (s : State) (c inst : Nat) : tget 0 (s.endContext c inst).sec.digests (1 + c) = 0 := by
  rw [State.endContext_eq, State.foldl_keeps State.sec _ (fun s q => s.startChange_sec q)]
  exact tget_tset_same 0 _ (1 + c) 0

theorem State.emptied_slot (s : State) (c inst : Nat) {q : Nat} (hq : q ∈ bitsSet (s.ctx c).span) :
    ((s.emptied c inst).slot q (tget 0 (s.ctx c).slotIn q)).ctx = none := by
  have freed := State.freeSlots_slot c (bitsSet (s.ctx c).span)
    (s.logOnly Code.ctxReset inst (BitVec.ofNat 8 c) (s.ctx c).lessons.toNat 0) hq
  unfold State.emptied
  generalize (bitsSet (s.ctx c).span).foldl (fun (s : State) q => s.freeSlot c q) _ = u at freed ⊢
  have later : u.Calm ((s.ctx c).allocs.foldl (fun (s : State) a => s.freeAllocation c a.1) (u.forgetBy c).serveDeferred) :=
    State.Calm.foldl _ (fun _ a hs => hs.freeAllocation c a.1) ((State.Calm.refl u).forgetBy c).serveDeferred
  exact (congrArg (fun x => x.2.2.2 (tget 0 (s.ctx c).slotIn q)) (later.seat q)).trans freed

/-- What the end of a context does after its slots are free keeps the contexts of all slots. -/
theorem State.endContext_slot (s : State) (c inst : Nat) {q : Nat} (hq : q ∈ bitsSet (s.ctx c).span) :
    ((s.endContext c inst).slot q (tget 0 (s.ctx c).slotIn q)).ctx = none := by
  have seats : (((s.emptied c inst).setCtx c Ctx.init).freeRolls.fillBuffer.quad q).seat = ((s.emptied c inst).quad q).seat :=
    (State.fillBuffer_seat _ q).trans (State.seat_of_still (State.freeRolls_still _) q)
  have kept := State.foldl_keeps (fun s => (s.quad q).slots) (fun (s : State) q => s.startChange q) (fun s p => s.startChange_slots p q)
    (bitsSet (s.ctx c).span) ((((s.emptied c inst).setCtx c Ctx.init).freeRolls.fillBuffer).disown c)
  have disowned : ∀ u : State, ((u.disown c).quad q).slots = (u.quad q).slots := fun u => rfl
  rw [State.endContext_eq]
  unfold State.slot Quad.slot
  rw [kept, disowned]
  exact (congrArg (fun x => x.2.2.2 (tget 0 (s.ctx c).slotIn q)) seats).trans (s.emptied_slot c inst hq)

end Sys2Proof.Machine
end

section
/-! PROOF. Sessions, the life of contexts, and a quadrant's mode (O52). -/

namespace Sys2Proof.Machine

/-! ## Who is heard (R406, R535) -/

theorem State.request_of_unreleased (s : State) (h : Word64) (who : Option Nat) (f : State → State)
    (hr : s.boot.cxlReleased = false) : s.request h who f = s := if_pos hr

theorem State.request_of_early (s : State) (h : Word64) (who : Option Nat) (f : State → State)
    (hr : s.boot.cxlReleased = true) (hs : s.boot.stage ≠ 7) : s.request h who f = s.cxlAnswer .busy [] := by
  unfold State.request
  rw [if_neg (by simp [hr]), if_pos hs]

theorem State.request_of_grants (s : State) (h : Word64) (who : Option Nat) (f : State → State) (hg : s.grants h who) :
    s.request h who f = f s := by
  obtain ⟨hr, hs, y, hy, may⟩ := hg
  have granted : (y.tenant.isNone || (who.isSome && y.tenant == who)) = true := by
    rcases may with none | ⟨some, eq⟩
    · simp [none]
    · simp [eq, Option.isSome_iff_ne_none, some]
  unfold State.request
  rw [if_neg (by simp [hr]), if_neg (by simp [hs])]
  simp only [hy, granted, if_true]

theorem State.onCtx_of_absent (s : State) (h : Word64) (c : Nat) (f : State → State) (hg : s.grants h (some c))
    (hc : (s.ctx c).live = false ∨ (s.ctx c).resetting = true) : s.onCtx h c f = s.answer Code.badRequest [] := by
  unfold State.onCtx
  rw [s.request_of_grants h _ _ hg]
  refine if_neg ?_
  rcases hc with hc | hc <;> simp [hc]

/-- Every context-control command over the mailbox but SESSION_CLOSE is a request of its session. -/
theorem exec_request {i : Instr} {h : Word64} (hi : i.sessionHandle = some h) (hd : i.ofDictionary = false)
    (hc : i ≠ .sessionClose h) : ∃ who f, ∀ s, exec i s = .next (s.request h who f) := by
  cases i
  case sessionClose => cases hi; exact absurd rfl hc
  case odRead => cases hd
  case odWrite => cases hd
  case ctxReset r c =>
    cases r with
    | none => cases hi
    | some => cases hi; exact ⟨_, _, fun _ => rfl⟩
  case ctxCreate | ctxDestroy | quadMode | halfRead | alloc | free | descCreate | descDestroy | descRead |
      descClearPoison | load | penCreate | penBind | penUnbind | penShare | rollCreate | rollBind | rollUnbind =>
    cases hi; exact ⟨_, _, fun _ => rfl⟩
  all_goals cases hi

/-- One that names a context, but CTX_RESET, acts on the context. -/
theorem exec_onCtx {i : Instr} {h : Word64} {k : Nat} (hi : i.sessionHandle = some h) (hk : i.namesContext = some k)
    (hr : ∀ c, i ≠ .ctxReset (some h) c) : ∃ f, ∀ s, exec i s = .next (s.onCtx h k f) := by
  cases i
  case ctxReset r c =>
    cases r with
    | none => cases hi
    | some => cases hi; exact absurd rfl (hr c)
  case alloc | free | descCreate | descDestroy | descRead | descClearPoison | load | penCreate | penBind | penUnbind |
      penShare | rollCreate | rollBind | rollUnbind =>
    cases hi; cases hk; exact ⟨_, fun _ => rfl⟩
  all_goals cases hk

/-- Before the port is released no command of a session changes anything. -/
theorem exec_of_unreleased {i : Instr} {h : Word64} (hi : i.sessionHandle = some h) (s : State) (hr : s.boot.cxlReleased = false) :
    exec i s = .next s := by
  by_cases hc : i = .sessionClose h
  · rw [hc]
    exact congrArg Host.Outcome.next (if_pos hr)
  · cases hd : i.ofDictionary with
    | false =>
      obtain ⟨who, f, hf⟩ := exec_request hi hd hc
      rw [hf, s.request_of_unreleased h who f hr]
    | true =>
      cases i
      case odRead => exact congrArg Host.Outcome.next (if_pos hr)
      case odWrite => exact congrArg Host.Outcome.next (if_pos hr)
      all_goals cases hd

/-! ## Sessions (R535) -/

theorem exec_sessionOpen_of_refused (role ctx : BitVec 8) (token : BitVec 256) (s : State) (hr : s.boot.cxlReleased = true)
    (hf : s.host.locked = true ∨ 8 ≤ s.host.sessions.length) :
    exec (.sessionOpen role ctx token) s = .next (s.answer Code.accessDenied []) := by
  refine congrArg Host.Outcome.next ?_
  dsimp only
  rw [if_neg (by simp [hr]), if_pos hf]

/-- The state after SESSION_OPEN with the right token. -/
def State.opened (s : State) (role ctx : BitVec 8) : State :=
  State.answer { s with
    free := s.free + 1
    host := { s.host with
      sessions := s.host.sessions ++ [⟨(s.draw 64).1, if role = 0 then none else some ctx.toNat, none⟩], failures := 0 } }
    Code.ok (toLe 8 (s.draw 64).1.toNat ++ [role, ctx])

theorem exec_sessionOpen_of_token {role ctx : BitVec 8} {token : BitVec 256} {s : State} (hr : s.boot.cxlReleased = true)
    (hl : s.host.locked = false) (hn : s.host.sessions.length < 8) (hd : s.roleDigest role.toNat ctx.toNat ≠ 0)
    (ht : tokenDigest token = s.roleDigest role.toNat ctx.toNat) :
    exec (.sessionOpen role ctx token) s = .next (s.opened role ctx) := by
  refine congrArg Host.Outcome.next ?_
  dsimp only
  rw [if_neg (by simp [hr]), if_neg (by simp [hl, Nat.not_le.2 hn]), if_pos ⟨hd, ht⟩]
  rfl

theorem exec_sessionOpen_of_wrong {role ctx : BitVec 8} {token : BitVec 256} {s : State} (hr : s.boot.cxlReleased = true)
    (hl : s.host.locked = false) (hn : s.host.sessions.length < 8)
    (hw : s.roleDigest role.toNat ctx.toNat = 0 ∨ tokenDigest token ≠ s.roleDigest role.toNat ctx.toNat) :
    exec (.sessionOpen role ctx token) s = .next (State.answer { s with host := { s.host with
      failures := if s.host.failures ≥ 7 then 0 else s.host.failures + 1
      locked := decide (s.host.failures ≥ 7) } } Code.accessDenied []) := by
  have eighth : (s.host.failures + 1 ≥ 8) = (s.host.failures ≥ 7) := propext (by omega)
  refine congrArg Host.Outcome.next ?_
  dsimp only
  rw [if_neg (by simp [hr]), if_neg (by simp [hl, Nat.not_le.2 hn]), if_neg (by tauto)]
  simp only [eighth]

/-- The state after SESSION_CLOSE of an open session. -/
def State.closed (s : State) (h : Word64) : State :=
  State.answer { s with host := { s.host with sessions := s.host.sessions.filter (fun y => decide (y.handle ≠ h)) } } Code.ok []

theorem exec_sessionClose_of_open {h : Word64} {y : Session} {s : State} (hr : s.boot.cxlReleased = true) (hy : s.session h = some y) :
    exec (.sessionClose h) s = .next (s.closed h) := by
  refine congrArg Host.Outcome.next ?_
  rw [if_neg (by simp [hr]), hy]
  rfl

theorem State.closed_session (s : State) (h k : Word64) : (s.closed h).session k = if k = h then none else s.session k := by
  change (s.host.sessions.filter (fun y => decide (y.handle ≠ h))).find? (fun y => y.handle = k) = _
  rw [List.find?_filter]
  split
  · next hk =>
    refine List.find?_eq_none.2 fun y _ => ?_
    simp [hk]
  · next hk =>
    refine congrArg (fun f => s.host.sessions.find? f) (funext fun y => ?_)
    by_cases hy : y.handle = k <;> simp [hy, hk]

/-! ## CTX_CREATE (R11, R159, R161, R180) -/

/-- A table filled with a value for each of some keys. -/
theorem tget_foldl_tset (g : Nat → Nat) (qs : List Nat) (t : Table Nat) (q : Nat) :
    tget 0 ((qs.map (fun q => (q, g q))).foldl (fun t x => tset 0 t x.1 x.2) t) q = if q ∈ qs then g q else tget 0 t q := by
  induction qs generalizing t with
  | nil => rfl
  | cons p qs ih =>
    rw [List.map_cons, List.foldl_cons, ih]
    by_cases hq : q ∈ qs
    · simp [hq]
    · by_cases hp : q = p
      · subst hp; simp [hq]
      · simp [hq, hp, tget_tset_ne]

/-- Slots given to a context, one in each of some quadrants. -/
def State.giveSlots (s : State) (c : Nat) (g : Nat → Nat) (qs : List Nat) : State :=
  (qs.map (fun q => (q, g q))).foldl (fun (s : State) x => s.modSlot x.1 x.2 (fun _ => { Slot.init with ctx := some c })) s

theorem State.giveSlots_cons (s : State) (c : Nat) (g : Nat → Nat) (p : Nat) (qs : List Nat) :
    s.giveSlots c g (p :: qs) = (s.modSlot p (g p) (fun _ => { Slot.init with ctx := some c })).giveSlots c g qs := rfl

theorem State.giveSlots_eq (s : State) (c : Nat) (g : Nat → Nat) (qs : List Nat) :
    s.giveSlots c g qs = { s with quads := (s.giveSlots c g qs).quads } := by
  induction qs generalizing s with
  | nil => rfl
  | cons p qs ih =>
    rw [State.giveSlots_cons]
    exact ih _

theorem State.giveSlots_slot (s : State) (c : Nat) (g : Nat → Nat) (qs : List Nat) (q sl : Nat) :
    (s.giveSlots c g qs).slot q sl = if q ∈ qs ∧ sl = g q then { Slot.init with ctx := some c } else s.slot q sl := by
  induction qs generalizing s with
  | nil => simp [State.giveSlots]
  | cons p qs ih =>
    rw [State.giveSlots_cons, ih]
    rw [State.slot_modSlot]
    by_cases hq : q ∈ qs ∧ sl = g q
    · simp [hq]
    · by_cases hp : q = p
      · subst hp
        simp [hq]
      · simp [hq, hp]

theorem State.giveSlots_quad (s : State) (c : Nat) (g : Nat → Nat) (qs : List Nat) {q : Nat} (hq : q ∉ qs) :
    (s.giveSlots c g qs).quad q = s.quad q := by
  induction qs generalizing s with
  | nil => rfl
  | cons p qs ih =>
    rw [State.giveSlots_cons, ih _ (fun h => hq (List.mem_cons_of_mem _ h))]
    exact s.quad_setQuad_ne _ fun h => hq (h ▸ List.mem_cons_self)

/-- The slot that CTX_CREATE takes in a quadrant. -/
def State.slotTaken (s : State) (q : Nat) : Nat := (s.freeSlotIn q).getD 0

/-- The state with a context created over a span. -/
def State.created (s : State) (c : Nat) (qs : BitVec 4) (prio : BitVec 8) : State :=
  (((s.setCtx c { Ctx.init with
    live := true, span := qs
    slotIn := ((bitsSet qs).map (fun q => (q, s.slotTaken q))).foldl (fun t x => tset 0 t x.1 x.2) [] }).giveSlots c s.slotTaken
      (bitsSet qs)).modCfg c (fun g => { g with priority := prio, hazLog := [], hazCount := [] })).answer Code.ok [BitVec.ofNat 8 c]

theorem State.createdSlots (s : State) (qs : BitVec 4) :
    (((bitsSet qs).map (fun q => (q, s.freeSlotIn q))).map (fun x => (x.1, x.2.getD 0))) =
      (bitsSet qs).map (fun q => (q, s.slotTaken q)) := by
  rw [List.map_map]
  rfl

/-- CTX_CREATE of the operator with a free context number and a free slot in every quadrant of the span. -/
theorem exec_ctxCreate {h : Word64} {qs : BitVec 4} {prio : BitVec 8} {c : Nat} {s : State} (hg : s.grants h none) (hq : qs ≠ 0)
    (hp : prio.toNat ≤ 3) (hc : c < 16) (hf : (s.ctx c).live = false) (hl : ∀ i, i < c → (s.ctx i).live = true)
    (hs : ∀ q ∈ bitsSet qs, (s.freeSlotIn q).isSome = true) : exec (.ctxCreate h qs prio) s = .next (s.created c qs prio) := by
  have lowest : (List.range 16).find? (fun c => !(s.ctx c).live) = some c :=
    List.find?_range_eq_some.2 ⟨by simp [hf], List.mem_range.2 hc, fun i hi => by simp [hl i hi]⟩
  have slots : (((bitsSet qs).map (fun q => (q, s.freeSlotIn q))).any (fun x => x.2.isNone)) = false := by
    refine List.any_eq_false.2 fun x hx => ?_
    obtain ⟨q, hq, rfl⟩ := List.mem_map.1 hx
    simp [Option.isSome_iff_ne_none.1 (hs q hq)]
  refine congrArg Host.Outcome.next ((s.request_of_grants h _ _ hg).trans ?_)
  dsimp only
  rw [if_neg fun h => h.elim hq (Nat.not_lt.2 hp), lowest]
  dsimp only
  rw [slots, s.createdSlots]
  rfl

/-- The new context. -/
def Ctx.created (s : State) (qs : BitVec 4) : Ctx :=
  { Ctx.init with
    live := true, span := qs
    slotIn := ((bitsSet qs).map (fun q => (q, s.slotTaken q))).foldl (fun t x => tset 0 t x.1 x.2) [] }

theorem State.created_eq (s : State) (c : Nat) (qs : BitVec 4) (prio : BitVec 8) :
    s.created c qs prio = { s with
      ctxs := tset Ctx.init s.ctxs c (Ctx.created s qs)
      quads := ((s.setCtx c (Ctx.created s qs)).giveSlots c s.slotTaken (bitsSet qs)).quads
      cfgs := tset CtxCfg.init s.cfgs c { s.cfg c with priority := prio, hazLog := [], hazCount := [] }
      out := .msix 16 :: .mailbox 0 [BitVec.ofNat 8 c] :: s.out } := by
  unfold State.created
  rw [State.giveSlots_eq]
  rfl

theorem State.created_ctx (s : State) (c : Nat) (qs : BitVec 4) (prio : BitVec 8) (i : Nat) :
    (s.created c qs prio).ctx i = if i = c then Ctx.created s qs else s.ctx i := by
  rw [State.created_eq]
  exact tget_tset Ctx.init s.ctxs c i (Ctx.created s qs)

theorem State.created_cfg (s : State) (c : Nat) (qs : BitVec 4) (prio : BitVec 8) :
    (s.created c qs prio).cfg c = { s.cfg c with priority := prio, hazLog := [], hazCount := [] } := by
  rw [State.created_eq]
  exact tget_tset_same CtxCfg.init s.cfgs c _

theorem State.created_quad (s : State) (c : Nat) (qs : BitVec 4) (prio : BitVec 8) (q : Nat) :
    (s.created c qs prio).quad q = ((s.setCtx c (Ctx.created s qs)).giveSlots c s.slotTaken (bitsSet qs)).quad q := by
  rw [State.created_eq]
  rfl

theorem State.created_slot (s : State) (c : Nat) (qs : BitVec 4) (prio : BitVec 8) (q sl : Nat) :
    (s.created c qs prio).slot q sl =
      if q ∈ bitsSet qs ∧ sl = s.slotTaken q then { Slot.init with ctx := some c } else s.slot q sl :=
  (congrArg (fun x => Quad.slot x sl) (s.created_quad c qs prio q)).trans (State.giveSlots_slot _ _ _ _ q sl)

theorem Ctx.created_slotIn (s : State) {qs : BitVec 4} {q : Nat} (hq : q ∈ bitsSet qs) :
    tget 0 (Ctx.created s qs).slotIn q = s.slotTaken q := (tget_foldl_tset _ _ _ q).trans (if_pos hq)

theorem exec_ctxCreate_of_bad {h : Word64} {qs : BitVec 4} {prio : BitVec 8} {s : State} (hg : s.grants h none)
    (hb : qs = 0 ∨ 3 < prio.toNat) : exec (.ctxCreate h qs prio) s = .next (s.answer Code.badRequest []) := by
  refine congrArg Host.Outcome.next ((s.request_of_grants h _ _ hg).trans ?_)
  exact if_pos hb

theorem exec_ctxCreate_of_full {h : Word64} {qs : BitVec 4} {prio : BitVec 8} {s : State} (hg : s.grants h none) (hq : qs ≠ 0)
    (hp : prio.toNat ≤ 3) (hf : (∀ c, c < 16 → (s.ctx c).live = true) ∨ ∃ q ∈ bitsSet qs, s.freeSlotIn q = none) :
    exec (.ctxCreate h qs prio) s = .next (s.answer Code.noSlot []) := by
  refine congrArg Host.Outcome.next ((s.request_of_grants h _ _ hg).trans ?_)
  dsimp only
  rw [if_neg fun h => h.elim hq (Nat.not_lt.2 hp)]
  split
  · rfl
  · next c hc =>
    rcases hf with all | ⟨q, hq, none⟩
    · obtain ⟨free, small, _⟩ := List.find?_range_eq_some.1 hc
      simp [all c (List.mem_range.1 small)] at free
    · refine if_pos (List.any_eq_true.2 ⟨(q, s.freeSlotIn q), List.mem_map.2 ⟨q, hq, rfl⟩, ?_⟩)
      simp [none]

/-! ## CTX_RESET and CTX_DESTROY (R176, R203, R327, R544) -/

theorem State.ctx_of_unown {s t : State} {ps : List Nat} (h : t.still = s.still.unown ps) (c : Nat) :
    (t.ctx c).still = (s.ctx c).still := congrArg (fun x : Still => x.ctx c) h

theorem State.blank_of_unown {s t : State} {ps : List Nat} (h : t.still = s.still.unown ps) : t.blank = s.blank :=
  congrArg Still.rest h

theorem State.owner_of_unowned {t : State} {c p : Nat} (h : t.still.owner p ≠ some c) (hp : (t.pen p).st = 1) :
    (t.pen p).owner.toNat ≠ c := fun own => h (by
  change (t.pen p).liveOwner = some c
  rw [Pennant.liveOwner, if_pos hp, own])

theorem Ctx.of_still {x y : Ctx} (h : x.still = y.still) :
    x.resetting = y.resetting ∧ x.replies = y.replies ∧ x.span = y.span ∧ x.slotIn = y.slotIn :=
  ⟨by simpa only [Ctx.still] using congrArg Ctx.resetting h, by simpa only [Ctx.still] using congrArg Ctx.replies h,
    by simpa only [Ctx.still] using congrArg Ctx.span h, by simpa only [Ctx.still] using congrArg Ctx.slotIn h⟩

/-- A reset that begins marks the context, and keeps its requests, its span and its slots. -/
theorem State.beginReset_marks (s : State) (c : Nat) :
    ((s.beginReset c).ctx c).resetting = true ∧ ((s.beginReset c).ctx c).replies = (s.ctx c).replies ∧
      ((s.beginReset c).ctx c).span = (s.ctx c).span ∧ ((s.beginReset c).ctx c).slotIn = (s.ctx c).slotIn := by
  obtain ⟨ps, same, _⟩ := s.beginReset_still c
  have marked := State.ctx_of_unown same c
  rw [State.ctx_modCtx_same] at marked
  exact Ctx.of_still marked

/-- No live pennant is the context's any more. -/
theorem State.beginReset_pen (s : State) (c p : Nat) (hp : ((s.beginReset c).pen p).st = 1) :
    ((s.beginReset c).pen p).owner.toNat ≠ c := by
  obtain ⟨_, _, unowned⟩ := s.beginReset_still c
  exact State.owner_of_unowned (unowned p) hp

theorem State.modCtx_blank (s : State) (c : Nat) (f : Ctx → Ctx) : (s.modCtx c f).blank = s.blank := rfl

theorem State.beginReset_blank (s : State) (c : Nat) : (s.beginReset c).blank = s.blank := by
  obtain ⟨ps, same, _⟩ := s.beginReset_still c
  exact (State.blank_of_unown same).trans (s.modCtx_blank c _)

theorem exec_ctxReset_of_live {h : Word64} {c : Fin 16} {s : State} (hg : s.grants h (some c.val)) (hl : (s.ctx c).live = true)
    (hr : (s.ctx c).resetting = false) :
    exec (.ctxReset (some h) c) s = .next ((s.beginReset c).modCtx c (fun x => { x with replies := x.replies + 1 })) := by
  refine congrArg Host.Outcome.next ((s.request_of_grants h _ _ hg).trans ?_)
  unfold State.askReset
  rw [if_neg (by simp [hl]), if_neg (by simp [hr])]

theorem exec_ctxReset_of_resetting {h : Word64} {c : Fin 16} {s : State} (hg : s.grants h (some c.val)) (hl : (s.ctx c).live = true)
    (hr : (s.ctx c).resetting = true) :
    exec (.ctxReset (some h) c) s = .next (s.modCtx c (fun x => { x with replies := x.replies + 1 })) := by
  refine congrArg Host.Outcome.next ((s.request_of_grants h _ _ hg).trans ?_)
  unfold State.askReset
  rw [if_neg (by simp [hl]), if_pos hr]

theorem exec_ctxReset_of_absent {h : Word64} {c : Fin 16} {s : State} (hg : s.grants h (some c.val)) (hl : (s.ctx c).live = false) :
    exec (.ctxReset (some h) c) s = .next (s.answer Code.badRequest []) := by
  refine congrArg Host.Outcome.next ((s.request_of_grants h _ _ hg).trans ?_)
  exact if_pos hl

theorem exec_ctxReset_can_of_unheard {c : Fin 16} {s : State}
    (hn : s.usdoUp = false ∨ s.boot.stage ≠ 7 ∨ (s.ctx c).live = false ∨ (s.ctx c).resetting = true) :
    exec (.ctxReset none c) s = .next s := by
  refine congrArg Host.Outcome.next ?_
  dsimp only
  split
  · next hh =>
    obtain ⟨up, stage, live⟩ := hh
    have resetting : (s.ctx c).resetting = true := by simpa [up, stage, live] using hn
    exact if_pos resetting
  · rfl

theorem exec_ctxReset_can {c : Fin 16} {s : State} (hu : s.usdoUp = true) (hs : s.boot.stage = 7) (hl : (s.ctx c).live = true)
    (hr : (s.ctx c).resetting = false) : exec (.ctxReset none c) s = .next (s.beginReset c) := by
  refine congrArg Host.Outcome.next ?_
  dsimp only
  unfold State.askReset
  rw [if_pos ⟨hu, hs, hl⟩, if_neg (by simp [hr])]

theorem exec_ctxDestroy_of_absent {h : Word64} {c : Fin 16} {s : State} (hg : s.grants h none)
    (hc : (s.ctx c).live = false ∨ (s.ctx c).resetting = true) : exec (.ctxDestroy h c) s = .next (s.answer Code.badRequest []) := by
  refine congrArg Host.Outcome.next ((s.request_of_grants h _ _ hg).trans ?_)
  exact if_pos hc

theorem exec_ctxDestroy_of_live {h : Word64} {c : Fin 16} {s : State} (hg : s.grants h none) (hl : (s.ctx c).live = true)
    (hr : (s.ctx c).resetting = false) :
    exec (.ctxDestroy h c) s = .next (((s.beginReset c).endContext c 1).answer Code.ok []) := by
  refine congrArg Host.Outcome.next ((s.request_of_grants h _ _ hg).trans ?_)
  exact if_neg (by simp [hl, hr])

/-! ## QUAD_MODE (R52) -/

theorem exec_quadMode_of_free {h : Word64} {q : Fin 4} {shared : Bool} {s : State} (hg : s.grants h none)
    (hf : ∀ sl, sl < 4 → (s.slot q sl).ctx = none) :
    exec (.quadMode h q shared) s = .next ((s.modQuad q (fun x => { x with shared := shared })).answer Code.ok []) := by
  refine congrArg Host.Outcome.next ((s.request_of_grants h _ _ hg).trans ?_)
  refine if_neg ?_
  simp only [List.any_eq_true, List.mem_range, not_exists, not_and]
  intro sl hsl
  simp [hf sl hsl]

theorem exec_quadMode_of_taken {h : Word64} {q : Fin 4} {shared : Bool} {s : State} (hg : s.grants h none)
    (ht : ∃ sl, sl < 4 ∧ (s.slot q sl).ctx ≠ none) : exec (.quadMode h q shared) s = .next (s.answer Code.modeBusy []) := by
  obtain ⟨sl, hsl, taken⟩ := ht
  refine congrArg Host.Outcome.next ((s.request_of_grants h _ _ hg).trans ?_)
  exact if_pos (List.any_eq_true.2 ⟨sl, List.mem_range.2 hsl, Option.isSome_iff_ne_none.2 taken⟩)

/-- Settles O52: a request is heard by its session and its context or answered; what a reset and an end leave is said of them above. -/
theorem sessionsContextsAndModes : Obligations.SessionsContextsAndModes := by
  unfold Obligations.SessionsContextsAndModes
  refine ⟨fun i h s hi => ⟨exec_of_unreleased hi s, fun hr hs hd hc => ?_, fun k hk hg hne habs => ?_⟩,
    fun role ctx token s => ⟨fun hr => congrArg Host.Outcome.next (if_pos hr), exec_sessionOpen_of_refused role ctx token s⟩,
    fun role ctx token s hr hl hn => ⟨fun hd ht => ?_, exec_sessionOpen_of_wrong hr hl hn⟩, fun s => rfl,
    fun h y s hr hy => ?_, fun h qs prio c s hg hq hp hc hf hl hs => ?_,
    fun h qs prio s hg => ⟨exec_ctxCreate_of_bad hg, exec_ctxCreate_of_full hg⟩,
    fun h c s hg => ⟨exec_ctxReset_of_absent hg, exec_ctxReset_of_resetting hg⟩, fun h c s hg => exec_ctxDestroy_of_absent hg,
    fun h c s hg hl hr => ?_, fun c s => ⟨exec_ctxReset_can_of_unheard, fun hu hs hl hr => ?_⟩, fun h c s hg hl hr => ?_,
    fun h q shared s hg => ⟨exec_quadMode_of_free hg, exec_quadMode_of_taken hg⟩⟩
  · obtain ⟨who, f, hf⟩ := exec_request hi hd hc
    rw [hf, s.request_of_early h who f hr hs]
  · obtain ⟨f, hf⟩ := exec_onCtx hi hk hne
    rw [hf, s.onCtx_of_absent h k f hg habs]
  · exact ⟨s.opened role ctx, _, exec_sessionOpen_of_token hr hl hn hd ht, rfl, rfl, rfl⟩
  · refine ⟨s.closed h, exec_sessionClose_of_open hr hy, ?_, fun k hk => ?_, rfl⟩
    · rw [State.closed_session, if_pos rfl]
    · rw [State.closed_session, if_neg hk]
  · have slotIn := fun q (hq : q ∈ bitsSet qs) => Ctx.created_slotIn s hq
    refine ⟨s.created c qs prio, exec_ctxCreate hg hq hp hc hf hl hs, ?_, fun i hi => ?_, fun q hq => ⟨?_, fun sl => ?_⟩,
      fun q hq => ?_, s.created_cfg c qs prio, ?_⟩
    · rw [State.created_ctx, if_pos rfl]
      rfl
    · rw [State.created_ctx, if_neg hi]
    · rw [State.created_ctx, if_pos rfl, slotIn q hq, State.slotTaken]
      obtain ⟨sl, taken⟩ := Option.isSome_iff_exists.1 (hs q hq)
      simp [taken]
    · rw [State.created_ctx, if_pos rfl, slotIn q hq, State.created_slot]
      simp [hq]
    · rw [State.created_quad, State.giveSlots_quad _ _ _ _ hq]
      rfl
    · conv_lhs => rw [State.created_eq]
      rw [State.created_eq]
  · obtain ⟨marked, replies, _, _⟩ := s.beginReset_marks c
    refine ⟨_, exec_ctxReset_of_live hg hl hr, ?_, ?_, fun p => ?_, ?_⟩
    · rw [State.ctx_modCtx_same]
      dsimp only
      exact marked
    · rw [State.ctx_modCtx_same]
      dsimp only
      rw [replies]
    · rw [State.pen_modCtx]
      exact s.beginReset_pen c p
    · exact State.eq_of_blank ((State.modCtx_blank _ _ _).trans (s.beginReset_blank c))
  · obtain ⟨marked, replies, _, _⟩ := s.beginReset_marks c
    exact ⟨_, exec_ctxReset_can hu hs hl hr, marked, replies, s.beginReset_pen c, State.eq_of_blank (s.beginReset_blank c)⟩
  · obtain ⟨_, _, span, slotIn⟩ := s.beginReset_marks c
    refine ⟨_, exec_ctxDestroy_of_live hg hl hr, State.endContext_ctx _ c 1, fun q hq => ?_, State.endContext_sessions _ c 1,
      State.endContext_digest _ c 1, rfl⟩
    have empty := State.endContext_slot (s.beginReset c) c 1 (q := q) (by rw [span]; exact hq)
    rw [slotIn] at empty
    exact empty

end Sys2Proof.Machine
end

section
/-! PROOF. Changes of point, resets that end, and loads (R152 to R157, R176, R356). -/

namespace Sys2Proof.Machine

/-! ## FREQ_CHANGE_COMPLETE (R356 to R358) -/

/-- A quadrant at its new point, its statistics begun anew. -/
def Quad.repointed (x : Quad) (p : Nat) : Quad :=
  { x with
    changing := false, chosen := none, point := p, issuedHere := 0, lateAt := [], forced := false, sinceRecess := 0, idle := 0
    rateK := 0 }

/-- The state with a quadrant at its new point and no word held back. -/
def State.repointed (s : State) (q p : Nat) : State :=
  (List.range 4).foldl (fun (s : State) sl => s.modSlot q sl (fun y => { y with heldFirst := false }))
    (s.setQuad q ((s.quad q).repointed p))

/-- The debts of a quadrant are paid, and the change is counted. -/
def State.paid (s : State) (q : Nat) : State :=
  { s with
    banks := tmap Bank.init s.banks (fun u => quadOf u == q) (fun b => { b with debt := 0 })
    health := { s.health with freqChanges := bump s.health.freqChanges 1 } }

theorem State.repointed_seat (s : State) (q p : Nat) : ((s.repointed q p).quad q).seat = ((s.quad q).repointed p).seat := by
  have held : (s.setQuad q ((s.quad q).repointed p)).Calm (s.repointed q p) :=
    State.Calm.foldl _ (fun _ sl hs => hs.modSlot q sl fun _ => rfl) (State.Calm.refl _)
  rw [held.seat q, State.quad_setQuad_same]

theorem State.repointed_health (s : State) (q p : Nat) : (s.repointed q p).health = s.health := by
  refine State.foldl_keeps State.health _ (fun s sl => ?_) _ _
  rfl

theorem State.paid_debt (s : State) (q u : Nat) (hu : quadOf u = q) : ((s.paid q).bank u).debt = 0 := by
  change (tget Bank.init (tmap Bank.init s.banks (fun u => quadOf u == q) (fun b => { b with debt := 0 })) u).debt = 0
  rw [tget_tmap _ _ _ _ rfl, if_pos (by simpa using hu)]

theorem exec_freqChangeComplete {q : Fin 4} {s : State} {p : Nat} (hc : (s.quad q).changing = true)
    (hp : (s.quad q).chosen = some p) :
    exec (.freqChangeComplete q) s = .next ((((List.range 5).foldl (fun (s : State) i => s.applyBand (5 * q + i))
      ((s.repointed q p).paid q)).pumpQuad q).kvPump) := by
  refine congrArg Host.Outcome.next ?_
  dsimp only
  rw [hc, hp]
  rfl

theorem exec_freqChangeComplete_of_none {q : Fin 4} {s : State} (h : (s.quad q).changing = false ∨ (s.quad q).chosen = none) :
    exec (.freqChangeComplete q) s = .next s := by
  refine congrArg Host.Outcome.next ?_
  dsimp only
  split
  · next hc hp => simp [hc, hp] at h
  · rfl

/-! ## CTX_RESET_COMPLETE (R176) -/

/-- Answers keep what one answer keeps. -/
theorem State.answers_keep {β : Type} (p : State → β) (h : ∀ s : State, p (s.answer Code.ok []) = p s) (n : Nat) (s : State) :
    p ((List.range n).foldl (fun (s : State) _ => s.answer Code.ok []) s) = p s :=
  State.foldl_keeps p (fun (s : State) _ => s.answer Code.ok []) (fun s _ => h s) _ s

theorem State.answers_out (n : Nat) (s : State) :
    ((List.range n).foldl (fun (s : State) _ => s.answer Code.ok []) s).out =
      (List.replicate n [Output.msix 16, .mailbox 0 []]).flatten ++ s.out := by
  induction n with
  | zero => rfl
  | succ n ih =>
    rw [List.range_succ, List.foldl_append, List.replicate_succ, List.flatten_cons, List.append_assoc, ← ih]
    rfl

theorem exec_ctxResetComplete {c : Fin 16} {s : State} (hr : (s.ctx c).resetting = true) :
    exec (.ctxResetComplete c) s = .next ((List.range (s.ctx c).replies).foldl (fun (s : State) _ => s.answer Code.ok [])
      (s.endContext c (if (s.ctx c).hostLost then 2 else 0))) := by
  refine congrArg Host.Outcome.next ?_
  exact if_neg (by simp [hr])

/-! ## Loads that end (R137, R153 to R157) -/

@[simp] theorem State.enterBuffer_tt (s : State) (c n q : Nat) : ((s.enterBuffer c n).quad q).tt = (s.quad q).tt := by
  induction n generalizing s with
  | zero => rfl
  | succ n ih =>
    unfold State.enterBuffer
    dsimp only
    split
    · rfl
    · split
      · rw [ih]
        split
        · next p _ =>
          unfold State.modSlot
          by_cases hq : q = p.1
          · subst hq
            rw [State.quad_modQuad_same]
            rfl
          · exact congrArg Quad.tt (State.quad_setQuad_ne _ _ hq)
        · rfl
      · rfl

@[simp] theorem State.post_tt (s : State) (c : Nat) (r : Report) (q : Nat) : ((s.post c r).quad q).tt = (s.quad q).tt := by
  unfold State.post State.postFrom
  split
  · rfl
  · rw [State.enterBuffer_tt]
    rfl

theorem Ctx.load_of_still {x y : Ctx} (h : x.still = y.still) :
    x.loading = y.loading ∧ x.active = y.active ∧ x.half = y.half ∧ x.armed = y.armed :=
  ⟨by simpa only [Ctx.still] using congrArg Ctx.loading h, by simpa only [Ctx.still] using congrArg Ctx.active h,
    by simpa only [Ctx.still] using congrArg Ctx.half h, by simpa only [Ctx.still] using congrArg Ctx.armed h⟩

/-- A post leaves the load and the halves of a context alone. -/
theorem State.post_load (s : State) (c : Nat) (r : Report) (i : Nat) :
    ((s.post c r).ctx i).loading = (s.ctx i).loading ∧ ((s.post c r).ctx i).active = (s.ctx i).active ∧
      ((s.post c r).ctx i).half = (s.ctx i).half ∧ ((s.post c r).ctx i).armed = (s.ctx i).armed :=
  Ctx.load_of_still (State.ctx_of_still (s.post_still c r) i)

/-- Filled halves are the timetables' and nothing else. -/
theorem State.storeHalves_eq {s u : State} {c n : Nat} {m : List Byte} (h : s.storeHalves c n m = some u) :
    u = { s with quads := u.quads } := by
  refine List.foldlRecOn (motive := fun o : Option State => ∀ u, o = some u → u = { s with quads := u.quads }) _ _
    (fun u hu => ?_) (fun o ho q _ u hu => ?_) u h
  · cases hu
    rfl
  · cases o with
    | none => cases hu
    | some t =>
      have ht := ho t rfl
      unfold State.storeHalf at hu
      dsimp only at hu
      split at hu
      · cases hu
      · cases hu
        rw [ht]
        rfl

@[simp] theorem State.loadBounds_tt (s : State) (c q p : Nat) : ((s.loadBounds c q).quad p).tt = (s.quad p).tt := by
  unfold State.loadBounds
  dsimp only
  by_cases hp : p = q
  · subst hp
    rw [State.quad_modQuad_same]
    exact List.foldlRecOn (motive := fun x : Quad => x.tt = (s.quad p).tt) _ _ rfl fun x hx i _ => hx
  · exact congrArg Quad.tt (State.quad_setQuad_ne _ _ hp)

theorem State.swapHalves_of_some {s : State} {c : Nat} {h : HalfInfo} (ha : (s.ctx c).armed = some h) :
    s.swapHalves c = (bitsSet (s.ctx c).span).foldl (fun (s : State) q => s.loadBounds c q)
      (s.setCtx c { s.ctx c with active := !(s.ctx c).active, half := h, armed := none }) := by
  unfold State.swapHalves
  simp only [ha]

theorem State.swapHalves_tt (s : State) (c q : Nat) : ((s.swapHalves c).quad q).tt = (s.quad q).tt := by
  unfold State.swapHalves
  dsimp only
  split
  · rfl
  · rw [State.foldl_keeps (fun s : State => (s.quad q).tt) _ (fun s p => s.loadBounds_tt c p q)]
    rfl

theorem State.swapHalves_ctx {s : State} {c : Nat} {h : HalfInfo} (ha : (s.ctx c).armed = some h) :
    (s.swapHalves c).ctx c = { s.ctx c with active := !(s.ctx c).active, half := h, armed := none } := by
  rw [State.swapHalves_of_some ha, State.foldl_keeps (fun s : State => s.ctx c) _ (fun s q => s.loadBounds_ctx c q c),
    State.ctx_setCtx_same]

/-- The state as a load ends, before its image is looked at. -/
def State.loaded (s : State) (c : Nat) : State := s.setCtx c { s.ctx c with loading := none }

theorem exec_loadComplete_of_none {c : Fin 16} {s : State} (h : (s.ctx c).loading = none) : exec (.loadComplete c) s = .next s := by
  refine congrArg Host.Outcome.next ?_
  dsimp only
  rw [h]

theorem exec_loadComplete_of_refused {c : Fin 16} {l : Load} {s : State} (h : (s.ctx c).loading = some l) {f : Nat × Nat}
    (hf : (s.loaded c).refusal c l.image = some f) : exec (.loadComplete c) s =
      .next ((s.loaded c).post c (loadReport l.number (some f) ((s.loaded c).refusalCode c l.image f))) := by
  unfold State.loaded at hf
  refine congrArg Host.Outcome.next ?_
  dsimp only
  rw [h]
  dsimp only
  rw [hf]
  rfl

theorem exec_loadComplete_of_busy {c : Fin 16} {l : Load} {s : State} (h : (s.ctx c).loading = some l)
    (hf : (s.loaded c).refusal c l.image = none)
    (hs : (s.loaded c).storeHalves c l.number (l.image.take (imageLength l.image)) = none) :
    exec (.loadComplete c) s = .next ((s.loaded c).post c (loadBusyReport l.number)) := by
  unfold State.loaded at hf hs
  refine congrArg Host.Outcome.next ?_
  dsimp only
  rw [h]
  dsimp only
  rw [hf]
  dsimp only
  rw [hs]
  rfl

/-- The halves that a load arms. -/
def State.armedBy (u : State) (c : Nat) (l : Load) : HalfInfo :=
  ⟨l.number, imageTensors (l.image.take (imageLength l.image)), u.halfNames c (l.image.take (imageLength l.image))⟩

/-- The state with its halves filled and armed, and swapped where they may at once. -/
def State.armOrSwap (u : State) (c : Nat) (h : HalfInfo) (now : Bool) : State :=
  if now then (u.modCtx c (fun x => { x with armed := some h })).swapHalves c else u.modCtx c (fun x => { x with armed := some h })

theorem exec_loadComplete_of_good {c : Fin 16} {l : Load} {s u : State} (h : (s.ctx c).loading = some l)
    (hf : (s.loaded c).refusal c l.image = none)
    (hs : (s.loaded c).storeHalves c l.number (l.image.take (imageLength l.image)) = some u) :
    exec (.loadComplete c) s = .next ((u.armOrSwap c (u.armedBy c l)
      ((s.ctx c).dismissed && !decide (s.ring.period ≠ 0 ∧ s.ring.timebase % s.ring.period = 0))).post c
        (loadReport l.number none 0)) := by
  have ring : u.ring = s.ring := by
    rw [State.storeHalves_eq hs]
    rfl
  unfold State.loaded at hf hs
  rw [← ring]
  refine congrArg Host.Outcome.next ?_
  dsimp only
  rw [h]
  dsimp only
  rw [hf]
  dsimp only
  rw [hs]
  rfl

theorem State.armOrSwap_tt (u : State) (c : Nat) (h : HalfInfo) (now : Bool) (q : Nat) :
    ((u.armOrSwap c h now).quad q).tt = (u.quad q).tt := by
  unfold State.armOrSwap
  split
  · exact State.swapHalves_tt _ c q
  · rfl

theorem State.armOrSwap_ctx (u : State) (c : Nat) (h : HalfInfo) (now : Bool) : (u.armOrSwap c h now).ctx c =
    if now then { u.ctx c with active := !(u.ctx c).active, half := h, armed := none } else { u.ctx c with armed := some h } := by
  have armed : (u.modCtx c (fun x => { x with armed := some h })).ctx c = { u.ctx c with armed := some h } := u.ctx_modCtx_same c _
  unfold State.armOrSwap
  split
  · rw [State.swapHalves_ctx (h := h) (by rw [armed]), armed]
  · exact armed

/-- Loads that are refused, or that would write a half in use, leave halves and timetables alone. -/
theorem State.loaded_post (s : State) (c : Nat) (r : Report) :
    (((s.loaded c).post c r).ctx c).loading = none ∧ (((s.loaded c).post c r).ctx c).active = (s.ctx c).active ∧
      (((s.loaded c).post c r).ctx c).half = (s.ctx c).half ∧ (((s.loaded c).post c r).ctx c).armed = (s.ctx c).armed ∧
      ∀ q, (((s.loaded c).post c r).quad q).tt = (s.quad q).tt := by
  have own : (s.loaded c).ctx c = { s.ctx c with loading := none } := s.ctx_setCtx_same c _
  obtain ⟨loading, active, half, armed⟩ := (s.loaded c).post_load c r c
  rw [own] at loading active half armed
  exact ⟨loading, active, half, armed, fun q => (State.post_tt _ c r q).trans rfl⟩

/-! ## Loads that begin (R156) -/

theorem State.openGates_calm (s : State) (cols : List Nat) : s.Calm (s.openGates cols) := by
  refine State.Calm.foldl _ (fun s k hs => ?_) (State.Calm.refl s)
  split
  · exact hs
  · exact hs.demandGate _

theorem beginLoad_of_reached {s : State} {c n h : Nat} (hw : (s.ctx c).waitLoad = some (n, h)) (hl : (s.ctx c).loading = none)
    (ha : (s.ctx c).armed = none)
    (hr : (s.openGates (s.loadCols (s.desc c h))).reachAll (s.loadCols (s.desc c h)) = true) :
    ∃ image, ((s.beginLoad c).ctx c).waitLoad = none ∧ ((s.beginLoad c).ctx c).loading = some ⟨n, image⟩ ∧
      ((s.desc c h).live = false → image = []) ∧ (s.beginLoad c).boot = s.boot ∧
      (s.beginLoad c).ring.timebase = s.ring.timebase := by
  have opened := s.openGates_calm (s.loadCols (s.desc c h))
  rw [State.beginLoad_of_waits hw hl ha]
  dsimp only
  rw [if_neg (by simp [hr])]
  generalize s.openGates (s.loadCols (s.desc c h)) = u at opened
  by_cases live : (s.desc c h).live = true
  · have read := opened.readImage (s.desc c h)
    rw [if_pos live]
    generalize u.readImage (s.desc c h) = r at read ⊢
    have own := r.2.ctx_modCtx_same c (fun x => { x with waitLoad := none, loading := some ⟨n, r.1⟩ })
    exact ⟨r.1, by rw [own], by rw [own], fun dead => absurd live (by rw [dead]; exact Bool.false_ne_true), read.boot, read.time⟩
  · rw [if_neg live]
    have own := u.ctx_modCtx_same c (fun x => { x with waitLoad := none, loading := some ⟨n, []⟩ })
    exact ⟨[], by rw [own], by rw [own], fun _ => rfl, opened.boot, opened.time⟩

theorem beginLoad_of_unreached {s : State} {c n h : Nat} (hw : (s.ctx c).waitLoad = some (n, h)) (hl : (s.ctx c).loading = none)
    (ha : (s.ctx c).armed = none)
    (hr : (s.openGates (s.loadCols (s.desc c h))).reachAll (s.loadCols (s.desc c h)) = false) :
    s.beginLoad c = s.openGates (s.loadCols (s.desc c h)) := by
  rw [State.beginLoad_of_waits hw hl ha]
  exact if_pos hr

end Sys2Proof.Machine
end

section
/-! PROOF. The dismissal of a lesson that has drained everywhere (R27, R173, R401, R403), and O37. -/

namespace Sys2Proof.Machine

/-! ## What the close of a quadrant leaves alone -/

/-- While the quadrants of a lesson close, memory, host, ring, stacks and what is in flight stand, slots stay in their states, closed
ones closed, and of the context descriptors change only. -/
structure State.Closes (s : State) (c : Nat) (u : State) : Prop where
  mem : u.mem = s.mem
  host : u.host = s.host
  ring : u.ring = s.ring
  stk : u.stk = s.stk
  ctx : u.ctx c = { s.ctx c with descs := (u.ctx c).descs }
  use : u.bufferUse ≤ s.bufferUse
  flight : ∀ q, (u.quad q).xq = (s.quad q).xq ∧ (u.quad q).mq = (s.quad q).mq ∧ (u.quad q).dues = (s.quad q).dues ∧
    (u.quad q).masked = (s.quad q).masked
  st : ∀ q i, (u.slot q i).st = (s.slot q i).st
  closed : ∀ q i, (s.slot q i).closed = true → (u.slot q i).closed = true

namespace State.Closes

variable {s u v : State} {c : Nat}

theorem refl (s : State) (c : Nat) : s.Closes c s :=
  ⟨rfl, rfl, rfl, rfl, rfl, le_rfl, fun _ => ⟨rfl, rfl, rfl, rfl⟩, fun _ _ => rfl, fun _ _ h => h⟩

theorem trans (h : s.Closes c u) (h' : u.Closes c v) : s.Closes c v := by
  refine ⟨h'.mem.trans h.mem, h'.host.trans h.host, h'.ring.trans h.ring, h'.stk.trans h.stk, ?_, h'.use.trans h.use, fun q => ?_,
    fun q i => (h'.st q i).trans (h.st q i), fun q i hi => h'.closed q i (h.closed q i hi)⟩
  · have own := h'.ctx
    rw [h.ctx] at own
    exact own
  · obtain ⟨xq, mq, dues, masked⟩ := h.flight q
    obtain ⟨xq', mq', dues', masked'⟩ := h'.flight q
    exact ⟨xq'.trans xq, mq'.trans mq, dues'.trans dues, masked'.trans masked⟩

theorem lesson (h : s.Closes c u) : (u.ctx c).lesson = (s.ctx c).lesson := by rw [h.ctx]
theorem slotIn (h : s.Closes c u) : (u.ctx c).slotIn = (s.ctx c).slotIn := by rw [h.ctx]
theorem span (h : s.Closes c u) : (u.ctx c).span = (s.ctx c).span := by rw [h.ctx]

theorem foldl {α : Type} {f : State → α → State} (l : List α) (hf : ∀ u a, s.Closes c u → s.Closes c (f u a)) (h : s.Closes c u) :
    s.Closes c (l.foldl f u) := State.foldl_holds (s.Closes c) f hf l u h

theorem setQuad (h : s.Closes c u) (q : Nat) {x : Quad} (hf : x.xq = (u.quad q).xq ∧ x.mq = (u.quad q).mq ∧
    x.dues = (u.quad q).dues ∧ x.masked = (u.quad q).masked) (hs : ∀ i, (x.slot i).st = ((u.quad q).slot i).st ∧
      (((u.quad q).slot i).closed = true → (x.slot i).closed = true)) : s.Closes c (u.setQuad q x) := by
  have quad : ∀ p, (u.setQuad q x).quad p = if p = q then x else u.quad p := fun p => tget_tset Quad.init u.quads q p x
  refine h.trans ⟨rfl, rfl, rfl, rfl, rfl, le_rfl, fun p => ?_, fun p i => ?_, fun p i => ?_⟩
  · rw [quad]
    split
    · next hp => rw [hp]; exact hf
    · exact ⟨rfl, rfl, rfl, rfl⟩
  · unfold State.slot
    rw [quad]
    split
    · next hp => rw [hp]; exact (hs i).1
    · rfl
  · unfold State.slot
    rw [quad]
    split
    · next hp => rw [hp]; exact (hs i).2
    · exact id

/-- A change of some entries of the scoreboard of a quadrant. -/
theorem modEntries (h : s.Closes c u) (q base : Nat) (f : SbEntry → SbEntry) :
    s.Closes c (u.modQuad q (fun x => (List.range 64).foldl (fun (x : Quad) i => x.modEntry (base + i) f) x)) := by
  have same : ∃ sb, (List.range 64).foldl (fun (x : Quad) i => x.modEntry (base + i) f) (u.quad q) = { u.quad q with sb := sb } :=
    List.foldlRecOn (motive := fun y : Quad => ∃ sb, y = { u.quad q with sb := sb }) _ _ ⟨_, rfl⟩ fun y hy i _ => by
      obtain ⟨sb, rfl⟩ := hy
      exact ⟨_, rfl⟩
  obtain ⟨sb, hsb⟩ := same
  unfold State.modQuad
  dsimp only
  rw [hsb]
  exact h.setQuad q ⟨rfl, rfl, rfl, rfl⟩ fun _ => ⟨rfl, id⟩

theorem poisonDesc (h : s.Closes c u) (k : Nat) : s.Closes c (u.poisonDesc c k) := by
  have own := u.ctx_modCtx_same c (fun x => { x with descs := tmod 0 x.descs k (fun d => setBits d 493 1 1) })
  have use := u.bufferUse_setCtx_le c { u.ctx c with descs := tmod 0 (u.ctx c).descs k (fun d => setBits d 493 1 1) }
  refine h.trans ⟨rfl, rfl, rfl, rfl, ?_, Nat.le_of_add_le_add_right use, fun _ => ⟨rfl, rfl, rfl, rfl⟩, fun _ _ => rfl, fun _ _ h => h⟩
  unfold State.poisonDesc
  rw [own]

theorem markWritten (h : s.Closes c u) (q : Nat) : s.Closes c (u.markWritten c q) := foldl _ (fun _ _ hu => hu.poisonDesc _) h

theorem releaseEntries (h : s.Closes c u) (mark : Bool) (q : Nat) : s.Closes c (u.releaseEntries c mark q) := by
  unfold State.releaseEntries
  dsimp only
  refine modEntries ?_ q _ _
  split
  · exact h.markWritten q
  · exact h

theorem forgetWritten (h : s.Closes c u) (mark : Bool) (q : Nat) : s.Closes c (u.forgetWritten c mark q) := by
  unfold State.forgetWritten
  dsimp only
  refine modEntries ?_ q _ _
  split
  · exact h.markWritten q
  · exact h

theorem collectEvents (h : s.Closes c u) (q : Nat) : s.Closes c (u.collectEvents q) :=
  h.trans ⟨rfl, rfl, rfl, rfl, rfl, le_rfl, fun _ => ⟨rfl, rfl, rfl, rfl⟩, fun _ _ => rfl, fun _ _ h => h⟩

theorem closeSlot (h : s.Closes c u) (q sl : Nat) : s.Closes c (u.modSlot q sl (fun y => { y with closed := true })) := by
  refine h.setQuad q ⟨rfl, rfl, rfl, rfl⟩ fun i => ?_
  have slot : ((u.quad q).modSlot sl (fun y => { y with closed := true })).slot i =
      if i = sl then { (u.quad q).slot sl with closed := true } else (u.quad q).slot i := tget_tset Slot.init _ sl i _
  rw [slot]
  split
  · next hi => rw [hi]; exact ⟨rfl, fun _ => rfl⟩
  · exact ⟨rfl, id⟩

/-- What has drained stays drained. -/
theorem quadDrained (h : s.Closes c u) (q : Nat) : u.quadDrained c q = s.quadDrained c q := by
  unfold State.quadDrained State.settled State.runsIn
  simp only [h.slotIn, h.st, (h.flight _).1, (h.flight _).2.1, (h.flight _).2.2.1, (h.flight _).2.2.2]

end State.Closes

/-! ## Every quadrant of a drained lesson closes (R173, R403) -/

theorem HostSide.eq_of_none {x : HostSide} (hd : x.deferred = []) (hi : x.inFlight = []) (hs : x.stalled = []) :
    ({ x with deferred := [], inFlight := [], stalled := [] } : HostSide) = x := by
  cases x
  cases hd
  cases hi
  cases hs
  rfl

/-- With no access waiting nothing goes on. -/
theorem State.serveDeferred_of_none {s : State} (hd : s.host.deferred = []) (hi : s.host.inFlight = []) (hs : s.host.stalled = []) :
    s.serveDeferred = s := by
  unfold State.serveDeferred State.pumpReads
  simp only [hd, hi, hs, List.filter_nil, List.map_nil, List.foldl_nil, List.length_nil, State.unstall, BitVec.ofNat_toNat,
    BitVec.setWidth_eq]
  exact congrArg (fun x => ({ s with host := x } : State)) (HostSide.eq_of_none hd hi hs)

/-- The step that the end of a lesson takes in a quadrant. -/
def State.closeIn (s : State) (c q : Nat) : State :=
  let y := s.slot q (tget 0 (s.ctx c).slotIn q)
  let mark := match (s.ctx c).lesson with
    | some l => l.unsettledMark
    | none => false
  if s.quadDrained c q = false then s
  else if y.closed then (s.releaseEntries c mark q).serveDeferred
  else s.closeQuad c mark q

theorem State.closeQuads_eq (s : State) (c : Nat) :
    s.closeQuads c = (bitsSet (s.ctx c).span).foldl (fun (s : State) q => s.closeIn c q) s := rfl

theorem State.settledAll_iff (s : State) (c : Nat) : s.settledAll c = true ↔
    (∀ q ∈ bitsSet (s.ctx c).span, (s.slot q (tget 0 (s.ctx c).slotIn q)).closed = true) ∧
      s.ring.merges.any (fun m => m.ctx = c) = false ∧ s.owesAccess c = false := by
  simp only [State.settledAll, Bool.and_eq_true, List.all_eq_true, Bool.not_eq_true', and_assoc]

/-- No access waits for a column. -/
def HostSide.idle (x : HostSide) : Prop := x.deferred = [] ∧ x.inFlight = [] ∧ x.stalled = []

theorem State.serveDeferred_of_idle {s : State} (h : s.host.idle) : s.serveDeferred = s :=
  State.serveDeferred_of_none h.1 h.2.1 h.2.2

/-- A drained quadrant closes. -/
theorem State.Closes.closeQuad (u : State) (c : Nat) (mark : Bool) (q : Nat) (hu : u.host.idle) :
    u.Closes c (u.closeQuad c mark q) ∧ ((u.closeQuad c mark q).slot q (tget 0 (u.ctx c).slotIn q)).closed = true := by
  have released := ((State.Closes.refl u c).releaseEntries mark q).collectEvents q
  unfold State.closeQuad
  dsimp only
  rw [released.slotIn]
  have closed := released.closeSlot q (tget 0 (u.ctx c).slotIn q)
  rw [State.serveDeferred_of_idle (by rw [closed.host]; exact hu)]
  exact ⟨closed, congrArg Slot.closed (State.slot_modSlot_same _ _ _ _)⟩

theorem State.Closes.closeIn {s u : State} {c : Nat} (hs : s.host.idle) (h : s.Closes c u) {q : Nat} (hq : s.quadDrained c q = true) :
    u.Closes c (u.closeIn c q) ∧ ((u.closeIn c q).slot q (tget 0 (s.ctx c).slotIn q)).closed = true := by
  have hu : u.host.idle := by rw [h.host]; exact hs
  unfold State.closeIn
  dsimp only
  rw [if_neg (by simp [h.quadDrained, hq]), h.slotIn]
  generalize (match (u.ctx c).lesson with
    | some l => l.unsettledMark
    | none => false) = mark
  split
  · next hc =>
    have released := (State.Closes.refl u c).releaseEntries mark q
    rw [State.serveDeferred_of_idle (by rw [released.host]; exact hu)]
    exact ⟨released, released.closed _ _ hc⟩
  · obtain ⟨closes, closed⟩ := State.Closes.closeQuad u c mark q hu
    rw [h.slotIn] at closed
    exact ⟨closes, closed⟩

theorem State.Closes.closeAll {s : State} {c : Nat} (hs : s.host.idle) (qs : List Nat) {u : State} (h : s.Closes c u)
    (hq : ∀ q ∈ qs, s.quadDrained c q = true) :
    u.Closes c (qs.foldl (fun (s : State) q => s.closeIn c q) u) ∧
      ∀ q ∈ qs, ((qs.foldl (fun (s : State) q => s.closeIn c q) u).slot q (tget 0 (s.ctx c).slotIn q)).closed = true := by
  induction qs generalizing u with
  | nil => exact ⟨State.Closes.refl u c, fun q hq => absurd hq List.not_mem_nil⟩
  | cons p qs ih =>
    obtain ⟨step, closed⟩ := State.Closes.closeIn hs h (hq p List.mem_cons_self)
    obtain ⟨rest, each⟩ := ih (h.trans step) fun q hm => hq q (List.mem_cons_of_mem _ hm)
    refine ⟨step.trans rest, fun q hm => ?_⟩
    rcases List.mem_cons.1 hm with rfl | hm
    · exact rest.closed _ _ closed
    · exact each q hm

/-- A lesson that has drained everywhere is settled once its quadrants close. -/
theorem State.closeQuads_settles {s : State} {c : Nat} (hs : s.host.idle) (hd : s.drained c = true) (ho : s.owesAccess c = false) :
    s.Closes c (s.closeQuads c) ∧ (s.closeQuads c).settledAll c = true := by
  unfold State.drained at hd
  rw [Bool.and_eq_true, List.all_eq_true, Bool.not_eq_true'] at hd
  obtain ⟨drained, merges⟩ := hd
  obtain ⟨closes, closed⟩ := State.Closes.closeAll hs (bitsSet (s.ctx c).span) (State.Closes.refl s c) drained
  rw [State.closeQuads_eq, State.settledAll_iff, closes.span, closes.slotIn, closes.ring]
  refine ⟨closes, closed, merges, ?_⟩
  unfold State.owesAccess State.stack at ho ⊢
  rw [closes.host, closes.stk]
  exact ho

/-! ## The closing record (R401, R403) -/

/-- Records posted with room for all of them enter the buffer. -/
theorem State.posts_of_room {α : Type} (f : α → Report) (c : Nat) (rs : List α) {s : State} (hl : (s.ctx c).hostLost = false)
    (hq : (s.ctx c).queue = []) (hb : (s.ctx c).buffer.length + rs.length < 64) (hu : s.bufferUse + rs.length < 256) :
    ∃ es, s.withCtx c { s.ctx c with buffer := es } (rs.foldl (fun (s : State) r => s.post c (f r)) s) ∧
      es.length = (s.ctx c).buffer.length + rs.length ∧
      (rs.foldl (fun (s : State) r => s.post c (f r)) s).bufferUse ≤ s.bufferUse + rs.length := by
  induction rs generalizing s with
  | nil => exact ⟨_, ⟨rfl, fun _ _ => rfl, rfl⟩, rfl, le_rfl⟩
  | cons r rs ih =>
    rw [List.length_cons] at hb hu
    have room : s.roomFor c := ⟨hl, hq, by omega, by omega⟩
    have posted := State.post_of_room room (f r)
    have use : (s.post c (f r)).bufferUse ≤ s.bufferUse + 1 := State.postFrom_use room (f r) [] false
    rw [List.foldl_cons]
    generalize s.post c (f r) = t at posted use ⊢
    have own := posted.2.2
    obtain ⟨es, rest, len, use'⟩ := ih (s := t) (by rw [own]; exact hl) (by rw [own]; exact hq)
      (by rw [own]; simp only [List.length_append, List.length_singleton]; omega) (by omega)
    rw [own] at rest len
    refine ⟨es, posted.trans rest, ?_, ?_⟩
    · simp only [List.length_append, List.length_cons, List.length_nil] at len ⊢
      omega
    · rw [List.length_cons]
      omega

/-- The lesson at step 6 of its dismissal: its closing record is what is left. -/
def Lesson.atClose (l : Lesson) : Lesson := { l with closing := true }

/-- The closing record of a lesson is in the buffer, and of the context descriptors, lesson and buffer change only. -/
structure State.Posted (s : State) (c : Nat) (l : Lesson) (t : State) (ds : Table (BitVec 512)) (es : List Waiting) (r : Report) :
    Prop where
  mem : t.mem = s.mem
  ctx : t.ctx c = { s.ctx c with descs := ds, lesson := some l.atClose, buffer := es }
  record : ∃ e ∈ es, e.record = r
  type : r.type = 1
  roll : r.roll = l.roll
  status : r.status = if l.unsettledMark then Code.unsettled else Code.ok

theorem State.closeLesson_posts {s u : State} {c : Nat} {l : Lesson} (h : s.Closes c u) (hl : (s.ctx c).hostLost = false)
    (hq : (s.ctx c).queue = []) (hb : (s.ctx c).buffer.length + l.recompute.length < 64)
    (hu : s.bufferUse + l.recompute.length < 256) : ∃ ds es r, s.Posted c l (u.closeLesson c l) ds es r := by
  unfold State.closeLesson
  dsimp only
  have forgot : s.Closes c ((bitsSet (u.ctx c).span).foldl (fun (s : State) q => s.forgetWritten c l.unsettledMark q) u) :=
    State.Closes.foldl _ (fun _ q hs => hs.forgetWritten l.unsettledMark q) h
  generalize (bitsSet (u.ctx c).span).foldl (fun (s : State) q => s.forgetWritten c l.unsettledMark q) u = v at forgot
  have own : (v.modCtx c (fun x => { x with lesson := some { l with closing := true } })).ctx c =
      { s.ctx c with descs := (v.ctx c).descs, lesson := some l.atClose } := by
    rw [State.ctx_modCtx_same, forgot.ctx]
    rfl
  have use : (v.modCtx c (fun x => { x with lesson := some { l with closing := true } })).bufferUse ≤ s.bufferUse :=
    (Nat.le_of_add_le_add_right (v.bufferUse_setCtx_le c { v.ctx c with lesson := some { l with closing := true } })).trans forgot.use
  have mem : (v.modCtx c (fun x => { x with lesson := some { l with closing := true } })).mem = s.mem := forgot.mem
  generalize v.modCtx c (fun x => { x with lesson := some { l with closing := true } }) = w at own use mem
  obtain ⟨es, posted, len, used⟩ := State.posts_of_room (recomputeReport l) c l.recompute (s := w) (by rw [own]; exact hl)
    (by rw [own]; exact hq) (by rw [own]; exact hb) (by omega)
  generalize l.recompute.foldl (fun (s : State) r => s.post c (recomputeReport l r)) w = x at posted used
  obtain ⟨rest, -, own'⟩ := posted
  rw [own] at own' len
  have closing := State.postFrom_of_room (s := x) (c := c) ⟨by rw [own']; exact hl, by rw [own']; exact hq,
    by rw [own']; exact lt_of_eq_of_lt len hb, by omega⟩ (x.closingReport c l)
    ((bitsSet (x.ctx c).span).map (fun q => (q, (x.quad q).seq + 1))) false
  obtain ⟨rest', -, own''⟩ := closing
  refine ⟨(v.ctx c).descs, es ++ [⟨x.closingReport c l, (bitsSet (x.ctx c).span).map (fun q => (q, (x.quad q).seq + 1)), false, none⟩],
    x.closingReport c l, ?_, ?_, ⟨_, List.mem_append_right es List.mem_cons_self, rfl⟩, rfl, rfl, rfl⟩
  · rw [rest']
    exact (congrArg State.mem rest).trans mem
  · rw [own'', own']

/-! ## The lesson is over (R27, R155, R157) -/

theorem State.choosePoint_slots (s : State) (q p : Nat) : ((s.choosePoint q).quad p).slots = (s.quad p).slots := by
  unfold State.choosePoint
  dsimp only
  split
  · rfl
  · by_cases hp : p = q
    · subst hp
      rw [State.quad_setQuad_same]
    · rw [State.quad_setQuad_ne _ _ hp]

theorem State.choosePoint_ctxs (s : State) (q : Nat) : (s.choosePoint q).ctxs = s.ctxs := by
  unfold State.choosePoint
  dsimp only
  split <;> rfl

theorem State.loadBounds_slots (s : State) (c q p : Nat) : ((s.loadBounds c q).quad p).slots = (s.quad p).slots := by
  unfold State.loadBounds
  dsimp only
  by_cases hp : p = q
  · subst hp
    rw [State.quad_modQuad_same]
    exact List.foldlRecOn (motive := fun x : Quad => x.slots = (s.quad p).slots) _ _ rfl fun x hx i _ => hx
  · exact congrArg Quad.slots (State.quad_setQuad_ne _ _ hp)

theorem State.swapHalves_slots (s : State) (c q : Nat) : ((s.swapHalves c).quad q).slots = (s.quad q).slots := by
  unfold State.swapHalves
  dsimp only
  split
  · rfl
  · rw [State.foldl_keeps (fun s : State => (s.quad q).slots) _ (fun s p => s.loadBounds_slots c p q)]
    rfl

/-- A swap changes no more of the context than which half is active, which is armed, and what the active one holds. -/
theorem State.swapHalves_own (s : State) (c : Nat) :
    ∃ a h r, (s.swapHalves c).ctx c = { s.ctx c with active := a, half := h, armed := r } := by
  cases ha : (s.ctx c).armed with
  | none => exact ⟨_, _, _, by rw [s.swapHalves_of_none ha]⟩
  | some h => exact ⟨_, _, _, State.swapHalves_ctx ha⟩

/-- The slots of a span are dismissed. -/
def State.dismiss (s : State) (at_ : Nat → Nat) (qs : List Nat) : State :=
  qs.foldl (fun (s : State) q => s.modSlot q (at_ q) (fun y => { y with st := .dismissed, closed := false })) s

theorem State.dismiss_slot (at_ : Nat → Nat) (qs : List Nat) (s : State) {q : Nat} (hq : q ∈ qs) :
    ((s.dismiss at_ qs).slot q (at_ q)).st = .dismissed := by
  induction qs generalizing s with
  | nil => cases hq
  | cons p qs ih =>
    have first : ((s.modSlot p (at_ p) (fun y => { y with st := .dismissed, closed := false })).slot p (at_ p)).st = .dismissed :=
      congrArg Slot.st (s.slot_modSlot_same p (at_ p) _)
    unfold State.dismiss at ih ⊢
    rw [List.foldl_cons]
    by_cases hp : q = p
    · subst hp
      refine State.foldl_holds (fun t : State => (t.slot q (at_ q)).st = .dismissed) _ (fun t r ht => ?_) qs _ first
      rw [State.slot_modSlot]
      split
      · rfl
      · exact ht
    · exact ih _ ((List.mem_cons.1 hq).resolve_left hp)

theorem State.dismiss_ctxs (s : State) (at_ : Nat → Nat) (qs : List Nat) : (s.dismiss at_ qs).ctxs = s.ctxs := by
  refine State.foldl_keeps State.ctxs _ (fun s q => ?_) qs s
  rfl

/-- A context once its lesson is over. -/
def Ctx.finished (x : Ctx) : Ctx :=
  let after := x.accepted.dropWhile (·.skip)
  let done := match after.head? with
    | some a => BitVec.ofNat 12 ((a.slot + a.slots) % 4096)
    | none => x.done
  let roll := match x.lesson with
    | some l => l.roll
    | none => x.doneRoll
  { x with
    lesson := none, lessons := x.lessons + 1, done := done, doneRoll := roll, accepted := after.drop 1
    head := if x.hostLost then done else x.head, lastRoll := if x.hostLost then roll else x.lastRoll }

theorem State.finishLesson_eq (s : State) (c : Nat) : s.finishLesson c =
    (bitsSet (s.ctx c).span).foldl (fun (s : State) q => (s.choosePoint q).startChange q)
      ((((s.setCtx c (s.ctx c).finished).dismiss (tget 0 (s.ctx c).slotIn) (bitsSet (s.ctx c).span))).swapHalves c) := rfl

theorem State.finishLesson_ctx (s : State) (c : Nat) :
    ∃ a h r, (s.finishLesson c).ctx c = { (s.ctx c).finished with active := a, half := h, armed := r } := by
  obtain ⟨a, h, r, own⟩ := ((s.setCtx c (s.ctx c).finished).dismiss (tget 0 (s.ctx c).slotIn) (bitsSet (s.ctx c).span)).swapHalves_own c
  refine ⟨a, h, r, ?_⟩
  have dismissed : ((s.setCtx c (s.ctx c).finished).dismiss (tget 0 (s.ctx c).slotIn) (bitsSet (s.ctx c).span)).ctx c = (s.ctx c).finished := by
    unfold State.ctx
    rw [State.dismiss_ctxs]
    exact s.ctx_setCtx_same c _
  rw [dismissed] at own
  rw [← own, State.finishLesson_eq]
  unfold State.ctx
  rw [State.foldl_keeps State.ctxs _ (fun s q => by rw [State.startChange_ctxs, State.choosePoint_ctxs])]

theorem State.finishLesson_slot (s : State) (c : Nat) {q : Nat} (hq : q ∈ bitsSet (s.ctx c).span) :
    ((s.finishLesson c).slot q (tget 0 (s.ctx c).slotIn q)).st = .dismissed := by
  have dismissed := State.dismiss_slot (tget 0 (s.ctx c).slotIn) (bitsSet (s.ctx c).span) (s.setCtx c (s.ctx c).finished) hq
  rw [State.finishLesson_eq]
  unfold State.slot Quad.slot at dismissed ⊢
  rw [State.foldl_keeps (fun s : State => (s.quad q).slots) _ (fun s p => by rw [State.startChange_slots, State.choosePoint_slots]),
    State.swapHalves_slots]
  exact dismissed

/-! ## DISMISSAL_COMPLETE -/

theorem exec_dismissalComplete_of_none {c : Fin 16} {s : State} (h : (s.ctx c).lesson = none) :
    exec (.dismissalComplete c) s = .next s := by
  refine congrArg Host.Outcome.next ?_
  dsimp only
  rw [h]

/-- A lesson that settles as its quadrants close, with room for its records, is over. -/
theorem exec_dismissalComplete {c : Fin 16} {l : Lesson} {s : State} (hl : (s.ctx c).lesson = some l) (hc : l.closing = false)
    (hs : s.Closes c (s.closeQuads c)) (ha : (s.closeQuads c).settledAll c = true) {ds : Table (BitVec 512)} {es : List Waiting}
    {r : Report} (hp : s.Posted c l ((s.closeQuads c).closeLesson c l) ds es r) (hq : (s.ctx c).queue = []) :
    exec (.dismissalComplete c) s = .next (((s.closeQuads c).closeLesson c l).finishLesson c) := by
  have lesson : (((s.closeQuads c).closeLesson c l).ctx c).lesson = some l.atClose := by rw [hp.ctx]
  have queue : (((s.closeQuads c).closeLesson c l).ctx c).queue = [] := by rw [hp.ctx]; exact hq
  have lesson' := hs.lesson.trans hl
  refine congrArg Host.Outcome.next ?_
  simp only [hl, lesson', hc, ha, and_self, if_true, lesson, Ctx.closingWaits, queue, Lesson.atClose, List.any_nil, Bool.not_false,
    Bool.and_self]

theorem dismissal_ends {c : Fin 16} {l : Lesson} {s : State} (hl : (s.ctx c).lesson = some l) (hc : l.closing = false)
    (hd : s.drained c = true) (hi : s.host.idle) (ho : s.owesAccess c = false) (hh : (s.ctx c).hostLost = false)
    (hq : (s.ctx c).queue = []) (hb : (s.ctx c).buffer.length + l.recompute.length < 64)
    (hu : s.bufferUse + l.recompute.length < 256) :
    ∃ t, exec (.dismissalComplete c) s = .next t ∧ (t.ctx c).lesson = none ∧ (t.ctx c).lessons = (s.ctx c).lessons + 1 ∧
      (∀ q ∈ bitsSet (s.ctx c).span, (t.slot q (tget 0 (s.ctx c).slotIn q)).st = .dismissed) ∧
      (∃ r ∈ (t.ctx c).buffer, r.record.type = 1 ∧ r.record.roll = l.roll ∧
        r.record.status = if l.unsettledMark then Code.unsettled else Code.ok) ∧ t.mem = s.mem := by
  obtain ⟨closes, settled⟩ := State.closeQuads_settles hi hd ho
  obtain ⟨ds, es, r, posted⟩ := State.closeLesson_posts closes hh hq hb hu
  have done := exec_dismissalComplete hl hc closes settled posted hq
  generalize (s.closeQuads c).closeLesson c l = v at posted done
  obtain ⟨a, h, m, own⟩ := v.finishLesson_ctx c
  obtain ⟨mem, ctx, ⟨e, he, record⟩, type, roll, status⟩ := posted
  rw [ctx] at own
  refine ⟨_, done, by rw [own]; rfl, by rw [own]; rfl, fun q hq => ?_, ⟨e, by rw [own]; exact he, ?_⟩, ?_⟩
  · have slot := v.finishLesson_slot c (q := q) (by rw [ctx]; exact hq)
    rw [ctx] at slot
    exact slot
  · rw [record]
    exact ⟨type, roll, status⟩
  · rw [State.finishLesson_mem, mem]

/-! ## LOAD_COMPLETE, by what becomes of the image -/

theorem loadComplete_keeps {c : Fin 16} {l : Load} {s : State} (h : (s.ctx c).loading = some l)
    (hr : ((s.loaded c).refusal c l.image).isSome = true ∨
      (s.loaded c).storeHalves c l.number (l.image.take (imageLength l.image)) = none) :
    ∃ t, exec (.loadComplete c) s = .next t ∧ (t.ctx c).loading = none ∧ (t.ctx c).active = (s.ctx c).active ∧
      (t.ctx c).half = (s.ctx c).half ∧ (t.ctx c).armed = (s.ctx c).armed ∧ ∀ q, (t.quad q).tt = (s.quad q).tt := by
  cases hf : (s.loaded c).refusal c l.image with
  | some f => exact ⟨_, exec_loadComplete_of_refused h hf, s.loaded_post c _⟩
  | none =>
    have busy := hr.resolve_left (by rw [hf]; exact Bool.false_ne_true)
    exact ⟨_, exec_loadComplete_of_busy h hf busy, s.loaded_post c _⟩

theorem loadComplete_arms {c : Fin 16} {l : Load} {s u : State} (h : (s.ctx c).loading = some l)
    (hf : (s.loaded c).refusal c l.image = none)
    (hs : (s.loaded c).storeHalves c l.number (l.image.take (imageLength l.image)) = some u) :
    ∃ t, exec (.loadComplete c) s = .next t ∧ (t.ctx c).loading = none ∧ (∀ q, (t.quad q).tt = (u.quad q).tt) ∧
      (if (s.ctx c).lesson = none ∧ ¬ (s.ring.period ≠ 0 ∧ s.ring.timebase % s.ring.period = 0) then
        (t.ctx c).armed = none ∧ (t.ctx c).active = !(s.ctx c).active ∧ (t.ctx c).half.seq = l.number
       else (t.ctx c).active = (s.ctx c).active ∧ (t.ctx c).half = (s.ctx c).half ∧
        ∃ h, (t.ctx c).armed = some h ∧ h.seq = l.number) := by
  have own : u.ctx c = { s.ctx c with loading := none } := by
    rw [State.storeHalves_eq hs]
    exact s.ctx_setCtx_same c _
  refine ⟨_, exec_loadComplete_of_good h hf hs, ?_⟩
  have now : ((s.ctx c).dismissed && !decide (s.ring.period ≠ 0 ∧ s.ring.timebase % s.ring.period = 0)) = true ↔
      (s.ctx c).lesson = none ∧ ¬ (s.ring.period ≠ 0 ∧ s.ring.timebase % s.ring.period = 0) := by
    simp [Ctx.dismissed, imp_iff_not_or]
  generalize ((s.ctx c).dismissed && !decide (s.ring.period ≠ 0 ∧ s.ring.timebase % s.ring.period = 0)) = b at now ⊢
  have after := u.armOrSwap_ctx c (u.armedBy c l) b
  have tt := u.armOrSwap_tt c (u.armedBy c l) b
  generalize u.armOrSwap c (u.armedBy c l) b = v at after tt ⊢
  obtain ⟨loading, active, half, armed⟩ := v.post_load c (loadReport l.number none 0) c
  rw [loading, active, half, armed, after, own]
  refine ⟨?_, fun q => (v.post_tt c _ q).trans (tt q), ?_⟩
  · cases b <;> rfl
  · cases b with
    | true =>
      rw [if_pos (now.1 rfl)]
      exact ⟨rfl, rfl, rfl⟩
    | false =>
      rw [if_neg fun h => absurd (now.2 h) Bool.false_ne_true]
      exact ⟨rfl, rfl, _, rfl, rfl⟩

/-- Settles O37: drained quadrants close and the record enters the buffer; loads by what becomes of the image; a change of point and a
reset by what accesses leave alone. -/
theorem lessonsCloseAndLoadsSwap : Obligations.LessonsCloseAndLoadsSwap := by
  unfold Obligations.LessonsCloseAndLoadsSwap
  refine ⟨fun c l s hl hc hd hdef hst hin ho hh hq hb hu => dismissal_ends hl hc hd ⟨hdef, hin, hst⟩ ho hh hq hb hu,
    fun c s => exec_dismissalComplete_of_none, fun c s => ⟨fun h => congrArg Host.Outcome.next (State.beginLoad_of_idle h),
      fun n h hw hl ha => ⟨fun hr => congrArg Host.Outcome.next (beginLoad_of_unreached hw hl ha hr), fun hr => ?_⟩⟩,
    fun c s => exec_loadComplete_of_none, fun c l s h => ⟨loadComplete_keeps h, fun u => loadComplete_arms h⟩,
    fun c s => ⟨fun hr => congrArg Host.Outcome.next (if_pos hr), fun hr => ?_⟩,
    fun q s => ⟨exec_freqChangeComplete_of_none, fun p hc hp => ?_⟩⟩
  · obtain ⟨image, begun⟩ := beginLoad_of_reached hw hl ha hr
    exact ⟨_, image, rfl, begun⟩
  · have ended := s.endContext_ctx c (if (s.ctx c).hostLost then 2 else 0)
    have sessions := s.endContext_sessions c (if (s.ctx c).hostLost then 2 else 0)
    have done := exec_ctxResetComplete hr
    generalize s.endContext c (if (s.ctx c).hostLost then 2 else 0) = u at ended sessions done
    refine ⟨_, done, ?_, ?_, u.out, State.answers_out _ u⟩
    · exact (State.answers_keep (fun s => s.ctx c) (fun _ => rfl) _ u).trans ended
    · rw [State.answers_keep State.host (fun _ => rfl)]
      exact sessions
  · have calm : ((s.repointed q p).paid q).Calm ((((List.range 5).foldl (fun (s : State) i => s.applyBand (5 * q + i))
        ((s.repointed q p).paid q)).pumpQuad q).kvPump) :=
      ((State.Calm.foldl _ (fun _ i hs => hs.applyBand _) (State.Calm.refl _)).pumpQuad q).kvPump
    have done := exec_freqChangeComplete hc hp
    generalize ((((List.range 5).foldl (fun (s : State) i => s.applyBand (5 * q + i)) ((s.repointed q p).paid q)).pumpQuad q).kvPump) = t
      at calm done
    have seat : (t.quad q).seat = ((s.quad q).repointed p).seat := (calm.seat q).trans (s.repointed_seat q p)
    refine ⟨t, done, congrArg (·.1) seat, congrArg (·.2.1) seat, congrArg (·.2.2.1) seat, fun u hu => ?_, ?_⟩
    · exact Nat.le_zero.1 ((calm.debt u).trans ((s.repointed q p).paid_debt q u hu).le)
    · rw [calm.changes, ← s.repointed_health q p]
      rfl

end Sys2Proof.Machine
end

section
/-! PROOF. O5 and O9: the kept forms at reset, and the commands that store nothing. -/

namespace Sys2Proof.Machine

/-- Settles O5: memory and the retirement list are empty at reset. -/
theorem resetMeetsTheKeptForms : Obligations.ResetMeetsTheKeptForms :=
  ⟨Memory.zero_wf, ⟨List.prefix_refl _, Nat.zero_le _, List.nodup_nil⟩, rfl⟩

/-- Settles O9: each family of commands outside the storing ones leaves memory alone. -/
theorem onlyStoringCommandsChangeMemory : Obligations.OnlyStoringCommandsChangeMemory :=
  fun _ _ _ => exec_mem_of_not_mayStore

end Sys2Proof.Machine
end

section
/-! PROOF. O11: a stored column reads back (R35 to R37). Multiplication in GF(2^8) distributes over XOR, so the division by the
generator keeps the value of the polynomial at each of its roots, and a column with its remainder behind it has no syndrome. -/

namespace Sys2Proof.Machine

/-! ## The field -/

theorem gfDouble_xor (a b : Byte) : gfDouble (a ^^^ b) = gfDouble a ^^^ gfDouble b := by
  have split : ∀ c : Byte, gfDouble c = (c <<< 1) ^^^ (if c.getLsbD 7 then 0x1D#8 else 0#8) := fun c => by
    unfold gfDouble
    split <;> simp
  have carry : ∀ p q : Bool, (if p ^^ q then 0x1D#8 else 0#8) = (if p then 0x1D#8 else 0#8) ^^^ (if q then 0x1D#8 else 0#8) := by decide
  rw [split, split a, split b, BitVec.shiftLeft_xor_distrib, BitVec.getLsbD_xor, carry]
  ac_rfl

theorem gfMulAux_xor (n : Nat) (a b c : Byte) : gfMulAux n (a ^^^ b) c = gfMulAux n a c ^^^ gfMulAux n b c := by
  induction n generalizing a b c with
  | zero => exact BitVec.xor_self.symm
  | succ n ih =>
    simp only [gfMulAux, gfDouble_xor, ih]
    split
    · ac_rfl
    · simp

/-- Multiplication distributes over XOR. -/
theorem gfMul_xor (a b c : Byte) : gfMul (a ^^^ b) c = gfMul a c ^^^ gfMul b c := gfMulAux_xor 8 a b c

@[simp] theorem gfMul_zero_left (c : Byte) : gfMul 0#8 c = 0#8 := by
  simpa using gfMul_xor 0#8 0#8 c

/-- A byte is the sum of its bits. -/
theorem byte_eq_sum_of_bits : ∀ f : Byte, f = ((List.range 8).filter (fun i => f.getLsbD i)).foldl (fun a i => a ^^^ 1#8 <<< i) 0 := by
  decide

/-- Two maps that distribute over XOR and agree on every single bit agree. -/
theorem xorLinear_ext {f g : Byte → Byte} (hf : ∀ a b, f (a ^^^ b) = f a ^^^ f b) (hg : ∀ a b, g (a ^^^ b) = g a ^^^ g b)
    (h : ∀ i < 8, f (1#8 <<< i) = g (1#8 <<< i)) (a : Byte) : f a = g a := by
  have zero : ∀ {k : Byte → Byte}, (∀ a b, k (a ^^^ b) = k a ^^^ k b) → k 0 = 0 := fun hk => by simpa using hk 0 0
  have sum : ∀ (l : List Nat) (acc : Byte), (∀ i ∈ l, i < 8) → f acc = g acc →
      f (l.foldl (fun a i => a ^^^ 1#8 <<< i) acc) = g (l.foldl (fun a i => a ^^^ 1#8 <<< i) acc) := by
    intro l
    induction l with
    | nil => exact fun _ _ h => h
    | cons i l ih =>
      intro acc hl he
      refine ih _ (fun j hj => hl j (List.mem_cons_of_mem _ hj)) ?_
      rw [hf, hg, he, h i (hl i List.mem_cons_self)]
  rw [byte_eq_sum_of_bits a]
  exact sum _ 0 (fun i hi => List.mem_range.mp (List.mem_of_mem_filter hi)) ((zero hf).trans (zero hg).symm)

/-! ## The value of a word at a root of the generator -/

/-- The value of a polynomial at x, coefficients from the highest on, above an accumulator. -/
def gfEval (x acc : Byte) (w : List Byte) : Byte := w.foldl (fun a b => gfMul a x ^^^ b) acc

theorem rsSyndrome_eq (w : List Byte) (j : Nat) : rsSyndrome w j = gfEval (gfAlpha j) 0#8 w := rfl

theorem gfEval_xor (x : Byte) {v w : List Byte} (h : v.length = w.length) (a b : Byte) :
    gfEval x (a ^^^ b) (List.zipWith (· ^^^ ·) v w) = gfEval x a v ^^^ gfEval x b w := by
  induction v generalizing w a b with
  | nil =>
    cases w with
    | nil => rfl
    | cons => cases h
  | cons p v ih =>
    cases w with
    | nil => cases h
    | cons r w =>
      have step : gfMul (a ^^^ b) x ^^^ (p ^^^ r) = (gfMul a x ^^^ p) ^^^ (gfMul b x ^^^ r) := by
        rw [gfMul_xor]
        ac_rfl
      exact (congrArg (fun y => gfEval x y _) step).trans (ih (Nat.succ.inj h) _ _)

/-- A byte a times x^4. -/
def gfShift (x a : Byte) : Byte := gfEval x a [0#8, 0#8, 0#8, 0#8]

@[simp] theorem gfShift_zero (x : Byte) : gfShift x 0#8 = 0#8 := by simp [gfShift, gfEval]

theorem gfShift_xor (x a b : Byte) : gfShift x (a ^^^ b) = gfShift x a ^^^ gfShift x b :=
  gfEval_xor x (v := [0#8, 0#8, 0#8, 0#8]) (w := [0#8, 0#8, 0#8, 0#8]) rfl a b

theorem gfShift_mul (x a : Byte) : gfShift x (gfMul a x) = gfMul (gfShift x a) x := by simp [gfShift, gfEval]

/-- Four coefficients below an accumulator. -/
theorem gfEval_eq_shift (x a : Byte) {r : List Byte} (h : r.length = 4) : gfEval x a r = gfShift x a ^^^ gfEval x 0#8 r := by
  have zipped : List.zipWith (· ^^^ ·) [0#8, 0#8, 0#8, 0#8] r = r := by
    match r, h with
    | [_, _, _, _], _ => simp
  have parts := gfEval_xor x (v := [0#8, 0#8, 0#8, 0#8]) (w := r) h.symm a 0#8
  rwa [zipped, BitVec.xor_zero] at parts

theorem rsGen_length : rsGen.length = 4 := by decide

/-- The generator vanishes at its roots: its lower coefficients, times f, have the value of f x^4. -/
theorem gfEval_generator {j : Nat} (hj : j < 4) (f : Byte) : gfEval (gfAlpha j) 0#8 (rsGen.map (gfMul f)) = gfShift (gfAlpha j) f := by
  have bits : ∀ j < 4, ∀ i < 8, gfEval (gfAlpha j) 0#8 (rsGen.map (gfMul (1#8 <<< i))) = gfShift (gfAlpha j) (1#8 <<< i) := by
    decide
  refine xorLinear_ext (f := fun f => gfEval (gfAlpha j) 0#8 (rsGen.map (gfMul f))) (fun a b => ?_) (gfShift_xor _) (bits j hj) f
  have coefficients : rsGen.map (gfMul (a ^^^ b)) = List.zipWith (· ^^^ ·) (rsGen.map (gfMul a)) (rsGen.map (gfMul b)) := by
    simp [List.zipWith_map, List.zipWith_self, gfMul_xor]
  have sum := gfEval_xor (gfAlpha j) (v := rsGen.map (gfMul a)) (w := rsGen.map (gfMul b)) (by simp) 0#8 0#8
  rwa [← coefficients, BitVec.xor_self] at sum

/-- One step of the division keeps the value at a root: the remainder r of what has been read stands for that times x^4. -/
theorem gfEval_rsStep {j : Nat} (hj : j < 4) {r : List Byte} (hr : r.length = 4) (d : Byte) :
    gfEval (gfAlpha j) 0#8 (rsStep r d) = gfMul (gfEval (gfAlpha j) 0#8 r) (gfAlpha j) ^^^ gfShift (gfAlpha j) d := by
  obtain ⟨r0, r1, r2, r3, rfl⟩ : ∃ r0 r1 r2 r3, r = [r0, r1, r2, r3] := by
    match r, hr with
    | [r0, r1, r2, r3], _ => exact ⟨r0, r1, r2, r3, rfl⟩
  generalize hx : gfAlpha j = x
  have moved : gfMul (gfEval x 0#8 [r0, r1, r2, r3]) x = gfShift x r0 ^^^ gfEval x 0#8 [r1, r2, r3, 0#8] := by
    rw [← gfEval_eq_shift x r0 rfl]
    simp [gfEval]
  have feedback : gfEval x 0#8 (rsGen.map (gfMul (d ^^^ r0))) = gfShift x d ^^^ gfShift x r0 := by
    rw [← hx, gfEval_generator hj, gfShift_xor]
  have sum := gfEval_xor x (v := [r1, r2, r3, 0#8]) (w := rsGen.map (gfMul (d ^^^ r0))) (by simp [rsGen_length]) 0#8 0#8
  rw [BitVec.xor_self, feedback] at sum
  rw [moved]
  refine Eq.trans (show gfEval x 0#8 (rsStep [r0, r1, r2, r3] d) = _ from sum) ?_
  ac_rfl

/-- The check bytes have the value of the data times x^4. -/
theorem gfEval_rsCheck {j : Nat} (hj : j < 4) (data : List Byte) :
    gfEval (gfAlpha j) 0#8 (rsCheck data) = gfShift (gfAlpha j) (gfEval (gfAlpha j) 0#8 data) := by
  have divide : ∀ (l r : List Byte) (a : Byte), r.length = 4 → gfEval (gfAlpha j) 0#8 r = gfShift (gfAlpha j) a →
      gfEval (gfAlpha j) 0#8 (l.foldl rsStep r) = gfShift (gfAlpha j) (gfEval (gfAlpha j) a l) := by
    intro l
    induction l with
    | nil => exact fun _ _ _ h => h
    | cons d l ih =>
      intro r a hr h
      refine ih _ (gfMul a (gfAlpha j) ^^^ d) (rsStep_length r d hr) ?_
      rw [gfEval_rsStep hj hr, h, gfShift_xor, gfShift_mul]
  exact divide data [0#8, 0#8, 0#8, 0#8] 0#8 rfl rfl

/-! ## Decoding what was stored -/

/-- The syndromes of a column with p XORed into its check bytes are those of p alone (R35, R36). -/
theorem rsSyndrome_append {j : Nat} (hj : j < 4) (data : List Byte) {p : List Byte} (hp : p.length = 4) :
    rsSyndrome (data ++ List.zipWith (· ^^^ ·) (rsCheck data) p) j = rsSyndrome p j := by
  have appended : ∀ w, gfEval (gfAlpha j) 0#8 (data ++ w) = gfEval (gfAlpha j) (gfEval (gfAlpha j) 0#8 data) w := fun w => List.foldl_append
  have above := gfEval_xor (gfAlpha j) (v := rsCheck data) (w := p) (by rw [rsCheck_length, hp]) (gfEval (gfAlpha j) 0#8 data) 0#8
  rw [gfEval_eq_shift _ _ (rsCheck_length data), gfEval_rsCheck hj, BitVec.xor_self, BitVec.zero_xor, BitVec.xor_zero] at above
  rw [rsSyndrome_eq, rsSyndrome_eq, appended, above]

theorem checkBytes_eq_zipWith (data : List Byte) (poison : Bool) :
    checkBytes data poison = List.zipWith (· ^^^ ·) (rsCheck data) (if poison then poisonPattern else [0, 0, 0, 0]) := by
  cases poison with
  | true => rfl
  | false =>
    change rsCheck data = _
    match rsCheck data, rsCheck_length data with
    | [_, _, _, _], _ => simp

/-- Data with its check bytes decodes to the data, clean or poisoned. -/
theorem rsDecode_append_checkBytes (data : List Byte) (poison : Bool) (h : data.length = 32) :
    rsDecode (data ++ checkBytes data poison) = (if poison then .poisoned else .clean, data) := by
  have length : (if poison then poisonPattern else [0, 0, 0, 0]).length = 4 := by cases poison <;> rfl
  have syndromes : (List.range 4).map (rsSyndrome (data ++ checkBytes data poison)) = if poison then poisonSyndromes else [0, 0, 0, 0] := by
    rw [checkBytes_eq_zipWith, List.map_congr_left fun j hj => rsSyndrome_append (List.mem_range.mp hj) data length]
    cases poison with
    | true => rfl
    | false => decide
  have distinct : ¬ poisonSyndromes = [0, 0, 0, 0] := by decide
  have bytes : (data ++ checkBytes data poison).take 32 = data := List.take_left' h
  unfold rsDecode
  rw [syndromes, bytes]
  cases poison with
  | true => exact (if_neg distinct).trans (if_pos rfl)
  | false => exact if_pos rfl

/-- Settles O11: the stored bytes are the data and its check bytes, which decode so. -/
theorem storedColumnReadsBack : Obligations.StoredColumnReadsBack := by
  intro m col d poison h
  have decoded : (m.store col d poison).decode col = (if poison then .poisoned else .clean, d) := by
    unfold Memory.decode
    rw [Memory.raw_store_same m col d poison h, rsDecode_append_checkBytes d poison h]
  rw [decoded]
  exact ⟨rfl, rfl, fun other => Memory.raw_store_ne m d poison h⟩

end Sys2Proof.Machine
end

section
/-! PROOF. What a slot of a word enters into flight (R59), and the units that it selects (R108, R109). -/

namespace Sys2Proof.Machine

/-! ## A result in flight -/

theorem State.due_eq (s : State) (q sl lat writer : Nat) (ws : List DueWrite) :
    s.due q sl lat writer ws = s.setQuad q ((s.quad q).withResult sl lat writer (s.origin q) ws) := rfl

/-- A result enters flight, also after free values have been set aside. -/
theorem State.entersResult_due (s : State) (n q sl lat writer : Nat) (ws : List DueWrite) :
    s.entersResult (({ s with free := n } : State).due q sl lat writer ws) q sl lat writer ws :=
  ⟨State.quad_setQuad_same _ q _, fun _ hp => State.quad_setQuad_ne _ _ hp, rfl⟩

theorem State.vec_entersResult (s : State) (q sl : Nat) (sel : BitVec 4) (lat : Nat) {f : View → List DueWrite} {ws : List DueWrite}
    (h : (s.units_ q sl sel).flatMap (fun u => f (s.view q sl u)) = ws) : s.entersResult (s.vec q sl sel lat f) q sl lat 1 ws := by
  subst h
  exact s.entersResult_due s.free q sl lat 1 _

/-! ## Fields of slot words -/

theorem fld_lt {n : Nat} (w : BitVec n) (hi lo : Nat) : fld w hi lo < 2 ^ (hi + 1 - lo) := Nat.mod_lt _ (Nat.two_pow_pos _)

/-! ## Lanes -/

@[simp] theorem View.lanes_length (v : View) (kind n : Nat) : (v.lanes kind n).length = 8 := by
  unfold View.lanes
  split <;> simp

/-! ## The selected units -/

theorem bankNo_fields {stack die bank : Nat} (hd : die < 16) (hb : bank < 32) :
    stackOf (bankNo stack die bank) = stack ∧ dieOf (bankNo stack die bank) = die ∧ bankOf (bankNo stack die bank) = bank := by
  unfold bankNo stackOf dieOf bankOf
  omega

theorem mem_bitsSet {n : Nat} {m : BitVec n} {i : Nat} : i ∈ bitsSet m ↔ i < n ∧ m.getLsbD i = true := by
  simp [bitsSet]

theorem bitsSet_nodup {n : Nat} (m : BitVec n) : (bitsSet m).Nodup := List.nodup_range.filter _

/-- A selected unit is a bank of one of the quadrant's stacks. -/
theorem maskUnits_fields {q : Nat} {m : BitVec 53} {u : Nat} (h : u ∈ maskUnits q m) :
    ∃ st die b, st < 5 ∧ die < 16 ∧ b < 32 ∧ u = bankNo (5 * q + st) die b := by
  simp only [maskUnits, List.mem_flatMap, List.mem_map, mem_bitsSet] at h
  obtain ⟨st, ⟨hst, -⟩, die, ⟨hd, -⟩, b, ⟨hb, -⟩, rfl⟩ := h
  exact ⟨st, die, b, hst, hd, hb, rfl⟩

theorem maskUnits_stack {q : Nat} {m : BitVec 53} {u : Nat} (h : u ∈ maskUnits q m) :
    5 * q ≤ stackOf u ∧ stackOf u < 5 * q + 5 ∧ bankOf u < 32 := by
  obtain ⟨st, die, b, hst, hd, hb, rfl⟩ := maskUnits_fields h
  obtain ⟨es, -, eb⟩ := bankNo_fields (stack := 5 * q + st) hd hb
  omega

theorem maskUnits_quad {q : Nat} {m : BitVec 53} {u : Nat} (h : u ∈ maskUnits q m) : quadOf u = q := by
  have := maskUnits_stack h
  unfold quadOf quadOfStack
  omega

/-- No unit is selected twice. -/
theorem maskUnits_nodup (q : Nat) (m : BitVec 53) : (maskUnits q m).Nodup := by
  have fields := fun {st die b : Nat} (hd : die ∈ bitsSet (m.extractLsb' 5 16)) (hb : b ∈ bitsSet (m.extractLsb' 21 32)) =>
    bankNo_fields (stack := 5 * q + st) (mem_bitsSet.mp hd).1 (mem_bitsSet.mp hb).1
  refine List.nodup_flatMap.mpr ⟨fun st _ => List.nodup_flatMap.mpr ⟨fun die hd => ?_, ?_⟩, ?_⟩
  · refine (bitsSet_nodup _).map_on fun b hb b' hb' e => ?_
    have same := congrArg bankOf e
    rwa [(fields hd hb).2.2, (fields hd hb').2.2] at same
  · refine (bitsSet_nodup _).imp_of_mem fun {die die'} hd hd' ne u hu hu' => ?_
    obtain ⟨b, hb, rfl⟩ := List.mem_map.mp hu
    obtain ⟨b', hb', e⟩ := List.mem_map.mp hu'
    have same := congrArg dieOf e
    rw [(fields hd hb).2.1, (fields hd' hb').2.1] at same
    exact ne same.symm
  · have stack : ∀ st u, u ∈ (bitsSet (m.extractLsb' 5 16)).flatMap (fun die =>
        (bitsSet (m.extractLsb' 21 32)).map (fun b => bankNo (5 * q + st) die b)) → stackOf u = 5 * q + st := by
      intro st u hu
      obtain ⟨die, hd, hu⟩ := List.mem_flatMap.mp hu
      obtain ⟨b, hb, rfl⟩ := List.mem_map.mp hu
      exact (bankNo_fields (mem_bitsSet.mp hd).1 (mem_bitsSet.mp hb).1).1
    refine (bitsSet_nodup _).imp fun {st st'} ne u hu hu' => ne ?_
    have := (stack st u hu).symm.trans (stack st' u hu')
    omega

theorem State.units_nodup (s : State) (q sl : Nat) (sel : BitVec 4) : (s.units_ q sl sel).Nodup := maskUnits_nodup q _

end Sys2Proof.Machine
end

section
/-! PROOF. O25, O26 and O27: the vector unit's operations (R53, R54, R84 to R89, R119 to R121). -/

namespace Sys2Proof.Machine

/-- Settles O25: each operation enters what it writes to D, or nothing with a reserved modifier. -/
theorem laneOperationsOfVec : Obligations.LaneOperationsOfVec := by
  intro q sl sel w lit s
  refine ⟨⟨_, rfl, ?_⟩, ⟨_, rfl, ?_⟩, ⟨_, rfl, ?_⟩, ⟨_, rfl, ?_⟩, ⟨_, rfl, ?_⟩⟩
  all_goals exact s.vec_entersResult q sl sel _ rfl

/-! ## The mask of a comparison -/

/-- A number built from bits, bit i from element i of a list. -/
theorem foldl_zipIdx_bits {α : Type} (p : α → Bool) (xs : List α) (k n : Nat) (hn : n < 2 ^ k) :
    (xs.zipIdx k).foldl (fun n x => if p x.1 then n + 2 ^ x.2 else n) n < 2 ^ (k + xs.length) ∧
    (∀ i, i < k → ((xs.zipIdx k).foldl (fun n x => if p x.1 then n + 2 ^ x.2 else n) n).testBit i = n.testBit i) ∧
    ∀ i x, xs[i]? = some x → ((xs.zipIdx k).foldl (fun n x => if p x.1 then n + 2 ^ x.2 else n) n).testBit (k + i) = p x := by
  induction xs generalizing k n with
  | nil => exact ⟨hn, fun _ _ => rfl, by simp⟩
  | cons y ys ih =>
    simp only [List.zipIdx_cons, List.foldl_cons]
    have below : (if p y then n + 2 ^ k else n) < 2 ^ (k + 1) := by
      rw [Nat.pow_succ]
      split <;> omega
    have low : ∀ i, i < k → (if p y then n + 2 ^ k else n).testBit i = n.testBit i := fun i hi => by
      split
      · rw [Nat.add_comm, Nat.testBit_two_pow_add_gt hi]
      · rfl
    have top : (if p y then n + 2 ^ k else n).testBit k = p y := by
      cases p y
      · simpa using Nat.testBit_lt_two_pow hn
      · simp [Nat.add_comm n, Nat.testBit_two_pow_add_eq, Nat.testBit_lt_two_pow hn]
    obtain ⟨bound, kept, bits⟩ := ih (k + 1) _ below
    refine ⟨by simpa [Nat.add_assoc, Nat.add_comm 1] using bound, fun i hi => (kept i (by omega)).trans (low i hi), fun i x hx => ?_⟩
    cases i with
    | zero =>
      obtain rfl : y = x := by simpa using hx
      exact (kept k (by omega)).trans top
    | succ i =>
      have := bits i x (by simpa using hx)
      rwa [Nat.add_right_comm] at this

theorem zip_any_or {α β : Type} (f : α → Bool) (g : β → Bool) (xs : List α) (ys : List β) (h : xs.length = ys.length) :
    (xs.zip ys).any (fun x => f x.1 || g x.2) = (xs.any f || ys.any g) := by
  induction xs generalizing ys with
  | nil =>
    cases ys with
    | nil => rfl
    | cons => cases h
  | cons x xs ih =>
    cases ys with
    | nil => cases h
    | cons y ys =>
      simp only [List.zip_cons_cons, List.any_cons, ih ys (Nat.succ.inj h)]
      ac_rfl

theorem View.cmpMask_lt (v : View) (w : Word32) : (v.cmpMask w).1 < 256 := by
  have := (foldl_zipIdx_bits (fun x => fcmp (Vec.mod w) x.1.1 x.2.1)
    (List.zip (v.lanes (Vec.dk w) (Vec.d w)) (v.lanes (Vec.bk w) (Vec.b w))) 0 0 (by decide)).1
  rw [List.length_zip, View.lanes_length, View.lanes_length] at this
  exact this

theorem View.cmpMask_testBit (v : View) (w : Word32) {i : Nat} {d b : Word32 × Bool}
    (hd : (v.lanes (Vec.dk w) (Vec.d w))[i]? = some d) (hb : (v.lanes (Vec.bk w) (Vec.b w))[i]? = some b) :
    (v.cmpMask w).1.testBit i = fcmp (Vec.mod w) d.1 b.1 := by
  have bits := (foldl_zipIdx_bits (fun x => fcmp (Vec.mod w) x.1.1 x.2.1)
    (List.zip (v.lanes (Vec.dk w) (Vec.d w)) (v.lanes (Vec.bk w) (Vec.b w))) 0 0 (by decide)).2.2 i (d, b)
    (List.getElem?_zip_eq_some.mpr ⟨hd, hb⟩)
  rwa [Nat.zero_add] at bits

theorem View.cmpMask_poison (v : View) (w : Word32) : (v.cmpMask w).2 =
    ((v.lanes (Vec.dk w) (Vec.d w)).any (·.2) || (v.lanes (Vec.bk w) (Vec.b w)).any (·.2)) :=
  zip_any_or _ _ _ _ (by simp)

/-- Settles O26: the mask byte has a bit for each lane, and MASK takes its word as it is. -/
theorem compareAndMaskWriteTheirBits : Obligations.CompareAndMaskWriteTheirBits := by
  intro q sl sel w lit s
  refine ⟨⟨_, fun u => ((s.view q sl u).cmpMask w).1, rfl, fun u i d b hd hb => View.cmpMask_testBit _ w hd hb,
    fun u => View.cmpMask_lt _ w, s.vec_entersResult q sl sel 2 ?_⟩, _, rfl, s.vec_entersResult q sl sel 1 ?_⟩
  · have four : Vec.mod w < 4 := fld_lt w 25 24
    by_cases h : Vec.mod w = 3
    · simp [allowed, h]
    · have three : Vec.mod w < 3 := by omega
      rw [if_neg h, List.map_eq_flatMap]
      simp only [allowed, if_pos three, View.cmpMask_poison]
      rfl
  · exact List.map_eq_flatMap.symm

/-! ## Conversions -/

theorem State.units_due (s : State) (q sl : Nat) (sel : BitVec 4) (sl' lat writer : Nat) (ws : List DueWrite) :
    (s.due q sl' lat writer ws).units_ q sl sel = s.units_ q sl sel := by
  have slots : (s.due q sl' lat writer ws).slot q sl = s.slot q sl :=
    (congrArg (fun x : Quad => x.slot sl) (State.quad_setQuad_same s q ((s.quad q).withResult sl' lat writer (s.origin q) ws))).trans rfl
  unfold State.units_
  rw [slots]

/-- Each of a list of distinct units is changed once. -/
theorem State.foldl_modUnit (f : BankUnit → BankUnit) (us : List Nat) (h : us.Nodup) (s : State) :
    us.foldl (fun (s : State) u => s.modUnit u f) s = { s with units := (us.foldl (fun (s : State) u => s.modUnit u f) s).units } ∧
      ∀ u, (us.foldl (fun (s : State) u => s.modUnit u f) s).unit u = if u ∈ us then f (s.unit u) else s.unit u := by
  induction us generalizing s with
  | nil => exact ⟨rfl, fun _ => rfl⟩
  | cons v us ih =>
    obtain ⟨hv, hus⟩ := List.nodup_cons.mp h
    obtain ⟨rest, units⟩ := ih hus (s.modUnit v f)
    refine ⟨rest, fun u => (units u).trans ?_⟩
    by_cases hu : u = v
    · subst hu
      simp [hv]
    · simp [hu, State.unit_modUnit_ne _ _ hu]

/-- An operation with stochastic rounding: its result enters flight, and its numbers are given (R54, R88). -/
theorem State.vec_entersRounded (s : State) (q sl : Nat) (sel : BitVec 4) (sr : Bool) (n lat : Nat) {f : View → List DueWrite}
    {ws : List DueWrite} (h : (s.units_ q sl sel).flatMap (fun u => f (s.view q sl u)) = ws) :
    s.entersRounded ((s.vec q sl sel lat f).giveRandom q sl sel sr n) q sl sel sr n lat ws := by
  subst h
  obtain ⟨own, others, -⟩ := s.vec_entersResult q sl sel lat (f := f) rfl
  cases sr with
  | false => exact ⟨own, others, fun u => by simp; rfl, rfl⟩
  | true =>
    obtain ⟨rest, units⟩ := State.foldl_modUnit (fun b => b.give sl n) _ (s.units_nodup q sl sel) (s.vec q sl sel lat f)
    have given : (s.vec q sl sel lat f).giveRandom q sl sel true n =
        (s.units_ q sl sel).foldl (fun (s : State) u => s.modUnit u (fun b => b.give sl n)) (s.vec q sl sel lat f) := by
      unfold State.giveRandom State.vec
      rw [if_pos rfl, State.units_due]
    rw [← given] at rest units
    generalize (s.vec q sl sel lat f).giveRandom q sl sel true n = t at rest units ⊢
    have quads : t.quads = (s.vec q sl sel lat f).quads := by rw [rest]
    refine ⟨?_, fun p hp => ?_, fun u => ?_, ?_⟩
    · exact (congrArg (fun t : State => t.quad q) rest).trans own
    · exact (congrArg (fun t : State => t.quad p) rest).trans (others p hp)
    · exact (units u).trans (by simp; rfl)
    · rw [quads]
      exact rest

theorem inLine_iff (f : Fmt) (e n : Nat) : inLine f e n = false ↔ ¬ (e + n) * f.bits ≤ 256 := decide_eq_false_iff_not

theorem vfmtOf_eq_fp32 {n : Nat} (h : n ≤ 7) : vfmtOf n = .fp32 ↔ n = 0 := by
  interval_cases n <;> simp [vfmtOf]

theorem View.cvt_eq (v : View) (w lit : Word32) : v.cvt w lit =
    if Vec.fmt w = 0 then v.write (Vec.dk w) (Vec.d w)
      ((v.lanes (Vec.bk w) (Vec.b w)).map (fun x => (x.1, (v.lanes (Vec.bk w) (Vec.b w)).any (·.2))))
    else if Vec.fmt w ≤ 7 ∧ (Lit.eoff lit + 8) * (vfmtOf (Vec.fmt w)).bits ≤ 256 then v.write (Vec.dk w) (Vec.d w) ((List.range 8).map (fun i =>
      (widen (vfmtOf (Vec.fmt w)) (Lit.scale8 lit) (v.line (Vec.b w)).data (Lit.eoff lit + i), (v.line (Vec.b w)).poison)))
    else [] := by
  unfold View.cvt
  dsimp only
  by_cases h : Vec.fmt w ≤ 7
  · rw [if_neg (by omega)]
    by_cases h0 : Vec.fmt w = 0
    · rw [if_pos ((vfmtOf_eq_fp32 h).mpr h0), if_pos h0]
    · rw [if_neg (fun e => h0 ((vfmtOf_eq_fp32 h).mp e)), if_neg h0]
      by_cases hl : (Lit.eoff lit + 8) * (vfmtOf (Vec.fmt w)).bits ≤ 256
      · rw [if_neg (fun e => (inLine_iff _ _ _).mp e hl), if_pos ⟨h, hl⟩]
      · rw [if_pos ((inLine_iff _ _ _).mpr hl), if_neg (fun e => hl e.2)]
  · rw [if_pos (by omega), if_neg (by omega), if_neg (fun e => h e.1)]

/-- What PACK and CVTMX write in line D: the codes of n elements from element e on, with the mark (R53, R70, R73). -/
def codesWrite (u l : Nat) (f : Fmt) (e n : Nat) (codes : List (Nat × Bool)) (bad : Bool) : DueWrite :=
  .line u l (maskAt (f.bits * e) (f.bits * n)) (placeCodes f.bits e (codes.map (·.1))).2
    (if bad then some true else if maskAt (f.bits * e) (f.bits * n) = BitVec.allOnes 256 then some false else none)

theorem codesWrite_eq (u l : Nat) (f : Fmt) (e : Nat) (codes : List (Nat × Bool)) (bad : Bool) :
    DueWrite.line u l (placeCodes f.bits e (codes.map (·.1))).1 (placeCodes f.bits e (codes.map (·.1))).2
      (if bad then some true else if (placeCodes f.bits e (codes.map (·.1))).1 = BitVec.allOnes 256 then some false else none) =
    codesWrite u l f e codes.length codes bad := by
  simp [codesWrite, placeCodes]

/-- The eight codes of a PACK. -/
def View.packCodes (v : View) (w lit : Word32) : List (Nat × Bool) :=
  (v.lanes (Vec.bk w) (Vec.b w)).zipIdx.map (fun x => narrow (vfmtOf (Vec.fmt w)) (v.rand (Vec.sr w) x.2) (Lit.scale8 lit) x.1.1)

theorem View.pack_eq (v : View) (w lit : Word32) : v.pack w lit =
    if Vec.fmt w ≤ 7 ∧ (Lit.eoff lit + 8) * (vfmtOf (Vec.fmt w)).bits ≤ 256 then
      [codesWrite v.u (v.lineIx (Vec.d w)) (vfmtOf (Vec.fmt w)) (Lit.eoff lit) 8 (v.packCodes w lit)
        ((v.lanes (Vec.bk w) (Vec.b w)).any (·.2) || (v.packCodes w lit).any (·.2))]
    else [] := by
  have eight : (v.packCodes w lit).length = 8 := by simp [View.packCodes]
  have write := codesWrite_eq v.u (v.lineIx (Vec.d w)) (vfmtOf (Vec.fmt w)) (Lit.eoff lit) (v.packCodes w lit)
    ((v.lanes (Vec.bk w) (Vec.b w)).any (·.2) || (v.packCodes w lit).any (·.2))
  rw [eight] at write
  rw [← write]
  by_cases h : Vec.fmt w ≤ 7 ∧ (Lit.eoff lit + 8) * (vfmtOf (Vec.fmt w)).bits ≤ 256
  · rw [if_pos h]
    exact if_neg fun e => e.elim (by omega) fun e => (inLine_iff _ _ _).mp e h.2
  · rw [if_neg h]
    refine if_pos ?_
    rw [inLine_iff]
    omega

/-- The 32 lanes that CVTMX reads, their block scale and their codes (R87). -/
def View.mxLanes (v : View) (w : Word32) : List (Word32 × Bool) := (List.range 4).flatMap (fun i => v.lanes 0 (Vec.b w / 4 * 4 + i))
def View.mxScale (v : View) (w : Word32) : Option Nat := blockScale (vfmtOf (Vec.fmt w)) ((v.mxLanes w).map (fun x => decode32 x.1))
def View.mxCodes (v : View) (w : Word32) : List (Nat × Bool) :=
  (v.mxLanes w).zipIdx.map (fun x => match v.mxScale w with
    | none => (0, false)
    | some k => narrow (vfmtOf (Vec.fmt w)) (v.rand (Vec.sr w) x.2) k x.1.1)

theorem View.mxCodes_length (v : View) (w : Word32) : (v.mxCodes w).length = 32 := by
  simp [View.mxCodes, View.mxLanes, List.length_flatMap]

theorem View.cvtmx_eq (v : View) (w lit : Word32) : v.cvtmx w lit =
    if Vec.fmt w ≤ 7 ∧ (vfmtOf (Vec.fmt w)).isMx = true ∧ (Lit.eoff lit + 32) * (vfmtOf (Vec.fmt w)).bits ≤ 256 then
      [codesWrite v.u (v.lineIx (Vec.d w)) (vfmtOf (Vec.fmt w)) (Lit.eoff lit) 32 (v.mxCodes w)
        ((v.mxLanes w).any (·.2) || (v.mxCodes w).any (·.2)),
      .line v.u (v.lineIx (Lit.line lit)) (maskAt (8 * Lit.byte lit) 8) (dataAt (8 * Lit.byte lit) 8 ((v.mxScale w).getD 0)) none]
    else [] := by
  have write := codesWrite_eq v.u (v.lineIx (Vec.d w)) (vfmtOf (Vec.fmt w)) (Lit.eoff lit) (v.mxCodes w)
    ((v.mxLanes w).any (·.2) || (v.mxCodes w).any (·.2))
  rw [View.mxCodes_length] at write
  rw [← write]
  by_cases h : Vec.fmt w ≤ 7 ∧ (vfmtOf (Vec.fmt w)).isMx = true ∧ (Lit.eoff lit + 32) * (vfmtOf (Vec.fmt w)).bits ≤ 256
  · obtain ⟨hf, hm, hl⟩ := h
    rw [if_pos ⟨hf, hm, hl⟩]
    refine if_neg ?_
    rw [inLine_iff, hm]
    simp [hl, hf]
  · rw [if_neg h]
    refine if_pos ?_
    rw [inLine_iff]
    by_contra e
    rw [not_or, not_or, Bool.not_eq_false, not_not] at e
    exact h ⟨by omega, e.2⟩

/-- Settles O27: CVT enters its result alone, PACK and CVTMX with the numbers they draw. -/
theorem conversionsOfVec : Obligations.ConversionsOfVec := by
  intro q sl sel w lit s
  refine ⟨⟨_, rfl, s.vec_entersResult q sl sel _ ?_⟩, ⟨_, rfl, s.vec_entersRounded q sl sel _ 8 _ ?_⟩,
    ⟨_, rfl, s.vec_entersRounded q sl sel _ 32 _ ?_⟩⟩
  · simp only [View.cvt_eq]
  · simp only [View.pack_eq]
    rfl
  · simp only [View.cvtmx_eq]
    rfl

end Sys2Proof.Machine
end

section
/-! PROOF. O24: a MAC. -/

namespace Sys2Proof.Machine

theorem State.unsettleSlot_frame (s : State) (q sl origin : Nat) :
    s.unsettleSlot q sl origin = { s with ctxs := (s.unsettleSlot q sl origin).ctxs } := by
  unfold State.unsettleSlot
  split <;> rfl

theorem State.ctx_unsettleSlot (s : State) (q sl origin c : Nat) : (s.unsettleSlot q sl origin).ctx c =
    if (s.slot q sl).ctx = some c then (s.ctx c).markUnsettled q origin else s.ctx c := by
  unfold State.unsettleSlot
  split
  next d hd =>
    rw [hd]
    by_cases hc : c = d
    · subst hc
      rw [if_pos rfl]
      exact State.ctx_modCtx_same s c _
    · rw [if_neg (fun e => hc (Option.some.inj e).symm)]
      exact State.ctx_modCtx_ne s _ hc
  next hn => rw [hn, if_neg (by simp)]

/-- The lesson of a slot is marked unsettled or not: contexts change and nothing else (R174). -/
theorem State.unsettleSlot_if (s : State) (q sl origin : Nat) (ue : Bool) :
    (if ue = true then s.unsettleSlot q sl origin else s) =
        { s with ctxs := (if ue = true then s.unsettleSlot q sl origin else s).ctxs } ∧
      ∀ c, (if ue = true then s.unsettleSlot q sl origin else s).ctx c =
        if ue = true ∧ (s.slot q sl).ctx = some c then (s.ctx c).markUnsettled q origin else s.ctx c := by
  cases ue with
  | false => exact ⟨rfl, fun c => by simp⟩
  | true => exact ⟨s.unsettleSlot_frame q sl origin, fun c => by simpa using s.ctx_unsettleSlot q sl origin c⟩

theorem Mac.legal_iff (w : Word32) : Mac.legal w = true ↔ Mac.wfmt w ≤ 6 ∧ Mac.afmt w ≤ 2 ∧ Mac.le w ≤ 2 := decide_eq_true_iff

/-- The writes of a MAC over its units, taken through the views or through the units. -/
theorem macWrites_zipIdx (w : Word32) (view : Nat → View) (hu : ∀ u, (view u).u = u) (ptr base : Nat) (us : List Nat) :
    (us.map (fun u => (view u, (view u).macIn w))).zipIdx.flatMap
        (fun x => x.1.1.macWrites w x.1.2 ptr (base + 64 * x.2)) =
      us.zipIdx.flatMap (fun x => ((((view x.1).macIn w).results w ptr (base + 64 * x.2)).map (fun y =>
        if Mac.ovw w then DueWrite.accSet x.1 ((view x.1).accIx y.1) y.2 ((view x.1).macIn w).poison
        else DueWrite.accAdd x.1 ((view x.1).accIx y.1) y.2 ((view x.1).macIn w).poison))) := by
  rw [List.zipIdx_map, List.flatMap_map]
  refine List.flatMap_congr fun x _ => ?_
  simp only [View.macWrites, Prod.map, id, hu]

/-- A slot's scale pointer moves on, and a result enters flight. -/
theorem State.quad_due_modSlot (s : State) (q sl i lat writer : Nat) (ws : List DueWrite) (f : Slot → Slot) :
    ((s.modSlot q i f).due q sl lat writer ws).quad q = ((s.quad q).modSlot i f).withResult sl lat writer (s.origin q) ws := by
  have word : (s.modSlot q i f).origin q = s.origin q := by
    unfold State.origin State.modSlot
    rw [State.quad_modQuad_same]
    rfl
  rw [State.due_eq, State.quad_setQuad_same, word]
  unfold State.modSlot
  rw [State.quad_modQuad_same]

/-- Settles O24: the lesson is marked, the scale pointer moves on and the result enters flight, each apart from the others. -/
theorem macAccumulatesAfterItsOccupancy : Obligations.MacAccumulatesAfterItsOccupancy := by
  intro q sl sel w s
  refine ⟨fun h => ?_, fun hw ha hl => ?_⟩
  · have illegal : Mac.legal w = false := by
      rw [Bool.eq_false_iff, Ne, Mac.legal_iff]
      omega
    show Host.Outcome.next _ = _
    rw [if_pos illegal]
  · have legal : ¬ Mac.legal w = false := by simp [Mac.legal_iff, hw, ha, hl]
    refine ⟨_, rfl, ?_⟩
    rw [if_neg legal]
    dsimp only
    rw [macWrites_zipIdx w (fun u => s.view q sl u) (fun _ => rfl)]
    simp only [List.any_map, Function.comp_def]
    generalize ((s.units_ q sl sel).any fun u => ((s.view q sl u).macIn w).ue) = ue
    obtain ⟨frame, ctx⟩ := (s.reserve (64 * (s.units_ q sl sel).length)).2.unsettleSlot_if q sl (s.origin q) ue
    have start : (s.reserve (64 * (s.units_ q sl sel).length)).2.origin q = s.origin q := rfl
    rw [start]
    generalize (if ue = true then (s.reserve (64 * (s.units_ q sl sel).length)).2.unsettleSlot q sl (s.origin q)
      else (s.reserve (64 * (s.units_ q sl sel).length)).2) = r at frame ctx ⊢
    have quads : r.quads = s.quads := by rw [frame]; rfl
    have own : r.quad q = s.quad q := congrArg (tget Quad.init · q) quads
    have origin : r.origin q = s.origin q := by
      unfold State.origin
      rw [own]
    by_cases h6 : Mac.wfmt w = 6
    · simp only [if_pos h6]
      refine ⟨?_, fun p hp => ?_, fun c => ?_, ?_⟩
      · rw [State.due_eq, State.quad_setQuad_same, own, origin]
        rfl
      · rw [State.due_eq, State.quad_setQuad_ne _ _ hp]
        exact congrArg (tget Quad.init · p) quads
      · exact ctx c
      · rw [frame]
        rfl
    · simp only [if_neg h6]
      refine ⟨?_, fun p hp => ?_, fun c => ?_, ?_⟩
      · rw [State.quad_due_modSlot, own, origin]
        rfl
      · rw [State.due_eq, State.quad_setQuad_ne _ _ hp]
        exact (State.quad_modQuad_ne r _ hp).trans (congrArg (tget Quad.init · p) quads)
      · exact ctx c
      · rw [frame]
        rfl

end Sys2Proof.Machine
end

section
/-! PROOF. O28: XFER and OUT. -/

namespace Sys2Proof.Machine

/-! ## Free orders -/

theorem shuffle_perm {α : Type} (f : Nat) : ∀ (n : Nat) (xs : List α), xs.length ≤ f → List.Perm (shuffle n f xs) xs := by
  induction f with
  | zero =>
    intro n xs h
    rw [List.length_eq_zero_iff.mp (Nat.le_zero.mp h)]
    exact List.Perm.refl _
  | succ f ih =>
    intro n xs h
    cases xs with
    | nil => exact List.Perm.refl _
    | cons x xs =>
      have pick : Config.freeNat n % (xs.length + 1) < (x :: xs).length := Nat.mod_lt _ (Nat.succ_pos _)
      have rest : ((x :: xs).eraseIdx (Config.freeNat n % (xs.length + 1))).length ≤ f := by
        rw [List.length_eraseIdx_of_lt pick]
        simpa using h
      unfold shuffle
      dsimp only
      rw [List.getD_eq_getElem _ _ pick]
      exact ((ih _ _ rest).cons _).trans (List.getElem_cons_eraseIdx_perm pick)

/-- A free order has every element once (R47, R90). -/
theorem freeOrder_perm {α : Type} (n : Nat) (xs : List α) : List.Perm (freeOrder n xs) xs := shuffle_perm _ n xs (Nat.le_refl _)

/-! ## The lines of an XFER -/

theorem State.xferLine_payload {s : State} {q sl : Nat} {w : Word32} (base i : Nat) {l : Lesson} (hw : Xfer.src w = 1)
    (hl : (s.slot q sl).ctx.bind (fun c => (s.ctx c).lesson) = some l) : s.xferLine q sl w base i =
      ⟨BitVec.ofNat 256 (leNat ((l.payload.drop (32 * (Xfer.off w + i))).take 32)), false⟩ := by
  simp only [State.xferLine, hw, if_true, hl]

theorem State.xferLine_stage {s : State} {q sl : Nat} {w : Word32} (base i : Nat) {c n : Nat} (hw : Xfer.src w ≠ 1)
    (hc : (s.slot q sl).ctx = some c)
    (hn : s.stageLine c (32 * (if Xfer.src w = 0 then (s.slot q sl).xbaseStage.toNat else (s.slot q sl).xbaseMerge.toNat) +
      Xfer.off w + i) = some n) :
    s.xferLine q sl w base i = ⟨BitVec.ofNat 256 (leNat (s.stageBytes q (32 * n) 32)), s.stageMark q n⟩ := by
  simp only [State.xferLine, if_neg hw, hc, Option.bind_some, hn]

/-! ## The rows of an OUT -/

section
variable {s : State} {q sl : Nat} {us : List Nat} {row base st bank : Nat}

/-- The rows that the selected units at one place drive. -/
theorem State.dieRow_eq_some {r : OutRow} (h : s.dieRow q sl us row base st bank = some r) :
    r.stack = st ∧ r.bank = bank ∧ us.filter (fun u => stackOf u = 5 * q + st ∧ bankOf u = bank) ≠ [] ∧
      r = ⟨st, bank, dieSum base (((us.filter (fun u => stackOf u = 5 * q + st ∧ bankOf u = bank)).map
        (fun u => (s.view q sl u).lanes 0 row)).map (fun l => l.map (·.1))),
        ((us.filter (fun u => stackOf u = 5 * q + st ∧ bankOf u = bank)).map
          (fun u => (s.view q sl u).lanes 0 row)).any (fun l => l.any (·.2))⟩ := by
  unfold State.dieRow at h
  dsimp only at h
  split at h
  next => exact absurd h (by simp)
  next hne =>
    rw [List.isEmpty_iff] at hne
    rw [Option.some.injEq] at h
    subst h
    exact ⟨rfl, rfl, hne, rfl⟩

theorem State.dieRow_isSome {u : Nat} (hu : u ∈ us) (hs : stackOf u = 5 * q + st) (hb : bankOf u = bank) :
    ∃ r, s.dieRow q sl us row base st bank = some r ∧ r.stack = st ∧ r.bank = bank := by
  have here : u ∈ us.filter (fun u => stackOf u = 5 * q + st ∧ bankOf u = bank) := by simp [hu, hs, hb]
  unfold State.dieRow
  dsimp only
  rw [if_neg (by rw [List.isEmpty_iff]; exact List.ne_nil_of_mem here)]
  exact ⟨_, rfl, rfl, rfl⟩

end

/-- A sum over dies adds their rows in some order (R90, R259). -/
theorem dieSum_eq (base : Nat) {rows : List (List Word32)} (h : rows ≠ []) : ∃ first others, List.Perm (first :: others) rows ∧
    dieSum base rows = others.foldl (fun a b => List.zipWith fadd a b) first := by
  have perm := freeOrder_perm base rows
  unfold dieSum
  cases order : freeOrder base rows with
  | nil => exact absurd (List.Perm.nil_eq (order ▸ perm)).symm h
  | cons first others => exact ⟨first, others, order ▸ perm, rfl⟩

/-- The places (stack of the quadrant, bank) of a quadrant. -/
def outPlaces : List (Nat × Nat) := (List.range 160).map (fun i => (i / 32, i % 32))

theorem outPlaces_nodup : outPlaces.Nodup := by
  refine List.nodup_range.map_on fun i _ j _ e => ?_
  have hd := congrArg Prod.fst e
  have hm := congrArg Prod.snd e
  dsimp only at hd hm
  omega

theorem mem_outPlaces {i b : Nat} (hi : i < 5) (hb : b < 32) : (i, b) ∈ outPlaces :=
  List.mem_map.mpr ⟨32 * i + b, List.mem_range.mpr (by omega), Prod.ext (by dsimp only; omega) (by dsimp only; omega)⟩

/-- The rows of one OUT issue (R259). -/
def State.outRows (s : State) (q sl : Nat) (us : List Nat) (row base : Nat) : List OutRow :=
  outPlaces.filterMap (fun k => s.dieRow q sl us row (base + 16 * (k.1 * 32 + k.2)) k.1 k.2)

section
variable (s : State) (q sl : Nat) (us : List Nat) (row base : Nat)

theorem State.mem_outRows {r : OutRow} : r ∈ s.outRows q sl us row base ↔
    ∃ k ∈ outPlaces, s.dieRow q sl us row (base + 16 * (k.1 * 32 + k.2)) k.1 k.2 = some r := List.mem_filterMap

theorem State.outRows_nodup : ((s.outRows q sl us row base).map (fun r => (r.stack, r.bank))).Nodup := by
  unfold State.outRows
  rw [List.map_filterMap]
  have place : ∀ (k p : Nat × Nat),
      p ∈ (s.dieRow q sl us row (base + 16 * (k.1 * 32 + k.2)) k.1 k.2).map (fun r => (r.stack, r.bank)) → p = k := by
    intro k p hp
    obtain ⟨r, hr, rfl⟩ := Option.map_eq_some_iff.mp hp
    obtain ⟨hs, hb, -, -⟩ := State.dieRow_eq_some hr
    exact Prod.ext hs hb
  exact outPlaces_nodup.filterMap fun k k' p hp hp' => (place k p hp).symm.trans (place k' p hp')

theorem State.outRows_place (hus : ∀ u ∈ us, 5 * q ≤ stackOf u ∧ stackOf u < 5 * q + 5 ∧ bankOf u < 32) (i b : Nat) :
    (∃ r ∈ s.outRows q sl us row base, r.stack = i ∧ r.bank = b) ↔ ∃ u ∈ us, stackOf u = 5 * q + i ∧ bankOf u = b := by
  constructor
  · rintro ⟨r, hr, rfl, rfl⟩
    obtain ⟨k, -, hk⟩ := (s.mem_outRows q sl us row base).mp hr
    obtain ⟨hs, hb, hne, -⟩ := State.dieRow_eq_some hk
    obtain ⟨u, hu⟩ := List.exists_mem_of_ne_nil _ hne
    obtain ⟨hmem, hplace⟩ := List.mem_filter.mp hu
    rw [hs, hb]
    exact ⟨u, hmem, of_decide_eq_true hplace⟩
  · rintro ⟨u, hu, hs, hb⟩
    have bounds := hus u hu
    obtain ⟨r, hr, place⟩ := State.dieRow_isSome (s := s) (sl := sl) (row := row) (base := base + 16 * (i * 32 + b)) hu hs hb
    exact ⟨r, (s.mem_outRows q sl us row base).mpr ⟨(i, b), mem_outPlaces (by omega) (by omega), hr⟩, place⟩

theorem State.outRows_sum {r : OutRow} (hr : r ∈ s.outRows q sl us row base) :
    (r.poison = true ↔ ∃ l ∈ (us.filter (fun u => decide (stackOf u = 5 * q + r.stack ∧ bankOf u = r.bank))).map
      (fun u => (s.view q sl u).lanes 0 row), ∃ x ∈ l, x.2 = true) ∧
    ∃ first others, List.Perm (first :: others)
      (((us.filter (fun u => decide (stackOf u = 5 * q + r.stack ∧ bankOf u = r.bank))).map
        (fun u => (s.view q sl u).lanes 0 row)).map (fun l => l.map (·.1))) ∧
      r.lanes = others.foldl (fun a b => List.zipWith fadd a b) first := by
  obtain ⟨k, -, hk⟩ := (s.mem_outRows q sl us row base).mp hr
  obtain ⟨hs, hb, hne, he⟩ := State.dieRow_eq_some hk
  rw [hs, hb]
  subst he
  refine ⟨by simp only [List.any_eq_true], dieSum_eq _ ?_⟩
  simpa only [ne_eq, List.map_eq_nil_iff] using hne

end

/-- Settles O28: the lines of an XFER come from their source, and an OUT drives the sum of each place. -/
theorem outAndXferMoveRows : Obligations.OutAndXferMoveRows := by
  refine ⟨fun q sl sel w s => ⟨fun h => ?_, fun hs hd => ?_⟩, fun q sl sel w lit s => ⟨fun h => ?_, fun c hc hn => ?_⟩⟩
  · exact congrArg Host.Outcome.next (if_pos h)
  · refine ⟨_, s.xferLine q sl w s.free, congrArg Host.Outcome.next (if_neg (by omega)),
      fun i l _ => State.xferLine_payload _ i, fun i c n _ => State.xferLine_stage _ i, ?_⟩
    dsimp only
    simp only [List.map_map, Function.comp_def]
    exact s.entersResult_due (s.free + 8) q sl 2 5 _
  · refine congrArg Host.Outcome.next ?_
    split
    next => rfl
    next c hc =>
      rw [hc] at h
      exact if_pos (h.resolve_left (by simp))
  · have step : exec (.out q sl sel w lit) s = .next (({ s with free := s.free + 16 * 160 }.modCtx c (fun x =>
        { x with streams := tset 0 x.streams (q * 512 + Vec.d w) (tget 0 (s.ctx c).streams (q * 512 + Vec.d w) + 1) })).due q sl 1 1
          [.out ⟨c, Vec.d w, tget 0 (s.ctx c).streams (q * 512 + Vec.d w), s.outRows q sl (s.units_ q sl sel) (Vec.b w) s.free⟩
            (s.units_ q sl sel)]) := by
      show Host.Outcome.next _ = _
      rw [hc]
      exact congrArg Host.Outcome.next (if_neg (by omega))
    refine ⟨_, _, step, State.quad_setQuad_same _ _ _, s.outRows_nodup q sl _ _ _, ?_, fun r hr => s.outRows_sum q sl _ _ _ hr,
      fun p hp => State.quad_setQuad_ne _ _ hp, ?_, fun k hk => ?_, rfl⟩
    · exact s.outRows_place q sl _ _ _ fun u hu => maskUnits_stack hu
    · exact tget_tset_same _ _ _ _
    · exact tget_tset_ne _ _ _ hk

end Sys2Proof.Machine
end

section
/-! PROOF. O22: the end of a late event. -/

namespace Sys2Proof.Machine

/-! ## The hold by late lines -/

theorem Quad.hold_eq (x : Quad) (code n : Nat) :
    x.hold code n = { x with holdLen := (x.hold code n).holdLen, holdCode := (x.hold code n).holdCode } := by
  unfold Quad.hold
  split <;> rfl

theorem Quad.le_hold (x : Quad) (code n : Nat) : n ≤ (x.hold code n).holdLen := by
  unfold Quad.hold
  split
  · exact Nat.le_refl n
  · omega

/-! ## Columns stored as poisoned with the data that they hold -/

/-- t is s with the columns of P, as far as their stack has not failed, stored as poisoned (R36, R67). -/
structure State.Poisons (s t : State) (P : Nat → Prop) : Prop where
  frame : t = { s with mem := t.mem }
  data : ∀ c, readBytes t.mem.data (32 * c) 32 = readBytes s.mem.data (32 * c) 32
  hit : ∀ c, P c → (s.stack (stackOf (bankOfCol c))).failed = false →
    t.mem.raw c = (Memory.zero.store c (readBytes s.mem.data (32 * c) 32) true).raw c
  miss : ∀ c, P c ∧ (s.stack (stackOf (bankOfCol c))).failed = false ∨ t.mem.raw c = s.mem.raw c

namespace State.Poisons

variable {s t v : State} {P Q : Nat → Prop}

theorem refl (s : State) : s.Poisons s (fun _ => False) := ⟨rfl, fun _ => rfl, fun _ h => h.elim, fun _ => .inr rfl⟩

theorem stack (h : s.Poisons t P) (i : Nat) : t.stack i = s.stack i := by
  rw [h.frame]
  rfl

theorem trans (h : s.Poisons t P) (h' : t.Poisons v Q) : s.Poisons v (fun c => P c ∨ Q c) where
  frame := by
    rw [h'.frame, h.frame]
  data c := (h'.data c).trans (h.data c)
  hit c hc hf := by
    have hf' := hf
    rw [← h.stack] at hf'
    rcases h'.miss c with ⟨hQ, -⟩ | same
    · rw [h'.hit c hQ hf', h.data]
    · by_cases hQ : Q c
      · rw [h'.hit c hQ hf', h.data]
      · rw [same, h.hit c (hc.resolve_right hQ) hf]
  miss c := by
    rcases h.miss c with ⟨hP, hf⟩ | same
    · exact .inl ⟨.inl hP, hf⟩
    · rcases h'.miss c with ⟨hQ, hf⟩ | same'
      · exact .inl ⟨.inr hQ, h.stack _ ▸ hf⟩
      · exact .inr (same'.trans same)

theorem congr (h : s.Poisons t P) (e : ∀ c, P c ↔ Q c) : s.Poisons t Q := by
  rwa [funext fun c => propext (e c)] at h

/-- One column. -/
theorem storeCol (s : State) (col : Nat) : s.Poisons (s.storeCol col (readBytes s.mem.data (32 * col) 32) true) (· = col) := by
  have length : (readBytes s.mem.data (32 * col) 32).length = 32 := readBytes_length _ _ _
  unfold State.storeCol
  split
  next hf =>
    exact ⟨rfl, fun _ => rfl, fun c hc h => absurd (hc ▸ h) (by simp [hf]), fun _ => .inr rfl⟩
  next hf =>
    refine ⟨rfl, fun c => ?_, fun c hc _ => ?_, fun c => ?_⟩
    · by_cases hc : c = col
      · subst hc
        have stored := readBytes_writeBytes_same s.mem.data (32 * c) (readBytes s.mem.data (32 * c) 32)
        rwa [length] at stored
      · exact readBytes_writeBytes_out _ _ _ _ _ (by omega)
    · subst hc
      exact (Memory.raw_store_same _ c _ true length).trans (Memory.raw_store_same _ c _ true length).symm
    · by_cases hc : c = col
      · exact .inl ⟨hc, hc ▸ Bool.eq_false_iff.mpr hf⟩
      · exact .inr (Memory.raw_store_ne _ _ true length hc)

/-- A list of steps, each of which looks at the stacks alone. -/
theorem foldl {α : Type} (f : State → α → State) (P : α → Nat → Prop) (xs : List α) (s : State)
    (step : ∀ (t : State) (x : α), t.stk = s.stk → t.Poisons (f t x) (P x)) : s.Poisons (xs.foldl f s) (fun c => ∃ x ∈ xs, P x c) := by
  induction xs generalizing s with
  | nil => exact (refl s).congr fun c => by simp
  | cons x xs ih =>
    have first := step s x rfl
    have stk : (f s x).stk = s.stk := by rw [first.frame]
    refine (first.trans (ih (f s x) fun t y ht => step t y (ht.trans stk))).congr fun c => ?_
    simp

end State.Poisons

theorem State.forceWrites_poisons (s : State) (b : Nat) (us : List Nat) : s.Poisons (s.forceWrites b us)
    (fun c => bankOfCol c ∈ us ∧ (s.stack (stackOf (bankOfCol c))).writes.any (fun w => decide (w.goes = some b ∧ w.col = c)) = true) := by
  refine (State.Poisons.foldl _ (fun u c => ∃ w ∈ (s.stack (stackOf u)).writes.filter (fun w => w.goes = some b ∧ bankOfCol w.col = u),
    c = w.col) us s fun (t : State) u (ht : t.stk = s.stk) => ?_).congr fun c => ?_
  · have stack : t.stack (stackOf u) = s.stack (stackOf u) := congrArg (tget Stack.init · (stackOf u)) ht
    rw [stack]
    exact State.Poisons.foldl _ (fun (w : QWrite) c => c = w.col) _ t fun v w _ => State.Poisons.storeCol v w.col
  · simp only [List.mem_filter, decide_eq_true_eq, List.any_eq_true]
    constructor
    · rintro ⟨u, hu, w, ⟨hw, hg, hb⟩, rfl⟩
      subst hb
      exact ⟨hu, w, hw, hg, rfl⟩
    · rintro ⟨hu, w, hw, hg, rfl⟩
      exact ⟨_, hu, w, ⟨hw, hg, rfl⟩, rfl⟩

/-! ## Stuck units -/

/-- t is s with the records of the units us stuck, one log entry for each, and lessons marked (R67, R174). -/
structure State.Stuck (s t : State) (us : List Nat) : Prop where
  frame : t = { s with units := t.units, ctxs := t.ctxs, mgmt := t.mgmt }
  unit : ∀ u, t.unit u = if u ∈ us then { s.unit u with ev := { (s.unit u).ev with stuck := true } } else s.unit u
  log : s.mgmt.log.length ≤ 8192 → t.mgmt.log.length = min 8192 (s.mgmt.log.length + us.length)
  ctx : ∀ c, t.ctx c = { s.ctx c with lesson := (t.ctx c).lesson }

theorem Ctx.markUnsettled_eq (x : Ctx) (q origin : Nat) : x.markUnsettled q origin = { x with lesson := (x.markUnsettled q origin).lesson } := by
  unfold Ctx.markUnsettled
  split <;> rfl

theorem State.ctx_unsettleSlot_eq (s : State) (q sl origin c : Nat) :
    (s.unsettleSlot q sl origin).ctx c = { s.ctx c with lesson := ((s.unsettleSlot q sl origin).ctx c).lesson } := by
  rw [State.ctx_unsettleSlot]
  split
  · exact Ctx.markUnsettled_eq _ _ _
  · rfl

theorem Mgmt.logEntry_length {m : Mgmt} (e : LogEntry) (h : m.log.length ≤ 8192) :
    (m.logEntry e).log.length = min 8192 (m.log.length + 1) := by
  unfold Mgmt.logEntry
  dsimp only
  rw [List.length_append, List.length_singleton]
  split
  · omega
  · rw [List.length_drop]
    omega

theorem State.unsettled_stuck (s : State) (q u sl origin : Nat) (ctx : BitVec 8) (tag : Nat) (r : State)
    (hr : (s.modUnit u (fun b => { b with ev := { b.ev with stuck := true } })).logOnly Code.forcedCompletion q ctx tag (u * 2 ^ 27) = r) :
    s.Stuck (r.unsettleSlot q sl origin) [u] := by
  have frame := r.unsettleSlot_frame q sl origin
  have mgmt : (r.unsettleSlot q sl origin).mgmt = r.mgmt := by rw [frame]
  have units : (r.unsettleSlot q sl origin).units = r.units := by rw [frame]
  have logged : r = { s with units := r.units, mgmt := r.mgmt } := hr ▸ rfl
  have ctxs : r.ctxs = s.ctxs := by rw [logged]
  refine ⟨?_, fun v => ?_, fun h => ?_, fun c => ?_⟩
  · rw [mgmt, units, frame, logged]
  · have same : (r.unsettleSlot q sl origin).unit v = (s.modUnit u (fun b => { b with ev := { b.ev with stuck := true } })).unit v :=
      (congrArg (tget BankUnit.init · v) units).trans (hr ▸ rfl)
    rw [same]
    by_cases hv : v = u
    · subst hv
      simp
    · rw [State.unit_modUnit_ne _ _ hv, if_neg (by simpa using hv)]
  · rw [mgmt, ← hr]
    exact Mgmt.logEntry_length _ h
  · have same : r.ctx c = s.ctx c := congrArg (tget Ctx.init · c) ctxs
    rw [← same]
    exact State.ctx_unsettleSlot_eq r q sl origin c

theorem State.stuckUnit_stuck (s : State) (q u : Nat) : s.Stuck (s.stuckUnit q u) [u] := s.unsettled_stuck q u _ _ _ _ _ rfl

theorem State.Stuck.cons {s t v : State} {u : Nat} {us : List Nat} (h : s.Stuck t [u]) (h' : t.Stuck v us) : s.Stuck v (u :: us) where
  frame := by
    rw [h'.frame, h.frame]
  unit w := by
    rw [h'.unit, h.unit]
    by_cases hw : w = u
    · simp [hw]
    · simp [hw]
  log hs := by
    have first := h.log hs
    rw [List.length_singleton] at first
    have rest := h'.log (by omega)
    rw [List.length_cons]
    omega
  ctx c := by
    rw [h'.ctx c, h.ctx c]

theorem State.foldl_stuckUnit (q : Nat) (us : List Nat) (s : State) :
    s.Stuck (us.foldl (fun (s : State) u => s.stuckUnit q u) s) us := by
  induction us generalizing s with
  | nil => exact ⟨rfl, fun _ => by simp, fun h => by simpa using (min_eq_right h).symm, fun _ => rfl⟩
  | cons u us ih => exact (s.stuckUnit_stuck q u).cons (ih _)

/-! ## The two events -/

theorem State.lateComplete_holds (q : Fin 4) (s : State) (h : (s.quad q).late ≠ []) :
    ∃ t, exec (.lateComplete q) s = .next t ∧
      t.quad q = { s.quad q with
        late := [], held := false, holdLen := (t.quad q).holdLen, holdCode := (t.quad q).holdCode } ∧
      pointCycle (s.quad q).point ≤ (t.quad q).holdLen ∧ (∀ p, p ≠ q.val → t.quad p = s.quad p) ∧
      t = { s with quads := t.quads, free := t.free } := by
  refine ⟨_, congrArg Host.Outcome.next (if_neg (by simpa using h)), ?_⟩
  unfold State.accountLate
  dsimp only
  generalize hn : (Config.freeNat s.free % (160000 / pointCycle (s.quad q).point) + 1) * pointCycle (s.quad q).point = n
  have unit : pointCycle (s.quad q).point ≤ n := hn ▸ Nat.le_mul_of_pos_left _ (Nat.succ_pos _)
  have own : ((({ s with free := s.free + 1 } : State).modQuad q (fun x => x.hold Sat.late n)).modQuad q
      (fun x => { x with late := [], held := false })).quad q = { (s.quad q).hold Sat.late n with late := [], held := false } := by
    rw [State.quad_modQuad_same, State.quad_modQuad_same]
    rfl
  refine ⟨?_, ?_, fun p hp => ?_, rfl⟩
  · rw [own]
    conv_lhs => rw [Quad.hold_eq]
  · rw [own]
    exact unit.trans (Quad.le_hold _ _ _)
  · rw [State.quad_modQuad_ne _ _ hp, State.quad_modQuad_ne _ _ hp]
    rfl

/-- Settles O22: the late units are stuck, then their full writes are stored poisoned, then the quadrant drops its late lines. -/
theorem lateEventsHoldAndFall : Obligations.LateEventsHoldAndFall := by
  refine fun q s => ⟨fun h => ⟨congrArg Host.Outcome.next (if_pos (by simpa using h)), congrArg Host.Outcome.next (if_pos (by simpa using h))⟩,
    fun h => ⟨s.lateComplete_holds q h, _, congrArg Host.Outcome.next (if_neg (by simpa using h)), ?_⟩⟩
  dsimp only
  obtain ⟨stuck, unit, log, ctx⟩ := State.foldl_stuckUnit q (s.quad q).late (s.modQuad q (fun x => x.hold Sat.late 160000))
  generalize ((s.quad q).late.foldl (fun (s : State) u => s.stuckUnit q u) (s.modQuad q (fun x => x.hold Sat.late 160000))) = r
    at stuck unit log ctx ⊢
  obtain ⟨frame, -, hit, miss⟩ := r.forceWrites_poisons ((s.quad q).beat + 1) (s.quad q).late
  generalize r.forceWrites ((s.quad q).beat + 1) (s.quad q).late = t at frame hit miss ⊢
  have quads : t.quads = (s.modQuad q (fun x => x.hold Sat.late 160000)).quads := by
    rw [frame, stuck]
  have quad : ∀ p, t.quad p = (s.modQuad q (fun x => x.hold Sat.late 160000)).quad p := fun p =>
    congrArg (tget Quad.init · p) quads
  have units : t.units = r.units := by rw [frame]
  have mgmt : t.mgmt = r.mgmt := by rw [frame]
  have ctxs : t.ctxs = r.ctxs := by rw [frame]
  have mem : r.mem = s.mem := by rw [stuck]; rfl
  have stk : r.stk = s.stk := by rw [stuck]; rfl
  have stack : ∀ i, r.stack i = s.stack i := fun i => congrArg (tget Stack.init · i) stk
  refine ⟨?_, fun p hp => ?_, fun c => ?_, fun u => ?_, fun hl => ?_, fun c => ?_, ?_⟩
  · rw [State.quad_modQuad_same, quad, State.quad_modQuad_same]
    simp only [List.contains_eq_mem, decide_eq_true_eq]
    conv_lhs => rw [Quad.hold_eq]
  · rw [State.quad_modQuad_ne _ _ hp, quad, State.quad_modQuad_ne _ _ hp]
  · change t.mem.raw c = _
    simp only [stack, mem] at hit miss
    split
    next hc =>
      obtain ⟨hu, hf, hw⟩ := hc
      exact hit c ⟨hu, hw⟩ hf
    next hc =>
      refine (miss c).resolve_left fun ⟨⟨hu, hw⟩, hf⟩ => hc ⟨hu, hf, hw⟩
  · exact (congrArg (tget BankUnit.init · u) units).trans (unit u)
  · change t.mgmt.log.length = _
    rw [mgmt]
    exact log hl
  · change t.ctx c = { s.ctx c with lesson := (t.ctx c).lesson }
    have same : t.ctx c = r.ctx c := congrArg (tget Ctx.init · c) ctxs
    rw [same]
    exact ctx c
  · rw [frame, stuck]
    rfl

end Sys2Proof.Machine
end

section
/-! PROOF. O18: column reads. What a read notes and sends leaves memory, rows and quadrants alone. -/

namespace Sys2Proof.Machine

/-! ## What a read leaves as it is -/

/-- t is s but for error records, counts, logs, queues of retirement and the links' retry buffers. -/
structure State.Observed (s t : State) : Prop where
  frame : t = { s with units := t.units, banks := t.banks, stk := t.stk, health := t.health, mgmt := t.mgmt, host := t.host, out := t.out }
  unit : ∀ u, t.unit u = { s.unit u with ev := (t.unit u).ev }
  bank : ∀ u, t.bank u = { s.bank u with ueSeen := (t.bank u).ueSeen }
  stack : ∀ i, (t.stack i).writes = (s.stack i).writes ∧ (t.stack i).slateQ = (s.stack i).slateQ ∧ (t.stack i).failed = (s.stack i).failed

namespace State.Observed

variable {s t v : State}

theorem refl (s : State) : s.Observed s := ⟨rfl, fun _ => rfl, fun _ => rfl, fun _ => ⟨rfl, rfl, rfl⟩⟩

theorem trans (h : s.Observed t) (h' : t.Observed v) : s.Observed v where
  frame := by
    rw [h'.frame, h.frame]
  unit u := by
    rw [h'.unit u, h.unit u]
  bank u := by
    rw [h'.bank u, h.bank u]
  stack i :=
    have ⟨w, a, f⟩ := h.stack i
    have ⟨w', a', f'⟩ := h'.stack i
    ⟨w'.trans w, a'.trans a, f'.trans f⟩

theorem modStack (s : State) (i : Nat) {f : Stack → Stack}
    (hf : (f (s.stack i)).writes = (s.stack i).writes ∧ (f (s.stack i)).slateQ = (s.stack i).slateQ ∧
      (f (s.stack i)).failed = (s.stack i).failed) : s.Observed (s.modStack i f) := by
  refine ⟨rfl, fun _ => rfl, fun _ => rfl, fun j => ?_⟩
  by_cases hj : j = i
  · subst hj
    rwa [State.stack_modStack_same]
  · rw [State.stack_modStack_ne _ _ hj]
    exact ⟨rfl, rfl, rfl⟩

theorem seen (s : State) (u : Nat) : s.Observed (s.modBank u (fun b => { b with ueSeen := true })) := by
  refine ⟨rfl, fun _ => rfl, fun v => ?_, fun _ => ⟨rfl, rfl, rfl⟩⟩
  by_cases hv : v = u
  · subst hv
    rw [State.bank_modBank_same]
  · rw [State.bank_modBank_ne _ _ hv]

theorem noted (s : State) (u : Nat) (f : EventRec → EventRec) : s.Observed (s.modUnit u (fun b => { b with ev := f b.ev })) := by
  refine ⟨rfl, fun v => ?_, fun _ => rfl, fun _ => ⟨rfl, rfl, rfl⟩⟩
  by_cases hv : v = u
  · subst hv
    rw [State.unit_modUnit_same]
  · rw [State.unit_modUnit_ne _ _ hv]

/-- Health, the log and the host's side do not matter. -/
theorem withHealth (s : State) (x : Health) : s.Observed { s with health := x } := ⟨rfl, fun _ => rfl, fun _ => rfl, fun _ => ⟨rfl, rfl, rfl⟩⟩

theorem emcyCtx (s : State) (code : BitVec 16) (inst value : Nat) (ctx : BitVec 8) (address : Nat) :
    s.Observed (s.emcyCtx code inst value ctx address) := ⟨rfl, fun _ => rfl, fun _ => rfl, fun _ => ⟨rfl, rfl, rfl⟩⟩

theorem addEvent (s : State) (kind addr : Nat) : s.Observed (s.addEvent kind addr) :=
  ⟨rfl, fun _ => rfl, fun _ => rfl, fun _ => ⟨rfl, rfl, rfl⟩⟩

theorem retirePlot (s : State) (p : Nat) : s.Observed (s.retirePlot p) := by
  unfold State.retirePlot State.emcyEvent
  dsimp only
  split
  · exact withHealth s _
  · split
    · exact withHealth s _
    · split
      · exact refl s
      · exact (withHealth s _).trans (emcyCtx _ _ _ _ _ _)

theorem queuePlot (s : State) (p : Nat) : s.Observed (s.queuePlot p) := by
  unfold State.queuePlot
  dsimp only
  split
  · exact refl s
  · split
    · exact withHealth s _
    · exact (withHealth s _).trans (retirePlot _ p)

theorem noteUe (s : State) (col : Nat) : s.Observed (s.noteUe col) := by
  unfold State.noteUe
  dsimp only
  refine Observed.trans ?_ (queuePlot _ _)
  have counted := (modStack s (stackOf (bankOfCol col)) (f := fun k => { k with ueCount := bump k.ueCount 1, ueLogged := k.failed })
    ⟨rfl, rfl, rfl⟩).trans (seen _ (bankOfCol col))
  split
  · split
    · exact counted
    · exact counted.trans (emcyCtx _ _ _ _ _ _)
  · split
    · exact counted.trans (addEvent _ _ _)
    · exact counted.trans ((emcyCtx _ _ _ _ _ _).trans (addEvent _ _ _))

theorem noteRead (s : State) (col : Nat) (d : Decoded) : s.Observed (s.noteRead col d) := by
  unfold State.noteRead
  dsimp only
  have recorded : s.Observed (if (s.stack (stackOf (bankOfCol col))).failed then s
      else s.modUnit (bankOfCol col) (fun b => { b with ev := b.ev.note d (rowOfCol col) (col % 64) })) := by
    split
    · exact refl s
    · exact noted s _ (fun e => e.note d (rowOfCol col) (col % 64))
  split
  · exact recorded.trans (noteUe _ col)
  · exact recorded

theorem linkSend (s : State) (st : Nat) (kind : LinkKind) (banks : List Nat) (arg : Nat) : s.Observed (s.linkSend st kind banks arg) := by
  unfold State.linkSend
  dsimp only
  split
  · exact refl s
  · exact modStack s st ⟨rfl, rfl, rfl⟩

theorem foldl {α : Type} (f : State → α → State) (step : ∀ (s : State) (x : α), s.Observed (f s x)) (xs : List α) (s : State) :
    s.Observed (xs.foldl f s) := by
  induction xs generalizing s with
  | nil => exact refl s
  | cons x xs ih => exact (step s x).trans (ih _)

theorem linkUnits (s : State) (q : Nat) (us : List Nat) (kind : LinkKind) (arg : Nat) : s.Observed (s.linkUnits q us kind arg) := by
  refine foldl _ (fun s i => ?_) _ s
  dsimp only
  split
  · exact refl s
  · exact linkSend s _ _ _ _

theorem colCommand {s : State} {q : Nat} (h : s.entry q = none) (sl : Nat) (sel : BitVec 4) (w : Word32) :
    s.Observed (s.colCommand q sl sel w) := by
  unfold State.colCommand
  dsimp only
  split
  · exact refl s
  · exact linkUnits _ _ _ _ _
  · rename_i e he
    exact absurd (he.symm.trans h) (by simp)

/-! ## What a column command reads of the state is the same -/

theorem quads (h : s.Observed t) : t.quads = s.quads := by rw [h.frame]
theorem quad (h : s.Observed t) (q : Nat) : t.quad q = s.quad q := congrArg (tget Quad.init · q) h.quads
theorem slot (h : s.Observed t) (q sl : Nat) : t.slot q sl = s.slot q sl := congrArg (fun x : Quad => x.slot sl) (h.quad q)
theorem mem (h : s.Observed t) : t.mem = s.mem := by rw [h.frame]

theorem entry (h : s.Observed t) (q : Nat) : t.entry q = s.entry q := by
  unfold State.entry
  rw [h.quad]

theorem units_ (h : s.Observed t) (q sl : Nat) (sel : BitVec 4) : t.units_ q sl sel = s.units_ q sl sel := by
  unfold State.units_
  rw [h.slot]

theorem decodeCol (h : s.Observed t) (c : Nat) : t.decodeCol c = s.decodeCol c := by
  unfold State.decodeCol
  rw [(h.stack _).2.2, h.mem]

theorem column (h : s.Observed t) (c : Nat) : t.column c = s.column c := by
  unfold State.column
  rw [h.decodeCol]

theorem target (h : s.Observed t) (bank half col : Nat) : t.target bank half col = s.target bank half col := by
  have row : (t.bank bank).half half = (s.bank bank).half half := by
    rw [h.bank bank]
    rfl
  unfold State.target
  rw [row]

theorem genPlace (h : s.Observed t) (q sl g : Nat) : t.genPlace q sl g = s.genPlace q sl g := by
  rw [h.frame]
  rfl

theorem colOf (h : s.Observed t) (q sl : Nat) (w : Word32) : t.colOf q sl w = s.colOf q sl w := by
  unfold State.colOf
  rw [h.entry, h.genPlace]

end State.Observed

/-! ## Columns of the selected units -/

/-- The generator of a column command names columns 0 to 63. -/
theorem State.colOf_lt {s : State} {q sl : Nat} {w : Word32} {p : Nat × Nat} (h : s.colOf q sl w = some p) : p.2 < 64 := by
  have field : Col.column w < 64 := fld_lt w _ _
  have entry : ∀ e : Word32, entryCol e < 64 := fun e => fld_lt e _ _
  unfold State.colOf at h
  split at h
  · cases h
    exact entry _
  · split at h
    · split at h
      · cases h
        exact Nat.mod_lt _ (by decide)
      · cases h
    · cases h
      exact field

theorem bankOfCol_colNo (u : Nat) {row col : Nat} (hr : row < 65536) (hc : col < 64) : bankOfCol (colNo u row col) = u := by
  unfold bankOfCol colNo
  omega

/-- A unit's target is a column of its bank. -/
theorem State.target_bank {s : State} {u half col c : Nat} (hc : col < 64) (h : s.target u half col = some c) : bankOfCol c = u := by
  unfold State.target at h
  split at h
  next r _ =>
    split at h
    · cases h
      exact bankOfCol_colNo u r.row.isLt hc
    · cases h
  · cases h

/-! ## Reads with nothing to wait for -/

/-- Nothing is written or waits to be in quadrant q (R58, R342). -/
def State.NoWrites (s : State) (q : Nat) : Prop :=
  (s.quad q).masked = [] ∧ ∀ st, (s.stack st).writes = [] ∧ (s.stack st).slateQ = []

theorem State.NoWrites.of_observed {s t : State} {q : Nat} (h : s.NoWrites q) (o : s.Observed t) : t.NoWrites q := by
  obtain ⟨masked, queues⟩ := h
  refine ⟨by rw [o.quad, masked], fun st => ?_⟩
  obtain ⟨hw, hq⟩ := queues st
  obtain ⟨w, a, -⟩ := o.stack st
  exact ⟨w.trans hw, a.trans hq⟩

section
variable {s : State} {col : Nat}

theorem State.slateAhead_nil (h : (s.stack (stackOf (bankOfCol col))).slateQ = []) : s.slateAhead col = [] := by
  unfold State.slateAhead
  rw [h]
  rfl

theorem State.drainColumn_nil (h : (s.stack (stackOf (bankOfCol col))).writes = []) : s.drainColumn col = s := by
  unfold State.drainColumn
  dsimp only
  rw [h]
  rfl

theorem State.settleOwn_unmasked (h : ∀ m ∈ (s.quad (quadOf (bankOfCol col))).masked, m.col ≠ col) : s.settleOwn col = s.drainColumn col := by
  have none : (s.quad (quadOf (bankOfCol col))).masked.filter (fun m => decide (m.col = col)) = [] := by
    simpa [List.filter_eq_nil_iff] using h
  unfold State.settleOwn
  dsimp only
  rw [none]
  rfl

theorem State.settleColumn_unqueued (h : (s.stack (stackOf (bankOfCol col))).slateQ = []) :
    s.settleColumn col = (s.settleOwn col).modStack (stackOf (bankOfCol col))
      (fun k => { k with slateQ := k.slateQ.filter (fun _ => true) }) := by
  unfold State.settleColumn
  rw [State.slateAhead_nil h]
  rfl

theorem State.NoWrites.readColumn (h : s.NoWrites (quadOf (bankOfCol col))) :
    s.Observed (s.readColumn col).2 ∧ (s.readColumn col).1 = (s.column col, (s.decodeCol col).1) := by
  obtain ⟨masked, queues⟩ := h
  obtain ⟨writes, slate⟩ := queues (stackOf (bankOfCol col))
  have idle : s.writeWaits col = false := by
    unfold State.writeWaits
    rw [masked, writes, State.slateAhead_nil slate]
    rfl
  have settled : s.Observed (s.settleColumn col) := by
    rw [State.settleColumn_unqueued slate, State.settleOwn_unmasked (by simp [masked]), State.drainColumn_nil writes]
    exact State.Observed.modStack s _ ⟨rfl, by rw [slate]; rfl, rfl⟩
  unfold State.readColumn
  rw [idle]
  exact ⟨settled, Prod.ext (settled.column col) (congrArg Prod.fst (settled.decodeCol col))⟩

end

theorem State.streamRow_none {s : State} {q : Nat} (h : s.entry q = none) (u : Nat) : s.streamRow q u = s := by
  unfold State.streamRow
  rw [h]

theorem State.streamHold_none {s : State} {q : Nat} (h : s.entry q = none) (us : List Nat) : s.streamHold q us = s := by
  have closed : ∀ u, s.streamOpens q u = false := fun u => by
    unfold State.streamOpens
    rw [h]
  unfold State.streamHold
  simp [closed]

/-- The columns that the selected units read (R114, R115). -/
theorem State.readUnits_eq {q half col : Nat} (hc : col < 64) (us : List Nat) (hus : ∀ u ∈ us, quadOf u = q) (s t : State)
    (he : s.entry q = none) (hw : s.NoWrites q) (o : s.Observed t) (acc : List (Nat × Column)) :
    let r := us.foldl (fun acc u =>
      let s := acc.2.streamRow q u
      match s.target u half col with
      | none => (acc.1, s)
      | some c =>
        let r := s.readColumn c
        (acc.1 ++ [(u, r.1.1)], r.2.noteRead c r.1.2)) (acc, t)
    s.Observed r.2 ∧ r.1 = acc ++ us.filterMap (fun u => (s.target u half col).map (fun c => (u, s.column c))) := by
  induction us generalizing t acc with
  | nil => exact ⟨o, (List.append_nil acc).symm⟩
  | cons u us ih =>
    have tail := ih fun v hv => hus v (List.mem_cons_of_mem _ hv)
    have still : t.streamRow q u = t := State.streamRow_none (by rw [o.entry, he]) u
    rw [List.foldl_cons]
    dsimp only
    rw [still, o.target]
    cases hc' : s.target u half col with
    | none =>
      rw [List.filterMap_cons_none (by rw [hc']; rfl)]
      exact tail t o acc
    | some c =>
      have quad : quadOf (bankOfCol c) = q := by
        rw [State.target_bank hc hc']
        exact hus u List.mem_cons_self
      obtain ⟨read, got⟩ := State.NoWrites.readColumn (s := t) (col := c) (by rw [quad]; exact hw.of_observed o)
      rw [List.filterMap_cons_some (by rw [hc']; rfl)]
      dsimp only
      obtain ⟨o', l⟩ := tail ((t.readColumn c).2.noteRead c (t.readColumn c).1.2) ((o.trans read).trans (State.Observed.noteRead _ _ _))
        (acc ++ [(u, (t.readColumn c).1.1)])
      refine ⟨o', l.trans ?_⟩
      rw [got, o.column, List.append_assoc]
      rfl

theorem State.notePlace_frame (s : State) (q sl g : Nat) (p : Place) :
    s.notePlace q sl g p = { s with ctxs := (s.notePlace q sl g p).ctxs } := by
  unfold State.notePlace
  dsimp only
  split <;> rfl

theorem State.noteGen_frame (s : State) (q sl : Nat) (ags : Bool) (g : Nat) :
    s.noteGen q sl ags g = { s with ctxs := (s.noteGen q sl ags g).ctxs } := by
  unfold State.noteGen
  split
  · exact s.notePlace_frame q sl g _
  · rfl

/-- The columns that a COL slot of a word outside a stream reads (R114, R115, R224). -/
def State.colsRead (s : State) (q sl : Nat) (sel : BitVec 4) (w : Word32) : List (Nat × Column) :=
  match s.colOf q sl w with
  | some p => (s.units_ q sl sel).filterMap (fun u => (s.target u p.1 p.2).map (fun c => (u, s.column c)))
  | none => (s.units_ q sl sel).map (fun u => (u, Column.zero))

theorem State.colReads_eq {s : State} {q : Nat} (sl : Nat) (sel : BitVec 4) (w : Word32) (he : s.entry q = none) (hw : s.NoWrites q) :
    ((s.colCommand q sl sel w).colReads q sl sel w).1 = s.colsRead q sl sel w ∧
      ∃ t n, s.Observed t ∧ ((s.colCommand q sl sel w).colReads q sl sel w).2 = { t with ctxs := n } := by
  have sent := State.Observed.colCommand he sl sel w
  generalize s.colCommand q sl sel w = t at sent ⊢
  unfold State.colReads State.colsRead
  rw [sent.colOf, sent.units_]
  cases place : s.colOf q sl w with
  | none => exact ⟨rfl, t, _, sent, t.noteGen_frame q sl (Col.ags w) (Col.ag w)⟩
  | some p =>
    dsimp only
    rw [State.streamHold_none (by rw [sent.entry, he])]
    obtain ⟨o, cols⟩ := State.readUnits_eq (State.colOf_lt place) (s.units_ q sl sel) (fun u hu => maskUnits_quad hu) s t he hw sent []
    refine ⟨cols, _, _, o, rfl⟩

/-- The result of a column read enters flight (R41, R59). -/
theorem State.colRead_enters {s : State} {q : Nat} (sl : Nat) (sel : BitVec 4) (w : Word32) (he : s.entry q = none) (hw : s.NoWrites q)
    (ws : List DueWrite) (t : State)
    (ht : t = (((s.colCommand q sl sel w).colReads q sl sel w).2.stepCol q sl w).due q sl 8 6 ws) :
    t.quad q = (if Col.ags w then (s.quad q).modSlot sl (fun y => y.stepGen (Col.ag w) 1) else s.quad q).withResult sl 8 6
        (s.origin q) ws ∧
      (∀ p, p ≠ q → t.quad p = s.quad p) ∧ (∀ u, t.unit u = { s.unit u with ev := (t.unit u).ev }) ∧
      (∀ u, t.bank u = { s.bank u with ueSeen := (t.bank u).ueSeen }) ∧
      t = { s with quads := t.quads, units := t.units, banks := t.banks, stk := t.stk, ctxs := t.ctxs, health := t.health,
                   mgmt := t.mgmt, host := t.host, out := t.out } := by
  subst ht
  obtain ⟨-, r, n, o, read⟩ := State.colReads_eq sl sel w he hw
  rw [read]
  have quads : ∀ p, ({ r with ctxs := n } : State).quad p = s.quad p := o.quad
  have entry : ({ r with ctxs := n } : State).entry q = none := (o.entry q).trans he
  have frame : ∀ r' : State, r' = { r with ctxs := n } → r' =
      { s with units := r'.units, banks := r'.banks, stk := r'.stk, ctxs := r'.ctxs, health := r'.health, mgmt := r'.mgmt,
               host := r'.host, out := r'.out } := by
    rintro _ rfl
    conv_lhs => rw [o.frame]
  have unit : ∀ u, ({ r with ctxs := n } : State).unit u = { s.unit u with ev := (({ r with ctxs := n } : State).unit u).ev } := o.unit
  have bank : ∀ u, ({ r with ctxs := n } : State).bank u = { s.bank u with ueSeen := (({ r with ctxs := n } : State).bank u).ueSeen } :=
    o.bank
  replace frame := frame _ rfl
  generalize ({ r with ctxs := n } : State) = t at quads entry frame unit bank ⊢
  have origin : t.origin q = s.origin q := by
    unfold State.origin
    rw [quads]
  unfold State.stepCol
  rw [entry]
  cases Col.ags w with
  | false =>
    refine ⟨?_, fun p hp => (State.quad_setQuad_ne _ _ hp).trans (quads p), unit, bank, ?_⟩
    · refine (State.quad_setQuad_same _ q _).trans ?_
      rw [← quads, ← origin]
      rfl
    · conv_lhs => rw [frame]
      rw [frame]
      rfl
  | true =>
    rw [if_pos (by rfl), if_pos rfl]
    refine ⟨?_, fun p hp => ?_, unit, bank, ?_⟩
    · refine (State.quad_due_modSlot t q sl sl 8 6 ws _).trans ?_
      rw [quads, origin]
    · exact (State.quad_setQuad_ne _ _ hp).trans ((State.quad_modQuad_ne t _ hp).trans (quads p))
    · conv_lhs => rw [frame]
      rw [frame]
      rfl

/-- Settles O18: nothing waits, so the reads are of the present columns. -/
theorem columnReadsArriveEightBeatsLater : Obligations.ColumnReadsArriveEightBeatsLater := by
  intro q sl sel w s he hm hs
  have hw : s.NoWrites q := ⟨hm, hs⟩
  obtain ⟨cols, -⟩ := State.colReads_eq sl sel w he hw
  refine ⟨⟨_, rfl, ?_⟩, ⟨_, rfl, ?_⟩⟩
  · have h := State.colRead_enters sl sel w he hw (if Col.le w = 3 then [] else
      (s.colsRead q sl sel w).map (fun x => DueWrite.latch x.1 (Col.le w) x.2)) _ rfl
    rw [← cols] at h
    obtain ⟨own, rest⟩ := h
    refine ⟨own.trans ?_, rest⟩
    rw [cols]
    rfl
  · have h := State.colRead_enters sl sel w he hw
      (if ((s.colsRead q sl sel w).map (fun x => DueWrite.scale x.1 sl x.2)).isEmpty then [] else
        (s.colsRead q sl sel w).map (fun x => DueWrite.scale x.1 sl x.2) ++ [DueWrite.pointer sl]) _ rfl
    rw [← cols] at h
    obtain ⟨own, rest⟩ := h
    refine ⟨own.trans ?_, rest⟩
    rw [cols]
    change _ = Quad.withResult _ _ _ _ _ ((s.colsRead q sl sel w).map (fun x => DueWrite.scale x.1 sl x.2) ++
      if (s.colsRead q sl sel w).isEmpty then [] else [DueWrite.pointer sl])
    cases s.colsRead q sl sel w with
    | nil => rfl
    | cons => rfl

end Sys2Proof.Machine
end

section
/-! PROOF. What acknowledged writes, hoists and merges do to the quadrants: slots whose wait is over are released, hoists leave their
lists, and the beat may be held longer. Each operation keeps the rest, so whatever is built of them does. -/

namespace Sys2Proof.Machine

/-! ## Frames leave the quadrants alone -/

@[simp] theorem State.freeVia_quads (s : State) (f : PeerFrame) : (s.freeVia f).quads = s.quads := by
  unfold State.freeVia
  (repeat' split) <;> rfl

@[simp] theorem State.pump_quads (s : State) (p n : Nat) : (s.pump p n).quads = s.quads := by
  induction n generalizing s with
  | zero => rfl
  | succ n ih =>
    unfold State.pump
    split
    · rfl
    · simp [ih, State.sendOn]

@[simp] theorem State.sendTo_quads (s : State) (dst : Nat) (b : FrameBody) : (s.sendTo dst b).quads = s.quads := by
  simp [State.sendTo, State.route, State.enqueue]

@[simp] theorem State.tellSub_quads (s : State) (dst p : Nat) : (s.tellSub dst p).quads = s.quads := by
  unfold State.tellSub
  dsimp only
  split
  · rfl
  · exact s.sendTo_quads _ _

@[simp] theorem State.notifySubs_quads (s : State) (p : Nat) : (s.notifySubs p).quads = s.quads :=
  State.foldl_keeps State.quads _ (fun s (x : Nat × Nat) => s.tellSub_quads x.1 p) _ _

/-! ## Eased quadrants -/

/-- A slot is as it was, or the wait that blocked it is over (R160, R301). -/
def Slot.Eased (x y : Slot) : Prop := y = x ∨ x.blocked.isSome = true ∧ ∃ p, y = x.release p

theorem Slot.release_blocked (x : Slot) (p : Bool) : (x.release p).blocked = none := rfl

theorem Slot.Eased.trans {x y z : Slot} (h : x.Eased y) (h' : y.Eased z) : x.Eased z := by
  rcases h' with rfl | ⟨hb, p, rfl⟩
  · exact h
  · rcases h with rfl | ⟨hx, r, rfl⟩
    · exact .inr ⟨hb, p, rfl⟩
    · exact absurd hb (by simp [Slot.release_blocked])

/-- A slot that nothing blocks stays. -/
theorem Slot.Eased.of_unblocked {x y : Slot} (h : x.Eased y) (hx : x.blocked = none) : y = x :=
  h.resolve_right fun ⟨hb, _⟩ => by simp [hx] at hb

/-- A quadrant keeps everything but released slots, hoists and the length of the hold. -/
def Quad.Eased (x y : Quad) : Prop :=
  y = { x with slots := y.slots, hoists := y.hoists, holdLen := y.holdLen, holdCode := y.holdCode } ∧ ∀ i, (x.slot i).Eased (y.slot i)

theorem Quad.Eased.refl (x : Quad) : x.Eased x := ⟨rfl, fun _ => .inl rfl⟩

theorem Quad.Eased.trans {x y z : Quad} (h : x.Eased y) (h' : y.Eased z) : x.Eased z := by
  obtain ⟨rest, slots⟩ := h
  obtain ⟨rest', slots'⟩ := h'
  refine ⟨?_, fun i => (slots i).trans (slots' i)⟩
  rw [rest] at rest'
  exact rest'

theorem Quad.Eased.hold (x : Quad) (code n : Nat) : x.Eased (x.hold code n) := by
  unfold Quad.hold
  split
  · exact ⟨rfl, fun _ => .inl rfl⟩
  · exact Quad.Eased.refl x

theorem Quad.Eased.withHoists (x : Quad) (hs : List PendHoist) : x.Eased { x with hoists := hs } := ⟨rfl, fun _ => .inl rfl⟩

/-- Every quadrant of s is one of k eased. -/
def State.Eased (k s : State) : Prop := ∀ q, (k.quad q).Eased (s.quad q)

namespace State.Eased

theorem refl (s : State) : s.Eased s := fun _ => Quad.Eased.refl _

variable {k s t : State}

theorem trans (h : k.Eased s) (h' : s.Eased t) : k.Eased t := fun q => (h q).trans (h' q)

/-- A state with the same quadrants. -/
theorem of_quads (h : k.Eased s) (hq : t.quads = s.quads) : k.Eased t := fun q => by
  rw [show t.quad q = s.quad q from congrArg (tget Quad.init · q) hq]
  exact h q

theorem foldl {α : Type} (f : State → α → State) (hf : ∀ s a, k.Eased s → k.Eased (f s a)) {l : List α} (h : k.Eased s) :
    k.Eased (l.foldl f s) := State.foldl_holds k.Eased f hf l s h

theorem modQuad (h : k.Eased s) (q : Nat) {f : Quad → Quad} (hf : ∀ x : Quad, x.Eased (f x)) : k.Eased (s.modQuad q f) := by
  refine h.trans fun p => ?_
  by_cases hp : p = q
  · subst hp
    rw [State.quad_modQuad_same]
    exact hf _
  · rw [State.quad_modQuad_ne _ _ hp]
    exact Quad.Eased.refl _

theorem modSlot (h : k.Eased s) (q i : Nat) {f : Slot → Slot} (hf : (s.slot q i).Eased (f (s.slot q i))) :
    k.Eased (s.modSlot q i f) := by
  refine h.trans fun p => ?_
  by_cases hp : p = q
  · subst hp
    have own : (s.modSlot p i f).quad p = (s.quad p).setSlot i (f (s.slot p i)) := State.quad_modQuad_same _ _ _
    rw [own]
    refine ⟨rfl, fun j => ?_⟩
    by_cases hj : j = i
    · subst hj
      rw [Quad.slot_setSlot_same]
      exact hf
    · rw [Quad.slot_setSlot_ne _ _ hj]
      exact .inl rfl
  · rw [show (s.modSlot q i f).quad p = s.quad p from State.quad_modQuad_ne _ _ hp]
    exact Quad.Eased.refl _

theorem release (h : k.Eased s) (q i : Nat) (p : Bool) (hb : (s.slot q i).blocked.isSome = true) :
    k.Eased (s.modSlot q i (fun y => y.release p)) := h.modSlot q i (.inr ⟨hb, p, rfl⟩)

/-! ## Records (R403, R410) -/

theorem enterBuffer (h : k.Eased s) (c n : Nat) : k.Eased (s.enterBuffer c n) := by
  induction n generalizing s with
  | zero => exact h
  | succ n ih =>
    unfold State.enterBuffer
    dsimp only
    split
    · exact h
    · split
      · refine ih ?_
        split
        · refine modSlot (h.of_quads rfl) _ _ ?_
          split
          next hb => exact .inr ⟨by rw [hb]; rfl, false, rfl⟩
          next => exact .inl rfl
        · exact h.of_quads rfl
      · exact h

theorem post (h : k.Eased s) (c : Nat) (r : Report) : k.Eased (s.post c r) := by
  unfold State.post State.postFrom
  split
  · exact h.of_quads rfl
  · refine enterBuffer ?_ _ _
    exact h.of_quads rfl

/-! ## Pennants and hoists (R291 to R307) -/

theorem evalSlot (h : k.Eased s) (q sl : Nat) : k.Eased (s.evalSlot q sl) := by
  unfold State.evalSlot
  dsimp only
  split
  next hb =>
    split
    · exact h.release q sl _ (by rw [hb]; rfl)
    · exact h
  next => exact h

theorem evalWatch (h : k.Eased s) (c i : Nat) : k.Eased (s.evalWatch c i) := by
  unfold State.evalWatch
  dsimp only
  split
  · split
    · refine post ?_ _ _
      exact h.of_quads rfl
    · exact h
  · exact h

theorem evalWaiters (h : k.Eased s) : k.Eased s.evalWaiters :=
  foldl _ (fun _ p hs => hs.evalWatch p.1 p.2) (foldl _ (fun _ p hs => hs.evalSlot p.1 p.2) h)

theorem hoistPhys (h : k.Eased s) (p amt : Nat) : k.Eased (s.hoistPhys p amt) := by
  unfold State.hoistPhys
  dsimp only
  split
  · exact h.of_quads rfl
  · split
    · exact h.evalWaiters
    · exact evalWaiters (h.of_quads ((State.notifySubs_quads _ _).trans rfl))

theorem hoistBinding (h : k.Eased s) (b : PenBinding) (amt : Nat) : k.Eased (s.hoistBinding b amt) := by
  unfold State.hoistBinding
  split
  · exact h.hoistPhys _ _
  · split
    · exact h.of_quads (s.sendTo_quads _ _)
    · exact h

theorem runHoist (h : k.Eased s) : k.Eased s.runHoist := by
  unfold State.runHoist
  split
  next => exact h
  next p _ =>
    refine hoistBinding ?_ _ _
    exact h.modQuad p.1 fun x => Quad.Eased.withHoists x _

/-! ## Acknowledged writes (R303 to R308, R342) -/

theorem evalFence (h : k.Eased s) (q sl : Nat) : k.Eased (s.evalFence q sl) := by
  unfold State.evalFence
  dsimp only
  split
  next hb =>
    split
    · exact h.release q sl _ (by rw [hb]; rfl)
    · exact h
  next => exact h

theorem runHoists (h : k.Eased s) : k.Eased s.runHoists := by
  unfold State.runHoists
  exact foldl (fun (s : State) _ => s.runHoist) (fun _ _ hs => hs.runHoist) h

theorem afterDrain (h : k.Eased s) (q : Nat) : k.Eased (s.afterDrain q) := by
  unfold State.afterDrain
  exact foldl _ (fun _ sl hs => hs.evalFence q sl) h.runHoists

theorem drainOne (h : k.Eased s) (st : Nat) : k.Eased (s.drainOne st) := by
  refine afterDrain ?_ _
  exact h.of_quads rfl

theorem drainMany (h : k.Eased s) (st n : Nat) : k.Eased (s.drainMany st n) := by
  induction n generalizing s with
  | zero => exact h
  | succ n ih => exact ih (h.drainOne st)

theorem drainColumn (h : k.Eased s) (col : Nat) : k.Eased (s.drainColumn col) := by
  unfold State.drainColumn
  dsimp only
  split
  · exact h
  · exact h.drainMany _ _

theorem accountOpen (h : k.Eased s) (q code : Nat) : k.Eased (s.accountOpen q code) := by
  unfold State.accountOpen
  split
  · refine modQuad ?_ q fun x => Quad.Eased.hold x _ _
    exact h.of_quads rfl
  · exact h

theorem queueWrite (h : k.Eased s) (col : Nat) (ctx : Option Nat) (seq : Nat) (goes : Option Nat) :
    k.Eased (s.queueWrite col ctx seq goes) := by
  have drained : k.Eased (if (s.stack (stackOf (bankOfCol col))).writes.length < 64 then s
      else (if ctx.isSome then s.accountOpen (quadOfStack (stackOf (bankOfCol col))) Sat.column else s).drainOne
        (stackOf (bankOfCol col))) := by
    split
    · exact h
    · refine drainOne ?_ _
      split
      · exact h.accountOpen _ _
      · exact h
  exact drained.of_quads rfl

/-! ## Merges (R56, R57) -/

theorem observed (h : k.Eased s) (o : s.Observed t) : k.Eased t := h.of_quads o.quads

theorem storeCol (h : k.Eased s) (col : Nat) (data : List Byte) (poison : Bool) : k.Eased (s.storeCol col data poison) := by
  unfold State.storeCol
  split
  · exact h
  · exact h.of_quads rfl

theorem writeNow (h : k.Eased s) (col : Nat) (data : List Byte) (poison : Bool) : k.Eased (s.writeNow col data poison) :=
  storeCol (h.observed (State.Observed.linkSend s _ _ _ _)) _ _ _

end State.Eased

/-- A merge eases the quadrants that it finds once its masked write has left the list (R56, R57). -/
theorem State.mergeMasked_eased (s : State) (q : Nat) (m : Masked) :
    (s.modQuad q (fun x => { x with masked := x.masked.erase m })).Eased (s.mergeMasked q m) := by
  unfold State.mergeMasked
  generalize s.modQuad q (fun x => { x with masked := x.masked.erase m }) = k
  have noted : k.Eased (if m.old.ue then (k.noteRead m.col .uncorrectable).markUnsettled m.ctx q m.origin
      else if m.corrected then k.noteRead m.col (.corrected 1) else k) := by
    split
    · exact ((State.Eased.refl k).observed (State.Observed.noteRead k _ _)).of_quads rfl
    · split
      · exact (State.Eased.refl k).observed (State.Observed.noteRead k _ _)
      · exact State.Eased.refl k
  have queued : ∀ u : State, k.Eased u → k.Eased (if (u.stack (stackOf (bankOfCol m.col))).failed then u.afterDrain q
      else u.queueWrite m.col (some m.ctx) m.seq (some m.due)) := fun u hu => by
    split
    · exact hu.afterDrain q
    · exact hu.queueWrite _ _ _ _
  exact queued _ (noted.writeNow _ _ _)

end Sys2Proof.Machine
end

section
/-! PROOF. O21: masked writes that merge, and queued writes that drain. -/

namespace Sys2Proof.Machine

/-! ## Draining (R303 to R308, R342) -/

@[simp] theorem State.evalFence_still (s : State) (q sl : Nat) : (s.evalFence q sl).still = s.still := by
  unfold State.evalFence
  dsimp only
  split
  · split
    · exact s.modSlot_still q sl fun y => y.release_ctx false
    · rfl
  · rfl

@[simp] theorem State.afterDrain_still (s : State) (q : Nat) : (s.afterDrain q).still = s.still :=
  (State.foldl_still _ (fun s sl => s.evalFence_still q sl) _ _).trans s.runHoists_still

/-- What follows an acknowledged write leaves memory, banks, units and the stacks alone. -/
theorem State.afterDrain_frame (s : State) (q : Nat) : s.afterDrain q =
    { s with quads := (s.afterDrain q).quads, ctxs := (s.afterDrain q).ctxs, sync := (s.afterDrain q).sync,
             host := (s.afterDrain q).host, ring := (s.afterDrain q).ring, out := (s.afterDrain q).out } :=
  State.eq_of_blank (congrArg Still.rest (s.afterDrain_still q))

/-- t is s but for stacks' queues, quadrants, contexts, pennants, ports and what is sent, and free values set aside; no stack has
failed meanwhile, and no access has entered or left. -/
structure State.Drained (s t : State) : Prop where
  frame : t = { s with stk := t.stk, quads := t.quads, ctxs := t.ctxs, sync := t.sync, host := t.host, ring := t.ring,
                       out := t.out, free := t.free }
  stack : ∀ i, (t.stack i).failed = (s.stack i).failed ∧ (t.stack i).slateQ = (s.stack i).slateQ

namespace State.Drained

variable {k s t : State}

theorem refl (s : State) : s.Drained s := ⟨rfl, fun _ => ⟨rfl, rfl⟩⟩

theorem trans (h : k.Drained s) (h' : s.Drained t) : k.Drained t where
  frame := by
    rw [h'.frame, h.frame]
  stack i :=
    have ⟨f, a⟩ := h.stack i
    have ⟨f', a'⟩ := h'.stack i
    ⟨f'.trans f, a'.trans a⟩

theorem modStack (s : State) (i : Nat) {f : Stack → Stack}
    (hf : ∀ x, (f x).failed = x.failed ∧ (f x).slateQ = x.slateQ) : s.Drained (s.modStack i f) := by
  refine ⟨rfl, fun j => ?_⟩
  by_cases hj : j = i
  · subst hj
    rw [State.stack_modStack_same]
    exact hf _
  · rw [State.stack_modStack_ne _ _ hj]
    exact ⟨rfl, rfl⟩

theorem afterDrain (s : State) (q : Nat) : s.Drained (s.afterDrain q) := by
  have frame := s.afterDrain_frame q
  have stk : (s.afterDrain q).stk = s.stk := by rw [frame]
  have stack : ∀ i, (s.afterDrain q).stack i = s.stack i := fun i => congrArg (tget Stack.init · i) stk
  refine ⟨?_, fun i => by rw [stack]; exact ⟨rfl, rfl⟩⟩
  conv_lhs => rw [frame]
  rw [stk]
  conv_rhs => rw [frame]

/-- A change of a stack's queue of writes. -/
theorem withWrites (s : State) (st : Nat) (f : List QWrite → List QWrite) :
    s.Drained (s.modStack st (fun k => { k with writes := f k.writes })) := modStack s st fun _ => ⟨rfl, rfl⟩

theorem drainOne (s : State) (st : Nat) : s.Drained (s.drainOne st) := by
  have dropped := withWrites s st (·.drop 1)
  unfold State.drainOne
  exact dropped.trans (afterDrain _ _)

theorem drainMany (s : State) (st n : Nat) : s.Drained (s.drainMany st n) := by
  induction n generalizing s with
  | zero => exact refl s
  | succ n ih => exact (drainOne s st).trans (ih _)

theorem drainColumn (s : State) (col : Nat) : s.Drained (s.drainColumn col) := by
  unfold State.drainColumn
  dsimp only
  split
  · exact refl s
  · exact drainMany s _ _

theorem accountOpen (s : State) (q code : Nat) : s.Drained (s.accountOpen q code) := by
  unfold State.accountOpen
  split
  · exact ⟨rfl, fun _ => ⟨rfl, rfl⟩⟩
  · exact refl s

theorem queueWrite (s : State) (col : Nat) (ctx : Option Nat) (seq : Nat) (goes : Option Nat) :
    s.Drained (s.queueWrite col ctx seq goes) := by
  have drained : s.Drained (if (s.stack (stackOf (bankOfCol col))).writes.length < 64 then s
      else (if ctx.isSome then s.accountOpen (quadOfStack (stackOf (bankOfCol col))) Sat.column else s).drainOne
        (stackOf (bankOfCol col))) := by
    split
    · exact refl s
    · split
      · exact (accountOpen s _ _).trans (drainOne _ _)
      · exact drainOne s _
  unfold State.queueWrite
  exact drained.trans (withWrites _ _ (· ++ [⟨col, ctx, seq, goes⟩]))

theorem mem (h : s.Drained t) : t.mem = s.mem := by rw [h.frame]

end State.Drained

/-! ## A merge (R56, R57) -/

theorem mergeBytes_length (old data : Line) (mask : Word32) : (mergeBytes old data mask).length = 32 := by simp [mergeBytes]

/-- What stored bytes read is the same in any memory. -/
theorem Memory.raw_store_eq (m : Memory) (c : Nat) {data : List Byte} (poison : Bool) (h : data.length = 32) :
    (m.store c data poison).raw c = (Memory.zero.store c data poison).raw c :=
  (Memory.raw_store_same m c data poison h).trans (Memory.raw_store_same _ c data poison h).symm

/-- The bytes of a column after a write of another one or the same, which a failed stack discards. -/
theorem State.storeCol_raw (s : State) (col : Nat) {data : List Byte} (poison : Bool) (h : data.length = 32) (c : Nat) :
    (s.storeCol col data poison).mem.raw c = if col = c ∧ (s.stack (stackOf (bankOfCol c))).failed = false
      then (Memory.zero.store c data poison).raw c else s.mem.raw c := by
  unfold State.storeCol
  by_cases hc : col = c
  · subst hc
    cases hf : (s.stack (stackOf (bankOfCol col))).failed with
    | true => simp
    | false => simpa using Memory.raw_store_eq s.mem col poison h
  · rw [if_neg (fun e : col = c ∧ _ => hc e.1)]
    split
    · rfl
    · exact Memory.raw_store_ne _ _ _ h (Ne.symm hc)

/-- What a masked write stores. -/
def Masked.stored (m : Masked) (c : Nat) : List Byte :=
  (Memory.zero.store c (mergeBytes m.old.data m.data m.mask) (m.poison || m.old.poison)).raw c

/-- A masked write is the one that reaches a column (R56, R557). -/
def State.merges (s : State) (c : Nat) (m : Masked) : Bool := decide (m.col = c) && !(s.stack (stackOf (bankOfCol c))).failed

/-- t holds the same bytes as s, and the same stacks have failed. -/
def State.SameStore (s t : State) : Prop := t.mem = s.mem ∧ ∀ i, (t.stack i).failed = (s.stack i).failed

theorem State.Observed.sameStore {s t : State} (h : s.Observed t) : s.SameStore t := ⟨h.mem, fun i => (h.stack i).2.2⟩
theorem State.Drained.sameStore {s t : State} (h : s.Drained t) : s.SameStore t := ⟨h.mem, fun i => (h.stack i).1⟩

theorem State.SameStore.trans {s t u : State} (h : s.SameStore t) (h' : t.SameStore u) : s.SameStore u :=
  ⟨h'.1.trans h.1, fun i => (h'.2 i).trans (h.2 i)⟩

theorem State.storeCol_failed (s : State) (col : Nat) (data : List Byte) (poison : Bool) (i : Nat) :
    ((s.storeCol col data poison).stack i).failed = (s.stack i).failed := by
  unfold State.storeCol
  split <;> rfl

/-- What comes before the store of a merge. -/
theorem State.mergeMasked_before (k : State) (q : Nat) (m : Masked) :
    k.SameStore ((if m.old.ue then (k.noteRead m.col .uncorrectable).markUnsettled m.ctx q m.origin
      else if m.corrected then k.noteRead m.col (.corrected 1) else k).linkBank (bankOfCol m.col) .wr (m.col % 64)) := by
  refine State.SameStore.trans ?_ (State.Observed.linkSend _ _ _ _ _).sameStore
  split
  · exact (State.Observed.noteRead k _ _).sameStore.trans ⟨State.markUnsettled_mem _ _ _ _, fun _ => rfl⟩
  · split
    · exact (State.Observed.noteRead k _ _).sameStore
    · exact (State.Observed.refl k).sameStore

/-- What comes after it. -/
theorem State.mergeMasked_after (u : State) (q : Nat) (m : Masked) :
    u.SameStore (if (u.stack (stackOf (bankOfCol m.col))).failed then u.afterDrain q
      else u.queueWrite m.col (some m.ctx) m.seq (some m.due)) := by
  split
  · exact (State.Drained.afterDrain u q).sameStore
  · exact (State.Drained.queueWrite u _ _ _ _).sameStore

theorem State.mergeMasked_mem (s : State) (q : Nat) (m : Masked) : (∀ i, ((s.mergeMasked q m).stack i).failed = (s.stack i).failed) ∧
    ∀ c, (s.mergeMasked q m).mem.raw c = if s.merges c m = true then m.stored c else s.mem.raw c := by
  have before : s.SameStore _ := State.mergeMasked_before (s.modQuad q (fun x => { x with masked := x.masked.erase m })) q m
  unfold State.mergeMasked State.writeNow
  dsimp only
  generalize State.linkBank _ (bankOfCol m.col) .wr (m.col % 64) = u at before ⊢
  obtain ⟨mem, failed⟩ := before
  obtain ⟨mem', failed'⟩ := State.mergeMasked_after (u.storeCol m.col (mergeBytes m.old.data m.data m.mask) (m.poison || m.old.poison)) q m
  refine ⟨fun i => (failed' i).trans ((u.storeCol_failed _ _ _ i).trans (failed i)), fun c => ?_⟩
  rw [mem', State.storeCol_raw _ _ _ (mergeBytes_length _ _ _), failed, mem]
  unfold State.merges Masked.stored
  simp only [Bool.and_eq_true, decide_eq_true_eq, Bool.not_eq_eq_eq_not, Bool.not_true]

/-! ## Every masked write that is due -/

theorem foldl_erase_filter {α : Type} [DecidableEq α] (p : α → Bool) (l : List α) :
    (l.filter p).foldl List.erase l = l.filter (fun x => !p x) := by
  have keep : ∀ (x : α) (f l : List α), x ∉ f → f.foldl List.erase (x :: l) = x :: f.foldl List.erase l := by
    intro x f
    induction f with
    | nil => exact fun _ _ => rfl
    | cons y f ih =>
      intro l hx
      rw [List.mem_cons, not_or] at hx
      obtain ⟨ne, hx⟩ := hx
      rw [List.foldl_cons, List.erase_cons_tail (by simpa using ne), ih _ hx]
      rfl
  induction l with
  | nil => rfl
  | cons x l ih =>
    cases hp : p x with
    | true =>
      rw [List.filter_cons_of_pos hp, List.foldl_cons, List.erase_cons_head, ih, List.filter_cons_of_neg (by simp [hp])]
    | false =>
      rw [List.filter_cons_of_neg (by simp [hp]), List.filter_cons_of_pos (by simp [hp]), keep x _ l (by simp [hp]), ih]

theorem State.mergeMasked_quad (s : State) (q : Nat) (m : Masked) :
    ((s.mergeMasked q m).quad q).masked = (s.quad q).masked.erase m ∧ ∀ p, ((s.mergeMasked q m).quad p).dues = (s.quad p).dues := by
  have eased := s.mergeMasked_eased q m
  refine ⟨?_, fun p => ?_⟩
  · obtain ⟨rest, -⟩ := eased q
    rw [rest, State.quad_modQuad_same]
  · obtain ⟨rest, -⟩ := eased p
    rw [rest]
    by_cases hp : p = q
    · subst hp
      rw [State.quad_modQuad_same]
    · rw [State.quad_modQuad_ne _ _ hp]

theorem State.foldl_mergeMasked (q : Nat) (ms : List Masked) (h : (ms.map (·.col)).Nodup) (s : State) :
    let t := ms.foldl (fun (s : State) m => s.mergeMasked q m) s
    (t.quad q).masked = ms.foldl List.erase (s.quad q).masked ∧ (∀ p, (t.quad p).dues = (s.quad p).dues) ∧
      ∀ c, t.mem.raw c = match ms.find? (s.merges c) with
        | some m => m.stored c
        | none => s.mem.raw c := by
  induction ms generalizing s with
  | nil => exact ⟨rfl, fun _ => rfl, fun _ => rfl⟩
  | cons m ms ih =>
    obtain ⟨fresh, distinct⟩ := List.nodup_cons.mp h
    obtain ⟨masked, dues⟩ := s.mergeMasked_quad q m
    obtain ⟨failed, raw⟩ := s.mergeMasked_mem q m
    obtain ⟨masked', dues', raw'⟩ := ih distinct (s.mergeMasked q m)
    have merges : ∀ c, (s.mergeMasked q m).merges c = s.merges c := fun c => by
      unfold State.merges
      rw [failed]
    refine ⟨masked'.trans (congrArg (ms.foldl List.erase) masked), fun p => (dues' p).trans (dues p), fun c => (raw' c).trans ?_⟩
    rw [merges]
    cases hm : s.merges c m with
    | true =>
      have others : ms.find? (s.merges c) = none := by
        refine List.find?_eq_none.mpr fun m' hm' hit => fresh ?_
        have here : m.col = c := of_decide_eq_true (Bool.and_eq_true_iff.mp hm).1
        have there : m'.col = c := of_decide_eq_true (Bool.and_eq_true_iff.mp hit).1
        exact List.mem_map.mpr ⟨m', hm', there.trans here.symm⟩
      rw [others, List.find?_cons_of_pos hm]
      exact (raw c).trans (if_pos hm)
    | false =>
      rw [List.find?_cons_of_neg (by simp [hm]), raw, if_neg (by simp [hm])]

/-! ## O21 -/

theorem State.mayDrain_nil {s : State} {st : Nat} (h : (s.stack st).writes = []) : s.mayDrain st = false := by
  unfold State.mayDrain
  rw [h]

theorem State.mayDrain_iff {s : State} {st : Nat} {w : QWrite} {ws : List QWrite} (h : (s.stack st).writes = w :: ws) :
    s.mayDrain st = true ↔ (s.stack st).recovering = false ∧ (s.issuing (quadOfStack st) = false ∨
      ∀ b, w.goes = some b → b + 4 ≤ (s.quad (quadOfStack st)).beat) := by
  unfold State.mayDrain
  rw [h]
  dsimp only
  rw [Bool.and_eq_true, Bool.or_eq_true, Bool.not_eq_true', Bool.not_eq_true']
  cases w.goes <;> simp

/-- The oldest write leaves its stack's queue, and the other stacks keep theirs. -/
theorem State.drainOne_holds (s : State) (st : Nat) : ((s.drainOne st).stack st).writes = (s.stack st).writes.drop 1 ∧
    (∀ i, i ≠ st → (s.drainOne st).stack i = s.stack i) ∧
    s.drainOne st = { s with stk := (s.drainOne st).stk, quads := (s.drainOne st).quads, ctxs := (s.drainOne st).ctxs,
                             sync := (s.drainOne st).sync, host := (s.drainOne st).host, ring := (s.drainOne st).ring,
                             out := (s.drainOne st).out } := by
  unfold State.drainOne
  have own := s.stack_modStack_same st (fun k => { k with writes := k.writes.drop 1 })
  have others := fun i (hi : i ≠ st) => s.stack_modStack_ne (fun k => { k with writes := k.writes.drop 1 }) hi
  have start : s.modStack st (fun k => { k with writes := k.writes.drop 1 }) =
    { s with stk := (s.modStack st (fun k => { k with writes := k.writes.drop 1 })).stk } := rfl
  generalize s.modStack st (fun k => { k with writes := k.writes.drop 1 }) = u at own others start ⊢
  have frame := u.afterDrain_frame (quadOfStack st)
  have stk : (u.afterDrain (quadOfStack st)).stk = u.stk := by rw [frame]
  have stack : ∀ i, (u.afterDrain (quadOfStack st)).stack i = u.stack i := fun i => congrArg (tget Stack.init · i) stk
  refine ⟨by rw [stack, own], fun i hi => (stack i).trans (others i hi), ?_⟩
  rw [stk]
  generalize u.afterDrain (quadOfStack st) = v at frame
  refine frame.trans ?_
  rw [start]

/-- Settles O21: masked writes of distinct columns merge one after another, and a drained write leaves its own queue alone. -/
theorem queuedWritesComplete : Obligations.QueuedWritesComplete := by
  refine ⟨?_, fun st s h => ?_, fun st w ws s h => ⟨fun hr => ?_, fun hr => ?_⟩⟩
  · intro q s ms h
    obtain ⟨masked, dues, raw⟩ := State.foldl_mergeMasked q ms h s
    refine ⟨_, rfl, masked.trans (foldl_erase_filter _ _), fun c => (raw c).trans ?_, dues⟩
    change _ = (match ms.find? (s.merges c) with
      | some m => m.stored c
      | none => s.mem.raw c)
    cases ms.find? (s.merges c) <;> rfl
  · exact congrArg Host.Outcome.next (if_neg (by simp [State.mayDrain_nil h]))
  · exact congrArg Host.Outcome.next (if_neg fun e => hr ((State.mayDrain_iff h).mp e))
  · obtain ⟨own, others, frame⟩ := s.drainOne_holds st
    refine ⟨_, congrArg Host.Outcome.next (if_pos ((State.mayDrain_iff h).mpr hr)), own.trans (by rw [h]; rfl), others, frame⟩

end Sys2Proof.Machine
end

section
/-! PROOF. O20: column writes. Each selected unit writes a column of its own bank, so the units do not disturb one another. -/

namespace Sys2Proof.Machine

/-! ## What column writes leave as it is -/

theorem Slot.Eased.kept {x y : Slot} (h : x.Eased y) : y.ctx = x.ctx ∧ y.epoch = x.epoch ∧ y.random = x.random := by
  rcases h with rfl | ⟨-, p, rfl⟩
  · exact ⟨rfl, rfl, rfl⟩
  · exact ⟨rfl, rfl, rfl⟩

theorem Quad.Eased.kept {x y : Quad} (h : x.Eased y) : y.masked = x.masked ∧ y.dues = x.dues ∧ y.beat = x.beat ∧ y.seq = x.seq ∧
    y.word = x.word ∧ y.shared = x.shared ∧ y.tt = x.tt := by
  obtain ⟨rest, -⟩ := h
  rw [rest]
  exact ⟨rfl, rfl, rfl, rfl, rfl, rfl, rfl⟩

theorem State.Drained.linkSend (s : State) (st : Nat) (kind : LinkKind) (banks : List Nat) (arg : Nat) :
    s.Drained (s.linkSend st kind banks arg) := by
  unfold State.linkSend
  dsimp only
  split
  · exact State.Drained.refl s
  · exact State.Drained.modStack s st fun _ => ⟨rfl, rfl⟩

theorem State.Drained.linkUnits (s : State) (q : Nat) (us : List Nat) (kind : LinkKind) (arg : Nat) : s.Drained (s.linkUnits q us kind arg) := by
  refine State.foldl_holds s.Drained _ (fun t i h => ?_) _ s (State.Drained.refl s)
  dsimp only
  split
  · exact h
  · exact h.trans (State.Drained.linkSend t _ _ _ _)

/-- A quadrant with more masked writes in flight. -/
def Quad.withMasked (x : Quad) (ms : List Masked) : Quad := { x with masked := x.masked ++ ms }

/-- t is s after column writes of quadrant q: to the columns that w gives they have written its bytes and mark, and the masked writes
ms have entered flight (R55 to R57). -/
structure State.Stores (s t : State) (q : Nat) (w : Nat → Option (List Byte × Bool)) (ms : List Masked) : Prop where
  frame : t = { s with mem := t.mem, stk := t.stk, quads := t.quads, ctxs := t.ctxs, sync := t.sync, host := t.host, ring := t.ring,
                       out := t.out, free := t.free }
  stack : ∀ i, (t.stack i).failed = (s.stack i).failed ∧ (t.stack i).slateQ = (s.stack i).slateQ
  own : ((s.quad q).withMasked ms).Eased (t.quad q)
  raw : ∀ c, t.mem.raw c = match w c with
    | some x => (Memory.zero.store c x.1 x.2).raw c
    | none => s.mem.raw c

namespace State.Stores

variable {s t v : State} {q : Nat} {w w' : Nat → Option (List Byte × Bool)} {ms ms' : List Masked}

theorem of_drained (h : s.Drained t) (e : s.Eased t) : s.Stores t q (fun _ => none) [] where
  frame := by
    conv_lhs => rw [h.frame]
    rw [h.mem]
  stack := h.stack
  own := by
    rw [show (s.quad q).withMasked [] = s.quad q by simp [Quad.withMasked]]
    exact e q
  raw c := congrArg (fun x : Memory => x.raw c) h.mem

theorem refl (s : State) : s.Stores s q (fun _ => none) [] := of_drained (State.Drained.refl s) (State.Eased.refl s)

theorem trans (h : s.Stores t q w ms) (h' : t.Stores v q w' ms') : s.Stores v q (fun c => (w' c).or (w c)) (ms ++ ms') where
  frame := by
    rw [h'.frame, h.frame]
  stack i :=
    have ⟨f, a⟩ := h.stack i
    have ⟨f', a'⟩ := h'.stack i
    ⟨f'.trans f, a'.trans a⟩
  own := by
    have longer : ((s.quad q).withMasked (ms ++ ms')).Eased ((t.quad q).withMasked ms') := by
      obtain ⟨rest, slots⟩ := h.own
      refine ⟨?_, slots⟩
      rw [rest]
      simp [Quad.withMasked]
    exact longer.trans h'.own
  raw c := by
    rw [h'.raw, h.raw]
    cases w' c <;> rfl

theorem congr (h : s.Stores t q w ms) (hw : ∀ c, w c = w' c) (hm : ms = ms') : s.Stores t q w' ms' := by
  obtain rfl : w = w' := funext hw
  exact hm ▸ h

/-! ## What a column command reads of the state is the same -/

theorem units (h : s.Stores t q w ms) : t.units = s.units := by rw [h.frame]
theorem banks (h : s.Stores t q w ms) : t.banks = s.banks := by rw [h.frame]
theorem unit (h : s.Stores t q w ms) (u : Nat) : t.unit u = s.unit u := congrArg (tget BankUnit.init · u) h.units

theorem target (h : s.Stores t q w ms) (bank half col : Nat) : t.target bank half col = s.target bank half col := by
  unfold State.target
  rw [show t.bank bank = s.bank bank from congrArg (tget Bank.init · bank) h.banks]

theorem slot (h : s.Stores t q w ms) (sl : Nat) : (t.slot q sl).ctx = (s.slot q sl).ctx ∧ (t.slot q sl).epoch = (s.slot q sl).epoch ∧
    (t.slot q sl).random = (s.slot q sl).random := (h.own.2 sl).kept

theorem view (h : s.Stores t q w ms) (sl u : Nat) : t.view q sl u = s.view q sl u := by
  obtain ⟨-, epoch, random⟩ := h.slot sl
  obtain ⟨-, -, -, -, -, shared, -⟩ := h.own.kept
  unfold State.view
  rw [h.unit, epoch, random, shared]
  rfl

theorem entry (h : s.Stores t q w ms) : t.entry q = s.entry q := by
  obtain ⟨-, -, -, -, word, -, -⟩ := h.own.kept
  unfold State.entry
  rw [word]
  rfl

theorem origin (h : s.Stores t q w ms) : t.origin q = s.origin q := by
  obtain ⟨-, -, -, -, word, -, -⟩ := h.own.kept
  unfold State.origin
  rw [word]
  rfl

/-- A column that is not stored to reads the same. -/
theorem decodeCol (h : s.Stores t q w ms) {c : Nat} (hc : w c = none) : t.decodeCol c = s.decodeCol c := by
  have raw := h.raw c
  rw [hc] at raw
  unfold State.decodeCol Memory.decode
  rw [(h.stack _).1, raw]

theorem column (h : s.Stores t q w ms) {c : Nat} (hc : w c = none) : t.column c = s.column c := by
  unfold State.column
  rw [h.decodeCol hc]

end State.Stores

/-! ## One unit -/

section
variable (s : State) (q sl half col line : Nat)

/-- The unit writes column c whole (R55, R557). -/
def State.hits (full : Nat → Bool) (c u : Nat) : Bool :=
  decide (s.target u half col = some c) && !(s.stack (stackOf u)).failed && full u

/-- What it writes. -/
def State.lineOut (u : Nat) : List Byte × Bool := (bytesOf 32 ((s.view q sl u).line line).data, ((s.view q sl u).line line).poison)

/-- The masked write of a unit (R56). -/
def State.maskedOf (full : Nat → Bool) (u : Nat) : Option Masked :=
  if full u then none else
    (s.target u half col).map (fun c =>
      { due := (s.quad q).beat + 8, ctx := ((s.slot q sl).ctx).getD 0, slot := sl, col := c,
        mask := (s.unit u).writeMask sl, data := ((s.view q sl u).line line).data,
        poison := ((s.view q sl u).line line).poison, old := s.column c,
        corrected := (s.decodeCol c).1.wasCorrected, origin := s.origin q, seq := (s.quad q).seq })

end

section
variable {s : State} {q sl half col line : Nat}


theorem toLe_length (k x : Nat) : (toLe k x).length = k := by
  induction k generalizing x with
  | zero => rfl
  | succ k ih => exact congrArg (· + 1) (ih _)

theorem bytesOf_length {n : Nat} (k : Nat) (x : BitVec n) : (bytesOf k x).length = k := toLe_length _ _

/-- A full write of one unit (R55, R57). -/
theorem State.writeUnit_stores (he : s.entry q = none) (hc : col < 64) {full : Nat → Bool} {u : Nat} (hf : full u = true) :
    s.Stores (s.writeUnit q sl half col line u) q
      (fun c => if s.hits half col full c u then some (s.lineOut q sl line u) else none) (s.maskedOf q sl half col line full u).toList := by
  have unmasked : (s.maskedOf q sl half col line full u).toList = [] := by simp [State.maskedOf, hf]
  rw [unmasked]
  unfold State.writeUnit
  dsimp only
  rw [State.streamRow_none he]
  cases place : s.target u half col with
  | none => exact (State.Stores.refl s).congr (fun c => by simp [State.hits, place]) rfl
  | some c =>
    have bank := State.target_bank hc place
    dsimp only
    have stored : s.Stores (s.storeCol c (bytesOf 32 ((s.view q sl u).line line).data) ((s.view q sl u).line line).poison) q
        (fun c' => if s.hits half col full c' u then some (s.lineOut q sl line u) else none) [] := by
      refine ⟨?_, fun i => ?_, ?_, fun c' => ?_⟩
      · unfold State.storeCol
        split <;> rfl
      · unfold State.storeCol
        split <;> exact ⟨rfl, rfl⟩
      · rw [show (s.quad q).withMasked [] = s.quad q by simp [Quad.withMasked]]
        exact (State.Eased.refl s).storeCol c _ _ q
      · rw [State.storeCol_raw _ _ _ (bytesOf_length _ _)]
        by_cases here : c = c'
        · subst here
          cases hfail : (s.stack (stackOf u)).failed with
          | true => simp [State.hits, place, bank, hfail]
          | false => simp [State.hits, place, bank, hfail, hf, State.lineOut]
        · have miss : s.hits half col full c' u = false := by simp [State.hits, place, here]
          rw [if_neg (fun e : c = c' ∧ _ => here e.1), miss]
          rfl
    split
    · exact stored
    · exact (stored.trans (State.Stores.of_drained (State.Drained.queueWrite _ _ _ _ _)
        ((State.Eased.refl _).queueWrite _ _ _ _))).congr (fun _ => by simp) rfl

/-- A read of a column that no masked write is about to change (R58). -/
theorem State.readColumn_stores {c : Nat} (hm : ∀ m ∈ (s.quad (quadOf (bankOfCol c))).masked, m.col ≠ c)
    (hq : ∀ st, (s.stack st).slateQ = []) :
    s.Stores (s.readColumn c).2 q (fun _ => none) [] ∧ (s.readColumn c).1 = (s.column c, (s.decodeCol c).1) := by
  have held : s.Drained (if s.writeWaits c then s.accountOpen (quadOf (bankOfCol c)) Sat.column else s) ∧
      s.Eased (if s.writeWaits c then s.accountOpen (quadOf (bankOfCol c)) Sat.column else s) := by
    split
    · exact ⟨State.Drained.accountOpen s _ _, (State.Eased.refl s).accountOpen _ _⟩
    · exact ⟨State.Drained.refl s, State.Eased.refl s⟩
  unfold State.readColumn
  dsimp only
  generalize (if s.writeWaits c then s.accountOpen (quadOf (bankOfCol c)) Sat.column else s) = t at held ⊢
  obtain ⟨drained, eased⟩ := held
  obtain ⟨masked, -⟩ := (eased (quadOf (bankOfCol c))).kept
  have slate : (t.stack (stackOf (bankOfCol c))).slateQ = [] := (drained.stack _).2.trans (hq _)
  rw [State.settleColumn_unqueued slate, State.settleOwn_unmasked (by rw [masked]; exact hm)]
  have settled := drained.trans ((State.Drained.drainColumn t c).trans
    (State.Drained.modStack (t.drainColumn c) (stackOf (bankOfCol c)) (f := fun k => { k with slateQ := k.slateQ.filter (fun _ => true) })
      fun x => ⟨rfl, by simp⟩))
  have quads := (eased.drainColumn c).of_quads (t := (t.drainColumn c).modStack (stackOf (bankOfCol c))
    (fun k => { k with slateQ := k.slateQ.filter (fun _ => true) })) rfl
  have stores := State.Stores.of_drained (q := q) settled quads
  exact ⟨stores, Prod.ext (stores.column rfl) (congrArg Prod.fst (stores.decodeCol rfl))⟩

/-- A masked write of one unit (R56). -/
theorem State.writeMaskedUnit_stores (he : s.entry q = none) (hc : col < 64) {full : Nat → Bool} {u : Nat} (hu : quadOf u = q)
    (hf : full u = decide ((s.unit u).writeMask sl = BitVec.allOnes 32)) (hm : ∀ m ∈ (s.quad q).masked, bankOfCol m.col ≠ u)
    (hq : ∀ st, (s.stack st).slateQ = []) :
    s.Stores (s.writeMaskedUnit q sl half col line u) q
      (fun c => if s.hits half col full c u then some (s.lineOut q sl line u) else none) (s.maskedOf q sl half col line full u).toList := by
  unfold State.writeMaskedUnit
  dsimp only
  split
  next all => exact State.writeUnit_stores he hc (by rw [hf]; exact decide_eq_true all)
  next part =>
    have partly : full u = false := by rw [hf]; exact decide_eq_false part
    have nothing : ∀ c, s.hits half col full c u = false := fun c => by simp [State.hits, partly]
    rw [State.streamRow_none he]
    cases place : s.target u half col with
    | none => exact (State.Stores.refl s).congr (fun c => by simp [nothing]) (by simp [State.maskedOf, place, partly])
    | some c =>
      have bank := State.target_bank hc place
      obtain ⟨read, got⟩ := State.readColumn_stores (s := s) (q := q) (c := c)
        (fun m hmem e => hm m (by rwa [bank, hu] at hmem) (by rw [e, bank])) hq
      dsimp only
      rw [got]
      generalize (s.readColumn c).2 = t at read ⊢
      obtain ⟨masked, dues, beat, seq, word, shared, tt⟩ := read.own.kept
      obtain ⟨ctx, -, -⟩ := read.slot sl
      have record : s.maskedOf q sl half col line full u = Option.some
          { due := (t.quad q).beat + 8, ctx := ((t.slot q sl).ctx).getD 0, slot := sl, col := c, mask := (s.unit u).writeMask sl
            data := ((s.view q sl u).line line).data, poison := ((s.view q sl u).line line).poison, old := s.column c
            corrected := (s.decodeCol c).1.wasCorrected, origin := t.origin q, seq := (t.quad q).seq } := by
        unfold State.maskedOf
        rw [partly, place, beat, ctx, seq, read.origin]
        rfl
      have added : t.Stores (t.setQuad q ((t.quad q).withMasked (s.maskedOf q sl half col line full u).toList)) q (fun _ => none)
          (s.maskedOf q sl half col line full u).toList :=
        ⟨rfl, fun _ => ⟨rfl, rfl⟩, by rw [State.quad_setQuad_same]; exact Quad.Eased.refl _, fun _ => rfl⟩
      have both := (read.trans added).congr (w' := fun c => if s.hits half col full c u then some (s.lineOut q sl line u) else none)
        (fun c => by simp [nothing]) (List.nil_append _)
      rw [record] at both ⊢
      exact both

end

/-! ## Every selected unit -/

theorem State.Stores.hits {s t : State} {q : Nat} {w : Nat → Option (List Byte × Bool)} {ms : List Masked} (h : s.Stores t q w ms)
    (half col : Nat) (full : Nat → Bool) (c u : Nat) : t.hits half col full c u = s.hits half col full c u := by
  unfold State.hits
  rw [h.target, (h.stack _).1]

theorem State.Stores.lineOut {s t : State} {q : Nat} {w : Nat → Option (List Byte × Bool)} {ms : List Masked} (h : s.Stores t q w ms)
    (sl line u : Nat) : t.lineOut q sl line u = s.lineOut q sl line u := by
  unfold State.lineOut
  rw [h.view]

theorem State.Stores.maskedOf {s t : State} {q : Nat} {w : Nat → Option (List Byte × Bool)} {ms : List Masked} (h : s.Stores t q w ms)
    (sl line : Nat) {half col : Nat} (full : Nat → Bool) {u : Nat} (hw : ∀ c, s.target u half col = some c → w c = none) :
    t.maskedOf q sl half col line full u = s.maskedOf q sl half col line full u := by
  obtain ⟨-, -, beat, seq, -, -, -⟩ := h.own.kept
  obtain ⟨ctx, -, -⟩ := h.slot sl
  replace beat : (t.quad q).beat = (s.quad q).beat := beat
  replace seq : (t.quad q).seq = (s.quad q).seq := seq
  unfold State.maskedOf
  rw [h.target]
  cases place : s.target u half col with
  | none => rfl
  | some c =>
    dsimp only [Option.map_some]
    rw [h.column (hw c place), h.decodeCol (hw c place), beat, seq, ctx, h.view, h.origin, h.unit]

section
variable {q sl half col line : Nat} {full : Nat → Bool}

/-- Steps that each write their own unit's column write all of them. -/
theorem State.foldl_stores (hc : col < 64) (step : State → Nat → State) (Ready : State → List Nat → Prop)
    (hs : ∀ (t : State) (u : Nat) (us : List Nat), Ready t (u :: us) → u ∉ us ∧ Ready (step t u) us ∧
      t.Stores (step t u) q (fun c => if t.hits half col full c u then some (t.lineOut q sl line u) else none)
        (t.maskedOf q sl half col line full u).toList) (us : List Nat) (s : State) (h : Ready s us) :
    s.Stores (us.foldl step s) q (fun c => (us.find? (s.hits half col full c)).map (s.lineOut q sl line))
      (us.filterMap (s.maskedOf q sl half col line full)) := by
  induction us generalizing s with
  | nil => exact State.Stores.refl s
  | cons u us ih =>
    obtain ⟨fresh, ready, first⟩ := hs s u us h
    have own : ∀ v c, s.target v half col = some c → bankOfCol c = v := fun v c hv => State.target_bank hc hv
    refine (first.trans (ih (step s u) ready)).congr (fun c => ?_) ?_
    · rw [funext (first.hits half col full c), funext (first.lineOut sl line)]
      cases hit : s.hits half col full c u with
      | true =>
        have others : us.find? (s.hits half col full c) = none := by
          refine List.find?_eq_none.mpr fun v hv there => fresh ?_
          simp only [State.hits, Bool.and_eq_true, decide_eq_true_eq] at hit there
          rwa [← own u c hit.1.1, own v c there.1.1]
        rw [others, List.find?_cons_of_pos hit]
        rfl
      | false =>
        rw [List.find?_cons_of_neg (by simp [hit])]
        simp
    · have rest : us.filterMap ((step s u).maskedOf q sl half col line full) = us.filterMap (s.maskedOf q sl half col line full) := by
        refine List.filterMap_congr fun v hv => first.maskedOf sl line full fun c hvc => ?_
        have miss : s.hits half col full c u = false := by
          refine Bool.eq_false_iff.mpr fun hit => fresh ?_
          simp only [State.hits, Bool.and_eq_true, decide_eq_true_eq] at hit
          rwa [← own u c hit.1.1, own v c hvc]
        rw [miss]
        rfl
      rw [rest, List.filterMap_cons]
      cases s.maskedOf q sl half col line full u <;> rfl

end

/-! ## O20 -/

section
variable {q sl : Nat} {sel : BitVec 4} {w : Word32} {p : Nat × Nat} {s : State}

/-- The column command goes over the links first. -/
theorem State.colCommand_stores (he : s.entry q = none) : s.Stores (s.colCommand q sl sel w) q (fun _ => none) [] := by
  refine State.Stores.of_drained ?_ ((State.Eased.refl s).observed (State.Observed.colCommand he sl sel w))
  unfold State.colCommand
  dsimp only
  split
  · exact State.Drained.refl s
  · exact State.Drained.linkUnits s _ _ _ _
  · rename_i e hsome
    exact absurd (hsome.symm.trans he) (by simp)

/-- The columns of a WR (R55). -/
theorem State.wr_stores (he : s.entry q = none) (hp : p.2 < 64) :
    s.Stores ((s.units_ q sl sel).foldl (fun (s : State) u => s.writeUnit q sl p.1 p.2 (Col.line w) u) s) q
      (fun c => ((s.units_ q sl sel).find? (s.hits p.1 p.2 (fun _ => true) c)).map (s.lineOut q sl (Col.line w)))
      ((s.units_ q sl sel).filterMap (s.maskedOf q sl p.1 p.2 (Col.line w) (fun _ => true))) := by
  refine State.foldl_stores (full := fun _ => true) hp (fun s u => s.writeUnit q sl p.1 p.2 (Col.line w) u)
    (fun t us => t.entry q = none ∧ us.Nodup) (fun t u us h => ?_) _ s ⟨he, s.units_nodup q sl sel⟩
  obtain ⟨ht, hn⟩ := h
  obtain ⟨fresh, hus⟩ := List.nodup_cons.mp hn
  have stores := State.writeUnit_stores (sl := sl) (half := p.1) (line := Col.line w) (full := fun _ => true) (u := u) ht hp rfl
  exact ⟨fresh, ⟨stores.entry.trans ht, hus⟩, stores⟩

/-- A unit's write mask selects every byte (R56). -/
def State.allBytes (s : State) (sl u : Nat) : Bool := decide ((s.unit u).writeMask sl = BitVec.allOnes 32)

/-- The columns and the masked writes of a WRM (R56). -/
theorem State.wrm_stores (he : s.entry q = none) (hp : p.2 < 64) (hm : (s.quad q).masked = [])
    (hq : ∀ st, (s.stack st).slateQ = []) :
    s.Stores ((s.units_ q sl sel).foldl (fun (s : State) u => s.writeMaskedUnit q sl p.1 p.2 (Col.line w) u) s) q
      (fun c => ((s.units_ q sl sel).find? (s.hits p.1 p.2 (s.allBytes sl) c)).map (s.lineOut q sl (Col.line w)))
      ((s.units_ q sl sel).filterMap (s.maskedOf q sl p.1 p.2 (Col.line w) (s.allBytes sl))) := by
  refine State.foldl_stores (full := s.allBytes sl) hp (fun s u => s.writeMaskedUnit q sl p.1 p.2 (Col.line w) u)
    (fun t us => t.entry q = none ∧ us.Nodup ∧ (∀ u ∈ us, quadOf u = q) ∧ (∀ st, (t.stack st).slateQ = []) ∧ t.units = s.units ∧
      ∀ m ∈ (t.quad q).masked, bankOfCol m.col ∉ us) (fun t u us h => ?_) _ s
    ⟨he, s.units_nodup q sl sel, fun u hu => maskUnits_quad hu, hq, rfl, by simp [hm]⟩
  obtain ⟨ht, hn, quad, slate, units, masked⟩ := h
  obtain ⟨fresh, hus⟩ := List.nodup_cons.mp hn
  have unit : t.unit u = s.unit u := congrArg (tget BankUnit.init · u) units
  have stores := State.writeMaskedUnit_stores (sl := sl) (half := p.1) (line := Col.line w) (full := s.allBytes sl) ht hp
    (quad u List.mem_cons_self) (by rw [unit]; rfl) (fun m hmem e => masked m hmem (e ▸ List.mem_cons_self)) slate
  refine ⟨fresh, ⟨stores.entry.trans ht, hus, fun v hv => quad v (List.mem_cons_of_mem _ hv), fun st => (stores.stack st).2.trans (slate st),
    stores.units.trans units, fun m hmem => ?_⟩, stores⟩
  obtain ⟨list, -⟩ := stores.own.kept
  rw [list] at hmem
  rcases List.mem_append.mp hmem with old | new
  · exact fun e => masked m old (List.mem_cons_of_mem _ e)
  · have record := Option.mem_toList.mp new
    unfold State.maskedOf at record
    split at record
    · cases record
    · obtain ⟨c, place, rfl⟩ := Option.map_eq_some_iff.mp record
      rw [State.target_bank hp place]
      exact fresh

end

/-- Column writes and their visibility to later reads (R59). -/
theorem State.Stores.writeDue {s t : State} {q sl lat : Nat} {w : Word32} {f : Nat → Option (List Byte × Bool)} {ms : List Masked}
    (h : s.Stores t q f ms) :
    let r := (t.stepCol q sl w).writeDue q sl lat
    (∀ c, r.mem.raw c = match f c with
      | some x => (Memory.zero.store c x.1 x.2).raw c
      | none => s.mem.raw c) ∧
    (r.quad q).masked = (s.quad q).masked ++ ms ∧ (r.quad q).seq = (s.quad q).seq + 1 ∧
      (r.quad q).dues = ((s.quad q).withResult sl lat 6 (s.origin q) []).dues ∧ (r.quad q).tt = (s.quad q).tt ∧
      r = { s with mem := r.mem, stk := r.stk, quads := r.quads, ctxs := r.ctxs, sync := r.sync, host := r.host,
                   ring := r.ring, out := r.out, free := r.free } := by
  obtain ⟨masked, dues, beat, seq, -, -, tt⟩ := h.own.kept
  replace dues : (t.quad q).dues = (s.quad q).dues := dues
  replace beat : (t.quad q).beat = (s.quad q).beat := beat
  replace seq : (t.quad q).seq = (s.quad q).seq := seq
  replace tt : (t.quad q).tt = (s.quad q).tt := tt
  have origin := h.origin
  have stepped : ∃ y, t.stepCol q sl w = { t with quads := y } ∧
      ((t.stepCol q sl w).quad q = t.quad q ∨ (t.stepCol q sl w).quad q = (t.quad q).modSlot sl (fun x => x.stepGen (Col.ag w) 1)) := by
    unfold State.stepCol
    split
    · exact ⟨_, rfl, .inr (State.quad_modQuad_same _ _ _)⟩
    · exact ⟨t.quads, rfl, .inl rfl⟩
  obtain ⟨y, rest, quad⟩ := stepped
  generalize t.stepCol q sl w = u at rest quad
  have own : (u.quad q).masked = (t.quad q).masked ∧ (u.quad q).dues = (t.quad q).dues ∧ (u.quad q).beat = (t.quad q).beat ∧
      (u.quad q).seq = (t.quad q).seq ∧ (u.quad q).tt = (t.quad q).tt ∧ u.origin q = t.origin q := by
    unfold State.origin
    rcases quad with quad | quad <;> (rw [quad]; exact ⟨rfl, rfl, rfl, rfl, rfl, rfl⟩)
  obtain ⟨masked', dues', beat', seq', tt', origin'⟩ := own
  have result : (u.writeDue q sl lat).quad q = (u.quad q).withResult sl lat 6 (u.origin q) [] := State.quad_setQuad_same _ _ _
  dsimp only
  rw [result]
  refine ⟨fun c => ?_, masked'.trans masked, ?_, ?_, tt'.trans tt, ?_⟩
  · change u.mem.raw c = _
    rw [rest]
    exact h.raw c
  · exact congrArg (· + 1) (seq'.trans seq)
  · unfold Quad.withResult
    rw [dues', beat', seq', origin', dues, beat, seq, origin]
  · have frame := h.frame
    generalize hv : u.writeDue q sl lat = v
    have written : v = { u with quads := v.quads } := hv ▸ rfl
    rw [written, rest, frame]

section
variable {q sl : Fin 4} {sel : BitVec 4} {w : Word32} {p : Nat × Nat} {s : State}

theorem execWr_at (he : s.entry q = none) (hp : s.colOf q sl w = some p) : exec (.wr q sl sel w) s =
    .next ((((s.units_ q sl sel).foldl (fun (s : State) u => s.writeUnit q sl p.1 p.2 (Col.line w) u)
      (s.colCommand q sl sel w)).stepCol q sl w).writeDue q sl 6) := by
  have o := State.Observed.colCommand he sl sel w
  unfold exec execWr
  dsimp only
  rw [o.colOf, hp]
  dsimp only
  rw [State.streamHold_none ((o.entry q).trans he), o.units_]

theorem execWrm_at (he : s.entry q = none) (hp : s.colOf q sl w = some p) : exec (.wrm q sl sel w) s =
    .next ((((s.units_ q sl sel).foldl (fun (s : State) u => s.writeMaskedUnit q sl p.1 p.2 (Col.line w) u)
      (s.colCommand q sl sel w)).stepCol q sl w).writeDue q sl
        (if (s.units_ q sl sel).all (fun u => decide ((s.unit u).writeMask sl = BitVec.allOnes 32)) then 6 else 14)) := by
  have o := State.Observed.colCommand he sl sel w
  unfold exec execWrm
  dsimp only
  rw [o.colOf, hp]
  dsimp only
  rw [State.streamHold_none ((o.entry q).trans he)]

end

/-- What the columns and masked writes of a word's COL slot come to, from before its command went over the links. -/
theorem State.Stores.after_command {s t v : State} {q sl half col line : Nat} {full : Nat → Bool} {us : List Nat}
    (h : s.Stores t q (fun _ => none) [])
    (h' : t.Stores v q (fun c => (us.find? (t.hits half col full c)).map (t.lineOut q sl line))
      (us.filterMap (t.maskedOf q sl half col line full))) :
    s.Stores v q (fun c => (us.find? (s.hits half col full c)).map (s.lineOut q sl line))
      (us.filterMap (s.maskedOf q sl half col line full)) := by
  refine (h.trans h').congr (fun c => ?_) ?_
  · rw [funext (h.hits half col full c), funext (h.lineOut sl line), Option.or_none]
  · exact (List.nil_append _).trans (List.filterMap_congr fun u _ => h.maskedOf sl line full fun _ _ => rfl)

/-- Settles O20: the columns of the selected units, after the command has gone over the links. -/
theorem columnWritesStoreTheirLines : Obligations.ColumnWritesStoreTheirLines := by
  intro q sl sel w p s he hp us stores after allBytes
  have small := State.colOf_lt hp
  have o := State.Observed.colCommand he sl sel w
  have command := State.colCommand_stores (sl := sl) (sel := sel) (w := w) he
  have entry : (s.colCommand q sl sel w).entry q = none := (o.entry q).trans he
  have whole : ∀ (full : Nat → Bool) (c : Nat), (match (us.find? (s.hits p.1 p.2 full c)).map (s.lineOut q sl (Col.line w)) with
      | some x => (Memory.zero.store c x.1 x.2).raw c
      | none => s.mem.raw c) = after full c := fun full c => by
    change _ = (match us.find? (s.hits p.1 p.2 full c) with
      | some u => (Memory.zero.store c (bytesOf 32 ((s.view q sl u).line (Col.line w)).data) ((s.view q sl u).line (Col.line w)).poison).raw c
      | none => s.mem.raw c)
    cases us.find? (s.hits p.1 p.2 full c) <;> rfl
  refine ⟨⟨_, execWr_at he hp, ?_⟩, fun hm hq => ⟨_, execWrm_at he hp, ?_⟩⟩
  · have stored := State.wr_stores (sl := sl) (sel := sel) (w := w) entry small
    rw [o.units_] at stored
    obtain ⟨raw, -, seq, dues, tt, frame⟩ := (command.after_command stored).writeDue (sl := sl) (lat := 6) (w := w)
    exact ⟨fun c => (raw c).trans (whole _ c), seq, dues, tt, frame⟩
  · have stored := State.wrm_stores (sl := sl) (sel := sel) (w := w) entry small ((congrArg Quad.masked (o.quad q)).trans hm)
      fun st => ((o.stack st).2.1).trans (hq st)
    have bytes : (s.colCommand q sl sel w).allBytes sl = s.allBytes sl := funext fun u => by
      unfold State.allBytes
      rw [command.unit]
    rw [o.units_, bytes] at stored
    obtain ⟨raw, masked, seq, dues, -, frame⟩ := (command.after_command stored).writeDue (sl := sl)
      (lat := if us.all allBytes then 6 else 14) (w := w)
    rw [hm, List.nil_append] at masked
    refine ⟨fun c => (raw c).trans (whole _ c), masked, seq, dues, ?_, ?_⟩
    · exact (congrArg State.units frame).trans rfl
    · exact (congrArg State.banks frame).trans rfl

end Sys2Proof.Machine
end

section
/-! PROOF. O35: switches of context. A switch recess lets beats pass, in which a slot may be released but no other state changes. -/

namespace Sys2Proof.Machine

/-! ## The states of slots while beats pass -/

/-- A slot keeps its state and what it waits for, or its wait is over (R160, R301). -/
def Slot.Waits (x y : Slot) : Prop :=
  y.st = x.st ∧ y.blocked = x.blocked ∨
    x.blocked.isSome = true ∧ y.blocked = none ∧ y.st = if x.st = .waiting then .ready else x.st

theorem Slot.Waits.trans {x y z : Slot} (h : x.Waits y) (h' : y.Waits z) : x.Waits z := by
  rcases h with ⟨st, blocked⟩ | ⟨wait, free, st⟩
  · unfold Slot.Waits at h' ⊢
    rwa [st, blocked] at h'
  · rcases h' with ⟨st', blocked'⟩ | ⟨wait', -⟩
    · exact .inr ⟨wait, blocked'.trans free, st'.trans st⟩
    · simp [free] at wait'

theorem Slot.Eased.waits {x y : Slot} (h : x.Eased y) : x.Waits y := by
  rcases h with rfl | ⟨hb, p, rfl⟩
  · exact .inl ⟨rfl, rfl⟩
  · exact .inr ⟨hb, rfl, rfl⟩

/-- Every slot of s is one of k that has waited on. -/
def State.Waits (k s : State) : Prop := ∀ q i, (k.slot q i).Waits (s.slot q i)

namespace State.Waits

theorem refl (s : State) : s.Waits s := fun _ _ => .inl ⟨rfl, rfl⟩

variable {k s t : State}

theorem trans (h : k.Waits s) (h' : s.Waits t) : k.Waits t := fun q i => (h q i).trans (h' q i)

theorem of_eased (h : k.Waits s) (h' : s.Eased t) : k.Waits t := h.trans fun q i => ((h' q).2 i).waits

theorem of_quads (h : k.Waits s) (hq : t.quads = s.quads) : k.Waits t := fun q i => by
  rw [show t.slot q i = s.slot q i from congrArg (fun x => (tget Quad.init x q).slot i) hq]
  exact h q i

theorem setQuad (h : k.Waits s) (q : Nat) {x : Quad} (hx : x.slots = (s.quad q).slots) : k.Waits (s.setQuad q x) := by
  refine h.trans fun p i => .inl ?_
  have same : (s.setQuad q x).slot p i = s.slot p i := by
    unfold State.slot
    by_cases hp : p = q
    · subst hp
      rw [State.quad_setQuad_same]
      exact congrArg (tget Slot.init · i) hx
    · rw [State.quad_setQuad_ne _ _ hp]
  rw [same]
  exact ⟨rfl, rfl⟩

theorem modQuad (h : k.Waits s) (q : Nat) {f : Quad → Quad} (hf : ∀ x : Quad, (f x).slots = x.slots) : k.Waits (s.modQuad q f) :=
  h.setQuad q (hf _)

theorem modSlot (h : k.Waits s) (q i : Nat) {f : Slot → Slot} (hf : ∀ y : Slot, (f y).st = y.st ∧ (f y).blocked = y.blocked) :
    k.Waits (s.modSlot q i f) := by
  refine h.trans fun p j => .inl ?_
  rw [State.slot_modSlot]
  split
  next e =>
    obtain ⟨rfl, rfl⟩ := e
    exact hf _
  next => exact ⟨rfl, rfl⟩

theorem foldl {α : Type} (f : State → α → State) (hf : ∀ s a, k.Waits s → k.Waits (f s a)) {l : List α} (h : k.Waits s) :
    k.Waits (l.foldl f s) := State.foldl_holds k.Waits f hf l s h

/-! ## Beats (R59 to R61) -/

theorem account (h : k.Waits s) (q code n : Nat) : k.Waits (s.account q code n) := h.modQuad q fun _ => rfl

theorem endHold (h : k.Waits s) (q : Nat) : k.Waits (s.endHold q) := by
  unfold State.endHold
  dsimp only
  split
  · exact h
  · refine modQuad (h.account _ _ _) q ?_
    exact fun _ => rfl

theorem hold_slots (x : Quad) (code n : Nat) : (x.hold code n).slots = x.slots := by
  unfold Quad.hold
  split <;> rfl

theorem passRate (h : k.Waits s) (q n : Nat) (assigned : Bool) : k.Waits (s.passRate q n assigned) := by
  have set : ∀ a b, k.Waits (s.setQuad q { s.quad q with rateK := a, rateSeen := b }) := fun _ _ => h.setQuad q rfl
  unfold State.passRate
  dsimp only
  split
  · exact ((set _ _).account _ _ _).modQuad q fun x => hold_slots x _ _
  · exact set _ _

theorem applyWrite (h : k.Waits s) (pre : State) (q sl : Nat) (w : DueWrite) : k.Waits (pre.applyWrite s q sl w) := by
  unfold State.applyWrite
  cases w with
  | pointer x => exact h.modSlot q x fun _ => ⟨rfl, rfl⟩
  | out i us => exact h.modQuad q fun _ => rfl
  | _ => exact h.of_quads rfl

theorem applyBeat (h : k.Waits s) (q : Nat) (ds : List Due) : k.Waits (s.applyBeat q ds) := by
  unfold State.applyBeat
  exact foldl _ (fun _ d hs => foldl _ (fun _ w hw => hw.applyWrite s q d.slot w) hs) h

theorem visible (h : k.Waits s) (q beat n : Nat) : k.Waits (s.visible q beat n) := by
  induction n generalizing s with
  | zero => exact h
  | succ n ih =>
    unfold State.visible
    dsimp only
    split
    · exact h
    · split
      · exact h
      · refine ih (applyBeat ?_ q _)
        exact h.modQuad q fun _ => rfl

theorem mergeMasked (h : k.Waits s) (q : Nat) (m : Masked) : k.Waits (s.mergeMasked q m) := by
  refine of_eased ?_ (s.mergeMasked_eased q m)
  exact h.modQuad q fun _ => rfl

theorem startBeat (h : k.Waits s) (q beat : Nat) : k.Waits (s.startBeat q beat) := by
  unfold State.startBeat State.mergeDue
  refine foldl _ (fun _ m hs => hs.mergeMasked q m) (visible ?_ _ _ _)
  refine modQuad (h.endHold q) q ?_
  exact fun _ => rfl

/-! ## Recesses (R131, R168, R345) -/

theorem raiseLate (h : k.Waits s) (q : Nat) (us : List Nat) : k.Waits (s.raiseLate q us) := by
  have counted : (s.countLate us).quads = s.quads := by rw [s.countLate_rest us]
  unfold State.raiseLate
  exact modQuad (h.of_quads counted) q fun _ => rfl

theorem passRecess (h : k.Waits s) (q n : Nat) : k.Waits (s.passRecess q n) := by
  unfold State.passRecess
  refine modQuad (((h.startBeat _ _).account _ _ _).passRate _ _ _) q ?_
  exact fun _ => rfl

theorem runRecess (h : k.Waits s) (q : Nat) (late : List Nat) : k.Waits (s.runRecess q late) := by
  unfold State.runRecess
  dsimp only
  split
  · exact h.passRecess q _
  · exact (h.passRecess q _).raiseLate q _

theorem applyBands_quads (s : State) (q : Nat) :
    ((List.range 5).foldl (fun (s : State) i => s.applyBand (5 * q + i)) s).quads = s.quads :=
  State.foldl_keeps State.quads (fun (s : State) i => s.applyBand (5 * q + i)) (fun _ _ => rfl) _ _

theorem beginRecess (h : k.Waits s) (q : Nat) : k.Waits (s.beginRecess q) := by
  have begun : ∀ (u : State) (n : Nat), u.quads = s.quads → k.Waits
      (((List.range 5).foldl (fun (s : State) i => s.applyBand (5 * q + i)) u).modQuad q
        (fun x => { x with sinceRecess := 0, idle := 0, recessLeft := n })) := fun u n hu =>
    modQuad (h.of_quads ((applyBands_quads u q).trans hu)) q fun _ => rfl
  unfold State.beginRecess
  exact begun _ _ (State.Observed.linkUnits _ _ _ _ _).quads

theorem recess (h : k.Waits s) (q : Nat) (late : List Nat) : k.Waits (s.recess q late) := (h.beginRecess q).runRecess q late

end State.Waits

/-! ## The best READY slot (R161, R162) -/

/-- The choice among slots in order: the first of the highest priority. -/
def bestBy (priority : Nat → Nat) (best : Option Nat) (sl : Nat) : Option Nat :=
  match best with
  | none => some sl
  | some b => if priority sl > priority b then some sl else some b

theorem bestBy_some (priority : Nat → Nat) (b sl : Nat) :
    bestBy priority (some b) sl = some (if priority sl > priority b then sl else b) := by
  change (if priority sl > priority b then some sl else some b) = _
  split <;> rfl

theorem foldl_bestBy_some (priority : Nat → Nat) (l : List Nat) (b : Nat) : ∃ r, l.foldl (bestBy priority) (some b) = some r ∧
    (r = b ∨ r ∈ l) ∧ priority b ≤ priority r ∧ ∀ i ∈ l, priority i ≤ priority r := by
  induction l generalizing b with
  | nil => exact ⟨b, rfl, .inl rfl, le_rfl, by simp⟩
  | cons x l ih =>
    obtain ⟨r, hr, hmem, hb, hl⟩ := ih (if priority x > priority b then x else b)
    refine ⟨r, ?_, ?_, ?_, ?_⟩
    · rw [List.foldl_cons, bestBy_some, hr]
    · split at hmem
      · exact .inr (hmem.elim (fun e => e ▸ List.mem_cons_self) (List.mem_cons_of_mem _))
      · exact hmem.imp_right (List.mem_cons_of_mem _)
    · split at hb <;> omega
    · rintro i (_ | ⟨_, hi⟩)
      · split at hb <;> omega
      · exact hl i hi

section
variable {s : State} {q sl : Nat}

theorem State.bestReady_eq (s : State) (q : Nat) : s.bestReady q = (s.readySlots q).foldl (bestBy (s.priority q)) none := rfl

theorem State.mem_readySlots {i : Nat} : i ∈ s.readySlots q ↔ i < 4 ∧ (s.slot q i).st = .ready ∧ s.firstHeld q i = false := by
  obtain ⟨after, slots⟩ : ∃ after, s.readySlots q =
      ((List.range 4).map (fun i => (after + i) % 4)).filter (fun sl => (s.slot q sl).st == .ready && !s.firstHeld q sl) := ⟨_, rfl⟩
  have turn : (∃ j, j < 4 ∧ (after + j) % 4 = i) ↔ i < 4 :=
    ⟨fun ⟨j, _, e⟩ => by omega, fun hi => ⟨(i + 4 - after % 4) % 4, by omega, by omega⟩⟩
  rw [slots]
  simp [turn]

theorem State.bestReady_none (h : s.bestReady q = none) : s.readySlots q = [] := by
  rw [State.bestReady_eq] at h
  cases l : s.readySlots q with
  | nil => rfl
  | cons x l' =>
    rw [l] at h
    obtain ⟨r, hr, -⟩ := foldl_bestBy_some (s.priority q) l' x
    exact absurd (hr.symm.trans h) (by simp)

theorem State.bestReady_some (h : s.bestReady q = some sl) :
    sl ∈ s.readySlots q ∧ ∀ i ∈ s.readySlots q, s.priority q i ≤ s.priority q sl := by
  rw [State.bestReady_eq] at h
  cases l : s.readySlots q with
  | nil =>
    rw [l] at h
    cases h
  | cons x l' =>
    rw [l] at h
    obtain ⟨r, hr, hmem, hx, hl⟩ := foldl_bestBy_some (s.priority q) l' x
    obtain rfl : r = sl := Option.some.inj (hr.symm.trans h)
    refine ⟨List.mem_cons.mpr hmem, ?_⟩
    rintro i (_ | ⟨_, hi⟩)
    · exact hx
    · exact hl i hi

/-! ## The selected slot -/

/-- A word that blocks the quadrant in place waits once its beat is quiet (R166). -/
theorem State.settleBlocked_quiet (h : (s.slot q sl).st = .issuing) (hb : (s.slot q sl).blocked ≠ none) (hq : s.quiet q sl = true) :
    s.settleBlocked q sl = s.modSlot q sl (fun y => { y with st := .waiting }) := by
  unfold State.settleBlocked
  dsimp only
  rw [if_neg (by simp [h, hb]), if_pos hq]

theorem State.settleBlocked_other (h : (s.slot q sl).st ≠ .issuing ∨ (s.slot q sl).blocked = none) : s.settleBlocked q sl = s := by
  unfold State.settleBlocked
  dsimp only
  rw [if_pos (by simpa [Option.isNone_iff_eq_none] using h)]

/-- A slot that was not READY and is not now leaves the choice as it was. -/
theorem State.bestReady_modSlot {f : Slot → Slot} (h : (s.slot q sl).st ≠ .ready) (hst : (f (s.slot q sl)).st ≠ .ready)
    (hf : ∀ y : Slot, (f y).ctx = y.ctx ∧ (f y).heldFirst = y.heldFirst) : (s.modSlot q sl f).bestReady q = s.bestReady q := by
  have quad : (s.modSlot q sl f).quad q = (s.quad q).setSlot sl (f (s.slot q sl)) := State.quad_modQuad_same _ _ _
  have slot : ∀ i, i ≠ sl → (s.modSlot q sl f).slot q i = s.slot q i := fun i hi =>
    (congrArg (fun x : Quad => x.slot i) quad).trans (Quad.slot_setSlot_ne _ _ hi)
  have own : (s.modSlot q sl f).slot q sl = f (s.slot q sl) := State.slot_modSlot_same _ _ _ _
  have priority : (s.modSlot q sl f).priority q = s.priority q := funext fun i => by
    have ctx : ((s.modSlot q sl f).slot q i).ctx = (s.slot q i).ctx := by
      by_cases hi : i = sl
      · subst hi
        rw [own]
        exact (hf _).1
      · rw [slot i hi]
    unfold State.priority
    rw [ctx]
    rfl
  have ready : (s.modSlot q sl f).readySlots q = s.readySlots q := by
    unfold State.readySlots
    rw [show ((s.modSlot q sl f).quad q).sel = (s.quad q).sel by rw [quad]; rfl]
    refine List.filter_congr fun i _ => ?_
    by_cases hi : i = sl
    · subst hi
      have no : ∀ {a : CtxState}, a ≠ .ready → (a == .ready) = false := fun ha => beq_false_of_ne ha
      rw [own, no hst, no h]
      rfl
    · unfold State.firstHeld
      rw [slot i hi, quad]
      rfl
  rw [State.bestReady_eq, State.bestReady_eq, ready, priority]

end

/-- The slot that is selected gives way (R162). -/
def State.deselect (s : State) (q : Nat) : State :=
  match (s.quad q).sel with
  | some old => s.modSlot q old (fun y => { y with st := if y.st = CtxState.issuing then CtxState.ready else y.st })
  | none => s

/-- A switch recess where the quadrant's count exceeds the slot's own (R168). -/
def State.switchRecess (s : State) (q sl : Nat) (late : List Nat) : State :=
  if (s.quad q).sinceRecess > (s.slot q sl).sinceRecess then s.recess q late else s

/-- A slot is the selected one from now on. -/
def State.choose (s : State) (q sl : Nat) : State :=
  (s.modSlot q sl (fun y => { y with st := .issuing })).modQuad q
    (fun x => { x with sel := some sl, selBeats := 0, quantumUp := false, atSwitch := false })

section
variable {s : State} {q sl : Nat}

theorem State.select_eq (s : State) (q sl : Nat) (late : List Nat) :
    s.select q sl late = ((s.deselect q).switchRecess q sl late).choose q sl := by
  unfold State.select State.deselect
  cases (s.quad q).sel <;> rfl

theorem State.deselect_slot {o : Nat} (h : (s.quad q).sel = some o) : (s.deselect q).slot q o =
    { s.slot q o with st := if (s.slot q o).st = .issuing then .ready else (s.slot q o).st } := by
  unfold State.deselect
  rw [h]
  exact State.slot_modSlot_same _ _ _ _

theorem State.switchRecess_waits (s : State) (q sl : Nat) (late : List Nat) : s.Waits (s.switchRecess q sl late) := by
  unfold State.switchRecess
  split
  · exact (State.Waits.refl s).recess q late
  · exact State.Waits.refl s

theorem State.choose_holds (s : State) (q sl : Nat) : ((s.choose q sl).quad q).sel = some sl ∧
    ((s.choose q sl).slot q sl).st = .issuing ∧ ((s.choose q sl).quad q).selBeats = 0 ∧
    ((s.choose q sl).quad q).quantumUp = false ∧ ∀ i, i ≠ sl → (s.choose q sl).slot q i = s.slot q i := by
  have own : (s.choose q sl).quad q = { (s.quad q).setSlot sl { s.slot q sl with st := .issuing } with
      sel := some sl, selBeats := 0, quantumUp := false, atSwitch := false } := by
    unfold State.choose State.modSlot
    rw [State.quad_modQuad_same, State.quad_modQuad_same]
    rfl
  generalize s.choose q sl = t at own ⊢
  have slots : ∀ i, t.slot q i = ((s.quad q).setSlot sl { s.slot q sl with st := .issuing }).slot i := fun i =>
    (congrArg (fun x : Quad => x.slot i) own).trans rfl
  refine ⟨by rw [own], ?_, by rw [own], by rw [own], fun i hi => ?_⟩
  · rw [slots, Quad.slot_setSlot_same]
  · rw [slots, Quad.slot_setSlot_ne _ _ hi]
    rfl

/-- Of the slot that is selected, and of the one that was (R162, R163, R168). -/
theorem State.select_holds (s : State) (q sl : Nat) (late : List Nat) :
    ((s.select q sl late).quad q).sel = some sl ∧ ((s.select q sl late).slot q sl).st = .issuing ∧
      ((s.select q sl late).quad q).selBeats = 0 ∧ ((s.select q sl late).quad q).quantumUp = false ∧
      ∀ o, o ≠ sl → (s.quad q).sel = some o →
        ({ s.slot q o with st := if (s.slot q o).st = .issuing then .ready else (s.slot q o).st } : Slot).Waits
          ((s.select q sl late).slot q o) := by
  rw [State.select_eq]
  obtain ⟨sel, st, beats, quantum, slots⟩ := ((s.deselect q).switchRecess q sl late).choose_holds q sl
  refine ⟨sel, st, beats, quantum, fun o ho hsel => ?_⟩
  rw [slots o ho, ← State.deselect_slot hsel]
  exact (s.deselect q).switchRecess_waits q sl late q o

/-! ## O35 -/

/-- The selected context, once what blocks it has been looked at (R166). -/
def State.settledSel (s : State) (q : Nat) : State :=
  match (s.quad q).sel with
  | some sl => s.settleBlocked q sl
  | none => s

theorem execContextSwitch_at {q : Fin 4} {late : List Nat} (hh : s.holding q = false) (hr : (s.quad q).recessLeft = 0) :
    exec (.contextSwitch ⟨q, late⟩) s = .next (match (s.settledSel q).bestReady q with
      | none => s.settledSel q
      | some sl => if (s.settledSel q).mayReplace q sl then (s.settledSel q).select q sl late else s.settledSel q) := by
  unfold exec execContextSwitch State.settledSel
  dsimp only
  rw [if_neg (by simp [hh]), if_neg (by simp [hr])] <;> rfl

theorem State.settledSel_of_unblocked (h : (s.quad q).sel = none ∨
    ∃ o, (s.quad q).sel = some o ∧ ((s.slot q o).st ≠ .issuing ∨ (s.slot q o).blocked = none)) : s.settledSel q = s := by
  unfold State.settledSel
  rcases h with none | ⟨o, some, unblocked⟩
  · rw [none]
  · rw [some]
    exact State.settleBlocked_other unblocked

/-- A slot of higher priority, or of equal priority with the quantum up (R162). -/
def State.Outranks (s : State) (q sl o : Nat) : Prop := s.priority q o < s.priority q sl ∨
  (s.priority q o = s.priority q sl ∧ ((s.quad q).quantumUp = true ∨ s.mgmt.quantum.toNat ≤ (s.quad q).selBeats))

theorem State.mayReplace_none (h : (s.quad q).sel = none) : s.mayReplace q sl = true := by
  unfold State.mayReplace
  dsimp only
  rw [h]

theorem State.mayReplace_issuing {o : Nat} (h : (s.quad q).sel = some o) (hst : (s.slot q o).st = .issuing) :
    s.mayReplace q sl = true ↔ (s.quad q).atSwitch = true ∧ s.Outranks q sl o := by
  unfold State.mayReplace State.Outranks
  dsimp only
  rw [h]
  dsimp only
  rw [if_pos (show ((s.quad q).slot o).st = .issuing from hst)]
  simp only [Bool.and_eq_true, Bool.or_eq_true, decide_eq_true_eq, gt_iff_lt, ge_iff_le]
  rw [eq_comm (a := s.priority q sl)]

theorem State.mayReplace_draining {o : Nat} (h : (s.quad q).sel = some o) (hst : (s.slot q o).st = .draining) :
    s.mayReplace q sl = s.settled q o := by
  have st : ((s.quad q).slot o).st = .draining := hst
  unfold State.mayReplace
  dsimp only
  rw [h]
  dsimp only
  rw [st, if_neg (by decide), if_pos rfl]

theorem State.mayReplace_other {o : Nat} (h : (s.quad q).sel = some o) (hi : (s.slot q o).st ≠ .issuing)
    (hd : (s.slot q o).st ≠ .draining) : s.mayReplace q sl = true := by
  have hi' : ((s.quad q).slot o).st ≠ .issuing := hi
  have hd' : ((s.quad q).slot o).st ≠ .draining := hd
  unfold State.mayReplace
  dsimp only
  rw [h]
  dsimp only
  rw [if_neg hi', if_neg hd']

/-- The selected one, if any, may be replaced by slot sl (R162, R163, R166). -/
def State.GivesWay (s : State) (q sl : Nat) : Prop :=
  (s.quad q).sel = none ∨ (∃ o, (s.quad q).sel = some o ∧
    ((s.slot q o).st = .issuing ∧ (s.slot q o).blocked = none ∧ (s.quad q).atSwitch = true ∧ s.Outranks q sl o ∨
     (s.slot q o).st = .issuing ∧ (s.slot q o).blocked ≠ none ∧ s.quiet q o = true ∨
     (s.slot q o).st = .draining ∧ s.settled q o = true ∨
     ((s.slot q o).st ≠ .issuing ∧ (s.slot q o).st ≠ .draining)))

/-- What the switch finds once the selected context has been looked at. -/
theorem State.GivesWay.settled (hb : s.bestReady q = some sl) (h : s.GivesWay q sl) :
    (s.settledSel q).bestReady q = some sl ∧ (s.settledSel q).mayReplace q sl = true ∧
      ∀ o, (s.quad q).sel = some o → (s.slot q o).st = .issuing → ((s.settledSel q).quad q).sel = some o ∧
        (((s.settledSel q).slot q o).st = .issuing ∧ ((s.settledSel q).slot q o).blocked = none ∨
          (s.slot q o).blocked ≠ none ∧ ((s.settledSel q).slot q o).st = .waiting) := by
  rcases h with none | ⟨o, sel, ⟨st, free, switch, ranks⟩ | ⟨st, blocked, quiet⟩ | ⟨st, done⟩ | ⟨notIssuing, notDraining⟩⟩
  · rw [State.settledSel_of_unblocked (.inl none)]
    exact ⟨hb, State.mayReplace_none none, fun o ho => by simp [none] at ho⟩
  · rw [State.settledSel_of_unblocked (.inr ⟨o, sel, .inr free⟩)]
    refine ⟨hb, (State.mayReplace_issuing sel st).mpr ⟨switch, ranks⟩, fun p hp hst => ?_⟩
    obtain rfl : o = p := Option.some.inj (sel.symm.trans hp)
    exact ⟨sel, .inl ⟨st, free⟩⟩
  · have waits : s.settledSel q = s.modSlot q o (fun y => { y with st := .waiting }) := by
      unfold State.settledSel
      rw [sel]
      exact State.settleBlocked_quiet st blocked quiet
    have own : ((s.settledSel q).slot q o).st = .waiting := by rw [waits, State.slot_modSlot_same]
    have sel' : ((s.settledSel q).quad q).sel = some o := by
      rw [waits]
      unfold State.modSlot
      rw [State.quad_modQuad_same]
      exact sel
    refine ⟨?_, State.mayReplace_other sel' (by rw [own]; decide) (by rw [own]; decide), fun p hp hst => ?_⟩
    · rw [waits]
      refine (State.bestReady_modSlot (by rw [st]; decide) ?_ ?_).trans hb
      · exact CtxState.noConfusion
      · exact fun _ => ⟨rfl, rfl⟩
    · obtain rfl : o = p := Option.some.inj (sel.symm.trans hp)
      exact ⟨sel', .inr ⟨blocked, own⟩⟩
  · rw [State.settledSel_of_unblocked (.inr ⟨o, sel, .inl (by rw [st]; decide)⟩)]
    refine ⟨hb, (State.mayReplace_draining sel st).trans done, fun p hp hst => ?_⟩
    obtain rfl : o = p := Option.some.inj (sel.symm.trans hp)
    exact absurd (st.symm.trans hst) (by decide)
  · rw [State.settledSel_of_unblocked (.inr ⟨o, sel, .inl notIssuing⟩)]
    refine ⟨hb, State.mayReplace_other sel notIssuing notDraining, fun p hp hst => ?_⟩
    obtain rfl : o = p := Option.some.inj (sel.symm.trans hp)
    exact absurd hst notIssuing

end

section
variable {q : Fin 4} {late : List Nat} {sl : Nat} {s : State}

/-- The best READY slot takes the place of the selected one. -/
theorem contextSwitch_selects (hh : s.holding q = false) (hr : (s.quad q).recessLeft = 0) (hb : s.bestReady q = some sl)
    (h : s.GivesWay q sl) :
    ∃ t, exec (.contextSwitch ⟨q, late⟩) s = .next t ∧ (s.slot q sl).st = .ready ∧ s.firstHeld q sl = false ∧
      (∀ i, i < 4 → (s.slot q i).st = .ready → s.firstHeld q i = false → s.priority q i ≤ s.priority q sl) ∧
      (t.quad q).sel = some sl ∧ (t.slot q sl).st = .issuing ∧ (t.quad q).selBeats = 0 ∧ (t.quad q).quantumUp = false ∧
      (∀ o, (s.quad q).sel = some o → (s.slot q o).st = .issuing →
        (t.slot q o).st = .ready ∨ ((s.slot q o).blocked ≠ none ∧ (t.slot q o).st = .waiting)) := by
  obtain ⟨best, replace, outgoing⟩ := h.settled hb
  obtain ⟨listed, highest⟩ := State.bestReady_some hb
  obtain ⟨-, ready, unheld⟩ := State.mem_readySlots.mp listed
  obtain ⟨sel, st, beats, quantum, old⟩ := (s.settledSel q).select_holds q sl late
  refine ⟨(s.settledSel q).select q sl late, ?_, ready, unheld, fun i hi hst hf => highest i (State.mem_readySlots.mpr ⟨hi, hst, hf⟩), sel,
    st, beats, quantum, fun o ho hst => ?_⟩
  · rw [execContextSwitch_at hh hr, best]
    exact congrArg Host.Outcome.next (if_pos replace)
  · have other : o ≠ sl := by
      rintro rfl
      exact absurd (hst.symm.trans ready) (by decide)
    obtain ⟨still, state⟩ := outgoing o ho hst
    have waits := old o other still
    rcases state with ⟨issuing, free⟩ | ⟨blocked, waiting⟩
    · rcases waits with ⟨same, -⟩ | ⟨wait, -⟩
      · exact .inl (same.trans (if_pos issuing))
      · simp [free] at wait
    · rcases waits with ⟨same, -⟩ | ⟨-, -, released⟩
      · exact .inr ⟨blocked, same.trans ((if_neg (by rw [waiting]; decide)).trans waiting)⟩
      · refine .inl (released.trans (if_pos ?_))
        exact (if_neg (by rw [waiting]; decide)).trans waiting

/-- An unblocked selection that may not be replaced stays. -/
theorem contextSwitch_stays (hh : s.holding q = false) (hr : (s.quad q).recessLeft = 0) (hb : s.bestReady q = some sl) {o : Nat}
    (ho : (s.quad q).sel = some o) (h : (s.slot q o).st = .issuing ∧ (s.slot q o).blocked = none ∧
      ¬ ((s.quad q).atSwitch = true ∧ s.Outranks q sl o) ∨ (s.slot q o).st = .draining ∧ s.settled q o = false) :
    exec (.contextSwitch ⟨q, late⟩) s = .next s := by
  have settled : s.settledSel q = s := State.settledSel_of_unblocked (.inr ⟨o, ho, by
    rcases h with ⟨-, free, -⟩ | ⟨st, -⟩
    · exact .inr free
    · exact .inl (by rw [st]; decide)⟩)
  have kept : ¬ s.mayReplace q sl = true := by
    rcases h with ⟨st, -, no⟩ | ⟨st, busy⟩
    · exact fun e => no ((State.mayReplace_issuing ho st).mp e)
    · rw [State.mayReplace_draining ho st, busy]
      decide
  rw [execContextSwitch_at hh hr, settled, hb]
  exact congrArg Host.Outcome.next (if_neg kept)

end

theorem quantumExpiry_holds (q : Fin 4) (s : State) : ∃ t, exec (.quantumExpiry q) s = .next t ∧ t = { s with quads := t.quads } ∧
    (∀ p, p ≠ q.val → t.quad p = s.quad p) ∧ t.quad q = { s.quad q with quantumUp := (t.quad q).quantumUp } ∧
    ((t.quad q).quantumUp = true ↔ (s.quad q).quantumUp = true ∨ (s.mgmt.quantum.toNat ≤ (s.quad q).selBeats ∧
      ∃ sl, (s.quad q).sel = some sl ∧ (s.slot q sl).st = .issuing)) := by
  have stretching : (s.quad q).stretching = true ↔ ∃ sl, (s.quad q).sel = some sl ∧ (s.slot q sl).st = .issuing := by
    unfold Quad.stretching State.slot
    cases (s.quad q).sel with
    | none => simp
    | some sl => simp
  refine ⟨_, rfl, rfl, fun p hp => State.quad_modQuad_ne _ _ hp, ?_, ?_⟩
  · rw [State.quad_modQuad_same]
  · rw [State.quad_modQuad_same]
    simp only [Bool.or_eq_true, Bool.and_eq_true, decide_eq_true_eq, ge_iff_le, stretching, and_comm]

/-- Settles O35: the choice is looked at once what blocks the selected context has been, and a switch recess releases slots at most. -/
theorem contextsSwitchAndDrain : Obligations.ContextsSwitchAndDrain := by
  refine ⟨fun q late s => ⟨fun hh => congrArg Host.Outcome.next (if_pos hh), fun hh hr => ?_⟩, fun q late sl s hh hr hb => ⟨?_, ?_⟩,
    fun q late s hh hr hb hsel => ⟨?_, fun i hi hst => ?_⟩, quantumExpiry_holds,
    fun q sl s => ⟨fun h => congrArg Host.Outcome.next (if_pos h), fun h => congrArg Host.Outcome.next (if_neg h)⟩⟩
  · exact congrArg Host.Outcome.next ((if_neg (by simp [hh])).trans (if_pos hr))
  · exact contextSwitch_selects hh hr hb
  · rintro ⟨o, ho, h | h⟩
    · exact contextSwitch_stays hh hr hb ho (.inl h)
    · exact contextSwitch_stays hh hr hb ho (.inr h)
  · rw [execContextSwitch_at hh hr, State.settledSel_of_unblocked hsel, hb]
  · refine Bool.eq_true_of_not_eq_false fun hf => ?_
    have listed : i ∈ s.readySlots q := State.mem_readySlots.mpr ⟨hi, hst, hf⟩
    rw [State.bestReady_none hb] at listed
    cases listed

end Sys2Proof.Machine
end

section
/-! PROOF. O34: the rows of the timetable while foreign rows yield. The clause that they stay is false of a table of banks in which a
bank stands twice. -/

namespace Sys2Proof.Machine

/-- A bank's table with two entries for bank 0: the first, which is the one that is read, holds a row of the timetable open in half 0,
the second a foreign row. -/
def twiceListedBanks : Table Bank :=
  [(0, { Bank.init with open0 := some ⟨0, true⟩ }), (0, { Bank.init with open0 := some ⟨0, false⟩ })]

/-- Slot 0 of quadrant 0 is READY at a word whose only slot is a PREA of every bank. -/
def preaQuad : Quad := { Quad.init with tt := [(0x443, 0x80), (0x44B, 0xC0)], slots := [(0, { Slot.init with st := .ready })] }

/-- A state with these banks and this quadrant, and nothing in the way of a beat. -/
def twiceListed : State := { State.reset with banks := twiceListedBanks, quads := [(0, preaQuad)] }

theorem twiceListed_starts : twiceListed.holding 0 = false ∧ (twiceListed.quad 0).recessLeft = 0 ∧
    twiceListed.lateUnits 0 ((twiceListed.quad 0).beat + 1) [] = [] := by decide

theorem twiceListed_imminent : twiceListed.imminent 0 0 = true := by decide

/-- The foreign row that is listed yields, and with it goes the row that is read. -/
theorem twiceListed_yields : ((twiceListed.yieldRows 0).bank 0).half 0 = none := by
  have foreign : twiceListed.yieldRows 0 = ([((0, 0) : Nat × Nat)].filter (fun p => twiceListed.imminent p.1 p.2)).foldl
    (fun (s : State) p => s.closeRow p.1 p.2) twiceListed := rfl
  have yields : [((0, 0) : Nat × Nat)].filter (fun p => twiceListed.imminent p.1 p.2) = [(0, 0)] :=
    List.filter_cons_of_pos (p := fun p : Nat × Nat => twiceListed.imminent p.1 p.2) twiceListed_imminent
  rw [foreign, yields]
  decide

/-- Refutes O34: the statement speaks of every state, also of one whose table of banks lists a bank twice, which no write of a table makes. There
the rows that yield are looked up entry by entry (R339), and a foreign row of the second entry takes the timetable's row of the first
with it, so that this row does not stay while the beat is taken. -/
theorem not_wordsIssueAndRecessesRefresh : ¬ Obligations.WordsIssueAndRecessesRefresh := by
  rintro ⟨-, issue, -⟩
  obtain ⟨-, -, -, beat⟩ := issue 0 [] twiceListed
  obtain ⟨holding, recess, late⟩ := twiceListed_starts
  obtain ⟨rows, -⟩ := beat holding recess late
  have kept := rows 0 0 ⟨⟨0, true⟩, by decide, rfl⟩
  have closed := kept.symm.trans twiceListed_yields
  exact absurd closed (by decide)

end Sys2Proof.Machine
end

section
/-! PROOF. O29: the ADDR and CTRL operations that write one register of a slot (R125 to R129, R148). -/

namespace Sys2Proof.Machine

/-! ## One slot changes -/

theorem State.slotBecomes_refl (s : State) (q sl : Nat) : s.slotBecomes s q sl (s.slot q sl) :=
  ⟨rfl, fun _ _ => rfl, rfl, fun _ _ => rfl, rfl⟩

theorem State.slot_modSlot_ne (s : State) (q : Nat) {i j : Nat} (f : Slot → Slot) (h : j ≠ i) :
    (s.modSlot q i f).slot q j = s.slot q j := by
  unfold State.slot State.modSlot
  rw [State.quad_modQuad_same]
  exact Quad.slot_setSlot_ne _ _ h

theorem State.modSlot_becomes (s : State) (q sl : Nat) (f : Slot → Slot) :
    s.slotBecomes (s.modSlot q sl f) q sl (f (s.slot q sl)) := by
  refine ⟨s.slot_modSlot_same q sl f, fun i hi => s.slot_modSlot_ne q f hi, ?_, fun p hp => s.quad_modQuad_ne _ hp, rfl⟩
  unfold State.modSlot
  rw [State.quad_modQuad_same]
  rfl

/-! ## Registers of a slot -/

/-- The generators after one of them has stepped; an unset one stays unset (R148). -/
theorem Slot.tget_stepGen (x : Slot) (g n i : Nat) : tget Gen.unset (x.stepGen g n).gens i =
    let z := tget Gen.unset x.gens i
    if i = g ∧ z.set = true then { z with pos := z.pos + n } else z := by
  have read : tget Gen.unset (x.stepGen g n).gens i = if i = g
      then (if (tget Gen.unset x.gens g).set then { tget Gen.unset x.gens g with pos := (tget Gen.unset x.gens g).pos + n }
        else tget Gen.unset x.gens g)
      else tget Gen.unset x.gens i := tget_tset _ _ _ _ _
  dsimp only
  rw [read]
  by_cases hi : i = g
  · subst hi
    simp
  · simp [hi]

/-- The mask registers after a change of one that is not register 0. -/
theorem Slot.maskReg_tmod (x : Slot) (f : BitVec 53 → BitVec 53) {g : Nat} (hg : g ≠ 0) (r : Nat) :
    ({ x with masks := tmod (BitVec.allOnes 53) x.masks g f } : Slot).maskReg r =
      if r = g ∧ r ≠ 0 then f (x.maskReg r) else x.maskReg r := by
  unfold Slot.maskReg
  by_cases hr : r = 0
  · simp [hr]
  · by_cases h : r = g
    · subst h
      simp [hr, tmod]
    · simp [hr, h, tmod, tget_tset]

section
variable (q sl : Fin 4) (w : Word32) (s : State)

theorem execAgskip_steps : ∃ t, exec (.agskip q sl w) s = .next t ∧
    s.slotBecomes t q sl { s.slot q sl with gens := (t.slot q sl).gens } ∧
    ∀ g, tget Gen.unset (t.slot q sl).gens g =
      let z := tget Gen.unset (s.slot q sl).gens g
      if g = Addr.ag w ∧ z.set = true then { z with pos := z.pos + Addr.count w } else z := by
  have own := s.slot_modSlot_same q sl (fun x => x.stepGen (Addr.ag w) (Addr.count w))
  have becomes := s.modSlot_becomes q sl (fun x => x.stepGen (Addr.ag w) (Addr.count w))
  refine ⟨_, rfl, ?_, fun g => ?_⟩
  · rw [own]
    exact becomes
  · rw [own]
    exact Slot.tget_stepGen _ _ _ _

theorem execMsk_sets : ∃ t, exec (.msk q sl w) s = .next t ∧
    s.slotBecomes t q sl { s.slot q sl with masks := (t.slot q sl).masks } ∧
    ∀ r, (t.slot q sl).maskReg r = if r = Ctrl.reg w ∧ r ≠ 0
      then mskPart ((s.slot q sl).maskReg r) (Ctrl.part w) (Ctrl.value w) else (s.slot q sl).maskReg r := by
  refine ⟨_, rfl, ?_⟩
  split
  next h0 => exact ⟨s.slotBecomes_refl q sl, fun r => (if_neg fun h => h.2 (h.1.trans h0)).symm⟩
  next h0 =>
    have own := s.slot_modSlot_same q sl (fun x =>
      { x with masks := tmod (BitVec.allOnes 53) x.masks (Ctrl.reg w) (fun m => mskPart m (Ctrl.part w) (Ctrl.value w)) })
    rw [own]
    exact ⟨s.modSlot_becomes q sl _, fun r => Slot.maskReg_tmod _ _ h0 r⟩

theorem execEndl_steps : ∃ t, exec (.endl q sl w) s = .next t ∧
    s.slotBecomes t q sl (if tget 0 (s.slot q sl).loops (Ctrl.cnt w) = 0 then s.slot q sl else { s.slot q sl with
      loops := tset 0 (s.slot q sl).loops (Ctrl.cnt w) (tget 0 (s.slot q sl).loops (Ctrl.cnt w) - 1)
      pc := (match (s.quad q).word with
        | some i => i.pc
        | none => (s.slot q sl).pc) - 4 * Ctrl.back w }) := by
  refine ⟨_, rfl, ?_⟩
  dsimp only
  split
  · exact s.slotBecomes_refl q sl
  · exact s.modSlot_becomes q sl _

end

/-- Settles O29: each command changes its slot alone, and in it one register. -/
theorem addressAndLoopCommandsSetTheirRegister : Obligations.AddressAndLoopCommandsSetTheirRegister := by
  intro q sl w s y becomes
  exact ⟨⟨_, rfl, s.modSlot_becomes q sl _⟩, ⟨_, rfl, s.modSlot_becomes q sl _⟩, execAgskip_steps q sl w s,
    ⟨_, rfl, s.modSlot_becomes q sl _⟩, execMsk_sets q sl w s, ⟨_, rfl, s.modSlot_becomes q sl _⟩, execEndl_steps q sl w s⟩

end Sys2Proof.Machine
end

section
/-! PROOF. O30: WAIT, BELL, FENCE and KADD (R99, R123, R145, R166, R298 to R313, R327). What a wait finds is said once, by the kind of
its binding; the word then passes or blocks. -/

namespace Sys2Proof.Machine

/-! ## Quiet beats see only the quadrants and the banks -/

theorem State.quiet_congr {s t : State} (hq : t.quads = s.quads) (hb : t.banks = s.banks) (q sl : Nat) : t.quiet q sl = s.quiet q sl := by
  unfold State.quiet State.quad
  rw [hq, hb]

@[simp] theorem State.sendTo_quiet (s : State) (dst : Nat) (b : FrameBody) (q sl : Nat) : (s.sendTo dst b).quiet q sl = s.quiet q sl :=
  State.quiet_congr (s.sendTo_quads dst b) (congrArg (fun x : Still => x.rest.banks) (s.sendTo_still dst b)) q sl

theorem State.block_eq (s : State) (q sl : Nat) (b : Blocked) :
    s.block q sl b = s.modSlot q sl (fun x => x.blockedOn (s.quiet q sl) b) := rfl

/-! ## What a wait finds (R298, R300, R304, R327, R553) -/

section
variable {s : State} {c ident v : Nat}

/-- Off the ring's joining and with a value received, a wait tests what its identifier shows. -/
theorem State.testWait_view (heard : ¬ ((s.binding c ident).kind = 2 ∧ s.outOfRing = false ∧ (s.binding c ident).dead = false ∧
      (s.remote (s.binding c ident).module.toNat (s.binding c ident).phys.toNat).subscribed = false))
    (joined : ¬ ((s.binding c ident).kind = 2 ∧ s.ring.state = 1)) : s.testWait c ident v = (s.penView c ident).test v := by
  unfold State.testWait
  exact (if_neg heard).trans (if_neg joined)

theorem State.testWait_unbound (h1 : (s.binding c ident).kind ≠ 1) (h2 : (s.binding c ident).kind ≠ 2) : s.testWait c ident v = some true := by
  have view : s.penView c ident = .unbound := by
    unfold State.penView
    exact (if_neg h1).trans (if_neg h2)
  rw [State.testWait_view (fun h => h2 h.1) (fun h => h2 h.1), view]
  rfl

/-- A pennant of this module. -/
theorem State.testWait_own (h1 : (s.binding c ident).kind = 1) : s.testWait c ident v =
    if (s.pen (s.binding c ident).phys.toNat).st = 1
    then (if v ≤ (s.pen (s.binding c ident).phys.toNat).value.toNat then some false else none) else some true := by
  have h2 : (s.binding c ident).kind ≠ 2 := by
    rw [h1]
    decide
  have view : s.penView c ident = if (s.pen (s.binding c ident).phys.toNat).st = 1
      then .live (s.pen (s.binding c ident).phys.toNat).value.toNat else .halfMast := by
    unfold State.penView
    exact if_pos h1
  rw [State.testWait_view (fun h => h2 h.1) (fun h => h2 h.1), view]
  split <;> rfl

theorem State.state_of_inRing (h : s.inRing = true) : s.outOfRing = false ∧ s.ring.state ≠ 1 := by
  have member := of_decide_eq_true h
  unfold State.outOfRing
  rcases member with h | h <;> rw [h] <;> decide

/-- A binding cut off from its ring. -/
theorem State.testWait_cut (h2 : (s.binding c ident).kind = 2) (cut : s.outOfRing = true ∨ s.inRing = true ∧ (s.binding c ident).dead = true) :
    s.testWait c ident v = some true := by
  have view : s.penView c ident = .halfMast := by
    unfold State.penView
    dsimp only
    rw [if_neg (by rw [h2]; decide), if_pos h2]
    exact if_pos (cut.imp_right And.right)
  have joined : s.ring.state ≠ 1 := by
    rcases cut with out | ⟨member, -⟩
    · rcases of_decide_eq_true out with h | h <;> rw [h] <;> decide
    · exact (State.state_of_inRing member).2
  rw [State.testWait_view ?_ (fun h => joined h.2), view]
  · rfl
  · rintro ⟨-, out, dead, -⟩
    simp [out, dead] at cut

/-- A pennant of another module, in the ring. -/
theorem State.testWait_remote (h2 : (s.binding c ident).kind = 2) (ring : s.inRing = true) (dead : (s.binding c ident).dead = false)
    (sub : (s.remote (s.binding c ident).module.toNat (s.binding c ident).phys.toNat).subscribed = true) :
    s.testWait c ident v =
      let r := s.remote (s.binding c ident).module.toNat (s.binding c ident).phys.toNat
      if r.st = 2 then some true else if v ≤ r.value.toNat then some false else none := by
  obtain ⟨out, joined⟩ := State.state_of_inRing ring
  have view : s.penView c ident =
      let r := s.remote (s.binding c ident).module.toNat (s.binding c ident).phys.toNat
      if r.st = 2 then .halfMast else .live r.value.toNat := by
    unfold State.penView
    dsimp only
    rw [if_neg (by rw [h2]; decide), if_pos h2, if_neg (by simp [out, dead]), if_pos sub]
  rw [State.testWait_view (by simp [sub]) (fun h => joined h.2), view]
  dsimp only
  split <;> rfl

/-- A pennant of another module of which no value has come. -/
theorem State.testWait_unheard (h2 : (s.binding c ident).kind = 2) (ring : s.inRing = true) (dead : (s.binding c ident).dead = false)
    (sub : (s.remote (s.binding c ident).module.toNat (s.binding c ident).phys.toNat).subscribed = false) :
    s.testWait c ident v = none := by
  unfold State.testWait
  exact if_pos ⟨h2, (State.state_of_inRing ring).1, dead, sub⟩

/-- While JOINING every wait on another module's pennant blocks. -/
theorem State.testWait_joining (h2 : (s.binding c ident).kind = 2) (joining : s.ring.state = 1) : s.testWait c ident v = none := by
  simp [State.testWait, h2, joining]

theorem State.subscribe_none (h : ¬ ((s.binding c ident).kind = 2 ∧ (s.binding c ident).dead = false ∧
    (s.remote (s.binding c ident).module.toNat (s.binding c ident).phys.toNat).subscribed = false ∧ s.inRing = true)) :
    s.subscribe c ident = s := by
  unfold State.subscribe
  exact if_neg h

end

/-! ## Presenting the words (R145) -/

/-- A word that has been presented is left as it is. -/
theorem Slot.presented_iff {x : Slot} : (x.passed.isSome = true ∨ x.blocked.isSome = true) ↔ (x.passed ≠ none ∨ x.blocked ≠ none) := by
  simp [Option.isSome_iff_ne_none]

section
variable {q sl : Fin 4} {w : Word32} {s : State}

theorem presented_stays (h : (s.slot q sl).passed ≠ none ∨ (s.slot q sl).blocked ≠ none) :
    exec (.wait q sl w) s = .next s ∧ exec (.bell q sl w) s = .next s ∧ exec (.fence q sl w) s = .next s :=
  have hp := Slot.presented_iff.mpr h
  ⟨congrArg Host.Outcome.next (if_pos hp), congrArg Host.Outcome.next (if_pos hp), congrArg Host.Outcome.next (if_pos hp)⟩

variable (hp : (s.slot q sl).passed = none) (hb : (s.slot q sl).blocked = none)
include hp hb

theorem execWait_presents : exec (.wait q sl w) s = .next (s.presentWait q sl w) :=
  congrArg Host.Outcome.next (if_neg (by simp [hp, hb]))

theorem execBell_presents : exec (.bell q sl w) s = .next (s.presentBell q sl w) :=
  congrArg Host.Outcome.next (if_neg (by simp [hp, hb]))

theorem execFence_presents : exec (.fence q sl w) s = .next (s.presentFence q sl) :=
  congrArg Host.Outcome.next (if_neg (by simp [hp, hb]))

variable {c : Nat} (hc : (s.slot q sl).ctx = some c)
include hc

theorem execWait_passes {p : Bool}
    (ht : s.testWait c (Sync.pen w) ((tget 0 (s.slot q sl).k (Sync.waitK w)).toNat + Sync.ofs w) = some p) :
    exec (.wait q sl w) s = .next (s.modSlot q sl (fun x => { x with passed := some p })) := by
  have present : s.presentWait q sl w = s.pass q sl p := by
    unfold State.presentWait
    rw [hc]
    dsimp only
    rw [ht]
  rw [execWait_presents hp hb, present]
  rfl

/-- A wait whose test has no answer subscribes and blocks. -/
theorem execWait_blocks
    (ht : s.testWait c (Sync.pen w) ((tget 0 (s.slot q sl).k (Sync.waitK w)).toNat + Sync.ofs w) = none) :
    exec (.wait q sl w) s = .next ((s.subscribe c (Sync.pen w)).block q sl
      (.pennant (Sync.pen w) ((tget 0 (s.slot q sl).k (Sync.waitK w)).toNat + Sync.ofs w))) := by
  have present : s.presentWait q sl w = (s.subscribe c (Sync.pen w)).block q sl
      (.pennant (Sync.pen w) ((tget 0 (s.slot q sl).k (Sync.waitK w)).toNat + Sync.ofs w)) := by
    unfold State.presentWait
    rw [hc]
    dsimp only
    rw [ht]
  rw [execWait_presents hp hb, present]

/-- A wait that blocks without a subscription of its own. -/
theorem execWait_blocks_here
    (ht : s.testWait c (Sync.pen w) ((tget 0 (s.slot q sl).k (Sync.waitK w)).toNat + Sync.ofs w) = none)
    (hn : s.subscribe c (Sync.pen w) = s) :
    exec (.wait q sl w) s = .next (s.modSlot q sl (fun x => x.blockedOn (s.quiet q sl)
      (.pennant (Sync.pen w) ((tget 0 (s.slot q sl).k (Sync.waitK w)).toNat + Sync.ofs w)))) := by
  rw [execWait_blocks hp hb hc ht, hn]
  rfl

/-- FENCE (R308). -/
theorem execFence_at : if s.writesDone q c (s.quad q).seq
    then exec (.fence q sl w) s = .next (s.modSlot q sl (fun x => { x with passed := some false }))
    else exec (.fence q sl w) s = .next (s.modSlot q sl (fun x => x.blockedOn (s.quiet q sl) .fence)) := by
  have present : s.presentFence q sl = if s.writesDone q c (s.quad q).seq then s.pass q sl false else s.block q sl .fence := by
    unfold State.presentFence
    rw [hc]
  split
  next done => rw [execFence_presents hp hb, present, if_pos done]; rfl
  next wait => rw [execFence_presents hp hb, present, if_neg wait]; rfl

omit hc

/-- BELL (R313). -/
theorem execBell_at : let left := Sync.count w - (if s.ring.bells ≠ 0 ∧ s.ring.timebase = s.ring.lastBell then 1 else 0)
    if left = 0 then exec (.bell q sl w) s = .next (s.modSlot q sl (fun x => { x with passed := some false }))
    else exec (.bell q sl w) s = .next (s.modSlot q sl (fun x => x.blockedOn (s.quiet q sl) (.bells left))) := by
  have present : s.presentBell q sl w = let left := Sync.count w - (if s.ring.bells ≠ 0 ∧ s.ring.timebase = s.ring.lastBell then 1 else 0)
      if left = 0 then s.pass q sl false else s.block q sl (.bells left) := by
    unfold State.presentBell State.onBell
    simp only [decide_eq_true_eq]
  dsimp only at present ⊢
  rw [execBell_presents hp hb, present]
  generalize Sync.count w - _ = left
  split
  next => rfl
  next => rfl

end

/-- KADD writes the sum, or a free value beyond 64 bits (R99; log 11). -/
theorem execKadd_adds (q sl : Fin 4) (w : Word32) (s : State) :
    let n := (tget 0 (s.slot q sl).k (Sync.k w)).toNat + Sync.addend w
    ∃ x t, exec (.kadd q sl w) s = .next t ∧ (n < 2 ^ 64 → x = BitVec.ofNat 64 n ∧ t.free = s.free) ∧
      t = { s.modSlot q sl (fun y => { y with k := tset 0 y.k (Sync.k w) x }) with free := t.free } := by
  intro n
  by_cases small : n < 2 ^ 64
  · exact ⟨BitVec.ofNat 64 n, _, congrArg Host.Outcome.next (if_pos small), fun _ => ⟨rfl, rfl⟩, rfl⟩
  · exact ⟨(s.draw 64).1, _, congrArg Host.Outcome.next (if_neg small), fun h => absurd h small, rfl⟩

/-- Settles O30: by the kind of the binding and what is known of its pennant. -/
theorem waitsPassOrBlock : Obligations.WaitsPassOrBlock := by
  intro q sl w s b v passes blocks
  refine ⟨presented_stays, fun c hc hp hb => ?_, execKadd_adds q sl w s⟩
  have pass := fun (p : Bool) => execWait_passes (p := p) hp hb (w := w) hc
  have block := execWait_blocks_here hp hb (w := w) hc
  refine ⟨fun h1 h2 => pass _ (State.testWait_unbound h1 h2), fun h1 half => pass _ ?_, fun h1 live reached => pass _ ?_,
    fun h1 live short => block ?_ ?_, fun h2 out => pass _ (State.testWait_cut h2 (.inl out)),
    fun h2 ring dead => pass _ (State.testWait_cut h2 (.inr ⟨ring, dead⟩)), fun h2 ring dead sub => ?_, fun h2 ring dead sub => ?_,
    fun h2 joining => block (State.testWait_joining h2 joining) ?_, execBell_at hp hb, execFence_at hp hb hc⟩
  · exact (State.testWait_own h1).trans (if_neg half)
  · exact (State.testWait_own h1).trans ((if_pos live).trans (if_pos reached))
  · exact (State.testWait_own h1).trans ((if_pos live).trans (if_neg (Nat.not_le.mpr short)))
  · exact State.subscribe_none fun h => absurd (h1.symm.trans h.1) (by decide)
  · have test := State.testWait_remote (v := v) h2 ring dead sub
    dsimp only at test
    split
    next half => exact pass _ (test.trans (if_pos half))
    next whole =>
      rw [if_neg whole] at test
      split
      next reached => exact pass _ (test.trans (if_pos reached))
      next short =>
        exact block (test.trans (if_neg short)) (State.subscribe_none fun h => absurd (sub.symm.trans h.2.2.1) (by decide))
  · rw [execWait_blocks hp hb hc (State.testWait_unheard h2 ring dead sub), State.block_eq]
    have sends : s.subscribe c (Sync.pen w) = s.sendTo (b c).module.toNat (.penSub (b c).phys true) := by
      unfold State.subscribe
      exact if_pos ⟨h2, dead, sub, ring⟩
    rw [sends, State.sendTo_quiet]
  · exact State.subscribe_none fun h => (State.state_of_inRing h.2.2.2).2 joining

end Sys2Proof.Machine
end

section
/-! PROOF. O33: LAUNCH (R127, R238, R265). A launch queues its share; the shares that start then take entries of the scoreboard and a
number, which nothing else of a share or of the state depends on. -/

namespace Sys2Proof.Machine

/-! ## The queues of shares -/

/-- A share without its phase and its number among the granted ones, which the starting of shares sets (R231, R237). -/
def Share.queued (h : Share) : Share := { h with phase := 0, granted := 0 }

theorem Quad.shares_setShares (x : Quad) (engine : Nat) (hs : List Share) : (x.setShares engine hs).shares engine = hs := by
  unfold Quad.shares Quad.setShares
  split <;> rfl

/-- The queue of the other engine. -/
theorem Quad.shares_setShares_other (x : Quad) (engine : Nat) (hs : List Share) :
    (x.setShares engine hs).shares (1 - engine) = x.shares (1 - engine) := by
  unfold Quad.shares Quad.setShares
  by_cases h : engine = 0
  · subst h
    rfl
  · rw [if_neg h]
    by_cases h1 : 1 - engine = 0
    · rw [if_pos h1, if_pos h1]
    · omega

theorem Quad.slots_setShares (x : Quad) (engine : Nat) (hs : List Share) : (x.setShares engine hs).slots = x.slots := by
  unfold Quad.setShares
  split <;> rfl

/-! ## Shares that start -/

/-- What the starting of an engine's shares in quadrant q leaves as it is: the queues up to what it sets in the engine's own, the slots,
and all but quadrants and the count of arrivals. -/
structure State.Starts (engine q : Nat) (s t : State) : Prop where
  frame : t = { s with quads := t.quads, sync := { s.sync with arrivals := t.sync.arrivals } }
  slots : ∀ p, (t.quad p).slots = (s.quad p).slots
  own : ((t.quad q).shares engine).map Share.queued = ((s.quad q).shares engine).map Share.queued
  other : (t.quad q).shares (1 - engine) = (s.quad q).shares (1 - engine)

namespace State.Starts

variable {engine q : Nat} {s t v : State}

theorem refl (s : State) : State.Starts engine q s s := ⟨rfl, fun _ => rfl, rfl, rfl⟩

theorem trans (h : State.Starts engine q s t) (h' : State.Starts engine q t v) : State.Starts engine q s v where
  frame := by
    rw [h'.frame, h.frame]
  slots p := (h'.slots p).trans (h.slots p)
  own := h'.own.trans h.own
  other := h'.other.trans h.other

theorem arrivals (s : State) (n : Nat) : State.Starts engine q s { s with sync := { s.sync with arrivals := n } } :=
  ⟨rfl, fun _ => rfl, rfl, rfl⟩

/-- A change of one quadrant that leaves its slots and its queues of shares alone. -/
theorem setQuad (s : State) (p : Nat) {x : Quad} (hs : x.slots = (s.quad p).slots)
    (hx : ∀ e, x.shares e = (s.quad p).shares e) : State.Starts engine q s (s.setQuad p x) := by
  have quad : ∀ p', ((s.setQuad p x).quad p').slots = (s.quad p').slots ∧
      ∀ e, ((s.setQuad p x).quad p').shares e = (s.quad p').shares e := fun p' => by
    by_cases h : p' = p
    · subst h
      rw [State.quad_setQuad_same]
      exact ⟨hs, hx⟩
    · rw [State.quad_setQuad_ne _ _ h]
      exact ⟨rfl, fun _ => rfl⟩
  exact ⟨rfl, fun p' => (quad p').1, congrArg (List.map Share.queued) ((quad q).2 engine), (quad q).2 _⟩

theorem modShare (s : State) (id : Nat) {f : Share → Share} (hf : ∀ h, (f h).queued = h.queued) :
    State.Starts engine q s (s.modShare engine q id f) := by
  refine ⟨rfl, fun p => ?_, ?_, ?_⟩
  · by_cases h : p = q
    · subst h
      exact (congrArg Quad.slots (State.quad_modQuad_same s p _)).trans (Quad.slots_setShares _ _ _)
    · exact congrArg Quad.slots (State.quad_modQuad_ne s _ h)
  · unfold State.modShare
    rw [State.quad_modQuad_same, Quad.shares_setShares, List.map_map]
    refine List.map_congr_left fun h _ => ?_
    dsimp only [Function.comp]
    split
    · exact hf h
    · rfl
  · unfold State.modShare
    rw [State.quad_modQuad_same, Quad.shares_setShares_other]

theorem phase (s : State) (id n : Nat) : State.Starts engine q s (s.modShare engine q id (fun h => { h with phase := n })) :=
  modShare s id fun _ => rfl

theorem noteGranted (s : State) (id : Nat) (write : Bool) : State.Starts engine q s (s.noteGranted engine q id write) := by
  unfold State.noteGranted
  split
  · refine (arrivals s (s.sync.arrivals + 1)).trans (modShare _ id fun h => ?_)
    split <;> rfl
  · exact refl s

theorem ask (s : State) (p : Nat) (r : SbRequest) : State.Starts engine q s (s.ask p r).1 := by
  unfold State.ask
  dsimp only
  split
  · exact (arrivals s _).trans (setQuad _ p rfl fun _ => rfl)
  · exact (arrivals s _).trans (setQuad _ p rfl fun _ => rfl)

theorem advance (ns : List (Nat × Nat × Bool)) (s : State) (id slot key : Nat) :
    State.Starts engine q s (s.advance engine q id slot key ns) := by
  induction ns generalizing s with
  | nil => exact phase s id _
  | cons n ns ih =>
    unfold State.advance
    dsimp only
    split
    · exact (noteGranted s id _).trans (ih _)
    · split
      · exact refl s
      · split
        · exact (ask s _ _).trans ((noteGranted _ id _).trans (ih _))
        · exact ask s _ _

theorem startShares (n : Nat) (s : State) : State.Starts engine q s (s.startShares engine q n) := by
  induction n generalizing s with
  | zero => exact refl s
  | succ n ih =>
    unfold State.startShares
    dsimp only
    split
    · exact refl s
    · split
      · exact refl s
      · split
        · exact (phase s _ _).trans (ih _)
        · exact (phase s _ _).trans ((advance _ _ _ _ _).trans (ih _))

end State.Starts

/-! ## LAUNCH -/

section
variable (s : State) (engine q sl : Nat) (w : Word32) (c : Nat)

/-- The launch record that a word names, in the active half. -/
def State.launchRecord : BitVec 512 :=
  BitVec.ofNat 512 (leNat (readBytes (s.quad q).tt (s.activeBase q sl + 64 * Ctrl.record w) 64))

/-- The share of a launch as it enters the queue. -/
def State.launchShare : Share :=
  { id := (s.quad q).shareIds, slot := sl, ctx := c, record := s.launchRecord q sl w
    binding := s.binding c (fld (s.launchRecord q sl w) 467 458)
    nth := if engine = 0 then (s.slot q sl).launches0 else (s.slot q sl).launches1, phase := 0, granted := 0, remote := 0
    k7 := s.paramAt q sl 7
    firstIssue := tget 0 (s.ctx c).streams (4 * 512 + q * 512 + fld (s.launchRecord q sl w) 441 433), taken := [], combined := 0
    wrote := 0, result := none, ringing := false }

/-- The slot with one more launch counted. -/
def Slot.launched (y : Slot) (engine : Nat) : Slot :=
  if engine = 0 then { y with launches0 := y.launches0 + 1 } else { y with launches1 := y.launches1 + 1 }

/-- The state with the share at the end of its queue, before shares start; a merge of a stream takes its issues (R265). -/
def State.launchQueued : State :=
  let streamed := engine = 1 ∧ (s.launchRecord q sl w).getLsbD 506 = true
  let key := 4 * 512 + q * 512 + fld (s.launchRecord q sl w) 441 433
  let s' := if streamed then
      s.modCtx c (fun z => { z with
        streams := tset 0 z.streams key (tget 0 (s.ctx c).streams key + fld (s.launchRecord q sl w) 369 346) })
    else s
  (s'.modQuad q (fun x => { x.setShares engine (x.shares engine ++ [s.launchShare engine q sl w c]) with shareIds := x.shareIds + 1 })).modSlot
    q sl (fun y => y.launched engine)

variable {s engine q sl c}

theorem State.launch_noCtx (h : (s.slot q sl).ctx = none) : s.launch engine q sl w = s := by
  unfold State.launch
  rw [h]

/-- With the slot's 16 places taken nothing happens (R238). -/
theorem State.launch_full (h : 16 ≤ (((s.quad q).shares engine).filter (fun h => decide (h.slot = sl))).length) :
    s.launch engine q sl w = s := by
  unfold State.launch
  split
  · rfl
  · exact if_pos h

theorem State.launch_at (hc : (s.slot q sl).ctx = some c)
    (h : ¬ 16 ≤ (((s.quad q).shares engine).filter (fun h => decide (h.slot = sl))).length) :
    s.launch engine q sl w = (s.launchQueued engine q sl w c).startShares engine q 64 := by
  unfold State.launch
  rw [hc]
  exact if_neg h

/-- What the share joins, and what stays. -/
theorem State.launchQueued_queues :
    let t := s.launchQueued engine q sl w c
    (t.quad q).shares engine = (s.quad q).shares engine ++ [s.launchShare engine q sl w c] ∧
    (t.quad q).shares (1 - engine) = (s.quad q).shares (1 - engine) ∧ t.slot q sl = (s.slot q sl).launched engine ∧
    (∀ k, t.ctx k = { s.ctx k with streams := (t.ctx k).streams }) ∧ (engine = 0 → t.ctxs = s.ctxs) ∧
    t = { s with quads := t.quads, ctxs := t.ctxs } := by
  intro t
  obtain ⟨u, hu, quads, ctx, ctxs, rest⟩ : ∃ u : State, t = (u.modQuad q (fun x =>
        { x.setShares engine (x.shares engine ++ [s.launchShare engine q sl w c]) with shareIds := x.shareIds + 1 })).modSlot
          q sl (fun y => y.launched engine) ∧ u.quads = s.quads ∧
      (∀ k, u.ctx k = { s.ctx k with streams := (u.ctx k).streams }) ∧ (engine = 0 → u.ctxs = s.ctxs) ∧
      u = { s with ctxs := u.ctxs } := by
    refine ⟨_, rfl, ?_⟩
    split
    next h =>
      refine ⟨rfl, fun k => ?_, fun h0 => absurd (h0.symm.trans h.1) (by decide), rfl⟩
      by_cases hk : k = c
      · subst hk
        rw [State.ctx_modCtx_same]
      · rw [State.ctx_modCtx_ne _ _ hk]
    next => exact ⟨rfl, fun _ => rfl, fun _ => rfl, rfl⟩
  have quad : u.quad q = s.quad q := congrArg (tget Quad.init · q) quads
  rw [hu]
  refine ⟨?_, ?_, ?_, ctx, ctxs, ?_⟩
  · refine (congrArg (Quad.shares · engine) (State.quad_modQuad_same _ q _)).trans ?_
    rw [State.quad_modQuad_same, quad]
    exact Quad.shares_setShares _ _ _
  · refine (congrArg (Quad.shares · (1 - engine)) (State.quad_modQuad_same _ q _)).trans ?_
    rw [State.quad_modQuad_same, quad]
    exact Quad.shares_setShares_other _ _ _
  · rw [State.slot_modSlot_same]
    unfold State.slot
    rw [State.quad_modQuad_same, quad]
    exact congrArg (fun l => (tget Slot.init l sl).launched engine) (Quad.slots_setShares _ _ _)
  · rw [rest]
    rfl

/-- A launch: its share is the last of its queue but for what the starting of shares sets; all else of the queues stays. -/
theorem State.launch_queues (hc : (s.slot q sl).ctx = some c)
    (h : ¬ 16 ≤ (((s.quad q).shares engine).filter (fun h => decide (h.slot = sl))).length) :
    let t := s.launch engine q sl w
    ((t.quad q).shares engine).map Share.queued = ((s.quad q).shares engine ++ [s.launchShare engine q sl w c]).map Share.queued ∧
    (t.quad q).shares (1 - engine) = (s.quad q).shares (1 - engine) ∧ t.slot q sl = (s.slot q sl).launched engine ∧
    (∀ k, t.ctx k = { s.ctx k with streams := (t.ctx k).streams }) ∧ (engine = 0 → t.ctxs = s.ctxs) ∧
    t = { s with quads := t.quads, ctxs := t.ctxs, sync := { s.sync with arrivals := t.sync.arrivals } } := by
  intro t
  obtain ⟨own, other, slot, ctx, ctxs, frame⟩ := State.launchQueued_queues (s := s) (engine := engine) (q := q) (sl := sl) (c := c) w
  have starts : State.Starts engine q (s.launchQueued engine q sl w c) t := by
    have := State.Starts.startShares (engine := engine) (q := q) 64 (s.launchQueued engine q sl w c)
    rwa [← State.launch_at w hc h] at this
  have same : t.ctxs = (s.launchQueued engine q sl w c).ctxs := by rw [starts.frame]
  have sameCtx : ∀ k, t.ctx k = (s.launchQueued engine q sl w c).ctx k := fun k => congrArg (tget Ctx.init · k) same
  generalize s.launchQueued engine q sl w c = u at *
  refine ⟨?_, starts.other.trans other, ?_, fun k => ?_, fun h0 => same.trans (ctxs h0), ?_⟩
  · rw [starts.own, own]
  · exact (congrArg (fun l => tget Slot.init l sl) (starts.slots q)).trans slot
  · rw [sameCtx]
    exact ctx k
  · conv_lhs => rw [starts.frame, frame]
    rw [same]

/-- The last share of a queue that is known but for phase and number. -/
theorem Share.queued_last {old new : List Share} {h : Share} (e : new.map Share.queued = (old ++ [h]).map Share.queued) :
    new.map (·.id) = old.map (·.id) ++ [h.id] ∧ ∃ g ∈ new, g.queued = h.queued := by
  constructor
  · have ids := congrArg (List.map Share.id) e
    simpa [Function.comp_def, Share.queued] using ids
  · have last : h.queued ∈ new.map Share.queued := by
      rw [e]
      simp
    exact List.mem_map.mp last

end

/-- A share that agrees with another but for phase and number has its fields. -/
theorem Share.fields_of_queued {g h : Share} (e : g.queued = h.queued) :
    g.id = h.id ∧ g.slot = h.slot ∧ g.ctx = h.ctx ∧ g.record = h.record ∧ g.binding = h.binding ∧ g.nth = h.nth ∧ g.k7 = h.k7 := by
  cases g
  cases h
  simp only [Share.queued, Share.mk.injEq] at e
  simp [e]

/-- Settles O33: one launch rule for both engines. -/
theorem launchQueuesAShare : Obligations.LaunchQueuesAShare := by
  intro q sl w s full
  refine ⟨fun h => ?_, fun h => ?_, fun c hc => ⟨fun h => ?_, fun h => ?_⟩⟩
  · exact congrArg Host.Outcome.next (h.elim (State.launch_noCtx w) (State.launch_full (engine := 0) w))
  · exact congrArg Host.Outcome.next (h.elim (State.launch_noCtx w) (State.launch_full (engine := 1) w))
  · obtain ⟨own, other, slot, -, ctxs, frame⟩ := State.launch_queues (engine := 0) w hc h
    obtain ⟨ids, g, hg, e⟩ := Share.queued_last own
    exact ⟨_, rfl, ⟨ids, g, hg, Share.fields_of_queued e⟩, other, slot, ctxs rfl, frame⟩
  · obtain ⟨own, other, slot, ctx, -, frame⟩ := State.launch_queues (engine := 1) w hc h
    obtain ⟨ids, g, hg, e⟩ := Share.queued_last own
    exact ⟨_, rfl, ⟨ids, g, hg, Share.fields_of_queued e⟩, other, slot, ctx, frame⟩

end Sys2Proof.Machine
end

section
/-! PROOF. What the opening of rows leaves as it is (R114, R339, R345 to R348). An activate may make a controller refresh or steal,
which holds the beat, marks lessons and closes at most rows that no timetable opened. -/

namespace Sys2Proof.Machine

/-! ## Rows of a bank -/

theorem OpenRow.kept_kept (r : Option OpenRow) : OpenRow.kept (OpenRow.kept r) = OpenRow.kept r := by
  unfold OpenRow.kept
  rw [Option.filter_filter]
  congr 1
  simp

theorem OpenRow.kept_eq_self {r : Option OpenRow} (h : OpenRow.kept r ≠ none) : OpenRow.kept r = r := by
  cases r with
  | none => rfl
  | some x =>
    unfold OpenRow.kept at h ⊢
    rw [Option.filter_some] at h ⊢
    split at h
    next hx => exact if_pos hx
    next => exact absurd rfl h

/-- The halves of a bank whose rows are written are those of the bank, but for the one that is written. -/
theorem Bank.half_setHalf (b : Bank) {h g : Nat} (hh : h < 2) (hg : g < 2) (r : Option OpenRow) :
    (b.setHalf h r).half g = if g = h then r else b.half g := by
  unfold Bank.half Bank.setHalf
  have hh : h = 0 ∨ h = 1 := by omega
  have hg : g = 0 ∨ g = 1 := by omega
  rcases hh with rfl | rfl <;> rcases hg with rfl | rfl <;> rfl

theorem Bank.half_doNeighbour (b : Bank) (h : Nat) : b.doNeighbour.half h = b.half h := by
  unfold Bank.doNeighbour
  split <;> rfl

theorem Bank.half_doRefresh (b : Bank) (h : Nat) : b.doRefresh.half h = b.half h := by
  unfold Bank.doRefresh
  split <;> rfl

theorem Bank.half_doOp (b : Bank) (h : Nat) : b.doOp.half h = b.half h := by
  unfold Bank.doOp
  split
  · exact b.half_doRefresh h
  · split
    · exact (b.doNeighbour.half_doRefresh h).trans (b.half_doNeighbour h)
    · exact b.half_doNeighbour h

/-- One operation of a bank keeps the timetable's rows (R339, R345). -/
theorem Bank.half_doOne (b : Bank) (h : Nat) : b.doOne.half h = b.half h ∨ b.doOne.half h = OpenRow.kept (b.half h) := by
  unfold Bank.doOne
  split
  · refine .inr ?_
    unfold Bank.half
    split <;> rfl
  · exact .inl rfl

/-! ## Operations around rows -/

/-- t is s after row commands of the timetable have opened row r in the banks us: another row is as it was, or, where rows may have been
closed, it was no row of the timetable and a refresh has closed it. -/
structure State.Opens (closed : Prop) (r : Nat) (us : List Nat) (s t : State) : Prop where
  frame : t = { s with stk := t.stk, banks := t.banks, quads := t.quads, ctxs := t.ctxs, free := t.free }
  quad : ∀ p, t.quad p = { s.quad p with
    holdLen := (t.quad p).holdLen, holdCode := (t.quad p).holdCode, refreshing := (t.quad p).refreshing }
  ctx : ∀ c, t.ctx c = { s.ctx c with lesson := (t.ctx c).lesson }
  stack : ∀ i, (t.stack i).writes = (s.stack i).writes ∧ (t.stack i).slateQ = (s.stack i).slateQ ∧ (t.stack i).failed = (s.stack i).failed
  opened : ∀ u ∈ us, (t.bank u).half (r % 2) = some ⟨BitVec.ofNat 16 r, true⟩
  others : ∀ u h, h < 2 → u ∉ us ∨ h ≠ r % 2 →
    (t.bank u).half h = (s.bank u).half h ∨ closed ∧ (t.bank u).half h = OpenRow.kept ((s.bank u).half h)

namespace State.Opens

variable {closed : Prop} {r : Nat} {us vs : List Nat} {s t v : State}

theorem refl (s : State) : State.Opens closed r [] s s :=
  ⟨rfl, fun _ => rfl, fun _ => rfl, fun _ => ⟨rfl, rfl, rfl⟩, fun _ h => absurd h List.not_mem_nil, fun _ _ _ _ => .inl rfl⟩

/-- A row that stays, after one that stays. -/
theorem kept_trans {a b c : Option OpenRow} (h : b = a ∨ closed ∧ b = OpenRow.kept a) (h' : c = b ∨ closed ∧ c = OpenRow.kept b) :
    c = a ∨ closed ∧ c = OpenRow.kept a := by
  rcases h' with rfl | ⟨hc, rfl⟩
  · exact h
  · rcases h with rfl | ⟨-, rfl⟩
    · exact .inr ⟨hc, rfl⟩
    · exact .inr ⟨hc, OpenRow.kept_kept a⟩

theorem trans (h : State.Opens closed r us s t) (h' : State.Opens closed r vs t v) : State.Opens closed r (us ++ vs) s v where
  frame := by
    rw [h'.frame, h.frame]
  quad p := by
    rw [h'.quad p, h.quad p]
  ctx c := by
    rw [h'.ctx c, h.ctx c]
  stack i :=
    have ⟨w, a, f⟩ := h.stack i
    have ⟨w', a', f'⟩ := h'.stack i
    ⟨w'.trans w, a'.trans a, f'.trans f⟩
  opened u hu := by
    by_cases late : u ∈ vs
    · exact h'.opened u late
    · have early := h.opened u ((List.mem_append.mp hu).resolve_right late)
      have row := h'.others u (r % 2) (Nat.mod_lt _ (by decide)) (.inl late)
      rw [early] at row
      exact row.elim id And.right
  others u i hi hu := by
    simp only [List.mem_append, not_or] at hu
    exact kept_trans (h.others u i hi (hu.imp_left And.left)) (h'.others u i hi (hu.imp_left And.right))

theorem next (h : State.Opens closed r [] s t) (h' : State.Opens closed r [] t v) : State.Opens closed r [] s v := h.trans h'

theorem foldl {α : Type} {f : State → α → State} {l : List α} (hf : ∀ x ∈ l, ∀ t, State.Opens closed r [] s t → State.Opens closed r [] t (f t x))
    (h : State.Opens closed r [] s t) : State.Opens closed r [] s (l.foldl f t) := by
  induction l generalizing t with
  | nil => exact h
  | cons x l ih =>
    exact ih (fun y hy => hf y (List.mem_cons_of_mem _ hy)) (h.trans (hf x List.mem_cons_self t h))

/-! ## The accessors -/

theorem modStack (s : State) (i : Nat) {f : Stack → Stack} (hf : ∀ x, (f x).writes = x.writes ∧ (f x).slateQ = x.slateQ ∧
    (f x).failed = x.failed) : State.Opens closed r [] s (s.modStack i f) := by
  refine ⟨rfl, fun _ => rfl, fun _ => rfl, fun j => ?_, fun _ h => absurd h List.not_mem_nil, fun _ _ _ _ => .inl rfl⟩
  by_cases hj : j = i
  · subst hj
    rw [State.stack_modStack_same]
    exact hf _
  · rw [State.stack_modStack_ne _ _ hj]
    exact ⟨rfl, rfl, rfl⟩

/-- Banks whose rows stay, or are closed if no timetable opened them. -/
theorem withBanks (s : State) {x : Table Bank} (h : ∀ u i, (tget Bank.init x u).half i = (s.bank u).half i ∨
    closed ∧ (tget Bank.init x u).half i = OpenRow.kept ((s.bank u).half i)) : State.Opens closed r [] s { s with banks := x } :=
  ⟨rfl, fun _ => rfl, fun _ => rfl, fun _ => ⟨rfl, rfl, rfl⟩, fun _ h => absurd h List.not_mem_nil, fun u i _ _ => h u i⟩

theorem modBank (s : State) (u : Nat) {f : Bank → Bank} (hf : ∀ i, (f (s.bank u)).half i = (s.bank u).half i ∨
    closed ∧ (f (s.bank u)).half i = OpenRow.kept ((s.bank u).half i)) : State.Opens closed r [] s (s.modBank u f) := by
  refine withBanks s fun v i => ?_
  rw [tget_tset]
  split
  next h => rw [h]; exact hf i
  next => exact .inl rfl

/-- The row opens in a bank. -/
theorem setHalf (s : State) (u r : Nat) :
    State.Opens closed r [u] s (s.modBank u (fun b => b.setHalf (r % 2) (some ⟨BitVec.ofNat 16 r, true⟩))) := by
  have half : r % 2 < 2 := Nat.mod_lt _ (by decide)
  refine ⟨rfl, fun _ => rfl, fun _ => rfl, fun _ => ⟨rfl, rfl, rfl⟩, fun v hv => ?_, fun v i hi hv => .inl ?_⟩
  · rw [List.mem_singleton.mp hv, State.bank_modBank_same, Bank.half_setHalf _ half half, if_pos rfl]
  · by_cases hu : v = u
    · subst hu
      rw [State.bank_modBank_same, Bank.half_setHalf _ half hi, if_neg (by simpa using hv)]
    · rw [State.bank_modBank_ne _ _ hu]

theorem modQuad (s : State) (q : Nat) {f : Quad → Quad} (hf : ∀ x, f x = { x with
    holdLen := (f x).holdLen, holdCode := (f x).holdCode, refreshing := (f x).refreshing }) : State.Opens closed r [] s (s.modQuad q f) := by
  refine ⟨rfl, fun p => ?_, fun _ => rfl, fun _ => ⟨rfl, rfl, rfl⟩, fun _ h => absurd h List.not_mem_nil, fun _ _ _ _ => .inl rfl⟩
  by_cases hp : p = q
  · subst hp
    rw [State.quad_modQuad_same]
    exact hf _
  · rw [State.quad_modQuad_ne _ _ hp]

theorem modLesson (s : State) (c : Nat) (f : Option Lesson → Option Lesson) :
    State.Opens closed r [] s (s.modCtx c (fun x => { x with lesson := f x.lesson })) := by
  refine ⟨rfl, fun _ => rfl, fun k => ?_, fun _ => ⟨rfl, rfl, rfl⟩, fun _ h => absurd h List.not_mem_nil, fun _ _ _ _ => .inl rfl⟩
  by_cases hk : k = c
  · subst hk
    rw [State.ctx_modCtx_same]
  · rw [State.ctx_modCtx_ne _ _ hk]

theorem withFree (s : State) (n : Nat) : State.Opens closed r [] s { s with free := n } :=
  ⟨rfl, fun _ => rfl, fun _ => rfl, fun _ => ⟨rfl, rfl, rfl⟩, fun _ h => absurd h List.not_mem_nil, fun _ _ _ _ => .inl rfl⟩

/-! ## Links and holds -/

theorem linkSend (s : State) (st : Nat) (kind : LinkKind) (banks : List Nat) (arg : Nat) :
    State.Opens closed r [] s (s.linkSend st kind banks arg) := by
  unfold State.linkSend
  dsimp only
  split
  · exact refl s
  · exact modStack s st fun _ => ⟨rfl, rfl, rfl⟩

theorem linkUnits (s : State) (q : Nat) (us : List Nat) (kind : LinkKind) (arg : Nat) :
    State.Opens closed r [] s (s.linkUnits q us kind arg) := by
  refine foldl (fun i _ t _ => ?_) (refl s)
  dsimp only
  split
  · exact refl t
  · exact linkSend t _ _ _ _

theorem hold (s : State) (q code n : Nat) : State.Opens closed r [] s (s.modQuad q (fun x => x.hold code n)) := by
  refine modQuad s q fun x => ?_
  unfold Quad.hold
  split <;> rfl

theorem accountHold (s : State) (q code unit bound : Nat) : State.Opens closed r [] s (s.accountHold q code unit bound) := by
  unfold State.accountHold
  split
  · exact (withFree s _).trans (hold _ q code _)
  · exact refl s

theorem accountOpen (s : State) (q code : Nat) : State.Opens closed r [] s (s.accountOpen q code) := by
  unfold State.accountOpen
  split
  · exact (withFree s _).trans (hold _ q code _)
  · exact refl s

/-! ## Steals and refreshes (R345, R346) -/

theorem markStolen (s : State) (q : Nat) : State.Opens closed r [] s (s.markStolen q) := by
  refine foldl (fun sl _ t _ => ?_) (refl s)
  split
  next c _ => exact modLesson t c (fun x => x.map (fun l => { l with stolen := true }))
  next => exact refl t

theorem stealOps (s : State) (st : Nat) : State.Opens closed r [] s (s.stealOps st) := by
  have operated : ∀ t : State, State.Opens closed r [] t { t with banks := tmap Bank.init t.banks (inStack st) Bank.doOp } := fun t => by
    refine withBanks t fun u i => .inl ?_
    rw [tget_tmap _ _ _ _ rfl]
    split
    · exact Bank.half_doOp _ i
    · rfl
  unfold State.stealOps State.applyBand
  dsimp only
  refine next ?_ (markStolen _ _)
  refine next ?_ (modStack _ st fun _ => ⟨rfl, rfl, rfl⟩)
  refine next ?_ (operated _)
  refine next ?_ (linkUnits _ _ _ _ _)
  refine next ?_ (linkUnits _ _ _ _ _)
  refine next ?_ (accountHold _ _ _ _ _)
  exact modStack s st fun _ => ⟨rfl, rfl, rfl⟩

/-- An activate, whose controller steals or refreshes with a full queue only (R347, R348). -/
theorem activateWith {steal : State → State} {bank : Nat} (s : State) (hs : 4 ≤ (s.bank bank).nbq.length → ∀ t,
    State.Opens closed r [] s t → State.Opens closed r [] t (steal t)) (row : BitVec 16) :
    State.Opens closed r [] s (s.activateWith steal bank row) := by
  unfold State.activateWith
  dsimp only
  have noted := modBank (closed := closed) (r := r) s bank
    (f := fun b => { b with act := (activate (s.threshold bank) (s.bank bank).act row).1 }) fun _ => .inl rfl
  have queue : ((s.modBank bank (fun b => { b with act := (activate (s.threshold bank) (s.bank bank).act row).1 })).bank bank).nbq =
      (s.bank bank).nbq := by rw [State.bank_modBank_same]
  generalize s.modBank bank _ = t at noted queue ⊢
  split
  · refine next ?_ (modBank _ bank fun _ => .inl rfl)
    refine next ?_ (modStack _ _ fun _ => ⟨rfl, rfl, rfl⟩)
    rw [queue]
    split
    next => exact noted
    next full => exact noted.trans (hs (Nat.not_lt.mp full) t noted)
  · exact noted

theorem stealN (n : Nat) (s : State) (st : Nat) : State.Opens closed r [] s (State.stealN n s st) := by
  induction n generalizing s with
  | zero => exact stealOps s st
  | succ n ih =>
    unfold State.stealN
    refine (stealOps s st).trans (foldl (fun p _ t _ => ?_) (refl _))
    exact (activateWith t (fun _ u _ => ih u) _).trans (linkSend _ _ _ _ _)

theorem steal (s : State) (st : Nat) : State.Opens closed r [] s (s.steal st) := by
  unfold State.steal
  split
  · exact refl s
  · exact stealN 4 s st

theorem idleOp (s : State) (bank : Nat) (hc : closed) : State.Opens closed r [] s (s.idleOp bank) := by
  unfold State.idleOp State.applyBand
  dsimp only
  refine next ?_ (modStack _ _ fun _ => ⟨rfl, rfl, rfl⟩)
  refine next ?_ (modQuad _ _ fun _ => rfl)
  refine next ?_ (modBank _ bank fun i => (Bank.half_doOne _ i).imp_right fun h => ⟨hc, h⟩)
  split
  · exact linkSend s _ _ _ _
  · exact refl s

/-- With its quadrant issuing words a controller steals, which closes no row (R345, R346). -/
theorem relieve (s : State) (bank : Nat) (hc : s.issuing (quadOf bank) = false → closed) : State.Opens closed r [] s (s.relieve bank) := by
  unfold State.relieve
  split
  · exact refl s
  · split
    next idle =>
      refine idleOp s bank (hc ?_)
      unfold State.idleBank at idle
      simp only [Bool.and_eq_true, Bool.not_eq_true'] at idle
      exact idle.1
    next => exact steal s _

theorem issuing (h : State.Opens closed r us s t) (q : Nat) : t.issuing q = s.issuing q := by
  unfold State.issuing State.slot
  rw [h.quad q]
  rfl

/-! ## A row opens -/

theorem activateRow (s : State) (bank : Nat) (row : BitVec 16)
    (hc : 4 ≤ (s.bank bank).nbq.length → s.issuing (quadOf bank) = false → closed) :
    State.Opens closed r [] s (s.activateRow bank row) := by
  unfold State.activateRow
  split
  · exact refl s
  · exact activateWith s (fun full t h => relieve t bank fun idle => hc full ((h.issuing _).symm.trans idle)) row

theorem openRow (s : State) (bank r : Nat) (hc : 4 ≤ (s.bank bank).nbq.length → s.issuing (quadOf bank) = false → closed) :
    State.Opens closed r [bank] s (s.openRow bank r) :=
  (activateRow s bank _ hc).trans (setHalf _ bank r)

/-- The row opens in every bank of a quadrant's list. -/
theorem openRows {q : Nat} (us : List Nat) (hq : ∀ u ∈ us, quadOf u = q) (s : State) (r : Nat) (hc : s.issuing q = false → closed) :
    State.Opens closed r us s (us.foldl (fun (s : State) u => s.openRow u r) s) := by
  induction us generalizing s with
  | nil => exact refl s
  | cons u us ih =>
    have first := openRow (closed := closed) s u r (fun _ idle => hc (by rwa [← hq u List.mem_cons_self]))
    exact first.trans (ih (fun v hv => hq v (List.mem_cons_of_mem _ hv)) _ fun idle => hc ((first.issuing q).symm.trans idle))

/-- What the row is after the command, of a half that was not opened. -/
theorem row_of_other (h : State.Opens closed r us s t) {u i : Nat} (hi : i < 2) (hu : ¬ (u ∈ us ∧ i = r % 2)) :
    (t.bank u).half i = if (t.bank u).half i = none then OpenRow.kept ((s.bank u).half i) else (s.bank u).half i := by
  rcases h.others u i hi (not_and_or.mp hu) with same | ⟨-, kept⟩
  · rw [same]
    split
    next gone => rw [gone]; rfl
    next => rfl
  · rw [kept]
    split
    next => rfl
    next open_ => exact OpenRow.kept_eq_self open_

end State.Opens

end Sys2Proof.Machine
end

section
/-! PROOF. O17: ACT, PRE and PREA (R113, R114, R126, R351). -/

namespace Sys2Proof.Machine

/-! ## Sequence tags (R351) -/

theorem State.linkSend_nextTag (s : State) (i : Nat) (kind : LinkKind) (banks : List Nat) (arg st : Nat) :
    ((s.linkSend i kind banks arg).stack st).nextTag =
      (s.stack st).nextTag + if st = i ∧ (s.stack st).failed = false then 1 else 0 := by
  unfold State.linkSend
  dsimp only
  by_cases hi : st = i
  · subst hi
    cases hf : (s.stack st).failed with
    | true => simp
    | false => simp [State.stack_modStack_same]
  · have elsewhere : ¬ (st = i ∧ (s.stack st).failed = false) := fun h => hi h.1
    rw [if_neg elsewhere, add_zero]
    split
    · rfl
    · rw [State.stack_modStack_ne _ _ hi]

/-- A command to units of a quadrant's stacks uses one tag of each stack that has some of them and has not failed. -/
theorem State.linkUnits_nextTag (s : State) (q : Nat) {us : List Nat} (hus : ∀ u ∈ us, 5 * q ≤ stackOf u ∧ stackOf u < 5 * q + 5)
    (kind : LinkKind) (arg st : Nat) : ((s.linkUnits q us kind arg).stack st).nextTag =
      (s.stack st).nextTag + if (s.stack st).failed = false ∧ us.any (fun u => decide (stackOf u = st)) = true then 1 else 0 := by
  have step : ∀ (t : State) (i : Nat),
      ((if (us.filter (fun u => decide (stackOf u = 5 * q + i))).isEmpty then t
        else t.linkSend (5 * q + i) kind (us.filter (fun u => decide (stackOf u = 5 * q + i))) arg).stack st).nextTag =
      (t.stack st).nextTag +
        if st = 5 * q + i ∧ (t.stack st).failed = false ∧ us.any (fun u => decide (stackOf u = st)) = true then 1 else 0 := by
    intro t i
    cases empty : (us.filter (fun u => decide (stackOf u = 5 * q + i))).isEmpty with
    | true =>
      have absent : ¬ (st = 5 * q + i ∧ (t.stack st).failed = false ∧ us.any (fun u => decide (stackOf u = st)) = true) := by
        rintro ⟨rfl, -, any⟩
        obtain ⟨u, hu, h⟩ := List.any_eq_true.mp any
        have listed : u ∈ us.filter (fun u => decide (stackOf u = 5 * q + i)) := List.mem_filter.mpr ⟨hu, h⟩
        rw [List.isEmpty_iff.mp empty] at listed
        cases listed
      rw [if_pos rfl, if_neg absent, add_zero]
    | false =>
      obtain ⟨u, hu⟩ := List.exists_mem_of_ne_nil _ (List.isEmpty_eq_false_iff.mp empty)
      rw [if_neg (by decide), State.linkSend_nextTag]
      congr 1
      refine if_congr ⟨fun ⟨h, f⟩ => ⟨h, f, ?_⟩, fun ⟨h, f, _⟩ => ⟨h, f⟩⟩ rfl rfl
      subst h
      obtain ⟨mem, same⟩ := List.mem_filter.mp hu
      exact List.any_eq_true.mpr ⟨u, mem, same⟩
  have fold : ∀ (l : List Nat) (t : State), l.Nodup → (∀ i, (t.stack i).failed = (s.stack i).failed) →
      ((l.foldl (fun (s : State) i =>
        let banks := us.filter (fun u => stackOf u = 5 * q + i)
        if banks.isEmpty then s else s.linkSend (5 * q + i) kind banks arg) t).stack st).nextTag =
      (t.stack st).nextTag + if (∃ i ∈ l, st = 5 * q + i) ∧ (s.stack st).failed = false ∧
        us.any (fun u => decide (stackOf u = st)) = true then 1 else 0 := by
    intro l
    induction l with
    | nil => intro t _ _; simp
    | cons i l ih =>
      intro t hl hf
      obtain ⟨fresh, hl⟩ := List.nodup_cons.mp hl
      have here := step t i
      have sent : State.Opens False 0 [] t (if (us.filter (fun u => decide (stackOf u = 5 * q + i))).isEmpty then t
          else t.linkSend (5 * q + i) kind (us.filter (fun u => decide (stackOf u = 5 * q + i))) arg) := by
        split
        · exact State.Opens.refl t
        · exact State.Opens.linkSend t _ _ _ _
      rw [List.foldl_cons]
      refine (ih _ hl fun j => (sent.stack j).2.2.trans (hf j)).trans ?_
      rw [here, hf, BitVec.add_assoc]
      congr 1
      by_cases own : st = 5 * q + i
      · simp [own, fresh]
      · simp [own]
  refine (fold (List.range 5) s List.nodup_range fun _ => rfl).trans ?_
  congr 1
  refine if_congr ⟨And.right, fun h => ⟨?_, h⟩⟩ rfl rfl
  obtain ⟨u, hu, e⟩ := List.any_eq_true.mp h.2
  have e : stackOf u = st := of_decide_eq_true e
  have := hus u hu
  exact ⟨st - 5 * q, List.mem_range.mpr (by omega), by omega⟩

/-! ## Banks with room in their queues (R348) -/

/-- An activate of a bank with room in its queue changes no other bank and sends nothing. -/
theorem State.openRow_room {s : State} {u : Nat} (hu : (s.bank u).nbq.length < 4) (r : Nat) :
    (∀ i, ((s.openRow u r).stack i).nextTag = (s.stack i).nextTag) ∧ ∀ v, v ≠ u → (s.openRow u r).bank v = s.bank v := by
  have activated : (∀ i, ((s.activateRow u (BitVec.ofNat 16 r)).stack i).nextTag = (s.stack i).nextTag) ∧
      ∀ v, v ≠ u → (s.activateRow u (BitVec.ofNat 16 r)).bank v = s.bank v := by
    unfold State.activateRow State.activateWith
    dsimp only
    split
    · exact ⟨fun _ => rfl, fun _ _ => rfl⟩
    · split
      · rw [if_pos (by rwa [State.bank_modBank_same])]
        refine ⟨fun i => ?_, fun v hv => ?_⟩
        · rw [State.stack_modBank]
          by_cases hi : i = stackOf u
          · subst hi
            rw [State.stack_modStack_same]
            rfl
          · rw [State.stack_modStack_ne _ _ hi]
            rfl
        · rw [State.bank_modBank_ne _ _ hv, State.bank_modStack, State.bank_modBank_ne _ _ hv]
      · exact ⟨fun _ => rfl, fun v hv => State.bank_modBank_ne _ _ hv⟩
  obtain ⟨tags, banks⟩ := activated
  exact ⟨tags, fun v hv => (State.bank_modBank_ne _ _ hv).trans (banks v hv)⟩

theorem State.openRows_room (us : List Nat) (hn : us.Nodup) (s : State) (hus : ∀ u ∈ us, (s.bank u).nbq.length < 4) (r : Nat) :
    State.Opens False r us s (us.foldl (fun (s : State) u => s.openRow u r) s) ∧
      ∀ i, ((us.foldl (fun (s : State) u => s.openRow u r) s).stack i).nextTag = (s.stack i).nextTag := by
  induction us generalizing s with
  | nil => exact ⟨State.Opens.refl s, fun _ => rfl⟩
  | cons u us ih =>
    obtain ⟨fresh, hn⟩ := List.nodup_cons.mp hn
    have room := hus u List.mem_cons_self
    obtain ⟨tags, banks⟩ := State.openRow_room room r
    have first := State.Opens.openRow (closed := False) s u r fun full => absurd full (Nat.not_le.mpr room)
    obtain ⟨rest, tags'⟩ := ih hn (s.openRow u r) fun v hv => by
      rw [banks v fun e => fresh (e ▸ hv)]
      exact hus v (List.mem_cons_of_mem _ hv)
    exact ⟨first.trans rest, fun i => (tags' i).trans (tags i)⟩

/-! ## The row commands -/

/-- Banks of a list each changed once or more by a change that a second one does not alter. -/
theorem State.bank_foldl_modBank {f : Bank → Bank} (hf : ∀ b, f (f b) = f b) (us : List Nat) (s : State) (u : Nat) :
    (us.foldl (fun (s : State) u => s.modBank u f) s).bank u = if u ∈ us then f (s.bank u) else s.bank u := by
  induction us generalizing s with
  | nil => rfl
  | cons v us ih =>
    rw [List.foldl_cons, ih]
    by_cases hv : u = v
    · subst hv
      simp [hf]
    · simp [State.bank_modBank_ne _ _ hv, hv]

theorem State.foldl_modBank_frame (f : Bank → Bank) (us : List Nat) (s : State) :
    us.foldl (fun (s : State) u => s.modBank u f) s =
      { s with banks := (us.foldl (fun (s : State) u => s.modBank u f) s).banks } := by
  induction us generalizing s with
  | nil => rfl
  | cons u us ih =>
    conv_lhs => rw [List.foldl_cons, ih]
    rfl

theorem State.linkSend_frame (s : State) (i : Nat) (kind : LinkKind) (banks : List Nat) (arg : Nat) :
    s.linkSend i kind banks arg = { s with stk := (s.linkSend i kind banks arg).stk } := by
  unfold State.linkSend
  dsimp only
  split <;> rfl

theorem State.linkUnits_frame (s : State) (q : Nat) (us : List Nat) (kind : LinkKind) (arg : Nat) :
    s.linkUnits q us kind arg = { s with stk := (s.linkUnits q us kind arg).stk } := by
  refine State.foldl_holds (fun t => t = { s with stk := t.stk }) _ (fun t i h => ?_) _ s rfl
  dsimp only
  split
  · exact h
  · have sent := t.linkSend_frame (5 * q + i) kind (us.filter (fun u => decide (stackOf u = 5 * q + i))) arg
    generalize t.linkSend _ _ _ _ = v at sent ⊢
    rw [sent, h]

/-- A precharge of the selected units: the command goes over the links, and their banks are changed. -/
theorem State.precharge_spec (s : State) (q sl : Nat) (sel : BitVec 4) (kind : LinkKind) (r : Nat) {f : Bank → Bank}
    (hf : ∀ b, f (f b) = f b) :
    let us := s.units_ q sl sel
    let t := us.foldl (fun (s : State) u => s.modBank u f) (s.linkCommand q sl sel kind r)
    (∀ u, t.bank u = if u ∈ us then f (s.bank u) else s.bank u) ∧
    (∀ st, (t.stack st).nextTag = (s.stack st).nextTag +
      if (s.stack st).failed = false ∧ us.any (fun u => decide (stackOf u = st)) = true then 1 else 0) ∧
    t = { s with stk := t.stk, banks := t.banks } := by
  intro us t
  have sent := s.linkUnits_frame q us kind r
  have frame : t = { s.linkUnits q us kind r with banks := t.banks } := State.foldl_modBank_frame f us _
  have tags := s.linkUnits_nextTag q (us := us) (fun u hu => ⟨(maskUnits_stack hu).1, (maskUnits_stack hu).2.1⟩) kind r
  refine ⟨fun u => ?_, fun st => ?_, ?_⟩
  · refine (State.bank_foldl_modBank hf us _ u).trans ?_
    have bank : (s.linkUnits q us kind r).bank u = s.bank u := by
      rw [sent]
      rfl
    exact bank ▸ rfl
  · rw [← tags, frame]
    rfl
  · conv_lhs => rw [frame, sent]
    rw [frame]

theorem State.noteGen_ctx (s : State) (q sl : Nat) (ags : Bool) (g c : Nat) :
    (s.noteGen q sl ags g).ctx c = { s.ctx c with lesson := ((s.noteGen q sl ags g).ctx c).lesson } := by
  have lost : ∀ (x : Ctx) (h tid blk : Nat), x.noteLost h tid blk = { x with lesson := (x.noteLost h tid blk).lesson } := by
    intro x h tid blk
    unfold Ctx.noteLost
    split <;> rfl
  unfold State.noteGen State.notePlace
  dsimp only
  split
  · split
    next b k _ _ =>
      by_cases hk : c = k
      · subst hk
        rw [State.ctx_modCtx_same]
        exact lost _ _ _ _
      · rw [State.ctx_modCtx_ne _ _ hk]
    next => rfl
  · rfl

section
variable {q sl : Fin 4} {sel : BitVec 4} {w : Word32} {s : State} {r : Nat}

theorem execAct_at (h : s.rowOf q sl w = some r) : exec (.act q sl sel w) s =
    .next ((s.units_ q sl sel).foldl (fun (s : State) u => s.openRow u r) (s.linkCommand q sl sel .act r)) := by
  change execAct q sl sel w s = _
  unfold execAct
  rw [h]

theorem execPre_at (h : s.rowOf q sl w = some r) : exec (.pre q sl sel w) s =
    .next ((s.units_ q sl sel).foldl (fun (s : State) u => s.modBank u (fun b => b.setHalf (r % 2) none))
      (s.linkCommand q sl sel .pre r)) := by
  change execPre q sl sel w s = _
  unfold execPre
  rw [h]

theorem execPrea_at (h : s.rowOf q sl w = some r) : exec (.prea q sl sel w) s =
    .next ((s.units_ q sl sel).foldl (fun (s : State) u => s.modBank u (fun b => (b.setHalf 0 none).setHalf 1 none))
      (s.linkCommand q sl sel .prea r)) := by
  change execPrea q sl sel w s = _
  unfold execPrea
  rw [h]

/-- At an absent position the lesson may note a lost block, and no row command is made (R126, R227). -/
theorem execRow_absent (h : s.rowOf q sl w = none) : exec (.act q sl sel w) s = .next (s.noteGen q sl (Row.ags w) (Row.ag w)) ∧
    exec (.pre q sl sel w) s = .next (s.noteGen q sl (Row.ags w) (Row.ag w)) ∧
    exec (.prea q sl sel w) s = .next (s.noteGen q sl (Row.ags w) (Row.ag w)) := by
  change execAct q sl sel w s = _ ∧ execPre q sl sel w s = _ ∧ execPrea q sl sel w s = _
  unfold execAct execPre execPrea
  rw [h]
  exact ⟨rfl, rfl, rfl⟩

end

/-- What ACT does to rows, tags and the rest (R113, R114, R351). -/
theorem State.act_spec (s : State) (q sl : Nat) (sel : BitVec 4) (r : Nat) :
    let us := s.units_ q sl sel
    let t := us.foldl (fun (s : State) u => s.openRow u r) (s.linkCommand q sl sel .act r)
    State.Opens (s.issuing q = false) r us s t ∧
    ((∀ u ∈ us, (s.bank u).nbq.length < 4) → State.Opens False r us s t ∧ ∀ st, (t.stack st).nextTag = (s.stack st).nextTag +
      if (s.stack st).failed = false ∧ us.any (fun u => decide (stackOf u = st)) = true then 1 else 0) := by
  intro us t
  have sent := fun (closed : Prop) => State.Opens.linkUnits (closed := closed) (r := r) s q us .act r
  refine ⟨?_, fun room => ?_⟩
  · refine (sent _).trans (State.Opens.openRows us (fun u hu => maskUnits_quad hu) _ r fun idle => ?_)
    exact ((sent True).issuing q).symm.trans idle
  · have bank : ∀ u, (s.linkUnits q us .act r).bank u = s.bank u := fun u => by
      rw [s.linkUnits_frame]
      rfl
    obtain ⟨opens, tags⟩ := State.openRows_room us (s.units_nodup q sl sel) (s.linkUnits q us .act r)
      (fun u hu => by rw [bank]; exact room u hu) r
    refine ⟨(sent False).trans opens, fun st => (tags st).trans ?_⟩
    exact s.linkUnits_nextTag q (fun u hu => ⟨(maskUnits_stack hu).1, (maskUnits_stack hu).2.1⟩) .act r st

/-- Settles O17: the selected banks one after another, after the command has gone over the links. -/
theorem rowCommandsOpenAndCloseRows : Obligations.RowCommandsOpenAndCloseRows := by
  intro q sl sel w s
  refine ⟨fun r hr => ⟨⟨_, execAct_at hr, ?_⟩, ⟨_, execPre_at hr, ?_⟩, ⟨_, execPrea_at hr, ?_⟩⟩, fun hr => ?_⟩
  · obtain ⟨opens, room⟩ := s.act_spec q sl sel r
    refine ⟨fun u h hh => ?_, fun cause u h hh hu => ?_, fun hroom => (room hroom).2, opens.frame, opens.quad, opens.ctx⟩
    · split
      next own =>
        obtain ⟨hu, rfl⟩ := own
        exact opens.opened u hu
      next other => exact opens.row_of_other hh other
    · rcases cause with busy | hroom
      · exact (opens.others u h hh hu).resolve_right fun idle => by simp [busy] at idle
      · exact ((room hroom).1.others u h hh hu).resolve_right And.left
  · refine s.precharge_spec q sl sel .pre r fun b => ?_
    unfold Bank.setHalf
    split <;> rfl
  · exact s.precharge_spec q sl sel .prea r (f := fun b => (b.setHalf 0 none).setHalf 1 none) fun _ => rfl
  · obtain ⟨act, pre, prea⟩ := execRow_absent (sel := sel) hr
    exact ⟨_, act, pre, prea, s.noteGen_frame q sl _ _, s.noteGen_ctx q sl _ _⟩

end Sys2Proof.Machine
end

section
/-! PROOF. O19: RD and RDS of a word with a stream entry (R140, R141, R167). The row command of one unit's bank changes no other bank's
rows of the timetable, so each unit reads the row that its own bank had, or the entry's. -/

namespace Sys2Proof.Machine

/-! ## What column reads see -/

/-- What a column read sees is the same in t: memory, which columns wait to be written and which stacks have failed, and the quadrants but
for the hold of the beat. -/
structure State.Steady (s t : State) : Prop where
  mem : t.mem = s.mem
  stack : ∀ i, (t.stack i).writes = (s.stack i).writes ∧ (t.stack i).slateQ = (s.stack i).slateQ ∧ (t.stack i).failed = (s.stack i).failed
  quad : ∀ p, t.quad p = { s.quad p with
    holdLen := (t.quad p).holdLen, holdCode := (t.quad p).holdCode, refreshing := (t.quad p).refreshing }

namespace State.Steady

variable {s t v : State}

theorem trans (h : s.Steady t) (h' : t.Steady v) : s.Steady v where
  mem := h'.mem.trans h.mem
  stack i :=
    have ⟨w, a, f⟩ := h.stack i
    have ⟨w', a', f'⟩ := h'.stack i
    ⟨w'.trans w, a'.trans a, f'.trans f⟩
  quad p := by
    rw [h'.quad p, h.quad p]

theorem of_observed (o : s.Observed t) : s.Steady t := ⟨o.mem, o.stack, fun p => by rw [o.quad]⟩

theorem of_opens {closed : Prop} {r : Nat} {us : List Nat} (o : State.Opens closed r us s t) : s.Steady t :=
  ⟨by rw [o.frame], o.stack, o.quad⟩

theorem entry (h : s.Steady t) (q : Nat) : t.entry q = s.entry q := by
  unfold State.entry
  rw [h.quad q]

theorem origin (h : s.Steady t) (q : Nat) : t.origin q = s.origin q := by
  unfold State.origin
  rw [h.quad q]

theorem noWrites (h : s.Steady t) {q : Nat} (n : s.NoWrites q) : t.NoWrites q := by
  obtain ⟨masked, queues⟩ := n
  refine ⟨by rw [h.quad q]; exact masked, fun st => ?_⟩
  obtain ⟨w, a, -⟩ := h.stack st
  exact ⟨w.trans (queues st).1, a.trans (queues st).2⟩

theorem column (h : s.Steady t) (c : Nat) : t.column c = s.column c := by
  unfold State.column State.decodeCol
  rw [(h.stack _).2.2, h.mem]

/-- One result in flight after steady operations (R59). -/
theorem dues (h : s.Steady t) (q sl lat writer : Nat) (ws : List DueWrite) :
    ((t.due q sl lat writer ws).quad q).dues = ((s.quad q).withResult sl lat writer (s.origin q) ws).dues := by
  rw [State.due_eq, State.quad_setQuad_same, h.origin, h.quad q]
  rfl

end State.Steady

/-! ## The row of a stream entry -/

/-- Rows of the timetable in a bank's halves are the same. -/
def State.sameRows (s t : State) (u : Nat) : Prop :=
  ∀ h, h < 2 → OpenRow.kept ((t.bank u).half h) = OpenRow.kept ((s.bank u).half h)

theorem State.Observed.sameRows {s t : State} (o : s.Observed t) (u : Nat) : s.sameRows t u := fun h _ => by
  rw [o.bank u]
  rfl

theorem State.Opens.sameRows {closed : Prop} {r : Nat} {us : List Nat} {s t : State} (o : State.Opens closed r us s t) {u : Nat}
    (hu : u ∉ us) : s.sameRows t u := fun h hh => by
  rcases o.others u h hh (.inl hu) with same | ⟨-, kept⟩
  · rw [same]
  · rw [kept, OpenRow.kept_kept]

theorem State.sameRows.trans {s t v : State} {u : Nat} (h : s.sameRows t u) (h' : t.sameRows v u) : s.sameRows v u :=
  fun i hi => (h' i hi).trans (h i hi)

/-- The row that a unit reads at a stream entry: the entry's where its operation opens a row or none of the timetable is open, or else
the row open there (R140, R141, R167). -/
def State.streamedRow (s : State) (e : Word32) (u : Nat) : Nat :=
  if entryOp e = 1 ∨ entryOp e = 2 then entryRow e
  else match OpenRow.kept ((s.bank u).half (entryRow e % 2)) with
    | some r => r.row.toNat
    | none => entryRow e

theorem State.sameRows.streamedRow {s t : State} {u : Nat} (h : s.sameRows t u) (e : Word32) : t.streamedRow e u = s.streamedRow e u := by
  unfold State.streamedRow
  rw [h _ (Nat.mod_lt _ (by decide))]

theorem entryRow_lt (e : Word32) : entryRow e < 65536 := fld_lt e _ _

theorem State.streamedRow_lt (s : State) (e : Word32) (u : Nat) : s.streamedRow e u < 65536 := by
  unfold State.streamedRow
  split
  · exact entryRow_lt e
  · split
    next r _ => exact r.row.isLt
    next => exact entryRow_lt e

theorem OpenRow.kept_some {r : Option OpenRow} {x : OpenRow} (h : OpenRow.kept r = some x) : r = some x ∧ x.timetable = true := by
  unfold OpenRow.kept at h
  rw [Option.filter_eq_some_iff] at h
  exact h

section
variable {s : State} {q : Nat} {e : Word32}

/-- After a stream entry's row command its column command finds that row in the bank. -/
theorem State.streamRow_target (he : s.entry q = some e) (u col : Nat) :
    (s.streamRow q u).target u (entryRow e % 2) col = some (colNo u (s.streamedRow e u) col) := by
  have opens : s.streamOpens q u = (entryOp e == 1 || entryOp e == 2 || (OpenRow.kept ((s.bank u).half (entryRow e % 2))).isNone) := by
    unfold State.streamOpens
    rw [he]
  unfold State.streamRow
  rw [he]
  dsimp only
  split
  next yes =>
    have row : s.streamedRow e u = entryRow e := by
      unfold State.streamedRow
      split
      · rfl
      next op =>
        have closed : OpenRow.kept ((s.bank u).half (entryRow e % 2)) = none := by
          rw [opens] at yes
          simpa [not_or.mp op] using yes
        rw [closed]
    have half : ((s.openRow u (entryRow e)).bank u).half (entryRow e % 2) = some ⟨BitVec.ofNat 16 (entryRow e), true⟩ :=
      (State.Opens.openRow (closed := True) s u (entryRow e) fun _ _ => trivial).opened u (List.mem_singleton_self u)
    unfold State.target
    rw [half, row]
    dsimp only
    rw [if_pos rfl, BitVec.toNat_ofNat, Nat.mod_eq_of_lt (entryRow_lt e)]
  next no =>
    rw [opens] at no
    simp only [Bool.or_eq_true, beq_iff_eq, not_or] at no
    obtain ⟨op, open_⟩ := no
    cases kept : OpenRow.kept ((s.bank u).half (entryRow e % 2)) with
    | none => simp [kept] at open_
    | some x =>
      obtain ⟨half, timetable⟩ := OpenRow.kept_some kept
      have row : s.streamedRow e u = x.row.toNat := by
        unfold State.streamedRow
        rw [if_neg (not_or.mpr op), kept]
      unfold State.target
      rw [half, row]
      exact if_pos timetable

theorem State.streamRow_steady (he : s.entry q = some e) (u : Nat) :
    s.Steady (s.streamRow q u) ∧ ∀ v, v ≠ u → s.sameRows (s.streamRow q u) v := by
  have opened : State.Opens True (entryRow e) [u] s (s.openRow u (entryRow e)) := State.Opens.openRow s u _ fun _ _ => trivial
  unfold State.streamRow
  rw [he]
  dsimp only
  split
  · exact ⟨.of_opens opened, fun v hv => opened.sameRows (by simpa using hv)⟩
  · exact ⟨.of_observed (.refl s), fun _ _ _ _ => rfl⟩

end

/-! ## The columns of the selected units -/

/-- The columns that the selected units read at a stream entry. -/
theorem State.readUnits_stream {s : State} {q : Nat} {e : Word32} {col : Nat} (hc : col < 64) (he : s.entry q = some e) (hw : s.NoWrites q)
    (us : List Nat) (hn : us.Nodup) (hus : ∀ u ∈ us, quadOf u = q) (t : State) (ht : s.Steady t) (hr : ∀ u ∈ us, s.sameRows t u)
    (acc : List (Nat × Column)) :
    let r := us.foldl (fun acc u =>
      let s := acc.2.streamRow q u
      match s.target u (entryRow e % 2) col with
      | none => (acc.1, s)
      | some c =>
        let r := s.readColumn c
        (acc.1 ++ [(u, r.1.1)], r.2.noteRead c r.1.2)) (acc, t)
    s.Steady r.2 ∧ r.1 = acc ++ us.map (fun u => (u, s.column (colNo u (s.streamedRow e u) col))) := by
  induction us generalizing t acc with
  | nil => exact ⟨ht, (List.append_nil acc).symm⟩
  | cons u us ih =>
    obtain ⟨fresh, hn⟩ := List.nodup_cons.mp hn
    have entry : t.entry q = some e := (ht.entry q).trans he
    obtain ⟨steady, rows⟩ := State.streamRow_steady entry u
    have target := State.streamRow_target entry u col
    rw [(hr u List.mem_cons_self).streamedRow] at target
    have bank : bankOfCol (colNo u (s.streamedRow e u) col) = u := bankOfCol_colNo u (s.streamedRow_lt e u) hc
    obtain ⟨read, got⟩ := State.NoWrites.readColumn (s := t.streamRow q u) (col := colNo u (s.streamedRow e u) col) (by
      rw [bank, hus u List.mem_cons_self]
      exact (ht.trans steady).noWrites hw)
    have noted := read.trans (State.Observed.noteRead ((t.streamRow q u).readColumn (colNo u (s.streamedRow e u) col)).2
      (colNo u (s.streamedRow e u) col) ((t.streamRow q u).readColumn (colNo u (s.streamedRow e u) col)).1.2)
    rw [List.foldl_cons]
    dsimp only
    rw [target]
    dsimp only
    obtain ⟨steady', cols⟩ := ih hn (fun v hv => hus v (List.mem_cons_of_mem _ hv)) _ ((ht.trans steady).trans (.of_observed noted))
      (fun v hv => (hr v (List.mem_cons_of_mem _ hv)).trans ((rows v fun h => fresh (h ▸ hv)).trans (noted.sameRows v)))
      (acc ++ [(u, ((t.streamRow q u).readColumn (colNo u (s.streamedRow e u) col)).1.1)])
    refine ⟨steady', cols.trans ?_⟩
    rw [got, (ht.trans steady).column, List.append_assoc]
    rfl

section
variable {s : State} {q : Nat} {e : Word32} (sl : Nat) (sel : BitVec 4) (w : Word32)

/-- The commands of a stream entry go over the links first (R140, R141). -/
theorem State.colCommand_stream (he : s.entry q = some e) : s.Observed (s.colCommand q sl sel w) := by
  have rowCommands : s.Observed (s.entryCommand q (s.units_ q sl sel) e) := by
    unfold State.entryCommand
    dsimp only
    refine State.Observed.trans ?_ (State.Observed.linkUnits _ _ _ _ _)
    split
    · exact State.Observed.linkUnits _ _ _ _ _
    · exact State.Observed.refl s
  have present : s.colOf q sl w = some (entryRow e % 2, entryCol e) := by
    unfold State.colOf
    rw [he]
  unfold State.colCommand
  rw [present, he]
  exact rowCommands.trans (State.Observed.linkUnits _ _ _ _ _)

/-- What a column read of a stream entry delivers, and the state it leaves. -/
theorem State.colReads_stream (he : s.entry q = some e) (hw : s.NoWrites q) :
    let r := (s.colCommand q sl sel w).colReads q sl sel w
    s.Steady (r.2.stepCol q sl w) ∧
      r.1 = (s.units_ q sl sel).map (fun u => (u, s.column (colNo u (s.streamedRow e u) (entryCol e)))) := by
  have sent := State.colCommand_stream sl sel w he
  generalize s.colCommand q sl sel w = t at sent ⊢
  have entry : t.entry q = some e := (sent.entry q).trans he
  have present : t.colOf q sl w = some (entryRow e % 2, entryCol e) := by
    unfold State.colOf
    rw [entry]
  have held : State.Opens True 0 [] t (t.streamHold q (t.units_ q sl sel)) := by
    unfold State.streamHold
    split
    · exact State.Opens.accountOpen t _ _
    · exact State.Opens.refl t
  unfold State.colReads
  rw [present]
  dsimp only
  rw [sent.units_] at held ⊢
  obtain ⟨steady, cols⟩ := State.readUnits_stream (fld_lt e 7 2 : entryCol e < 64) he hw (s.units_ q sl sel) (s.units_nodup q sl sel)
    (fun u hu => maskUnits_quad hu) _ ((State.Steady.of_observed sent).trans (.of_opens held))
    (fun u _ => (sent.sameRows u).trans (held.sameRows List.not_mem_nil)) []
  have stays : ∀ v : State, s.Steady v → s.Steady (v.stepCol q sl w) := fun v hv => by
    unfold State.stepCol
    rw [hv.entry, he, Option.isNone_some, Bool.and_false]
    exact hv
  exact ⟨stays _ steady, cols⟩

end

/-- Settles O19: nothing waits, so the units' columns are the present ones. -/
theorem streamReadsOpenTheirRow : Obligations.StreamReadsOpenTheirRow := by
  intro q sl sel w e s he hm hs row cols
  obtain ⟨steady, read⟩ := State.colReads_stream sl sel w he ⟨hm, hs⟩
  replace read : ((s.colCommand q sl sel w).colReads q sl sel w).1 = cols := read
  refine ⟨⟨_, rfl, steady.mem, ?_⟩, ⟨_, rfl, steady.mem, ?_⟩⟩
  · rw [← read]
    exact steady.dues q sl 8 6 _
  · have scales : (if (cols.map (fun x => DueWrite.scale x.1 sl x.2)).isEmpty then []
        else cols.map (fun x => DueWrite.scale x.1 sl x.2) ++ [DueWrite.pointer sl]) =
        cols.map (fun x => DueWrite.scale x.1 sl x.2) ++ if cols.isEmpty then [] else [.pointer sl] := by
      cases cols <;> rfl
    rw [← scales, ← read]
    exact steady.dues q sl 8 6 _

end Sys2Proof.Machine
end

section
/-! PROOF. O32 refuted: the record of a REPORT word finds room in a report buffer that was full (R403). The clause that it waits while all
contexts hold 256 records is false of a table of contexts in which a context stands twice. -/

namespace Sys2Proof.Machine

/-- Context 0 runs a lesson. -/
def reportingCtx : Ctx :=
  { Ctx.init with live := true, lesson := some ⟨7, [], [], 0, 1, 0, false, none, false, false, [], false⟩ }

/-- As many records as all contexts together may hold in the report buffer. -/
def allReports : List Waiting := List.replicate 256 ⟨Report.blank 2, [], false, none⟩

/-- A table with two entries for context 0: the first, which is the one that is read, has no record in the report buffer, the second
256, which count as well. -/
def twiceListedCtxs : Table Ctx := [(0, reportingCtx), (0, { reportingCtx with buffer := allReports })]

/-- A state with these contexts, of which slot 0 of quadrant 0 runs context 0. -/
def twiceListedReports : State :=
  { State.reset with ctxs := twiceListedCtxs, quads := [(0, { Quad.init with slots := [(0, { Slot.init with ctx := some 0 })] })] }

theorem twiceListedReports_bufferUse : twiceListedReports.bufferUse = 256 := by
  have all : allReports.length = 256 := List.length_replicate
  simp only [State.bufferUse, twiceListedReports, twiceListedCtxs, List.foldl_cons, List.foldl_nil]
  rw [all]
  rfl

/-- Queueing the record writes the context back with one entry, and the 256 records of the other are gone, so that it enters the buffer
at once. -/
theorem twiceListedReports_enters (w : Word32) : ((twiceListedReports.presentReport 0 0 w).ctx 0).queue = [] := rfl

/-- Refutes O32: the statement speaks of every state, also of one whose table of contexts lists a context twice, which no write of a
table makes. The records of both entries fill the report buffer of 256 (R403), but queueing the new record writes the context back
with one entry, and the record then finds room instead of waiting. -/
theorem not_hoistAndReportWords : ¬ Obligations.HoistAndReportWords := by
  rintro ⟨-, -, -, report⟩
  obtain ⟨-, -, waits⟩ := report 0 0 0 0 ⟨7, [], [], 0, 1, 0, false, none, false, false, [], false⟩ twiceListedReports rfl rfl rfl rfl
  obtain ⟨t, ran, queued, -⟩ := waits rfl (.inr twiceListedReports_bufferUse.ge)
  have presented : twiceListedReports.presentReport 0 0 0 = t := Host.Outcome.next.inj ran
  have queue := congrArg Ctx.queue queued
  rw [← presented, twiceListedReports_enters 0] at queue
  exact List.append_ne_nil_of_right_ne_nil _ (List.cons_ne_nil _ _) queue.symm

end Sys2Proof.Machine
end

section
/-! PROOF. What frames and releases leave alone. A frame that leaves changes ports, sequences and what is sent. The release of a roll
call changes that roll call, and of the slots only those that something blocks (R316, R321, R419 to R423). -/

namespace Sys2Proof.Machine

/-! ## Frames that leave (R419 to R423) -/

/-- t is s after frames have left. -/
structure State.Sends (s t : State) : Prop where
  frame : t = { s with ring := t.ring, out := t.out }
  sent : s.out <:+ t.out

namespace State.Sends

variable {s t u : State}

theorem refl (s : State) : s.Sends s := ⟨rfl, List.suffix_refl _⟩

theorem trans (h : s.Sends t) (h' : t.Sends u) : s.Sends u where
  frame := by
    rw [h'.frame, h.frame]
  sent := h.sent.trans h'.sent

theorem foldl {α : Type} {f : State → α → State} (hf : ∀ (s : State) (a : α), s.Sends (f s a)) (l : List α) (s : State) :
    s.Sends (l.foldl f s) :=
  State.foldl_holds s.Sends f (fun t a h => trans h (hf t a)) l s (refl s)

theorem withRing (s : State) (x : Ring) : s.Sends { s with ring := x } := ⟨rfl, List.suffix_refl _⟩

theorem freeVia (s : State) (f : PeerFrame) : s.Sends (s.freeVia f) := by
  unfold State.freeVia
  split
  · split
    · exact withRing s _
    · exact refl s
  · exact refl s

theorem sendOn (s : State) (p : Nat) (f : PeerFrame) : s.Sends (s.sendOn p f) := by
  unfold State.sendOn
  exact trans ⟨rfl, List.suffix_cons _ _⟩ (freeVia _ f)

theorem pump (s : State) (p n : Nat) : s.Sends (s.pump p n) := by
  induction n generalizing s with
  | zero => exact refl s
  | succ n ih =>
    unfold State.pump
    split
    · exact refl s
    · exact (sendOn s p _).trans (ih _)

theorem enqueue (s : State) (p : Nat) (f : PeerFrame) : s.Sends (s.enqueue p f) := by
  unfold State.enqueue
  exact (withRing s _).trans (pump _ p _)

theorem sendTo (s : State) (dst : Nat) (b : FrameBody) : s.Sends (s.sendTo dst b) := by
  unfold State.sendTo State.route
  exact (withRing s _).trans (enqueue _ _ _)

theorem broadcast (s : State) (b : FrameBody) : s.Sends (s.broadcast b) := by
  unfold State.broadcast
  refine (withRing s _).trans (foldl (fun (t : State) (d : Nat × Nat) => ?_) _ _)
  split
  · split
    · exact refl t
    · exact enqueue t _ _
  · exact refl t

theorem quads (h : s.Sends t) : t.quads = s.quads := by rw [h.frame]
theorem sync (h : s.Sends t) : t.sync = s.sync := by rw [h.frame]
theorem host (h : s.Sends t) : t.host = s.host := by rw [h.frame]
theorem ctxs (h : s.Sends t) : t.ctxs = s.ctxs := by rw [h.frame]

end State.Sends

/-! ## Releases (R316, R321, R448) -/

/-- t is s after releases of the roll calls that ns lists: every other roll call is as it was, and so is every slot that nothing
blocks. -/
structure State.Releases (ns : List Nat) (s t : State) : Prop where
  roll : ∀ m, m ∉ ns → t.rollCall m = s.rollCall m
  slot : ∀ q i, (s.slot q i).blocked = none → t.slot q i = s.slot q i

theorem State.enterBuffer_sync (s : State) (c n : Nat) : (s.enterBuffer c n).sync = s.sync := by
  induction n generalizing s with
  | zero => rfl
  | succ n ih =>
    unfold State.enterBuffer
    dsimp only
    split
    · rfl
    · split
      · rw [ih]
        split <;> rfl
      · rfl

theorem State.post_sync (s : State) (c : Nat) (r : Report) : (s.post c r).sync = s.sync := by
  unfold State.post State.postFrom
  split
  · rfl
  · exact State.enterBuffer_sync _ c _

namespace State.Releases

variable {ns ms : List Nat} {s t u : State}

theorem refl (s : State) : State.Releases ns s s := ⟨fun _ _ => rfl, fun _ _ _ => rfl⟩

theorem trans (h : State.Releases ns s t) (h' : State.Releases ms t u) : State.Releases (ns ++ ms) s u where
  roll m hm := by
    rw [List.mem_append, not_or] at hm
    exact (h'.roll m hm.2).trans (h.roll m hm.1)
  slot q i hb := by
    have first := h.slot q i hb
    exact (h'.slot q i (by rwa [first])).trans first

/-- Steps that release none. -/
theorem next (h : State.Releases ns s t) (h' : State.Releases [] t u) : State.Releases ns s u := by
  simpa using h.trans h'

theorem foldl {α : Type} {f : State → α → State} (hf : ∀ (s : State) (a : α), State.Releases ns s (f s a)) (l : List α) (s : State) :
    State.Releases ns s (l.foldl f s) := by
  refine State.foldl_holds (State.Releases ns s) f (fun t a h => ?_) l s (refl s)
  exact ⟨fun m hm => ((hf t a).roll m hm).trans (h.roll m hm), (h.trans (hf t a)).slot⟩

/-- Slots that are eased, with the roll calls as they are. -/
theorem of_eased (hr : t.sync.rolls = s.sync.rolls) (h : s.Eased t) : State.Releases [] s t :=
  ⟨fun m _ => congrArg (tget RollCall.free · m) hr, fun q i hb => ((h q).2 i).of_unblocked hb⟩

theorem of_quads (hr : t.sync.rolls = s.sync.rolls) (h : t.quads = s.quads) : State.Releases [] s t :=
  of_eased hr ((State.Eased.refl s).of_quads h)

theorem of_sends (h : s.Sends t) : State.Releases [] s t := of_quads (congrArg Sync.rolls h.sync) h.quads

theorem modCtx (s : State) (c : Nat) (f : Ctx → Ctx) : State.Releases [] s (s.modCtx c f) := of_quads rfl rfl

theorem setRoll (s : State) (n : Nat) (x : RollCall) : State.Releases [n] s (s.setRoll n x) :=
  ⟨fun _ hm => s.rollCall_setRoll_ne x (by simpa using hm), fun _ _ _ => rfl⟩

/-- A slot is changed only if something blocks it. -/
theorem modSlot (s : State) (q i : Nat) (f : Slot → Slot) (hb : (s.slot q i).blocked.isSome = true) :
    State.Releases [] s (s.modSlot q i f) := by
  refine ⟨fun _ _ => rfl, fun p j hj => ?_⟩
  rw [State.slot_modSlot]
  split
  next e =>
    obtain ⟨rfl, rfl⟩ := e
    simp [hj] at hb
  next => rfl

theorem post (s : State) (c : Nat) (r : Report) : State.Releases [] s (s.post c r) :=
  of_eased (congrArg Sync.rolls (s.post_sync c r)) ((State.Eased.refl s).post c r)

theorem releaseSlot (s : State) (num round : Nat) (poisoned : Bool) (q sl : Nat) :
    State.Releases [] s (s.releaseSlot num round poisoned q sl) := by
  unfold State.releaseSlot
  dsimp only
  split
  next hb =>
    split
    · exact modSlot s q sl _ (by rw [hb]; rfl)
    · exact refl s
  next hb =>
    split
    · exact modSlot s q sl _ (by rw [hb]; rfl)
    · exact refl s
  next => exact refl s

theorem releaseReports (s : State) (num round : Nat) (poisoned : Bool) (c : Nat) :
    State.Releases [] s (s.releaseReports num round poisoned c) := by
  unfold State.releaseReports
  dsimp only
  refine next ?_ (foldl (fun (t : State) p => post t c _) _ _)
  exact of_quads rfl rfl

/-- A released round goes on to the next before any slot hears of it (R321). -/
theorem after_setRoll (s : State) (num : Nat) (poisoned : Bool) :
    ∃ r : RollCall, r.round = (s.rollCall num).round + 1 ∧ State.Releases [] (s.setRoll num r) (s.releaseRound num poisoned) := by
  have slots : ∀ (n : Nat) (t : State) (l : List (Nat × Nat)),
      State.Releases [] t (l.foldl (fun s p => s.releaseSlot num n poisoned p.1 p.2) t) := fun n t l => by
    refine foldl (fun t p => ?_) l t
    exact releaseSlot t num n poisoned p.1 p.2
  have reports : ∀ (n : Nat) (t : State) (l : List Nat),
      State.Releases [] t (l.foldl (fun s c => s.releaseReports num n poisoned c) t) := fun n t l => by
    refine foldl (fun t c => ?_) l t
    exact releaseReports t num n poisoned c
  unfold State.releaseRound
  exact ⟨_, rfl, (slots _ _ _).next (reports _ _ _)⟩

theorem releaseRound (s : State) (num : Nat) (poisoned : Bool) : State.Releases [num] s (s.releaseRound num poisoned) := by
  obtain ⟨r, -, after⟩ := after_setRoll s num poisoned
  exact (setRoll s num r).next after

/-! ## What a released round goes on with (R274, R275, R319, R448) -/

theorem modShare (s : State) (engine q id : Nat) (f : Share → Share) : State.Releases [] s (s.modShare engine q id f) := by
  refine ⟨fun _ _ => rfl, fun p i _ => ?_⟩
  unfold State.slot State.modShare
  by_cases hp : p = q
  · subst hp
    rw [State.quad_modQuad_same]
    unfold Quad.setShares
    split <;> rfl
  · rw [State.quad_modQuad_ne _ _ hp]

theorem finishMerge (s : State) (m : RingMerge) (rows : List MergeRow) : State.Releases [] s (s.finishMerge m rows) := by
  unfold State.finishMerge State.giveResult
  refine next (of_sends (State.Sends.withRing s _)) (foldl (fun (t : State) x => ?_) _ _)
  exact modShare t 1 x.1 x.2.id _

theorem passFold (s : State) (m : RingMerge) (part : Option (List MergeRow)) : State.Releases [] s (s.passFold m part) := by
  unfold State.passFold
  dsimp only
  split
  · exact of_sends (State.Sends.foldl (fun (t : State) f => State.Sends.sendTo t _ _) _ s)
  · refine next ?_ (finishMerge _ m _)
    split
    · exact refl s
    · exact of_sends (State.Sends.foldl (fun (t : State) f => State.Sends.broadcast t _) _ s)

theorem releaseMerge (s : State) (m : RingMerge) (poisoned : Bool) : State.Releases [] s (s.releaseMerge m poisoned) := by
  unfold State.releaseMerge
  dsimp only
  have kept : State.Releases [] s (s.keepMerge { m with released := true, poison := m.poison || poisoned }) :=
    of_sends (State.Sends.withRing s _)
  generalize s.keepMerge _ = t at kept ⊢
  split
  · exact kept.next (finishMerge t _ _)
  · split
    · exact kept.next (passFold t _ _)
    · split
      · exact kept.next (passFold t _ _)
      · exact kept

theorem releaseFold (s : State) (num : Nat) (poisoned : Bool) : State.Releases [num] s (s.releaseFold num poisoned) :=
  next (releaseRound s num poisoned) (foldl (fun t m => releaseMerge t m poisoned) _ _)

theorem homeCheck (s : State) (num : Nat) : State.Releases [num] s (s.homeCheck num) := by
  unfold State.homeCheck State.sendNotices
  dsimp only
  split
  · exact next (setRoll s num _) (of_sends (State.Sends.foldl (fun (t : State) e => State.Sends.sendTo t _ _) _ _))
  · exact ⟨fun _ _ => rfl, fun _ _ _ => rfl⟩

theorem own {n : Nat} (h : State.Releases [n] s t) (h' : State.Releases [n] t u) : State.Releases [n] s u :=
  ⟨fun m hm => (h'.roll m hm).trans (h.roll m hm), (h.trans h').slot⟩

theorem reportArrival (s : State) (num : Nat) : State.Releases [num] s (s.reportArrival num) := by
  have stays : ∀ t : State, State.Releases [num] t t := fun t => ⟨fun _ _ => rfl, fun _ _ _ => rfl⟩
  unfold State.reportArrival
  dsimp only
  split
  · split
    · split
      · exact own (setRoll s num _) (homeCheck _ num)
      · exact (stays s).next (of_sends (State.Sends.sendTo s _ _))
    · exact stays s
  · exact stays s

theorem bellRoll (s : State) (num t : Nat) : State.Releases [num] s (s.bellRoll num t) := by
  have stays : State.Releases [num] s s := ⟨fun _ _ => rfl, fun _ _ _ => rfl⟩
  unfold State.bellRoll
  dsimp only
  split
  · exact stays
  · generalize (if (s.rollCall num).ring = true then _ else _ : Bool) = due
    cases due
    · exact stays
    · have folded := releaseFold s num (s.rollCall num).poisonNext
      rw [if_pos rfl]
      split
      · exact own folded (reportArrival _ num)
      · exact folded

/-- Out of the ring a roll call releases its one round, and its handles are dead (R553). -/
theorem ringRollAlone (s : State) (num : Nat) : State.Releases [num] s (s.ringRollAlone num) := by
  have killed : ∀ t : State, State.Releases [] t (t.killHandles num) := fun t => by
    unfold State.killHandles
    generalize List.range 16 = cs
    refine foldl (fun t c => ?_) cs t
    exact modCtx t c _
  unfold State.ringRollAlone
  dsimp only
  split
  · exact (own (releaseRound s num true) (setRoll _ num _)).next (killed _)
  · exact ⟨fun _ _ => rfl, fun _ _ _ => rfl⟩

end State.Releases

theorem State.releaseFold_round (s : State) (num : Nat) (poisoned : Bool) :
    ((s.releaseFold num poisoned).rollCall num).round = (s.rollCall num).round + 1 := by
  obtain ⟨r, next, after⟩ := State.Releases.after_setRoll s num poisoned
  have folded : State.Releases [] (s.releaseRound num poisoned) (s.releaseFold num poisoned) :=
    State.Releases.foldl (fun t m => State.Releases.releaseMerge t m poisoned) _ _
  rw [(after.next folded).roll num List.not_mem_nil, s.rollCall_setRoll_same, next]

end Sys2Proof.Machine
end

section
/-! PROOF. Region and roll-call words (O31). -/

namespace Sys2Proof.Machine

/-! ## RGET and RREL (R182 to R188) -/

/-- What stands in the way of a request that a slot makes now (R184, R185). -/
def State.obstructed (s : State) (q : Nat) (r : SbRequest) : Bool :=
  (s.quad q).conflicts r.asker r.entry r.write || (s.quad q).behind (s.quad q).sbWait r.entry r.write || s.behindRemote q r

/-- The request r numbered with the arrivals so far, as the scoreboard takes it. -/
def State.numbered (s : State) (r : SbRequest) : SbRequest := { r with order := s.sync.arrivals }

/-- The state that has counted one more arrival. -/
def State.counted (s : State) : State := { s with sync := { s.sync with arrivals := s.sync.arrivals + 1 } }

/-- An obstructed request joins the waiting ones. -/
theorem State.ask_of_obstructed (s : State) (q : Nat) (r : SbRequest) (h : s.obstructed q (s.numbered r) = true) :
    s.ask q r = (s.counted.setQuad q { s.quad q with sbWait := (s.quad q).sbWait ++ [s.numbered r] }, false) := if_pos h

/-- A request that nothing obstructs takes its hold. -/
theorem State.ask_of_clear (s : State) (q : Nat) (r : SbRequest) (h : s.obstructed q (s.numbered r) = false) :
    s.ask q r = (s.counted.setQuad q ((s.quad q).modEntry r.entry (fun e => e.hold (r.share, r.write))), true) :=
  if_neg (Bool.eq_false_iff.1 h)

theorem Quad.entry_modEntry (x : Quad) (e i : Nat) (f : SbEntry → SbEntry) :
    (x.modEntry e f).entry i = if i = e then f (x.entry e) else x.entry i :=
  tget_tset _ _ _ _ _

/-- A slot of quadrant q once quadrant q has become y with the same slots. -/
theorem State.slot_setQuad (s : State) (q i : Nat) {y : Quad} (h : y.slots = (s.quad q).slots) :
    (s.setQuad q y).slot q i = s.slot q i := by
  unfold State.slot Quad.slot
  rw [State.quad_setQuad_same, h]

/-- What of a quadrant its slots are no part of stays when a slot changes. -/
theorem State.modSlot_keeps {α : Type} (g : Quad → α) (hg : ∀ (x : Quad) (l : Table Slot), g { x with slots := l } = g x) (s : State)
    (q i : Nat) (f : Slot → Slot) (p : Nat) : g ((s.modSlot q i f).quad p) = g (s.quad p) := by
  by_cases hp : p = q
  · subst hp
    exact (congrArg g (State.quad_modQuad_same _ _ _)).trans (hg _ _)
  · exact congrArg g (State.quad_modQuad_ne _ _ hp)

@[simp] theorem State.modSlot_sb (s : State) (q i : Nat) (f : Slot → Slot) (p : Nat) : ((s.modSlot q i f).quad p).sb = (s.quad p).sb :=
  State.modSlot_keeps Quad.sb (fun _ _ => rfl) s q i f p

@[simp] theorem State.modSlot_sbWait (s : State) (q i : Nat) (f : Slot → Slot) (p : Nat) :
    ((s.modSlot q i f).quad p).sbWait = (s.quad p).sbWait := State.modSlot_keeps Quad.sbWait (fun _ _ => rfl) s q i f p

theorem State.pass_slot (s : State) (q sl : Nat) (p : Bool) : (s.pass q sl p).slot q sl = { s.slot q sl with passed := some p } :=
  s.slot_modSlot_same q sl _

theorem State.block_slot (s : State) (q sl : Nat) (b : Blocked) :
    (s.block q sl b).slot q sl = (s.slot q sl).blockedOn (s.quiet q sl) b :=
  s.slot_modSlot_same q sl _

theorem State.quiet_setQuad (s : State) (q sl : Nat) {y : Quad} (dues : y.dues = (s.quad q).dues) (masked : y.masked = (s.quad q).masked)
    (beat : y.beat = (s.quad q).beat) : (s.setQuad q y).quiet q sl = s.quiet q sl := by
  unfold State.quiet
  rw [State.quad_setQuad_same]
  dsimp only
  rw [dues, masked, beat]
  rfl

/-- The word of a slot passes in a quadrant that has become y with the same slots. -/
theorem State.pass_setQuad (s : State) (q sl : Nat) (p : Bool) {y : Quad} (slots : y.slots = (s.quad q).slots) :
    let t := (s.setQuad q y).pass q sl p
    t.slot q sl = { s.slot q sl with passed := some p } ∧ (t.quad q).sb = y.sb ∧ (t.quad q).sbWait = y.sbWait := by
  intro t
  have own := s.quad_setQuad_same q y
  have slot := State.pass_slot (s.setQuad q y) q sl p
  rw [State.slot_setQuad s q sl slots] at slot
  exact ⟨slot, (State.modSlot_sb _ q sl _ q).trans (congrArg Quad.sb own),
    (State.modSlot_sbWait _ q sl _ q).trans (congrArg Quad.sbWait own)⟩

/-- The word of a slot blocks in a quadrant that has become y with the same slots and the same beat. -/
theorem State.block_setQuad (s : State) (q sl : Nat) (on : Blocked) {y : Quad} (slots : y.slots = (s.quad q).slots)
    (dues : y.dues = (s.quad q).dues) (masked : y.masked = (s.quad q).masked) (beat : y.beat = (s.quad q).beat) :
    let t := (s.setQuad q y).block q sl on
    t.slot q sl = (s.slot q sl).blockedOn (s.quiet q sl) on ∧ (t.quad q).sb = y.sb ∧ (t.quad q).sbWait = y.sbWait := by
  intro t
  have own := s.quad_setQuad_same q y
  have slot := State.block_slot (s.setQuad q y) q sl on
  rw [State.slot_setQuad s q sl slots, State.quiet_setQuad s q sl dues masked beat] at slot
  exact ⟨slot, (State.modSlot_sb _ q sl _ q).trans (congrArg Quad.sb own),
    (State.modSlot_sbWait _ q sl _ q).trans (congrArg Quad.sbWait own)⟩

theorem SbEntry.drop_holders (e : SbEntry) (p : Option Nat × Bool → Bool) :
    (e.drop p).holders = e.holders.filter (fun h => !p h) := by
  unfold SbEntry.drop
  dsimp only
  split
  next h => exact (List.filter_eq_self.2 (List.length_filter_eq_length_iff.1 h)).symm
  next => rfl

/-- An entry that loses its last holder goes on deferring (R188). -/
theorem SbEntry.drop_last (e : SbEntry) (p : Option Nat × Bool → Bool) (held : ∃ h ∈ e.holders, p h = true)
    (gone : (e.drop p).holders = []) : (e.drop p).st = 3 := by
  rw [SbEntry.drop_holders] at gone
  unfold SbEntry.drop
  dsimp only
  rw [gone, if_neg]
  · rfl
  · obtain ⟨h, hm, -⟩ := held
    have := List.length_pos_of_mem hm
    simp only [List.length_nil]
    omega

section
variable (s : State) (q sl : Nat) (w : Word32)

theorem State.presentRget_of_held
    (h : ((s.quad q).entry (64 * sl + Sync.entry w)).st = 0 ∨
      ((s.quad q).entry (64 * sl + Sync.entry w)).holders.any (fun h => h.1.isNone) = true) :
    s.presentRget q sl w = s.pass q sl false := if_pos h

variable (h : ¬ (((s.quad q).entry (64 * sl + Sync.entry w)).st = 0 ∨
  ((s.quad q).entry (64 * sl + Sync.entry w)).holders.any (fun h => h.1.isNone) = true))
include h

theorem State.presentRget_of_clear
    (free : s.obstructed q ⟨sl, none, 64 * sl + Sync.entry w, Sync.wr w, s.sync.arrivals⟩ = false) :
    s.presentRget q sl w = (s.counted.setQuad q ((s.quad q).modEntry (64 * sl + Sync.entry w)
      (fun e => e.hold (none, Sync.wr w)))).pass q sl false := by
  unfold State.presentRget
  dsimp only
  rw [if_neg h, State.ask_of_clear s q ⟨sl, none, 64 * sl + Sync.entry w, Sync.wr w, 0⟩ free, if_pos rfl]

theorem State.presentRget_of_obstructed
    (stood : s.obstructed q ⟨sl, none, 64 * sl + Sync.entry w, Sync.wr w, s.sync.arrivals⟩ = true) :
    s.presentRget q sl w = (s.counted.setQuad q { s.quad q with
      sbWait := (s.quad q).sbWait ++ [⟨sl, none, 64 * sl + Sync.entry w, Sync.wr w, s.sync.arrivals⟩] }).block q sl
        (.region (64 * sl + Sync.entry w) (Sync.wr w)) := by
  unfold State.presentRget
  dsimp only
  rw [if_neg h, State.ask_of_obstructed s q ⟨sl, none, 64 * sl + Sync.entry w, Sync.wr w, 0⟩ stood, if_neg Bool.false_ne_true]
  rfl

end

/-! ## ROLL (R315 to R318, R322, R329, R553) -/

/-- What a roll call tells its own module of the rounds: which one it is, and who has arrived in it and in the next. -/
def RollCall.front (r : RollCall) : Word32 × BitVec 18 × BitVec 18 := (r.round, r.arrived, r.ahead)

/-- t is s after frames have left and something of roll call num has been noted, of which its own module sees the front x. -/
def State.Notes (s t : State) (num : Nat) (x : Word32 × BitVec 18 × BitVec 18) : Prop :=
  t = { s with sync := t.sync, ring := t.ring, out := t.out } ∧ (t.rollCall num).front = x

theorem State.Sends.notes {s t : State} (h : s.Sends t) (num : Nat) : s.Notes t num (s.rollCall num).front := by
  refine ⟨?_, ?_⟩
  · rw [h.frame]
  · unfold State.rollCall
    rw [h.sync]

theorem State.notes_setRoll (s : State) (num : Nat) (r : RollCall) : s.Notes (s.setRoll num r) num r.front :=
  ⟨rfl, congrArg RollCall.front (s.rollCall_setRoll_same num r)⟩

theorem State.Notes.trans {s t u : State} {num : Nat} {x y : Word32 × BitVec 18 × BitVec 18} (h : s.Notes t num x)
    (h' : t.Notes u num y) : s.Notes u num y := by
  refine ⟨?_, h'.2⟩
  rw [h'.1, h.1]

theorem State.Notes.sent {s t u : State} {num : Nat} {x : Word32 × BitVec 18 × BitVec 18} (h : s.Notes t num x) (sent : t.Sends u) :
    s.Notes u num x := by
  have noted := sent.notes num
  rw [h.2] at noted
  exact h.trans noted

theorem State.sendNotices_sends (s : State) (num bell : Nat) : s.Sends (s.sendNotices num bell) :=
  State.Sends.foldl (fun (t : State) (_ : RosterEntry) => State.Sends.sendTo t _ _) _ s

theorem State.homeCheck_notes (s : State) (num : Nat) : s.Notes (s.homeCheck num) num (s.rollCall num).front := by
  unfold State.homeCheck
  dsimp only
  split
  · exact (s.notes_setRoll num { s.rollCall num with release := some _ }).sent (State.sendNotices_sends _ num _)
  · exact (State.Sends.refl s).notes num

theorem State.reportArrival_notes (s : State) (num : Nat) : s.Notes (s.reportArrival num) num (s.rollCall num).front := by
  unfold State.reportArrival
  dsimp only
  split
  · split
    · split
      next h _ _ =>
        have noted := s.notes_setRoll num { s.rollCall num with
          ringArrived := (s.rollCall num).ringArrived ||| (1#64 <<< ((s.posOf h).getD 0)) }
        have checked := State.homeCheck_notes (s.setRoll num { s.rollCall num with
          ringArrived := (s.rollCall num).ringArrived ||| (1#64 <<< ((s.posOf h).getD 0)) }) num
        rw [noted.2] at checked
        exact noted.trans checked
      next => exact (State.Sends.sendTo s _ _).notes num
    · exact (State.Sends.refl s).notes num
  · exact (State.Sends.refl s).notes num

/-- What an arrival finds: its participant is outside the mask, or arrives in this round, or in the next, or is held (R316, R317). -/
theorem RollCall.arrive_front (r : RollCall) (b now : Nat) :
    ((r.arrive b now).1.front, (r.arrive b now).2) =
      if r.localMask.getLsbD b = false then (r.front, .outsider)
      else if r.arrived.getLsbD b = false then ((r.round, r.arrived ||| (1#18 <<< b), r.ahead), .recorded r.round.toNat)
      else if r.ahead.getLsbD b = false then
        ((r.round, r.arrived, r.ahead ||| (1#18 <<< b)), .recorded (r.round.toNat + 1))
      else (r.front, .held) := by
  unfold RollCall.arrive
  split
  · rfl
  · split
    · rfl
    · split <;> rfl

theorem RollCall.arrive_round (r : RollCall) (b now : Nat) : (r.arrive b now).1.round = r.round := by
  unfold RollCall.arrive
  (repeat' split) <;> rfl

theorem State.arriveAt_outcome (s : State) (num b : Nat) :
    (s.arriveAt num b).2 = ((s.rollCall num).arrive b s.ring.timebase).2 := by
  unfold State.arriveAt
  dsimp only
  split <;> rfl

/-- An arrival notes what it finds. -/
theorem State.arriveAt_notes (s : State) (num b : Nat) :
    s.Notes (s.arriveAt num b).1 num ((s.rollCall num).arrive b s.ring.timebase).1.front := by
  have noted := s.notes_setRoll num ((s.rollCall num).arrive b s.ring.timebase).1
  have told := State.reportArrival_notes (s.setRoll num ((s.rollCall num).arrive b s.ring.timebase).1) num
  rw [noted.2] at told
  unfold State.arriveAt
  dsimp only
  split
  · dsimp only
    split
    · exact noted.trans told
    · exact noted
  next h =>
    have same : ((s.rollCall num).arrive b s.ring.timebase).1 = s.rollCall num := by
      unfold RollCall.arrive at h ⊢
      split
      · rfl
      next inside =>
        rw [if_neg inside] at h
        split
        next early => rw [if_pos early] at h; exact absurd rfl (h _)
        next late =>
          rw [if_neg late] at h
          split
          next early => rw [if_pos early] at h; exact absurd rfl (h _)
          next => rfl
    rw [same]
    exact (State.Sends.refl s).notes num

theorem State.onBell_of_still {s t : State} (h : t.still = s.still) : t.onBell = s.onBell := by
  have kept : (t.ring.bells, t.ring.timebase, t.ring.lastBell) = (s.ring.bells, s.ring.timebase, s.ring.lastBell) :=
    congrArg (fun x : Still => (x.rest.ring.bells, x.rest.ring.timebase, x.rest.ring.lastBell)) h
  exact congrArg (fun x : Nat × Nat × Nat => decide (x.1 ≠ 0 ∧ x.2.1 = x.2.2)) kept

theorem State.timebase_of_still {s t : State} (h : t.still = s.still) : t.ring.timebase = s.ring.timebase :=
  congrArg (fun x : Still => x.rest.ring.timebase) h

theorem State.meetBell_off_bell {s : State} (h : s.onBell = false) : s.meetBell = s := if_neg (Bool.eq_false_iff.1 h)

/-- A roll call of this module that is complete releases its round on a bell (R318, R321). -/
theorem State.bellRoll_of_complete (s : State) {num t : Nat} (live : (s.rollCall num).st = 1) (own : (s.rollCall num).ring = false)
    (all : (s.rollCall num).complete = true) (since : ∃ u ≤ t, (s.rollCall num).completeAt = some u)
    (fresh : (s.rollCall num).releasedAt ≠ some t) : s.bellRoll num t = s.releaseFold num (s.rollCall num).poisonNext := by
  obtain ⟨u, hu, at_⟩ := since
  unfold State.bellRoll
  simp [live, own, all, at_, hu, fresh]

/-- The roll calls of a list meet the bell one after another, and release no others. -/
theorem State.Releases.bellRolls (l : List Nat) (s : State) :
    State.Releases l s (l.foldl (fun (s : State) r => s.bellRoll r s.ring.timebase) s) := by
  induction l generalizing s with
  | nil => exact State.Releases.refl s
  | cons r l ih => exact (State.Releases.bellRoll s r s.ring.timebase).trans (ih _)

/-- On a bell a complete roll call of this module has gone to its next round, and the slots that nothing blocks are as they were. -/
theorem State.meetBell_releases (s : State) {num : Nat} (hn : num < 64) (bell : s.onBell = true) (live : (s.rollCall num).st = 1)
    (own : (s.rollCall num).ring = false) (all : (s.rollCall num).complete = true)
    (since : (s.rollCall num).completeAt = some s.ring.timebase) (fresh : (s.rollCall num).releasedAt ≠ some s.ring.timebase) :
    (s.meetBell.rollCall num).round = (s.rollCall num).round + 1 ∧
      ∀ q i, (s.slot q i).blocked = none → s.meetBell.slot q i = s.slot q i := by
  have met : s.meetBell = (List.range 64).foldl (fun (s : State) r => s.bellRoll r s.ring.timebase) s := if_pos bell
  have slots := State.Releases.bellRolls (List.range 64) s
  refine ⟨?_, fun q i hb => met ▸ slots.slot q i hb⟩
  obtain ⟨before, after, parts⟩ := List.append_of_mem (List.mem_range.2 hn)
  have once : (before ++ num :: after).Nodup := parts ▸ List.nodup_range
  obtain ⟨-, rest, apart⟩ := List.nodup_append.1 once
  have notBefore : num ∉ before := fun h => apart num h num List.mem_cons_self rfl
  have notAfter : num ∉ after := (List.nodup_cons.1 rest).1
  rw [met, parts, List.foldl_append, List.foldl_cons]
  have earlier := State.Releases.bellRolls before s
  have time := State.timebase_of_still
    (State.foldl_still (fun (s : State) r => s.bellRoll r s.ring.timebase) (fun s r => s.bellRoll_still r _) before s)
  generalize before.foldl (fun (s : State) r => s.bellRoll r s.ring.timebase) s = u at earlier time ⊢
  have same := earlier.roll num notBefore
  rw [(State.Releases.bellRolls after _).roll num notAfter, State.bellRoll_of_complete u (same ▸ live) (same ▸ own) (same ▸ all)
    ⟨s.ring.timebase, time ▸ Nat.le_refl _, same ▸ since⟩ (by rw [same, time]; exact fresh)]
  rw [← same]
  exact u.releaseFold_round num _

/-! ### ROLL by what its handle names -/

section
variable {s : State} {q sl c : Nat} {w : Word32}

theorem State.presentRoll_of_dead (hc : (s.slot q sl).ctx = some c)
    (h : (s.rollHandle c (Sync.call w)).bound = false ∨ (s.rollHandle c (Sync.call w)).dead = true ∨
      (s.rollCall (s.rollHandle c (Sync.call w)).num.toNat).st ≠ 1) :
    s.presentRoll q sl w = s.pass q sl (Sync.waits w) := by
  unfold State.presentRoll
  rw [hc]
  exact if_pos h

theorem State.presentRoll_of_alone (hc : (s.slot q sl).ctx = some c)
    (h : ¬ ((s.rollHandle c (Sync.call w)).bound = false ∨ (s.rollHandle c (Sync.call w)).dead = true ∨
      (s.rollCall (s.rollHandle c (Sync.call w)).num.toNat).st ≠ 1))
    (alone : (s.rollCall (s.rollHandle c (Sync.call w)).num.toNat).ring = true ∧ s.outOfRing = true) :
    s.presentRoll q sl w = (s.ringRollAlone (s.rollHandle c (Sync.call w)).num.toNat).pass q sl (Sync.waits w) := by
  unfold State.presentRoll
  rw [hc]
  exact (if_neg h).trans (if_pos alone)

/-- After the arrival a at roll call num, which was r before: the word passes or blocks (R316). -/
def rollOutcome (q sl num : Nat) (r : RollCall) (w : Word32) (a : State × Arrival) : State :=
  match a.2 with
  | .recorded n =>
    if Sync.waits w = false then a.1.meetBell.pass q sl false
    else if n = r.round.toNat ∧ (a.1.meetBell.rollCall num).round ≠ r.round then a.1.meetBell.pass q sl r.poisonNext
    else a.1.meetBell.block q sl (.rollCall (Sync.call w) n)
  | .held => a.1.block q sl (.rollHeld (Sync.call w))
  | .outsider => if Sync.waits w then a.1.block q sl (.rollCall (Sync.call w) r.round.toNat) else a.1.pass q sl false

theorem State.presentRoll_of_arrival (hc : (s.slot q sl).ctx = some c)
    (h : ¬ ((s.rollHandle c (Sync.call w)).bound = false ∨ (s.rollHandle c (Sync.call w)).dead = true ∨
      (s.rollCall (s.rollHandle c (Sync.call w)).num.toNat).st ≠ 1))
    (joined : ¬ ((s.rollCall (s.rollHandle c (Sync.call w)).num.toNat).ring = true ∧ s.outOfRing = true)) :
    s.presentRoll q sl w = rollOutcome q sl (s.rollHandle c (Sync.call w)).num.toNat
      (s.rollCall (s.rollHandle c (Sync.call w)).num.toNat) w (s.arriveAt (s.rollHandle c (Sync.call w)).num.toNat (4 * q + sl)) := by
  unfold State.presentRoll
  rw [hc]
  exact (if_neg h).trans (if_neg joined)

end

/-- After an arrival off a bell, a slot's word that passes or blocks changes the slot alone. -/
theorem State.Notes.modSlot {s u : State} {num : Nat} {x : Word32 × BitVec 18 × BitVec 18} (h : s.Notes u num x) (q sl : Nat)
    (f : Slot → Slot) :
    let t := u.modSlot q sl f
    t = { s with quads := t.quads, sync := t.sync, ring := t.ring, out := t.out } ∧ (t.rollCall num).front = x ∧
      t.slot q sl = f (s.slot q sl) := by
  have quads : u.quads = s.quads := by rw [h.1]
  have same : u.slot q sl = s.slot q sl := congrArg (fun t : Table Quad => (tget Quad.init t q).slot sl) quads
  refine ⟨?_, h.2, ?_⟩
  · exact h.1 ▸ rfl
  · rw [State.slot_modSlot_same, same]

/-- A ROLL word's slot off a bell, by what the arrival in the round n finds (R316). -/
def Arrival.leaves (a : Arrival) (w : Word32) (n : Nat) (quiet : Bool) : Slot → Slot :=
  match a with
  | .recorded m => if Sync.waits w then fun y => y.blockedOn quiet (.rollCall (Sync.call w) m) else fun y => { y with passed := some false }
  | .held => fun y => y.blockedOn quiet (.rollHeld (Sync.call w))
  | .outsider => if Sync.waits w then fun y => y.blockedOn quiet (.rollCall (Sync.call w) n) else fun y => { y with passed := some false }

/-- Off a bell no round is released, and the word passes or blocks as its arrival says. -/
theorem State.rollOutcome_off_bell (s : State) (q sl num b : Nat) (w : Word32) (bell : s.onBell = false) :
    rollOutcome q sl num (s.rollCall num) w (s.arriveAt num b) = (s.arriveAt num b).1.modSlot q sl
      (((s.rollCall num).arrive b s.ring.timebase).2.leaves w (s.rollCall num).round.toNat (s.quiet q sl)) := by
  have noted := s.arriveAt_notes num b
  have unmet : (s.arriveAt num b).1.meetBell = (s.arriveAt num b).1 :=
    State.meetBell_off_bell ((State.onBell_of_still (s.arriveAt_still num b)).trans bell)
  have quiet : (s.arriveAt num b).1.quiet q sl = s.quiet q sl := by
    refine State.quiet_congr ?_ ?_ q sl
    · rw [noted.1]
    · rw [noted.1]
  have same : ((s.arriveAt num b).1.rollCall num).round = (s.rollCall num).round :=
    (congrArg Prod.fst noted.2).trans ((s.rollCall num).arrive_round b s.ring.timebase)
  rw [← s.arriveAt_outcome num b]
  unfold rollOutcome
  cases (s.arriveAt num b).2 with
  | recorded n =>
    simp only [unmet, same, ne_eq, not_true_eq_false, and_false, if_false, State.block_eq, quiet]
    cases hw : Sync.waits w <;> simp [Arrival.leaves, hw, State.pass]
  | held =>
    simp only [State.block_eq, quiet]
    rfl
  | outsider =>
    simp only [State.block_eq, quiet]
    cases hw : Sync.waits w <;> simp [Arrival.leaves, hw, State.pass]

/-- What an arrival records in its roll call, and what it leaves to its word's slot, by what it finds (R316, R317). -/
theorem RollCall.arrive_shows {r x : RollCall} {b now : Nat} {w : Word32} {quiet : Bool} {y z : Slot}
    (hx : x.front = (r.arrive b now).1.front) (hz : z = (r.arrive b now).2.leaves w r.round.toNat quiet y) :
    let waitsFor (n : Nat) : Prop :=
      if Sync.waits w = true then z = y.blockedOn quiet (.rollCall (Sync.call w) n) else z = { y with passed := some false }
    if r.localMask.getLsbD b = false then x.arrived = r.arrived ∧ x.ahead = r.ahead ∧ waitsFor r.round.toNat
    else if r.arrived.getLsbD b = false then x.arrived = r.arrived ||| (1#18 <<< b) ∧ x.ahead = r.ahead ∧ waitsFor r.round.toNat
    else if r.ahead.getLsbD b = false then
      x.arrived = r.arrived ∧ x.ahead = r.ahead ||| (1#18 <<< b) ∧ waitsFor (r.round.toNat + 1)
    else x.arrived = r.arrived ∧ x.ahead = r.ahead ∧ z = y.blockedOn quiet (.rollHeld (Sync.call w)) := by
  intro waitsFor
  have recorded : ∀ n, (r.arrive b now).2 = .recorded n → waitsFor n := fun n h => by
    simp only [waitsFor, hz, h, Arrival.leaves]
    split <;> rfl
  have outside : (r.arrive b now).2 = .outsider → waitsFor r.round.toNat := fun h => by
    simp only [waitsFor, hz, h, Arrival.leaves]
    split <;> rfl
  have held : (r.arrive b now).2 = .held → z = y.blockedOn quiet (.rollHeld (Sync.call w)) := fun h => by
    simp only [hz, h, Arrival.leaves]
  have found := r.arrive_front b now
  rw [← hx] at found
  have front : ∀ a c, x.front = (r.round, a, c) → x.arrived = a ∧ x.ahead = c := fun a c h =>
    ⟨congrArg (fun p => p.2.1) h, congrArg (fun p => p.2.2) h⟩
  split
  next h =>
    obtain ⟨shown, kind⟩ := Prod.mk.inj (found.trans (if_pos h))
    obtain ⟨arrived, ahead⟩ := front _ _ shown
    exact ⟨arrived, ahead, outside kind⟩
  next h =>
    rw [if_neg h] at found
    split
    next h =>
      obtain ⟨shown, kind⟩ := Prod.mk.inj (found.trans (if_pos h))
      obtain ⟨arrived, ahead⟩ := front _ _ shown
      exact ⟨arrived, ahead, recorded _ kind⟩
    next h =>
      rw [if_neg h] at found
      split
      next h =>
        obtain ⟨shown, kind⟩ := Prod.mk.inj (found.trans (if_pos h))
        obtain ⟨arrived, ahead⟩ := front _ _ shown
        exact ⟨arrived, ahead, recorded _ kind⟩
      next h =>
        obtain ⟨shown, kind⟩ := Prod.mk.inj (found.trans (if_neg h))
        obtain ⟨arrived, ahead⟩ := front _ _ shown
        exact ⟨arrived, ahead, held kind⟩

section
variable (s : State) {num b : Nat} (own : (s.rollCall num).ring = false) (inside : (s.rollCall num).localMask.getLsbD b = true)
  (new : (s.rollCall num).arrived.getLsbD b = false)
  (all : ((s.rollCall num).arrived ||| (1#18 <<< b)) &&& (s.rollCall num).localMask = (s.rollCall num).localMask)
include own inside new all

/-- The last arrival at a roll call of this module completes its round, and no frame leaves. -/
theorem State.arriveAt_of_last : s.arriveAt num b =
    (s.setRoll num { s.rollCall num with
      arrived := (s.rollCall num).arrived ||| (1#18 <<< b), completeAt := some s.ring.timebase }, .recorded (s.rollCall num).round.toNat) := by
  have arrives : (s.rollCall num).arrive b s.ring.timebase = ({ s.rollCall num with
      arrived := (s.rollCall num).arrived ||| (1#18 <<< b), completeAt := some s.ring.timebase },
      .recorded (s.rollCall num).round.toNat) := by
    simp [RollCall.arrive, inside, new, RollCall.complete, all]
  unfold State.arriveAt
  rw [arrives]
  simp [State.reportArrival, own]

/-- On a bell the last arrival at a roll call of this module releases the round. -/
theorem State.rollOutcome_of_last (q sl : Nat) (w : Word32) (hn : num < 64) (bell : s.onBell = true) (live : (s.rollCall num).st = 1)
    (fresh : (s.rollCall num).releasedAt ≠ some s.ring.timebase) (hb : (s.slot q sl).blocked = none) :
    let t := rollOutcome q sl num (s.rollCall num) w (s.arriveAt num b)
    (t.rollCall num).round = (s.rollCall num).round + 1 ∧
      t.slot q sl = { s.slot q sl with passed := some (Sync.waits w && (s.rollCall num).poisonNext) } := by
  intro t
  obtain ⟨round, slots⟩ := State.meetBell_releases (s.setRoll num { s.rollCall num with
    arrived := (s.rollCall num).arrived ||| (1#18 <<< b), completeAt := some s.ring.timebase }) hn bell
    (by rw [s.rollCall_setRoll_same]; exact live) (by rw [s.rollCall_setRoll_same]; exact own)
    (by rw [s.rollCall_setRoll_same]; exact beq_iff_eq.2 all) (by rw [s.rollCall_setRoll_same]; rfl)
    (by rw [s.rollCall_setRoll_same]; exact fresh)
  rw [s.rollCall_setRoll_same] at round
  have slot := slots q sl hb
  have next : (s.rollCall num).round + 1 ≠ (s.rollCall num).round := by simp
  have passed : t = (State.meetBell (s.setRoll num { s.rollCall num with
      arrived := (s.rollCall num).arrived ||| (1#18 <<< b), completeAt := some s.ring.timebase })).pass q sl
        (Sync.waits w && (s.rollCall num).poisonNext) := by
    unfold t rollOutcome
    rw [State.arriveAt_of_last s own inside new all]
    dsimp only at round ⊢
    rw [round]
    cases Sync.waits w <;> simp
  rw [passed]
  refine ⟨round, ?_⟩
  rw [State.pass_slot, slot]
  rfl

end

/-- Settles O31: a request is taken, waits or is not needed by what the scoreboard shows; RREL filters the holders of its entry; and
an arrival leaves its roll call and the word's slot as the rounds that it finds recorded say. -/
theorem regionAndRollWords : Obligations.RegionAndRollWords := by
  intro q sl w s e x passed blocked arrived waits
  refine ⟨fun h => ⟨congrArg Host.Outcome.next (if_pos (Slot.presented_iff.2 h)),
    congrArg Host.Outcome.next (if_pos (Slot.presented_iff.2 h))⟩, fun hp hb => ?_, ?_, fun c hc hp hb => ?_⟩
  · have run : exec (.rget q sl w) s = .next (s.presentRget q sl w) :=
      congrArg Host.Outcome.next (if_neg (by simp [hp, hb]))
    rw [run]
    have held : (x.entry e).holders.any (fun h => h.1.isNone) = true ↔ ∃ h ∈ (x.entry e).holders, h.1 = none := by
      simp only [List.any_eq_true, Option.isNone_iff_eq_none]
    have unheld : (x.entry e).st ≠ 0 → (∀ h ∈ (x.entry e).holders, h.1 ≠ none) →
        ¬ ((x.entry e).st = 0 ∨ (x.entry e).holders.any (fun h => h.1.isNone) = true) := fun hs hh h =>
      h.elim hs fun h => have ⟨b, hb, own⟩ := held.1 h; hh b hb own
    refine ⟨fun h => ⟨_, rfl, ?_⟩, fun hs hh free => ⟨_, rfl, ?_⟩, fun hs hh stood => ⟨_, rfl, ?_⟩⟩
    · rw [State.presentRget_of_held s q sl w (h.imp id held.2)]
      exact ⟨s.pass_slot q sl false, s.modSlot_sb q sl _ q, s.modSlot_sbWait q sl _ q, rfl⟩
    · rw [State.presentRget_of_clear s q sl w (unheld hs hh) free]
      obtain ⟨slot, sb, sbWait⟩ := State.pass_setQuad s.counted q sl false
        (y := x.modEntry e (fun y => y.hold (none, Sync.wr w))) rfl
      refine ⟨slot, sbWait, fun i => ?_, rfl⟩
      exact (congrArg (tget SbEntry.init · i) sb).trans (x.entry_modEntry e i _)
    · rw [State.presentRget_of_obstructed s q sl w (unheld hs hh) stood]
      obtain ⟨slot, sb, sbWait⟩ := State.block_setQuad s.counted q sl (.region e (Sync.wr w))
        (y := { x with sbWait := x.sbWait ++ [⟨sl, none, e, Sync.wr w, s.sync.arrivals⟩] }) rfl rfl rfl rfl
      exact ⟨slot, sb, sbWait, rfl⟩
  · have run : exec (.rrel q sl w) s = .next (s.modQuad q (fun x => x.modEntry e (fun y => y.drop (fun h => h.1.isNone)))) := rfl
    have own : (s.modQuad q (fun x => x.modEntry e (fun y => y.drop (fun h => h.1.isNone)))).quad q =
      x.modEntry e (fun y => y.drop (fun h => h.1.isNone)) := State.quad_modQuad_same _ _ _
    refine ⟨_, run, rfl, fun i hi => ?_, ?_, ?_⟩
    · rw [own, Quad.entry_modEntry, if_neg hi]
    · rw [own, Quad.entry_modEntry, if_pos rfl, SbEntry.drop_holders]
      exact List.filter_congr fun h _ => Option.not_isNone h.1
    · rw [own, Quad.entry_modEntry, if_pos rfl]
      rintro ⟨h, hm, own⟩ gone
      exact SbEntry.drop_last _ _ ⟨h, hm, by rw [own]; rfl⟩ gone
  · have run : exec (.roll q sl w) s = .next (s.presentRoll q sl w) := congrArg Host.Outcome.next (if_neg (by simp [hp, hb]))
    intro hd r b wait
    rw [run]
    have named : hd.bound = true → hd.dead = false → r.st = 1 → ¬ (hd.bound = false ∨ hd.dead = true ∨ r.st ≠ 1) := by
      rintro bound alive live (h | h | h)
      · exact Bool.false_ne_true (h.symm.trans bound)
      · exact Bool.false_ne_true (alive.symm.trans h)
      · exact h live
    refine ⟨fun h => congrArg Host.Outcome.next (State.presentRoll_of_dead hc h), fun bound alive live ring out => ⟨_, rfl, ?_⟩,
      fun bound alive live joined => ?_⟩
    · rw [State.presentRoll_of_alone hc (named bound alive live) ⟨ring, out⟩]
      have slot := State.pass_slot (s.ringRollAlone hd.num.toNat) q sl wait
      rw [(State.Releases.ringRollAlone s hd.num.toNat).slot q sl hb] at slot
      exact slot
    · have together : ¬ (r.ring = true ∧ s.outOfRing = true) := fun h =>
        joined.elim (fun own => Bool.false_ne_true (own.symm.trans h.1)) (fun member => Bool.false_ne_true (member.symm.trans h.2))
      rw [State.presentRoll_of_arrival hc (named bound alive live) together]
      refine ⟨fun bell => ⟨_, rfl, ?_⟩, fun bell own inside new all fresh => ⟨_, rfl, ?_⟩⟩
      · have noted := (s.arriveAt_notes hd.num.toNat b).modSlot q sl
          ((r.arrive b s.ring.timebase).2.leaves w r.round.toNat (s.quiet q sl))
        rw [State.rollOutcome_off_bell s q sl _ _ w bell]
        generalize (s.arriveAt hd.num.toNat b).1.modSlot q sl ((r.arrive b s.ring.timebase).2.leaves w r.round.toNat (s.quiet q sl)) = t
          at noted ⊢
        obtain ⟨frame, front, slot⟩ := noted
        refine ⟨frame, (congrArg Prod.fst front).trans (r.arrive_round b s.ring.timebase), ?_⟩
        exact RollCall.arrive_shows front slot
      · exact State.rollOutcome_of_last s own inside new all q sl w hd.num.isLt bell live fresh hb

end Sys2Proof.Machine
end

section
/-! PROOF. The ends of shares and the grants of entries (O41). A share that ends hoists its pennant and gives up its entries; the shares
that ask on hold entries under their own numbers only. -/

namespace Sys2Proof.Machine

/-! ## Tables -/

/-- An entry of a table after a write is the written one, or one of the table under another key. -/
theorem mem_tset {V : Type} [DecidableEq V] {d : V} {t : Table V} {i : Nat} {x : V} {p : Nat × V} (h : p ∈ tset d t i x) :
    p = (i, x) ∨ p ∈ t ∧ p.1 ≠ i := by
  have deleted : ∀ {p}, p ∈ tdel t i → p ∈ t ∧ p.1 ≠ i := fun h => by
    unfold tdel at h
    simpa using h
  unfold tset at h
  split at h
  · exact .inr (deleted h)
  · exact ((mem_tins _ _ _ _).1 h).imp id deleted

/-- What a table reads is its default or stands in it. -/
theorem tget_eq_or_mem {V : Type} (d : V) (t : Table V) (i : Nat) : tget d t i = d ∨ (i, tget d t i) ∈ t := by
  induction t with
  | nil => exact .inl rfl
  | cons e t ih =>
    by_cases h : i = e.1
    · rw [show tget d (e :: t) i = e.2 from if_pos h]
      exact .inr (h ▸ List.mem_cons_self)
    · rw [show tget d (e :: t) i = tget d t i from if_neg h]
      exact ih.imp id (List.mem_cons_of_mem e)

/-! ## Requests of shares (R185, R237) -/

/-- t is s after shares with numbers in ks have asked for entries: what they took is added to the holders, and no hold has gone. -/
structure State.Asks (ks : Nat → Prop) (s t : State) : Prop where
  tbuf : ∀ q, (t.quad q).tbuf = (s.quad q).tbuf
  holders : ∀ q, ∀ e ∈ (t.quad q).sb, ∀ k ∈ e.2.holders,
    (∃ e' ∈ (s.quad q).sb, k ∈ e'.2.holders) ∨ ∃ n, k.1 = some n ∧ ks n
  kept : ∀ q i, ∀ k ∈ ((s.quad q).entry i).holders, k ∈ ((t.quad q).entry i).holders
  held : ∀ q i, ((s.quad q).entry i).st = 2 → ((t.quad q).entry i).st = 2

namespace State.Asks

variable {ks : Nat → Prop} {s t u : State}

theorem of_quads (h : ∀ q, (t.quad q).tbuf = (s.quad q).tbuf ∧ (t.quad q).sb = (s.quad q).sb) : State.Asks ks s t where
  tbuf q := (h q).1
  holders q e he k hk := .inl ⟨e, (h q).2 ▸ he, hk⟩
  kept q i k hk := by
    unfold Quad.entry at hk ⊢
    rwa [(h q).2]
  held q i hs := by
    unfold Quad.entry at hs ⊢
    rwa [(h q).2]

theorem refl (s : State) : State.Asks ks s s := of_quads fun _ => ⟨rfl, rfl⟩

theorem trans (h : State.Asks ks s t) (h' : State.Asks ks t u) : State.Asks ks s u where
  tbuf q := (h'.tbuf q).trans (h.tbuf q)
  holders q e he k hk := by
    rcases h'.holders q e he k hk with ⟨e', he', hk'⟩ | new
    · exact h.holders q e' he' k hk'
    · exact .inr new
  kept q i k hk := h'.kept q i k (h.kept q i k hk)
  held q i hs := h'.held q i (h.held q i hs)

/-- A change of quadrant q that leaves its buffer and its scoreboard. -/
theorem setQuad (s : State) (q : Nat) {x : Quad} (hb : x.tbuf = (s.quad q).tbuf) (hs : x.sb = (s.quad q).sb) :
    State.Asks ks s (s.setQuad q x) := by
  refine of_quads fun p => ?_
  by_cases hp : p = q
  · subst hp
    rw [State.quad_setQuad_same]
    exact ⟨hb, hs⟩
  · rw [State.quad_setQuad_ne _ _ hp]
    exact ⟨rfl, rfl⟩

/-- A share takes an entry. -/
theorem takes (s : State) (q e n : Nat) (write : Bool) (hn : ks n) :
    State.Asks ks s (s.setQuad q ((s.quad q).modEntry e (fun y => y.hold (some n, write)))) := by
  have own : ∀ i, ((s.quad q).modEntry e (fun y => y.hold (some n, write))).entry i =
      if i = e then ((s.quad q).entry e).hold (some n, write) else (s.quad q).entry i := fun i => Quad.entry_modEntry _ _ _ _
  refine ⟨fun p => ?_, fun p a ha k hk => ?_, fun p i k hk => ?_, fun p i hs => ?_⟩
  all_goals by_cases hp : p = q
  · subst hp; rw [State.quad_setQuad_same]; rfl
  · rw [State.quad_setQuad_ne _ _ hp]
  · subst hp
    rw [State.quad_setQuad_same] at ha
    have listed : a ∈ tset SbEntry.init (s.quad p).sb e (((s.quad p).entry e).hold (some n, write)) := ha
    rcases mem_tset listed with rfl | ⟨ha, -⟩
    · rcases List.mem_append.1 hk with hk | hk
      · rcases tget_eq_or_mem SbEntry.init (s.quad p).sb e with init | listed
        · rw [show (s.quad p).entry e = SbEntry.init from init] at hk
          cases hk
        · exact .inl ⟨_, listed, hk⟩
      · exact .inr ⟨n, by rw [List.mem_singleton.1 hk], hn⟩
    · exact .inl ⟨a, ha, hk⟩
  · rw [State.quad_setQuad_ne _ _ hp] at ha
    exact .inl ⟨a, ha, hk⟩
  · subst hp
    rw [State.quad_setQuad_same, own]
    split
    next h => exact List.mem_append_left _ (h ▸ hk)
    next => exact hk
  · rw [State.quad_setQuad_ne _ _ hp]
    exact hk
  · subst hp
    rw [State.quad_setQuad_same, own]
    split
    · rfl
    · exact hs
  · rw [State.quad_setQuad_ne _ _ hp]
    exact hs

theorem modShare (s : State) (engine q id : Nat) (f : Share → Share) : State.Asks ks s (s.modShare engine q id f) := by
  refine setQuad s q ?_ ?_
  · unfold Quad.setShares
    split <;> rfl
  · unfold Quad.setShares
    split <;> rfl

theorem noteGranted (s : State) (engine q id : Nat) (write : Bool) : State.Asks ks s (s.noteGranted engine q id write) := by
  unfold State.noteGranted
  split
  · refine trans ?_ (modShare _ engine q id _)
    exact of_quads fun _ => ⟨rfl, rfl⟩
  · exact refl s

theorem ask (s : State) (q : Nat) (r : SbRequest) {n : Nat} (hr : r.share = some n) (hn : ks n) : State.Asks ks s (s.ask q r).1 := by
  have counted : State.Asks ks s s.counted := of_quads fun _ => ⟨rfl, rfl⟩
  cases h : s.obstructed q (s.numbered r) with
  | true =>
    rw [State.ask_of_obstructed s q r h]
    exact counted.trans (setQuad s.counted q rfl rfl)
  | false =>
    rw [State.ask_of_clear s q r h, hr]
    exact counted.trans (takes s.counted q r.entry n r.write hn)

theorem advance (ns : List (Nat × Nat × Bool)) (s : State) (engine q id slot : Nat) {key : Nat} (hk : ks key) :
    State.Asks ks s (s.advance engine q id slot key ns) := by
  induction ns generalizing s with
  | nil => exact modShare s engine q id _
  | cons n ns ih =>
    unfold State.advance
    dsimp only
    split
    · exact (noteGranted s engine q id _).trans (ih _)
    · split
      · exact refl s
      · have asked := ask s n.1 ⟨slot, some key, n.2.1, n.2.2, 0⟩ rfl hk
        split
        · exact asked.trans ((noteGranted _ engine q id _).trans (ih _))
        · exact asked

/-- Shares that start ask under their own numbers. -/
theorem startShares (n : Nat) (s : State) (engine q : Nat)
    (hk : ∀ h ∈ (s.quad q).shares engine, ks (shareKey engine q h.id)) : State.Asks ks s (s.startShares engine q n) := by
  induction n generalizing s with
  | zero => exact refl s
  | succ n ih =>
    have later : ∀ t : State, State.Starts engine q s t → ∀ h ∈ (t.quad q).shares engine, ks (shareKey engine q h.id) :=
      fun t starts h ht => by
        have listed : h.queued ∈ ((s.quad q).shares engine).map Share.queued := starts.own ▸ List.mem_map_of_mem ht
        obtain ⟨g, hg, same⟩ := List.mem_map.1 listed
        rw [show h.id = g.id from (congrArg Share.id same).symm]
        exact hk g hg
    unfold State.startShares
    dsimp only
    split
    · exact refl s
    · split
      · exact refl s
      next h found =>
        have phased : ∀ m, State.Starts engine q s (s.modShare engine q h.id (fun h => { h with phase := m })) :=
          fun m => State.Starts.phase s h.id m
        split
        · exact (modShare s engine q h.id _).trans (ih _ (later _ (phased 3)))
        · have advanced := State.Starts.advance (engine := engine) (q := q)
            ((s.modShare engine q h.id (fun h => { h with phase := 1 })).needs engine q h)
            (s.modShare engine q h.id (fun h => { h with phase := 1 })) h.id h.slot (shareKey engine q h.id)
          exact (modShare s engine q h.id _).trans
            ((advance _ _ engine q h.id h.slot (hk h (List.mem_of_find?_eq_some found))).trans
              (ih _ (later _ ((phased 1).trans advanced))))

end State.Asks

/-! ## Entries given up (R187, R237) -/

/-- A scoreboard without the holds of a share. -/
def dropHolds (key : Nat) (t : Table SbEntry) : Table SbEntry :=
  t.foldl (fun t p => tset SbEntry.init t p.1 (p.2.drop (fun h => h.1 = some key))) t

/-- Every entry that a fold writes anew is what it was written as, or was in the table under a key that no write names. -/
theorem mem_foldl_tset {V : Type} [DecidableEq V] {d : V} {f : V → V} {l t : Table V} {p : Nat × V}
    (h : p ∈ l.foldl (fun t p => tset d t p.1 (f p.2)) t) : (∃ v, p.2 = f v) ∨ p ∈ t ∧ ∀ e ∈ l, p.1 ≠ e.1 := by
  induction l generalizing t with
  | nil => exact .inr ⟨h, by simp⟩
  | cons e l ih =>
    rcases ih h with written | ⟨old, apart⟩
    · exact .inl written
    · rcases mem_tset old with rfl | ⟨listed, other⟩
      · exact .inl ⟨e.2, rfl⟩
      · exact .inr ⟨listed, fun a ha => (List.mem_cons.1 ha).elim (fun h => h ▸ other) (apart a)⟩

/-- No share with the number key holds any entry of the scoreboard of quadrant q. -/
def Quad.freeOf (x : Quad) (key : Nat) : Prop := ∀ e ∈ x.sb, ∀ k ∈ e.2.holders, k.1 ≠ some key

theorem not_held_of_mem_dropHolds {t : Table SbEntry} {key : Nat} {e : Nat × SbEntry} (he : e ∈ dropHolds key t) :
    ∀ k ∈ e.2.holders, k.1 ≠ some key := by
  intro k hk own
  rcases mem_foldl_tset (f := fun y : SbEntry => y.drop (fun h => h.1 = some key)) he with ⟨v, dropped⟩ | ⟨listed, apart⟩
  · rw [dropped, SbEntry.drop_holders] at hk
    have := (List.mem_filter.1 hk).2
    simp [own] at this
  · exact apart e listed rfl

/-- The release of a share in one quadrant. -/
def Quad.without (key : Nat) (x : Quad) : Quad :=
  { x with sb := dropHolds key x.sb, sbWait := x.sbWait.filter (fun r => r.share ≠ some key) }

theorem Quad.without_free (key : Nat) (x : Quad) : (x.without key).freeOf key := fun _ he => not_held_of_mem_dropHolds he

theorem State.releaseShare_free (s : State) (key : Nat) {p : Nat} (hp : p < 4) : ((s.releaseShare key).quad p).freeOf key := by
  have stays : ∀ (l : List Nat) (t : State), (t.quad p).freeOf key →
      ((l.foldl (fun (t : State) q => t.modQuad q (Quad.without key)) t).quad p).freeOf key := fun l t ht => by
    refine State.foldl_holds (fun u : State => (u.quad p).freeOf key) _ (fun u r hu => ?_) l t ht
    by_cases hr : p = r
    · subst hr
      rw [State.quad_modQuad_same]
      exact Quad.without_free key _
    · rw [State.quad_modQuad_ne _ _ hr]
      exact hu
  have released : ∀ (l : List Nat) (t : State), p ∈ l →
      ((l.foldl (fun (t : State) q => t.modQuad q (Quad.without key)) t).quad p).freeOf key := fun l => by
    induction l with
    | nil => exact fun _ h => absurd h List.not_mem_nil
    | cons q l ih =>
      intro t h
      by_cases own : p = q
      · subst own
        refine stays l _ ?_
        rw [State.quad_modQuad_same]
        exact Quad.without_free key _
      · exact ih _ ((List.mem_cons.1 h).resolve_left own)
  exact released (List.range 4) s (List.mem_range.2 hp)

/-! ## The hoist of a share (R238, R293, R303) -/

theorem State.writesDone_zero (s : State) (q c : Nat) : s.writesDone q c 0 = true := by
  simp [State.writesDone]

theorem State.evalWaiters_sync (s : State) : s.evalWaiters.sync = s.sync := by
  unfold State.evalWaiters
  refine (State.foldl_keeps State.sync _ (fun s p => ?_) _ _).trans (State.foldl_keeps State.sync _ (fun s p => ?_) _ s)
  · unfold State.evalWatch
    dsimp only
    split
    · split
      · exact State.post_sync _ _ _
      · rfl
    · rfl
  · unfold State.evalSlot
    dsimp only
    split
    · split <;> rfl
    · rfl

theorem State.notifySubs_pens (s : State) (p : Nat) : (s.notifySubs p).sync.pens = s.sync.pens := by
  refine State.foldl_keeps (fun s : State => s.sync.pens) _ (fun s x => ?_) _ s
  unfold State.tellSub
  dsimp only
  split
  · rfl
  · exact congrArg Sync.pens (State.Sends.sendTo s _ _).sync

/-- A hoist that reaches a pennant raises it, and no other. -/
theorem State.hoistPhys_pen (s : State) (p amt : Nat) : (s.hoistPhys p amt).pen p = (s.pen p).hoisted amt := by
  unfold State.hoistPhys
  dsimp only
  split
  next full =>
    rw [Pennant.hoisted, if_neg (by simp [full.2])]
    rfl
  next =>
    split
    next same =>
      rw [same]
      exact congrArg (fun y : Sync => tget Pennant.free y.pens p) s.evalWaiters_sync
    next =>
      have pens := (congrArg Sync.pens (State.evalWaiters_sync _)).trans (State.notifySubs_pens (s.setPen p ((s.pen p).hoisted amt)) p)
      exact (congrArg (tget Pennant.free · p) pens).trans (s.pen_setPen_same p _)

theorem flatMap_range_only {α : Type} (q : Fin 4) (x : α) :
    (List.range 4).flatMap (fun p => if p = q.val then [x] else []) = [x] := by
  fin_cases q <;> rfl

theorem findSome?_range_only {α : Type} (q : Fin 4) (x : α) :
    (List.range 4).findSome? (fun p => if p = q.val then some x else none) = some x := by
  fin_cases q <;> rfl

/-- A hoist to a pennant of this module that waits for no write is ready. -/
theorem State.hoistReady_own (s : State) (q : Nat) {h : PendHoist} (hb : h.binding.kind = 1) (hz : h.before = 0) :
    s.hoistReady q h = true := by
  simp [State.hoistReady, State.behindHoist, hz, State.writesDone_zero, hb]

/-- With no other hoist waiting, one that waits for no write takes effect at once. -/
theorem State.queueHoist_pen (s : State) (q : Fin 4) (c : Nat) (b : PenBinding) {amt : Nat} (ha : amt < 2 ^ 16) (hb : b.kind = 1)
    (alone : ∀ p, (s.quad p).hoists = []) : (s.queueHoist q c b amt 0).pen b.phys.toNat = (s.pen b.phys.toNat).hoisted amt := by
  obtain ⟨h, own⟩ : ∃ h : PendHoist, h = ⟨c, b, BitVec.ofNat 16 amt, 0, s.sync.arrivals⟩ := ⟨_, rfl⟩
  obtain ⟨u, queued⟩ : ∃ u : State, u = s.counted.modQuad q (fun x => { x with hoists := x.hoists ++ [h] }) := ⟨_, rfl⟩
  have hoists : ∀ p, (u.quad p).hoists = if p = q.val then [h] else [] := fun p => by
    rw [queued]
    split
    next hp =>
      rw [hp, State.quad_modQuad_same]
      exact congrArg (· ++ [h]) (alone q)
    next hp =>
      rw [State.quad_modQuad_ne _ _ hp]
      exact alone p
  have all : (List.range 4).flatMap (fun p => (u.quad p).hoists) = [h] := by
    simp only [hoists]
    exact flatMap_range_only q h
  have ready : u.readyHoist = some (q.val, h) := by
    unfold State.readyHoist
    refine Eq.trans (congrArg (List.findSome? · (List.range 4)) (funext fun p => ?_)) (findSome?_range_only q (q.val, h))
    rw [hoists p]
    split
    next hp =>
      rw [List.find?_cons, State.hoistReady_own u p (by rw [own]; exact hb) (by rw [own])]
      rw [hp]
      rfl
    next => rfl
  have run : s.queueHoist q c b amt 0 =
      (u.modQuad q (fun x => { x with hoists := x.hoists.erase h })).hoistPhys b.phys.toNat amt := by
    have once : u.runHoists = u.runHoist := by
      unfold State.runHoists
      rw [all]
      rfl
    have taken : u.runHoist = (u.modQuad q (fun x => { x with hoists := x.hoists.erase h })).hoistBinding h.binding h.amt.toNat := by
      unfold State.runHoist
      rw [ready]
    have amount : h.amt.toNat = amt := by
      rw [own]
      exact (BitVec.toNat_ofNat amt 16).trans (Nat.mod_eq_of_lt ha)
    have queue : s.queueHoist q c b amt 0 = u.runHoists := by
      rw [queued, own]
      rfl
    rw [queue, once, taken, amount, own]
    exact if_pos hb
  rw [run, State.hoistPhys_pen, queued]
  rfl

/-! ## The end of a share (R187, R237, R254, R288) -/

theorem shareKey_inj {engine q i j : Nat} (h : shareKey engine q i = shareKey engine q j) : i = j := by
  unfold shareKey at h
  omega

theorem Share.amt_lt (h : Share) : h.amt < 2 ^ 16 := fld_lt _ _ _

/-- The place and the buffer of a share in its quadrant are free (R238, R247). -/
def Quad.placeFreed (engine id : Nat) (x : Quad) : Quad :=
  { x.setShares engine ((x.shares engine).filter (fun y => decide (y.id ≠ id))) with
    tbuf := if engine = 0 ∧ x.tbuf = some id then none else x.tbuf }

theorem Quad.shares_placeFreed (x : Quad) (engine id : Nat) :
    (x.placeFreed engine id).shares engine = (x.shares engine).filter (fun y => decide (y.id ≠ id)) :=
  x.shares_setShares engine _

theorem Quad.sb_placeFreed (x : Quad) (engine id : Nat) : (x.placeFreed engine id).sb = x.sb := by
  unfold Quad.placeFreed Quad.setShares
  split <;> rfl

theorem Quad.tbuf_placeFreed (x : Quad) (id : Nat) : (x.placeFreed 0 id).tbuf ≠ some id := by
  unfold Quad.placeFreed
  dsimp only
  split
  next => simp
  next kept => exact fun buf => kept ⟨rfl, buf⟩

theorem State.releaseShare_sync (s : State) (key : Nat) : (s.releaseShare key).sync = s.sync := by
  refine State.foldl_keeps State.sync _ (fun t q => ?_) _ s
  rfl

/-- The state of a share's end before the queued shares start. -/
def State.vacated (s : State) (engine q : Nat) (h : Share) (hoists : Bool) : State :=
  ((if hoists then s.queueHoist q h.ctx h.binding h.amt 0 else s).releaseShare (shareKey engine q h.id)).modQuad q
    (Quad.placeFreed engine h.id)

theorem State.endShare_eq (s : State) (engine q : Nat) (h : Share) (hoists : Bool) :
    s.endShare engine q h hoists = (s.vacated engine q h hoists).startShares engine q 64 := rfl

section
variable (s : State) (engine : Nat) (q : Fin 4) (h : Share) (hoists : Bool)

theorem State.vacated_shares : ∀ y ∈ ((s.vacated engine q h hoists).quad q).shares engine, y.id ≠ h.id := by
  intro y hy
  unfold State.vacated at hy
  rw [State.quad_modQuad_same, Quad.shares_placeFreed] at hy
  exact of_decide_eq_true (List.mem_filter.1 hy).2

theorem State.vacated_free {p : Nat} (hp : p < 4) : ((s.vacated engine q h hoists).quad p).freeOf (shareKey engine q h.id) := by
  have released := State.releaseShare_free (if hoists then s.queueHoist q h.ctx h.binding h.amt 0 else s) (shareKey engine q h.id) hp
  unfold State.vacated
  by_cases own : p = q
  · subst own
    rw [State.quad_modQuad_same]
    unfold Quad.freeOf
    rw [Quad.sb_placeFreed]
    exact released
  · rw [State.quad_modQuad_ne _ _ own]
    exact released

/-- The shares that start when one has ended ask under other numbers. -/
theorem State.endShare_asks : State.Asks (· ≠ shareKey engine q h.id) (s.vacated engine q h hoists) (s.endShare engine q h hoists) := by
  rw [State.endShare_eq]
  exact State.Asks.startShares 64 _ engine q fun y hy same =>
    s.vacated_shares engine q h hoists y hy (shareKey_inj same)

theorem State.endShare_free {p : Nat} (hp : p < 4) : ((s.endShare engine q h hoists).quad p).freeOf (shareKey engine q h.id) := by
  intro e he k hk own
  rcases (s.endShare_asks engine q h hoists).holders p e he k hk with ⟨e', he', hk'⟩ | ⟨n, hn, other⟩
  · exact s.vacated_free engine q h hoists hp e' he' k hk' own
  · exact other (Option.some.inj (hn.symm.trans own))

theorem State.endShare_gone : (s.endShare engine q h hoists).share engine q h.id = none := by
  rw [State.endShare_eq]
  have starts := State.Starts.startShares (engine := engine) (q := q) 64 (s.vacated engine q h hoists)
  generalize (s.vacated engine q h hoists).startShares engine q 64 = t at starts ⊢
  unfold State.share
  refine List.find?_eq_none.2 fun y hy same => ?_
  have listed : y.queued ∈ (((s.vacated engine q h hoists).quad q).shares engine).map Share.queued :=
    starts.own ▸ List.mem_map_of_mem hy
  obtain ⟨g, hg, eq⟩ := List.mem_map.1 listed
  refine s.vacated_shares engine q h hoists g hg ?_
  exact (congrArg Share.id eq).trans (of_decide_eq_true same)

theorem State.endShare_tbuf : ((s.endShare 0 q h hoists).quad q).tbuf ≠ some h.id := by
  rw [(s.endShare_asks 0 q h hoists).tbuf]
  unfold State.vacated
  rw [State.quad_modQuad_same]
  exact Quad.tbuf_placeFreed _ h.id

theorem State.vacated_pens : (s.vacated engine q h true).sync.pens = (s.queueHoist q h.ctx h.binding h.amt 0).sync.pens :=
  congrArg Sync.pens (State.releaseShare_sync (s.queueHoist q h.ctx h.binding h.amt 0) (shareKey engine q h.id))

theorem State.endShare_pen (alone : ∀ p, (s.quad p).hoists = []) (hb : h.binding.kind = 1) :
    (s.endShare engine q h true).pen h.binding.phys.toNat = (s.pen h.binding.phys.toNat).hoisted h.amt := by
  have starts := State.Starts.startShares (engine := engine) (q := q) 64 (s.vacated engine q h true)
  have raised := s.queueHoist_pen q h.ctx h.binding h.amt_lt hb alone
  have before := s.vacated_pens engine q h
  rw [State.endShare_eq]
  unfold State.pen at raised ⊢
  rw [← before] at raised
  generalize (s.vacated engine q h true).startShares engine q 64 = t at starts ⊢
  rw [starts.frame]
  exact raised

/-- A share that has ended is gone, holds nothing, has hoisted its pennant, and module memory stays. -/
theorem State.endShare_ended {id : Nat} (hid : h.id = id) : (s.endShare engine q h hoists).share engine q id = none ∧
    (∀ p, p < 4 → ∀ e ∈ ((s.endShare engine q h hoists).quad p).sb, ∀ k ∈ e.2.holders, k.1 ≠ some (shareKey engine q id)) ∧
    (s.endShare engine q h hoists).mem = s.mem ∧ (hoists = true → h.binding.kind = 1 → (∀ p, (s.quad p).hoists = []) →
      (s.endShare engine q h hoists).pen h.binding.phys.toNat = (s.pen h.binding.phys.toNat).hoisted h.amt) := by
  subst hid
  refine ⟨s.endShare_gone engine q h hoists, fun p hp => s.endShare_free engine q h hoists hp, s.endShare_mem _ _ _ _,
    fun hh hb alone => ?_⟩
  rw [hh]
  exact s.endShare_pen engine q h alone hb

end

theorem State.share_id {s : State} {engine q id : Nat} {h : Share} (found : s.share engine q id = some h) : h.id = id := by
  unfold State.share at found
  simpa using List.find?_some found

/-! ## SCOREBOARD_GRANT (R185) -/

/-- The request r leaves the waiting ones of quadrant q and takes its entry. -/
def Quad.granted (x : Quad) (r : SbRequest) : Quad :=
  { x with sbWait := x.sbWait.erase r, sb := (x.modEntry r.entry (fun e => e.hold (r.share, r.write))).sb }

theorem Quad.entry_granted (x : Quad) (r : SbRequest) (e : Nat) :
    (x.granted r).entry e = if e = r.entry then (x.entry e).hold (r.share, r.write) else x.entry e := by
  refine (x.entry_modEntry r.entry e (fun e => e.hold (r.share, r.write))).trans ?_
  split
  next h => rw [h]
  next => rfl

section
variable {q : Fin 4} {s : State} {r : SbRequest}

theorem execScoreboardGrant_of_word (found : s.grantable q [] (s.quad q).sbWait = some r) (word : r.share = none) :
    exec (.scoreboardGrant q) s = .next ((s.setQuad q ((s.quad q).granted r)).modSlot q r.slot (fun y => y.release false)) := by
  change Host.Outcome.next _ = _
  simp only [found]
  unfold Quad.granted
  rw [word]
  rfl

/-- What a share does once it has its entry: it asks on, and others of its engine may start. -/
def State.askOn (s : State) (k : Nat) : State :=
  match s.shareOf k with
  | some p => (s.advanceShare p.1 p.2.1 p.2.2).startShares p.1 p.2.1 64
  | none => s

theorem execScoreboardGrant_of_share (found : s.grantable q [] (s.quad q).sbWait = some r) {k : Nat} (share : r.share = some k) :
    exec (.scoreboardGrant q) s = .next ((s.setQuad q ((s.quad q).granted r)).askOn k) := by
  change Host.Outcome.next _ = _
  simp only [found]
  unfold Quad.granted State.askOn
  rw [share]
  rfl

theorem State.askOn_asks (s : State) (k : Nat) : State.Asks (fun _ => True) s (s.askOn k) := by
  unfold State.askOn
  split
  next p _ =>
    exact (State.Asks.advance _ s p.1 p.2.1 _ _ trivial).trans (State.Asks.startShares 64 _ p.1 p.2.1 fun _ _ => trivial)
  next => exact State.Asks.refl s

theorem State.askOn_frame (s : State) (k : Nat) :
    s.askOn k = { s with quads := (s.askOn k).quads, sync := { s.sync with arrivals := (s.askOn k).sync.arrivals } } := by
  unfold State.askOn
  split
  next p _ =>
    have starts := (State.Starts.advance (engine := p.1) (q := p.2.1) (s.needs p.1 p.2.1 p.2.2) s p.2.2.id p.2.2.slot
      (shareKey p.1 p.2.1 p.2.2.id)).trans (State.Starts.startShares 64 _)
    exact starts.frame
  next => rfl

end

/-! ## The obligation -/

theorem copyShareEnd_ends (q : Fin 4) (id : Nat) (s : State) {h : Share} (found : s.share 0 q id = some h) (moved : h.phase = 3)
    (alone : h.remote = 0) : exec (.copyShareEnd q id) s = .next (s.endShare 0 q h h.penEn0) := by
  change Host.Outcome.next _ = _
  rw [found]
  exact congrArg Host.Outcome.next (if_pos ⟨moved, alone⟩)

theorem copyShareEnd_stays (q : Fin 4) (id : Nat) (s : State)
    (other : ∀ h, s.share 0 q id = some h → h.phase ≠ 3 ∨ h.remote ≠ 0) : exec (.copyShareEnd q id) s = .next s := by
  refine congrArg Host.Outcome.next ?_
  split
  next => rfl
  next h found => exact if_neg fun both => (other h found).elim (· both.1) (· both.2)

theorem mergeShareEnd_ends (q : Fin 4) (id : Nat) (s : State) {h : Share} (found : s.share 1 q id = some h) (moved : h.phase = 3) :
    exec (.mergeShareEnd q id) s = .next (s.endShare 1 q h h.penEn1) := by
  change Host.Outcome.next _ = _
  rw [found]
  exact congrArg Host.Outcome.next (if_pos moved)

theorem mergeShareEnd_stays (q : Fin 4) (id : Nat) (s : State) (other : ∀ h, s.share 1 q id = some h → h.phase ≠ 3) :
    exec (.mergeShareEnd q id) s = .next s := by
  refine congrArg Host.Outcome.next ?_
  split
  next => rfl
  next h found => exact if_neg (other h found)

section
variable (q : Fin 4) (s : State)

theorem transposeBufferGrant_gives {h : Share} (found : (s.quad q).xq.find? (fun h => h.phase = 2 ∧ h.transpose = true) = some h)
    (free : (s.quad q).tbuf = none) (few : (s.quad q).busy 0 < 8) :
    exec (.transposeBufferGrant q) s = .next (s.modQuad q (fun x => { x with tbuf := some h.id })) := by
  change Host.Outcome.next _ = _
  dsimp only
  rw [free, found]
  exact congrArg Host.Outcome.next (if_pos few)

theorem transposeBufferGrant_refuses (refused : (s.quad q).xq.find? (fun h => h.phase = 2 ∧ h.transpose = true) = none ∨
    (s.quad q).tbuf ≠ none ∨ 8 ≤ (s.quad q).busy 0) : exec (.transposeBufferGrant q) s = .next s := by
  refine congrArg Host.Outcome.next ?_
  dsimp only
  split
  next h free found =>
    refine if_neg fun few => ?_
    rcases refused with gone | taken | full
    · exact Option.some_ne_none h (found.symm.trans gone)
    · exact taken free
    · exact Nat.not_lt.2 full few
  next => rfl

/-- The slot whose word is released with its entry; the rest of the quadrant keeps its place. -/
theorem State.slot_granted (r : SbRequest) (i : Nat) :
    ((s.setQuad q ((s.quad q).granted r)).modSlot q r.slot (fun y => y.release false)).slot q i =
      if i = r.slot then (s.slot q i).release false else s.slot q i := by
  have stays : ∀ j, (s.setQuad q ((s.quad q).granted r)).slot q j = s.slot q j := fun j => State.slot_setQuad s q j rfl
  rw [State.slot_modSlot, stays, stays]
  by_cases h : i = r.slot
  · rw [if_pos ⟨rfl, h⟩, if_pos h, h]
  · rw [if_neg fun both => h both.2, if_neg h]

/-- Every grant adds its hold to its entry; a word that had blocked on it is released, and nothing else changes (R185). -/
theorem scoreboardGrant_gives {r : SbRequest} (found : s.grantable q [] (s.quad q).sbWait = some r) :
    ∃ t, exec (.scoreboardGrant q) s = .next t ∧
      (r.share, r.write) ∈ ((t.quad q).entry r.entry).holders ∧ ((t.quad q).entry r.entry).st = 2 ∧
      t = { s with quads := t.quads, sync := { s.sync with arrivals := t.sync.arrivals } } ∧
      (r.share = none → t = { s with quads := t.quads } ∧ (∀ p, p ≠ q.val → t.quad p = s.quad p) ∧
        t.quad q = { s.quad q with sbWait := (s.quad q).sbWait.erase r, sb := (t.quad q).sb, slots := (t.quad q).slots } ∧
        (∀ e, (t.quad q).entry e =
          if e = r.entry then ((s.quad q).entry e).hold (none, r.write) else (s.quad q).entry e) ∧
        ∀ i, t.slot q i = if i = r.slot then (s.slot q i).release false else s.slot q i) := by
  have own := s.quad_setQuad_same q ((s.quad q).granted r)
  have entry : ((s.setQuad q ((s.quad q).granted r)).quad q).entry r.entry = ((s.quad q).entry r.entry).hold (r.share, r.write) := by
    rw [own, Quad.entry_granted, if_pos rfl]
  have held : (r.share, r.write) ∈ (((s.quad q).entry r.entry).hold (r.share, r.write)).holders :=
    List.mem_append_right _ (List.mem_singleton_self _)
  cases share : r.share with
  | some k =>
    have asks := State.askOn_asks (s.setQuad q ((s.quad q).granted r)) k
    refine ⟨_, execScoreboardGrant_of_share found share, ?_, ?_, State.askOn_frame _ k, fun h => absurd h (Option.some_ne_none k)⟩
    · rw [← share]
      exact asks.kept q r.entry _ (entry ▸ held)
    · exact asks.held q r.entry (by rw [entry]; rfl)
  | none =>
    have quad : ((s.setQuad q ((s.quad q).granted r)).modSlot q r.slot (fun y => y.release false)).quad q =
        ((s.quad q).granted r).setSlot r.slot (((s.quad q).granted r).slot r.slot |>.release false) := by
      refine (State.quad_modQuad_same _ _ _).trans ?_
      rw [own]
      rfl
    have entries : ∀ e, (((s.setQuad q ((s.quad q).granted r)).modSlot q r.slot (fun y => y.release false)).quad q).entry e =
        if e = r.entry then ((s.quad q).entry e).hold (none, r.write) else (s.quad q).entry e := fun e => by
      rw [quad, ← share]
      exact (s.quad q).entry_granted r e
    refine ⟨_, execScoreboardGrant_of_word found share, ?_, ?_, rfl, fun _ => ⟨rfl, fun p hp => ?_, ?_, entries, fun i => ?_⟩⟩
    · rw [entries, if_pos rfl]
      exact List.mem_append_right _ (List.mem_singleton_self _)
    · rw [entries, if_pos rfl]
      rfl
    · exact (State.quad_modQuad_ne _ _ hp).trans (State.quad_setQuad_ne _ _ hp)
    · rw [quad]
      rfl
    · exact State.slot_granted q s r i

/-- With no request that can be granted the remote accesses have their turn. -/
theorem scoreboardGrant_passes (found : s.grantable q [] (s.quad q).sbWait = none) :
    exec (.scoreboardGrant q) s = .next s.kvGrant := by
  change Host.Outcome.next _ = _
  dsimp only
  rw [found]

end

/-- Settles O41: the end of a share frees its place before the queued shares start, and these ask under their own numbers; a grant adds
one hold, and what asks on adds holds only. -/
theorem sharesEndAndGrants : Obligations.SharesEndAndGrants := by
  refine ⟨?_, ?_, ?_⟩
  · intro q id s ended
    refine ⟨fun h found moved alone => ?_, copyShareEnd_stays q id s, fun h found moved => ?_, mergeShareEnd_stays q id s⟩
    · have named := State.share_id found
      refine ⟨_, copyShareEnd_ends q id s found moved alone, s.endShare_ended 0 q h h.penEn0 named, ?_⟩
      rw [← named]
      exact s.endShare_tbuf q h h.penEn0
    · exact ⟨_, mergeShareEnd_ends q id s found moved, s.endShare_ended 1 q h h.penEn1 (State.share_id found)⟩
  · intro q s first
    exact ⟨fun h found free few => transposeBufferGrant_gives q s found free few, transposeBufferGrant_refuses q s⟩
  · intro q s x
    refine ⟨fun r found => scoreboardGrant_gives q s found, fun refused => ?_⟩
    rw [scoreboardGrant_passes q s refused]
    refine ⟨fun still => ?_, fun w first => ?_⟩
    · have unready : s.kvGrant = s.answerGrant := by
        unfold State.kvGrant
        rw [List.find?_eq_none.2 fun w hw => Bool.eq_false_iff.1 (still w hw)]
      rw [unready]
      unfold State.answerGrant
      refine ⟨fun unanswered => ?_, fun r a first answered => ?_⟩
      · rw [List.find?_eq_none.2 fun r hr => Bool.eq_false_iff.1 (unanswered r hr)]
      · rw [first]
        dsimp only
        rw [answered]
    · unfold State.kvGrant
      rw [first]

end Sys2Proof.Machine
end

section
/-! PROOF. What memory accesses leave to the accesses that wait, and what they keep of contexts and scoreboards. Reads, writes, drains and
steals change banks, slots, lessons' marks and the error side; entries of the scoreboards, queued and deferred accesses, the numbers of
loads, and what has been sent stay. -/

namespace Sys2Proof.Machine

/-- Between two states every scoreboard keeps its entries, every stack the accesses queued at it, the host's side those that are deferred
or wait, every context the number of its loads; and all that was sent is still sent. -/
structure State.Carries (k s : State) : Prop where
  sb : ∀ q, (s.quad q).sb = (k.quad q).sb
  slate : ∀ i, (s.stack i).slateQ = (k.stack i).slateQ ∧ (s.stack i).slateHolds = (k.stack i).slateHolds
  waiting : s.host.deferred = k.host.deferred ∧ s.host.inFlight = k.host.inFlight
  loads : ∀ c, (s.ctx c).loads = (k.ctx c).loads
  sent : k.out <:+ s.out

namespace State.Carries

variable {k s t : State}

theorem refl (s : State) : s.Carries s := ⟨fun _ => rfl, fun _ => ⟨rfl, rfl⟩, ⟨rfl, rfl⟩, fun _ => rfl, List.suffix_refl _⟩

theorem trans (h : k.Carries s) (h' : s.Carries t) : k.Carries t where
  sb q := (h'.sb q).trans (h.sb q)
  slate i := ⟨(h'.slate i).1.trans (h.slate i).1, (h'.slate i).2.trans (h.slate i).2⟩
  waiting := ⟨h'.waiting.1.trans h.waiting.1, h'.waiting.2.trans h.waiting.2⟩
  loads c := (h'.loads c).trans (h.loads c)
  sent := h.sent.trans h'.sent

/-- A state that differs in other parts only. -/
theorem of_eqs (h : k.Carries s) (hq : t.quads = s.quads) (hk : t.stk = s.stk)
    (hh : t.host.deferred = s.host.deferred ∧ t.host.inFlight = s.host.inFlight) (hc : t.ctxs = s.ctxs) (ho : s.out <:+ t.out) :
    k.Carries t := by
  refine h.trans ⟨fun q => ?_, fun i => ?_, hh, fun c => ?_, ho⟩
  · unfold State.quad; rw [hq]
  · unfold State.stack; rw [hk]; exact ⟨rfl, rfl⟩
  · unfold State.ctx; rw [hc]

theorem foldl {α : Type} {f : State → α → State} (l : List α) (hf : ∀ s a, k.Carries s → k.Carries (f s a)) (h : k.Carries s) :
    k.Carries (l.foldl f s) := State.foldl_holds k.Carries f hf l s h

theorem foldl_snd {α β : Type} {f : β × State → α → β × State} (l : List α) {r : β × State}
    (hf : ∀ r a, k.Carries r.2 → k.Carries (f r a).2) (h : k.Carries r.2) : k.Carries (l.foldl f r).2 := by
  induction l generalizing r with
  | nil => exact h
  | cons a l ih => exact ih (hf r a h)

/-! ## The accessors -/

theorem modQuad (h : k.Carries s) (q : Nat) {f : Quad → Quad} (hf : ∀ x, (f x).sb = x.sb) : k.Carries (s.modQuad q f) := by
  refine h.trans ⟨fun p => ?_, fun _ => ⟨rfl, rfl⟩, ⟨rfl, rfl⟩, fun _ => rfl, List.suffix_refl _⟩
  by_cases hp : p = q
  · subst hp; rw [State.quad_modQuad_same, hf]
  · rw [State.quad_modQuad_ne _ _ hp]

theorem modSlot (h : k.Carries s) (q i : Nat) (f : Slot → Slot) : k.Carries (s.modSlot q i f) := h.modQuad q fun _ => rfl

theorem modCtx (h : k.Carries s) (c : Nat) {f : Ctx → Ctx} (hf : ∀ x, (f x).loads = x.loads) : k.Carries (s.modCtx c f) := by
  refine h.trans ⟨fun _ => rfl, fun _ => ⟨rfl, rfl⟩, ⟨rfl, rfl⟩, fun i => ?_, List.suffix_refl _⟩
  by_cases hi : i = c
  · subst hi; rw [State.ctx_modCtx_same, hf]
  · unfold State.modCtx; rw [State.ctx_setCtx_ne s _ hi]

theorem modStack (h : k.Carries s) (i : Nat) {f : Stack → Stack}
    (hf : ∀ x, (f x).slateQ = x.slateQ ∧ (f x).slateHolds = x.slateHolds) : k.Carries (s.modStack i f) := by
  refine h.trans ⟨fun _ => rfl, fun j => ?_, ⟨rfl, rfl⟩, fun _ => rfl, List.suffix_refl _⟩
  by_cases hj : j = i
  · subst hj; rw [State.stack_modStack_same]; exact hf _
  · rw [State.stack_modStack_ne _ _ hj]; exact ⟨rfl, rfl⟩

theorem modBank (h : k.Carries s) (u : Nat) (f : Bank → Bank) : k.Carries (s.modBank u f) :=
  h.of_eqs rfl rfl ⟨rfl, rfl⟩ rfl (List.suffix_refl _)

theorem modUnit (h : k.Carries s) (u : Nat) (f : BankUnit → BankUnit) : k.Carries (s.modUnit u f) :=
  h.of_eqs rfl rfl ⟨rfl, rfl⟩ rfl (List.suffix_refl _)

theorem withHost (h : k.Carries s) {x : HostSide} (hx : x.deferred = s.host.deferred ∧ x.inFlight = s.host.inFlight) :
    k.Carries { s with host := x } := h.of_eqs rfl rfl hx rfl (List.suffix_refl _)

theorem emit (h : k.Carries s) (o : Output) : k.Carries (s.emit o) :=
  h.of_eqs rfl rfl ⟨rfl, rfl⟩ rfl (List.suffix_cons _ _)

theorem withFree (h : k.Carries s) (n : Nat) : k.Carries { s with free := n } :=
  h.of_eqs rfl rfl ⟨rfl, rfl⟩ rfl (List.suffix_refl _)

theorem withHealth (h : k.Carries s) (x : Health) : k.Carries { s with health := x } :=
  h.of_eqs rfl rfl ⟨rfl, rfl⟩ rfl (List.suffix_refl _)

theorem withSync (h : k.Carries s) (x : Sync) : k.Carries { s with sync := x } :=
  h.of_eqs rfl rfl ⟨rfl, rfl⟩ rfl (List.suffix_refl _)

theorem emcyCtx (h : k.Carries s) (code : BitVec 16) (inst value : Nat) (ctx : BitVec 8) (address : Nat) :
    k.Carries (s.emcyCtx code inst value ctx address) := h.of_eqs rfl rfl ⟨rfl, rfl⟩ rfl (List.suffix_refl _)

theorem addEvent (h : k.Carries s) (kind addr : Nat) : k.Carries (s.addEvent kind addr) := by
  unfold State.addEvent
  exact h.of_eqs rfl rfl ⟨rfl, rfl⟩ rfl (List.suffix_cons _ _)

theorem sends (h : k.Carries s) (out : s.Sends t) : k.Carries t :=
  h.of_eqs out.quads (by rw [out.frame]) (by rw [out.host]; exact ⟨rfl, rfl⟩) out.ctxs out.sent

/-! ## Records, pennants and hoists (R291 to R307, R403) -/

theorem enterBuffer (h : k.Carries s) (c n : Nat) : k.Carries (s.enterBuffer c n) := by
  induction n generalizing s with
  | zero => exact h
  | succ n ih =>
    have entered : ∀ l r, k.Carries (s.setCtx c { s.ctx c with buffer := l, queue := r }) := fun l r =>
      h.modCtx c (f := fun x => { x with buffer := l, queue := r }) fun _ => rfl
    unfold State.enterBuffer
    dsimp only
    split
    · exact h
    · split
      · refine ih ?_
        split
        · exact (entered _ _).modSlot _ _ _
        · exact entered _ _
      · exact h

theorem post (h : k.Carries s) (c : Nat) (r : Report) : k.Carries (s.post c r) := by
  unfold State.post State.postFrom
  split
  · exact h.withHost ⟨rfl, rfl⟩
  · exact (h.modCtx c fun _ => by rfl).enterBuffer c _

theorem evalSlot (h : k.Carries s) (q sl : Nat) : k.Carries (s.evalSlot q sl) := by
  unfold State.evalSlot
  dsimp only
  split
  · split
    · exact h.modSlot q sl _
    · exact h
  · exact h

theorem evalWatch (h : k.Carries s) (c i : Nat) : k.Carries (s.evalWatch c i) := by
  unfold State.evalWatch
  dsimp only
  split
  · split
    · exact (h.modCtx c fun _ => by rfl).post c _
    · exact h
  · exact h

theorem evalWaiters (h : k.Carries s) : k.Carries s.evalWaiters :=
  foldl _ (fun _ p hs => hs.evalWatch p.1 p.2) (foldl _ (fun _ p hs => hs.evalSlot p.1 p.2) h)

theorem notifySubs (h : k.Carries s) (p : Nat) : k.Carries (s.notifySubs p) := by
  refine foldl _ (fun s x hs => ?_) h
  unfold State.tellSub
  dsimp only
  split
  · exact hs.withSync _
  · exact hs.sends (State.Sends.sendTo s _ _)

theorem hoistPhys (h : k.Carries s) (p amt : Nat) : k.Carries (s.hoistPhys p amt) := by
  unfold State.hoistPhys
  dsimp only
  split
  · exact h.withSync _
  · split
    · exact h.evalWaiters
    · exact evalWaiters (notifySubs (h.withSync _) p)

theorem hoistBinding (h : k.Carries s) (b : PenBinding) (amt : Nat) : k.Carries (s.hoistBinding b amt) := by
  unfold State.hoistBinding
  split
  · exact h.hoistPhys _ _
  · split
    · exact h.sends (State.Sends.sendTo s _ _)
    · exact h

theorem runHoists (h : k.Carries s) : k.Carries s.runHoists := by
  refine foldl _ (fun s _ hs => ?_) h
  unfold State.runHoist
  split
  · exact hs
  · exact (hs.modQuad _ fun _ => by rfl).hoistBinding _ _

theorem evalFence (h : k.Carries s) (q sl : Nat) : k.Carries (s.evalFence q sl) := by
  unfold State.evalFence
  dsimp only
  split
  · split
    · exact h.modSlot q sl _
    · exact h
  · exact h

theorem afterDrain (h : k.Carries s) (q : Nat) : k.Carries (s.afterDrain q) := foldl _ (fun _ sl hs => hs.evalFence q sl) h.runHoists

/-! ## Errors found in memory (R36, R349 to R352, R361, R362) -/

theorem retirePlot (h : k.Carries s) (p : Nat) : k.Carries (s.retirePlot p) := by
  unfold State.retirePlot State.emcyEvent
  dsimp only
  split
  · exact h.withHealth _
  · split
    · exact h.withHealth _
    · split
      · exact h
      · exact (h.withHealth _).emcyCtx _ _ _ _ _

theorem queuePlot (h : k.Carries s) (p : Nat) : k.Carries (s.queuePlot p) := by
  unfold State.queuePlot
  dsimp only
  split
  · exact h
  · split
    · exact h.withHealth _
    · exact (h.withHealth _).retirePlot p

theorem noteUe (h : k.Carries s) (col : Nat) : k.Carries (s.noteUe col) := by
  unfold State.noteUe
  dsimp only
  refine queuePlot ?_ _
  have seen : k.Carries ((s.modStack (stackOf (bankOfCol col))
      (fun k => { k with ueCount := bump k.ueCount 1, ueLogged := k.failed })).modBank (bankOfCol col)
      (fun b => { b with ueSeen := true })) := (h.modStack _ fun _ => by exact ⟨rfl, rfl⟩).modBank _ _
  split
  · split
    · exact seen
    · exact seen.emcyCtx _ _ _ _ _
  · split
    · exact seen.addEvent _ _
    · exact (seen.emcyCtx _ _ _ _ _).addEvent _ _

theorem noteRead (h : k.Carries s) (col : Nat) (d : Decoded) : k.Carries (s.noteRead col d) := by
  unfold State.noteRead
  dsimp only
  have noted : k.Carries (if (s.stack (stackOf (bankOfCol col))).failed then s
      else s.modUnit (bankOfCol col) (fun b => { b with ev := b.ev.note d (rowOfCol col) (col % 64) })) := by
    split
    · exact h
    · exact h.modUnit _ _
  split
  · exact noted.noteUe col
  · exact noted

theorem noteCorrected (h : k.Carries s) (col : Nat) : k.Carries (s.noteCorrected col) := by
  unfold State.noteCorrected
  dsimp only
  have counted := (h.modBank (bankOfCol col) (fun b => { b with ceNow := (s.bank (bankOfCol col)).ceNow + 1 })).withHealth
    { s.health with ceTotal := bump s.health.ceTotal 1 }
  split
  · exact (counted.modBank _ _).modStack _ fun _ => by exact ⟨rfl, rfl⟩
  · exact counted

/-! ## Column reads and writes (R333 to R342, R375) -/

theorem linkSend (h : k.Carries s) (st : Nat) (kind : LinkKind) (banks : List Nat) (arg : Nat) :
    k.Carries (s.linkSend st kind banks arg) := by
  unfold State.linkSend
  dsimp only
  split
  · exact h
  · exact h.modStack _ fun _ => by exact ⟨rfl, rfl⟩

theorem linkBank (h : k.Carries s) (bank : Nat) (kind : LinkKind) (arg : Nat) : k.Carries (s.linkBank bank kind arg) := h.linkSend _ _ _ _

theorem storeCol (h : k.Carries s) (col : Nat) (data : List Byte) (poison : Bool) : k.Carries (s.storeCol col data poison) := by
  unfold State.storeCol
  split
  · exact h
  · exact h.of_eqs rfl rfl ⟨rfl, rfl⟩ rfl (List.suffix_refl _)

theorem writeNow (h : k.Carries s) (col : Nat) (data : List Byte) (poison : Bool) : k.Carries (s.writeNow col data poison) :=
  (h.linkBank _ _ _).storeCol col data poison

theorem readNow (h : k.Carries s) (col : Nat) : k.Carries (s.readNow col).2 := by
  have sent := h.linkBank (bankOfCol col) .rd (col % 64)
  unfold State.readNow
  dsimp only
  split
  · exact (sent.noteCorrected col).modStack _ fun _ => by exact ⟨rfl, rfl⟩
  · exact sent.noteUe col
  · exact sent

/-- The columns of a read, one after another. -/
theorem readColumns (h : k.Carries s) (l : List Nat) (cs : List Column) :
    k.Carries (l.foldl (fun (acc : List Column × State) c =>
      let x := acc.2.readNow c
      (acc.1 ++ [x.1], if x.1.ue then x.2.addEvent 0 (32 * c) else x.2)) (cs, s)).2 := by
  refine foldl_snd _ (fun r c hr => ?_) h
  dsimp only
  split
  · exact (hr.readNow c).addEvent _ _
  · exact hr.readNow c

theorem carryRead (h : k.Carries s) (a : Access) : k.Carries (s.carryRead a) := emit (h.readColumns _ _) _

theorem carryColumn (h : k.Carries s) (col : Nat) (data : Line) (en : Word32) (poison : Bool) :
    k.Carries (s.carryColumn col data en poison) := by
  unfold State.carryColumn
  split
  · exact h
  · split
    · exact h.writeNow _ _ _
    · exact (h.readNow col).writeNow _ _ _

theorem carryWrite (h : k.Carries s) (a : Access) (w : WriteData) : k.Carries (s.carryWrite a w) := by
  unfold State.carryWrite
  exact emit (foldl _ (fun s c hs => hs.carryColumn _ _ _ _) h) _

theorem paneFault (h : k.Carries s) (tag : Nat) (wr : Option WriteData) : k.Carries (s.paneFault tag wr) := by
  cases wr <;> exact (h.withHost (by exact ⟨rfl, rfl⟩)).emit _

theorem carry (h : k.Carries s) (a : Access) : k.Carries (s.carry a) := by
  unfold State.carry
  split
  · exact h.paneFault _ _
  · split
    · exact h.carryRead a
    · exact h.carryWrite a _

/-! ## Queued and masked writes (R66, R335 to R342) -/

theorem drainOne (h : k.Carries s) (st : Nat) : k.Carries (s.drainOne st) := (h.modStack _ fun _ => by exact ⟨rfl, rfl⟩).afterDrain _

theorem drainMany (h : k.Carries s) (st n : Nat) : k.Carries (s.drainMany st n) := by
  induction n generalizing s with
  | zero => exact h
  | succ n ih => exact ih (h.drainOne st)

theorem drainColumn (h : k.Carries s) (col : Nat) : k.Carries (s.drainColumn col) := by
  unfold State.drainColumn
  dsimp only
  split
  · exact h
  · exact h.drainMany _ _

theorem hold (h : k.Carries s) (q code n : Nat) : k.Carries (s.modQuad q (fun x => x.hold code n)) :=
  h.modQuad q fun x => by unfold Quad.hold; split <;> rfl

theorem accountOpen (h : k.Carries s) (q code : Nat) : k.Carries (s.accountOpen q code) := by
  unfold State.accountOpen
  split
  · exact (h.withFree _).hold q _ _
  · exact h

theorem accountHold (h : k.Carries s) (q code unit bound : Nat) : k.Carries (s.accountHold q code unit bound) := by
  unfold State.accountHold
  split
  · exact (h.withFree _).hold q _ _
  · exact h

theorem queueWrite (h : k.Carries s) (col : Nat) (ctx : Option Nat) (seq : Nat) (goes : Option Nat) :
    k.Carries (s.queueWrite col ctx seq goes) := by
  unfold State.queueWrite
  dsimp only
  refine modStack ?_ _ fun _ => by exact ⟨rfl, rfl⟩
  split
  · exact h
  · split
    · exact (h.accountOpen _ _).drainOne _
    · exact h.drainOne _

theorem markUnsettled (h : k.Carries s) (c q origin : Nat) : k.Carries (s.markUnsettled c q origin) :=
  h.modCtx c fun x => by unfold Ctx.markUnsettled; split <;> rfl

theorem mergeMasked (h : k.Carries s) (q : Nat) (m : Masked) : k.Carries (s.mergeMasked q m) := by
  have taken := h.modQuad q (f := fun x => { x with masked := x.masked.erase m }) fun _ => rfl
  have queued : ∀ u : State, k.Carries u → k.Carries (if (u.stack (stackOf (bankOfCol m.col))).failed then u.afterDrain q
      else u.queueWrite m.col (some m.ctx) m.seq (some m.due)) := fun u hu => by
    split
    · exact hu.afterDrain q
    · exact hu.queueWrite _ _ _ _
  unfold State.mergeMasked
  generalize s.modQuad q (fun x => { x with masked := x.masked.erase m }) = u at taken ⊢
  dsimp only
  refine queued _ (writeNow ?_ _ _ _)
  split
  · exact (taken.noteRead _ _).markUnsettled _ _ _
  · split
    · exact taken.noteRead _ _
    · exact taken

theorem settleOwn (h : k.Carries s) (col : Nat) : k.Carries (s.settleOwn col) :=
  drainColumn (foldl _ (fun _ m hs => hs.mergeMasked _ m) h) col

/-! ## Rows, refresh operations and steals (R339, R343 to R348, R358) -/

theorem closeRow (h : k.Carries s) (bank half : Nat) : k.Carries (s.closeRow bank half) := (h.linkBank _ _ _).modBank bank _

theorem activateWith {steal : State → State} (hsteal : ∀ s, k.Carries s → k.Carries (steal s)) (h : k.Carries s) (bank : Nat)
    (row : BitVec 16) : k.Carries (s.activateWith steal bank row) := by
  have acted := h.modBank bank (fun b => { b with act := (activate (s.threshold bank) (s.bank bank).act row).1 })
  unfold State.activateWith
  dsimp only
  split
  · refine modBank (modStack ?_ _ fun _ => by exact ⟨rfl, rfl⟩) bank _
    split
    · exact acted
    · exact hsteal _ acted
  · exact acted

theorem applyBand (h : k.Carries s) (st : Nat) : k.Carries (s.applyBand st) := h.modStack _ fun _ => by exact ⟨rfl, rfl⟩

theorem idleOp (h : k.Carries s) (bank : Nat) : k.Carries (s.idleOp bank) := by
  unfold State.idleOp
  dsimp only
  refine applyBand (modQuad (modBank ?_ bank _) _ fun _ => by rfl) _
  split
  · exact h.linkBank _ _ _
  · exact h

theorem linkUnits (h : k.Carries s) (q : Nat) (us : List Nat) (kind : LinkKind) (arg : Nat) : k.Carries (s.linkUnits q us kind arg) := by
  refine foldl _ (fun s i hs => ?_) h
  dsimp only
  split
  · exact hs
  · exact hs.linkSend _ _ _ _

theorem markStolen (h : k.Carries s) (q : Nat) : k.Carries (s.markStolen q) := by
  refine foldl _ (fun s sl hs => ?_) h
  split
  · exact hs.modCtx _ fun _ => rfl
  · exact hs

theorem withBanks (h : k.Carries s) (x : Table Bank) : k.Carries { s with banks := x } :=
  h.of_eqs rfl rfl ⟨rfl, rfl⟩ rfl (List.suffix_refl _)

theorem stealOps (h : k.Carries s) (st : Nat) : k.Carries (s.stealOps st) :=
  ((((((h.modStack st fun _ => by exact ⟨rfl, rfl⟩).accountHold _ _ _ _).linkUnits _ _ _ _).linkUnits _ _ _ _).withBanks _).applyBand
    st).markStolen _

theorem stealN (n : Nat) (h : k.Carries s) (st : Nat) : k.Carries (State.stealN n s st) := by
  induction n generalizing s with
  | zero => exact h.stealOps st
  | succ n ih => exact foldl _ (fun s p hs => (activateWith (fun _ hs => ih hs) hs _ _).linkBank _ _ _) (h.stealOps st)

theorem steal (h : k.Carries s) (st : Nat) : k.Carries (s.steal st) := by
  unfold State.steal
  split
  · exact h
  · exact h.stealN 4 st

theorem relieve (h : k.Carries s) (bank : Nat) : k.Carries (s.relieve bank) := by
  unfold State.relieve
  split
  · exact h
  · split
    · exact h.idleOp bank
    · exact h.steal _

theorem activateRow (h : k.Carries s) (bank : Nat) (row : BitVec 16) : k.Carries (s.activateRow bank row) := by
  unfold State.activateRow
  split
  · exact h
  · exact activateWith (fun s hs => hs.relieve bank) h bank row

theorem openForeign (h : k.Carries s) (bank row : Nat) : k.Carries (s.openForeign bank row) :=
  ((h.activateRow _ _).linkBank _ _ _).modBank bank _

theorem openRow (h : k.Carries s) (bank row : Nat) : k.Carries (s.openRow bank row) := (h.activateRow _ _).modBank bank _

theorem touchRow (h : k.Carries s) (bank row : Nat) : k.Carries (s.touchRow bank row) := by
  unfold State.touchRow
  split
  · split
    · exact h
    · exact (h.closeRow _ _).openForeign _ _
  · exact h.openForeign _ _

end State.Carries

end Sys2Proof.Machine
end

section
/-! PROOF. Allocations, descriptors, loads and halves (O53). -/

namespace Sys2Proof.Machine

/-! ## What is granted acts (R406, R535) -/

section
variable {s : State} {h : Word64} {c : Nat}

theorem State.onCtx_of_grants (hg : s.grantsOn h c) (f : State → State) : s.onCtx h c f = f s := by
  obtain ⟨grants, live, stays⟩ := hg
  unfold State.onCtx
  rw [s.request_of_grants h _ _ grants]
  exact if_pos (by simp [live, stays])

end

/-! ## Ranges (R194, R195) -/

theorem mem_span {lo hi n : Nat} : n ∈ span lo hi ↔ lo ≤ n ∧ n ≤ hi := by
  unfold span
  simp only [List.mem_map, List.mem_range]
  constructor
  · rintro ⟨i, hi, rfl⟩
    omega
  · rintro ⟨h, h'⟩
    exact ⟨n - lo, by omega, by omega⟩

/-- The allocation that a request asks for, in the plots or granules from lo. -/
def allocationAt (staging : Bool) (box : Box) (count lo : Nat) : Allocation :=
  if staging then { Allocation.none with live := true, staging := true, lo := lo, hi := lo + count - 1 }
  else ⟨true, false, box.stackLo, box.stackHi, box.dieLo, box.dieHi, box.bankLo, box.bankHi, lo, lo + count - 1⟩

/-- What a range of an allocation covers is open from l on (R195). -/
def State.rangeOpen (s : State) (c : Nat) (staging : Bool) (box : Box) (count l : Nat) : Prop :=
  ∀ n, l ≤ n → n < l + count →
    if staging then ∀ q ∈ bitsSet (s.ctx c).span, s.granuleOpen q n = true
    else ∀ b ∈ (allocationAt staging box count l).banks, s.plotOpen (2048 * b + n) = true

/-- The units a request may ask for: granules of a quadrant, or plots of a bank. -/
def unitsOf (staging : Bool) : Nat := if staging then granules else 2048

/-- The request of ALLOC before its range is known. -/
def allocationAsked (staging : Bool) (box : Box) : Allocation :=
  if staging then { Allocation.none with live := true, staging := true }
  else ⟨true, false, box.stackLo, box.stackHi, box.dieLo, box.dieHi, box.bankLo, box.bankHi, 0, 0⟩

theorem allocationAsked_at (staging : Bool) (box : Box) (count lo : Nat) :
    { allocationAsked staging box with lo := lo, hi := lo + count - 1 } = allocationAt staging box count lo := by
  cases staging <;> rfl

theorem allocationAt_lo (staging : Bool) (box : Box) (count lo : Nat) : (allocationAt staging box count lo).lo = lo := by
  cases staging <;> rfl

theorem allocationAt_hi (staging : Bool) (box : Box) (count lo : Nat) : (allocationAt staging box count lo).hi = lo + count - 1 := by
  cases staging <;> rfl

theorem allocationAsked_staging (staging : Bool) (box : Box) : (allocationAsked staging box).staging = staging := by
  cases staging <;> rfl

section
variable (s : State) (c : Nat) (staging : Bool) (box : Box) {count : Nat} (hc : 0 < count)
include hc

/-- The test of findRange at one start. -/
theorem State.rangeOpen_iff (l : Nat) :
    (if (allocationAsked staging box).staging then
        (bitsSet (s.ctx c).span).all (fun q => (span l (l + count - 1)).all (fun g => s.granuleOpen q g))
      else (allocationAsked staging box).banks.all (fun b => (span l (l + count - 1)).all (fun i => s.plotOpen (2048 * b + i)))) = true ↔
      s.rangeOpen c staging box count l := by
  have inRange : ∀ n, n ∈ span l (l + count - 1) ↔ l ≤ n ∧ n < l + count := fun n => by
    rw [mem_span]
    omega
  unfold State.rangeOpen
  cases staging with
  | true =>
    simp only [allocationAsked, if_true, List.all_eq_true, inRange]
    exact ⟨fun h n hl hn q hq => h q hq n ⟨hl, hn⟩, fun h q hq n hn => h n hn.1 hn.2 q hq⟩
  | false =>
    simp only [allocationAsked, Bool.false_eq_true, if_false, List.all_eq_true, inRange]
    exact ⟨fun h n hl hn b hb => h b hb n ⟨hl, hn⟩, fun h b hb n hn => h n hn.1 hn.2 b hb⟩

theorem State.findRange_eq_some {lo : Nat} (fits : lo + count ≤ unitsOf staging) (opens : s.rangeOpen c staging box count lo)
    (lowest : ∀ l, l < lo → ¬ s.rangeOpen c staging box count l) :
    s.findRange c (allocationAsked staging box) count = some lo := by
  unfold State.findRange
  rw [List.find?_range_eq_some]
  refine ⟨(s.rangeOpen_iff c staging box hc lo).2 opens, List.mem_range.2 ?_, fun l hl => ?_⟩
  · rw [allocationAsked_staging]
    unfold unitsOf at fits
    omega
  · rw [Bool.not_eq_true', ← Bool.not_eq_true]
    exact fun h => lowest l hl ((s.rangeOpen_iff c staging box hc l).1 h)

theorem State.findRange_eq_none (shut : ∀ l, l + count ≤ unitsOf staging → ¬ s.rangeOpen c staging box count l) :
    s.findRange c (allocationAsked staging box) count = none := by
  unfold State.findRange
  rw [List.find?_range_eq_none]
  intro l hl
  rw [allocationAsked_staging] at hl
  rw [Bool.not_eq_true', ← Bool.not_eq_true]
  refine fun h => shut l ?_ ((s.rangeOpen_iff c staging box hc l).1 h)
  unfold unitsOf
  omega

end

/-! ## ALLOC (R194 to R200, R558) -/

/-- ALLOC of a box or of granules that may be asked for: the range that the context gets, its entry and the answer (R195 to R200). -/
def State.allocate (s : State) (c : Nat) (staging : Bool) (box : Box) (count : Nat) : State :=
  match s.findRange c (allocationAsked staging box) count, (List.range 256).find? (fun i => !(s.allocation c i).live) with
  | some lo, some i =>
    let a := { allocationAsked staging box with lo := lo, hi := lo + count - 1 }
    let holes := if staging then 0 else (s.health.retired.filter (fun p => a.holdsPlot p)).length
    let t := s.modCtx c (fun x => { x with allocs := tset Allocation.none x.allocs i a })
    let excess := if staging then decide (t.stageUse c > (s.cfg c).stageQuota.toNat)
      else decide (t.plotUse c > (s.cfg c).plotQuota.toNat)
    if excess then s.answer Code.overQuota []
    else t.answer Code.ok ([BitVec.ofNat 8 i] ++ toLe 2 a.lo ++ toLe 2 a.hi ++ toLe 4 holes)
  | _, _ => s.answer Code.noSpace []

section
variable {s : State} {h : Word64} {c : Fin 16} (hg : s.grantsOn h c) (staging : Bool) (box : Box) (count : Nat)
include hg

theorem exec_alloc : exec (.alloc h c staging box count) s = .next
    (if count = 0 ∨ (staging = false ∧ boxInModule box = false) then s.answer Code.badRequest []
    else if staging = false ∧
        (box.stackHi ≥ 20 ∨ (span box.stackLo box.stackHi).any (fun st => !(s.ctx c).span.getLsbD (quadOfStack st))) then
      s.answer Code.descExtent []
    else if staging = false ∧ (span box.stackLo box.stackHi).any (fun st => (s.stack st).failed) then s.answer Code.noSpace []
    else s.allocate c staging box count) :=
  congrArg Host.Outcome.next (State.onCtx_of_grants hg _)

variable {staging box count}

theorem exec_alloc_of_bad (bad : ¬ (0 < count ∧ (staging = false → boxInModule box = true))) :
    exec (.alloc h c staging box count) s = .next (s.answer Code.badRequest []) := by
  rw [exec_alloc hg, if_pos]
  by_cases hc : count = 0
  · exact .inl hc
  · refine .inr ⟨?_, ?_⟩
    · by_contra other
      exact bad ⟨Nat.pos_of_ne_zero hc, fun h => absurd h other⟩
    · by_contra other
      exact bad ⟨Nat.pos_of_ne_zero hc, fun _ => by simpa using other⟩

section
variable (good : 0 < count ∧ (staging = false → boxInModule box = true))
include good

theorem exec_alloc_of_good : exec (.alloc h c staging box count) s = .next
    (if staging = false ∧
        (box.stackHi ≥ 20 ∨ (span box.stackLo box.stackHi).any (fun st => !(s.ctx c).span.getLsbD (quadOfStack st))) then
      s.answer Code.descExtent []
    else if staging = false ∧ (span box.stackLo box.stackHi).any (fun st => (s.stack st).failed) then s.answer Code.noSpace []
    else s.allocate c staging box count) := by
  rw [exec_alloc hg, if_neg]
  rintro (none | ⟨bank, bad⟩)
  · omega
  · exact Bool.false_ne_true (bad.symm.trans (good.2 bank))

theorem exec_alloc_of_outside (outside : ¬ (staging = false → box.stackHi < 20 ∧
      ∀ st, box.stackLo ≤ st → st ≤ box.stackHi → (s.ctx c).span.getLsbD (quadOfStack st) = true)) :
    exec (.alloc h c staging box count) s = .next (s.answer Code.descExtent []) := by
  rw [exec_alloc_of_good hg good, if_pos]
  obtain ⟨bank, outside⟩ := Classical.not_imp.1 outside
  refine ⟨bank, ?_⟩
  by_cases far : box.stackHi ≥ 20
  · exact .inl far
  · refine .inr ?_
    rw [List.any_eq_true]
    by_contra none
    refine outside ⟨by omega, fun st lo hi => ?_⟩
    by_contra out
    exact none ⟨st, mem_span.2 ⟨lo, hi⟩, by simpa using out⟩

section
variable (inside : staging = false → box.stackHi < 20 ∧
  ∀ st, box.stackLo ≤ st → st ≤ box.stackHi → (s.ctx c).span.getLsbD (quadOfStack st) = true)
include inside

theorem exec_alloc_of_inside : exec (.alloc h c staging box count) s = .next
    (if staging = false ∧ (span box.stackLo box.stackHi).any (fun st => (s.stack st).failed) then s.answer Code.noSpace []
    else s.allocate c staging box count) := by
  rw [exec_alloc_of_good hg good, if_neg]
  rintro ⟨bank, outside⟩
  obtain ⟨near, spanned⟩ := inside bank
  rcases outside with far | out
  · omega
  · obtain ⟨st, listed, out⟩ := List.any_eq_true.1 out
    obtain ⟨lo, hi⟩ := mem_span.1 listed
    simp [spanned st lo hi] at out

theorem exec_alloc_of_failed (failed : ¬ (staging = false → ∀ st, box.stackLo ≤ st → st ≤ box.stackHi → (s.stack st).failed = false)) :
    exec (.alloc h c staging box count) s = .next (s.answer Code.noSpace []) := by
  rw [exec_alloc_of_inside hg good inside, if_pos]
  obtain ⟨bank, failed⟩ := Classical.not_imp.1 failed
  refine ⟨bank, List.any_eq_true.2 ?_⟩
  by_contra none
  refine failed fun st lo hi => ?_
  by_contra out
  exact none ⟨st, mem_span.2 ⟨lo, hi⟩, by simpa using out⟩

theorem exec_alloc_of_sound (sound : staging = false → ∀ st, box.stackLo ≤ st → st ≤ box.stackHi → (s.stack st).failed = false) :
    exec (.alloc h c staging box count) s = .next (s.allocate c staging box count) := by
  rw [exec_alloc_of_inside hg good inside, if_neg]
  rintro ⟨bank, failed⟩
  obtain ⟨st, listed, out⟩ := List.any_eq_true.1 failed
  obtain ⟨lo, hi⟩ := mem_span.1 listed
  exact Bool.false_ne_true ((sound bank st lo hi).symm.trans out)

end
end
end

/-! ### The entry that an allocation takes (R194, R199) -/

/-- The allocation a becomes entry i of context c. -/
def State.withAllocation (s : State) (c i : Nat) (a : Allocation) : State :=
  s.modCtx c (fun x => { x with allocs := tset Allocation.none x.allocs i a })

/-- A context with this use of plots or granules is within its quota (R199). -/
def State.withinQuota (s : State) (c : Nat) (staging : Bool) (u : State) : Prop :=
  if staging then u.stageUse c ≤ (s.cfg c).stageQuota.toNat else u.plotUse c ≤ (s.cfg c).plotQuota.toNat

section
variable {s : State} {c : Nat} {staging : Bool} {box : Box} {count : Nat}

theorem State.allocate_of_none (hc : 0 < count) (none : (∀ l, l + count ≤ unitsOf staging → ¬ s.rangeOpen c staging box count l) ∨
    ∀ e, e < 256 → (s.allocation c e).live = true) : s.allocate c staging box count = s.answer Code.noSpace [] := by
  unfold State.allocate
  rcases none with shut | full
  · rw [s.findRange_eq_none c staging box hc shut]
  · have entries : (List.range 256).find? (fun i => !(s.allocation c i).live) = Option.none :=
      List.find?_range_eq_none.2 fun e he => by rw [full e he]; rfl
    rw [entries]
    split
    next h => cases h
    next => rfl

variable {lo i : Nat} (hc : 0 < count) (fits : lo + count ≤ unitsOf staging) (opens : s.rangeOpen c staging box count lo)
  (lowest : ∀ l, l < lo → ¬ s.rangeOpen c staging box count l) (hi : i < 256) (free : (s.allocation c i).live = false)
  (first : ∀ j, j < i → (s.allocation c j).live = true)
include hc fits opens lowest hi free first

theorem State.allocate_of_some : s.allocate c staging box count =
    (let a := allocationAt staging box count lo
     let t := s.withAllocation c i a
     let excess := if staging then decide (t.stageUse c > (s.cfg c).stageQuota.toNat)
       else decide (t.plotUse c > (s.cfg c).plotQuota.toNat)
     if excess then s.answer Code.overQuota []
     else t.answer Code.ok ([BitVec.ofNat 8 i] ++ toLe 2 a.lo ++ toLe 2 a.hi ++
       toLe 4 (if staging then 0 else (s.health.retired.filter (fun p => a.holdsPlot p)).length))) := by
  have entry : (List.range 256).find? (fun i => !(s.allocation c i).live) = some i :=
    List.find?_range_eq_some.2 ⟨by rw [free]; rfl, List.mem_range.2 hi, fun j hj => by rw [first j hj]; rfl⟩
  unfold State.allocate
  rw [s.findRange_eq_some c staging box hc fits opens lowest, entry]
  dsimp only
  rw [allocationAsked_at, allocationAt_lo, allocationAt_hi]
  rfl

theorem State.allocate_of_excess (excess : ¬ s.withinQuota c staging (s.withAllocation c i (allocationAt staging box count lo))) :
    s.allocate c staging box count = s.answer Code.overQuota [] := by
  rw [State.allocate_of_some hc fits opens lowest hi free first]
  refine if_pos ?_
  unfold State.withinQuota at excess
  cases staging <;> simpa using excess

theorem State.allocate_of_quota (within : s.withinQuota c staging (s.withAllocation c i (allocationAt staging box count lo))) :
    s.allocate c staging box count =
      (s.withAllocation c i (allocationAt staging box count lo)).answer Code.ok
        ([BitVec.ofNat 8 i] ++ toLe 2 (allocationAt staging box count lo).lo ++ toLe 2 (allocationAt staging box count lo).hi ++
          toLe 4 (if staging then 0
            else (s.health.retired.filter (fun p => (allocationAt staging box count lo).holdsPlot p)).length)) := by
  rw [State.allocate_of_some hc fits opens lowest hi free first]
  refine if_neg ?_
  unfold State.withinQuota at within
  cases staging <;> simpa using within

end

theorem State.withAllocation_allocation (s : State) (c i j : Nat) (a : Allocation) :
    (s.withAllocation c i a).allocation c j = if j = i then a else s.allocation c j := by
  unfold State.allocation State.withAllocation
  rw [State.ctx_modCtx_same]
  exact tget_tset _ _ _ _ _

/-- Stacks of a context's span exist. -/
theorem stack_lt_of_span {x : BitVec 4} {st : Nat} (h : x.getLsbD (quadOfStack st) = true) : st < 20 := by
  have quad := BitVec.lt_of_getLsbD h
  unfold quadOfStack at quad
  omega

/-- A request that can be met gets the lowest open range and the lowest free entry. -/
theorem exec_alloc_gives {s : State} {h : Word64} {c : Fin 16} {staging : Bool} {box : Box} {count lo i : Nat} (hg : s.grantsOn h c)
    (hc : 0 < count) (fits : lo + count ≤ unitsOf staging) (opens : s.rangeOpen c staging box count lo)
    (lowest : ∀ l, l < lo → ¬ s.rangeOpen c staging box count l)
    (bank : staging = false → boxInModule box = true ∧ ∀ st, box.stackLo ≤ st → st ≤ box.stackHi →
      (s.ctx c).span.getLsbD (quadOfStack st) = true ∧ (s.stack st).failed = false)
    (hi : i < 256) (free : (s.allocation c i).live = false) (first : ∀ j, j < i → (s.allocation c j).live = true)
    (within : s.withinQuota c staging (s.withAllocation c i (allocationAt staging box count lo))) :
    ∃ t, exec (.alloc h c staging box count) s = .next t ∧
      (∀ j, t.allocation c j = if j = i then allocationAt staging box count lo else s.allocation c j) ∧
      t.out = .msix 16 :: .mailbox 0 ([BitVec.ofNat 8 i] ++ toLe 2 (allocationAt staging box count lo).lo ++
        toLe 2 (allocationAt staging box count lo).hi ++ toLe 4 (if staging then 0
          else (s.health.retired.filter (fun p => (allocationAt staging box count lo).holdsPlot p)).length)) :: s.out ∧
      t.ctx c = { s.ctx c with allocs := (t.ctx c).allocs } ∧ t = { s with ctxs := t.ctxs, out := t.out } := by
  have inside : staging = false → box.stackHi < 20 ∧
      ∀ st, box.stackLo ≤ st → st ≤ box.stackHi → (s.ctx c).span.getLsbD (quadOfStack st) = true := fun h => by
    obtain ⟨box_, spanned⟩ := bank h
    have order : box.stackLo ≤ box.stackHi := (of_decide_eq_true box_).1
    exact ⟨stack_lt_of_span (spanned _ order (Nat.le_refl _)).1, fun st lo hi => (spanned st lo hi).1⟩
  have run := (exec_alloc_of_sound hg ⟨hc, fun h => (bank h).1⟩ inside fun h st lo hi => ((bank h).2 st lo hi).2).trans
    (congrArg Host.Outcome.next (State.allocate_of_quota hc fits opens lowest hi free first within))
  refine ⟨_, run, fun j => s.withAllocation_allocation c i j _, rfl, ?_, rfl⟩
  have own : (s.withAllocation c i (allocationAt staging box count lo)).ctx c =
      { s.ctx c with allocs := tset Allocation.none (s.ctx c).allocs i (allocationAt staging box count lo) } :=
    s.ctx_modCtx_same c (fun x => { x with allocs := tset Allocation.none x.allocs i (allocationAt staging box count lo) })
  refine Eq.trans own ?_
  exact congrArg (fun a => { s.ctx c with allocs := a }) (congrArg Ctx.allocs own).symm

/-! ## FREE (R202, R362, R543) -/

/-- One plot of an allocation that ends. -/
def State.freePlot (s : State) (p : Nat) : State :=
  if s.health.retired.contains p ∨ (s.stack (stackOf (bankOfPlot p))).failed then s
  else if s.health.queued.contains p then s.retirePlot p
  else { s with health := { s.health with clearing := s.health.clearing ++ [p] } }

/-- t is s after plots have left allocations: some queued ones are retired, some others are being cleared. -/
structure State.Clears (s t : State) : Prop where
  frame : t = { s with health := t.health, mgmt := t.mgmt }
  queued : ∀ p, p ∉ s.health.queued → p ∉ t.health.queued
  retired : ∀ p, p ∉ s.health.queued → p ∉ s.health.retired → p ∉ t.health.retired
  clearing : ∀ p, p ∉ s.health.queued → p ∈ s.health.clearing → p ∈ t.health.clearing

namespace State.Clears

variable {s t u : State}

theorem refl (s : State) : s.Clears s := ⟨rfl, fun _ h => h, fun _ _ h => h, fun _ _ h => h⟩

theorem trans (h : s.Clears t) (h' : t.Clears u) : s.Clears u where
  frame := by
    rw [h'.frame, h.frame]
  queued p hq := h'.queued p (h.queued p hq)
  retired p hq hr := h'.retired p (h.queued p hq) (h.retired p hq hr)
  clearing p hq hc := h'.clearing p (h.queued p hq) (h.clearing p hq hc)

theorem retirePlot (s : State) {p : Nat} (hp : p ∈ s.health.queued) : s.Clears (s.retirePlot p) := by
  have other : ∀ {x : Nat}, x ∉ s.health.queued → x ≠ p := fun hx h => hx (h ▸ hp)
  unfold State.retirePlot State.emcyEvent
  dsimp only
  split
  · exact ⟨rfl, fun x hx h => hx (List.mem_of_mem_erase h), fun _ _ h => h, fun _ _ h => h⟩
  · split
    · refine ⟨rfl, fun x hx h => hx (List.mem_of_mem_erase h), fun x hx hr h => ?_, fun x hx h => ?_⟩
      · exact (List.mem_append.1 h).elim hr fun h => other hx (List.mem_singleton.1 h)
      · exact (List.mem_erase_of_ne (other hx)).2 h
    · split
      · exact refl s
      · exact ⟨rfl, fun _ h => h, fun _ _ h => h, fun _ _ h => h⟩

theorem freePlot (s : State) (p : Nat) : s.Clears (s.freePlot p) := by
  unfold State.freePlot
  split
  · exact refl s
  · split
    next h => exact retirePlot s (List.contains_iff_mem.1 h)
    next => exact ⟨rfl, fun _ h => h, fun _ _ h => h, fun _ _ h => List.mem_append_left _ h⟩

theorem foldl (l : List Nat) (s : State) : s.Clears (l.foldl State.freePlot s) :=
  State.foldl_holds s.Clears State.freePlot (fun t p h => h.trans (freePlot t p)) l s (refl s)

end State.Clears

/-- A plot that is neither retired nor queued, of a stack that works, is cleared when its allocation ends. -/
theorem State.mem_clearing_of_freed (l : List Nat) (s : State) {p : Nat} (hp : p ∈ l) (hr : p ∉ s.health.retired)
    (hq : p ∉ s.health.queued) (hs : (s.stack (stackOf (bankOfPlot p))).failed = false) :
    p ∈ (l.foldl State.freePlot s).health.clearing := by
  induction l generalizing s with
  | nil => cases hp
  | cons a l ih =>
    rw [List.foldl_cons]
    have step := State.Clears.freePlot s a
    by_cases again : p ∈ l
    · refine ih _ again (step.retired p hq hr) (step.queued p hq) ?_
      rw [step.frame]
      exact hs
    · obtain rfl := (List.mem_cons.1 hp).resolve_right again
      refine (State.Clears.foldl l (s.freePlot p)).clearing p (step.queued p hq) ?_
      unfold State.freePlot
      rw [if_neg (by simp [hr, hs]), if_neg (by simpa using hq)]
      exact List.mem_append_right _ (List.mem_singleton_self p)

/-- An allocation that ends leaves its context, and its plots are retired or cleared. -/
theorem State.freeAllocation_clears (s : State) (c i : Nat) :
    (s.withAllocation c i Allocation.none).Clears (s.freeAllocation c i) ∧
      ((s.allocation c i).live = true → (s.allocation c i).staging = false →
        s.freeAllocation c i = (s.allocation c i).plots.foldl State.freePlot (s.withAllocation c i Allocation.none)) := by
  unfold State.freeAllocation
  dsimp only
  split
  next dead => exact ⟨State.Clears.refl _, fun live => absurd (dead.symm.trans live) Bool.false_ne_true⟩
  next =>
    split
    next staging =>
      exact ⟨⟨rfl, fun _ h => h, fun _ _ h => h, fun _ _ h => h⟩, fun _ bank => absurd (bank.symm.trans staging) Bool.false_ne_true⟩
    next => exact ⟨State.Clears.foldl _ _, fun _ _ => rfl⟩

section
variable {s : State} {h : Word64} {c : Fin 16} (hg : s.grantsOn h c) (e : BitVec 8)
include hg

theorem exec_free : exec (.free h c e) s = .next
    (if (s.allocation c e.toNat).live = false then s.answer Code.badRequest []
    else if (s.ctx c).descs.any (fun d => Desc.live d.2 && Desc.alloc d.2 == e.toNat) then s.answer Code.descInUse []
    else (s.freeAllocation c e.toNat).answer Code.ok []) :=
  congrArg Host.Outcome.next (State.onCtx_of_grants hg _)

variable {e}

theorem exec_free_of_dead (dead : (s.allocation c e.toNat).live = false) :
    exec (.free h c e) s = .next (s.answer Code.badRequest []) := by
  rw [exec_free hg, if_pos dead]

theorem exec_free_of_named (live : (s.allocation c e.toNat).live = true)
    (named : ∃ d ∈ (s.ctx c).descs, Desc.live d.2 = true ∧ Desc.alloc d.2 = e.toNat) :
    exec (.free h c e) s = .next (s.answer Code.descInUse []) := by
  rw [exec_free hg, if_neg (by simp [live]), if_pos]
  obtain ⟨d, hd, alive, entry⟩ := named
  exact List.any_eq_true.2 ⟨d, hd, by simp [alive, entry]⟩

theorem exec_free_of_unnamed (live : (s.allocation c e.toNat).live = true)
    (unnamed : ∀ d ∈ (s.ctx c).descs, Desc.live d.2 = true → Desc.alloc d.2 ≠ e.toNat) :
    exec (.free h c e) s = .next ((s.freeAllocation c e.toNat).answer Code.ok []) := by
  rw [exec_free hg, if_neg (by simp [live]), if_neg]
  intro named
  obtain ⟨d, hd, both⟩ := List.any_eq_true.1 named
  obtain ⟨alive, entry⟩ := Bool.and_eq_true_iff.1 both
  exact unnamed d hd alive (beq_iff_eq.1 entry)

/-- An allocation that no descriptor names ends, and its plots are cleared. -/
theorem exec_free_ends (live : (s.allocation c e.toNat).live = true)
    (unnamed : ∀ d ∈ (s.ctx c).descs, Desc.live d.2 = true → Desc.alloc d.2 ≠ e.toNat) :
    ∃ t, exec (.free h c e) s = .next t ∧
      (∀ j, t.allocation c j = if j = e.toNat then Allocation.none else s.allocation c j) ∧
      ((s.allocation c e.toNat).staging = false → ∀ p ∈ (s.allocation c e.toNat).plots, p ∉ s.health.retired →
        p ∉ s.health.queued → (s.stack (stackOf (bankOfPlot p))).failed = false → p ∈ t.health.clearing) ∧
      t = { s with ctxs := t.ctxs, health := t.health, mgmt := t.mgmt, out := .msix 16 :: .mailbox 0 [] :: s.out } := by
  obtain ⟨clears, plots⟩ := s.freeAllocation_clears c e.toNat
  have ended := State.withAllocation_allocation s c e.toNat
  refine ⟨_, exec_free_of_unnamed hg live unnamed, fun j => ?_, fun bank p hp retired queued works => ?_, ?_⟩
  · rw [← ended]
    have ctxs : (s.freeAllocation c e.toNat).ctxs = (s.withAllocation c e.toNat Allocation.none).ctxs := by
      rw [clears.frame]
    exact congrArg (fun t : Table Ctx => tget Allocation.none (tget Ctx.init t c).allocs j) ctxs
  · have cleared := State.mem_clearing_of_freed _ (s.withAllocation c e.toNat Allocation.none) hp retired queued works
    rw [← plots live bank] at cleared
    exact cleared
  · have frame := clears.frame
    generalize s.freeAllocation c e.toNat = t at frame
    rw [frame]
    rfl

end

/-! ## Descriptors (R215, R218, R220) -/

/-- Handle k of context c names the descriptor d, and nothing else changes but the answer. -/
def State.describes (s t : State) (c k : Nat) (d : Desc) : Prop :=
  (∀ j, t.desc c j = if j = k then d else s.desc c j) ∧ t.ctx c = { s.ctx c with descs := (t.ctx c).descs } ∧
    (∀ i, i ≠ c → t.ctx i = s.ctx i) ∧ t = { s with ctxs := t.ctxs, out := .msix 16 :: .mailbox 0 [] :: s.out }

theorem State.describes_modCtx (s : State) (c k : Nat) (d : Desc) :
    s.describes ((s.modCtx c (fun x => { x with descs := tset 0 x.descs k d })).answer Code.ok []) c k d := by
  have own : ((s.modCtx c (fun x => { x with descs := tset 0 x.descs k d })).answer Code.ok []).ctx c =
      { s.ctx c with descs := tset 0 (s.ctx c).descs k d } :=
    s.ctx_modCtx_same c (fun x => { x with descs := tset 0 x.descs k d })
  refine ⟨fun j => ?_, ?_, fun i hi => State.ctx_setCtx_ne s _ hi, rfl⟩
  · unfold State.desc
    rw [own]
    exact tget_tset _ _ _ _ _
  · rw [own]

theorem State.describes_tmod (s : State) (c k : Nat) (f : Desc → Desc) :
    s.describes ((s.modCtx c (fun x => { x with descs := tmod 0 x.descs k f })).answer Code.ok []) c k (f (s.desc c k)) :=
  s.describes_modCtx c k (f (s.desc c k))

section
variable {s : State} {h : Word64} {c : Fin 16} (hg : s.grantsOn h c) (k : BitVec 12) (d : BitVec 512)
include hg

theorem exec_descCreate : exec (.descCreate h c k d) s = .next
    (if (s.desc c k.toNat).live && (s.ctx c).namesHandle k.toNat then s.answer Code.descInUse []
    else if s.checkDesc c k.toNat d = Code.ok then
      (s.modCtx c (fun x => { x with descs := tset 0 x.descs k.toNat d })).answer Code.ok []
    else s.answer (s.checkDesc c k.toNat d) []) := congrArg Host.Outcome.next (State.onCtx_of_grants hg _)

theorem exec_descDestroy : exec (.descDestroy h c k) s = .next
    (if (s.desc c k.toNat).live = false then s.answer Code.badRequest []
    else if (s.ctx c).namesHandle k.toNat then s.answer Code.descInUse []
    else (s.modCtx c (fun x => { x with descs := tset 0 x.descs k.toNat 0 })).answer Code.ok []) :=
  congrArg Host.Outcome.next (State.onCtx_of_grants hg _)

theorem exec_descRead : exec (.descRead h c k) s = .next (s.answer Code.ok (bytesOf 64 (s.desc c k.toNat))) :=
  congrArg Host.Outcome.next (State.onCtx_of_grants hg _)

theorem exec_descClearPoison : exec (.descClearPoison h c k) s = .next
    (if (s.desc c k.toNat).live = false ∨ (s.ctx c).dismissed = false then s.answer Code.badRequest []
    else (s.modCtx c (fun x => { x with descs := tmod 0 x.descs k.toNat (fun d => setBits d 493 1 0) })).answer Code.ok []) :=
  congrArg Host.Outcome.next (State.onCtx_of_grants hg _)

/-- What of the descriptor commands fails, and how. -/
theorem exec_desc_fails :
    let live := (s.desc c k.toNat).live = true
    let named := (s.ctx c).namesHandle k.toNat = true
    let fails (i : Instr) (code : BitVec 16) : Prop := exec i s = .next (s.answer code [])
    (live → named → fails (.descCreate h c k d) Code.descInUse ∧ fails (.descDestroy h c k) Code.descInUse) ∧
    (¬ (live ∧ named) → s.checkDesc c k.toNat d ≠ Code.ok → fails (.descCreate h c k d) (s.checkDesc c k.toNat d)) ∧
    (¬ live → fails (.descDestroy h c k) Code.badRequest) ∧
    (¬ live ∨ (s.ctx c).dismissed = false → fails (.descClearPoison h c k) Code.badRequest) := by
  intro live named fails
  simp only [fails]
  rw [exec_descCreate hg, exec_descDestroy hg, exec_descClearPoison hg]
  refine ⟨fun hl hn => ⟨?_, ?_⟩, fun free bad => ?_, fun dead => ?_, fun no => ?_⟩
  · rw [if_pos (Bool.and_eq_true_iff.2 ⟨hl, hn⟩)]
  · rw [if_neg (by simp [show (s.desc c k.toNat).live = true from hl]), if_pos hn]
  · rw [if_neg fun both => free (Bool.and_eq_true_iff.1 both), if_neg bad]
  · rw [if_pos (Bool.eq_false_iff.2 dead)]
  · rw [if_pos (no.imp (fun dead => Bool.eq_false_iff.2 dead) id)]

/-- What of the descriptor commands succeeds, and what it leaves. -/
theorem exec_desc_succeeds :
    (s.checkDesc c k.toNat d = Code.ok → ((s.desc c k.toNat).live = false ∨ (s.ctx c).namesHandle k.toNat = false) →
      ∃ t, exec (.descCreate h c k d) s = .next t ∧ s.describes t c k.toNat d) ∧
    ((s.desc c k.toNat).live = true → (s.ctx c).namesHandle k.toNat = false →
      ∃ t, exec (.descDestroy h c k) s = .next t ∧ s.describes t c k.toNat 0) ∧
    exec (.descRead h c k) s = .next (s.answer Code.ok (bytesOf 64 (s.desc c k.toNat))) ∧
    ((s.desc c k.toNat).live = true → (s.ctx c).dismissed = true →
      ∃ t, exec (.descClearPoison h c k) s = .next t ∧ s.describes t c k.toNat (setBits (s.desc c k.toNat) 493 1 0)) := by
  rw [exec_descCreate hg, exec_descDestroy hg, exec_descClearPoison hg]
  refine ⟨fun ok free => ⟨_, rfl, ?_⟩, fun live unnamed => ⟨_, rfl, ?_⟩, exec_descRead hg k, fun live dismissed => ⟨_, rfl, ?_⟩⟩
  · rw [if_neg (by rcases free with free | free <;> simp [free]), if_pos ok]
    exact s.describes_modCtx c k.toNat d
  · rw [if_neg (by simp [live]), if_neg (by simp [unnamed])]
    exact s.describes_modCtx c k.toNat 0
  · rw [if_neg (by simp [live, dismissed])]
    exact s.describes_tmod c k.toNat fun d => setBits d 493 1 0

end

/-! ## Loads (R156, R408) -/

/-- The numbers of the loads that the contexts have asked for. -/
def State.loadNumbers (s : State) (c : Nat) : Nat := (s.ctx c).loads

theorem State.Carries.loadNumbers {s t : State} (h : s.Carries t) : t.loadNumbers = s.loadNumbers := funext h.loads

theorem State.settleColumn_loadNumbers (s : State) (col : Nat) : (s.settleColumn col).loadNumbers = s.loadNumbers := by
  unfold State.settleColumn
  dsimp only
  refine (State.foldl_keeps State.loadNumbers _ (fun t a => ?_) _ _).trans ?_
  · exact (State.Carries.carry (State.Carries.foldl _ (fun _ c hc => hc.settleOwn c) (State.Carries.refl t)) a).loadNumbers
  · exact ((State.Carries.refl s).settleOwn col).loadNumbers

theorem State.ctrlRead_loadNumbers (s : State) (col : Nat) : (s.ctrlRead col).2.loadNumbers = s.loadNumbers :=
  ((State.Carries.refl (s.settleColumn col)).touchRow _ _ |>.readNow col).loadNumbers.trans (s.settleColumn_loadNumbers col)

theorem State.readColumns_loadNumbers (cs : List (Nat × Nat)) (bs : List Byte) (s : State) :
    (cs.foldl (fun (acc : List Byte × State) x =>
      let r := acc.2.ctrlRead x.1
      (acc.1 ++ (bytesOf 32 r.1.data).take x.2, r.2)) (bs, s)).2.loadNumbers = s.loadNumbers := by
  induction cs generalizing bs s with
  | nil => rfl
  | cons x cs ih => exact (ih _ _).trans (s.ctrlRead_loadNumbers x.1)

theorem State.readImage_loadNumbers (s : State) (d : Desc) : (s.readImage d).2.loadNumbers = s.loadNumbers :=
  (State.readColumns_loadNumbers _ _ _).trans (State.readColumns_loadNumbers _ _ _)

theorem State.openGates_ctxs (s : State) (cols : List Nat) : (s.openGates cols).ctxs = s.ctxs := by
  refine State.foldl_keeps State.ctxs _ (fun t k => ?_) _ s
  split
  · rfl
  · unfold State.demandGate
    dsimp only
    split
    · rfl
    · split <;> rfl

theorem State.openGates_ctx (s : State) (cols : List Nat) (c : Nat) : (s.openGates cols).ctx c = s.ctx c :=
  congrArg (tget Ctx.init · c) (s.openGates_ctxs cols)

/-- A load that waits with nothing before it begins, or waits on for its columns; its number stays. -/
theorem State.beginLoad_waits_or_begins {s : State} {c n k : Nat} (hw : (s.ctx c).waitLoad = some (n, k))
    (hl : (s.ctx c).loading = none) (ha : (s.ctx c).armed = none) :
    ((s.beginLoad c).ctx c).loads = (s.ctx c).loads ∧
      (((s.beginLoad c).ctx c).waitLoad = some (n, k) ∧ ((s.beginLoad c).ctx c).loading = none ∨
        ((s.beginLoad c).ctx c).waitLoad = none ∧ ∃ image, ((s.beginLoad c).ctx c).loading = some ⟨n, image⟩) := by
  have opened := s.openGates_ctx (s.loadCols (s.desc c k)) c
  cases reached : (s.openGates (s.loadCols (s.desc c k))).reachAll (s.loadCols (s.desc c k)) with
  | false =>
    rw [beginLoad_of_unreached hw hl ha reached, opened]
    exact ⟨rfl, .inl ⟨hw, hl⟩⟩
  | true =>
    obtain ⟨image, begun, loading, -⟩ := beginLoad_of_reached hw hl ha reached
    refine ⟨?_, .inr ⟨begun, image, loading⟩⟩
    rw [State.beginLoad_of_waits hw hl ha]
    dsimp only
    rw [if_neg (by simp [reached]), State.ctx_modCtx_same, ← opened]
    split
    · exact congrFun (State.readImage_loadNumbers _ _) c
    · rfl

section
variable {s : State} {h : Word64} {c : Fin 16} (hg : s.grantsOn h c) (k : BitVec 12)

/-- Context c has asked for one more load, of handle k, which waits. -/
def State.askedLoad (s : State) (c k : Nat) : State :=
  s.setCtx c { s.ctx c with loads := (s.ctx c).loads + 1, waitLoad := some ((s.ctx c).loads + 1, k) }

theorem State.askedLoad_ctx (s : State) (c k : Nat) : (s.askedLoad c k).ctx c =
    { s.ctx c with loads := (s.ctx c).loads + 1, waitLoad := some ((s.ctx c).loads + 1, k) } := s.ctx_setCtx_same c _

include hg

theorem exec_load : exec (.load h c k) s = .next
    (if (s.desc c k.toNat).holdsImage = false then s.answer Code.badRequest []
    else if (s.ctx c).waitLoad.isSome then s.answer Code.loadBusy []
    else ((s.askedLoad c k.toNat).beginLoad c).answer Code.ok (toLe 8 ((s.ctx c).loads + 1))) :=
  congrArg Host.Outcome.next (State.onCtx_of_grants hg _)

variable {k}

theorem exec_load_of_other (other : Desc.holdsImage (s.desc c k.toNat) = false) :
    exec (.load h c k) s = .next (s.answer Code.badRequest []) := by
  rw [exec_load hg, if_pos other]

theorem exec_load_of_waiting (image : Desc.holdsImage (s.desc c k.toNat) = true) (waiting : (s.ctx c).waitLoad ≠ none) :
    exec (.load h c k) s = .next (s.answer Code.loadBusy []) := by
  rw [exec_load hg, if_neg (by simp [image]), if_pos (Option.isSome_iff_ne_none.2 waiting)]

section
variable (image : Desc.holdsImage (s.desc c k.toNat) = true) (clear : (s.ctx c).waitLoad = none)
include image clear

theorem exec_load_asks : exec (.load h c k) s =
    .next (((s.askedLoad c k.toNat).beginLoad c).answer Code.ok (toLe 8 ((s.ctx c).loads + 1))) := by
  rw [exec_load hg, if_neg (by simp [image]), if_neg (by simp [clear])]

/-- Behind an earlier load a load waits. -/
theorem exec_load_behind (behind : (s.ctx c).loading.isSome = true ∨ (s.ctx c).armed.isSome = true) :
    ∃ t, exec (.load h c k) s = .next t ∧
      t.ctx c = { s.ctx c with loads := (s.ctx c).loads + 1, waitLoad := some ((s.ctx c).loads + 1, k.toNat) } ∧
      (∀ i, i ≠ c.val → t.ctx i = s.ctx i) ∧
      t = { s with ctxs := t.ctxs, out := .msix 16 :: .mailbox 0 (toLe 8 ((s.ctx c).loads + 1)) :: s.out } := by
  have idle : (s.askedLoad c k.toNat).beginLoad c = s.askedLoad c k.toNat := by
    refine State.beginLoad_of_idle (.inr ?_)
    rw [State.askedLoad_ctx]
    exact behind.imp Option.isSome_iff_ne_none.1 Option.isSome_iff_ne_none.1
  rw [exec_load_asks hg image clear, idle]
  exact ⟨_, rfl, s.askedLoad_ctx c k.toNat, fun i hi => State.ctx_setCtx_ne s _ hi, rfl⟩

/-- With nothing before it a load begins, or waits for its columns. -/
theorem exec_load_first (none : (s.ctx c).loading = none) (unarmed : (s.ctx c).armed = .none) :
    ∃ t v, exec (.load h c k) s = .next t ∧ exec (.loadBegin c) (s.askedLoad c k.toNat) = .next v ∧
      t = v.answer Code.ok (toLe 8 ((s.ctx c).loads + 1)) ∧ (t.ctx c).loads = (s.ctx c).loads + 1 ∧
      ((t.ctx c).waitLoad = some ((s.ctx c).loads + 1, k.toNat) ∧ (t.ctx c).loading = .none ∨
        (t.ctx c).waitLoad = .none ∧ ∃ image, (t.ctx c).loading = some ⟨(s.ctx c).loads + 1, image⟩) := by
  have own := s.askedLoad_ctx c k.toNat
  obtain ⟨loads, rest⟩ := State.beginLoad_waits_or_begins (s := s.askedLoad c k.toNat) (c := c) (n := (s.ctx c).loads + 1) (k := k.toNat)
    (by rw [own]) (by rw [own]; exact none) (by rw [own]; exact unarmed)
  rw [own] at loads
  exact ⟨_, _, exec_load_asks hg image clear, rfl, rfl, loads, rest⟩

end
end

/-! ## Halves (R149, R151) -/

theorem exec_halfRead {s : State} {h : Word64} (q sl : Fin 4) (half : Bool) (off len : Nat) (hg : s.grants h none) :
    exec (.halfRead h q sl half off len) s = .next
      (if ((s.quad q).shared = false ∧ sl.val ≠ 0) ∨ off + len > halfSize (s.quad q).shared ∨ len > 4092 then
        s.answer Code.badRequest []
      else s.answer Code.ok (readBytes (s.quad q).tt (halfBase (s.quad q).shared sl half + off) len)) :=
  congrArg Host.Outcome.next (s.request_of_grants h none _ hg)

theorem exec_halfRead_fails {s : State} {h : Word64} (q sl : Fin 4) (half : Bool) (off len : Nat) (hg : s.grants h none)
    (out : (s.quad q).shared = false ∧ sl ≠ 0 ∨ halfSize (s.quad q).shared < off + len ∨ 4092 < len) :
    exec (.halfRead h q sl half off len) s = .next (s.answer Code.badRequest []) := by
  rw [exec_halfRead q sl half off len hg, if_pos]
  exact out.imp (fun p => ⟨p.1, fun z => p.2 (Fin.ext z)⟩) id

theorem exec_halfRead_reads {s : State} {h : Word64} (q sl : Fin 4) (half : Bool) (off len : Nat) (hg : s.grants h none)
    (slot : (s.quad q).shared = true ∨ sl = 0) (fits : off + len ≤ halfSize (s.quad q).shared) (short : len ≤ 4092) :
    exec (.halfRead h q sl half off len) s =
      .next (s.answer Code.ok (readBytes (s.quad q).tt (halfBase (s.quad q).shared sl half + off) len)) := by
  rw [exec_halfRead q sl half off len hg, if_neg]
  rintro (⟨unshared, other⟩ | far | long)
  · rcases slot with shared | zero
    · exact Bool.false_ne_true (unshared.symm.trans shared)
    · exact other (congrArg Fin.val zero)
  · omega
  · omega

/-- Settles O53: each command of a session that is granted the context by its conditions, in the order in which they are tested. -/
theorem allocationsDescriptorsAndLoads : Obligations.AllocationsDescriptorsAndLoads := by
  intro h c s hg fails
  refine ⟨?_, ?_, ?_, ?_, ?_, ?_, ?_, ?_, ?_⟩
  · intro staging box count i a opens good inside sound
    refine ⟨exec_alloc_of_bad hg, exec_alloc_of_outside hg, fun hgood hin no => ?_,
      fun lo e hgood hin hsound fits open_ lowest he free first => ?_⟩
    · by_cases works : sound
      · refine (exec_alloc_of_sound hg hgood hin works).trans (congrArg Host.Outcome.next (State.allocate_of_none hgood.1 ?_))
        exact no.resolve_left (not_not_intro works)
      · exact exec_alloc_of_failed hg hgood hin works
    · intro u excess
      exact (exec_alloc_of_sound hg hgood hin hsound).trans (congrArg Host.Outcome.next
        (State.allocate_of_excess hgood.1 fits open_ lowest he free first excess))
  · intro e named
    exact ⟨exec_free_of_dead hg, exec_free_of_named hg⟩
  · intro k d live named
    obtain ⟨inUse, refused, dead, poisoned⟩ := exec_desc_fails hg k d
    exact ⟨inUse, refused, dead, poisoned, exec_load_of_other hg, exec_load_of_waiting hg⟩
  · exact fun q sl half off len grants out => exec_halfRead_fails q sl half off len grants out
  · intro staging box count lo i a opens u hc fits open_ lowest bank hi free first within
    have same : ∀ l, opens l ↔ s.rangeOpen c staging box count l := fun l => by
      cases staging <;> exact Iff.rfl
    exact exec_alloc_gives hg hc fits ((same lo).1 open_) (fun l hl h => lowest l hl ((same l).2 h)) bank hi free first within
  · exact fun e live unnamed => exec_free_ends hg live unnamed
  · intro k d only
    exact exec_desc_succeeds hg k d
  · intro k image clear
    exact ⟨exec_load_behind hg image clear, exec_load_first hg image clear⟩
  · exact fun q sl half off len grants slot fits short => exec_halfRead_reads q sl half off len grants slot fits short

end Sys2Proof.Machine
end

section
/-! PROOF. What a controller leaves as it is while it reaches rows, reads and writes columns: with no write queued or in flight at a
column nothing is settled, and an access changes no more than its own bytes (R339, R342, R375). -/

namespace Sys2Proof.Machine

/-- t is s after accesses to columns and staging lines: queues, masked writes, slots and shares are as before. -/
structure State.Works (s t : State) : Prop where
  frame : t = { s with mem := t.mem, units := t.units, banks := t.banks, stk := t.stk, quads := t.quads, ctxs := t.ctxs, free := t.free,
                       health := t.health, mgmt := t.mgmt, host := t.host, out := t.out }
  quad : ∀ p, t.quad p = { s.quad p with
    holdLen := (t.quad p).holdLen, holdCode := (t.quad p).holdCode, refreshing := (t.quad p).refreshing,
    staging := (t.quad p).staging, stagePoison := (t.quad p).stagePoison }
  stack : ∀ i, (t.stack i).writes = (s.stack i).writes ∧ (t.stack i).slateQ = (s.stack i).slateQ ∧
    (t.stack i).failed = (s.stack i).failed

/-- The accesses were reads: memory and staging lines are as before. -/
structure State.Reads (s t : State) : Prop where
  works : s.Works t
  mem : t.mem = s.mem
  lines : ∀ q, (t.quad q).staging = (s.quad q).staging ∧ (t.quad q).stagePoison = (s.quad q).stagePoison

/-- Nothing is queued or in flight at the columns of a list (R58, R342). -/
structure State.Clear (cols : List Nat) (s : State) : Prop where
  masked : ∀ q, (s.quad q).masked = []
  writes : ∀ k, (s.stack k).writes = []
  slate : ∀ k, ∀ y ∈ (s.stack k).slateQ, ∀ c ∈ cols, c ∉ y.cols

namespace State.Works

variable {s t v : State}

theorem refl (s : State) : s.Works s := ⟨rfl, fun _ => rfl, fun _ => ⟨rfl, rfl, rfl⟩⟩

theorem trans (h : s.Works t) (h' : t.Works v) : s.Works v where
  frame := by
    rw [h'.frame, h.frame]
  quad p := by
    rw [h'.quad p, h.quad p]
  stack i :=
    have ⟨w, a, f⟩ := h.stack i
    have ⟨w', a', f'⟩ := h'.stack i
    ⟨w'.trans w, a'.trans a, f'.trans f⟩

theorem of_quads (hf : t = { s with
    mem := t.mem, units := t.units, banks := t.banks, ctxs := t.ctxs, free := t.free, health := t.health,
    mgmt := t.mgmt, host := t.host, out := t.out }) : s.Works t := by
  have quads : t.quads = s.quads := by rw [hf]
  have stk : t.stk = s.stk := by rw [hf]
  refine ⟨by rw [hf], fun p => ?_, fun i => ?_⟩
  · unfold State.quad
    rw [quads]
  · unfold State.stack
    rw [stk]
    exact ⟨rfl, rfl, rfl⟩

theorem clear {cols : List Nat} (h : s.Works t) (hc : s.Clear cols) : t.Clear cols where
  masked q := by
    rw [h.quad]
    exact hc.masked q
  writes k := (h.stack k).1.trans (hc.writes k)
  slate k y hy := hc.slate k y ((h.stack k).2.1 ▸ hy)

theorem ring (h : s.Works t) : t.ring = s.ring := by rw [h.frame]

theorem share (h : s.Works t) (engine q id : Nat) : t.share engine q id = s.share engine q id := by
  unfold State.share
  rw [h.quad]
  rfl

end State.Works

namespace State.Reads

variable {s t v : State}

theorem refl (s : State) : s.Reads s := ⟨.refl s, rfl, fun _ => ⟨rfl, rfl⟩⟩

theorem trans (h : s.Reads t) (h' : t.Reads v) : s.Reads v where
  works := h.works.trans h'.works
  mem := h'.mem.trans h.mem
  lines q := ⟨(h'.lines q).1.trans (h.lines q).1, (h'.lines q).2.trans (h.lines q).2⟩

theorem of_observed (h : s.Observed t) : s.Reads t where
  works := ⟨by rw [h.frame], fun p => by rw [h.quad p], h.stack⟩
  mem := h.mem
  lines q := by
    rw [h.quad]
    exact ⟨rfl, rfl⟩

theorem of_opens {r : Nat} {us : List Nat} (h : State.Opens True r us s t) : s.Reads t where
  works := ⟨by rw [h.frame], fun p => by rw [h.quad p], h.stack⟩
  mem := by rw [h.frame]
  lines q := by
    rw [h.quad]
    exact ⟨rfl, rfl⟩

theorem modBank (s : State) (u : Nat) (f : Bank → Bank) : s.Reads (s.modBank u f) := ⟨.of_quads rfl, rfl, fun _ => ⟨rfl, rfl⟩⟩

theorem linkBank (s : State) (bank : Nat) (kind : LinkKind) (arg : Nat) : s.Reads (s.linkBank bank kind arg) :=
  of_observed (State.Observed.linkSend s _ _ _ _)

theorem markUnsettled (s : State) (c q origin : Nat) : s.Reads (s.markUnsettled c q origin) :=
  ⟨.of_quads rfl, rfl, fun _ => ⟨rfl, rfl⟩⟩

theorem decodeCol (h : s.Reads t) (c : Nat) : t.decodeCol c = s.decodeCol c := by
  unfold State.decodeCol
  rw [(h.works.stack _).2.2, h.mem]

theorem column (h : s.Reads t) (c : Nat) : t.column c = s.column c := by
  unfold State.column
  rw [h.decodeCol]

/-! ## Rows (R114, R339) -/

theorem closeRow (s : State) (bank half : Nat) : s.Reads (s.closeRow bank half) := (linkBank s _ _ _).trans (modBank _ bank _)

theorem openForeign (s : State) (bank row : Nat) : s.Reads (s.openForeign bank row) :=
  ((of_opens (State.Opens.activateRow (r := 0) s bank _ fun _ _ => trivial)).trans (linkBank _ _ _ _)).trans (modBank _ bank _)

theorem touchRow (s : State) (bank row : Nat) : s.Reads (s.touchRow bank row) := by
  unfold State.touchRow
  split
  · split
    · exact refl s
    · exact (closeRow s _ _).trans (openForeign _ _ _)
  · exact openForeign s _ _

/-! ## Columns (R339, R342, R375) -/

theorem noteCorrected (s : State) (col : Nat) : s.Reads (s.noteCorrected col) := by
  have counted : s.Reads { (s.modBank (bankOfCol col) (fun b => { b with ceNow := (s.bank (bankOfCol col)).ceNow + 1 })) with
      health := { s.health with ceTotal := bump s.health.ceTotal 1 } } := ⟨.of_quads rfl, rfl, fun _ => ⟨rfl, rfl⟩⟩
  unfold State.noteCorrected
  dsimp only
  split
  · exact (counted.trans (modBank _ _ _)).trans (of_observed (State.Observed.modStack _ _ ⟨rfl, rfl, rfl⟩))
  · exact counted

theorem readNow (s : State) (col : Nat) : s.Reads (s.readNow col).2 := by
  have sent := linkBank s (bankOfCol col) .rd (col % 64)
  unfold State.readNow
  dsimp only
  split
  · exact (sent.trans (noteCorrected _ _)).trans (of_observed (State.Observed.modStack _ _ ⟨rfl, rfl, rfl⟩))
  · exact sent.trans (of_observed (State.Observed.noteUe _ _))
  · exact sent

theorem readNow_fst (s : State) (col : Nat) : (s.readNow col).1 = s.column col := (linkBank s (bankOfCol col) .rd (col % 64)).column col

end State.Reads

section
variable {s : State} {col : Nat}

/-- With nothing queued or in flight at a column nothing is settled before its access (R58, R342). -/
theorem State.Clear.slateAhead (h : s.Clear [col]) : s.slateAhead col = [] := by
  have none : (s.stack (stackOf (bankOfCol col))).slateQ.filter (fun a => a.cols.contains col && !a.cols.any s.deferring) = [] := by
    refine List.filter_eq_nil_iff.mpr fun y hy => ?_
    simp [h.slate _ y hy col List.mem_cons_self]
  unfold State.slateAhead
  rw [none]
  rfl

theorem State.Clear.settleOwn (h : s.Clear [col]) : s.settleOwn col = s := by
  rw [State.settleOwn_unmasked (by simp [h.masked]), State.drainColumn_nil (h.writes _)]

theorem State.Clear.settleColumn (h : s.Clear [col]) : s.Reads (s.settleColumn col) := by
  unfold State.settleColumn
  rw [h.slateAhead, h.settleOwn]
  exact .of_observed (State.Observed.modStack s _ ⟨rfl, by simp, rfl⟩)

theorem State.Clear.mono {cols cs : List Nat} (h : s.Clear cols) (hs : cs ⊆ cols) : s.Clear cs :=
  ⟨h.masked, h.writes, fun k y hy c hc => h.slate k y hy c (hs hc)⟩

/-- An access settles its column and reaches its row. -/
theorem State.Clear.reached (h : s.Clear [col]) : s.Reads ((s.settleColumn col).touchRow (bankOfCol col) (rowOfCol col)) :=
  h.settleColumn.trans (.touchRow _ _ _)

theorem State.Clear.ctrlRead (h : s.Clear [col]) : s.Reads (s.ctrlRead col).2 ∧ (s.ctrlRead col).1 = s.column col :=
  ⟨h.reached.trans (.readNow _ col), (State.Reads.readNow_fst _ col).trans (h.reached.column col)⟩

end

/-! ## Writes of whole columns -/

/-- t is s after a write of a column with data and poison. -/
structure State.Wrote (col : Nat) (data : List Byte) (poison : Bool) (s t : State) : Prop where
  works : s.Works t
  raw : ∀ c, t.mem.raw c = if c = col then (Memory.zero.store c data poison).raw c else s.mem.raw c
  lines : ∀ q, (t.quad q).staging = (s.quad q).staging ∧ (t.quad q).stagePoison = (s.quad q).stagePoison

section
variable {s t v : State} {col : Nat} {data : List Byte} {poison : Bool}

theorem State.Reads.wrote (h : s.Reads t) (h' : State.Wrote col data poison t v) : State.Wrote col data poison s v where
  works := h.works.trans h'.works
  raw c := by
    rw [h'.raw, h.mem]
  lines q := ⟨(h'.lines q).1.trans (h.lines q).1, (h'.lines q).2.trans (h.lines q).2⟩

/-- A column that has not failed is written (R557). -/
theorem State.Wrote.storeCol (s : State) (col : Nat) {data : List Byte} (poison : Bool) (h : data.length = 32)
    (hf : (s.stack (stackOf (bankOfCol col))).failed = false) : State.Wrote col data poison s (s.storeCol col data poison) := by
  refine ⟨?_, fun c => ?_, fun q => ?_⟩
  · unfold State.storeCol
    split
    · exact .refl s
    · exact .of_quads rfl
  · rw [State.storeCol_raw s col poison h]
    by_cases hc : c = col
    · subst hc
      rw [if_pos ⟨rfl, hf⟩, if_pos rfl]
    · rw [if_neg (fun e => hc e.1.symm), if_neg hc]
  · unfold State.storeCol
    split <;> exact ⟨rfl, rfl⟩

theorem State.Wrote.writeNow (s : State) (col : Nat) {data : List Byte} (poison : Bool) (h : data.length = 32)
    (hf : (s.stack (stackOf (bankOfCol col))).failed = false) : State.Wrote col data poison s (s.writeNow col data poison) := by
  have sent := State.Reads.linkBank s (bankOfCol col) .wr (col % 64)
  exact sent.wrote (State.Wrote.storeCol _ col poison h ((sent.works.stack _).2.2.trans hf))

theorem State.Wrote.ctrlWrite (s : State) (col : Nat) {data : List Byte} (poison : Bool) (h : data.length = 32)
    (hf : (s.stack (stackOf (bankOfCol col))).failed = false) (hc : s.Clear [col]) :
    State.Wrote col data poison s (s.ctrlWrite col data poison) :=
  hc.reached.wrote (State.Wrote.writeNow _ col poison h ((hc.reached.works.stack _).2.2.trans hf))

/-- What a written column reads, and what another does. -/
theorem State.Wrote.column_same (h : State.Wrote col data poison s t) (hl : data.length = 32)
    (hf : (s.stack (stackOf (bankOfCol col))).failed = false) : t.column col = ⟨BitVec.ofNat 256 (leNat data), poison, false⟩ := by
  have raw := (h.raw col).trans ((if_pos rfl).trans (Memory.raw_store_same _ col data poison hl))
  unfold State.column State.decodeCol Memory.decode
  rw [(h.works.stack _).2.2, hf, raw, rsDecode_append_checkBytes data poison hl]
  cases poison <;> rfl

theorem State.Works.column_of_raw (h : s.Works t) {c : Nat} (hr : t.mem.raw c = s.mem.raw c) : t.column c = s.column c := by
  unfold State.column State.decodeCol Memory.decode
  rw [(h.stack _).2.2, hr]

theorem State.Wrote.column_ne (h : State.Wrote col data poison s t) {c : Nat} (hc : c ≠ col) : t.column c = s.column c :=
  h.works.column_of_raw ((h.raw c).trans (if_neg hc))

end

end Sys2Proof.Machine
end

section
/-! PROOF. O44: an access of the host, from its arrival to its answer (R189, R339, R342, R365 to R379). -/

namespace Sys2Proof.Machine

/-! ## The address of an access (R365, R367, R370 to R373) -/

/-- A request has taken a credit and its number (R377). -/
def State.credited (s : State) : State := { s with host := { s.host with accSeq := s.host.accSeq + 1 } }

/-- The access of a request that is no pane fault (R377). -/
def State.accessOf (s : State) (tag addr : Nat) (wr : Option WriteData) : Access := ⟨tag, addr, wr, 0, s.host.accSeq, [], false⟩

section
variable {s : State} {tag dpa addr : Nat} {wr : Option WriteData}

theorem State.access_stalled (h : 512 ≤ s.host.deferred.length ∨ s.host.stalled ≠ []) :
    s.access tag dpa wr = { s with host := { s.host with stalled := s.host.stalled ++ [⟨tag, dpa, wr⟩] } } :=
  if_pos (h.imp_right fun hs => by simpa using hs)

theorem State.access_admitted (hd : s.host.deferred.length < 512) (hs : s.host.stalled = []) (ht : s.translate dpa = some addr) :
    s.access tag dpa wr = s.credited.receive (s.accessOf tag addr wr) := by
  unfold State.access
  rw [if_neg (by simp [hs, hd])]
  unfold State.take State.admitted
  rw [ht]
  rfl

theorem State.translate_fullMap (hb : s.boot.stage = 7) (hf : s.host.fullMap = true) (hd : dpa < 0x14000000000) :
    s.translate dpa = some (flatToBank dpa) := by
  unfold State.translate
  dsimp only
  rw [if_neg (fun h => h hb), if_pos hd, if_pos hf]

theorem State.translate_pane {o : Nat} (ho : o < 2 ^ 28) (hb : s.boot.stage = 7) (hv : Pane.valid (s.pane (o / 2 ^ 21)) = true)
    (ha : addr = Pane.translate (s.pane (o / 2 ^ 21)) (o % 2 ^ 21)) (he : (s.accessOf tag addr none).exists_ = true)
    (hc : Pane.check (s.pane (o / 2 ^ 21)) = true →
      ∀ c ∈ [addr / 32, (addr / 32 + 1) % 2 ^ 36], s.inAllocation (Pane.ctx (s.pane (o / 2 ^ 21))) (32 * c) = true) :
    s.translate (0x14000000000 + o) = some addr := by
  have offset : 0x14000000000 + o - 0x14000000000 = o := Nat.add_sub_cancel_left _ _
  have allowed : (Pane.check (s.pane (o / 2 ^ 21)) &&
      !([addr / 32, (addr / 32 + 1) % 2 ^ 36].all (fun c => s.inAllocation (Pane.ctx (s.pane (o / 2 ^ 21))) (32 * c)))) = false := by
    cases check : Pane.check (s.pane (o / 2 ^ 21)) with
    | false => rfl
    | true => rw [List.all_eq_true.mpr (hc check)]; rfl
  have found : (⟨0, addr, none, 0, 0, [], false⟩ : Access).exists_ = true := he
  unfold State.translate
  dsimp only
  rw [if_neg (fun h => h hb), if_neg (by omega), offset, ← ha]
  refine if_neg ?_
  rintro (far | invalid | missing | refused)
  · omega
  · exact absurd (hv.symm.trans invalid) (by decide)
  · exact absurd (found.symm.trans missing) (by decide)
  · exact absurd (allowed.symm.trans refused) (by decide)

end

/-! ## Reads behind writes (R377) -/

theorem State.pumpReads_nil {s : State} (h : s.host.inFlight = []) : s.pumpReads = s := by
  have same : ({ s with host := { s.host with inFlight := [] } } : State) = s := by
    conv_rhs => rw [show s = { s with host := { s.host with inFlight := s.host.inFlight } } from rfl, h]
  unfold State.pumpReads
  rw [h]
  exact same

/-! ## An access that arrives -/

section
variable {s : State} {a : Access}

theorem State.receive_deferred (h : a.cols.any s.deferring = true) (hd : s.host.deferred.length < 512) :
    s.receive a = { s with host := { s.host with
      deferred := s.host.deferred ++ [{ s.withDeferrers a with since := s.ring.timebase }] } } := by
  unfold State.receive
  rw [if_pos h]
  exact if_pos hd

theorem State.receive_waits (h : a.cols.any s.deferring = false) (hi : s.host.inFlight = []) (hm : s.mustWait a = true) :
    s.receive a = { s with host := { s.host with inFlight := [a] } } := by
  have entered : s.enterStack a = { s with host := { s.host with inFlight := [a] } } := by
    unfold State.enterStack
    rw [if_neg (by simp [h]), if_pos hm, hi]
    rfl
  unfold State.receive
  rw [if_neg (by simp [h]), entered]
  have read : a.wr = none := by
    unfold State.mustWait at hm
    cases hw : a.wr <;> simp [hw] at hm ⊢
  have waits : ({ s with host := { s.host with inFlight := [a] } } : State).mustWait a = true := by
    unfold State.mustWait State.waitingWrites at hm ⊢
    rw [hi] at hm
    simpa [List.filter_append, read, State.stack] using hm
  unfold State.pumpReads
  simp [waits]

theorem State.demandGate_open {g : Nat} (h : (s.gate g).state = 0) : s.demandGate g = s := if_pos h

theorem State.demandGates_open {l : List Nat} (h : ∀ c ∈ l, (s.gate (quadOf (bankOfCol c))).state = 0) :
    l.foldl (fun (s : State) c => s.demandGate (quadOf (bankOfCol c))) s = s := by
  induction l with
  | nil => rfl
  | cons c l ih =>
    rw [List.foldl_cons, State.demandGate_open (h c List.mem_cons_self)]
    exact ih fun c hc => h c (List.mem_cons_of_mem _ hc)

/-- An access whose gates are open and that waits for no write. -/
theorem State.enterStack_open (h : a.cols.any s.deferring = false) (hm : s.mustWait a = false)
    (hg : ∀ c ∈ a.cols, (s.gate (quadOf (bankOfCol c))).state = 0) : s.enterStack a =
      if s.busyFor a then s.modStack (stackOf (bankOfCol (a.addr / 32))) (fun k => { k with slateQ := k.slateQ ++ [a] }) else s.serve a := by
  unfold State.enterStack
  rw [if_neg (by simp [h]), if_neg (by simp [hm])]
  dsimp only
  rw [State.demandGates_open hg]

theorem State.receive_queued (h : a.cols.any s.deferring = false) (hi : s.host.inFlight = []) (hm : s.mustWait a = false)
    (hg : ∀ c ∈ a.cols, (s.gate (quadOf (bankOfCol c))).state = 0) (hb : s.busyFor a = true) :
    s.receive a = s.modStack (stackOf (bankOfCol (a.addr / 32))) (fun k => { k with slateQ := k.slateQ ++ [a] }) := by
  unfold State.receive
  rw [if_neg (by simp [h]), State.enterStack_open h hm hg, if_pos hb]
  exact State.pumpReads_nil hi

end

/-! ## Serving (R339, R342, R375) -/

theorem State.Clear.carries {s : State} {col : Nat} (h : s.Clear [col]) : s.Carries (s.settleColumn col) := by
  unfold State.settleColumn
  rw [h.slateAhead, h.settleOwn]
  exact (State.Carries.refl s).modStack _ fun _ => by simp

section
variable {s : State} {a : Access}

/-- The columns' rows are reached, and nothing else happens first. -/
theorem State.Clear.reachedAll (l : List Nat) {s : State} (h : s.Clear l) :
    s.Reads (l.foldl (fun (s : State) c => (s.settleColumn c).touchRow (bankOfCol c) (rowOfCol c)) s) ∧
      s.Carries (l.foldl (fun (s : State) c => (s.settleColumn c).touchRow (bankOfCol c) (rowOfCol c)) s) := by
  induction l generalizing s with
  | nil => exact ⟨.refl s, .refl s⟩
  | cons c l ih =>
    have one : s.Clear [c] := h.mono (by simp)
    obtain ⟨reads, carries⟩ := ih (one.reached.works.clear (h.mono (List.subset_cons_self _ _)))
    exact ⟨one.reached.trans reads, (one.carries.touchRow _ _).trans carries⟩

/-- What a served access leaves to be done with a state that reads as before. -/
theorem State.Clear.receive (h : s.Clear a.cols) (hd : a.cols.any s.deferring = false) (hi : s.host.inFlight = [])
    (hm : s.mustWait a = false) (hg : ∀ c ∈ a.cols, (s.gate (quadOf (bankOfCol c))).state = 0) (hb : s.busyFor a = false) :
    ∃ t, s.Reads t ∧ s.receive a = t.carry a := by
  obtain ⟨reads, carries⟩ := h.reachedAll
  refine ⟨_, reads, ?_⟩
  unfold State.receive
  rw [if_neg (by simp [hd]), State.enterStack_open hd hm hg, if_neg (by simp [hb])]
  exact State.pumpReads_nil ((carries.carry a).waiting.2.trans hi)

/-- The columns that a read of the host reads. -/
theorem State.Reads.readColumns {s t : State} (h : s.Reads t) (l : List Nat) (cs : List Column) :
    let r := l.foldl (fun (acc : List Column × State) c =>
      let x := acc.2.readNow c
      (acc.1 ++ [x.1], if x.1.ue then x.2.addEvent 0 (32 * c) else x.2)) (cs, t)
    s.Reads r.2 ∧ r.1 = cs ++ l.map s.column := by
  induction l generalizing t cs with
  | nil => exact ⟨h, (List.append_nil cs).symm⟩
  | cons c l ih =>
    have read := h.trans (State.Reads.readNow t c)
    have value : (t.readNow c).1 = s.column c := (State.Reads.readNow_fst t c).trans (h.column c)
    rw [List.foldl_cons]
    dsimp only
    have noted : s.Reads (if (t.readNow c).1.ue then (t.readNow c).2.addEvent 0 (32 * c) else (t.readNow c).2) := by
      split
      · exact read.trans (.of_observed (State.Observed.addEvent _ _ _))
      · exact read
    obtain ⟨reads, columns⟩ := ih noted (cs ++ [(t.readNow c).1])
    refine ⟨reads, columns.trans ?_⟩
    rw [value, List.append_assoc]
    rfl

/-- A read answers with its columns, and memory stays (R375). -/
theorem State.Reads.carryRead {s t : State} (h : s.Reads t) (a : Access) : (t.carryRead a).mem = s.mem ∧
    (t.carryRead a).out.head? = some (.memRead a.tag
      (BitVec.ofNat 512 (leNat ((a.cols.map s.column).flatMap (fun c => bytesOf 32 c.data)))) ((a.cols.map s.column).any (·.poison))) := by
  obtain ⟨reads, columns⟩ := h.readColumns a.cols []
  rw [List.nil_append] at columns
  refine ⟨reads.mem, ?_⟩
  rw [← columns]
  rfl

/-- What a column holds after a write of some of its bytes (R375). -/
def State.newBytes (s : State) (poison : Bool) (c : Nat) (data : Line) (en : Word32) : List Byte :=
  if en = 0 then s.mem.raw c
  else if en = BitVec.allOnes 32 then (Memory.zero.store c (bytesOf 32 data) poison).raw c
  else (Memory.zero.store c (mergeBytes (s.column c).data data en) (poison || (s.column c).poison)).raw c

theorem State.carryColumn_raw (s : State) (col : Nat) (data : Line) (en : Word32) (poison : Bool)
    (hf : (s.stack (stackOf (bankOfCol col))).failed = false) : s.Works (s.carryColumn col data en poison) ∧
      ∀ c, (s.carryColumn col data en poison).mem.raw c = if c = col then s.newBytes poison c data en else s.mem.raw c := by
  have length : (bytesOf 32 data).length = 32 := bytesOf_length 32 data
  unfold State.carryColumn
  by_cases none : en = 0
  · rw [if_pos none]
    refine ⟨.refl s, fun c => ?_⟩
    unfold State.newBytes
    rw [if_pos none]
    exact (ite_self _).symm
  · rw [if_neg none]
    by_cases all : en = BitVec.allOnes 32
    · rw [if_pos all]
      have wrote := State.Wrote.writeNow s col poison length hf
      refine ⟨wrote.works, fun c => ?_⟩
      rw [wrote.raw]
      unfold State.newBytes
      rw [if_neg none, if_pos all]
    · rw [if_neg all]
      have read := State.Reads.readNow s col
      have wrote := read.wrote (State.Wrote.writeNow (s.readNow col).2 col (poison || (s.readNow col).1.poison)
        (mergeBytes_length (s.readNow col).1.data data en) ((read.works.stack _).2.2.trans hf))
      refine ⟨wrote.works, fun c => ?_⟩
      refine (wrote.raw c).trans (ite_congr rfl (fun hc => ?_) fun _ => rfl)
      subst hc
      unfold State.newBytes
      rw [if_neg none, if_neg all, State.Reads.readNow_fst]

end

end Sys2Proof.Machine
end

section
/-! PROOF. O44: a write's two columns, the slate hold, and the statement (R189, R340, R371, R375). -/

namespace Sys2Proof.Machine

/-! ## The two columns of a write (R375) -/

theorem State.Works.newBytes {s t : State} (h : s.Works t) {c : Nat} (hr : t.mem.raw c = s.mem.raw c) (poison : Bool) (data : Line)
    (en : Word32) : t.newBytes poison c data en = s.newBytes poison c data en := by
  unfold State.newBytes
  rw [hr, h.column_of_raw hr]

theorem State.carryWrite_raw (s : State) (a : Access) (w : WriteData) {c0 c1 : Nat} (hc : a.cols = [c0, c1]) (hne : c0 ≠ c1)
    (hf : ∀ c ∈ [c0, c1], (s.stack (stackOf (bankOfCol c))).failed = false) (c : Nat) :
    (s.carryWrite a w).mem.raw c = if c = c0 then s.newBytes w.poison c (w.data.extractLsb' 0 256) (w.enables.extractLsb' 0 32)
      else if c = c1 then s.newBytes w.poison c (w.data.extractLsb' 256 256) (w.enables.extractLsb' 32 32)
      else s.mem.raw c := by
  obtain ⟨works, first⟩ := State.carryColumn_raw s c0 (w.data.extractLsb' 0 256) (w.enables.extractLsb' 0 32) w.poison
    (hf c0 (by simp))
  obtain ⟨-, second⟩ := State.carryColumn_raw (s.carryColumn c0 (w.data.extractLsb' 0 256) (w.enables.extractLsb' 0 32) w.poison) c1
    (w.data.extractLsb' 256 256) (w.enables.extractLsb' 32 32) w.poison ((works.stack _).2.2.trans (hf c1 (by simp)))
  unfold State.carryWrite
  rw [hc]
  refine (second c).trans ?_
  by_cases h1 : c = c1
  · subst h1
    have kept := (first c).trans (if_neg hne.symm)
    rw [if_pos rfl, if_neg hne.symm, if_pos rfl, works.newBytes kept]
  · rw [if_neg h1, if_neg h1, first]

/-! ## Accesses of a slate hold are answered (R340, R375) -/

/-- An answer to an access has been sent. -/
def State.answered (s : State) (a : Access) : Prop :=
  if a.wr.isSome then .memWrite a.tag ∈ s.out else ∃ d p, .memRead a.tag d p ∈ s.out

theorem State.answered.later {s t : State} {a : Access} (h : s.answered a) (ho : s.out <:+ t.out) : t.answered a := by
  unfold State.answered at h ⊢
  by_cases write : a.wr.isSome = true
  · rw [if_pos write] at h ⊢
    exact ho.subset h
  · rw [if_neg write] at h ⊢
    obtain ⟨d, p, hd⟩ := h
    exact ⟨d, p, ho.subset hd⟩

theorem State.carry_answered (s : State) (a : Access) : (s.carry a).answered a := by
  cases hw : a.wr with
  | none =>
    have sent : ∃ u : State, ∃ d p, s.carry a = u.emit (.memRead a.tag d p) := by
      unfold State.carry
      rw [hw]
      split
      · exact ⟨_, _, _, rfl⟩
      · exact ⟨_, _, _, rfl⟩
    obtain ⟨u, d, p, e⟩ := sent
    unfold State.answered
    rw [if_neg (by simp [hw]), e]
    exact ⟨d, p, List.mem_cons_self⟩
  | some w =>
    have sent : ∃ u : State, s.carry a = u.emit (.memWrite a.tag) := by
      unfold State.carry
      rw [hw]
      split
      · exact ⟨_, rfl⟩
      · exact ⟨_, rfl⟩
    obtain ⟨u, e⟩ := sent
    unfold State.answered
    rw [if_pos (by simp [hw]), e]
    exact List.mem_cons_self

theorem State.Carries.serveHeld {k s : State} (h : k.Carries s) (a : Access) : k.Carries (s.serveHeld a) :=
  State.Carries.carry (State.Carries.foldl _ (fun _ _ hs => (hs.settleOwn _).touchRow _ _) h) a

theorem State.serveHeld_answered (as : List Access) (s : State) {a : Access} (ha : a ∈ as) :
    (as.foldl (fun (s : State) a => s.serveHeld a) s).answered a := by
  induction as generalizing s with
  | nil => exact absurd ha List.not_mem_nil
  | cons b as ih =>
    rcases List.mem_cons.mp ha with rfl | later
    · have rest : (s.serveHeld a).Carries (as.foldl (fun (s : State) a => s.serveHeld a) (s.serveHeld a)) :=
        State.Carries.foldl as (fun _ a hs => hs.serveHeld a) (.refl _)
      exact (State.carry_answered _ a).later rest.sent
    · exact ih _ later

theorem State.holdServe_carries (s : State) (as : List Access) :
    s.Carries (s.holdServe as) ∧ ∀ a ∈ as, (s.holdServe as).answered a := by
  unfold State.holdServe
  dsimp only
  have closed : s.Carries ((s.inWay (accessRows as)).foldl (fun (s : State) w => s.closeRow w.1 (w.2 % 2)) s) :=
    State.Carries.foldl _ (fun _ w hs => hs.closeRow w.1 _) (.refl s)
  have opened : ∀ t : State, t.Carries ((s.inWay (accessRows as)).foldl
      (fun (s : State) w => ((s.closeRow w.1 (w.2 % 2)).linkBank w.1 .act w.2).openRow w.1 w.2) t) := fun t =>
    State.Carries.foldl _ (fun _ w hs => ((hs.closeRow w.1 _).linkBank w.1 _ _).openRow w.1 w.2) (.refl t)
  refine ⟨(State.Carries.foldl as (fun _ a hs => hs.serveHeld a) closed).trans (opened _), fun a ha => ?_⟩
  exact (State.serveHeld_answered as _ ha).later (opened _).sent

/-! ## Deferral in a slate hold (R189, R379) -/

/-- t is s with accesses deferred, and in flight only those that an entry defers. -/
structure State.Defers (s t : State) : Prop where
  frame : t = { s with host := t.host }
  inFlight : ∀ a ∈ t.host.inFlight, a.cols.any s.deferring = true

namespace State.Defers

variable {s t : State}

theorem deferring (h : s.Defers t) (c : Nat) : t.deferring c = s.deferring c := by
  rw [h.frame]
  rfl

theorem defer (h : s.Defers t) {a : Access} (ha : a.cols.any s.deferring = true) : s.Defers (t.defer a) := by
  unfold State.defer
  split
  · exact ⟨by rw [h.frame], h.inFlight⟩
  · refine ⟨by rw [h.frame], fun b hb => ?_⟩
    rcases List.mem_append.mp hb with old | new
    · exact h.inFlight b old
    · rw [List.mem_singleton.mp new]
      exact ha

theorem defers {l : List Access} (h : s.Defers t) (hl : ∀ a ∈ l, a.cols.any s.deferring = true) :
    s.Defers (l.foldl (fun (s : State) a => s.defer a) t) := by
  induction l generalizing t with
  | nil => exact h
  | cons a l ih => exact ih (h.defer (hl a List.mem_cons_self)) fun b hb => hl b (List.mem_cons_of_mem _ hb)

/-- Reads that an entry defers do not go on to a stack. -/
theorem enterStacks {l : List Access} (h : s.Defers t) (hl : ∀ a ∈ l, a.cols.any s.deferring = true) :
    s.Defers (l.foldl (fun (s : State) a => s.enterStack a) t) := by
  induction l generalizing t with
  | nil => exact h
  | cons a l ih =>
    have here := hl a List.mem_cons_self
    have entered : t.enterStack a = t.defer a := if_pos (by rwa [funext h.deferring])
    rw [List.foldl_cons, entered]
    exact ih (h.defer here) fun b hb => hl b (List.mem_cons_of_mem _ hb)

end State.Defers

theorem State.pumpReads_deferring {s : State} (h : ∀ a ∈ s.host.inFlight, a.cols.any s.deferring = true) :
    s.pumpReads = { s with host := s.pumpReads.host } := by
  have start : s.Defers { s with host := { s.host with inFlight := s.host.inFlight.filter (fun a => s.mustWait a) } } :=
    ⟨rfl, fun a ha => h a (List.mem_of_mem_filter ha)⟩
  exact (start.enterStacks fun a ha => h a (List.mem_of_mem_filter ha)).frame

/-- With room for all of them every access is deferred, with its lessons and from now on. -/
theorem State.defer_room (l : List Access) (s : State) (h : s.host.deferred.length + l.length ≤ 512) :
    l.foldl (fun (s : State) a => s.defer a) s = { s with host := { s.host with
      deferred := s.host.deferred ++ l.map (fun a => { s.withDeferrers a with since := s.ring.timebase }) } } := by
  induction l generalizing s with
  | nil => rw [List.map_nil, List.append_nil]; rfl
  | cons a l ih =>
    rw [List.length_cons] at h
    have first : s.defer a = { s with host := { s.host with
        deferred := s.host.deferred ++ [{ s.withDeferrers a with since := s.ring.timebase }] } } := if_pos (by omega)
    rw [List.foldl_cons, first, ih _ (by simp; omega)]
    simp only [List.append_assoc]
    rfl

/-! ## The slate hold (R340) -/

/-- The hold is counted, and what it leaves is queued. -/
def State.holdTaken (s : State) (st : Nat) : State :=
  let go := (s.stack st).slateQ.filter (fun a => !a.cols.any s.deferring)
  s.modStack st (fun k => { k with slateQ := (oneRow go).2, slateHolds := bump k.slateHolds 1 })

/-- The hold's accesses are out of the queue, those that entries defer are deferred. -/
def State.holdBegun (s : State) (st : Nat) : State :=
  ((s.stack st).slateQ.filter (fun a => a.cols.any s.deferring)).foldl (fun (s : State) a => s.defer a) (s.holdTaken st)

/-- A hold's accesses are served, and reads that waited for them go on. -/
def State.holdDone (s : State) (q : Nat) (as : List Access) : State :=
  ((s.accountHold q Sat.column 1 (holdBeats as * (s.quad q).beatLen)).holdServe as).pumpReads

theorem execSlateHold_idle {s : State} {st : Fin 20} (h : (s.stack st).slateQ.filter (fun a => !a.cols.any s.deferring) = [] ∨
    s.selfRefresh (quadOfStack st) = true ∨ (s.stack st).recovering = true) : execSlateHold st s = .next s.pumpReads :=
  congrArg Host.Outcome.next (if_pos (h.imp_left fun e => by rw [e]; rfl))

theorem execSlateHold_serves {s : State} {st : Fin 20} (h : (s.stack st).slateQ.filter (fun a => !a.cols.any s.deferring) ≠ [])
    (hs : s.selfRefresh (quadOfStack st) = false) (hr : (s.stack st).recovering = false) : execSlateHold st s =
      .next ((s.holdBegun st).holdDone (quadOfStack st)
        (oneRow ((s.stack st).slateQ.filter (fun a => !a.cols.any s.deferring))).1) :=
  congrArg Host.Outcome.next (if_neg (by simpa [hs, hr] using h))

theorem State.holdBegun_defers (s : State) (st : Nat) (hi : s.host.inFlight = []) : (s.holdTaken st).Defers (s.holdBegun st) :=
  State.Defers.defers ⟨rfl, fun a ha => absurd (hi ▸ ha : a ∈ []) List.not_mem_nil⟩ fun _ ha => (List.mem_filter.mp ha).2

/-- What a hold does to the queue, its count, the deferred accesses and the answers. -/
theorem State.hold_serves (s : State) (st : Nat) (hi : s.host.inFlight = []) :
    let go := (s.stack st).slateQ.filter (fun a => !a.cols.any s.deferring)
    let held := (s.stack st).slateQ.filter (fun a => a.cols.any s.deferring)
    let t := (s.holdBegun st).holdDone (quadOfStack st) (oneRow go).1
    (t.stack st).slateQ = (oneRow go).2 ∧ (t.stack st).slateHolds = bump (s.stack st).slateHolds 1 ∧
      (s.host.deferred.length + held.length ≤ 512 →
        t.host.deferred = s.host.deferred ++ held.map (fun a => { s.withDeferrers a with since := s.ring.timebase })) ∧
      ∀ a ∈ (oneRow go).1, t.answered a := by
  intro go held t
  have begun := s.holdBegun_defers st hi
  have room : s.host.deferred.length + held.length ≤ 512 → (s.holdBegun st).host = { s.host with
      deferred := s.host.deferred ++ held.map (fun a => { s.withDeferrers a with since := s.ring.timebase }) } := fun h =>
    congrArg State.host (State.defer_room held (s.holdTaken st) h)
  have own : ((s.holdBegun st).stack st).slateQ = (oneRow go).2 ∧
      ((s.holdBegun st).stack st).slateHolds = bump (s.stack st).slateHolds 1 := by
    have stack : (s.holdBegun st).stack st = (s.holdTaken st).stack st := by rw [begun.frame]; rfl
    rw [stack]
    unfold State.holdTaken
    rw [State.stack_modStack_same]
    exact ⟨rfl, rfl⟩
  have deferring : ∀ a ∈ (s.holdBegun st).host.inFlight, a.cols.any (s.holdBegun st).deferring = true := fun a ha => by
    rw [funext begun.deferring]
    exact begun.inFlight a ha
  have done : t = (s.holdBegun st).holdDone (quadOfStack st) (oneRow go).1 := rfl
  clear_value t
  generalize s.holdBegun st = u at own room deferring done
  have carries := ((State.Carries.refl u).accountHold (quadOfStack st) Sat.column 1
    (holdBeats (oneRow go).1 * (u.quad (quadOfStack st)).beatLen)).trans (State.holdServe_carries _ (oneRow go).1).1
  have answers := (State.holdServe_carries (u.accountHold (quadOfStack st) Sat.column 1
    (holdBeats (oneRow go).1 * (u.quad (quadOfStack st)).beatLen)) (oneRow go).1).2
  unfold State.holdDone at done
  generalize State.holdServe _ (oneRow go).1 = v at carries answers done
  have same : v.deferring = u.deferring := by
    funext c
    unfold State.deferring
    rw [carries.sb]
  have frame := State.pumpReads_deferring (s := v) (by rw [carries.waiting.2, same]; exact deferring)
  have stack : t.stack st = v.stack st := by rw [done, frame]; rfl
  have out : t.out = v.out := by rw [done, frame]
  refine ⟨?_, ?_, fun h => ?_, fun a ha => (answers a ha).later (by rw [out])⟩
  · rw [stack, (carries.slate st).1, own.1]
  · rw [stack, (carries.slate st).2, own.2]
  · have idle : v.host.inFlight = [] := by rw [carries.waiting.2, room h, hi]
    rw [done, State.pumpReads_nil idle, carries.waiting.1, room h]

/-! ## An access with a credit -/

/-- A read whose columns nothing waits at answers with them. -/
theorem State.receive_read {u : State} {a : Access} {c0 c1 : Nat} (hc : a.cols = [c0, c1]) (h : u.Clear a.cols)
    (hd : a.cols.any u.deferring = false) (hi : u.host.inFlight = []) (hm : u.mustWait a = false)
    (hg : ∀ c ∈ a.cols, (u.gate (quadOf (bankOfCol c))).state = 0) (hb : u.busyFor a = false) (hf : a.fault = false) (hw : a.wr = none) :
    (u.receive a).mem = u.mem ∧ (u.receive a).out.head? = some (.memRead a.tag
      (BitVec.ofNat 512 (leNat (bytesOf 32 (u.column c0).data ++ bytesOf 32 (u.column c1).data)))
      ((u.column c0).poison || (u.column c1).poison)) := by
  obtain ⟨t, reads, e⟩ := h.receive hd hi hm hg hb
  have carried : t.carry a = t.carryRead a := by
    unfold State.carry
    rw [hf, hw]
    rfl
  obtain ⟨mem, out⟩ := reads.carryRead a
  rw [e, carried]
  refine ⟨mem, out.trans ?_⟩
  simp [hc]

/-- A write whose columns nothing waits at stores its bytes and is answered. -/
theorem State.receive_write {u : State} {a : Access} {c0 c1 : Nat} (hc : a.cols = [c0, c1]) (hne : c0 ≠ c1) (h : u.Clear a.cols)
    (hd : a.cols.any u.deferring = false) (hi : u.host.inFlight = []) (hm : u.mustWait a = false)
    (hg : ∀ c ∈ a.cols, (u.gate (quadOf (bankOfCol c))).state = 0) (hb : u.busyFor a = false) (hf : a.fault = false)
    {w : WriteData} (hw : a.wr = some w) (hk : ∀ c ∈ [c0, c1], (u.stack (stackOf (bankOfCol c))).failed = false) :
    (u.receive a).out.head? = some (.memWrite a.tag) ∧ ∀ c, (u.receive a).mem.raw c =
      if c = c0 then u.newBytes w.poison c (w.data.extractLsb' 0 256) (w.enables.extractLsb' 0 32)
      else if c = c1 then u.newBytes w.poison c (w.data.extractLsb' 256 256) (w.enables.extractLsb' 32 32)
      else u.mem.raw c := by
  obtain ⟨t, reads, e⟩ := h.receive hd hi hm hg hb
  have carried : t.carry a = t.carryWrite a w := by
    unfold State.carry
    rw [hf, hw]
    rfl
  have raw : ∀ c, t.mem.raw c = u.mem.raw c := fun c => congrArg (fun m : Memory => m.raw c) reads.mem
  rw [e, carried]
  refine ⟨rfl, fun c => ?_⟩
  rw [t.carryWrite_raw a w hc hne (fun c hc => (reads.works.stack _).2.2.trans (hk c hc)), raw,
    reads.works.newBytes (raw c), reads.works.newBytes (raw c)]

/-- Settles O44: an access that is stalled, deferred, waits or is queued by the cases of its arrival, and one that is served by the
columns it reads or writes; a slate hold by what it takes from its stack's queue. -/
theorem slateAccessesAreServed : Obligations.SlateAccessesAreServed := by
  refine ⟨?_, ?_, ?_⟩
  · intro tag dpa addr s a u c0 c1 k0 stalls one
    have distinct : c0 ≠ c1 := by omega
    have stalled : ∀ i wr, exec i s = .next (s.access tag dpa wr) → stalls i wr := fun i wr hx h =>
      hx.trans (congrArg Host.Outcome.next (State.access_stalled h))
    have served : ∀ i wr, exec i s = .next (s.access tag dpa wr) → (s.boot.stage = 7 → s.translate dpa = some addr) → one i wr := by
      intro i wr hx ht hb hd hs
      have cols : (a wr).cols = [c0, c1] := rfl
      have any : (a wr).cols.any u.deferring = (s.deferring c0 || s.deferring c1) := by
        rw [cols]
        simp only [List.any_cons, List.any_nil, Bool.or_false]
        rfl
      have arrives : exec i s = .next (u.receive (a wr)) :=
        hx.trans (congrArg Host.Outcome.next (State.access_admitted hd hs (ht hb)))
      rw [arrives, ← any]
      refine ⟨fun h => congrArg Host.Outcome.next (State.receive_deferred h hd), fun h hi =>
        ⟨fun hm => ?_, fun hm hg => ⟨fun busy => ?_, ?_⟩⟩⟩
      · exact congrArg Host.Outcome.next (State.receive_waits h hi hm)
      · exact congrArg Host.Outcome.next (State.receive_queued h hi hm hg busy)
      · intro free masked writes slate
        have clear : u.Clear (a wr).cols := ⟨masked, writes, fun k y hy c hc => by
          obtain ⟨h0, h1⟩ := slate k y hy
          rcases List.mem_pair.mp hc with rfl | rfl
          · exact h0
          · exact h1⟩
        refine ⟨fun hw => ⟨_, rfl, State.receive_read cols clear h hi hm hg free rfl hw⟩, fun d hw hk => ?_⟩
        exact ⟨_, rfl, State.receive_write cols distinct clear h hi hm hg free rfl hw hk⟩
    refine ⟨fun off d at_ hdpa hat => ?_, fun at_ d hdpa => ⟨stalled _ _ (by rw [hdpa]; rfl), fun below full haddr =>
      served _ _ (by rw [hdpa]; rfl) fun hb => ?_⟩⟩
    · intro e each
      have full : ∀ wr, exec (.fullMapAccess tag at_ wr) s = .next (s.access tag dpa wr) := fun wr => by rw [← hat]; rfl
      have read : exec (.slateRead tag off) s = .next (s.access tag dpa none) := by rw [hdpa]; rfl
      have write : exec (.slateWrite tag off d) s = .next (s.access tag dpa (some d)) := by rw [hdpa]; rfl
      have every : ∀ p : Instr → Option WriteData → Prop, (∀ i wr, exec i s = .next (s.access tag dpa wr) → p i wr) → each p :=
        fun p hp => ⟨hp _ _ read, hp _ _ write, hp _ _ (full none), hp _ _ (full (some d))⟩
      refine ⟨every _ stalled, fun haddr hv he hc => every _ fun i wr hx => served i wr hx fun hb => ?_⟩
      rw [hdpa]
      exact State.translate_pane (by omega) hb hv haddr he hc
    · rw [haddr]
      exact State.translate_fullMap hb full below
  · intro st s defers go
    exact ⟨execSlateHold_idle, State.pumpReads_nil, fun h hs hr hi => ⟨_, execSlateHold_serves h hs hr, s.hold_serves st hi⟩⟩
  · intro p v s
    refine ⟨fun h => ⟨_, congrArg Host.Outcome.next (if_pos h), fun i => tget_tset _ _ _ _ _, rfl⟩,
      fun h => congrArg Host.Outcome.next (if_neg (by simp [h]))⟩

end Sys2Proof.Machine
end

section
/-! PROOF. What bytes put into columns of banks and lines of staging do (R57, R255, R585): the bytes of a line by themselves, one
destination, and several that lie apart. -/

namespace Sys2Proof.Machine

/-! ## Bytes of a line -/

theorem leNat_byte (l : List Byte) (i : Nat) : BitVec.ofNat 8 (leNat l / 256 ^ i) = l.getD i 0 := by
  induction l generalizing i with
  | nil => simp [leNat]
  | cons b l ih =>
    unfold leNat
    cases i with
    | zero =>
      apply BitVec.eq_of_toNat_eq
      simp only [Nat.pow_zero, Nat.div_one, BitVec.toNat_ofNat, List.getD_cons_zero]
      have := b.isLt
      omega
    | succ i =>
      have upper : (b.toNat + 256 * leNat l) / 256 = leNat l := by
        have := b.isLt
        omega
      rw [Nat.pow_succ', ← Nat.div_div_eq_div_mul, upper, List.getD_cons_succ, ih]

theorem leNat_lt (l : List Byte) : leNat l < 256 ^ l.length := by
  induction l with
  | nil => simp [leNat]
  | cons b l ih =>
    have := b.isLt
    unfold leNat
    rw [List.length_cons, Nat.pow_succ']
    omega

/-- The bytes of a line of 32 bytes. -/
theorem byteAt_leNat {l : List Byte} (h : l.length = 32) (i : Nat) : byteAt (BitVec.ofNat 256 (leNat l)) i = l.getD i 0 := by
  have small : leNat l < 2 ^ 256 := by
    have := leNat_lt l
    rwa [h] at this
  unfold byteAt
  rw [BitVec.toNat_ofNat, Nat.mod_eq_of_lt small, leNat_byte]

theorem readBytes_getD (t : Table Byte) (a n : Nat) {i : Nat} (h : i < n) : (readBytes t a n).getD i 0 = tget 0 t (a + i) := by
  induction n generalizing a i with
  | zero => exact absurd h (Nat.not_lt_zero i)
  | succ n ih =>
    unfold readBytes
    cases i with
    | zero => rfl
    | succ i =>
      rw [List.getD_cons_succ, ih (a + 1) (by omega)]
      congr 1
      omega

/-- Byte i of a list of bytes with their numbers, or what was there. -/
def byteOr (bs : List (Nat × Byte)) (i : Nat) (old : Byte) : Byte := ((bs.find? (fun x => x.1 = i)).map (·.2)).getD old

theorem byteOr_of_not_mem {bs : List (Nat × Byte)} {i : Nat} (h : i ∉ bs.map (·.1)) (old : Byte) : byteOr bs i old = old := by
  have none : bs.find? (fun x => decide (x.1 = i)) = none :=
    List.find?_eq_none.mpr fun x hx e => h (List.mem_map.mpr ⟨x, hx, of_decide_eq_true e⟩)
  unfold byteOr
  rw [none]
  rfl

theorem byteOr_of_mem {bs : List (Nat × Byte)} (hn : (bs.map (·.1)).Nodup) {x : Nat × Byte} (h : x ∈ bs) (old : Byte) :
    byteOr bs x.1 old = x.2 := by
  induction bs with
  | nil => exact absurd h List.not_mem_nil
  | cons y bs ih =>
    rw [List.map_cons, List.nodup_cons] at hn
    rcases List.mem_cons.mp h with rfl | later
    · simp [byteOr]
    · have ne : y.1 ≠ x.1 := fun e => hn.1 (e ▸ List.mem_map_of_mem later)
      simpa [byteOr, ne] using ih hn.2 later

/-- All 32 bytes are given. -/
theorem byteOr_of_length {bs : List (Nat × Byte)} (hn : (bs.map (·.1)).Nodup) (hb : ∀ x ∈ bs, x.1 < 32) (hl : bs.length = 32)
    {i : Nat} (hi : i < 32) (old old' : Byte) : byteOr bs i old = byteOr bs i old' := by
  have sub : bs.map (·.1) ⊆ List.range 32 := fun j hj => by
    obtain ⟨x, hx, rfl⟩ := List.mem_map.mp hj
    exact List.mem_range.mpr (hb x hx)
  have perm := (List.subperm_of_subset hn sub).perm_of_length_le (by simp [hl])
  obtain ⟨x, hx, rfl⟩ := List.mem_map.mp (perm.mem_iff.mpr (List.mem_range.mpr hi))
  rw [byteOr_of_mem hn hx, byteOr_of_mem hn hx]

/-- A line made of bytes by number. -/
theorem byteAt_range (f : Nat → Byte) {i : Nat} (hi : i < 32) :
    byteAt (BitVec.ofNat 256 (leNat ((List.range 32).map f))) i = f i := by
  rw [byteAt_leNat (by simp)]
  simp [hi]

/-! ## Places -/

/-- Byte i of a bank column or staging line. -/
def State.byteIn (s : State) (x : Nat × Loc) (i : Nat) : Byte :=
  if x.2.kind = 1 then tget 0 (s.quad x.1).staging (32 * x.2.key + i) else byteAt (s.column x.2.key).data i

/-- The poison mark of a bank column or staging line. -/
def State.markIn (s : State) (x : Nat × Loc) : Bool := if x.2.kind = 1 then s.stageMark x.1 x.2.key else (s.column x.2.key).poison

/-- Two places are not the same column or line. -/
def placesApart (x y : Nat × Loc) : Prop := x.2.kind = y.2.kind → x.2.key = y.2.key → x.2.kind = 1 ∧ x.1 ≠ y.1

theorem placesApart.symm {x y : Nat × Loc} (h : placesApart x y) : placesApart y x := fun hk hy =>
  have ⟨kind, quad⟩ := h hk.symm hy.symm
  ⟨hk.trans kind, quad.symm⟩

/-- t is s after bytes have been put into the places of a list. -/
structure State.Puts (l : List (Nat × Loc)) (s t : State) : Prop where
  works : s.Works t
  raw : ∀ k, (∀ x ∈ l, x.2.kind = 0 → x.2.key ≠ k) → t.mem.raw k = s.mem.raw k
  bytes : ∀ p a, (∀ x ∈ l, x.2.kind = 1 → x.1 = p → x.2.key ≠ a / 32) →
    tget 0 (t.quad p).staging a = tget 0 (s.quad p).staging a
  marks : ∀ p n, (∀ x ∈ l, x.2.kind = 1 → x.1 = p → x.2.key ≠ n) → t.stageMark p n = s.stageMark p n

namespace State.Puts

variable {s t v : State} {l m : List (Nat × Loc)}

theorem refl (s : State) : State.Puts l s s := ⟨.refl s, fun _ _ => rfl, fun _ _ _ => rfl, fun _ _ _ => rfl⟩

theorem trans (h : State.Puts l s t) (h' : State.Puts m t v) : State.Puts (l ++ m) s v where
  works := h.works.trans h'.works
  raw k hk := (h'.raw k fun x hx => hk x (List.mem_append_right _ hx)).trans (h.raw k fun x hx => hk x (List.mem_append_left _ hx))
  bytes p a hk := (h'.bytes p a fun x hx => hk x (List.mem_append_right _ hx)).trans
    (h.bytes p a fun x hx => hk x (List.mem_append_left _ hx))
  marks p n hk := (h'.marks p n fun x hx => hk x (List.mem_append_right _ hx)).trans
    (h.marks p n fun x hx => hk x (List.mem_append_left _ hx))

/-- A place apart from all of them keeps its bytes and its mark. -/
theorem kept (h : State.Puts l s t) {y : Nat × Loc} (hy : y.2.kind ≤ 1) (hl : ∀ x ∈ l, placesApart x y) :
    (∀ i, i < 32 → t.byteIn y i = s.byteIn y i) ∧ t.markIn y = s.markIn y := by
  unfold State.byteIn State.markIn
  by_cases line : y.2.kind = 1
  · have free : ∀ x ∈ l, x.2.kind = 1 → x.1 = y.1 → x.2.key ≠ y.2.key := fun x hx hk hq e =>
      (hl x hx (hk.trans line.symm) e).2 hq
    refine ⟨fun i hi => ?_, ?_⟩
    · rw [if_pos line, if_pos line]
      refine h.bytes _ _ ?_
      rwa [show (32 * y.2.key + i) / 32 = y.2.key by omega]
    · rw [if_pos line, if_pos line]
      exact h.marks _ _ free
  · have bank : y.2.kind = 0 := by omega
    have same : t.column y.2.key = s.column y.2.key := h.works.column_of_raw (h.raw _ fun x hx hk e => by
      obtain ⟨kind, -⟩ := hl x hx (hk.trans bank.symm) e
      omega)
    simp only [if_neg line, same, implies_true, and_self]

end State.Puts

/-! ## One destination -/

/-- Bytes have been put into one place. -/
structure State.Fills (x : Nat × Loc) (bs : List (Nat × Byte)) (poison : Bool) (s t : State) : Prop where
  puts : State.Puts [x] s t
  byte : ∀ i, i < 32 → t.byteIn x i = byteOr bs i (s.byteIn x i)
  mark : t.markIn x = if bs.length = 32 then poison else (poison || s.markIn x)

theorem State.Works.modQuad (s : State) (q : Nat) {f : Quad → Quad}
    (hf : ∀ x, f x = { x with staging := (f x).staging, stagePoison := (f x).stagePoison }) : s.Works (s.modQuad q f) := by
  refine ⟨rfl, fun p => ?_, fun _ => ⟨rfl, rfl, rfl⟩⟩
  by_cases hp : p = q
  · subst hp
    rw [State.quad_modQuad_same]
    conv_lhs => rw [hf]
    conv_rhs => rw [hf]
  · rw [State.quad_modQuad_ne _ _ hp]

theorem State.staging_setStage (s : State) (q p a b : Nat) (v : Byte) :
    tget 0 ((s.setStage q a [v]).quad p).staging b = if p = q ∧ b = a then v else tget 0 (s.quad p).staging b := by
  unfold State.setStage
  by_cases hp : p = q
  · subst hp
    rw [State.quad_modQuad_same]
    refine (tget_tset 0 (s.quad p).staging a b v).trans ?_
    simp only [true_and]
  · rw [State.quad_modQuad_ne _ _ hp, if_neg fun h => hp h.1]

/-- A byte is written into a line. -/
theorem State.setStage_puts (s : State) (q line : Nat) {i : Nat} (hi : i < 32) (v : Byte) (byte : Nat) :
    State.Puts [(q, ⟨1, line, byte⟩)] s (s.setStage q (32 * line + i) [v]) where
  works := State.Works.modQuad s q fun _ => rfl
  raw _ _ := rfl
  bytes p a ha := by
    rw [State.staging_setStage, if_neg]
    rintro ⟨rfl, rfl⟩
    exact ha _ List.mem_cons_self rfl rfl (by change line = _; omega)
  marks p n _ := by
    unfold State.stageMark State.setStage
    by_cases hp : p = q
    · subst hp
      rw [State.quad_modQuad_same]
    · rw [State.quad_modQuad_ne _ _ hp]

theorem State.stageMark_setMark (s : State) (q line p n : Nat) (m : Bool) :
    (s.setMark q line m).stageMark p n = if p = q ∧ n = line then m else s.stageMark p n := by
  unfold State.stageMark State.setMark
  by_cases hp : p = q
  · subst hp
    rw [State.quad_modQuad_same]
    refine (tget_tset false (s.quad p).stagePoison line n m).trans ?_
    simp only [true_and]
  · rw [State.quad_modQuad_ne _ _ hp, if_neg fun h => hp h.1]

theorem State.staging_setMark (s : State) (q line : Nat) (m : Bool) (p : Nat) :
    ((s.setMark q line m).quad p).staging = (s.quad p).staging := by
  unfold State.setMark
  by_cases hp : p = q
  · subst hp
    rw [State.quad_modQuad_same]
  · rw [State.quad_modQuad_ne _ _ hp]

theorem State.setMark_puts (s : State) (q line byte : Nat) (m : Bool) : State.Puts [(q, ⟨1, line, byte⟩)] s (s.setMark q line m) where
  works := State.Works.modQuad s q fun _ => rfl
  raw _ _ := rfl
  bytes p a _ := by rw [State.staging_setMark]
  marks p n hn := by
    rw [State.stageMark_setMark, if_neg]
    rintro ⟨rfl, rfl⟩
    exact hn _ List.mem_cons_self rfl rfl rfl

/-- Puts into the same place one after another. -/
theorem State.Puts.again {x : Nat × Loc} {s t v : State} (h : State.Puts [x] s t) (h' : State.Puts [x] t v) : State.Puts [x] s v where
  works := h.works.trans h'.works
  raw k hk := (h'.raw k hk).trans (h.raw k hk)
  bytes p a hk := (h'.bytes p a hk).trans (h.bytes p a hk)
  marks p n hk := (h'.marks p n hk).trans (h.marks p n hk)

/-- The bytes of a line are written one after another. -/
theorem State.setStages_puts (q line byte : Nat) {bs : List (Nat × Byte)} (hn : (bs.map (·.1)).Nodup) (hb : ∀ x ∈ bs, x.1 < 32)
    (s : State) :
    let t := bs.foldl (fun (s : State) x => s.setStage q (32 * line + x.1) [x.2]) s
    State.Puts [(q, ⟨1, line, byte⟩)] s t ∧ t.stageMark q line = s.stageMark q line ∧
      ∀ i, i < 32 → tget 0 (t.quad q).staging (32 * line + i) = byteOr bs i (tget 0 (s.quad q).staging (32 * line + i)) := by
  induction bs generalizing s with
  | nil => exact ⟨.refl s, rfl, fun _ _ => rfl⟩
  | cons x bs ih =>
    rw [List.map_cons, List.nodup_cons] at hn
    have first := s.setStage_puts q line (hb x List.mem_cons_self) x.2 byte
    have mark : (s.setStage q (32 * line + x.1) [x.2]).stageMark q line = s.stageMark q line := by
      unfold State.stageMark State.setStage
      rw [State.quad_modQuad_same]
    obtain ⟨puts, marks, bytes⟩ := ih hn.2 (fun y hy => hb y (List.mem_cons_of_mem _ hy)) (s.setStage q (32 * line + x.1) [x.2])
    refine ⟨first.again puts, marks.trans mark, fun i hi => (bytes i hi).trans ?_⟩
    rw [State.staging_setStage]
    by_cases here : x.1 = i
    · subst here
      rw [if_pos ⟨rfl, rfl⟩, byteOr_of_not_mem hn.1]
      simp [byteOr]
    · rw [if_neg fun h => here (by omega)]
      simp [byteOr, here]

/-- Bytes put into a line of staging (R585). -/
theorem State.putLine_fills (s : State) (q line byte : Nat) {bs : List (Nat × Byte)} (poison : Bool) (hn : (bs.map (·.1)).Nodup)
    (hb : ∀ x ∈ bs, x.1 < 32) : State.Fills (q, ⟨1, line, byte⟩) bs poison s (s.putLine q line bs poison) := by
  obtain ⟨puts, mark, bytes⟩ := State.setStages_puts q line byte hn hb s
  have marked : ∀ m, State.Puts [(q, ⟨1, line, byte⟩)] s ((bs.foldl (fun (s : State) x =>
      s.setStage q (32 * line + x.1) [x.2]) s).setMark q line m) := fun m => puts.again (State.setMark_puts _ q line byte m)
  unfold State.putLine
  dsimp only
  cases poison with
  | true =>
    refine ⟨marked true, fun i hi => ?_, ?_⟩
    · simp only [State.byteIn, if_true, State.staging_setMark]
      exact bytes i hi
    · simp [State.markIn, State.stageMark_setMark]
  | false =>
    by_cases full : bs.length = 32
    · rw [if_neg (by decide), if_pos full]
      refine ⟨marked false, fun i hi => ?_, ?_⟩
      · simp only [State.byteIn, if_true, State.staging_setMark]
        exact bytes i hi
      · simp [State.markIn, State.stageMark_setMark, full]
    · rw [if_neg (by decide), if_neg full]
      exact ⟨puts, bytes, mark.trans (by rw [if_neg full]; rfl)⟩

/-- A column that is written puts its bytes. -/
theorem State.Wrote.puts {s t : State} {col : Nat} {data : List Byte} {poison : Bool} (h : State.Wrote col data poison s t) (q byte : Nat) :
    State.Puts [(q, ⟨0, col, byte⟩)] s t where
  works := h.works
  raw k hk := (h.raw k).trans (if_neg fun e => hk _ List.mem_cons_self rfl e.symm)
  bytes p a _ := by rw [(h.lines p).1]
  marks p n _ := by
    unfold State.stageMark
    rw [(h.lines p).2]

/-- A column written with bytes by number. -/
theorem State.Wrote.fills {s t : State} {q col byte : Nat} {f : Nat → Byte} {poison poison' : Bool} {bs : List (Nat × Byte)}
    (h : State.Wrote col ((List.range 32).map f) poison' s t) (hf : (s.stack (stackOf (bankOfCol col))).failed = false)
    (hb : ∀ i, i < 32 → f i = byteOr bs i (byteAt (s.column col).data i))
    (hp : poison' = if bs.length = 32 then poison else (poison || (s.column col).poison)) :
    State.Fills (q, ⟨0, col, byte⟩) bs poison s t := by
  have value := h.column_same (by simp) hf
  refine ⟨h.puts q byte, fun i hi => ?_, ?_⟩
  · change byteAt (t.column col).data i = _
    rw [value]
    exact (byteAt_range f hi).trans (hb i hi)
  · change (t.column col).poison = _
    rw [value]
    exact hp

/-- Bytes put into a column of a bank, whole or merged by the controller (R57, R255). -/
theorem State.putColumn_fills {s : State} (q c origin : Nat) {col : Nat} (byte : Nat) {bs : List (Nat × Byte)} (poison : Bool)
    (hn : (bs.map (·.1)).Nodup) (hb : ∀ x ∈ bs, x.1 < 32) (hc : s.Clear [col])
    (hf : (s.stack (stackOf (bankOfCol col))).failed = false) :
    State.Fills (q, ⟨0, col, byte⟩) bs poison s (s.putColumn q c origin col bs poison) := by
  unfold State.putColumn
  by_cases full : bs.length = 32
  · rw [if_pos full]
    refine State.Wrote.fills (State.Wrote.ctrlWrite s col poison (by simp) hf hc) hf (fun i hi => ?_) (if_pos full).symm
    exact byteOr_of_length hn hb full hi 0 _
  · rw [if_neg full]
    dsimp only
    obtain ⟨read, value⟩ := hc.ctrlRead
    have marked : s.Reads (if (s.ctrlRead col).1.ue then (s.ctrlRead col).2.markUnsettled c q origin else (s.ctrlRead col).2) := by
      split
      · exact read.trans (.markUnsettled _ _ _ _)
      · exact read
    rw [value] at marked ⊢
    refine State.Wrote.fills (marked.wrote (State.Wrote.ctrlWrite _ col _ (by simp) ((marked.works.stack _).2.2.trans hf)
      (marked.works.clear hc))) hf (fun i hi => rfl) (if_neg full).symm

/-! ## Several destinations -/

/-- Steps that each put bytes into a place of their own do so together. -/
theorem State.foldl_puts {α : Type} {place : α → Nat × Loc} {f : State → α → State} {F : α → Nat → Byte → Byte} {M : α → Bool → Bool}
    {u : State} (L : List α) (hk : ∀ x ∈ L, (place x).2.kind ≤ 1) (apart : L.Pairwise (fun x y => placesApart (place x) (place y)))
    (step : ∀ x ∈ L, ∀ s, u.Works s → State.Puts [place x] s (f s x) ∧
      (∀ i, i < 32 → (f s x).byteIn (place x) i = F x i (s.byteIn (place x) i)) ∧ (f s x).markIn (place x) = M x (s.markIn (place x)))
    (s : State) (h : u.Works s) : State.Puts (L.map place) s (L.foldl f s) ∧
      ∀ x ∈ L, (∀ i, i < 32 → (L.foldl f s).byteIn (place x) i = F x i (s.byteIn (place x) i)) ∧
        (L.foldl f s).markIn (place x) = M x (s.markIn (place x)) := by
  induction L generalizing s with
  | nil => exact ⟨.refl s, fun x hx => absurd hx List.not_mem_nil⟩
  | cons a L ih =>
    rw [List.pairwise_cons] at apart
    obtain ⟨puts, bytes, mark⟩ := step a List.mem_cons_self s h
    obtain ⟨rest, values⟩ := ih (fun x hx => hk x (List.mem_cons_of_mem _ hx)) apart.2
      (fun x hx => step x (List.mem_cons_of_mem _ hx)) (f s a) (h.trans puts.works)
    refine ⟨puts.trans rest, fun x hx => ?_⟩
    rw [List.foldl_cons]
    rcases List.mem_cons.mp hx with rfl | later
    · obtain ⟨keptBytes, keptMark⟩ := rest.kept (hk x hx) fun y hy => by
        obtain ⟨z, hz, rfl⟩ := List.mem_map.mp hy
        exact (apart.1 z hz).symm
      exact ⟨fun i hi => (keptBytes i hi).trans (bytes i hi), keptMark.trans mark⟩
    · obtain ⟨before, markBefore⟩ := puts.kept (hk x hx) fun y hy => by
        rw [List.mem_singleton.mp hy]
        exact apart.1 x later
      obtain ⟨after, markAfter⟩ := values x later
      exact ⟨fun i hi => (after i hi).trans (by rw [before i hi]), markAfter.trans (by rw [markBefore])⟩

end Sys2Proof.Machine
end

section
/-! PROOF. Frames that act in this module, and what becomes of a remote access that arrives (R184, R337, R420 to R423, R447, R553). -/

namespace Sys2Proof.Machine

/-! ## Frames that act here (R420 to R423) -/

/-- The body of the next frame of its sequence acts, with none kept early. -/
theorem State.inTurn_acts {v : State} {h : FrameHead} {b : FrameBody} (ht : v.unlisted h = true ∨ v.ring.early = [] ∧
    (h.eseq.toNat = v.awaits h b ∨ h.bcast = true ∧ v.awaits h b = 0)) : v.inTurn h b = (if v.unlisted h then v else { v with
      ring := { v.ring with esin := tset 0 v.ring.esin (seqKey h.bcast h.src.toNat b.channel) (nextSeq h.bcast h.eseq.toNat) } }).deliver
        (PeerFrame.came h b) := by
  have listed : (h.bcast = true ∧ (v.posOf h.src.toNat).isNone = true) ↔ v.unlisted h = true := by
    unfold State.unlisted
    rw [Bool.and_eq_true]
  unfold State.inTurn
  dsimp only
  by_cases un : v.unlisted h = true
  · rw [if_pos (listed.mpr un), if_pos un]
    rfl
  · obtain ⟨early, turn⟩ := ht.resolve_left un
    unfold State.awaits at turn
    rw [if_neg fun e => un (listed.mp e), if_neg un, if_pos turn, early]
    rfl

theorem State.receiveFrame_acts {s : State} {h : FrameHead} {b : FrameBody} (ha : s.actsHere h b) :
    s.receiveFrame h b = (s.reached h b).deliver (PeerFrame.came h b) := by
  obtain ⟨order, dest, turn⟩ := ha
  have acts := State.inTurn_acts turn
  unfold State.receiveFrame State.reached
  rw [if_neg (by simp [order])]
  dsimp only
  rw [← acts]
  unfold State.hop at dest ⊢
  cases bcast : h.bcast with
  | true =>
    simp only [bcast, if_true] at dest ⊢
    unfold State.castOn
    exact if_neg dest
  | false =>
    simp only [bcast, Bool.false_eq_true, if_false] at dest ⊢
    generalize s.took h = v at dest ⊢
    have own : h.dst = v.ownIdent := dest
    exact if_pos own

/-! ## An access that arrives (R184, R185, R463) -/

/-- An access that arrives has counted, and its gates open. -/
def State.kvCounted (s : State) (ls : List (Nat × Loc)) : State :=
  let u := ls.foldl (fun (s : State) x => if x.2.kind = 0 then s.demandGate x.1 else s) s
  { u with sync := { u.sync with arrivals := u.sync.arrivals + 1 } }

theorem State.demandGate_frame (s : State) (g : Nat) : s.demandGate g = { s with clk := (s.demandGate g).clk } := by
  unfold State.demandGate
  dsimp only
  split
  · rfl
  · split <;> rfl

/-- Gates and the count of arrivals are all that it has changed. -/
theorem State.kvCounted_frame (s : State) (ls : List (Nat × Loc)) :
    s.kvCounted ls = { s with clk := (s.kvCounted ls).clk, sync := { s.sync with arrivals := s.sync.arrivals + 1 } } := by
  have gates : ∀ t : State, t = { s with clk := t.clk } →
      ls.foldl (fun (s : State) x => if x.2.kind = 0 then s.demandGate x.1 else s) t =
        { s with clk := (ls.foldl (fun (s : State) x => if x.2.kind = 0 then s.demandGate x.1 else s) t).clk } := by
    refine State.foldl_holds (fun t : State => t = { s with clk := t.clk }) _ (fun t x h => ?_) ls
    split
    · rw [State.demandGate_frame, h]
    · exact h
  unfold State.kvCounted
  dsimp only
  rw [gates s rfl]

/-- An access with its boxes and its number. -/
def KvWait.arrived (w : KvWait) (s : State) (ls : List (Nat × Loc)) : KvWait :=
  { w with boxes := ls.map (fun x => (x.1, x.2.box)), order := s.sync.arrivals }

theorem State.kvArrive_unknown {s : State} {w : KvWait} (h : s.tidDesc w.tid = none) :
    s.kvArrive w = if (s.kvCounted []).kvReady (w.arrived s []) then (s.kvCounted []).kvServe (w.arrived s [])
      else { s.kvCounted [] with ring := { s.ring with kvWait := s.ring.kvWait ++ [w.arrived s []] } } := by
  unfold State.kvArrive
  rw [h]
  rfl

theorem State.kvArrive_known {s : State} {w : KvWait} {c : Nat} {d : Desc} (h : s.tidDesc w.tid = some (c, d)) {ls : List (Nat × Loc)}
    (hl : w.spots s c d = ls) :
    s.kvArrive w = if (s.kvCounted ls).kvReady (w.arrived s ls) then (s.kvCounted ls).kvServe (w.arrived s ls)
      else { s.kvCounted ls with ring := { (s.kvCounted ls).ring with kvWait := (s.kvCounted ls).ring.kvWait ++ [w.arrived s ls] } } := by
  have arrived : w.arrived s ls = w.arrived (ls.foldl (fun (s : State) x => if x.2.kind = 0 then s.demandGate x.1 else s) s) ls := by
    have count := congrArg Sync.arrivals (congrArg State.sync (s.kvCounted_frame ls))
    exact congrArg (fun n => ({ w with boxes := ls.map (fun x => (x.1, x.2.box)), order := n } : KvWait)) (Nat.succ.inj count).symm
  rw [arrived]
  unfold State.kvArrive KvWait.arrived State.kvCounted
  rw [h]
  dsimp only
  rw [hl]

/-- What the places of columns depend on is not changed by the arrival. -/
theorem State.kvCounted_tidDesc (s : State) (ls : List (Nat × Loc)) (tid : Nat) : (s.kvCounted ls).tidDesc tid = s.tidDesc tid := by
  rw [s.kvCounted_frame]
  rfl

theorem State.kvCounted_places (s : State) (ls : List (Nat × Loc)) (w : KvWait) (c : Nat) (d : Desc) :
    w.places (s.kvCounted ls) c d = w.places s c d := by
  rw [s.kvCounted_frame]
  rfl

/-- A bank column is named in the quadrant of its bank (R208). -/
theorem State.kvPlaces_quad {s : State} {c : Nat} {d : Desc} {index column : Nat} {write : Bool} {l : List (Nat × Loc)}
    (h : s.kvPlaces c d index column write = some l) {x : Nat × Loc} (hx : x ∈ l) (hk : x.2.kind ≠ 1) :
    x.1 = quadOf (bankOfCol x.2.key) := by
  have spread : ∀ y : Loc, x ∈ s.kvSpread c write y → x.1 = quadOf (bankOfCol x.2.key) := fun y hy => by
    unfold State.kvSpread at hy
    split at hy
    next line =>
      obtain ⟨q, -, rfl⟩ := List.mem_map.mp hy
      exact absurd line hk
    next =>
      rw [List.mem_singleton.mp hy]
  unfold State.kvPlaces at h
  split at h
  · obtain ⟨ys, -, rfl⟩ := Option.map_eq_some_iff.mp h
    obtain ⟨y, -, hy⟩ := List.mem_flatMap.mp hx
    exact spread y hy
  · split at h
    · cases h
      exact spread _ hx
    · cases h

end Sys2Proof.Machine
end

section
/-! PROOF. How the owner serves a remote access (R224, R228, R230, R447): the columns it reads, and the places it writes. -/

namespace Sys2Proof.Machine

/-! ## Modules with nothing under way -/

/-- No write is queued or in flight anywhere, and no access of the host is queued (R58, R342). -/
def State.Idle (s : State) : Prop := (∀ p, (s.quad p).masked = []) ∧ ∀ k, (s.stack k).writes = [] ∧ (s.stack k).slateQ = []

theorem State.Idle.clear {s : State} (h : s.Idle) (cols : List Nat) : s.Clear cols where
  masked := h.1
  writes k := (h.2 k).1
  slate k y hy := absurd ((h.2 k).2 ▸ hy : y ∈ []) List.not_mem_nil

/-! ## The answer -/

/-- The answer to an access: a write is acknowledged, a read gets its columns (R447). -/
def State.kvAnswer (s : State) (w : KvWait) (data : Option (List Line)) (bad : Bool) : State :=
  s.sendTo w.src (if w.cols.isSome then .kvAck w.tid w.index w.column else .kvData w.tid w.index w.column data bad)

section
variable {s : State} {w : KvWait} {c : Nat} {d : Desc}

theorem KvWait.tid_eq (ht : w.tid < 65536) : (BitVec.ofNat 16 w.tid).toNat = w.tid := Nat.mod_eq_of_lt ht

theorem State.kvServe_unknown (ht : w.tid < 65536) (h : s.tidDesc w.tid = none) : s.kvServe w = s.kvAnswer w none false := by
  unfold State.kvServe State.kvAnswer
  rw [h]
  dsimp only
  rw [KvWait.tid_eq ht]
  cases w.cols <;> rfl

/-! ## Reads (R224, R228) -/

/-- Data and poison mark of a bank column or staging line. -/
def State.valueAt (s : State) (x : Nat × Loc) : Line × Bool :=
  if x.2.kind = 1 then (BitVec.ofNat 256 (leNat (s.stageBytes x.1 (32 * x.2.key) 32)), s.stageMark x.1 x.2.key)
  else ((s.column x.2.key).data, (s.column x.2.key).poison)

/-- What the first of a column's places holds. -/
def State.firstAt (s : State) (l : List (Nat × Loc)) : Line × Bool :=
  match l with
  | [] => (0, false)
  | x :: _ => s.valueAt x

theorem State.Reads.valueAt {t : State} (h : s.Reads t) (x : Nat × Loc) : t.valueAt x = s.valueAt x := by
  unfold State.valueAt State.stageBytes State.stageMark
  rw [h.column, (h.lines _).1, (h.lines _).2]

theorem State.Reads.kvGet {t : State} (h : s.Reads t) (hi : s.Idle) (l : List (Nat × Loc)) :
    s.Reads (t.kvGet l).2 ∧ ((t.kvGet l).1.data, (t.kvGet l).1.poison) = s.firstAt l := by
  cases l with
  | nil => exact ⟨h, rfl⟩
  | cons x l =>
    unfold State.firstAt
    dsimp only
    rw [← h.valueAt]
    unfold State.kvGet State.valueAt
    dsimp only
    by_cases line : x.2.kind = 1
    · rw [if_pos line, if_pos line]
      exact ⟨h, rfl⟩
    · rw [if_neg line, if_neg line]
      obtain ⟨read, value⟩ := (h.works.clear (hi.clear [x.2.key])).ctrlRead
      exact ⟨h.trans read, by rw [value]⟩

theorem State.Reads.kvGets {t : State} (h : s.Reads t) (hi : s.Idle) (ps : List (Option (List (Nat × Loc)))) (cs : List Column) :
    let r := ps.foldl (fun (acc : List Column × State) (p : Option (List (Nat × Loc))) =>
      let x := acc.2.kvGet (p.getD [])
      (acc.1 ++ [x.1], x.2)) (cs, t)
    s.Reads r.2 ∧
      r.1.map (fun c => (c.data, c.poison)) = cs.map (fun c => (c.data, c.poison)) ++ ps.map (fun p => s.firstAt (p.getD [])) := by
  induction ps generalizing t cs with
  | nil => exact ⟨h, (List.append_nil _).symm⟩
  | cons p ps ih =>
    obtain ⟨read, value⟩ := h.kvGet hi (p.getD [])
    obtain ⟨reads, values⟩ := ih read (cs ++ [(t.kvGet (p.getD [])).1])
    refine ⟨reads, values.trans ?_⟩
    rw [List.map_append, List.map_singleton, value, List.append_assoc]
    rfl

/-- A read that is served changes no byte. -/
theorem State.kvServe_read (ht : w.tid < 65536) (hd : s.tidDesc w.tid = some (c, d)) (hc : w.cols = none) (hi : s.Idle) :
    let ps := w.places s c d
    ∃ v bad, s.kvServe w = v.kvAnswer w (if none ∈ ps then none else some (ps.map (fun p => (s.firstAt (p.getD [])).1))) bad ∧
      (bad = true ↔ none ∉ ps ∧ ∃ p ∈ ps, (s.firstAt (p.getD [])).2 = true) ∧ s.Reads v := by
  intro ps
  have listed : ps.any (·.isNone) = true ↔ none ∈ ps := by simp
  have served : s.kvServe w = if ps.any (·.isNone) then s.kvAnswer w none false
      else
        let r := ps.foldl (fun (acc : List Column × State) (p : Option (List (Nat × Loc))) =>
          let x := acc.2.kvGet (p.getD [])
          (acc.1 ++ [x.1], x.2)) ([], s)
        r.2.kvAnswer w (some (r.1.map (·.data))) (r.1.any (·.poison)) := by
    unfold State.kvServe State.kvAnswer
    rw [hd, hc]
    dsimp only
    rw [KvWait.tid_eq ht]
    rfl
  rw [served]
  by_cases absent : none ∈ ps
  · rw [if_pos (listed.mpr absent), if_pos absent]
    exact ⟨s, false, rfl, by simp [absent], .refl s⟩
  · obtain ⟨reads, values⟩ := (State.Reads.refl s).kvGets hi ps []
    rw [if_neg fun e => absent (listed.mp e), if_neg absent]
    dsimp only at reads values ⊢
    generalize List.foldl _ ([], s) ps = r at reads values ⊢
    rw [List.map_nil, List.nil_append] at values
    have data : r.1.map (·.data) = ps.map (fun p => (s.firstAt (p.getD [])).1) := by
      simpa [Function.comp_def] using congrArg (List.map Prod.fst) values
    refine ⟨r.2, _, by rw [data], ?_, reads⟩
    have poison : (r.1.any (·.poison)) = ps.any (fun p => (s.firstAt (p.getD [])).2) := by
      simpa [List.any_map, Function.comp_def] using congrArg (List.any · Prod.snd) values
    rw [poison]
    simp [absent]

end

/-! ## One place of a written column (R230) -/

/-- The bytes of a line that a test admits, by number. -/
def Line.given (data : Line) (p : Nat → Bool) : List (Nat × Byte) := ((List.range 32).filter p).map (fun i => (i, byteAt data i))

section
variable {data : Line} {p : Nat → Bool}

theorem Line.given_keys : (Line.given data p).map (·.1) = (List.range 32).filter p := by
  unfold Line.given
  rw [List.map_map]
  exact List.map_id _

theorem Line.given_nodup : ((Line.given data p).map (·.1)).Nodup := by
  rw [Line.given_keys]
  exact List.nodup_range.filter p

theorem Line.given_lt {x : Nat × Byte} (h : x ∈ Line.given data p) : x.1 < 32 := by
  have key : x.1 ∈ (List.range 32).filter p := Line.given_keys ▸ List.mem_map_of_mem h
  exact List.mem_range.mp (List.mem_filter.mp key).1

theorem Line.byteOr_given {i : Nat} (hi : i < 32) (old : Byte) : byteOr (Line.given data p) i old = if p i then byteAt data i else old := by
  cases hp : p i with
  | true =>
    have given : (i, byteAt data i) ∈ Line.given data p :=
      List.mem_map_of_mem (List.mem_filter.mpr ⟨List.mem_range.mpr hi, hp⟩)
    exact byteOr_of_mem Line.given_nodup given old
  | false =>
    refine byteOr_of_not_mem ?_ old
    rw [Line.given_keys]
    simp [hp]

theorem Line.given_length : (Line.given data p).length = 32 ↔ (List.range 32).any (fun i => !p i) = false := by
  have count : (Line.given data p).length = ((List.range 32).filter p).length := List.length_map _
  have full := List.length_filter_eq_length_iff (l := List.range 32) (p := p)
  rw [List.length_range] at full
  rw [count, full]
  simp

theorem Line.given_isEmpty : (Line.given data p).isEmpty = true ↔ (List.range 32).any p = false := by
  unfold Line.given
  simp

end

/-- A column written to one of its places leaves the bytes it keeps, and their mark (R230). -/
theorem State.kvPut_puts {s : State} {c : Nat} {d : Desc} {pad : Bool} {x : Nat × Loc} {data : Line} {poison : Bool} (hk : x.2.kind ≤ 1)
    (hc : s.Clear [x.2.key]) (hf : x.2.kind ≠ 1 → (s.stack (stackOf (bankOfCol x.2.key))).failed = false) :
    let kept i := pad && d.localByte x.2 i
    let t := s.kvPut c d pad x data poison
    State.Puts [x] s t ∧ (∀ i, i < 32 → t.byteIn x i = if kept i then s.byteIn x i else byteAt data i) ∧
      t.markIn x = (((List.range 32).any (fun i => !kept i) && poison) || ((List.range 32).any kept && s.markIn x)) := by
  intro kept t
  have done : t = if (Line.given data (fun i => !kept i)).isEmpty then s
      else if x.2.kind = 1 then s.putLine x.1 x.2.key (Line.given data (fun i => !kept i)) poison
      else s.putColumn x.1 c 0 x.2.key (Line.given data (fun i => !kept i)) poison := rfl
  have byte : ∀ i, i < 32 → byteOr (Line.given data (fun i => !kept i)) i (s.byteIn x i) =
      if kept i then s.byteIn x i else byteAt data i := fun i hi => by
      rw [Line.byteOr_given hi]
      cases kept i <;> rfl
  clear_value t
  by_cases empty : (Line.given data (fun i => !kept i)).isEmpty = true
  · rw [if_pos empty] at done
    have nothing := Line.given_isEmpty.mp empty
    have all : ∀ i, i < 32 → kept i = true := by simpa using nothing
    rw [done]
    refine ⟨.refl s, fun i hi => (if_pos (all i hi)).symm, ?_⟩
    rw [nothing, List.any_eq_true.mpr ⟨0, by simp, all 0 (by decide)⟩]
    simp
  · rw [if_neg empty] at done
    have fills : State.Fills x (Line.given data (fun i => !kept i)) poison s t := by
      rw [done]
      obtain ⟨q, kind, key, n⟩ := x
      by_cases line : kind = 1
      · subst line
        rw [if_pos rfl]
        exact State.putLine_fills s q key n poison Line.given_nodup fun _ hb => Line.given_lt hb
      · obtain rfl : kind = 0 := by dsimp only at hk; omega
        rw [if_neg Nat.zero_ne_one]
        exact State.putColumn_fills q c 0 n poison Line.given_nodup (fun _ hb => Line.given_lt hb) hc (hf Nat.zero_ne_one)
    refine ⟨fills.puts, fun i hi => (fills.byte i hi).trans (byte i hi), fills.mark.trans ?_⟩
    have some_ : (List.range 32).any (fun i => !kept i) = true := by
      simpa using fun e => empty (Line.given_isEmpty.mpr e)
    have all := Line.given_length (data := data) (p := fun i => !kept i)
    simp only [Bool.not_not] at all
    rw [some_]
    cases keeps : (List.range 32).any kept with
    | true => rw [if_neg fun e => by rw [all.mp e] at keeps; cases keeps]; simp
    | false => rw [if_pos (all.mpr keeps)]; simp

end Sys2Proof.Machine
end

section
/-! PROOF. O43: the owner's side of remote accesses, from their arrival to their answer (R184, R185, R230, R447). -/

namespace Sys2Proof.Machine

/-! ## All places of the written columns (R230, R447) -/

/-- The writes of an access, place by place: the place, the column's bytes, and whether it is a pad's. -/
def KvWait.puts (w : KvWait) (s : State) (c : Nat) (d : Desc) (cs : List Line) : List ((Nat × Loc) × Line × Bool) :=
  ((w.places s c d).zip cs).zipIdx.flatMap (fun x =>
    (x.1.1.getD []).map (fun p => (p, x.1.2, decide (w.column + x.2 ≥ d.dataCols))))

section
variable {s : State} {w : KvWait} {c : Nat} {d : Desc} {cs : List Line}

theorem KvWait.places_length : (w.places s c d).length = w.count := by simp [KvWait.places]

theorem KvWait.puts_places (hn : w.count = cs.length) : (w.puts s c d cs).map (·.1) = w.spots s c d := by
  have firsts : (((w.places s c d).zip cs).zipIdx.map (·.1)).map (·.1) = w.places s c d := by
    rw [List.zipIdx_map_fst, List.map_fst_zip (by rw [KvWait.places_length, hn])]
  unfold KvWait.puts KvWait.spots
  conv_rhs => rw [← firsts]
  rw [List.map_flatMap, List.flatMap_map, List.flatMap_map]
  simp only [List.map_map, Function.comp_def, List.map_id']

/-- Every place of every column is written with that column. -/
theorem KvWait.mem_puts (hn : w.count = cs.length) {j : Nat} {l : List (Nat × Loc)} (hj : (w.places s c d).getD j none = some l)
    {x : Nat × Loc} (hx : x ∈ l) : (x, cs.getD j 0, decide (w.column + j ≥ d.dataCols)) ∈ w.puts s c d cs := by
  have place : (w.places s c d)[j]? = some (some l) := by
    rw [List.getD_eq_getElem?_getD] at hj
    cases hp : (w.places s c d)[j]? with
    | none => rw [hp] at hj; cases hj
    | some p => rw [hp] at hj; exact congrArg some hj
  have inside : j < cs.length := by
    obtain ⟨lt, -⟩ := List.getElem?_eq_some_iff.mp place
    rwa [KvWait.places_length, hn] at lt
  have line : cs[j]? = some (cs.getD j 0) := by
    rw [List.getD_eq_getElem?_getD, List.getElem?_eq_getElem inside]
    rfl
  have column : ((some l, cs.getD j 0), j) ∈ ((w.places s c d).zip cs).zipIdx :=
    List.mk_mem_zipIdx_iff_getElem?.mpr (List.getElem?_zip_eq_some.mpr ⟨place, line⟩)
  exact List.mem_flatMap.mpr ⟨_, column, List.mem_map_of_mem hx⟩

theorem State.kvServe_puts (ht : w.tid < 65536) (hd : s.tidDesc w.tid = some (c, d)) (hc : w.cols = some cs) (data : Option (List Line))
    (bad : Bool) : s.kvServe w =
      ((w.puts s c d cs).foldl (fun (s : State) y => s.kvPut c d y.2.2 y.1 y.2.1 w.poison) s).kvAnswer w data bad := by
  unfold State.kvServe State.kvAnswer KvWait.puts
  rw [hd, hc]
  dsimp only
  rw [KvWait.tid_eq ht, List.foldl_flatMap]
  simp only [List.foldl_map]
  rfl

/-- Places that differ in quadrant, kind or number lie apart, bank columns being named in their quadrants. -/
theorem placesApart_of_nodup {ls : List (Nat × Loc)} (hn : (ls.map (fun x => (x.1, x.2.kind, x.2.key))).Nodup)
    (hq : ∀ x ∈ ls, x.2.kind ≠ 1 → x.1 = quadOf (bankOfCol x.2.key)) : ls.Pairwise placesApart := by
  refine List.Pairwise.imp_of_mem (fun {x y} hx hy ne => ?_) (List.pairwise_map.mp hn)
  intro kind key
  have quad : x.1 ≠ y.1 := fun e => ne (by rw [e, kind, key])
  refine ⟨?_, quad⟩
  by_contra bank
  exact quad (by rw [hq x hx bank, hq y hy (kind ▸ bank), key])

/-- A write that is served stores every column in its places. -/
theorem State.kvServe_write (ht : w.tid < 65536) (hd : s.tidDesc w.tid = some (c, d)) (hc : w.cols = some cs) (hn : w.count = cs.length)
    (hi : s.Idle) {ls : List (Nat × Loc)} (hl : w.spots s c d = ls)
    (hf : ∀ x ∈ ls, x.2.kind ≠ 1 → (s.stack (stackOf (bankOfCol x.2.key))).failed = false)
    (hk : ∀ x ∈ ls, x.2.kind ≤ 1) (apart : ls.Pairwise placesApart) :
    ∃ v, (∀ data bad, s.kvServe w = v.kvAnswer w data bad) ∧ State.Puts ls s v ∧
      ∀ j l, (w.places s c d).getD j none = some l → ∀ x ∈ l,
        let kept (i : Nat) : Bool := decide (d.dataCols ≤ w.column + j) && d.localByte x.2 i
        (∀ i, i < 32 → v.byteIn x i = if kept i then s.byteIn x i else byteAt (cs.getD j 0) i) ∧
        v.markIn x = (((List.range 32).any (fun i => !kept i) && w.poison) || ((List.range 32).any kept && s.markIn x)) := by
  have places : (w.puts s c d cs).map (·.1) = ls := (KvWait.puts_places hn).trans hl
  have inside : ∀ y ∈ w.puts s c d cs, y.1 ∈ ls := fun y hy => places ▸ List.mem_map_of_mem hy
  obtain ⟨puts, values⟩ := State.foldl_puts (u := s) (place := fun y : (Nat × Loc) × Line × Bool => y.1)
    (f := fun (s : State) y => s.kvPut c d y.2.2 y.1 y.2.1 w.poison)
    (F := fun y i old => if y.2.2 && d.localByte y.1.2 i then old else byteAt y.2.1 i)
    (M := fun y old => ((List.range 32).any (fun i => !(y.2.2 && d.localByte y.1.2 i)) && w.poison) ||
      ((List.range 32).any (fun i => y.2.2 && d.localByte y.1.2 i) && old))
    (w.puts s c d cs) (fun y hy => hk _ (inside y hy)) (List.pairwise_map.mp (places.symm ▸ apart))
    (fun y hy t works => State.kvPut_puts (hk _ (inside y hy)) (works.clear (hi.clear _))
      fun bank => (works.stack _).2.2.trans (hf _ (inside y hy) bank))
    s (.refl s)
  refine ⟨_, State.kvServe_puts ht hd hc, ?_, fun j l hj x hx => values _ (KvWait.mem_puts hn hj hx)⟩
  rw [← places]
  exact puts

end

/-! ## Values by byte -/

theorem State.byteAt_valueAt (s : State) (x : Nat × Loc) {i : Nat} (hi : i < 32) : byteAt (s.valueAt x).1 i = s.byteIn x i := by
  unfold State.valueAt State.byteIn State.stageBytes
  by_cases line : x.2.kind = 1
  · rw [if_pos line, if_pos line]
    exact (byteAt_leNat (readBytes_length _ _ _) i).trans (readBytes_getD _ _ _ hi)
  · rw [if_neg line, if_neg line]

theorem State.valueAt_mark (s : State) (x : Nat × Loc) : (s.valueAt x).2 = s.markIn x := by
  unfold State.valueAt State.markIn
  split <;> rfl

/-! ## The arrival changes no value -/

section
variable (s : State) (ls : List (Nat × Loc))

theorem State.kvCounted_quad (p : Nat) : (s.kvCounted ls).quad p = s.quad p := by
  rw [s.kvCounted_frame]
  rfl

theorem State.kvCounted_stack (i : Nat) : (s.kvCounted ls).stack i = s.stack i := by
  rw [s.kvCounted_frame]
  rfl

theorem State.kvCounted_keeps_mem : (s.kvCounted ls).mem = s.mem := by
  rw [s.kvCounted_frame]

theorem State.kvCounted_valueAt (x : Nat × Loc) : (s.kvCounted ls).valueAt x = s.valueAt x := by
  rw [s.kvCounted_frame]
  rfl

theorem State.kvCounted_firstAt (l : List (Nat × Loc)) : (s.kvCounted ls).firstAt l = s.firstAt l := by
  cases l with
  | nil => rfl
  | cons x l => exact s.kvCounted_valueAt ls x

theorem State.Idle.kvCounted {s : State} (h : s.Idle) : (s.kvCounted ls).Idle :=
  ⟨fun p => by rw [s.kvCounted_quad]; exact h.1 p, fun k => by rw [s.kvCounted_stack]; exact h.2 k⟩

end

/-! ## The frame -/

/-- A remote access's frame that acts: out of the ring, or with more than 7 columns, it has no effect, else the access arrives. -/
theorem exec_kvFrame {h : FrameHead} {tid : BitVec 16} {index column : Nat} {s : State} {i : Instr} {cols : Option (List Line)} {n : Nat}
    {poison : Bool} {b : FrameBody} {u : State} (hu : u = s.reached h b) (hb : b = match cols with
      | some cs => .kvWrite tid.toNat index column cs poison
      | none => .kvRead tid.toNat index column n)
    (hi : i = .kvWrite h tid index column (cols.getD []) poison ∧ cols.isSome = true ∧ n = (cols.getD []).length ∨
      i = .kvRead h tid index column n ∧ cols = none ∧ poison = false) (ha : s.actsHere h b) :
    exec i s = .next (if u.outOfRing = true ∨ n > 7 then u
      else u.kvArrive ⟨h.src.toNat, tid.toNat, index, column, n, cols, poison, [], 0⟩) := by
  subst hu
  rcases hi with ⟨rfl, some_, rfl⟩ | ⟨rfl, rfl, rfl⟩
  · obtain ⟨cs, rfl⟩ := Option.isSome_iff_exists.mp some_
    obtain rfl : b = .kvWrite tid.toNat index column cs poison := hb
    exact congrArg Host.Outcome.next (State.receiveFrame_acts ha)
  · obtain rfl : b = .kvRead tid.toNat index column n := hb
    exact congrArg Host.Outcome.next (State.receiveFrame_acts ha)

end Sys2Proof.Machine
end

section
/-! PROOF. O43: the requester's side of remote accesses, and the statement (R254, R257, R447). -/

namespace Sys2Proof.Machine

/-! ## The end of a remote part (R254) -/

theorem Share.find_modified (hs : List Share) (id : Nat) {f : Share → Share} (hf : ∀ h, (f h).id = h.id) :
    (hs.map (fun h => if h.id = id then f h else h)).find? (fun h => h.id = id) = (hs.find? (fun h => h.id = id)).map f := by
  induction hs with
  | nil => rfl
  | cons h hs ih =>
    by_cases own : h.id = id
    · simp [own, hf]
    · simp [own, ih]

/-- A remote part that ends is counted off its share, and its request is gone. -/
theorem State.remoteDone_ends {s : State} {r : RemoteReq} {y : Share} (h : s.share 0 r.quad r.share = some y) :
    (s.remoteDone r).ring = { s.ring with requests := s.ring.requests.filter (fun x => decide (x.num ≠ r.num)) } ∧
      ∃ y', (s.remoteDone r).share 0 r.quad r.share = some y' ∧ y'.remote = y.remote - 1 := by
  refine ⟨rfl, { y with remote := y.remote - 1 }, ?_, rfl⟩
  unfold State.share State.remoteDone State.modShare
  rw [State.quad_modQuad_same]
  refine (Share.find_modified (s.quad r.quad).xq r.share (f := fun h => { h with remote := h.remote - 1 }) fun _ => rfl).trans ?_
  exact congrArg (Option.map fun h : Share => { h with remote := h.remote - 1 }) h

theorem State.remoteDone_frame (s : State) (r : RemoteReq) :
    s.remoteDone r = { s with quads := (s.remoteDone r).quads, ring := (s.remoteDone r).ring } := rfl

theorem State.remoteDone_staging (s : State) (r : RemoteReq) (p : Nat) :
    ((s.remoteDone r).quad p).staging = (s.quad p).staging := by
  unfold State.remoteDone State.modShare
  by_cases hp : p = r.quad
  · subst hp
    rw [State.quad_modQuad_same]
    rfl
  · rw [State.quad_modQuad_ne _ _ hp]
    rfl

theorem State.remoteDone_column (s : State) (r : RemoteReq) (c : Nat) : (s.remoteDone r).column c = s.column c := rfl

/-! ## The groups of an answer's bytes (R447) -/

theorem tget_of_mem {V : Type} (d : V) {t : Table V} (h : t.Pairwise (fun a b => a.1 < b.1)) {g : Nat × V} (hg : g ∈ t) :
    tget d t g.1 = g.2 := by
  induction t with
  | nil => exact absurd hg List.not_mem_nil
  | cons e t ih =>
    rw [List.pairwise_cons] at h
    rcases List.mem_cons.mp hg with rfl | later
    · exact if_pos rfl
    · have ne : g.1 ≠ e.1 := (h.1 g later).ne'
      exact (if_neg ne).trans (ih h.2 later)

/-- The bytes of an answer that go to a key, in the order of its moves. -/
def RemoteReq.bytesTo (r : RemoteReq) (k : Nat) : List (Nat × Nat) :=
  (r.moves.filter (fun m => 4 * m.2.key + m.2.kind = k)).map (fun m => (m.2.byte, m.1))

theorem RemoteReq.groups_spec (r : RemoteReq) : twf [] r.groups = true ∧ ∀ k, tget [] r.groups k = r.bytesTo k := by
  have grow : ∀ (ms : List (Nat × Loc)) (t : Table (List (Nat × Nat))), twf [] t = true →
      let u := ms.foldl (fun t m => tmod [] t (4 * m.2.key + m.2.kind) (fun l => l ++ [(m.2.byte, m.1)])) t
      twf [] u = true ∧ ∀ k, tget [] u k =
        tget [] t k ++ (ms.filter (fun m => 4 * m.2.key + m.2.kind = k)).map (fun m => (m.2.byte, m.1)) := by
    intro ms
    induction ms with
    | nil => exact fun t h => ⟨h, fun k => (List.append_nil _).symm⟩
    | cons m ms ih =>
      intro t h
      obtain ⟨wf, value⟩ := ih _ (twf_tmod [] t (4 * m.2.key + m.2.kind) (fun l => l ++ [(m.2.byte, m.1)]) h)
      refine ⟨wf, fun k => (value k).trans ?_⟩
      unfold tmod
      rw [tget_tset]
      by_cases here : 4 * m.2.key + m.2.kind = k
      · subst here
        simp
      · rw [if_neg (Ne.symm here)]
        simp [here]
  exact grow r.moves [] rfl

/-- A group is one column or line, and its bytes are those of the moves to it. -/
theorem RemoteReq.mem_groups {r : RemoteReq} {g : Nat × List (Nat × Nat)} (hg : g ∈ r.groups) :
    g.2 = r.bytesTo g.1 ∧ ∃ m ∈ r.moves, 4 * m.2.key + m.2.kind = g.1 := by
  obtain ⟨wf, value⟩ := r.groups_spec
  obtain ⟨rising, full⟩ := (twf_iff [] r.groups).mp wf
  have bytes : g.2 = r.bytesTo g.1 := (tget_of_mem [] rising hg).symm.trans (value g.1)
  refine ⟨bytes, ?_⟩
  obtain ⟨x, hx⟩ := List.exists_mem_of_ne_nil _ (bytes ▸ full g hg)
  obtain ⟨m, hm, -⟩ := List.mem_map.mp hx
  obtain ⟨inside, key⟩ := List.mem_filter.mp hm
  exact ⟨m, inside, of_decide_eq_true key⟩

theorem RemoteReq.group_of_move {r : RemoteReq} {m : Nat × Loc} (hm : m ∈ r.moves) :
    (4 * m.2.key + m.2.kind, r.bytesTo (4 * m.2.key + m.2.kind)) ∈ r.groups := by
  obtain ⟨-, value⟩ := r.groups_spec
  have here : (m.2.byte, m.1) ∈ r.bytesTo (4 * m.2.key + m.2.kind) :=
    List.mem_map_of_mem (f := fun m : Nat × Loc => (m.2.byte, m.1)) (List.mem_filter.mpr ⟨hm, decide_eq_true rfl⟩)
  have read := tget_eq_or_mem [] r.groups (4 * m.2.key + m.2.kind)
  rw [value] at read
  exact read.resolve_left (List.ne_nil_of_mem here)

/-! ## An answer's bytes at their destinations (R255, R447, R585) -/

/-- The place that a group's bytes go to. -/
def RemoteReq.place (r : RemoteReq) (g : Nat × List (Nat × Nat)) : Nat × Loc := (r.quad, ⟨g.1 % 4, g.1 / 4, 0⟩)

/-- The bytes of a group. -/
def groupBytes (data : Line) (g : Nat × List (Nat × Nat)) : List (Nat × Byte) := g.2.map (fun x => (x.1, byteAt data x.2))

theorem RemoteReq.groups_apart (r : RemoteReq) : r.groups.Pairwise (fun g g' => placesApart (r.place g) (r.place g')) := by
  obtain ⟨wf, -⟩ := r.groups_spec
  refine ((twf_iff [] r.groups).mp wf).1.imp fun {g g'} lt kind key => ?_
  dsimp only [RemoteReq.place] at kind key
  omega

section
variable {r : RemoteReq} (hk : ∀ m ∈ r.moves, m.2.kind ≤ 1 ∧ m.2.byte < 32)
include hk

theorem RemoteReq.group_place {g : Nat × List (Nat × Nat)} (hg : g ∈ r.groups) :
    ∃ m ∈ r.moves, g.1 % 4 = m.2.kind ∧ g.1 / 4 = m.2.key := by
  obtain ⟨-, m, hm, key⟩ := RemoteReq.mem_groups hg
  obtain ⟨kind, -⟩ := hk m hm
  exact ⟨m, hm, by omega, by omega⟩

theorem RemoteReq.group_key {m : Nat × Loc} {k : Nat} (hkey : 4 * m.2.key + m.2.kind = k) (hm : m ∈ r.moves) :
    k % 4 = m.2.kind ∧ k / 4 = m.2.key := by
  obtain ⟨kind, -⟩ := hk m hm
  omega

/-- No byte is given twice, and each is of the column. -/
theorem RemoteReq.groupBytes_keys (hn : (r.moves.map (·.2)).Nodup) (data : Line) {g : Nat × List (Nat × Nat)} (hg : g ∈ r.groups) :
    ((groupBytes data g).map (·.1)).Nodup ∧ ∀ x ∈ groupBytes data g, x.1 < 32 := by
  obtain ⟨bytes, -⟩ := RemoteReq.mem_groups hg
  have keys : (groupBytes data g).map (·.1) = (r.moves.filter (fun m => 4 * m.2.key + m.2.kind = g.1)).map (fun m => m.2.byte) := by
    unfold groupBytes
    rw [bytes, RemoteReq.bytesTo]
    simp only [List.map_map, Function.comp_def]
  refine ⟨?_, fun x hx => ?_⟩
  · rw [keys]
    refine List.pairwise_map.mpr (List.Pairwise.imp_of_mem (fun {a b} ha hb ne e => ne ?_)
      ((List.pairwise_map.mp hn).filter (fun m => 4 * m.2.key + m.2.kind = g.1)))
    obtain ⟨inA, keyA⟩ := List.mem_filter.mp ha
    obtain ⟨inB, keyB⟩ := List.mem_filter.mp hb
    obtain ⟨kindA, numA⟩ := RemoteReq.group_key hk (of_decide_eq_true keyA) inA
    obtain ⟨kindB, numB⟩ := RemoteReq.group_key hk (of_decide_eq_true keyB) inB
    change Loc.mk a.2.kind a.2.key a.2.byte = Loc.mk b.2.kind b.2.key b.2.byte
    rw [kindA.symm.trans kindB, numA.symm.trans numB, e]
  · have key : x.1 ∈ (groupBytes data g).map (·.1) := List.mem_map_of_mem hx
    rw [keys] at key
    obtain ⟨m, hm, e⟩ := List.mem_map.mp key
    exact e ▸ (hk m (List.mem_filter.mp hm).1).2

/-- A group's bytes go to its column or line. -/
theorem State.putAnswer_fills {s : State} {y : Share} (hy : s.share 0 r.quad r.share = some y)
    (hn : (r.moves.map (·.2)).Nodup) (hc : ∀ m ∈ r.moves, m.2.kind = 0 → s.Clear [m.2.key] ∧
      (s.stack (stackOf (bankOfCol m.2.key))).failed = false) (data : Line) (poison : Bool) {g : Nat × List (Nat × Nat)}
    (hg : g ∈ r.groups) :
    State.Fills (r.place g) (groupBytes data g) poison s (s.putAnswer r data poison g) := by
  obtain ⟨nodup, small⟩ := RemoteReq.groupBytes_keys hk hn data hg
  obtain ⟨m, hm, kind, key⟩ := RemoteReq.group_place hk hg
  obtain ⟨le, -⟩ := hk m hm
  unfold State.putAnswer RemoteReq.place
  rw [hy]
  dsimp only
  rw [if_neg (by omega)]
  by_cases line : g.1 % 4 = 1
  · rw [if_pos line, line]
    exact State.putLine_fills s r.quad (g.1 / 4) 0 poison nodup small
  · have bank : g.1 % 4 = 0 := by omega
    obtain ⟨clear, healthy⟩ := hc m hm (by omega)
    rw [if_neg line, bank]
    rw [← key] at clear healthy
    exact State.putColumn_fills r.quad y.ctx y.origin 0 poison nodup small clear healthy

/-- All the bytes of an answer are where their moves say, and no other byte of a column or line has changed. -/
theorem State.putAnswers_fill {u : State} {y : Share} (hy : u.share 0 r.quad r.share = some y)
    (hn : (r.moves.map (·.2)).Nodup) (hc : ∀ m ∈ r.moves, m.2.kind = 0 → u.Clear [m.2.key] ∧
      (u.stack (stackOf (bankOfCol m.2.key))).failed = false) (data : Line) (poison : Bool) :
    let t := r.groups.foldl (fun (s : State) g => s.putAnswer r data poison g) u
    u.Works t ∧ (∀ m ∈ r.moves, t.byteIn (r.quad, m.2) m.2.byte = byteAt data m.1) ∧
      ∀ kind key i, kind ≤ 1 → i < 32 → (∀ m ∈ r.moves, m.2.kind = kind → m.2.key = key → m.2.byte ≠ i) →
        t.byteIn (r.quad, ⟨kind, key, 0⟩) i = u.byteIn (r.quad, ⟨kind, key, 0⟩) i := by
  intro t
  obtain ⟨puts, values⟩ := State.foldl_puts (u := u) (place := r.place) (f := fun (s : State) g => s.putAnswer r data poison g)
    (F := fun g i old => byteOr (groupBytes data g) i old)
    (M := fun g old => if (groupBytes data g).length = 32 then poison else (poison || old)) r.groups
    (fun g hg => by
      obtain ⟨m, hm, kind, -⟩ := RemoteReq.group_place hk hg
      exact kind.trans_le (hk m hm).1)
    r.groups_apart
    (fun g hg s works => by
      have fills := State.putAnswer_fills hk ((works.share 0 _ _).trans hy) hn (fun m hm kind =>
        have ⟨clear, healthy⟩ := hc m hm kind
        ⟨works.clear clear, (works.stack _).2.2.trans healthy⟩) data poison hg
      exact ⟨fills.puts, fills.byte, fills.mark⟩) u (.refl u)
  refine ⟨puts.works, fun m hm => ?_, fun kind key i hkind hi free => ?_⟩
  · have here := RemoteReq.group_of_move hm
    have place : r.place (4 * m.2.key + m.2.kind, r.bytesTo (4 * m.2.key + m.2.kind)) = (r.quad, ⟨m.2.kind, m.2.key, 0⟩) := by
      obtain ⟨kind, key⟩ := RemoteReq.group_key hk rfl hm
      unfold RemoteReq.place
      dsimp only
      rw [kind, key]
    have value := (values _ here).1 m.2.byte (hk m hm).2
    rw [place] at value
    refine Eq.trans value (byteOr_of_mem (x := (m.2.byte, byteAt data m.1)) (RemoteReq.groupBytes_keys hk hn data here).1 ?_ _)
    exact List.mem_map_of_mem (f := fun x : Nat × Nat => (x.1, byteAt data x.2)) (a := (m.2.byte, m.1))
      (List.mem_map_of_mem (f := fun m : Nat × Loc => (m.2.byte, m.1)) (List.mem_filter.mpr ⟨hm, decide_eq_true rfl⟩))
  · by_cases target : ∃ g ∈ r.groups, g.1 = 4 * key + kind
    · obtain ⟨g, hg, e⟩ := target
      have place : r.place g = (r.quad, ⟨kind, key, 0⟩) := by
        unfold RemoteReq.place
        rw [show g.1 % 4 = kind by omega, show g.1 / 4 = key by omega]
      have value := (values g hg).1 i hi
      rw [place] at value
      refine value.trans (byteOr_of_not_mem (fun given => ?_) _)
      obtain ⟨x, hx, rfl⟩ := List.mem_map.mp given
      obtain ⟨z, hz, rfl⟩ := List.mem_map.mp hx
      rw [(RemoteReq.mem_groups hg).1] at hz
      obtain ⟨m, hm, rfl⟩ := List.mem_map.mp hz
      obtain ⟨inside, own⟩ := List.mem_filter.mp hm
      obtain ⟨kindM, keyM⟩ := RemoteReq.group_key hk (of_decide_eq_true own) inside
      exact free m inside (by omega) (by omega) rfl
    · refine (puts.kept (y := (r.quad, ⟨kind, key, 0⟩)) hkind fun x hx => ?_).1 i hi
      obtain ⟨g, hg, rfl⟩ := List.mem_map.mp hx
      intro ek ey
      dsimp only [RemoteReq.place] at ek ey
      exact absurd ⟨g, hg, by omega⟩ target

end

/-! ## Answers that go to staging alone (R585) -/

theorem State.putLine_frame (s : State) (q line : Nat) (bs : List (Nat × Byte)) (poison : Bool) :
    s.putLine q line bs poison = { s with quads := (s.putLine q line bs poison).quads } := by
  have written : ∀ t : State, t = { s with quads := t.quads } →
      bs.foldl (fun (s : State) x => s.setStage q (32 * line + x.1) [x.2]) t =
        { s with quads := (bs.foldl (fun (s : State) x => s.setStage q (32 * line + x.1) [x.2]) t).quads } :=
    State.foldl_holds (fun t : State => t = { s with quads := t.quads }) _ (fun t x h => by
      unfold State.setStage State.modQuad State.setQuad
      rw [h]) bs
  have done := written s rfl
  unfold State.putLine
  dsimp only
  split
  · unfold State.setMark State.modQuad State.setQuad
    rw [done]
  · split
    · unfold State.setMark State.modQuad State.setQuad
      rw [done]
    · exact done

theorem State.putAnswers_frame (r : RemoteReq) (data : Line) (poison : Bool) (l : List (Nat × List (Nat × Nat))) (s : State)
    (h : ∀ g ∈ l, g.1 % 4 = 1) : l.foldl (fun (s : State) g => s.putAnswer r data poison g) s =
      { s with quads := (l.foldl (fun (s : State) g => s.putAnswer r data poison g) s).quads } := by
  induction l generalizing s with
  | nil => rfl
  | cons g l ih =>
    have line := h g List.mem_cons_self
    have first : s.putAnswer r data poison g = { s with quads := (s.putAnswer r data poison g).quads } := by
      unfold State.putAnswer
      dsimp only
      split
      · rfl
      · rw [if_neg (by omega), if_pos line]
        exact State.putLine_frame s _ _ _ _
    have rest := ih (s.putAnswer r data poison g) fun x hx => h x (List.mem_cons_of_mem _ hx)
    rw [List.foldl_cons, rest, first]

end Sys2Proof.Machine
end

section
/-! PROOF. O43: the statement, from the owner's and the requester's side (R184, R185, R254, R447). -/

namespace Sys2Proof.Machine

/-! ## Answers that come (R254, R447) -/

/-- An answer is given: its bytes are put, and its part ends. -/
theorem State.giveAnswer_ends {u : State} {r : RemoteReq} {a : Line × Bool} {y : Share} (hy : u.share 0 r.quad r.share = some y)
    (works : u.Works (r.groups.foldl (fun (s : State) g => s.putAnswer r a.1 a.2 g) u)) :
    (u.giveAnswer r a).ring = { u.ring with requests := u.ring.requests.filter (fun x => decide (x.num ≠ r.num)) } ∧
      ∃ y', (u.giveAnswer r a).share 0 r.quad r.share = some y' ∧ y'.remote = y.remote - 1 := by
  obtain ⟨ring, share⟩ := State.remoteDone_ends (s := r.groups.foldl (fun (s : State) g => s.putAnswer r a.1 a.2 g) u) (r := r)
    ((works.share 0 _ _).trans hy)
  rw [works.ring] at ring
  exact ⟨ring, share⟩

section
variable {u : State} {r : RemoteReq} {a : Line × Bool} {y : Share} (hy : u.share 0 r.quad r.share = some y)
  (hn : (r.moves.map (·.2)).Nodup)
include hy hn

/-- An answer for lines of staging. -/
theorem State.giveAnswer_lines (hm : ∀ m ∈ r.moves, m.2.kind = 1 ∧ m.2.byte < 32) :
    u.Works (r.groups.foldl (fun (s : State) g => s.putAnswer r a.1 a.2 g) u) ∧
      (∀ m ∈ r.moves, tget 0 ((u.giveAnswer r a).quad r.quad).staging (32 * m.2.key + m.2.byte) = byteAt a.1 m.1) ∧
      (∀ i, (∀ m ∈ r.moves, 32 * m.2.key + m.2.byte ≠ i) →
        tget 0 ((u.giveAnswer r a).quad r.quad).staging i = tget 0 (u.quad r.quad).staging i) ∧
      u.giveAnswer r a = { u with quads := (u.giveAnswer r a).quads, ring := (u.giveAnswer r a).ring } := by
  have hk : ∀ m ∈ r.moves, m.2.kind ≤ 1 ∧ m.2.byte < 32 := fun m h => ⟨(hm m h).1.le, (hm m h).2⟩
  obtain ⟨works, given, kept⟩ := State.putAnswers_fill hk hy hn (fun m h kind => by
    rw [(hm m h).1] at kind
    cases kind) a.1 a.2
  have frame := State.putAnswers_frame r a.1 a.2 r.groups u fun g hg => by
    obtain ⟨m, h, kind, -⟩ := RemoteReq.group_place hk hg
    exact kind.trans (hm m h).1
  have line : ∀ (s : State) key i, s.byteIn (r.quad, ⟨1, key, 0⟩) i = tget 0 (s.quad r.quad).staging (32 * key + i) :=
    fun _ _ _ => if_pos rfl
  refine ⟨works, fun m h => ?_, fun i free => ?_, ?_⟩
  · refine Eq.trans ?_ (given m h)
    unfold State.giveAnswer State.byteIn
    rw [State.remoteDone_staging, if_pos (hm m h).1]
  · have same := kept 1 (i / 32) (i % 32) le_rfl (Nat.mod_lt _ (by decide)) fun m h _ key byte => free m h (by omega)
    rw [line, line, Nat.div_add_mod] at same
    unfold State.giveAnswer
    rw [State.remoteDone_staging]
    exact same
  · unfold State.giveAnswer
    rw [frame]
    rfl

/-- An answer for columns of banks. -/
theorem State.giveAnswer_columns (hi : u.Idle) (hm : ∀ m ∈ r.moves, m.2.kind = 0 ∧ m.2.byte < 32 ∧
      (u.stack (stackOf (bankOfCol m.2.key))).failed = false) :
    u.Works (r.groups.foldl (fun (s : State) g => s.putAnswer r a.1 a.2 g) u) ∧
      (∀ m ∈ r.moves, byteAt ((u.giveAnswer r a).column m.2.key).data m.2.byte = byteAt a.1 m.1) ∧
      ∀ k i, i < 32 → (∀ m ∈ r.moves, m.2.key ≠ k ∨ m.2.byte ≠ i) →
        byteAt ((u.giveAnswer r a).column k).data i = byteAt (u.column k).data i := by
  obtain ⟨works, given, kept⟩ := State.putAnswers_fill (fun m h => ⟨(hm m h).1.trans_le (Nat.zero_le 1), (hm m h).2.1⟩) hy hn
    (fun m h _ => ⟨hi.clear _, (hm m h).2.2⟩) a.1 a.2
  refine ⟨works, fun m h => ?_, fun k i small free => ?_⟩
  · refine Eq.trans ?_ (given m h)
    unfold State.giveAnswer State.byteIn
    rw [State.remoteDone_column, if_neg]
    dsimp only
    rw [(hm m h).1]
    exact Nat.zero_ne_one
  · unfold State.giveAnswer
    rw [State.remoteDone_column]
    exact kept 0 k i (Nat.zero_le 1) small fun m h _ key byte => (free m h).elim (fun ne => ne key) fun ne => ne byte

end

/-! ## The statement -/

section
variable {h : FrameHead} {tid : BitVec 16} {index column : Nat} {s : State}

theorem exec_kvData {cols : Option (List Line)} {poison : Bool} (ha : s.actsHere h (.kvData tid.toNat index column cols poison)) :
    exec (.kvData h tid index column cols poison) s =
      .next ((s.reached h (.kvData tid.toNat index column cols poison)).kvDataFrame h.src.toNat tid.toNat index column cols poison) :=
  congrArg Host.Outcome.next (State.receiveFrame_acts ha)

theorem exec_kvAck (ha : s.actsHere h (.kvAck tid.toNat index column)) : exec (.kvAck h tid index column) s =
    .next ((s.reached h (.kvAck tid.toNat index column)).kvAckFrame h.src.toNat tid.toNat index column) :=
  congrArg Host.Outcome.next (State.receiveFrame_acts ha)

end

/-- The request that an answer with data is for. -/
def RemoteReq.awaitsData (src tid index column : Nat) (r : RemoteReq) : Bool :=
  !r.write && r.answered.isNone && r.module == src && r.tid == tid && r.index == index && r.column == column

/-- The request that an acknowledgement is for. -/
def RemoteReq.awaitsAck (src tid index column : Nat) (r : RemoteReq) : Bool :=
  r.write && r.need == 0 && r.module == src && r.tid == tid && r.index == index && r.column == column

/-- What an answer holds: an absent column is its pad (R224). -/
def RemoteReq.dataOf (r : RemoteReq) (cols : Option (List Line)) : Line :=
  match cols with
  | some (l :: _) => l
  | _ => r.pad

section
variable {u : State} {src tid index column : Nat}

theorem State.kvDataFrame_eq (cols : Option (List Line)) (poison : Bool) : u.kvDataFrame src tid index column cols poison =
    (u.ring.requests.find? (RemoteReq.awaitsData src tid index column)).elim u (fun r =>
      if u.reachAll r.cols then u.giveAnswer r (r.dataOf cols, poison && cols.isSome)
      else { u with ring := { u.ring with requests := u.ring.requests.map (fun x =>
        if x.num = r.num then { x with answered := some (r.dataOf cols, poison && cols.isSome) } else x) } }) := by
  unfold State.kvDataFrame RemoteReq.awaitsData
  cases u.ring.requests.find? _ <;> rfl

theorem State.kvAckFrame_eq : u.kvAckFrame src tid index column =
    (u.ring.requests.find? (RemoteReq.awaitsAck src tid index column)).elim u u.remoteDone := by
  unfold State.kvAckFrame RemoteReq.awaitsAck
  cases u.ring.requests.find? _ <;> rfl

theorem State.kvDataFrame_unasked {cols : Option (List Line)} {poison : Bool}
    (hr : u.ring.requests.find? (RemoteReq.awaitsData src tid index column) = none) :
    u.kvDataFrame src tid index column cols poison = u := by
  rw [State.kvDataFrame_eq, hr]
  rfl

theorem State.kvDataFrame_asked {cols : Option (List Line)} {poison : Bool} {r : RemoteReq}
    (hr : u.ring.requests.find? (RemoteReq.awaitsData src tid index column) = some r) :
    u.kvDataFrame src tid index column cols poison =
      if u.reachAll r.cols then u.giveAnswer r (r.dataOf cols, poison && cols.isSome)
      else { u with ring := { u.ring with requests := u.ring.requests.map (fun x =>
        if x.num = r.num then { x with answered := some (r.dataOf cols, poison && cols.isSome) } else x) } } := by
  rw [State.kvDataFrame_eq, hr]
  rfl

theorem State.kvAckFrame_unasked (hr : u.ring.requests.find? (RemoteReq.awaitsAck src tid index column) = none) :
    u.kvAckFrame src tid index column = u := by
  rw [State.kvAckFrame_eq, hr]
  rfl

theorem State.kvAckFrame_asked {r : RemoteReq} (hr : u.ring.requests.find? (RemoteReq.awaitsAck src tid index column) = some r) :
    u.kvAckFrame src tid index column = u.remoteDone r := by
  rw [State.kvAckFrame_eq, hr]
  rfl

end

end Sys2Proof.Machine
end

section
/-! PROOF. O43, assembled from the two sides. -/

namespace Sys2Proof.Machine

theorem State.Works.outside {s t : State} (h : s.Works t) :
    t.boot = s.boot ∧ t.clk = s.clk ∧ t.pow = s.pow ∧ t.therm = s.therm ∧ t.cfgs = s.cfgs ∧ t.sec = s.sec := by
  rw [h.frame]
  exact ⟨rfl, rfl, rfl, rfl, rfl, rfl⟩

theorem State.kvReady_unknown {s : State} {w : KvWait} (h : s.tidDesc w.tid = none) : s.kvReady w = true := by
  unfold State.kvReady
  rw [h]

/-- The places of bank columns of an access are in the quadrants of their banks. -/
theorem KvWait.spots_quad {s : State} {w : KvWait} {c : Nat} {d : Desc} {x : Nat × Loc} (hx : x ∈ w.spots s c d) (hk : x.2.kind ≠ 1) :
    x.1 = quadOf (bankOfCol x.2.key) := by
  obtain ⟨p, hp, inside⟩ := List.mem_flatMap.mp hx
  obtain ⟨j, -, rfl⟩ := List.mem_map.mp hp
  cases hl : s.kvPlaces c d w.index (w.column + j) w.cols.isSome with
  | none =>
    rw [hl] at inside
    exact absurd inside List.not_mem_nil
  | some l =>
    rw [hl] at inside
    exact State.kvPlaces_quad hl inside hk

theorem State.kvCounted_spots (s : State) (ls : List (Nat × Loc)) (w : KvWait) (c : Nat) (d : Desc) :
    w.spots (s.kvCounted ls) c d = w.spots s c d := by
  unfold KvWait.spots
  rw [s.kvCounted_places]

/-- None is absent, and one is poisoned. -/
theorem present_and_any_iff {α : Type} (ps : List (Option α)) (f : Option α → Bool) :
    (!ps.any (·.isNone) && ps.any f) = true ↔ none ∉ ps ∧ ∃ p ∈ ps, f p = true := by
  have absent : ps.any (·.isNone) = true ↔ none ∈ ps := by simp
  rw [Bool.and_eq_true, Bool.not_eq_true', ← Bool.not_eq_true, absent, List.any_eq_true]

/-- Settles O43: an access's frame by what its arrival does, then by the columns it reads or the places it writes; an answer's frame by
the groups of its bytes and the end of its part. -/
theorem remoteColumnsAreServed : Obligations.RemoteColumnsAreServed := by
  intro h tid index column s idle
  refine ⟨?_, ?_, ?_⟩
  · intro i cols n poison hi b answer u0 counted acts
    have arrives := exec_kvFrame (rfl : u0 = _) (rfl : b = _) hi acts
    have count : ∀ cs, cols = some cs → n = cs.length := fun cs hc => by
      rcases hi with ⟨-, -, hn⟩ | ⟨-, hn, -⟩
      · rw [hn, hc]; rfl
      · rw [hn] at hc; cases hc
    clear_value u0
    have enters : u0.outOfRing = false → n ≤ 7 →
        exec i s = .next (u0.kvArrive ⟨h.src.toNat, tid.toNat, index, column, n, cols, poison, [], 0⟩) := fun hr hn => by
      have taken : ¬ (u0.outOfRing = true ∨ n > 7) := by
        simpa [hr] using hn
      exact arrives.trans (congrArg Host.Outcome.next (if_neg taken))
    refine ⟨fun hout => arrives.trans (congrArg Host.Outcome.next (if_pos hout)), fun hr hn hd => ?_, ?_⟩
    · refine (enters hr hn).trans (congrArg Host.Outcome.next ?_)
      rw [State.kvArrive_unknown hd, if_pos (State.kvReady_unknown ((u0.kvCounted_tidDesc [] _).trans hd)),
        State.kvServe_unknown tid.isLt ((u0.kvCounted_tidDesc [] _).trans hd)]
      rfl
    · intro c d hr hn hd ps ls u w at_ lead
      have known : exec i s = .next (if u.kvReady w then u.kvServe w
          else { u with ring := { u.ring with kvWait := u.ring.kvWait ++ [w] } }) :=
        (enters hr hn).trans (congrArg Host.Outcome.next (State.kvArrive_known hd (rfl : _ = ls)))
      refine ⟨fun waits => known.trans (congrArg Host.Outcome.next (if_neg (by simp [waits]))), fun ready free healthy nodup kinds => ?_⟩
      have serves : exec i s = .next (u.kvServe w) := known.trans (congrArg Host.Outcome.next (if_pos ready))
      have du : u.tidDesc w.tid = some (c, d) := (u0.kvCounted_tidDesc ls _).trans hd
      have pu : w.places u c d = ps := u0.kvCounted_places ls w c d
      have iu : u.Idle := State.Idle.kvCounted ls free
      have firsts : ∀ p : Option (List (Nat × Loc)), u.firstAt (p.getD []) = lead p := fun p => u0.kvCounted_firstAt ls _
      have mem : u.mem = u0.mem := u0.kvCounted_keeps_mem ls
      have quad : ∀ p, u.quad p = u0.quad p := u0.kvCounted_quad ls
      by_cases read : cols = none
      · obtain ⟨v, bad, served, poisoned, reads⟩ := State.kvServe_read tid.isLt du read iu
        rw [pu] at served poisoned
        simp only [firsts] at served poisoned
        obtain ⟨boot, clk, pow, therm, cfgs, sec⟩ := reads.works.outside
        refine ⟨v, bad, serves.trans (congrArg Host.Outcome.next served), poisoned, fun _ => ⟨reads.mem.trans mem, fun p => ?_⟩,
          boot, clk, pow, therm, cfgs, sec, fun cs hc => absurd (read.symm.trans hc) (by simp)⟩
        rw [← quad]
        exact reads.lines p
      · obtain ⟨cs, write⟩ := Option.ne_none_iff_exists'.mp read
        have spots : w.spots u c d = ls := u0.kvCounted_spots ls w c d
        obtain ⟨v, served, puts, values⟩ := State.kvServe_write tid.isLt du write (count cs write) iu spots
          (fun x hx bank => (congrArg Stack.failed (u0.kvCounted_stack ls _)).trans (healthy x hx bank)) kinds
          (placesApart_of_nodup nodup fun x hx bank => KvWait.spots_quad (w := w) (s := u0) hx bank)
        obtain ⟨boot, clk, pow, therm, cfgs, sec⟩ := puts.works.outside
        refine ⟨v, !ps.any (·.isNone) && ps.any (fun p => (lead p).2), serves.trans (congrArg Host.Outcome.next (served _ _)), ?_,
          fun none => absurd none read, boot, clk, pow, therm, cfgs, sec, fun cs' hc => ?_⟩
        · exact present_and_any_iff ps (fun p => (lead p).2)
        · obtain rfl : cs = cs' := Option.some.inj (write.symm.trans hc)
          refine ⟨fun j l hj x hx => ?_, fun k hk => (puts.raw k hk).trans (by rw [mem]),
            fun p a ha => (puts.bytes p a ha).trans (by rw [quad])⟩
          obtain ⟨bytes, mark⟩ := values j l (pu.symm ▸ hj) x hx
          have before : u.valueAt x = u0.valueAt x := u0.kvCounted_valueAt ls x
          refine ⟨fun i hi => ?_, ?_⟩
          · refine (v.byteAt_valueAt x hi).trans ((bytes i hi).trans ?_)
            rw [← u.byteAt_valueAt x hi, before]
            rfl
          · refine (v.valueAt_mark x).trans (mark.trans ?_)
            rw [← u.valueAt_mark x, before]
            rfl
  · intro cols poison u mine acts
    have comes := exec_kvData acts
    change exec _ s = .next (u.kvDataFrame _ _ _ _ _ _) at comes
    clear_value u
    refine ⟨fun none => comes.trans (congrArg Host.Outcome.next (State.kvDataFrame_unasked none)), fun r hr => ?_⟩
    intro data ended
    have asked := comes.trans (congrArg Host.Outcome.next (State.kvDataFrame_asked hr))
    refine ⟨fun far => asked.trans (congrArg Host.Outcome.next (if_neg (by simp [far]))), fun y near hy hn => ?_⟩
    have given := asked.trans (congrArg Host.Outcome.next (if_pos near))
    refine ⟨fun hm => ?_, fun free hm => ?_⟩
    · obtain ⟨works, bytes, others, frame⟩ := State.giveAnswer_lines (a := (data, poison && cols.isSome)) hy hn hm
      exact ⟨_, given, State.giveAnswer_ends hy works, bytes, others, frame⟩
    · obtain ⟨works, bytes, others⟩ := State.giveAnswer_columns (a := (data, poison && cols.isSome)) hy hn free hm
      exact ⟨_, given, State.giveAnswer_ends hy works, bytes, others⟩
  · intro u mine acts
    have comes := exec_kvAck acts
    change exec _ s = .next (u.kvAckFrame _ _ _ _) at comes
    clear_value u
    refine ⟨fun none => comes.trans (congrArg Host.Outcome.next (State.kvAckFrame_unasked none)), fun r y hr hy => ?_⟩
    obtain ⟨ring, share⟩ := State.remoteDone_ends hy
    exact ⟨_, comes.trans (congrArg Host.Outcome.next (State.kvAckFrame_asked hr)), ring, share, u.remoteDone_frame r⟩

end Sys2Proof.Machine
end
